-- ==== Sys2Proof/Word.lean ====
section
/-! DEFINITION. The 32-bit word of registers, mailboxes and objects (R1: little-endian, bit 0 least significant), and the byte of host memory. -/

namespace Sys2Proof

/-- One 32-bit word of a register, a mailbox message or a Meoner object (R1). -/
abbrev Word := BitVec 32

/-- One byte of host memory. -/
abbrev Byte := BitVec 8

end Sys2Proof
end

