-- ==== Sys2Proof/Machine/Util.lean ====
section
/-! DEFINITION. Bit fields, sign extension, saturation, lists by index and sparse maps: the plain helpers of every family. -/

namespace Sys2Proof.Machine

/-- Bits hi down to lo of a number. -/
def bits (n hi lo : Nat) : Nat := (n >>> lo) % 2 ^ (hi + 1 - lo)

/-- One bit of a number. -/
def bit (n i : Nat) : Bool := n.testBit i

def b2n (b : Bool) : Nat := if b then 1 else 0

/-- A number with bit i set or cleared. -/
def setBit (n i : Nat) (b : Bool) : Nat := if b then n ||| 2 ^ i else n - (if n.testBit i then 2 ^ i else 0)

/-- The bits of a that are not in b. -/
def maskAndNot (a b : Nat) : Nat := a - (a &&& b)

/-- Addition that saturates at top ("saturating" counters of the field maps). -/
def satAdd (top n k : Nat) : Nat := min top (n + k)

def sat8 (n : Nat) : Nat := satAdd 255 n 1
def sat16 (n : Nat) : Nat := satAdd 65535 n 1
def sat32 (n : Nat) : Nat := satAdd 4294967295 n 1
def sat48 (n : Nat) : Nat := satAdd 281474976710655 n 1
def wrap16 (n : Nat) : Nat := n % 65536
def wrap32 (n : Nat) : Nat := n % 4294967296

/-- The two's complement value of the low w bits. -/
def toS (w n : Nat) : Int :=
  let m := n % 2 ^ w
  if m < 2 ^ (w - 1) then (m : Int) else (m : Int) - (2 ^ w : Nat)

/-- The low w bits that hold a signed number. -/
def ofS (w : Nat) (i : Int) : Nat := (i % ((2 ^ w : Nat) : Int)).toNat

/-- A signed number kept in w bits, wrapping. -/
def wrapS (w : Nat) (i : Int) : Int := toS w (ofS w i)

def clampI (lo hi i : Int) : Int := max lo (min hi i)
def clampN (lo hi i : Nat) : Nat := max lo (min hi i)

/-- Item i of a list, with a value for a place that the list does not have. -/
def at' {α : Type} (l : List α) (i : Nat) (d : α) : α := l.getD i d

/-- A list with item i changed by f (no change beyond its end). -/
def upd {α : Type} (l : List α) (i : Nat) (f : α → α) : List α :=
  match l, i with
  | [], _ => []
  | x :: xs, 0 => f x :: xs
  | x :: xs, i + 1 => x :: upd xs i f

/-- A list with item i replaced. -/
def put {α : Type} (l : List α) (i : Nat) (v : α) : List α := upd l i (fun _ => v)

/-- A list with f applied to every item together with its index, from index i on. -/
def mapFrom {α β : Type} (i : Nat) (f : Nat → α → β) : List α → List β
  | [] => []
  | x :: xs => f i x :: mapFrom (i + 1) f xs

def mapIx {α β : Type} (f : Nat → α → β) (l : List α) : List β := mapFrom 0 f l

def countIf {α : Type} (p : α → Bool) (l : List α) : Nat := (l.filter p).length

/-- The number whose bit i is item i of the list. -/
def packBits : List Bool → Nat
  | [] => 0
  | b :: bs => b2n b + 2 * packBits bs

/-- Indices below n whose bit is set in the mask, ascending. -/
def maskIx (mask n : Nat) : List Nat := (List.range n).filter (fun i => mask.testBit i)

/-- Apply f for each item of a list in order. -/
def each {α σ : Type} (l : List α) (f : α → σ → σ) (s : σ) : σ := l.foldl (fun s x => f x s) s

/-- A map from numbers to values, held as a list with strictly rising keys in which no listed value is the default d. -/
abbrev Sparse (α : Type) := List (Nat × α)

/-- The value at a key: the default where the key is not listed. -/
def Sparse.get {α : Type} (d : α) : Sparse α → Nat → α
  | [], _ => d
  | (k, v) :: m, a => if k = a then v else Sparse.get d m a

/-- The map with one value changed; the canonical form is kept. -/
def Sparse.set {α : Type} [DecidableEq α] (d : α) : Sparse α → Nat → α → Sparse α
  | [], a, x => if x = d then [] else [(a, x)]
  | (k, v) :: m, a, x =>
    if a < k then (if x = d then (k, v) :: m else (a, x) :: (k, v) :: m)
    else if a = k then (if x = d then m else (k, x) :: m)
    else (k, v) :: Sparse.set d m a x

/-- Every key is above the bound, the keys rise strictly, and no listed value is the default. -/
def Sparse.wfFrom {α : Type} [DecidableEq α] (d : α) : Option Nat → Sparse α → Bool
  | _, [] => true
  | b, (k, v) :: m => (match b with | none => true | some n => decide (n < k)) && decide (v ≠ d) && Sparse.wfFrom d (some k) m

/-- The canonical form of a sparse map. -/
def Sparse.wf {α : Type} [DecidableEq α] (d : α) (m : Sparse α) : Bool := Sparse.wfFrom d none m

/-- The value of an association list whose keys are few and need no order. -/
def lookupD {α : Type} (d : α) (m : List (Nat × α)) (k : Nat) : α := Sparse.get d m k

/-- The words of a number, w of them, least significant first. -/
def wordsOfNat (w n : Nat) : List Word := (List.range w).map (fun i => BitVec.ofNat 32 (n >>> (32 * i)))

/-- The number that words hold, least significant first. -/
def natOfWords : List Word → Nat
  | [] => 0
  | w :: ws => w.toNat + 4294967296 * natOfWords ws

/-- Bits of a word list: wid bits (up to 96) from bit off of word 0. -/
def getBits (ws : List Word) (off wid : Nat) : Nat :=
  let w := off / 32
  let n := (ws.getD w 0).toNat + 4294967296 * ((ws.getD (w + 1) 0).toNat + 4294967296 * (ws.getD (w + 2) 0).toNat)
  (n >>> (off % 32)) % 2 ^ wid

/-- A word list with wid bits from bit off on replaced by v. -/
def setBits (ws : List Word) (off wid v : Nat) : List Word :=
  let n := natOfWords ws
  let old := (n >>> off) % 2 ^ wid
  wordsOfNat ws.length (n - old * 2 ^ off + (v % 2 ^ wid) * 2 ^ off)

/-- Rounding to the nearest integer, ties to the even one. -/
def roundEven (q : Rat) : Int :=
  let f := q.floor
  let r := q - f
  if r < 1 / 2 then f else if 1 / 2 < r then f + 1 else if f % 2 = 0 then f else f + 1

/-- Rounding to the nearest integer, halves away from zero. -/
def roundAway (q : Rat) : Int := if 0 ≤ q then (q + 1 / 2).floor else -((-q + 1 / 2).floor)

/-- The bytes of a word, little-endian (R1). -/
def bytesOfWord (w : Word) : List Byte :=
  [w.setWidth 8, (w >>> 8).setWidth 8, (w >>> 16).setWidth 8, (w >>> 24).setWidth 8]

/-- A number's n bytes, little-endian (R1). -/
def bytesOfNat (n v : Nat) : List Byte := (List.range n).map (fun i => BitVec.ofNat 8 (v >>> (8 * i)))

/-! CRC-32C (R283). -/

def crcBits : Nat → BitVec 32 → BitVec 32
  | 0, c => c
  | n + 1, c => crcBits n (if c.getLsbD 0 then (c >>> 1) ^^^ 0x82F63B78#32 else c >>> 1)

def crcByte (c : BitVec 32) (b : Byte) : BitVec 32 := crcBits 8 (c ^^^ b.setWidth 32)

/-- CRC-32C of bytes: polynomial 0x1EDC6F41, reflected, initial value and final exclusive-or 0xFFFFFFFF. -/
def crc32c (bs : List Byte) : BitVec 32 := bs.foldl crcByte 0xFFFFFFFF#32 ^^^ 0xFFFFFFFF#32

def crcWords (ws : List Word) : Word := crc32c (ws.flatMap bytesOfWord)

/-- CRC-8 with polynomial 0x07 and initial value 0 over bytes, each most significant bit first (R27, R385). -/
def crc8Bits : Nat → Nat → Nat
  | 0, c => c
  | n + 1, c => crc8Bits n (if 128 ≤ c then ((2 * c) % 256) ^^^ 7 else 2 * c)
def crc8 (bs : List Nat) : Nat := bs.foldl (fun c b => crc8Bits 8 (c ^^^ (b % 256))) 0

/-- Rounding of a quotient to the nearest integer, halves upward. -/
def divRound (n d : Nat) : Nat := if d = 0 then 0 else (2 * n + d) / (2 * d)

/-- The integer square root, rounded down (as Mathlib's Nat.sqrt, by structural recursion on fuel so that it evaluates). -/
def isqrtFrom : Nat → Nat → Nat → Nat
  | 0, _, r => r
  | b + 1, n, r => let r' := r + 2 ^ b; if r' * r' ≤ n then isqrtFrom b n r' else isqrtFrom b n r
def isqrt (n : Nat) : Nat := isqrtFrom 80 n 0

/-- The greatest number of b bits, built from its top bit down, that satisfies a downward-closed test. -/
def maxSat : Nat → (Nat → Bool) → Nat → Nat
  | 0, _, r => r
  | b + 1, p, r => if p (r + 2 ^ b) then maxSat b p (r + 2 ^ b) else maxSat b p r

/-- The 750 MHz cycle of an instant. -/
def cycle750 (t : Nat) : Nat := t * 3 / 64

end Sys2Proof.Machine
end

