-- ==== Sys2Proof/Machine/Record.lean ====
section
/-! DEFINITION. A record of the serial NOR device that is kept in two slots: the calibration store (R115 to R117) and the slot state record
(R486), which differ in MAGIC and body. -/

namespace Sys2Proof.Machine

/-- A slot of such a record (R115, Table 5.3): the fields of its header, and the words of its body as far as they are programmed. An erased slot
reads 0xFF in every byte. -/
structure CalRec where
  magic : Nat := 0xFFFFFFFF
  format : Nat := 0xFFFF
  seq : Nat := 0xFFFFFFFF
  bodyLen : Nat := 0xFFFFFFFF
  bodyCrc : Nat := 0xFFFFFFFF
  hdrCrc : Nat := 0xFFFFFFFF
  body : List Word := []
deriving DecidableEq, Repr

/-- The bytes of a slot header before HDR_CRC (Table 5.3). -/
def hdrBytes (r : CalRec) : List Byte :=
  bytesOfNat 4 r.magic ++ bytesOfNat 2 r.format ++ bytesOfNat 2 0 ++ bytesOfNat 4 r.seq ++ bytesOfNat 4 r.bodyLen ++ bytesOfNat 4 r.bodyCrc ++
    List.replicate 40 0xFF#8

/-- The CRC-32C of a slot's body; bytes that are not programmed read 0xFF. -/
def bodyCrcOf (r : CalRec) : Nat :=
  let bs := (r.body.flatMap bytesOfWord).take r.bodyLen
  (crc32c (bs ++ List.replicate (r.bodyLen - bs.length) 0xFF#8)).toNat

/-- A slot with a MAGIC is valid (R117); most: the longest body that the slot holds. -/
def recValid (magic most : Nat) (r : CalRec) : Bool :=
  r.magic == magic && r.format == 1 && r.hdrCrc == (crc32c (hdrBytes r)).toNat && decide (1 ≤ r.bodyLen ∧ r.bodyLen ≤ most) &&
    r.bodyCrc == bodyCrcOf r

/-- A record as it is programmed, with its two CRCs (R115). -/
def recSealed (magic seq bodyLen : Nat) (body : List Word) : CalRec :=
  let r : CalRec := { magic, format := 1, seq, bodyLen, body }
  let r := { r with bodyCrc := bodyCrcOf r }
  { r with hdrCrc := (crc32c (hdrBytes r)).toNat }

/-- The newest of two slots, by whether each is valid and its SEQ: 0 or 1 (R117). -/
def recNewest (a b : CalRec) (va vb : Bool) : Option Nat :=
  match va, vb with
  | true, true => if toS 32 (a.seq + 4294967296 - b.seq) < 0 then some 1 else some 0
  | true, false => some 0
  | false, true => some 1
  | false, false => none

/-- The slot that the next write of a record takes, and its SEQ (R116). -/
def recNext (a b : CalRec) (newest : Option Nat) : Nat × Nat :=
  match newest with
  | some s => (1 - s, ((if s = 1 then b else a).seq + 1) % 4294967296)
  | none => (0, 1)

end Sys2Proof.Machine
end

