-- ==== Sys2Proof/Machine/Unit/Control.lean ====
section
/-! DEFINITION. State of the control side: interrupt controller and Taproot (chapter 18), mailboxes (13), Meoner sessions and tags (14),
power manager (20) and security (21). Every field's default value is its value at reset. -/

namespace Sys2Proof.Machine

/-- Source state of the interrupt controller, IC_STATE[n] (R419, R426). -/
structure IcSrc where
  pending : Bool := false
  active : Bool := false
  input : Bool := false
  claimant : Nat := 0
  arrivals : Nat := 0
deriving DecidableEq, Repr

/-- What a controller cycle can hold (R424): a write of IC_CFG[n] or of IC_GCTL (with TAP_EVENT), a write of IC_COMPLETE_t, the reset of the
domain of target t, an input that takes a level, and a read of IC_CLAIM_t. -/
inductive IcEv where
  | cfg (n v : Nat)
  | gctl (v events : Nat)
  | complete (t n : Nat)
  | drop (t : Nat)
  | clearBad
  | input (n : Nat) (v : Bool)
  | claim (t : Nat)
deriving DecidableEq, Repr

/-- The controller as it stood before the cycle in progress, and its outputs then (R421, R424). -/
structure IcBase where
  cfg : Sparse Nat := []
  st : Sparse IcSrc := []
  out : Nat := 0
  deliver : Bool := false
  slpKind : Bool := false
  badComplete : Nat := 0
  lastClaim : List Nat := [0, 0, 0, 0, 0]
  fromTap : Bool := false
deriving DecidableEq, Repr

/-- The interrupt controller (R415 to R428): IC_CFG words, source states, IC_GCTL, IC_BADCPL, IC_SLEEP, and what each target's last claim
returned. evAt, evs and base: the instant of the cycle in progress, its events in the order of R424, and what stood before it (assumption
log 2: one cycle is one instant). -/
structure Ic where
  cfg : Sparse Nat := []
  st : Sparse IcSrc := []
  deliver : Bool := false
  slpKind : Bool := false
  badComplete : Nat := 0
  slpResult : Nat := 0
  lastClaim : List Nat := [0, 0, 0, 0, 0]
  fromTap : Bool := false
  evAt : Nat := 0
  evs : List IcEv := []
  base : IcBase := {}
deriving DecidableEq, Repr

/-- Where a sleep stands (R428, R431). -/
inductive SleepPhase where
  | awake | saving | committed
deriving DecidableEq, Repr

/-- Taproot (R429 to R431). fired: an input has fired since it was armed; woke: a wake source of retention SLEEP has fired since the sleep was
requested (R432, R433). -/
structure Tap where
  watch : Nat := 1
  sense0 : Nat := 0x55555555
  sense1 : Nat := 0x55555555
  event : Nat := 0
  first : Nat := 0
  firstTime : Nat := 0
  timer : Nat := 0
  input : Nat := 0
  armed : Bool := false
  fired : Bool := false
  woke : Bool := false
  phase : SleepPhase := .awake
deriving DecidableEq, Repr

/-- One mailbox, host or internal (R304, R305, R317). goAt, doneAt, lostAt: the instants of its last GO, DONE and discard; tmoAt: that of its last
time-out, with TMO_COUNT before it (R316, R325); sess: the session whose completion the message is (R327). -/
structure Mbox where
  words : List Word := List.replicate 16 0
  posted : Bool := false
  discarded : Bool := false
  overrun : Bool := false
  tmo : Bool := false
  tmoSpent : Bool := false
  tmoLimit : Nat := 1000
  sender : Nat := 0
  receiver : Nat := 0
  postEpoch : Nat := 0
  tmoUs : Nat := 1000
  goAt : Nat := 0
  doneAt : Option Nat := none
  lostAt : Option Nat := none
  tmoAt : Option (Nat × Nat) := none
  sess : Option Nat := none
deriving DecidableEq, Repr

/-- The internal mailboxes as the firmware allocates them (Table 13.8). -/
def mbiReset : List Mbox :=
  [{ sender := 0, receiver := 4 }, { sender := 1, receiver := 4 }, { sender := 2, receiver := 4 }, { sender := 3, receiver := 4 },
   { sender := 4, receiver := 0 }, { sender := 4, receiver := 1 }, { sender := 4, receiver := 2 }, { sender := 4, receiver := 3 },
   { sender := 0, receiver := 3 }, { sender := 3, receiver := 0 }, { sender := 1, receiver := 3 }, { sender := 3, receiver := 1 },
   { sender := 2, receiver := 3 }, { sender := 3, receiver := 2 }, { sender := 0, receiver := 1 }, { sender := 1, receiver := 2 }]

/-- The host-side endpoint number used for the host beside the cores (0 to 3) and Distaff (4). -/
def hostEnd : Nat := 5

/-- Mailboxes, status region, epochs and event registers (R303 to R320). held: for a core whose mailboxes a sibling holds, those mailboxes (R315,
R525), each with its side (true: sender). resetAt: the instant of each endpoint's last domain reset; fresh: the last instant that set event bits,
with those bits and whether each rose (R308, R316, R318). -/
structure Mbx where
  h2d : List Mbox := List.replicate 8 { sender := 5, receiver := 0 }
  d2h : List Mbox := List.replicate 8 { sender := 0, receiver := 5 }
  mbi : List Mbox := mbiReset
  h2dEmptied : Nat := 0
  d2hArrived : Nat := 0
  emptyVec : Nat := 0
  arriveVec : Nat := 0
  evtEn : Bool := false
  mbxTmo : Nat := 1000
  cpyEpoch : List Nat := [0, 0, 0, 0]
  secEpoch : Nat := 0
  tmoCount : Nat := 0
  overrunCount : Nat := 0
  d2hAck : Nat := 0
  held : List (Nat × List (Nat × Bool)) := []
  mbiArrived : List Nat := [0, 0, 0, 0, 0]
  mbiEmptied : List Nat := [0, 0, 0, 0, 0]
  resetAt : List (Option Nat) := [none, none, none, none, none, none]
  fresh : Nat × List (Nat × Bool) := (0, [])
deriving DecidableEq, Repr

/-- The command a completion answers: mailbox, tag, opcode and the number of its session (R322, R324, R327). -/
structure Who where
  mbx : Nat
  tag : Nat
  op : Nat
  sess : Nat
deriving DecidableEq, Repr

/-- An outstanding tag (R324). -/
structure TagRec where
  who : Who
  deferred : Bool := false
deriving DecidableEq, Repr

/-- A command taken from its mailbox and not yet started (R325); at_: the instant at which it was taken (R407). -/
structure Taken where
  who : Who
  arg : Nat
  len : Nat
  pay : List Word
  at_ : Nat := 0
deriving DecidableEq, Repr

/-- An event (Table 14.7). -/
structure Evt where
  code : Nat
  domain : Nat
  status : Nat
  seq : Nat
  source : Nat
  line : Option Nat
  detail : List Nat
deriving DecidableEq, Repr

/-- The Meoner firmware's state on core 0 (R321 to R336). out: the messages that wait, each with its D2H mailbox and the session whose completion it
is; extOld: deferred EXT_CMDs of the session that ended last (R327). -/
structure Mnr where
  open_ : Bool := false
  eventMbx : Nat := 0
  openEpoch : Nat := 0
  sess : Nat := 0
  tags : List TagRec := []
  taken : List Taken := []
  dupTags : Nat := 0
  events : List Evt := []
  evtLost : Nat := 0
  lostSince : Nat := 0
  seq : Nat := 0
  out : List (Nat × List Word × Option Nat) := []
  extOld : List Who := []
  logEpoch : Nat := 0
  logSess : Nat := 0
  logged : Bool := false
  log : Sparse Nat := []
deriving DecidableEq, Repr

/-- The eight modes (Table 0.3, R6). -/
inductive Mode where
  | reset | boot | calibrate | ready | scan | hold | safe | sleep
deriving DecidableEq, Repr

/-- The mode code of Table 0.3. -/
def Mode.code : Mode → Nat
  | .reset => 0 | .boot => 1 | .calibrate => 2 | .ready => 3 | .scan => 4 | .hold => 5 | .safe => 6 | .sleep => 7

/-- A standing fault (Table 20.13). -/
structure FaultRec where
  cls : Nat
  domain : Nat
  action : Nat
  source : Nat
  line : Option Nat
  ts : Nat
deriving DecidableEq, Repr

/-- A mode transition in progress (R473, R527). -/
inductive Trans where
  | none
  | toReady (who : Option Who) (scanDone : Bool)
  | toSafe (who : Option Who)
deriving DecidableEq, Repr

/-- A commanded domain reset in progress: the domains that do not run yet (R478). -/
structure DomReset where
  left : List Nat
  who : Option Who
deriving DecidableEq, Repr

/-- The power manager (R468 to R483). vinPor: VIN has not yet been above V_POR for 10 ms; calStep: the step of CALIBRATE's sequence (R474), 1
while its self-calibration runs and 3 after it; linesGoal and linesLast: LINES of the scan and the last line it gives (R333); linkResetDue: a
reset from the link that retention SLEEP holds back (Table 20.14). -/
structure Pwr where
  mode : Mode := .reset
  prevMode : Mode := .reset
  resetCause : Nat := 0
  faults : List FaultRec := []
  domState : List Nat := List.replicate 16 0
  vinMv : Nat := 0
  dieTemp : Int := 0
  safeClass : Nat := 15
  safeFrom : Mode := .ready
  trans : Trans := .none
  modeWho : Option Who := none
  sleepWho : Option Who := none
  safeReadyWho : Option Who := none
  resets : List DomReset := []
  sysResetL : Bool := true
  vinPor : Bool := true
  vinWarn : Bool := false
  calStep : Nat := 0
  linesGoal : Nat := 0
  linesLast : Option Nat := none
  linkResetDue : Bool := false
deriving DecidableEq, Repr

/-- An image slot of the firmware store (R485, R487). -/
structure Slot where
  valid : Bool := false
  version : Nat := 0
  svn : Nat := 0
  cust : Bool := false
deriving DecidableEq, Repr

/-- An IMAGE_LOAD in progress (R494). -/
structure ImgLoad where
  target : Nat
  slot : Nat
  version : Nat
  svn : Nat
  cust : Bool
  who : Option Who
deriving DecidableEq, Repr

/-- A live update in progress (R496, R497). -/
structure Activation where
  target : Nat
  slot : Nat
  who : Option Who
deriving DecidableEq, Repr

/-- Fuse values of a KEY_PROVISION in progress (R490). -/
structure KeyProv where
  hash : Nat
  aes : Nat
  permLock : Bool
  who : Option Who
deriving DecidableEq, Repr

/-- Security state (R484 to R502). rec0 and rec1: the copies of the slot state record (R486); active: what it holds, 0 A, 1 B, 2 F; running: the slot each target runs from, 3 for none or the
default map; attachWait: a debug attach that waits for the map to be locked (R500). slots: the firmware store as manufactured holds valid
images of Distaff and of cores 0 to 2 in slots A and F (assumption log 30). -/
structure Sec where
  mapLocked : Bool := false
  rec0 : CalRec := {}
  rec1 : CalRec := {}
  active : List Nat := [0, 0, 0, 0, 0, 0]
  running : List Nat := [0, 0, 0, 0, 3, 3]
  fallback : Nat := 0
  slots : List (List Slot) := List.replicate 4 [({ valid := true } : Slot), ({} : Slot), ({ valid := true } : Slot)] ++ List.replicate 2 [({} : Slot), ({} : Slot), ({} : Slot)]
  custProv : Bool := false
  permLock : Bool := false
  vendorHash : Nat := 0
  custHash : Nat := 0
  custAes : Nat := 0
  svnFuse : List Nat := [0, 0, 0, 0, 0, 0]
  version : List Nat := [0, 0, 0, 0, 0, 0]
  dbgOpen : Nat := 0
  nonce : Option Nat := none
  attachWait : Bool := false
  violations : Nat := 0
  load : Option ImgLoad := none
  act : Option Activation := none
  keyProv : Option KeyProv := none
  extRunning : Bool := false
  jtagIr : Nat := 0
  jtagBypass : Bool := true
deriving DecidableEq, Repr

end Sys2Proof.Machine
end

