-- ==== Sys2Proof/Machine/Unit/Spindle.lean ====
section
/-! DEFINITION. State of Spindle (chapter 2) and the record of a line on its way from its start to Reel (chapters 1, 2 and 12). Every field's
default value is its value at reset. -/

namespace Sys2Proof.Machine

/-- The line in progress (R18, R20): index, phase, P at its start, the template entries not yet fired, and whether it may not be aborted
because it completes on predicted time (R32): then with the position and instant of the last edge before the fault, and v̂ at that edge. -/
structure LineProg where
  k : Nat
  phase : Nat
  p0 : Int
  left : List Nat
  predicted : Option (Int × Nat × Option (Int × Nat)) := none
deriving DecidableEq, Repr

/-- A pulse on an output pin: the instant (62.5 ps steps) and the width in ns. -/
structure Pulse where
  at_ : Nat
  ns : Nat
deriving DecidableEq, Repr

/-- Spindle (R12 to R41). Instants are in steps of 62.5 ps, positions in sub-counts. tail: lines that have ended with entries that are still to
act (R24). dHigh: the highest d since the last line start; revPeak and
revArmed: the highest d of the declared reversal, and whether another one may be declared; abortedIdx: an aborted index whose start d has
yet to fall below; pins: the levels of A and B of a port, and pinAt when each last changed; P is an unbounded integer, and only the words
that are read wrap to 64 bits (assumption log 82); stagedAt: when the staged contents of an object were written; lsIdx: the index whose LS_OUT pulse the fast path gave; started: the highest
index started in the scan; zOfs: P of a port less 256 times its count; tplHist: templates that lines below an index keep (R31), lowest index first. -/
structure Spn where
  p : Int := 0
  phat : Int := 0
  vel : Option (Int × Nat) := none
  edges : List (Int × Nat) := []
  pins : List (Bool × Bool) := List.replicate 4 (false, false)
  pinAt : List (Option Nat × Option Nat) := List.replicate 4 (none, none)
  cnt : List Int := [0, 0, 0, 0]
  zOfs : List Int := [0, 0, 0, 0]
  ssiRaw : List (Option Nat) := [none, none, none, none]
  ssiAt : List Nat := [0, 0, 0, 0]
  ssiGood : List Nat := [0, 0, 0, 0]
  ssiSame : List Nat := [0, 0, 0, 0]
  line : Option LineProg := none
  tail : List LineProg := []
  dHigh : Int := 0
  revPeak : Int := 0
  revArmed : Bool := true
  next : Nat := 0
  lastLine : Nat := 0
  reversed : Bool := false
  posValid : Bool := false
  encFault : Nat := 0
  zFault : Nat := 0
  overSticky : Bool := false
  overNow : Bool := false
  falling : Bool := false
  tplBank : Bool := false
  tplEpoch : Nat := 0
  aborts : Nat := 0
  zLast : List (Option Int) := [none, none, none, none]
  zHomed : List Bool := [false, false, false, false]
  zMissed : List Bool := [false, false, false, false]
  cmdLast : Int := 0
  cmdUp : Bool := true
  blLeft : Int := 0
  blOfs : Int := 0
  srcFault : Bool := false
  lsIdx : Option Nat := none
  abortedIdx : Option Nat := none
  tplHist : List (Nat × List Word) := []
  stagedAt : Sparse Nat := []
  started : Option Nat := none
  stbPos : Int := 0
  stbCount : Nat := 0
  stbLow : Bool := false
  stbBytes : List Nat := []
  stbIdx : Nat := 0
  stbOut : Option Nat := none
  lsOut : Option Pulse := none
  trig : List (Option Pulse) := [none, none, none, none]
  fcPulse : List (Option Pulse) := [none, none, none, none]
deriving DecidableEq, Repr

/-- What is known of a line between its start and its record in Reel: the header fields of Table 12.1 in the making, and the contents of
STAT_REGION and TDI_RESAMPLE in force at its start (R204, R212). priming: a line of R269; passed: it has left Heddle's step 5. -/
structure LineRec where
  k : Nat
  phase : Nat
  pos : Int
  ts : Nat
  flags : Nat := 0
  ovr : Nat := 0
  undr : Nat := 0
  pgEpoch : Nat := 0
  tplEpoch : Nat := 0
  seamMissing : Nat := 0
  priming : Bool := false
  passed : Bool := false
  region : List Word := []
  resamp : List Word := []
deriving DecidableEq, Repr

end Sys2Proof.Machine
end

