-- ==== Sys2Proof/Machine/Unit/Motion.lean ====
section
/-! DEFINITION. State of Shuttle (chapter 15) and of the illumination drive (16). Every field's default value is its value at reset. -/

namespace Sys2Proof.Machine

/-- A queued move (R340, R341, R352). Speeds are in 10^-12 microsteps/s, accelerations in 10^-6 microsteps/s², jerk in the change of that
acceleration per 1 µs. lin is the number of the MOVE_LINEAR it belongs to, and given the V_MAX, ACC, DEC and JERK of its payload, which are
scaled by the distances from which it starts (R352). -/
structure Move where
  start : Int
  target : Int
  scurve : Bool := false
  blend : Bool := false
  vMax : Nat
  acc : Nat
  dec : Nat
  jerk : Nat := 0
  clamped : Bool := false
  who : Option Who
  lin : Option Nat := none
  given : List Nat := []
deriving DecidableEq, Repr

/-- A stop to rest in progress (R347, R349, R350): its deceleration, its jerk for an S-curve, whether it is a stop of R349 (STATE 3), and
whether it is the ramp of a move, which brings the acceleration back to 0 as the axis comes to rest (R347). -/
structure StopRamp where
  dec : Nat
  jerk : Option Nat := none
  commanded : Bool := true
  taper : Bool := false
deriving DecidableEq, Repr

/-- One axis (R339 to R360). x is the position in 1/(2·10^18) microstep, v the speed and a the acceleration in the units of Move. rest: the
axis first comes to rest along the new move's ramp, at restAt microsteps (R347). paceMove: a move of the pacing unit (R266). pv and pa: the speed and the
acceleration that the move's own ramps give (R351). appended and replaced: the entries at the end of the queue that came since the last update,
and whether the active move came by MOVE_REPLACE since then (R360). cause: faults whose cause is still present. inT: the instants of the last
step inputs. dirAt: when DIRn last changed; stepOut: the pulses that the last update placed on STEPn. -/
structure Axis where
  x : Int := 0
  v : Int := 0
  a : Int := 0
  pv : Int := 0
  pa : Int := 0
  q : List Move := []
  appended : Nat := 0
  replaced : Bool := false
  rest : Bool := false
  restAt : Int := 0
  stop : Option StopRamp := none
  paceMove : Option Move := none
  homed : Bool := false
  reduced : Bool := false
  inputLag : Bool := false
  fault : Nat := 0
  cause : Nat := 0
  limit : Nat := 0
  limIn : Nat := 0
  vsat : Bool := false
  vsatMove : Bool := false
  curAct : Nat := 0
  temp : Int := 0
  clamps : Nat := 0
  moves : Nat := 0
  bridge : Bool := false
  cur : Nat := 0
  rampTo : Nat := 0
  rampLeft : Nat := 0
  dutyA : Rat := 0
  dutyB : Rat := 0
  vin : Nat := 0
  pIn : Int := 0
  inT : List Nat := []
  dirOut : Bool := false
  dirAt : Nat := 0
  stepOut : List Pulse := []
  tempDue : Bool := false
deriving DecidableEq, Repr

/-- Shuttle (R338 to R366): the axes, the AXIS_STOP commands that wait for their axes to come to rest, the open linear moves (number, mask,
command, whether clamped), the count of linear moves, and the instant of the last update. -/
structure Shu where
  ax : List Axis := List.replicate 4 {}
  stops : List (Who × Nat) := []
  lins : List (Nat × Nat × Option Who × Bool) := []
  linNo : Nat := 0
  genAt : Nat := 0
deriving DecidableEq, Repr

/-- Why a string's sink is on (R370, R375, R380, R381); a forced string has its lamps, its current and its duration in µs. -/
inductive Lit where
  | off
  | strobe (line : Nat) (phase : Nat)
  | diag
  | forced (mask ma us : Nat)
deriving DecidableEq, Repr

/-- One lamp string (R367 to R383). struck: the lamps that failed in the strobe in progress (R376). -/
structure LampStr where
  lit : Lit := .off
  since : Nat := 0
  period : Nat := 0
  blankUntil : Nat := 0
  delayed : Option (Nat × Nat) := none
  gate : Bool := false
  shunt : Nat := 0xFFFF
  readMask : Nat := 0
  spilled : Bool := false
  struck : List Nat := []
  iLim : Nat := 0
  derated : Bool := false
  tempLost : Bool := false
  headroom : Bool := false
  headroomBad : Bool := false
  temp : Int := 0
  failed : Nat := 0
  spareLo : Option Nat := none
  spareHi : Option Nat := none
  applied : List Nat := List.replicate 8 0
  duty : List (List Nat) := List.replicate 8 (List.replicate 16 0)
  nominal : List Nat := List.replicate 8 0
  diagPending : Bool := false
deriving DecidableEq, Repr

/-- Where a shift of the expansion chain stands (R386). -/
structure ChainShift where
  frame : List Word
  who : Option Who
deriving DecidableEq, Repr

/-- The illumination drive (R367 to R395). lxpPhAt: the instant at which LXP_PH took its value, 32 ns before a rise of LXP_STB (R384). -/
structure Ilm where
  str : List LampStr := List.replicate 8 {}
  vledMv : Nat := 0
  chainFault : Bool := false
  diagPulses : Nat := 0
  blankCuts : Nat := 0
  lampFaults : Nat := 0
  onOverlap : Nat := 0
  decided : List Bool := List.replicate 8 false
  darkPhase : List Bool := List.replicate 8 false
  diagLines : Nat := 0
  lampCheckDue : Bool := false
  lxpStb : Bool := false
  lxpPh : Nat := 0
  lxpPhAt : Nat := 0
  lxpLat : Option Pulse := none
  shift : Option ChainShift := none
  boards : List Word := []
deriving DecidableEq, Repr

/-- A result of an auxiliary slot (Table 17.2). -/
structure AuxRes where
  code : Int := 0
  settling : Bool := false
  open_ : Bool := false
  mismatch : Bool := false
  ovr : Bool := false
  stale : Bool := false
  checker : Bool := false
  eng : Int := 0
  formed : Option Nat := none
  seq : Nat := 0
deriving DecidableEq, Repr

/-- An AUX_READ with FRESH = 1 that waits (R407): mask, the slots that have formed no result since, and its tag. -/
structure AuxWait where
  mask : Nat
  left : Nat
  who : Who
deriving DecidableEq, Repr

/-- An AMON output (R405, R406): high impedance, at its fault level, at its last value, the fraction of VREF_AMON that the
code of the 12-bit DAC gives. -/
structure Amon where
  driven : Bool := false
  fault : Bool := false
  level : Rat := 0
deriving DecidableEq, Repr

/-- The auxiliary crosspoint (R396 to R414): the slot of the running dwell, its words done, the valid words of both converters, whether a
current source stood at its limit, whether a write changed the slot (dwellOld) or came after its first settling words (mixed), the slot words in
force, slots that carry SETTLING, slots whose first result after a reset is due, results and flags. -/
structure Aux where
  active : Option Nat := none
  word : Nat := 0
  prim : List Int := []
  chk : List Int := []
  comp : Bool := false
  dwellOld : Bool := false
  mixed : Bool := false
  cfg : List Word := []
  settle : Nat := 0
  firstDue : Nat := 0
  res : List AuxRes := List.replicate 32 {}
  openMask : Nat := 0
  openSeen : Nat := 0
  run : Nat := 0
  arbDue : Bool := false
  checkerPrimary : Bool := false
  chkActive : Bool := true
  pFailed : Bool := false
  cFailed : Bool := false
  mismatches : Nat := 0
  amon : List Amon := [{}, {}]
  waits : List AuxWait := []
deriving DecidableEq, Repr

/-- A Karum block's header fields (Table 19.1), with its payload words. -/
structure KBlock where
  type : Nat
  cls : Nat
  seq : Nat := 0
  hops : Nat := 63
  dest : Nat
  src : Nat
  units : Nat := 0
  end_ : Bool := false
  abort : Bool := false
  queue : Nat := 0
  payload : List Word := []
  ack : Option Nat := none
  crc : Word := 0
deriving DecidableEq, Repr

/-- One Karum port (R434 to R440, R447). lanes: the working lanes; onSpare: the lane whose traffic the spare carries; granted: words
granted for an inbound queue of the port and not yet received; nbPath: the path sum of the last TIME block. -/
structure KPort where
  up : Bool := false
  spareUsed : Bool := false
  width3 : Bool := false
  laneFault : Nat := 0
  lanes : Nat := 31
  onSpare : Option Nat := none
  nbAddr : Nat := 0
  nbPort : Nat := 0
  nbUid : Nat := 0
  delayPs : Nat := 0
  delays : List Int := []
  replays : Nat := 0
  crcErr : Nat := 0
  txSeq : Nat := 0
  rxExpected : Nat := 0
  replayBuf : List KBlock := []
  replayCount : Nat := 0
  ackDue : Bool := false
  nakDue : Option Nat := none
  txq : List KBlock := []
  signal : Bool := false
  granted : Sparse Nat := []
  nbPath : Nat := 0
deriving DecidableEq, Repr

/-- A member of the scan group (R445, R446). fmt: the output format that it stitches with, where the member list gives one (R455). -/
structure Member where
  addr : Nat
  tile : Nat
  uid : Nat := 0
  lock : Bool := false
  fmt : Option Nat := none
deriving DecidableEq, Repr

/-- A line in assembly at the collector (R456): index, line store, the instant of its first tile, the tiles present when it was allocated, and
the tiles received with the words of their records; units: the 32-byte units allocated to its record. -/
structure StitchLine where
  k : Nat
  store : Nat
  openAt : Nat := 0
  present : Nat
  tiles : List (Nat × List (List Word)) := []
  units : Nat := 0
deriving DecidableEq, Repr

/-- A LINE block's content (R450): T_k in 62.5 ps steps, v̂ in sub-counts per ns in Q8.24. -/
structure LineBlk where
  k : Nat
  tk : Nat
  pos : Int
  vhat : Nat
  phase : Nat
  frameStart : Bool
  frameEnd : Bool
  abort : Bool
deriving DecidableEq, Repr

/-- The master's scan parameters as its heartbeat sends them (R451). -/
structure MasterCfg where
  pitch : Nat
  phases : Nat
  frameLines : Nat
  origin : Nat
deriving DecidableEq, Repr

/-- The Karum fabric (R434 to R467). tileLen: the payload of each tile when last seen, in 32-byte units. tileIn: the words that the stitcher has taken of the packet at the head of a queue. credit: words granted for an
outbound queue, by the queue that receives them; partial_: the words of an outbound queue gathered for a DATA block. paceVd: for each member
its v_d in counts/s, its XOFF state and, one up, its value of R265 (0: none). ofsHalf is the correction of the time counter, in half ps. joining: the GROUP_JOIN that waits, with its GROUP_ID and TILE; joinReqs: requests that the master decides at its next heartbeat; sched: the LINE
blocks whose line start is to come; lastBlk: the instant of the last LINE block sent. -/
structure Krm where
  port : List KPort := List.replicate 4 {}
  member : Bool := false
  role : Bool := false
  groupId : Nat := 0
  tile : Nat := 0
  master : Nat := 0
  members : List Member := []
  timeLock : Bool := false
  offsetPs : Int := 0
  pathDelay : Nat := 0
  lockCount : Nat := 0
  lateLines : Nat := 0
  filledTiles : Nat := 0
  lateTiles : Nat := 0
  noRoute : Nat := 0
  badBlocks : Nat := 0
  mcfg : Option MasterCfg := none
  joining : Option (Who × Nat × Nat) := none
  sched : List LineBlk := []
  lastBlk : Nat := 0
  joinReqs : List (Nat × Nat × Nat) := []
  stitch : List StitchLine := []
  tileLen : Sparse Nat := []
  tileIn : List (Nat × List (List Word)) := []
  paceVd : List (Nat × Nat × Bool × Nat) := []
  ofsHalf : Int := 0
  credit : Sparse Nat := []
  partial_ : List (Nat × List (List Word)) := []
deriving DecidableEq, Repr

end Sys2Proof.Machine
end

