-- ==== Sys2Proof/Machine/Unit/Operand.lean ====
section
/-! DEFINITION. The operands of the commands that are more than a number: a Meoner command as the host posted it, and the data of events. -/

namespace Sys2Proof.Machine

/-- A Meoner command (Table 14.1, R331): the H2D mailbox that carried it, W0[31:30], TAG, LEN, ARG, its payload words, the words that the
device reads at the host-memory address of the command, whether host memory answers, the instant at which the firmware acts on it, and the
supply VLED in mV where the command measures it. -/
structure MnrCmd where
  mbx : Fin 8
  tag : Fin 1024
  hi : Fin 4 := 0
  len : Fin 16 := 0
  arg : Word := 0
  pay : List Word := []
  buf : List Word := []
  hostOk : Bool := true
  t : Nat := 0
  vled : Option (Fin 65536) := none
deriving DecidableEq, Repr

/-- The four codes an arbitrated converter gives: two at 1/4 and two at 3/4 of full scale (R85). -/
structure ArbRes where
  lo1 : Int
  lo2 : Int
  hi1 : Int
  hi2 : Int
deriving DecidableEq, Repr

/-- What an event brings, x, and its instant, t. -/
structure Timed (α : Type) where
  x : α
  t : Nat
deriving DecidableEq, Repr

/-- What a link shows when it locks: the arrivals of its lanes, in octets after the LMFC boundary, and the latency (R129). -/
structure Arrival where
  lanes : List Nat
  lat : Nat
deriving DecidableEq, Repr

/-- An access of a register (R2, R299): a 32-bit write, with the upper word of a 64-bit one; or a read of one word or, wide, of two. -/
inductive RegAccess where
  | write (v : Word) (high : Option Word)
  | read (wide : Bool)
deriving DecidableEq, Repr

/-- Where a capture window's samples come from (R133): a link or a raw lane. -/
inductive LinkSrc where
  | link (l : Fin 8)
  | lane (p : Fin 32)
deriving DecidableEq, Repr

/-- The link parameters an ILAS carries (R130). -/
structure Ilas where
  l : Nat
  m : Nat
  f : Nat
  s : Nat
  n : Nat
  np : Nat
  cs : Nat
  k : Nat
  hd : Nat
  scr : Nat
deriving DecidableEq, Repr

/-- What the SECDED check of a table read finds (R163): nothing, a corrected single-bit error, or an uncorrectable word of table 0
(correction), 1 (linearity), 2 (defect list) or 3 (map). -/
inductive TableErr where
  | none
  | corrected
  | poisoned (table : Fin 4) (addr : Nat)
deriving DecidableEq, Repr

/-- A Karum block as a port receives it (Table 19.1): port, SEQ, a TYPE that R437 drops in place of that of the row, HOPS, DEST, SRC, its
piggybacked acknowledgement, its payload and its CRC. What the payload says stands beside it, as operands of the row. -/
structure KHdr where
  port : Fin 4
  seq : Fin 4096
  badType : Option (Fin 16) := none
  hops : Fin 64 := 63
  dest : Fin 4096
  src : Fin 4096
  ack : Option (Fin 4096) := none
  pay : List Word := []
  crc : Word := 0
deriving DecidableEq, Repr

/-- What a GROUP block says (R445, R446, R459): a member's heartbeat with the output format it stitches with, the master's member list with its scan parameters, a join request, the
master's answer to one, or a departure. -/
inductive GroupMsg where
  | heartbeat (lock : Bool) (fmt : Option Nat)
  | members (l : List Member) (mc : MasterCfg)
  | join (uid tile group : Nat)
  | answer (status detail : Nat)
  | leave
deriving DecidableEq, Repr

end Sys2Proof.Machine
end

