-- ==== Sys2Proof/Machine/Unit/Sensor.lean ====
section
/-! DEFINITION. State of sensor drive (chapter 3), of the analog capture (4), of the converter trims (5) and of the converter links (6). Every
field's default value is its value at reset. -/

namespace Sys2Proof.Machine

/-- A running playback engine (R45, R49): table, the contents it started with, the instant t0, its order of start, the line whose event
started it (none for an idle table), and the next entry with its cell repetition. -/
structure Engine where
  tbl : Nat
  ws : List Word
  t0 : Nat
  order : Nat
  line : Option Nat
  entry : Nat := 0
  rep : Nat := 0
deriving DecidableEq, Repr

/-- One output: high impedance with pull-down (safe, R54) or driven at a level. -/
inductive OutPin where
  | safe
  | drive (high : Bool)
deriving DecidableEq, Repr

/-- An exposure group (R51): open or closed, the instant and position of its opening, and the last closed window. -/
structure ExpGroup where
  open_ : Bool := false
  at_ : Nat := 0
  dOpen : Int := 0
  last : Nat := 0
  lastWin : Option (Int × Int) := none
deriving DecidableEq, Repr

/-- A write of SDRV_CTL, SDRV_PIN or SDRV_CDS that waits for the tables that were playing when it arrived (R57): the engines' order of start at
that instant, the object and its words. -/
structure PendingCtl where
  order : Nat
  id : Nat
  ws : List Word
deriving DecidableEq, Repr

/-- Sensor drive (R42 to R64). idleFrom: the instant from which the next IDLE_PERIOD counts (R56). -/
structure Sdrv where
  engines : List (Option Engine) := List.replicate 8 none
  order : Nat := 0
  out : List OutPin := List.replicate 48 .safe
  expo : List ExpGroup := List.replicate 4 {}
  shr : List Bool := List.replicate 8 false
  bankV : List Nat := [0, 0, 0, 0, 0, 0]
  bankFault : Nat := 0
  bankBad : Nat := 0
  staged : Bool := false
  bank : Bool := false
  epoch : Nat := 0
  cuts : Nat := 0
  spill : Nat := 0
  overrun : Nat := 0
  diagSkipped : Nat := 0
  pendingCtl : List PendingCtl := []
  idleFrom : Nat := 0
  trimmed : Bool := false
deriving DecidableEq, Repr

/-- An armed or open converter window (R67 to R71): descriptor index and words, the line that armed it, the owning line k - LAG (none when that
index was not started or was discarded), whether it is open, the instant of its opening (none: no qualifying strobe edge yet), and the
conversions each masked channel has made. -/
structure Window where
  desc : Nat
  ws : List Word
  arm : Nat
  owner : Option Nat
  open_ : Bool := false
  due : Option Nat := none
  done : Sparse Nat := []
deriving DecidableEq, Repr

/-- An injected request (R74): channel, tag, whether an INJECT event made it, and line starts waited. -/
structure InjReq where
  ch : Nat
  tag : Nat
  event : Bool
  waited : Nat := 0
deriving DecidableEq, Repr

/-- A result of an injected request (Table 4.11). -/
structure InjRes where
  ch : Nat
  status : Nat
  tag : Nat
  code : Nat := 0
  rng : Nat := 0
  ts : Nat := 0
  pos : Int := 0
deriving DecidableEq, Repr

/-- A conversion kept for the figures of a line (R221, R222): its line, channel, index and code, whether the odd half of a pair took it,
the window's PERIOD, the instant at which the window opened, and the instant of the conversion. -/
structure RawConv where
  line : Nat
  ch : Nat
  j : Nat
  code : Nat
  odd : Bool
  period : Nat
  win : Nat
  at_ : Nat
deriving DecidableEq, Repr

/-- A kept conversion as a shadowing checker sampled it (R84, R87), with its RANGE after the markings of R80. -/
structure Shot where
  conv : RawConv
  rng : Nat
deriving DecidableEq, Repr

/-- One channel (R65 to R88): over-range bookkeeping of R80 (last out-of-range instant, last conversion, conversions still marked for the
left and right neighbour), open-input bookkeeping of R83 (tally: the lines being tallied, and whether all conversions of each read above range at
the rail; OPEN_INPUT, whether its conversions are substituted, whether an in-range conversion ended that), the state of its converter and of its
CDS pair. kept: the line and the SKIP of its last kept conversion; outs: its kept conversions that were counted as out of range (R82: line, index,
RANGE); dead: its converter is failed with no checker since an earlier line (R88). -/
structure AcqCh where
  lastOver : Option Nat := none
  lastConv : Nat := 0
  recL : Nat := 0
  recR : Nat := 0
  tally : Sparse (Option Bool) := []
  openSeen : Bool := false
  open_ : Bool := false
  openClr : Bool := false
  failed : Bool := false
  shr : Bool := false
  cds : Option Nat := none
  kept : Option (Nat × Nat) := none
  outs : List (Nat × Nat × Nat) := []
  dead : Bool := false
deriving DecidableEq, Repr

/-- One checker K0 to K3 (R84 to R88): failed, the converter it stands in for, whether it waits for the next line start to do so, the
mismatches (by window and index) of every line being compared, the marked lines in a row with the last of them, and MISMATCH_LINES. shots: its
kept conversions of the lines that have not left step 5, oldest first (R87). -/
structure Checker where
  failed : Bool := false
  sub : Option Nat := none
  takeover : Bool := false
  cmp : Sparse (Option (List (Nat × Nat))) := []
  marked : Nat := 0
  markedAt : Option Nat := none
  lines : Nat := 0
  shots : List Shot := []
deriving DecidableEq, Repr

/-- Analog capture (R65 to R98). -/
structure Acq where
  windows : List Window := []
  ch : List AcqCh := List.replicate 64 {}
  chk : List Checker := List.replicate 4 {}
  crc : List Nat := List.replicate 68 0
  inj : List InjReq := []
  res : List InjRes := []
  resLost : Nat := 0
  refReady : Bool := false
  refAt : Option Nat := none
  refFault : Bool := false
  refBad : Bool := false
  sparesOut : Bool := false
  winMissed : Nat := 0
  winCut : Nat := 0
  injDropped : Nat := 0
deriving DecidableEq, Repr

/-- The trims of a converter or, with skew 0, of a front end, as signed steps (R99, R100). -/
structure Trim where
  ofs : Int := 0
  gain : Int := 0
  skew : Int := 0
deriving DecidableEq, Repr

/-- One item of the background calibration (R112): the filter, and the change in progress with its remaining steps and direction. -/
structure BgItem where
  f : Rat := 0
  target : Option Int := none
deriving DecidableEq, Repr

/-- An item of a self-calibration (R104): the converter part of converter i (0 to 67), or the front-end part of channel c. -/
inductive CalItem where
  | conv (i : Nat)
  | fe (c : Nat)
deriving DecidableEq, Repr

/-- A self-calibration in progress (R102 to R107). state is RUN_STATE of Table 5.7; serving: while DEFERRED, the injected conversion that was
being served has not ended (R109). -/
structure CalRun where
  state : Nat
  full : Bool
  auto : Bool
  mbx : Nat
  tag : Nat
  sess : Nat
  items : List CalItem
  good : List (CalItem × Trim) := []
  bad : List CalItem := []
  serving : Bool := false
deriving DecidableEq, Repr

/-- A store write (R116, R119): waiting for the next line start, or writing a record into a slot. -/
inductive StoreWrite where
  | idle
  | waitLine
  | writing (slot : Nat) (rec : CalRec)
deriving DecidableEq, Repr

/-- Trims, self-calibration, background calibration and calibration store (R99 to R123). -/
structure Cal where
  conv : List Trim := List.replicate 68 {}
  fe : List Trim := List.replicate 64 {}
  convC : List Trim := List.replicate 68 {}
  feC : List Trim := List.replicate 64 {}
  run : Option CalRun := none
  lastStatus : Nat := 0
  disagree : Nat := 0
  convFail : Nat := 0
  feFailed : Nat := 0
  feStale : Nat := 0
  bgLimit : Nat := 0
  trimSat : Nat := 0
  bg : Sparse BgItem := []
  settling : Sparse Nat := []
  slotA : CalRec := {}
  slotB : CalRec := {}
  write : StoreWrite := .idle
  saveMbx : Option (Nat × Nat × Nat) := none
  abandoned : Bool := false
  abandonedInt : Bool := false
deriving DecidableEq, Repr

/-- A capture window (R133): the line it belongs to (none: discarded), SKIP and COUNT. at_: the instant from which it may open, while armed;
taken: the samples each stream has taken, while open or when it closed. -/
structure LinkWin where
  owner : Option Nat
  skip : Nat
  count : Nat
  at_ : Nat := 0
  taken : Nat := 0
deriving DecidableEq, Repr

/-- One JESD link (R128 to R134). lmfc: the JCLK cycle to which its LMFC is aligned; lat: LAT in ps, latBefore: its value before the
re-initialisation in progress; latShift: a latency shift stands; enabledAt: the JCLK cycle in which EN went to 1; errAt: the instants of the
errors of the last millisecond (R132). JESD204C: frame: the next frame's place in its extended multiblock, errTo: the last frame of an errored
multiblock, closed: the windows that closed in this extended multiblock, each with the place of its last frame (R131). -/
structure Link where
  state : Nat := 0
  lmfc : Option Nat := none
  lat : Nat := 0
  latBefore : Option Nat := none
  reinits : Nat := 0
  latShift : Bool := false
  enabledAt : Nat := 0
  errAt : List Nat := []
  frame : Nat := 0
  errTo : Option Nat := none
  closed : List (LinkWin × Nat) := []
  armed : Option LinkWin := none
  opened : Option LinkWin := none
deriving DecidableEq, Repr

/-- One raw lane (R136): aligned, the windows in a row that missed their mark, the last words received (uncoded), the first character of a sample
of two (8b/10b), the instants of the errors of the last millisecond, and its capture window. -/
structure RawLane where
  aligned : Bool := false
  missed : Nat := 0
  hist : List Nat := []
  hi : Option Nat := none
  errAt : List Nat := []
  armed : Option LinkWin := none
  opened : Option LinkWin := none
deriving DecidableEq, Repr

/-- Converter links (R124 to R141). -/
structure Jlk where
  link : List Link := List.replicate 8 {}
  lane : List RawLane := List.replicate 32 {}
  rawFault : List Bool := [false, false, false, false]
  cdrLock : Nat := 0
  laneErr : Nat := 0
  sysrefFault : Bool := false
  deskew : Bool := false
  ilas : Nat := 0
  latShift : Nat := 0
  lwinMissed : Nat := 0
  lwinCut : Nat := 0
deriving DecidableEq, Repr

end Sys2Proof.Machine
end

