-- ==== Sys2Proof/Machine/Unit/Stream.lean ====
section
/-! DEFINITION. State of the pacing unit (chapter 11) and of the host stream (12). Every field's default value is its value at reset. -/

namespace Sys2Proof.Machine

/-- PACE_STATUS.STATE (Table 11.8). -/
inductive PaceState where
  | idle | running | slowing | braking | rewinding | parked | runUp | priming
deriving DecidableEq, Repr

/-- The code of Table 11.8. -/
def PaceState.code : PaceState → Nat
  | .idle => 0 | .running => 1 | .slowing => 2 | .braking => 3 | .rewinding => 4 | .parked => 5 | .runUp => 6 | .priming => 7

/-- A FC_OUT pin (R242, R261): high impedance, or driven asserted or not; and the instant until which MIN_ASSERT holds it. -/
structure FcPin where
  driven : Bool := false
  asserted : Bool := false
  until_ : Option Nat := none
deriving DecidableEq, Repr

/-- The pacing unit (R258 to R281). vc, vd and vr in 10^-5 counts/s; factor in 2^-16. seamDue: the first index missing before the next line
that starts (R35, R273); seamAt: a release armed for external motion, as the index from which lines are stored again and the first one
refused (R272); parkShort: the rewind in progress ends at the axis's travel limit (R267); autoResume: a resume needs no further command (R268). -/
structure Pace where
  state : PaceState := .idle
  cause : Nat := 0
  shortRunup : Bool := false
  factor : Nat := 0
  vc : Nat := 0
  vd : Nat := 0
  kr : Nat := 0
  seamLast : Nat := 0
  holds : Nat := 0
  restarts : Nat := 0
  restartFail : Nat := 0
  seams : Nat := 0
  overtaken : Nat := 0
  recBytes : Nat := 64
  resume : Option Nat := none
  srcFirst : Option Nat := none
  rebuild : Option Nat := none
  xoffStop : Bool := false
  autoResume : Bool := true
  dPark : Int := 0
  parkShort : Bool := false
  vr : Nat := 0
  verify : Option Nat := none
  seamDue : Option Nat := none
  seamAt : Option (Nat × Nat) := none
  pins : List FcPin := List.replicate 4 {}
deriving DecidableEq, Repr

/-- A stream descriptor as the device has read it (Table 12.3); bad: a reserved field or an alignment breaks the table. -/
structure Desc where
  addr : Nat
  len : Nat
  maxLines : Nat
  eof : Bool
  cookie : Nat
  bad : Bool
deriving DecidableEq, Repr

/-- The descriptor a ring is filling (R288). -/
structure Filling where
  desc : Desc
  idx : Nat
  bytes : Nat := 0
  lines : Nat := 0
  flagsOr : Nat := 0
  first : Nat := 0
  readErr : Bool := false
deriving DecidableEq, Repr

/-- A re-send in progress (R294): first index and number requested, next index to test, skipped so far; sent: its last record is sent, and its
KIND 1 entry waits to be written. -/
structure Resend where
  first : Nat
  count : Nat
  next : Nat
  skipped : Nat := 0
  sent : Bool := false
deriving DecidableEq, Repr

/-- A completion entry before its PHASE bit is known (Table 12.5); ends: it ends the re-send in progress on its ring (R294). -/
structure CqEntry where
  kind : Nat
  ring : Nat
  status : Nat
  descIdx : Nat := 0
  lines : Nat := 0
  bytes : Nat := 0
  flagsOr : Nat := 0
  first : Nat := 0
  readErr : Bool := false
  skipped : Nat := 0
  cookie : Nat := 0
  ends : Bool := false
deriving DecidableEq, Repr

/-- A stream ring (Table 12.2); named: its QUEUE has been written since reset. -/
structure Ring where
  rbLo : Nat := 0
  rbHi : Nat := 0
  sizeLog2 : Nat := 0
  batchLog2 : Nat := 0
  queue : Nat := 0
  cq : Nat := 0
  en : Bool := false
  prod : Nat := 0
  cons : Nat := 0
  confLo : Nat := 0
  confHi : Nat := 0
  rsLo : Nat := 0
  rsHi : Nat := 0
  running : Bool := false
  stall : Bool := false
  noSession : Bool := false
  cfgErr : Bool := false
  dlv : Option Nat := none
  idleFlush : Nat := 100
  descErr : Nat := 0
  rsDrop : Nat := 0
  conf : Option Nat := none
  fetched : List Desc := []
  fill : Option Filling := none
  resend : Option Resend := none
  entries : List CqEntry := []
  named : Bool := false
deriving DecidableEq, Repr

/-- The delivery of one ROLE 3 queue (R285, R286): members ranked by ring number, next index to read from the store, the words of the record
at its head that were popped, the index up to which records carry RESENT, and whether the group was stopped. -/
structure Group where
  members : List Nat := []
  next : Nat := 0
  asm : List (List Word) := []
  resentTo : Option Nat := none
  stopped : Bool := false
deriving DecidableEq, Repr

/-- A completion queue (Table 12.4). -/
structure Cq where
  cbLo : Nat := 0
  cbHi : Nat := 0
  sizeLog2 : Nat := 0
  vector : Nat := 0
  en : Bool := false
  head : Nat := 0
  tail : Nat := 0
  modCount : Nat := 1
  modTime : Nat := 1024
  full : Bool := false
  cfgErr : Bool := false
  pending : Nat := 0
  timer : Bool := false
deriving DecidableEq, Repr

/-- An entry of the MSI-X table (R296, R299). -/
structure MsixEntry where
  addr : Nat := 0
  data : Nat := 0
  mask : Bool := true
deriving DecidableEq, Repr

/-- The power state of the PCIe link (R292, Table 12.6). -/
inductive LinkPower where
  | down | l0 | l1 | l11 | l12 | l2
deriving DecidableEq, Repr

/-- The power state of the function (R292). -/
inductive FuncPower where
  | d0 | d3hot | d3cold
deriving DecidableEq, Repr

/-- What the host has set in the function's configuration space (Table 12.6): MSI-X enable, relaxed ordering and the maximum read request
(128 · 2^mrrs bytes) in Device Control, LTR, and ECRC generation and checking. All but the first act on the form of the packets on the link only,
which the model does not hold (assumption log 112). -/
structure FuncCfg where
  msixEn : Bool := false
  relaxed : Bool := false
  mrrs : Fin 6 := 2
  ltr : Bool := false
  ecrc : Bool := false
deriving DecidableEq, Repr

/-- The host stream (R282 to R302). clkreq: CLKREQ_L is asserted. readData: the words that the last register read returned (R2, R299), or, with
claimRead, the last claim of that target (R421): the model's own fields. -/
structure Hs where
  ring : List Ring := List.replicate 64 {}
  cq : List Cq := List.replicate 8 {}
  group : List Group := List.replicate 32 {}
  hiDlv : List (Option Nat) := [none, none, none, none]
  msix : List MsixEntry := List.replicate 64 {}
  pba : Nat := 0
  cfg : FuncCfg := {}
  waiting : List Nat := []
  l1Exit : Bool := false
  clkreq : Bool := false
  pme : Bool := false
  wakeL : Bool := false
  link : LinkPower := .down
  func : FuncPower := .d0
  speed : Nat := 0
  width : Nat := 0
  mps : Nat := 0
  resentLines : Nat := 0
  readErrLines : Nat := 0
  wakes : Nat := 0
  aerCe : Nat := 0
  aerUe : Nat := 0
  devEpoch : Nat := 0
  hostEpoch : Nat := 0
  readData : List Word := []
  claimRead : Option Nat := none
deriving DecidableEq, Repr

end Sys2Proof.Machine
end

