-- ==== Sys2Proof/Syntax.lean ====
section
/-! DEFINITION. The commands of the block: one constructor per row of the table of operations and events, in its order, with the operands the
row needs. An operand t is the instant of an event, in 62.5 ps steps; what the outside world decides (levels, measured values, verdicts of
cryptographic checks, what host memory holds) is an operand. -/

namespace Sys2Proof

open Sys2Proof.Machine

/-- A command of the PX7240. -/
inductive Instr where
  /-- ENC_EDGE. The quadrature pair of port n takes the levels (A, B) (R13, R32). -/
  | encEdge (n : Fin 4) (ab : Bool × Bool) (t : Nat)
  /-- ENC_PAIR_STUCK. A pair of port n stays at equal levels (R32). -/
  | encPairStuck (n : Fin 4) (t : Nat)
  /-- SSI_FRAME. A complete SSI frame of port n with data raw (R14, R32). -/
  | ssiFrame (n : Fin 4) (raw : Fin (2 ^ 40)) (t : Nat)
  /-- Z_PULSE. A Z pulse on port n (R33). -/
  | zPulse (n : Fin 4) (t : Nat)
  /-- Z_MISSING. No Z pulse by Z_PERIOD + Z_TOL counts after the last (R33). -/
  | zMissing (n : Fin 4) (t : Nat)
  /-- LINE_START. The position reaches the next line start (R18), or T_k arrives on a follower (R450). -/
  | lineStart (t : Nat)
  /-- SPN_TEMPLATE_WRITE. A write of SPN_TEMPLATE (R23, R30). -/
  | spnTemplateWrite (c : MnrCmd)
  /-- SDRV_WAVE. Entry i of the line's template acts: SDRV_WAVE starts a waveform table (R45). -/
  | sdrvWave (i : Fin 4096) (t : Nat)
  /-- CONV_WINDOW. Entry i of the line's template acts: CONV_WINDOW arms a window descriptor (R67). -/
  | convWindow (i : Fin 4096) (t : Nat)
  /-- INJECT. Entry i of the line's template acts: INJECT requests an injected conversion (R74). -/
  | inject (i : Fin 4096) (t : Nat)
  /-- LAMP_ON. Entry i of the line's template acts: LAMP_ON strobes the named strings (R370). -/
  | lampOn (i : Fin 4096) (t : Nat)
  /-- LAMP_OFF. Entry i of the line's template acts: LAMP_OFF ends the strobe of the named strings (R370). -/
  | lampOff (i : Fin 4096) (t : Nat)
  /-- LAMP_DIAG_SLOT. Entry i of the line's template acts: a diagnostic slot is granted or refused (R53, R375). -/
  | lampDiagSlot (i : Fin 4096) (t : Nat)
  /-- TDI_ROW. Entry i of the line's template acts: TDI_ROW latches a row position (R184). -/
  | tdiRow (i : Fin 4096) (t : Nat)
  /-- TRIG_OUT. Entry i of the line's template acts: TRIG_OUT pulses pins (R24). -/
  | trigOut (i : Fin 4096) (t : Nat)
  /-- FC_PULSE. Entry i of the line's template acts: FC_PULSE pulses the pins that Spindle owns (R24, R261). -/
  | fcPulse (i : Fin 4096) (t : Nat)
  /-- STB_L_FALL. STB_L falls (R27). -/
  | stbLFall (t : Nat)
  /-- STB_L_RISE. STB_L rises (R27). -/
  | stbLRise (t : Nat)
  /-- WAVE_ENTRY_PIN. The next entry of the table on engine e acts at its instant: a PIN entry sets an output level (R45). -/
  | waveEntryPin (e : Fin 8) (t : Nat)
  /-- WAVE_ENTRY_SHR. The next entry of the table on engine e acts at its instant: an SHR entry samples the reset level (R50). -/
  | waveEntryShr (e : Fin 8) (t : Nat)
  /-- WAVE_ENTRY_SHD. The next entry of the table on engine e acts at its instant: an SHD entry samples the data level (R50). -/
  | waveEntryShd (e : Fin 8) (t : Nat)
  /-- WAVE_ENTRY_EXPOSE. The next entry of the table on engine e acts at its instant: an EXPOSE entry opens or closes an exposure group (R51). -/
  | waveEntryExpose (e : Fin 8) (t : Nat)
  /-- IDLE_PLAYBACK. IDLE_PERIOD expires (R56). -/
  | idlePlayback (t : Nat)
  /-- BANK_SUPPLY_FAULT. The supply of bank b leaves its range and reads v (R43). -/
  | bankSupplyFault (b : Fin 6) (v : Fin 4) (t : Nat)
  /-- SDRV_TABLE_WRITE. A write of SDRV_TABLE tbl (R46, R58, R64). -/
  | sdrvTableWrite (tbl : Fin 64) (c : MnrCmd)
  /-- WINDOW_OPEN. The armed window of descriptor i opens (R67). -/
  | windowOpen (i : Fin 256) (t : Nat)
  /-- CONVERSION. Channel ch converts in its open window (R68): lvl, the input level; chk, the level its checker sees. -/
  | conversion (ch : Fin 64) (lvl : Option Int) (chk : Int) (t : Nat)
  /-- CHECKER_ARBITRATION. Checker k and its converter are tested (R85). -/
  | checkerArbitration (k : Fin 4) (conv chk : ArbRes) (t : Nat)
  /-- CONV_LINK_CRC_FAIL. A sample block of converter i fails its CRC (R86). -/
  | convLinkCrcFail (i : Fin 68) (t : Nat)
  /-- CONVERTER_FAIL. Converter i, or checker i - 64, is found failed (R86 to R88). -/
  | converterFail (i : Fin 68) (t : Nat)
  /-- INJ_SERVE. The oldest injected request is served; lvl, the level converted (R75). -/
  | injServe (lvl : Int) (t : Nat)
  /-- INJ_TIMEOUT. A request has waited INJ_TMO line starts (R75). -/
  | injTimeout (t : Nat)
  /-- ACQ_INJ_WRITE. A write of ACQ_INJ (R74, R96). -/
  | acqInjWrite (c : MnrCmd)
  /-- ACQ_INJ_RESULT_READ. A read of ACQ_INJ_RESULT (R76, R97). -/
  | acqInjResultRead (c : MnrCmd)
  /-- ACQ_CH_WRITE. A write of ACQ_CH (R93, R108). -/
  | acqChWrite (c : MnrCmd)
  /-- REF_READY_SET. 2 ms after REF_EN rose (R77). -/
  | refReadySet (t : Nat)
  /-- REF_FAULT. The converter reference leaves its tolerance (R78). -/
  | refFault (t : Nat)
  /-- CAL_RUN. CAL_RUN (R102, R109). -/
  | calRun (c : MnrCmd)
  /-- CAL_RUN_DEFERRED_START. The deferred self-calibration starts (R109). -/
  | calRunDeferredStart (t : Nat)
  /-- CAL_PASS_END. A pair of calibration runs ends with results res (R104 to R107). -/
  | calPassEnd (res : List (CalItem × Trim × Trim)) (t : Nat)
  /-- CAL_SAVE. CAL_SAVE (R119). -/
  | calSave (c : MnrCmd)
  /-- CAL_STORE_WRITE_DONE. A store write commits its header (R116). -/
  | calStoreWriteDone (t : Nat)
  /-- SYSREF_EDGE. A sampled SYSREF edge (R128). -/
  | sysrefEdge (t : Nat)
  /-- LINK_SYNC_LOCK. Link l reaches sync with a transmitter of kbps per lane (R125, R130). -/
  | linkSyncLock (l : Fin 8) (kbps : Timed Nat)
  /-- ILAS_RECEIVED. The ILAS, or the lock, of link l completes: a, the arrivals of its lanes and the latency (R129, R130). -/
  | ilasReceived (l : Fin 8) (i : Ilas) (a : Arrival) (t : Nat)
  /-- LINK_DESKEW_FAULT. The lanes of link l arrive too late, in octets after the LMFC boundary (R129). -/
  | linkDeskewFault (l : Fin 8) (arrive : Timed (List Nat))
  /-- LINK_FRAME. A frame of octets by physical lane, or words of a raw lane, with the lane of every error in it (R127, R131). -/
  | linkFrame (src : LinkSrc) (data : List (List Nat)) (errs : List (Fin 32)) (t : Nat)
  /-- LINK_REINIT. Link l re-initialises; lost, the lanes without CDR lock (R132). -/
  | linkReinit (l : Fin 8) (lost : Nat) (t : Nat)
  /-- LINK_WINDOW_OPEN. What opens a link or raw capture window: control bits of a frame, or words up to a mark (R133). -/
  | linkWindowOpen (src : LinkSrc) (mark : Timed (List Nat))
  /-- RAW_ALIGN. Raw lane p aligns on a word that repeats a number of times (R136). -/
  | rawAlign (p : Fin 32) (train : Timed (Nat × Nat))
  /-- RAW_ALIGN_LOST. Raw lane p loses alignment (R136). -/
  | rawAlignLost (p : Fin 32) (t : Nat)
  /-- HEDDLE_SAMPLE. The oldest sample on its way arrives at Heddle (R144); err, what its table reads find (R163). -/
  | heddleSample (err : TableErr) (t : Nat)
  /-- HEDDLE_LINE_DONE. The next line in index order leaves step 5 (R149). -/
  | heddleLineDone (t : Nat)
  /-- HDL_SWAP_COPY. HDL_SWAP with ACTION COPY (R165). -/
  | hdlSwapCopy (c : MnrCmd)
  /-- HDL_COPY_DONE. The bank copy ends (R165). -/
  | hdlCopyDone (t : Nat)
  /-- HDL_SWAP_STAGE. HDL_SWAP with ACTION STAGE (R166). -/
  | hdlSwapStage (c : MnrCmd)
  /-- HDL_SWAP_CANCEL. HDL_SWAP with ACTION CANCEL (R166). -/
  | hdlSwapCancel (c : MnrCmd)
  /-- HDL_DEF_ADD. A write of HDL_DEF_ADD (R161). -/
  | hdlDefAdd (c : MnrCmd)
  /-- HDL_DEF_LOG_READ. A read of HDL_DEF_LOG (R181). -/
  | hdlDefLogRead (c : MnrCmd)
  /-- PACK_LINE. The next output line is packed and pushed into Skein (R170). -/
  | packLine (t : Nat)
  /-- STAT_SHADE_UPDATE. After 2^UPD committed lines of table phase tp (R216). -/
  | statShadeUpdate (tp : Fin 8) (t : Nat)
  /-- HIST_SNAPSHOT. Histogram engine k has counted LINES lines (R220). -/
  | histSnapshot (k : Fin 4) (t : Nat)
  /-- SKEIN_PUSH. The producer of queue q pushes a word; ue, the words of a record that the Reel reader takes now that read as uncorrectable (R237, R246). -/
  | skeinPush (q : Fin 32) (ue : Timed (List Nat))
  /-- SKEIN_POP. The consumer of queue q pops a word; flip, the data bits upset in the SRAM; ue, a word read again from Reel is uncorrectable (R237, R239). -/
  | skeinPop (q : Fin 32) (flip : Nat) (ue : Timed Bool)
  /-- REEL_HEADER_POP. The Reel writer pops the header of the packet at the head of queue q (R252). -/
  | reelHeaderPop (q : Fin 32) (flip : Nat) (t : Nat)
  /-- REEL_COMMIT. Store st commits its record (R245). -/
  | reelCommit (st : Fin 4) (t : Nat)
  /-- REEL_SCRUB. Scrubbing and refresh; n, the corrections reported (R246). -/
  | reelScrub (n : Nat) (t : Nat)
  /-- SKN_QUEUE_WRITE. A write of SKN_QUEUE (R232). -/
  | sknQueueWrite (c : MnrCmd)
  /-- REEL_LS_WRITE. A write of REEL_LS (R243). -/
  | reelLsWrite (c : MnrCmd)
  /-- STORE_DISCARD. STORE_DISCARD (R332). -/
  | storeDiscard (c : MnrCmd)
  /-- PACE_TICK. The pacing unit's 10 µs tick (R258 to R262, R454). -/
  | paceTick (t : Nat)
  /-- FC_MIN_ASSERT_END. MIN_ASSERT of pin p expires (R261). -/
  | fcMinAssertEnd (p : Fin 4) (t : Nat)
  /-- PACE_AXIS_AT_REST. The braking axis is at rest (R265). -/
  | paceAxisAtRest (t : Nat)
  /-- PACE_PARK_REACHED. The axis reaches d_park (R266). -/
  | paceParkReached (t : Nat)
  /-- PACE_RESUME. The resume condition holds (R268). -/
  | paceResume (t : Nat)
  /-- RING_ENABLE. A write of the control word of ring n (R286). -/
  | ringEnable (n : Fin 64) (v : Word) (t : Nat)
  /-- RING_PROD_WRITE. A write of PROD of ring n (R287). -/
  | ringProdWrite (n : Fin 64) (v : Word) (t : Nat)
  /-- RING_DESC_FETCH. The device reads the next posted descriptor of ring n, whose words are ws (R287). -/
  | ringDescFetch (n : Fin 64) (ws : List Word) (t : Nat)
  /-- RING_DELIVER_RECORD. The next record of queue q's group is delivered; ue, the words that a re-send reads as uncorrectable (R285, R295). -/
  | ringDeliverRecord (q : Fin 32) (ue : List Nat) (t : Nat)
  /-- RING_IDLE_FLUSH. IDLE_FLUSH of ring n expires (R288). -/
  | ringIdleFlush (n : Fin 64) (t : Nat)
  /-- RING_CONF_WRITE. A write of CONF_HI of ring n (R293). -/
  | ringConfWrite (n : Fin 64) (v : Word) (t : Nat)
  /-- RING_RESEND_REQUEST. A write of RS_CNT of ring n (R294). -/
  | ringResendRequest (n : Fin 64) (v : Word) (t : Nat)
  /-- CQ_ENABLE. A write of the control word of completion queue q (R289). -/
  | cqEnable (q : Fin 8) (v : Word) (t : Nat)
  /-- CQ_HEAD_WRITE. A write of HEAD of completion queue q (R290). -/
  | cqHeadWrite (q : Fin 8) (v : Word) (t : Nat)
  /-- MSIX_MODERATION_TIMER. The moderation timer of completion queue q expires (R291). -/
  | msixModerationTimer (q : Fin 8) (t : Nat)
  /-- LINK_POWER_STATE_CHANGE. The PCIe link takes a power state (R292). -/
  | linkPowerStateChange (st : LinkPower) (speed width : Fin 64) (mps : Fin 8) (t : Nat)
  /-- FUNC_POWER_STATE_CHANGE. The function takes a power state; c, what the host has set in its configuration space (R292, R296). -/
  | funcPowerStateChange (st : FuncPower) (c : FuncCfg) (t : Nat)
  /-- PCIE_LINK_RESET. A function level reset, hot reset, link down or PERST_L (R480). -/
  | pcieLinkReset (t : Nat)
  /-- PCIE_AER_ERROR. The function logs an AER error (R297). -/
  | pcieAerError (ue : Bool) (t : Nat)
  /-- H2D_GO. The host posts H2D mailbox m (R306). -/
  | h2dGo (m : Fin 8) (t : Nat)
  /-- H2D_DONE. The receiver takes the message of H2D mailbox m (R307). -/
  | h2dDone (m : Fin 8) (t : Nat)
  /-- D2H_GO. Firmware posts the next message of D2H mailbox m (R306, R322). -/
  | d2hGo (m : Fin 8) (t : Nat)
  /-- D2H_DONE. The host takes the message of D2H mailbox m (R307). -/
  | d2hDone (m : Fin 8) (t : Nat)
  /-- D2H_TIMEOUT. A post to D2H mailbox m stays posted beyond MBX_TMO (R310). -/
  | d2hTimeout (m : Fin 8) (t : Nat)
  /-- MBX_EVENT_W1C. The host clears H2D_EMPTIED and D2H_ARRIVED bits (R308). -/
  | mbxEventW1c (v : Word) (t : Nat)
  /-- HOST_DB_WRITE. The host writes HOST_DB (R308). -/
  | hostDbWrite (v : Fin 65536) (t : Nat)
  /-- MBI_GO. Endpoint e posts internal mailbox i (R306, R317). -/
  | mbiGo (i : Fin 16) (e : Fin 5) (t : Nat)
  /-- MBI_DONE. Endpoint e takes internal mailbox i (R307, R317). -/
  | mbiDone (i : Fin 16) (e : Fin 5) (t : Nat)
  /-- MBI_TIMEOUT. A post to internal mailbox i exceeds TMO_US (R310). -/
  | mbiTimeout (i : Fin 16) (t : Nat)
  /-- MBI_EVENT_W1C. Endpoint e clears bits of MBI_ARRIVED or MBI_EMPTIED (R318). -/
  | mbiEventW1c (e : Fin 5) (emptied : Bool) (v : Word) (t : Nat)
  /-- MBX_ROUTE_WRITE. Endpoint e writes MBX_ROUTE (R315). -/
  | mbxRouteWrite (e : Fin 5) (v : Word) (t : Nat)
  /-- PING. PING (R329). -/
  | ping (c : MnrCmd)
  /-- SESSION_OPEN. SESSION_OPEN (R323). -/
  | sessionOpen (c : MnrCmd)
  /-- SESSION_CLOSE. SESSION_CLOSE (R323). -/
  | sessionClose (c : MnrCmd)
  /-- DEV_INFO. DEV_INFO (R501). -/
  | devInfo (c : MnrCmd)
  /-- OBJ_READ. OBJ_READ (R330, R331). -/
  | objRead (c : MnrCmd)
  /-- OBJ_WRITE. OBJ_WRITE (R4, R5, R330, R331). -/
  | objWrite (c : MnrCmd)
  /-- OBJ_INFO. OBJ_INFO (R329). -/
  | objInfo (c : MnrCmd)
  /-- MODE_SET. MODE_SET (R472, R527). -/
  | modeSet (c : MnrCmd)
  /-- CAL_LAMP. CAL_LAMP; mv, the voltages read (R380). -/
  | calLamp (c : MnrCmd) (mv : List Nat)
  /-- CAL_DELAY. CAL_DELAY; delays, the measured delays of the ports (R448). -/
  | calDelay (c : MnrCmd) (delays : List Nat)
  /-- MOVE_APPEND. MOVE_APPEND (R341). -/
  | moveAppend (c : MnrCmd)
  /-- MOVE_REPLACE. MOVE_REPLACE (R346). -/
  | moveReplace (c : MnrCmd)
  /-- AXIS_STOP. AXIS_STOP (R349). -/
  | axisStop (c : MnrCmd)
  /-- MOVE_LINEAR. MOVE_LINEAR (R352). -/
  | moveLinear (c : MnrCmd)
  /-- LAMP_FORCE. LAMP_FORCE (R381). -/
  | lampForce (c : MnrCmd)
  /-- LAMP_SPARE. LAMP_SPARE; mv, the voltage read (R382). -/
  | lampSpare (c : MnrCmd) (mv : Nat)
  /-- FAB_DISCOVER. FAB_DISCOVER; up, the ports that train; nb, what the neighbours answer (R442). -/
  | fabDiscover (c : MnrCmd) (up : Nat) (nb : List (Fin 4 × Nat × Nat × Fin 4))
  /-- GROUP_JOIN. GROUP_JOIN (R445). -/
  | groupJoin (c : MnrCmd)
  /-- GROUP_LEAVE. GROUP_LEAVE (R459). -/
  | groupLeave (c : MnrCmd)
  /-- IMAGE_LOAD. IMAGE_LOAD; sig, the verdict of the signature and hash checks (R494). -/
  | imageLoad (c : MnrCmd) (sig : Bool)
  /-- IMAGE_ACTIVATE. IMAGE_ACTIVATE (R495 to R497). -/
  | imageActivate (c : MnrCmd)
  /-- DOMAIN_RESET. DOMAIN_RESET (R478, R479). -/
  | domainReset (c : MnrCmd)
  /-- KEY_PROVISION. KEY_PROVISION (R490). -/
  | keyProvision (c : MnrCmd)
  /-- EXT_CMD. Opcode 0x08F0 + n, with the extension firmware's answer (R329). -/
  | extCmd (c : MnrCmd) (n status : Fin 16) (detail : Nat) (res : List Word)
  /-- AUX_READ. AUX_READ (R407). -/
  | auxRead (c : MnrCmd)
  /-- FAULT_LIST. FAULT_LIST (R483). -/
  | faultList (c : MnrCmd)
  /-- SHU_GEN_UPDATE. The motion generator's update of every axis (R343). -/
  | shuGenUpdate (t : Nat)
  /-- LIMIT_INPUT. A limit input of axis n is asserted (R350). -/
  | limitInput (n : Fin 4) (pos : Bool) (t : Nat)
  /-- STEP_INPUT_EDGE. A rising edge of SIN_STEPn with its direction (R354). -/
  | stepInputEdge (n : Fin 4) (up : Bool) (t : Nat)
  /-- HOLD_CURRENT_REDUCE. HOLD_DELAY of axis n expires (R357). -/
  | holdCurrentReduce (n : Fin 4) (t : Nat)
  /-- SHU_POS_WRITE. A write of SHU_POS (R365). -/
  | shuPosWrite (c : MnrCmd)
  /-- STAGE_OVERCURRENT. A bridge leg of axis n exceeds 6 A (R358). -/
  | stageOvercurrent (n : Fin 4) (t : Nat)
  /-- STAGE_OVERTEMP_WARN. The stage of axis n exceeds 105 °C (R358). -/
  | stageOvertempWarn (n : Fin 4) (t : Nat)
  /-- STAGE_OVERTEMP. The stage of axis n exceeds 125 °C (R358). -/
  | stageOvertemp (n : Fin 4) (t : Nat)
  /-- STAGE_VIN_LOW. VIN stays below 4.3 V (R358). -/
  | stageVinLow (t : Nat)
  /-- STAGE_OPEN_COIL. The phase current of axis n stays below I/8 (R358). -/
  | stageOpenCoil (n : Fin 4) (t : Nat)
  /-- EXT_DRIVER_FAULT. FLTn_L stays low (R358). -/
  | extDriverFault (n : Fin 4) (t : Nat)
  /-- LAMP_BLANK_END. Blanking of string str ends (R371). -/
  | lampBlankEnd (str : Fin 8) (t : Nat)
  /-- LAMP_MOD_PERIOD. An on-time or a modulation period of string str elapses (R369). -/
  | lampModPeriod (str : Fin 8) (t : Nat)
  /-- LAMP_VOLTAGE_READ. Lamp l of string str reads mv (R374, R376, R379). -/
  | lampVoltageRead (str : Fin 8) (l : Fin 16) (mv : Nat) (t : Nat)
  /-- ILM_TEMP_READ. The temperature of string str is read (R373). -/
  | ilmTempRead (str : Fin 8) (t : Nat)
  /-- ILM_TEMP_LOST. No valid temperature of string str for 100 ms (R373). -/
  | ilmTempLost (str : Fin 8) (t : Nat)
  /-- LAMP_HEADROOM_FAULT. The sink headroom of string str, or VLED, leaves its range (R372). -/
  | lampHeadroomFault (str : Fin 8) (vled : Nat) (t : Nat)
  /-- LAMP_FORCE_END. The forced duration of string str ends (R381). -/
  | lampForceEnd (str : Fin 8) (t : Nat)
  /-- ILM_CHAIN_WRITE. A write of ILM_CHAIN (R386). -/
  | ilmChainWrite (c : MnrCmd)
  /-- CHAIN_SHIFT_DONE. The second pass of the chain ends; ret, what LXP_RET returned (R386). -/
  | chainShiftDone (ret : List Word) (t : Nat)
  /-- AUX_WORD. An auxiliary conversion word ends (R396 to R405). -/
  | auxWord (v ref vc refc : Int) (comp : Bool) (t : Nat)
  /-- AUX_ARBITRATION. Both auxiliary converters are tested (R404). -/
  | auxArbitration (prim chk : ArbRes) (t : Nat)
  /-- AUX_STALE. Slot slot forms no result for 100 ms (R401). -/
  | auxStale (slot : Fin 32) (t : Nat)
  /-- AMON_STALE. Pin AMONa has no valid result for STALE_MS (R406). -/
  | amonStale (a : Fin 4) (t : Nat)
  /-- AUX_READ_TIMEOUT. The oldest fresh AUX_READ has waited for more than 1 s (R407). -/
  | auxReadTimeout (t : Nat)
  /-- IC_ARRIVAL. The input of source n qualifies under SENSE (R418). -/
  | icArrival (n : Fin 512) (t : Nat)
  /-- IC_CLAIM. Target e reads IC_CLAIM (R421). -/
  | icClaim (e : Fin 5) (t : Nat)
  /-- IC_COMPLETE. Target e writes IC_COMPLETE (R422). -/
  | icComplete (e : Fin 5) (n : Fin 1024) (t : Nat)
  /-- IC_CFG_WRITE. Target e writes IC_CFG[n] (R417, R427). -/
  | icCfgWrite (e : Fin 5) (n : Fin 512) (v : Word) (t : Nat)
  /-- IC_GCTL_WRITE. Endpoint e writes IC_GCTL (R423, R427). -/
  | icGctlWrite (e : Fin 5) (v : Word) (t : Nat)
  /-- TAPROOT_INPUT. Taproot input i takes level v (R429). -/
  | taprootInput (i : Fin 32) (v : Bool) (t : Nat)
  /-- TAP_EVENT_W1C. Distaff clears bits of TAP_EVENT (R430). -/
  | tapEventW1c (v : Word) (t : Nat)
  /-- TAP_TIMER_EXPIRY. The wake timer expires (R430). -/
  | tapTimerExpiry (t : Nat)
  /-- SLEEP_COMMIT. The save ends at the commit point (R431, R476). -/
  | sleepCommit (t : Nat)
  /-- SLEEP_WAKE. A wake source after the commit point (R433). -/
  | sleepWake (t : Nat)
  /-- KRM_DATA_BLOCK. A DATA block for queue q with the payload ws (R437, R440). -/
  | krmDataBlock (h : KHdr) (q : Fin 32) (ws : List Word) (end_ abort : Bool) (t : Nat)
  /-- KRM_ACK_BLOCK. An ACK block up to SEQ a (R439). -/
  | krmAckBlock (h : KHdr) (a : Fin 4096) (t : Nat)
  /-- KRM_NAK_BLOCK. A NAK block that expects SEQ e (R439). -/
  | krmNakBlock (h : KHdr) (e : Fin 4096) (t : Nat)
  /-- KRM_CREDIT_BLOCK. A CREDIT block that grants n units for queue q (R440). -/
  | krmCreditBlock (h : KHdr) (q : Fin 32) (n : Nat) (t : Nat)
  /-- KRM_TIME_BLOCK. A TIME block (R447). -/
  | krmTimeBlock (h : KHdr) (reply : Bool) (path : Nat) (t : Nat)
  /-- KRM_LINE_BLOCK. A LINE block (R450, R452). -/
  | krmLineBlock (h : KHdr) (b : LineBlk) (t : Nat)
  /-- KRM_PACE_BLOCK. A PACE block (R454). -/
  | krmPaceBlock (h : KHdr) (vd : Nat) (xoff : Bool) (restart : Option Nat) (t : Nat)
  /-- KRM_DISC_BLOCK. A DISC block (R442). -/
  | krmDiscBlock (h : KHdr) (uid addr port : Nat) (reply : Bool) (t : Nat)
  /-- KRM_CONFIRM_BLOCK. A CONFIRM block (R455, R458). -/
  | krmConfirmBlock (h : KHdr) (k : Nat) (again : Bool) (t : Nat)
  /-- KRM_GROUP_BLOCK. A GROUP block (R445, R446, R459). -/
  | krmGroupBlock (h : KHdr) (m : GroupMsg) (t : Nat)
  /-- STITCH_TILE_TIMEOUT. A tile is still missing after TILE_TMO (R456). -/
  | stitchTileTimeout (t : Nat)
  /-- KRM_LANE_FAIL. Lane l of port p fails (R435, R436). -/
  | krmLaneFail (p : Fin 4) (l : Fin 5) (t : Nat)
  /-- KRM_REPLAY_TIMEOUT. 4 µs without an acknowledgement on port p (R439). -/
  | krmReplayTimeout (p : Fin 4) (t : Nat)
  /-- KRM_ACK_TIMER. The receiver of port p acknowledges (R439). -/
  | krmAckTimer (p : Fin 4) (t : Nat)
  /-- KRM_SIGNAL_DETECT. Signal appears on port p (R434). -/
  | krmSignalDetect (p : Fin 4) (t : Nat)
  /-- KRM_HEARTBEAT. The 100 µs heartbeat (R446). -/
  | krmHeartbeat (t : Nat)
  /-- KRM_MEMBER_SILENT. Member a has been silent for 1 ms (R446). -/
  | krmMemberSilent (a : Fin 4096) (t : Nat)
  /-- KRM_TIME_EXCHANGE. A time exchange with its four instants (R447). -/
  | krmTimeExchange (t1 t2 t3 t4 : Nat)
  /-- KRM_TIME_LOCK_LOST. No exchange succeeds for 100 µs (R448). -/
  | krmTimeLockLost (t : Nat)
  /-- KRM_MASTER_LOST. No LINE block 1 µs after one expected (R459). -/
  | krmMasterLost (t : Nat)
  /-- GROUP_JOIN_TIMEOUT. No master answers a join within 50 ms (R445). -/
  | groupJoinTimeout (t : Nat)
  /-- POWER_ON_RELEASE. VIN has been above V_POR for 10 ms (R468). -/
  | powerOnRelease
  /-- VIN_WARN. VIN falls below V_WARN (R470). -/
  | vinWarn (t : Nat)
  /-- VIN_POR_FALL. VIN falls below 4.00 V (R469). -/
  | vinPorFall
  /-- VIN_RESTORED. VIN is above V_WARN + 200 mV for 1 ms (R469). -/
  | vinRestored (t : Nat)
  /-- SYS_RESET. SYS_RESET_L goes low (R472). -/
  | sysReset
  /-- PWR_MONITOR_TICK. VIN in mV and the die temperature in 1/16 °C are read (R477). -/
  | pwrMonitorTick (vin : Nat) (temp : Int) (t : Nat)
  /-- BOOT_END. Distaff has checked and started the images; map, the body of the map image (R491, R492). -/
  | bootEnd (map : List Word) (t : Nat)
  /-- CALIBRATE_END. The calibration sequence ends (R474). -/
  | calibrateEnd (delays mv : List Nat) (t : Nat)
  /-- SAFE_ENTRY_DONE. Every axis is at rest and every table has ended (R473). -/
  | safeEntryDone (t : Nat)
  /-- READY_ENTRY_DONE. The axis is at rest and the TDI flush is done (R527). -/
  | readyEntryDone (t : Nat)
  /-- DOMAIN_RESET_DONE. Domain n runs again (R478). -/
  | domainResetDone (n : Fin 16) (t : Nat)
  /-- CORE_READY. The new core image reports ready (R496). -/
  | coreReady (t : Nat)
  /-- LIVE_UPDATE_TIMEOUT. The new image is not ready within 50 ms (R496). -/
  | liveUpdateTimeout (t : Nat)
  /-- IMAGE_LOAD_DONE. The image write ends; ok, whether programming succeeded (R494). -/
  | imageLoadDone (ok : Bool) (t : Nat)
  /-- KEY_PROVISION_DONE. The fuses are programmed (R490). -/
  | keyProvisionDone (t : Nat)
  /-- DEBUG_ATTACH. A debug attach request (R498). -/
  | debugAttach (t : Nat)
  /-- DEBUG_RESPONSE. A response for a debug scope; sig, whether its signature verifies (R498). -/
  | debugResponse (scope : Fin 2) (sig : Bool) (t : Nat)
  /-- JTAG_INSTRUCTION. A boundary-scan instruction is loaded; drives, whether it drives balls (R499). -/
  | jtagInstruction (ir : Nat) (drives : Bool) (t : Nat)
  /-- REGISTER_WRITE. An access of a register by the host (none) or an endpoint, of 64 bits where wide: the row's write of v, or (none) a read, which has no row of its own (R2, R299, R484; assumption log 7). -/
  | registerWrite (who : Option (Fin 5)) (addr : Word) (v : Option (BitVec 64)) (wide : Bool) (t : Nat)
  /-- STB_CLK_EDGE. STB_CLK rises while STB_L is low (R27). -/
  | stbClkEdge (t : Nat)
  /-- BANK_SUPPLY_RETURN. The supply of bank b is in range again and reads v (R43). -/
  | bankSupplyReturn (b : Fin 6) (v : Fin 4) (t : Nat)
  /-- REF_RESTORED. The converter reference is back within tolerance (R78). -/
  | refRestored (t : Nat)
  /-- KRM_LINK_UP. Training of port p completes (R458). -/
  | krmLinkUp (p : Fin 4) (t : Nat)
  /-- SYS_RESET_RELEASE. SYS_RESET_L rises (R472). -/
  | sysResetRelease
  /-- IC_LEVEL_DEASSERT. The input of source n falls to 0 (R419). -/
  | icLevelDeassert (n : Fin 512) (t : Nat)
  /-- LIMIT_INPUT_RELEASE. A limit input of axis n is released (R350). -/
  | limitInputRelease (n : Fin 4) (pos : Bool) (t : Nat)
  /-- EXT_DRIVER_FAULT_RELEASE. FLTn_L is high again (R358). -/
  | extDriverFaultRelease (n : Fin 4) (t : Nat)
  /-- SHU_TEMP_MEASURE. The stage temperature of axis n, in 1/16 °C (R366). -/
  | shuTempMeasure (n : Fin 4) (temp : Int) (t : Nat)
  /-- STAGE_PWM_PERIOD. A PWM period of axis n: VIN in mV and the current in mA (R356). -/
  | stagePwmPeriod (n : Fin 4) (vin cur : Nat) (t : Nat)
deriving DecidableEq, Repr

end Sys2Proof
end

