-- ==== Sys2Proof/Config.lean ====
section
/-! DEFINITION. What the manual leaves open: free values. None of these constants has a body, so nothing can be proved of their values. -/

namespace Sys2Proof.Config

/-- A free 32-bit value for every number drawn: the value of a quantity the manual leaves undefined (assumption log 3). -/
opaque freeWord : Nat → BitVec 32

/-- The inbound queue at its destination that receives the words of an outbound (ROLE 4) queue: the spec does not say how the sender knows it
(assumption log 3). -/
opaque destQueue : Nat → BitVec 5

/-- The node whose outbound queue feeds an inbound (ROLE 2) queue, to which its credit goes: the spec does not say how the receiver knows it
(assumption log 3). -/
opaque creditNode : Nat → BitVec 12

end Sys2Proof.Config
end

