-- ==== Sys2Proof/Machine/Unit/Pipeline.lean ====
section
/-! DEFINITION. State of Heddle (chapter 7), the TDI engine (8), the statistics unit (9), Skein and Reel (10). Every field's default value is
its value at reset. -/

namespace Sys2Proof.Machine

/-- A sample on its way to Heddle (R69, R70, R127): stream, sample index, owning line, code, RANGE, SUBST and the instant it was taken. -/
structure Sample where
  stream : Nat
  j : Nat
  line : Nat
  code : Nat
  rng : Nat
  subst : Bool
  at_ : Nat
deriving DecidableEq, Repr

/-- One bank of the table RAM (R164): the words of HDL_MAP, linearity tables (a table that is not listed is the identity of Table 7.9),
defect entries, correction entries (none: never loaded, so undefined), and the poisoned words as (table, address). -/
structure HdlSet where
  map : List Word := [0x00010000#32, 1#32]
  lin : Sparse (List Word) := []
  defects : List Nat := []
  tab : Sparse (Option Nat) := []
  poison : List (Nat × Nat) := []
deriving DecidableEq, Repr

/-- A pixel after step 4 (R143, R153, R210): y3, the shading tap y_u, RANGE, INVALID (its sample or its table words carry no measurement). -/
structure HPix where
  y3 : Int
  yu : Int
  rng : Nat
  invalid : Bool
deriving DecidableEq, Repr

/-- A line Heddle holds (R148): index, phase, bank, the phase gain and the SHADE entries its pixels are corrected with (R154, R155), pixels
by grid position (row * WIDTH + col), whether it was closed early, had a saturated gain (R153) or met a poisoned word (R163). -/
structure HLine where
  k : Nat
  phase : Nat
  bank : Bool
  pg : Nat
  shade : Sparse Nat
  px : Sparse (Option HPix) := []
  forced : Bool := false
  clip : Bool := false
  ue : Bool := false
deriving DecidableEq, Repr

/-- A line after step 6, waiting for packing: index, values in 1/16 code with their combined RANGE. -/
structure OutLine where
  k : Nat
  v : List (Int × Nat)
  flags : Nat := 0
  ovr : Nat := 0
  undr : Nat := 0
  pgEpoch : Nat := 0
deriving DecidableEq, Repr

/-- Heddle (R142 to R181). resets: the swap lines whose statistics are not yet restarted, each with SHADE_RESET (R166, R215). -/
structure Hdl where
  bank : List HdlSet := [{}, {}]
  live : Bool := false
  loadState : Nat := 0
  bankEpoch : Nat := 0
  swapLine : Nat := 0
  atLine : Bool := false
  shadeReset : Bool := false
  resets : List (Nat × Bool) := []
  copyMbx : Option (Nat × Nat × Nat) := none
  lines : List HLine := []
  lastPassed : Option Nat := none
  shade : List (Sparse Nat) := List.replicate 8 []
  comp : List Nat := List.replicate 8 0x4000
  pg : List Nat := List.replicate 8 0x4000
  pgEpoch : Nat := 0
  defLog : List Nat := []
  unlisted : List Nat := []
  defFull : Bool := false
  defLost : Nat := 0
  defAdded : Nat := 0
  unmapped : Nat := 0
  ceCount : Nat := 0
  ueCount : Nat := 0
  ueAddr : Nat := 0
  ueTable : Nat := 0
  forced : Nat := 0
  filled : Nat := 0
  clipGain : Nat := 0
  clipPack : Nat := 0
  resume : Option Nat := none
  discardFrom : Option Nat := none
  inq : List Sample := []
  packQ : List OutLine := []
deriving DecidableEq, Repr

/-- An open output line of the TDI engine (R186 to R192). -/
structure TLine where
  n : Nat
  w : Nat := 0
  acc : Sparse Int := []
  tag : Sparse Nat := []
  ledger : List (Nat × Nat) := []
  flags : Nat := 0
  ovr : Nat := 0
  undr : Nat := 0
  pgEpoch : Nat := 0
  clip : Bool := false
deriving DecidableEq, Repr

/-- The position of one TDI_ROW event (R184): line, order in the line, and d_e, or d_open while the exposure window is still open. -/
structure RowPos where
  k : Nat
  r : Nat
  d : Int
  waiting : Bool := false
deriving DecidableEq, Repr

/-- The TDI engine (R182 to R209). -/
structure Tdi where
  lines : List TLine := []
  rows : List RowPos := []
  first : Option Nat := none
  frames : List Nat := []
  lowest : Nat := 0
  quietBelow : Nat := 0
  held : Bool := false
  rebuild : Nat := 0
  fallback : Nat := 0
  lateDrop : Nat := 0
  clip : Nat := 0
  ledgerOvf : Nat := 0
  zeroW : Nat := 0
  partials : Nat := 0
deriving DecidableEq, Repr

/-- One histogram engine (R220): the lines it has counted in since the last copy, oldest first, each with the bins of its values, and the last
copy. -/
structure Hist where
  lines : List (Nat × Sparse Nat) := []
  snap : Sparse Nat := []
  snapLine : Nat := 0
  snaps : Nat := 0
deriving DecidableEq, Repr

/-- The statistics unit (R210 to R231). left: the lines that have left step 5 and whose figures are not formed yet (R221 to R223). -/
structure Stat where
  m : List (Sparse Int) := List.replicate 8 []
  n : List (Sparse Nat) := List.replicate 8 []
  target : List (Sparse Nat) := List.replicate 8 []
  clipRun : List (Sparse Nat) := List.replicate 8 []
  limit : List (Sparse Bool) := List.replicate 8 []
  level : List Nat := List.replicate 8 0
  committed : List Nat := List.replicate 8 0
  moving : Bool := false
  limitCols : Nat := 0
  linesRejected : Nat := 0
  blackShort : Nat := 0
  autoDefects : Nat := 0
  hist : List Hist := List.replicate 4 {}
  raw : List RawConv := []
  figs : List (Nat × Int) := []
  left : List Nat := []
deriving DecidableEq, Repr

/-- A queue word (Table 10.1): eight data words, parity bits, END and ABORT. -/
structure QWord where
  d : List Word
  par : Nat
  end_ : Bool
  abort : Bool := false
deriving DecidableEq, Repr

/-- A record that the Reel reader hands out, as Reel's directory has it (R244, R295): index, length in queue words, and the words of it that
read as uncorrectable (R246). -/
structure DirEntry where
  k : Nat
  len : Nat
  ue : List Nat := []
deriving DecidableEq, Repr

/-- A Skein queue (R232 to R241): words oldest first, PKT, ABOVE, whether its consumer is dropping the remainder of a packet, and the words
its producer has ready but could not push (R237). stalled: the first of those waits in a push; waitPop: a pop waits for a word (true, that of a
header), with the data bits upset in the SRAM and whether a word read again is uncorrectable; head: the first word of a header whose second one is waited for; dir, got: the records of an
outbound queue that are not taken whole yet, and the words of the first one that are. -/
structure Queue where
  q : List QWord := []
  pkt : Nat := 0
  above : Bool := false
  drop : Bool := false
  midPush : Bool := false
  wait : List QWord := []
  stalled : Bool := false
  waitPop : Option (Bool × Nat × Bool) := none
  head : Option (QWord × Nat) := none
  dir : List DirEntry := []
  got : Nat := 0
deriving DecidableEq, Repr

/-- A committed record (R244, R245): index, start in 32-byte units, data words in 32-byte groups. -/
structure Record where
  k : Nat
  start : Nat
  words : List (List Word)
deriving DecidableEq, Repr

/-- A record being written (R245). -/
structure Writing where
  k : Nat
  words : List (List Word)
  total : Nat
  poison : Bool := false
  ended : Bool := false
deriving DecidableEq, Repr

/-- A line store (R243 to R252). -/
structure Store where
  recs : List Record := []
  writePtr : Nat := 0
  lastIndex : Nat := 0
  confirm : Nat := 0
  recNone : Bool := true
  confNone : Bool := true
  above : Bool := false
  xoff : Bool := false
  refusing : Bool := false
  firstRefused : Nat := 0
  refused : Nat := 0
  writing : Option Writing := none
  release : Option Nat := none
deriving DecidableEq, Repr

/-- Skein and Reel (R232 to R257). quiet: the queue whose watermark waits for the other access of its Skein cycle (R238; the model's own field). -/
structure Skn where
  queue : List Queue := List.replicate 32 {}
  store : List Store := List.replicate 4 {}
  parityPoison : Nat := 0
  refetch : Nat := 0
  hdrParity : Nat := 0
  aborts : Nat := 0
  reelCe : Nat := 0
  reelUe : Nat := 0
  reelUeAddr : Nat := 0
  poisonIndex : Nat := 0
  selfRefresh : Bool := false
  quiet : Option Nat := none
deriving DecidableEq, Repr

end Sys2Proof.Machine
end

