-- ==== Sys2Proof/Machine/Dev.lean ====
section
/-! DEFINITION. The device: every register, FIFO, buffer, counter, mode and pin of the block, without the queue of waiting commands. Every
field's default value is its value at reset. -/

namespace Sys2Proof.Machine

/-- The device's state. now: the last instant (62.5 ps steps from the exit from RESET). seed: how many free values were drawn (the model's
own field, not the manual's). objs: the contents of each written Meoner object (an object that is not listed holds its reset contents);
liveOld: the contents in force of an object whose new contents are staged. hostMem: the bytes the device wrote to host memory. lines: the
lines between their start and their record in Reel. -/
structure Dev where
  now : Nat := 0
  seed : Nat := 0
  objs : Sparse (List Word) := []
  liveOld : Sparse (List Word) := []
  hostMem : List Host.Cell := []
  lines : List LineRec := []
  spn : Spn := {}
  sdrv : Sdrv := {}
  acq : Acq := {}
  cal : Cal := {}
  jlk : Jlk := {}
  hdl : Hdl := {}
  tdi : Tdi := {}
  stat : Stat := {}
  skn : Skn := {}
  pace : Pace := {}
  hs : Hs := {}
  mbx : Mbx := {}
  mnr : Mnr := {}
  ic : Ic := {}
  tap : Tap := {}
  shu : Shu := {}
  ilm : Ilm := {}
  aux : Aux := {}
  krm : Krm := {}
  pwr : Pwr := {}
  sec : Sec := {}
deriving DecidableEq, Repr

/-! Changing one part of the device. -/

def Dev.uSpn (f : Spn → Spn) (d : Dev) : Dev := { d with spn := f d.spn }
def Dev.uSdrv (f : Sdrv → Sdrv) (d : Dev) : Dev := { d with sdrv := f d.sdrv }
def Dev.uAcq (f : Acq → Acq) (d : Dev) : Dev := { d with acq := f d.acq }
def Dev.uCal (f : Cal → Cal) (d : Dev) : Dev := { d with cal := f d.cal }
def Dev.uJlk (f : Jlk → Jlk) (d : Dev) : Dev := { d with jlk := f d.jlk }
def Dev.uHdl (f : Hdl → Hdl) (d : Dev) : Dev := { d with hdl := f d.hdl }
def Dev.uTdi (f : Tdi → Tdi) (d : Dev) : Dev := { d with tdi := f d.tdi }
def Dev.uStat (f : Stat → Stat) (d : Dev) : Dev := { d with stat := f d.stat }
def Dev.uSkn (f : Skn → Skn) (d : Dev) : Dev := { d with skn := f d.skn }
def Dev.uPace (f : Pace → Pace) (d : Dev) : Dev := { d with pace := f d.pace }
def Dev.uHs (f : Hs → Hs) (d : Dev) : Dev := { d with hs := f d.hs }
def Dev.uMbx (f : Mbx → Mbx) (d : Dev) : Dev := { d with mbx := f d.mbx }
def Dev.uMnr (f : Mnr → Mnr) (d : Dev) : Dev := { d with mnr := f d.mnr }
def Dev.uIc (f : Ic → Ic) (d : Dev) : Dev := { d with ic := f d.ic }
def Dev.uTap (f : Tap → Tap) (d : Dev) : Dev := { d with tap := f d.tap }
def Dev.uShu (f : Shu → Shu) (d : Dev) : Dev := { d with shu := f d.shu }
def Dev.uIlm (f : Ilm → Ilm) (d : Dev) : Dev := { d with ilm := f d.ilm }
def Dev.uAux (f : Aux → Aux) (d : Dev) : Dev := { d with aux := f d.aux }
def Dev.uKrm (f : Krm → Krm) (d : Dev) : Dev := { d with krm := f d.krm }
def Dev.uPwr (f : Pwr → Pwr) (d : Dev) : Dev := { d with pwr := f d.pwr }
def Dev.uSec (f : Sec → Sec) (d : Dev) : Dev := { d with sec := f d.sec }

/-- Time moves on to the instant t (never back). -/
def Dev.at_ (t : Nat) (d : Dev) : Dev := { d with now := max d.now t }

/-- The next free value, below 2^w (assumption log 3). -/
def Dev.free (w : Nat) (d : Dev) : Nat := (Config.freeWord d.seed).toNat % 2 ^ w

/-- The device after one free value has been drawn. -/
def Dev.drawn (d : Dev) : Dev := { d with seed := d.seed + 1 }

/-- The time counter in ns (R12, R447): 62.5 ps steps with the correction of the group time. -/
def Dev.ns (d : Dev) : Nat := ((125 * (d.now : Int) + d.krm.ofsHalf) / 2000).toNat

/-- The mode (R6). -/
def Dev.mode (d : Dev) : Mode := d.pwr.mode

def Dev.inMode (ms : List Mode) (d : Dev) : Bool := ms.contains d.pwr.mode

/-- Domain n runs (Table 20.12, DOMAIN_STATE). -/
def Dev.runs (n : Nat) (d : Dev) : Bool := d.pwr.domState.getD n 0 == 0

/-- Nothing happens unless c holds: an event that cannot arise in this state leaves the state as it is (assumption log 5). -/
def guardD (c : Bool) (f : Dev → Dev) (d : Dev) : Dev := if c then f d else d

end Sys2Proof.Machine
end

