-- ==== Sys2Proof/Machine/ObjTable.lean ====
section
/-! DEFINITION. The field maps of the Meoner objects, one namespace for each object table of the spec (Tables 2.5 to 21.8): for every
field its place (bit offset from bit 0 of W0), width, access code (R2, Table 0.2), reset value and range of accepted values.
Resets "x" and "fw" are entered as 0 here (assumption log). -/

namespace Sys2Proof.Machine

/-- The access codes of Table 0.2 (R2), and the reserved fields. -/
inductive Acc where
  | rw | ro | wo | w1c | rc | rwl | rom | rsv
deriving DecidableEq, Repr

/-- One field of an object: object ID, first bit counted from bit 0 of W0, width, access code, reset value, least and greatest value a
write may carry. -/
structure FldDef where
  obj : Nat
  off : Nat
  wid : Nat
  acc : Acc
  rst : Nat
  lo : Nat
  hi : Nat
deriving DecidableEq, Repr

end Sys2Proof.Machine

namespace Sys2Proof.Machine.Obj

/-! Table 2.5 SPN_CTL (0x1000) -/
namespace SPN_CTL
def id : Nat := 0x1000
def SCAN_SRC : FldDef := ⟨id, 0, 4, .rw, 0, 0, 8⟩
def DIR : FldDef := ⟨id, 4, 1, .rw, 0, 0, 1⟩
def LS_FAST : FldDef := ⟨id, 5, 1, .rw, 0, 0, 1⟩
def PHASES : FldDef := ⟨id, 8, 4, .rw, 1, 1, 8⟩
def VEL_AVG : FldDef := ⟨id, 12, 3, .rw, 2, 0, 4⟩
def LINE_PITCH : FldDef := ⟨id, 32, 32, .rw, 25600, 1, 4294967295⟩
def ORIGIN : FldDef := ⟨id, 64, 64, .rw, 0, 0, 18446744073709551615⟩
def FRAME_LINES : FldDef := ⟨id, 128, 32, .rw, 0, 0, 4294967295⟩
def DIR_HYST : FldDef := ⟨id, 160, 16, .rw, 256, 0, 65535⟩
def BACKLASH : FldDef := ⟨id, 176, 16, .rw, 0, 0, 65535⟩
def OVERSPEED : FldDef := ⟨id, 192, 27, .rw, 100000000, 1, 100000000⟩
def LS_WIDTH : FldDef := ⟨id, 224, 8, .rw, 16, 4, 255⟩
def fields : List FldDef :=
  [SCAN_SRC, DIR, LS_FAST, ⟨id, 6, 2, .rsv, 0, 0, 0⟩, PHASES, VEL_AVG, ⟨id, 15, 17, .rsv, 0, 0, 0⟩, LINE_PITCH, ORIGIN, FRAME_LINES, DIR_HYST, BACKLASH, OVERSPEED, ⟨id, 219, 5, .rsv, 0, 0, 0⟩, LS_WIDTH, ⟨id, 232, 24, .rsv, 0, 0, 0⟩]
end SPN_CTL

/-! Table 2.6 SPN_PORTn (0x1001 + n) -/
namespace SPN_PORT
def id (n : Nat) : Nat := 0x1001 + n
def TYPE (n : Nat) : FldDef := ⟨id n, 0, 2, .rw, 0, 0, 2⟩
def FILTER (n : Nat) : FldDef := ⟨id n, 2, 4, .rw, 2, 0, 15⟩
def Z_MODE (n : Nat) : FldDef := ⟨id n, 6, 2, .rw, 0, 0, 2⟩
def SSI_CODE (n : Nat) : FldDef := ⟨id n, 8, 1, .rw, 0, 0, 1⟩
def SSI_BITS (n : Nat) : FldDef := ⟨id n, 16, 6, .rw, 25, 8, 40⟩
def SSI_CLK (n : Nat) : FldDef := ⟨id n, 24, 7, .rw, 20, 1, 100⟩
def Z_PERIOD (n : Nat) : FldDef := ⟨id n, 32, 32, .rw, 0, 0, 4294967295⟩
def Z_TOL (n : Nat) : FldDef := ⟨id n, 64, 8, .rw, 1, 0, 255⟩
def SSI_PAUSE (n : Nat) : FldDef := ⟨id n, 72, 16, .rw, 200, 1, 65535⟩
def HOME (n : Nat) : FldDef := ⟨id n, 96, 64, .rw, 0, 0, 18446744073709551615⟩
def fields (n : Nat) : List FldDef :=
  [TYPE n, FILTER n, Z_MODE n, SSI_CODE n, ⟨id n, 9, 7, .rsv, 0, 0, 0⟩, SSI_BITS n, ⟨id n, 22, 2, .rsv, 0, 0, 0⟩, SSI_CLK n, ⟨id n, 31, 1, .rsv, 0, 0, 0⟩, Z_PERIOD n, Z_TOL n, SSI_PAUSE n, ⟨id n, 88, 8, .rsv, 0, 0, 0⟩, HOME n]
end SPN_PORT

/-! Table 2.7 SPN_STATUS (0x1008) -/
namespace SPN_STATUS
def id : Nat := 0x1008
def POS : FldDef := ⟨id, 0, 64, .ro, 0, 0, 18446744073709551615⟩
def VEL : FldDef := ⟨id, 64, 32, .ro, 0, 0, 4294967295⟩
def LINE_INDEX : FldDef := ⟨id, 96, 48, .ro, 0, 0, 281474976710655⟩
def FRAME_INDEX : FldDef := ⟨id, 160, 32, .ro, 0, 0, 4294967295⟩
def ENC_FAULT : FldDef := ⟨id, 192, 4, .rc, 0, 0, 15⟩
def Z_FAULT : FldDef := ⟨id, 196, 4, .rc, 0, 0, 15⟩
def OVERSPEED : FldDef := ⟨id, 200, 1, .rc, 0, 0, 1⟩
def REVERSED : FldDef := ⟨id, 201, 1, .ro, 0, 0, 1⟩
def POS_VALID : FldDef := ⟨id, 202, 1, .ro, 0, 0, 1⟩
def TPL_STAGED : FldDef := ⟨id, 203, 1, .ro, 0, 0, 1⟩
def TPL_BANK : FldDef := ⟨id, 204, 1, .ro, 0, 0, 1⟩
def TPL_EPOCH : FldDef := ⟨id, 224, 16, .ro, 0, 0, 65535⟩
def ABORTS : FldDef := ⟨id, 240, 16, .ro, 0, 0, 65535⟩
def STB_POS : FldDef := ⟨id, 256, 64, .ro, 0, 0, 18446744073709551615⟩
def STB_COUNT : FldDef := ⟨id, 320, 32, .ro, 0, 0, 4294967295⟩
def fields : List FldDef :=
  [POS, VEL, LINE_INDEX, ⟨id, 144, 16, .rsv, 0, 0, 0⟩, FRAME_INDEX, ENC_FAULT, Z_FAULT, OVERSPEED, REVERSED, POS_VALID, TPL_STAGED, TPL_BANK, ⟨id, 205, 19, .rsv, 0, 0, 0⟩, TPL_EPOCH, ABORTS, STB_POS, STB_COUNT]
end SPN_STATUS

/-! Table 2.8 SPN_TEMPLATE (0x1010) -/
namespace SPN_TEMPLATE
def id : Nat := 0x1010
def EVENTS : FldDef := ⟨id, 0, 13, .rw, 0, 0, 4096⟩
def TPL_ID : FldDef := ⟨id, 32, 32, .rw, 0, 0, 4294967295⟩
def fields : List FldDef :=
  [EVENTS, ⟨id, 13, 19, .rsv, 0, 0, 0⟩, TPL_ID]
end SPN_TEMPLATE

/-! Table 3.5 SDRV_CTL (0x1100) -/
namespace SDRV_CTL
def id : Nat := 0x1100
def IDLE_EN : FldDef := ⟨id, 0, 1, .rw, 0, 0, 1⟩
def IDLE_TABLE : FldDef := ⟨id, 8, 6, .rw, 0, 0, 63⟩
def LAMP_GATE : FldDef := ⟨id, 16, 2, .rw, 1, 0, 2⟩
def IDLE_PERIOD : FldDef := ⟨id, 32, 32, .rw, 100000, 1000, 4294967295⟩
def LAMP_GROUP : FldDef := ⟨id, 64, 16, .rw, 0, 0, 65535⟩
def fields : List FldDef :=
  [IDLE_EN, ⟨id, 1, 7, .rsv, 0, 0, 0⟩, IDLE_TABLE, ⟨id, 14, 2, .rsv, 0, 0, 0⟩, LAMP_GATE, ⟨id, 18, 14, .rsv, 0, 0, 0⟩, IDLE_PERIOD, LAMP_GROUP, ⟨id, 80, 16, .rsv, 0, 0, 0⟩]
end SDRV_CTL

/-! Table 3.6 SDRV_PIN word n (0x1101) -/
namespace SDRV_PIN
def id : Nat := 0x1101
def MODE (n : Nat) : FldDef := ⟨id, 32 * (n) + (0), 2, .rw, 0, 0, 3⟩
def DRIVE (n : Nat) : FldDef := ⟨id, 32 * (n) + (2), 2, .rw, 1, 0, 3⟩
def SLEW (n : Nat) : FldDef := ⟨id, 32 * (n) + (4), 1, .rw, 0, 0, 1⟩
def IDLE (n : Nat) : FldDef := ⟨id, 32 * (n) + (5), 1, .rw, 0, 0, 1⟩
def fields : List FldDef :=
  ((List.range 48).flatMap fun n => [ MODE n, DRIVE n, SLEW n, IDLE n, ⟨id, 32 * (n) + (6), 26, .rsv, 0, 0, 0⟩])
end SDRV_PIN

/-! Table 3.7 SDRV_CDS (0x1102) -/
namespace SDRV_CDS
def id : Nat := 0x1102
def GROUP (c : Nat) : FldDef := ⟨id, 32 * (c / 8) + (4 * (c % 8)), 4, .rw, 15, 0, 15⟩
def fields : List FldDef :=
  ((List.range 64).flatMap fun c => [GROUP c])
end SDRV_CDS

/-! Table 3.8 SDRV_STATUS (0x1108) -/
namespace SDRV_STATUS
def id : Nat := 0x1108
def BANK_V : FldDef := ⟨id, 0, 12, .ro, 0, 0, 4095⟩
def BANK_FAULT : FldDef := ⟨id, 12, 6, .rc, 0, 0, 63⟩
def TBL_STAGED : FldDef := ⟨id, 18, 1, .ro, 0, 0, 1⟩
def TBL_BANK : FldDef := ⟨id, 19, 1, .ro, 0, 0, 1⟩
def CUTS : FldDef := ⟨id, 32, 16, .ro, 0, 0, 65535⟩
def SPILL : FldDef := ⟨id, 48, 16, .ro, 0, 0, 65535⟩
def EXP_OVERRUN : FldDef := ⟨id, 64, 16, .ro, 0, 0, 65535⟩
def DIAG_SKIPPED : FldDef := ⟨id, 80, 16, .ro, 0, 0, 65535⟩
def EXP_LAST (g : Nat) : FldDef := ⟨id, 32 * (3 + g) + (0), 32, .ro, 0, 0, 4294967295⟩
def TBL_EPOCH : FldDef := ⟨id, 224, 16, .ro, 0, 0, 65535⟩
def fields : List FldDef :=
  [BANK_V, BANK_FAULT, TBL_STAGED, TBL_BANK, ⟨id, 20, 12, .rsv, 0, 0, 0⟩, CUTS, SPILL, EXP_OVERRUN, DIAG_SKIPPED, TBL_EPOCH, ⟨id, 240, 16, .rsv, 0, 0, 0⟩] ++
  ((List.range 4).flatMap fun g => [EXP_LAST g])
end SDRV_STATUS

/-! Table 3.9 SDRV_TABLE t (0x1140 + t) -/
namespace SDRV_TABLE
def id (t : Nat) : Nat := 0x1140 + t
def ENTRIES (t : Nat) : FldDef := ⟨id t, 0, 15, .rw, 0, 0, 16384⟩
def CELL_FIRST (t : Nat) : FldDef := ⟨id t, 32, 14, .rw, 0, 0, 16383⟩
def CELL_COUNT (t : Nat) : FldDef := ⟨id t, 48, 14, .rw, 0, 0, 16383⟩
def CELL_START (t : Nat) : FldDef := ⟨id t, 64, 28, .rw, 0, 0, 268435455⟩
def CELL_PERIOD (t : Nat) : FldDef := ⟨id t, 96, 28, .rw, 0, 0, 268435455⟩
def CELL_REPEAT (t : Nat) : FldDef := ⟨id t, 128, 16, .rw, 0, 0, 65535⟩
def fields (t : Nat) : List FldDef :=
  [ENTRIES t, ⟨id t, 15, 17, .rsv, 0, 0, 0⟩, CELL_FIRST t, ⟨id t, 46, 2, .rsv, 0, 0, 0⟩, CELL_COUNT t, ⟨id t, 62, 2, .rsv, 0, 0, 0⟩, CELL_START t, ⟨id t, 92, 4, .rsv, 0, 0, 0⟩, CELL_PERIOD t, ⟨id t, 124, 4, .rsv, 0, 0, 0⟩, CELL_REPEAT t, ⟨id t, 144, 16, .rsv, 0, 0, 0⟩]
end SDRV_TABLE

/-! Table 4.5 ACQ_CTL (0x1200) -/
namespace ACQ_CTL
def id : Nat := 0x1200
def REF_EN : FldDef := ⟨id, 0, 1, .rw, 0, 0, 1⟩
def OPEN_DET : FldDef := ⟨id, 1, 1, .rw, 1, 0, 1⟩
def INJ_TMO : FldDef := ⟨id, 8, 4, .rw, 4, 1, 15⟩
def fields : List FldDef :=
  [REF_EN, OPEN_DET, ⟨id, 2, 6, .rsv, 0, 0, 0⟩, INJ_TMO, ⟨id, 12, 20, .rsv, 0, 0, 0⟩]
end ACQ_CTL

/-! Table 4.6 ACQ_CH word c (0x1201) -/
namespace ACQ_CH
def id : Nat := 0x1201
def MODE (c : Nat) : FldDef := ⟨id, 32 * (c) + (0), 2, .rw, 0, 0, 2⟩
def ILV (c : Nat) : FldDef := ⟨id, 32 * (c) + (2), 1, .rw, 0, 0, 1⟩
def TERM (c : Nat) : FldDef := ⟨id, 32 * (c) + (3), 1, .rw, 0, 0, 1⟩
def BW (c : Nat) : FldDef := ⟨id, 32 * (c) + (4), 2, .rw, 1, 0, 2⟩
def PGA (c : Nat) : FldDef := ⟨id, 32 * (c) + (8), 5, .rw, 0, 0, 24⟩
def fields : List FldDef :=
  ((List.range 64).flatMap fun c => [ MODE c, ILV c, TERM c, BW c, ⟨id, 32 * (c) + (6), 2, .rsv, 0, 0, 0⟩, PGA c, ⟨id, 32 * (c) + (13), 19, .rsv, 0, 0, 0⟩])
end ACQ_CH

/-! Table 4.7 ACQ_WIN (0x1202) -/
namespace ACQ_WIN
def id : Nat := 0x1202
def NWIN : FldDef := ⟨id, 0, 9, .rw, 0, 0, 256⟩
def fields : List FldDef :=
  [NWIN, ⟨id, 9, 23, .rsv, 0, 0, 0⟩]
end ACQ_WIN

/-! Table 4.9 ACQ_CHK (0x1203) -/
namespace ACQ_CHK
def id : Nat := 0x1203
def CH (k : Nat) : FldDef := ⟨id, 32 * (2 * k) + (0), 6, .rw, 0, 0, 63⟩
def SHADOW (k : Nat) : FldDef := ⟨id, 32 * (2 * k) + (7), 1, .rw, 0, 0, 1⟩
def THRESH (k : Nat) : FldDef := ⟨id, 32 * (2 * k) + (8), 12, .rw, 64, 1, 4095⟩
def LIMIT (k : Nat) : FldDef := ⟨id, 32 * (2 * k + 1) + (0), 8, .rw, 4, 1, 255⟩
def FAIL_LINES (k : Nat) : FldDef := ⟨id, 32 * (2 * k + 1) + (8), 8, .rw, 16, 1, 255⟩
def ARB_TOL (k : Nat) : FldDef := ⟨id, 32 * (2 * k + 1) + (16), 12, .rw, 32, 1, 4095⟩
def fields : List FldDef :=
  ((List.range 4).flatMap fun k => [CH k, ⟨id, 32 * (2 * k) + (6), 1, .rsv, 0, 0, 0⟩, SHADOW k, THRESH k, ⟨id, 32 * (2 * k) + (20), 12, .rsv, 0, 0, 0⟩, LIMIT k, FAIL_LINES k, ARB_TOL k, ⟨id, 32 * (2 * k + 1) + (28), 4, .rsv, 0, 0, 0⟩])
end ACQ_CHK

/-! Table 4.10 ACQ_INJ (0x1204) -/
namespace ACQ_INJ
def id : Nat := 0x1204
def CHANNEL : FldDef := ⟨id, 0, 6, .wo, 0, 0, 63⟩
def TAG : FldDef := ⟨id, 32, 32, .wo, 0, 0, 4294967295⟩
def fields : List FldDef :=
  [CHANNEL, ⟨id, 6, 26, .rsv, 0, 0, 0⟩, TAG]
end ACQ_INJ

/-! Table 4.11 ACQ_INJ_RESULT (0x1205) -/
namespace ACQ_INJ_RESULT
def id : Nat := 0x1205
def VALID : FldDef := ⟨id, 0, 1, .rc, 0, 0, 1⟩
def STATUS : FldDef := ⟨id, 8, 8, .rc, 0, 0, 255⟩
def CHANNEL : FldDef := ⟨id, 16, 6, .rc, 0, 0, 63⟩
def CODE : FldDef := ⟨id, 32, 16, .rc, 0, 0, 65535⟩
def RANGE : FldDef := ⟨id, 48, 2, .rc, 0, 0, 3⟩
def TIMESTAMP : FldDef := ⟨id, 64, 64, .rc, 0, 0, 18446744073709551615⟩
def POSITION : FldDef := ⟨id, 128, 64, .rc, 0, 0, 18446744073709551615⟩
def TAG : FldDef := ⟨id, 192, 32, .rc, 0, 0, 4294967295⟩
def fields : List FldDef :=
  [VALID, ⟨id, 1, 7, .rsv, 0, 0, 0⟩, STATUS, CHANNEL, ⟨id, 22, 10, .rsv, 0, 0, 0⟩, CODE, RANGE, ⟨id, 50, 14, .rsv, 0, 0, 0⟩, TIMESTAMP, POSITION, TAG]
end ACQ_INJ_RESULT

/-! Table 4.12 ACQ_STATUS (0x1208) -/
namespace ACQ_STATUS
def id : Nat := 0x1208
def REF_READY : FldDef := ⟨id, 0, 1, .ro, 0, 0, 1⟩
def REF_FAULT : FldDef := ⟨id, 1, 1, .rc, 0, 0, 1⟩
def SPARES_EXHAUSTED : FldDef := ⟨id, 2, 1, .ro, 0, 0, 1⟩
def INJ_PENDING : FldDef := ⟨id, 8, 4, .ro, 0, 0, 15⟩
def INJ_DROPPED : FldDef := ⟨id, 16, 16, .ro, 0, 0, 65535⟩
def OPEN_INPUT : FldDef := ⟨id, 32, 64, .rc, 0, 0, 18446744073709551615⟩
def OPEN_ACTIVE : FldDef := ⟨id, 96, 64, .ro, 0, 0, 18446744073709551615⟩
def FAILED : FldDef := ⟨id, 160, 64, .ro, 0, 0, 18446744073709551615⟩
def CHK_STATE (k : Nat) : FldDef := ⟨id, 32 * (7) + (8 * k), 8, .ro, 0, 0, 255⟩
def WIN_MISSED : FldDef := ⟨id, 256, 16, .ro, 0, 0, 65535⟩
def WIN_CUT : FldDef := ⟨id, 272, 16, .ro, 0, 0, 65535⟩
def MISMATCH_LINES (k : Nat) : FldDef := ⟨id, 32 * (9) + (8 * k), 8, .ro, 0, 0, 255⟩
def RES_LOST : FldDef := ⟨id, 320, 16, .ro, 0, 0, 65535⟩
def fields : List FldDef :=
  [REF_READY, REF_FAULT, SPARES_EXHAUSTED, ⟨id, 3, 5, .rsv, 0, 0, 0⟩, INJ_PENDING, ⟨id, 12, 4, .rsv, 0, 0, 0⟩, INJ_DROPPED, OPEN_INPUT, OPEN_ACTIVE, FAILED, WIN_MISSED, WIN_CUT, RES_LOST, ⟨id, 336, 16, .rsv, 0, 0, 0⟩] ++
  ((List.range 4).flatMap fun k => [CHK_STATE k, MISMATCH_LINES k])
end ACQ_STATUS

/-! Table 5.5 CAL_CTL (0x1300) -/
namespace CAL_CTL
def id : Nat := 0x1300
def BG_EN : FldDef := ⟨id, 0, 1, .rw, 0, 0, 1⟩
def AUTO_SAVE : FldDef := ⟨id, 1, 1, .rw, 0, 0, 1⟩
def BG_TC : FldDef := ⟨id, 8, 4, .rw, 8, 0, 15⟩
def BG_DEAD : FldDef := ⟨id, 16, 4, .rw, 2, 1, 15⟩
def BG_STEP : FldDef := ⟨id, 20, 4, .rw, 1, 1, 15⟩
def BG_SPAN : FldDef := ⟨id, 32, 12, .rw, 32, 1, 2047⟩
def BLACK_TARGET : FldDef := ⟨id, 48, 16, .rw, 400, 1, 65534⟩
def fields : List FldDef :=
  [BG_EN, AUTO_SAVE, ⟨id, 2, 6, .rsv, 0, 0, 0⟩, BG_TC, ⟨id, 12, 4, .rsv, 0, 0, 0⟩, BG_DEAD, BG_STEP, ⟨id, 24, 8, .rsv, 0, 0, 0⟩, BG_SPAN, ⟨id, 44, 4, .rsv, 0, 0, 0⟩, BLACK_TARGET]
end CAL_CTL

/-! Table 5.6 CAL_TRIM (0x1301) -/
namespace CAL_TRIM
def id : Nat := 0x1301
def CONV_OFS (n : Nat) : FldDef := ⟨id, 32 * (n) + (0), 12, .rom, 0, 0, 4095⟩
def CONV_GAIN (n : Nat) : FldDef := ⟨id, 32 * (n) + (12), 10, .rom, 0, 0, 1023⟩
def CONV_SKEW (n : Nat) : FldDef := ⟨id, 32 * (n) + (22), 8, .rom, 0, 0, 255⟩
def FE_OFS (c : Nat) : FldDef := ⟨id, 32 * (68 + c) + (0), 12, .rom, 0, 0, 4095⟩
def FE_GAIN (c : Nat) : FldDef := ⟨id, 32 * (68 + c) + (12), 10, .rom, 0, 0, 1023⟩
def fields : List FldDef :=
  ((List.range 68).flatMap fun n => [CONV_OFS n, CONV_GAIN n, CONV_SKEW n, ⟨id, 32 * (n) + (30), 2, .rsv, 0, 0, 0⟩]) ++
  ((List.range 64).flatMap fun c => [FE_OFS c, FE_GAIN c, ⟨id, 32 * (68 + c) + (22), 10, .rsv, 0, 0, 0⟩])
end CAL_TRIM

/-! Table 5.7 CAL_STATUS (0x1308) -/
namespace CAL_STATUS
def id : Nat := 0x1308
def RUN_STATE : FldDef := ⟨id, 0, 3, .ro, 0, 0, 7⟩
def STORE_BUSY : FldDef := ⟨id, 3, 1, .ro, 0, 0, 1⟩
def STORE_SLOT : FldDef := ⟨id, 4, 2, .ro, 3, 0, 3⟩
def STORE_ABANDONED : FldDef := ⟨id, 6, 1, .rc, 0, 0, 1⟩
def LAST_STATUS : FldDef := ⟨id, 8, 8, .ro, 0, 0, 255⟩
def DISAGREE : FldDef := ⟨id, 16, 16, .ro, 0, 0, 65535⟩
def STORE_SEQ : FldDef := ⟨id, 32, 32, .ro, 0, 0, 4294967295⟩
def CONV_CAL_FAIL : FldDef := ⟨id, 64, 68, .ro, 0, 0, 295147905179352825855⟩
def FE_FAILED : FldDef := ⟨id, 160, 64, .ro, 0, 0, 18446744073709551615⟩
def FE_STALE : FldDef := ⟨id, 224, 64, .ro, 0, 0, 18446744073709551615⟩
def BG_LIMIT : FldDef := ⟨id, 288, 64, .rc, 0, 0, 18446744073709551615⟩
def TRIM_SAT : FldDef := ⟨id, 352, 68, .ro, 0, 0, 295147905179352825855⟩
def fields : List FldDef :=
  [RUN_STATE, STORE_BUSY, STORE_SLOT, STORE_ABANDONED, ⟨id, 7, 1, .rsv, 0, 0, 0⟩, LAST_STATUS, DISAGREE, STORE_SEQ, CONV_CAL_FAIL, ⟨id, 132, 28, .rsv, 0, 0, 0⟩, FE_FAILED, FE_STALE, BG_LIMIT, TRIM_SAT, ⟨id, 420, 28, .rsv, 0, 0, 0⟩]
end CAL_STATUS

/-! Table 6.3 JLK_CTL (0x1400) -/
namespace JLK_CTL
def id : Nat := 0x1400
def JCLK_KHZ : FldDef := ⟨id, 0, 19, .rw, 250000, 100000, 500000⟩
def SYSREF_MODE : FldDef := ⟨id, 32, 2, .rw, 1, 0, 3⟩
def SYSREF_TOL : FldDef := ⟨id, 34, 4, .rw, 1, 0, 15⟩
def fields : List FldDef :=
  [JCLK_KHZ, ⟨id, 19, 13, .rsv, 0, 0, 0⟩, SYSREF_MODE, SYSREF_TOL, ⟨id, 38, 26, .rsv, 0, 0, 0⟩]
end JLK_CTL

/-! Table 6.4 JLK_LINK l (0x1401 + l) -/
namespace JLK_LINK
def id (l : Nat) : Nat := 0x1401 + l
def EN (l : Nat) : FldDef := ⟨id l, 0, 1, .rw, 0, 0, 1⟩
def STD (l : Nat) : FldDef := ⟨id l, 1, 1, .rw, 0, 0, 1⟩
def SCR (l : Nat) : FldDef := ⟨id l, 2, 1, .rw, 0, 0, 1⟩
def HD (l : Nat) : FldDef := ⟨id l, 3, 1, .rw, 0, 0, 1⟩
def TRIG (l : Nat) : FldDef := ⟨id l, 4, 2, .rw, 0, 0, 1⟩
def L (l : Nat) : FldDef := ⟨id l, 8, 6, .rw, 1, 1, 32⟩
def M (l : Nat) : FldDef := ⟨id l, 16, 6, .rw, 1, 1, 32⟩
def F (l : Nat) : FldDef := ⟨id l, 24, 8, .rw, 2, 1, 255⟩
def S (l : Nat) : FldDef := ⟨id l, 32, 6, .rw, 1, 1, 32⟩
def N (l : Nat) : FldDef := ⟨id l, 40, 5, .rw, 16, 8, 16⟩
def NP (l : Nat) : FldDef := ⟨id l, 48, 5, .rw, 16, 0, 31⟩
def CS (l : Nat) : FldDef := ⟨id l, 56, 2, .rw, 0, 0, 3⟩
def SOL_CTL (l : Nat) : FldDef := ⟨id l, 58, 2, .rw, 0, 0, 3⟩
def K (l : Nat) : FldDef := ⟨id l, 64, 6, .rw, 32, 0, 32⟩
def E (l : Nat) : FldDef := ⟨id l, 72, 3, .rw, 0, 0, 4⟩
def RBD (l : Nat) : FldDef := ⟨id l, 80, 8, .rw, 0, 0, 255⟩
def LANE_RATE (l : Nat) : FldDef := ⟨id l, 96, 16, .rw, 0, 0, 65535⟩
def ERR_LIMIT (l : Nat) : FldDef := ⟨id l, 112, 8, .rw, 16, 1, 255⟩
def TRIG_TABLE (l : Nat) : FldDef := ⟨id l, 128, 6, .rw, 0, 0, 63⟩
def LAG (l : Nat) : FldDef := ⟨id l, 136, 2, .rw, 0, 0, 3⟩
def SKIP (l : Nat) : FldDef := ⟨id l, 144, 16, .rw, 0, 0, 65535⟩
def COUNT (l : Nat) : FldDef := ⟨id l, 160, 16, .rw, 1, 1, 65535⟩
def DELAY (l : Nat) : FldDef := ⟨id l, 192, 28, .rw, 0, 0, 268435455⟩
def LANE_MAP (l : Nat) (i : Nat) : FldDef := ⟨id l, 32 * (7 + i / 4) + (8 * (i % 4)), 8, .rw, 0, 0, 63⟩
def fields (l : Nat) : List FldDef :=
  [EN l, STD l, SCR l, HD l, TRIG l, ⟨id l, 6, 2, .rsv, 0, 0, 0⟩, L l, ⟨id l, 14, 2, .rsv, 0, 0, 0⟩, M l, ⟨id l, 22, 2, .rsv, 0, 0, 0⟩, F l, S l, ⟨id l, 38, 2, .rsv, 0, 0, 0⟩, N l, ⟨id l, 45, 3, .rsv, 0, 0, 0⟩, NP l, ⟨id l, 53, 3, .rsv, 0, 0, 0⟩, CS l, SOL_CTL l, ⟨id l, 60, 4, .rsv, 0, 0, 0⟩, K l, ⟨id l, 70, 2, .rsv, 0, 0, 0⟩, E l, ⟨id l, 75, 5, .rsv, 0, 0, 0⟩, RBD l, ⟨id l, 88, 8, .rsv, 0, 0, 0⟩, LANE_RATE l, ERR_LIMIT l, ⟨id l, 120, 8, .rsv, 0, 0, 0⟩, TRIG_TABLE l, ⟨id l, 134, 2, .rsv, 0, 0, 0⟩, LAG l, ⟨id l, 138, 6, .rsv, 0, 0, 0⟩, SKIP l, COUNT l, ⟨id l, 176, 16, .rsv, 0, 0, 0⟩, DELAY l, ⟨id l, 220, 4, .rsv, 0, 0, 0⟩] ++
  ((List.range 32).flatMap fun i => [LANE_MAP l i])
end JLK_LINK

/-! Table 6.5 JLK_RAW g (0x1410 + g) -/
namespace JLK_RAW
def id (g : Nat) : Nat := 0x1410 + g
def EN (g : Nat) : FldDef := ⟨id g, 0, 1, .rw, 0, 0, 1⟩
def CODING (g : Nat) : FldDef := ⟨id g, 1, 1, .rw, 0, 0, 1⟩
def TRIG (g : Nat) : FldDef := ⟨id g, 4, 2, .rw, 0, 0, 1⟩
def WIDTH (g : Nat) : FldDef := ⟨id g, 8, 5, .rw, 12, 8, 16⟩
def LANE_RATE (g : Nat) : FldDef := ⟨id g, 16, 16, .rw, 0, 0, 65535⟩
def LANE_MASK (g : Nat) : FldDef := ⟨id g, 32, 32, .rw, 0, 0, 4294967295⟩
def SOL_WORD (g : Nat) : FldDef := ⟨id g, 64, 16, .rw, 0, 0, 65535⟩
def TRAIN (g : Nat) : FldDef := ⟨id g, 80, 16, .rw, 0, 0, 65535⟩
def TRIG_TABLE (g : Nat) : FldDef := ⟨id g, 96, 6, .rw, 0, 0, 63⟩
def LAG (g : Nat) : FldDef := ⟨id g, 104, 2, .rw, 0, 0, 3⟩
def SKIP (g : Nat) : FldDef := ⟨id g, 112, 16, .rw, 0, 0, 65535⟩
def COUNT (g : Nat) : FldDef := ⟨id g, 128, 16, .rw, 1, 1, 65535⟩
def ERR_LIMIT (g : Nat) : FldDef := ⟨id g, 144, 8, .rw, 16, 1, 255⟩
def DELAY (g : Nat) : FldDef := ⟨id g, 160, 28, .rw, 0, 0, 268435455⟩
def fields (g : Nat) : List FldDef :=
  [EN g, CODING g, ⟨id g, 2, 2, .rsv, 0, 0, 0⟩, TRIG g, ⟨id g, 6, 2, .rsv, 0, 0, 0⟩, WIDTH g, ⟨id g, 13, 3, .rsv, 0, 0, 0⟩, LANE_RATE g, LANE_MASK g, SOL_WORD g, TRAIN g, TRIG_TABLE g, ⟨id g, 102, 2, .rsv, 0, 0, 0⟩, LAG g, ⟨id g, 106, 6, .rsv, 0, 0, 0⟩, SKIP g, COUNT g, ERR_LIMIT g, ⟨id g, 152, 8, .rsv, 0, 0, 0⟩, DELAY g, ⟨id g, 188, 4, .rsv, 0, 0, 0⟩]
end JLK_RAW

/-! Table 6.6 JLK_STATUS (0x1418) -/
namespace JLK_STATUS
def id : Nat := 0x1418
def LINK_STATE (l : Nat) : FldDef := ⟨id, 32 * (0) + (4 * l), 4, .ro, 0, 0, 15⟩
def CDR_LOCK : FldDef := ⟨id, 32, 32, .ro, 0, 0, 4294967295⟩
def LANE_ERR : FldDef := ⟨id, 64, 32, .rc, 0, 0, 4294967295⟩
def SYSREF_FAULT : FldDef := ⟨id, 96, 1, .rc, 0, 0, 1⟩
def DESKEW : FldDef := ⟨id, 97, 1, .rc, 0, 0, 1⟩
def ILAS_MISMATCH : FldDef := ⟨id, 98, 8, .rc, 0, 0, 255⟩
def LAT_SHIFT : FldDef := ⟨id, 106, 8, .rc, 0, 0, 255⟩
def LAT (l : Nat) : FldDef := ⟨id, 32 * (4 + l) + (0), 32, .ro, 0, 0, 4294967295⟩
def REINITS (l : Nat) : FldDef := ⟨id, 32 * (12 + l / 4) + (8 * (l % 4)), 8, .ro, 0, 0, 255⟩
def LWIN_MISSED : FldDef := ⟨id, 448, 16, .ro, 0, 0, 65535⟩
def LWIN_CUT : FldDef := ⟨id, 464, 16, .ro, 0, 0, 65535⟩
def RAW_STATE (g : Nat) : FldDef := ⟨id, 32 * (15) + (4 * g), 4, .ro, 0, 0, 15⟩
def fields : List FldDef :=
  [CDR_LOCK, LANE_ERR, SYSREF_FAULT, DESKEW, ILAS_MISMATCH, LAT_SHIFT, ⟨id, 114, 14, .rsv, 0, 0, 0⟩, LWIN_MISSED, LWIN_CUT, ⟨id, 496, 16, .rsv, 0, 0, 0⟩] ++
  ((List.range 8).flatMap fun l => [LINK_STATE l, LAT l, REINITS l]) ++
  ((List.range 4).flatMap fun g => [RAW_STATE g])
end JLK_STATUS

/-! Table 7.5 HDL_CTL (0x1500) -/
namespace HDL_CTL
def id : Nat := 0x1500
def SUBST_RULE : FldDef := ⟨id, 0, 3, .rw, 0, 0, 4⟩
def FORMAT : FldDef := ⟨id, 4, 3, .rw, 3, 0, 4⟩
def RSHIFT : FldDef := ⟨id, 8, 4, .rw, 0, 0, 15⟩
def RANGE_FORCE : FldDef := ⟨id, 12, 1, .rw, 1, 0, 1⟩
def SWAP_AT : FldDef := ⟨id, 13, 1, .rw, 0, 0, 1⟩
def REACH : FldDef := ⟨id, 16, 16, .rw, 4, 1, 32767⟩
def OUT_OFS : FldDef := ⟨id, 32, 16, .rw, 0, 0, 65535⟩
def FILL : FldDef := ⟨id, 48, 16, .rw, 0, 0, 65535⟩
def DIG_HI : FldDef := ⟨id, 64, 16, .rw, 65472, 0, 65535⟩
def DIG_LO : FldDef := ⟨id, 80, 16, .rw, 0, 0, 65535⟩
def fields : List FldDef :=
  [SUBST_RULE, ⟨id, 3, 1, .rsv, 0, 0, 0⟩, FORMAT, ⟨id, 7, 1, .rsv, 0, 0, 0⟩, RSHIFT, RANGE_FORCE, SWAP_AT, ⟨id, 14, 2, .rsv, 0, 0, 0⟩, REACH, OUT_OFS, FILL, DIG_HI, DIG_LO]
end HDL_CTL

/-! Table 7.6 HDL_MAP (0x1501) -/
namespace HDL_MAP
def id : Nat := 0x1501
def WIDTH : FldDef := ⟨id, 0, 16, .rw, 0, 1, 32768⟩
def ROWS : FldDef := ⟨id, 16, 9, .rw, 1, 1, 256⟩
def CROWS : FldDef := ⟨id, 32, 9, .rw, 1, 1, 256⟩
def TBL_PHASES : FldDef := ⟨id, 41, 1, .rw, 0, 0, 1⟩
def SEGS : FldDef := ⟨id, 48, 11, .rw, 0, 1, 1024⟩
def fields : List FldDef :=
  [WIDTH, ROWS, ⟨id, 25, 7, .rsv, 0, 0, 0⟩, CROWS, TBL_PHASES, ⟨id, 42, 6, .rsv, 0, 0, 0⟩, SEGS, ⟨id, 59, 5, .rsv, 0, 0, 0⟩]
end HDL_MAP

/-! Table 7.8 HDL_TABLE (0x1502) -/
namespace HDL_TABLE
def id : Nat := 0x1502
def START : FldDef := ⟨id, 0, 22, .rw, 0, 0, 3145727⟩
def COUNT : FldDef := ⟨id, 32, 22, .rw, 0, 1, 3145728⟩
def fields : List FldDef :=
  [START, ⟨id, 22, 10, .rsv, 0, 0, 0⟩, COUNT, ⟨id, 54, 10, .rsv, 0, 0, 0⟩]
end HDL_TABLE

/-! Table 7.9 HDL_LIN t (0x1540 + t) -/
namespace HDL_LIN
def id (t : Nat) : Nat := 0x1540 + t
def P (t : Nat) (k : Nat) : FldDef := ⟨id t, 32 * (k / 2) + (16 * (k % 2)), 16, .rw, 16 * k, 0, 65535⟩
def fields (_t : Nat) : List FldDef :=
  []
end HDL_LIN

/-! Table 7.10 HDL_DEFECT (0x1503) -/
namespace HDL_DEFECT
def id : Nat := 0x1503
def COUNT : FldDef := ⟨id, 0, 14, .rw, 0, 0, 8192⟩
def fields : List FldDef :=
  [COUNT, ⟨id, 14, 18, .rsv, 0, 0, 0⟩]
end HDL_DEFECT

/-! Table 7.11 HDL_PHASE (0x1504) -/
namespace HDL_PHASE
def id : Nat := 0x1504
def USER_GAIN (p : Nat) : FldDef := ⟨id, 32 * (p / 2) + (16 * (p % 2)), 16, .rw, 16384, 0, 65535⟩
def fields : List FldDef :=
  ((List.range 8).flatMap fun p => [USER_GAIN p])
end HDL_PHASE

/-! Table 7.13 HDL_STATUS (0x1508) -/
namespace HDL_STATUS
def id : Nat := 0x1508
def LOAD_STATE : FldDef := ⟨id, 0, 2, .ro, 0, 0, 3⟩
def LIVE_BANK : FldDef := ⟨id, 2, 1, .ro, 0, 0, 1⟩
def DEF_FULL : FldDef := ⟨id, 3, 1, .rc, 0, 0, 1⟩
def DEF_COUNT : FldDef := ⟨id, 16, 14, .ro, 0, 0, 16383⟩
def BANK_EPOCH : FldDef := ⟨id, 32, 16, .ro, 0, 0, 65535⟩
def UNMAPPED : FldDef := ⟨id, 48, 16, .ro, 0, 0, 65535⟩
def CE_COUNT : FldDef := ⟨id, 64, 16, .ro, 0, 0, 65535⟩
def UE_COUNT : FldDef := ⟨id, 80, 16, .ro, 0, 0, 65535⟩
def FORCED : FldDef := ⟨id, 96, 16, .ro, 0, 0, 65535⟩
def FILLED : FldDef := ⟨id, 112, 16, .ro, 0, 0, 65535⟩
def CLIP_GAIN : FldDef := ⟨id, 128, 16, .ro, 0, 0, 65535⟩
def CLIP_PACK : FldDef := ⟨id, 144, 16, .ro, 0, 0, 65535⟩
def DEF_LOST : FldDef := ⟨id, 160, 16, .ro, 0, 0, 65535⟩
def DEF_ADDED : FldDef := ⟨id, 176, 16, .ro, 0, 0, 65535⟩
def PG_EPOCH : FldDef := ⟨id, 192, 32, .ro, 0, 0, 4294967295⟩
def COMP (p : Nat) : FldDef := ⟨id, 32 * (7 + p / 2) + (16 * (p % 2)), 16, .ro, 16384, 0, 65535⟩
def UE_ADDR : FldDef := ⟨id, 352, 24, .ro, 0, 0, 16777215⟩
def UE_TABLE : FldDef := ⟨id, 376, 2, .ro, 0, 0, 3⟩
def fields : List FldDef :=
  [LOAD_STATE, LIVE_BANK, DEF_FULL, ⟨id, 4, 12, .rsv, 0, 0, 0⟩, DEF_COUNT, ⟨id, 30, 2, .rsv, 0, 0, 0⟩, BANK_EPOCH, UNMAPPED, CE_COUNT, UE_COUNT, FORCED, FILLED, CLIP_GAIN, CLIP_PACK, DEF_LOST, DEF_ADDED, PG_EPOCH, UE_ADDR, UE_TABLE, ⟨id, 378, 6, .rsv, 0, 0, 0⟩] ++
  ((List.range 8).flatMap fun p => [COMP p])
end HDL_STATUS

/-! Table 8.2 TDI_CTL (0x1600) -/
namespace TDI_CTL
def id : Nat := 0x1600
def NORM : FldDef := ⟨id, 0, 2, .rw, 0, 0, 2⟩
def EDGE_MODE : FldDef := ⟨id, 2, 1, .rw, 0, 0, 1⟩
def ROW_DIR : FldDef := ⟨id, 3, 1, .rw, 0, 0, 1⟩
def POS_SRC : FldDef := ⟨id, 4, 1, .rw, 0, 0, 1⟩
def EXP_GROUP : FldDef := ⟨id, 8, 2, .rw, 0, 0, 3⟩
def BIN : FldDef := ⟨id, 16, 5, .rw, 1, 1, 16⟩
def BIN_MODE : FldDef := ⟨id, 24, 1, .rw, 0, 0, 1⟩
def ROW_PITCH : FldDef := ⟨id, 32, 32, .rw, 25600, 1, 4294967295⟩
def ROW_OFS : FldDef := ⟨id, 64, 32, .rw, 0, 0, 4294967295⟩
def fields : List FldDef :=
  [NORM, EDGE_MODE, ROW_DIR, POS_SRC, ⟨id, 5, 3, .rsv, 0, 0, 0⟩, EXP_GROUP, ⟨id, 10, 6, .rsv, 0, 0, 0⟩, BIN, ⟨id, 21, 3, .rsv, 0, 0, 0⟩, BIN_MODE, ⟨id, 25, 7, .rsv, 0, 0, 0⟩, ROW_PITCH, ROW_OFS]
end TDI_CTL

/-! Table 8.3 TDI_RESAMPLE (0x1601) -/
namespace TDI_RESAMPLE
def id : Nat := 0x1601
def EN : FldDef := ⟨id, 0, 1, .rw, 0, 0, 1⟩
def INTERP : FldDef := ⟨id, 1, 2, .rw, 1, 0, 2⟩
def OUT_W : FldDef := ⟨id, 16, 16, .rw, 0, 0, 32768⟩
def X0 : FldDef := ⟨id, 32, 32, .rw, 0, 0, 4294967295⟩
def S : FldDef := ⟨id, 64, 32, .rw, 4194304, 1, 67108864⟩
def K : FldDef := ⟨id, 96, 32, .rw, 0, 0, 4294967295⟩
def fields : List FldDef :=
  [EN, INTERP, ⟨id, 3, 13, .rsv, 0, 0, 0⟩, OUT_W, X0, S, K]
end TDI_RESAMPLE

/-! Table 8.4 TDI_STATUS (0x1608) -/
namespace TDI_STATUS
def id : Nat := 0x1608
def OPEN_LINES : FldDef := ⟨id, 0, 9, .ro, 0, 0, 511⟩
def HELD : FldDef := ⟨id, 9, 1, .ro, 0, 0, 1⟩
def NEED : FldDef := ⟨id, 16, 9, .ro, 0, 0, 511⟩
def LATE_DROP : FldDef := ⟨id, 32, 16, .ro, 0, 0, 65535⟩
def CLIP_TDI : FldDef := ⟨id, 48, 16, .ro, 0, 0, 65535⟩
def LEDGER_OVF : FldDef := ⟨id, 64, 16, .ro, 0, 0, 65535⟩
def ZERO_W : FldDef := ⟨id, 80, 16, .ro, 0, 0, 65535⟩
def POS_FALLBACK : FldDef := ⟨id, 96, 16, .ro, 0, 0, 65535⟩
def PARTIAL_LINES : FldDef := ⟨id, 112, 16, .ro, 0, 0, 65535⟩
def LOWEST_OPEN : FldDef := ⟨id, 128, 48, .ro, 0, 0, 281474976710655⟩
def REBUILD_INDEX : FldDef := ⟨id, 192, 48, .ro, 0, 0, 281474976710655⟩
def FILL_LINES : FldDef := ⟨id, 256, 10, .ro, 0, 0, 1023⟩
def fields : List FldDef :=
  [OPEN_LINES, HELD, ⟨id, 10, 6, .rsv, 0, 0, 0⟩, NEED, ⟨id, 25, 7, .rsv, 0, 0, 0⟩, LATE_DROP, CLIP_TDI, LEDGER_OVF, ZERO_W, POS_FALLBACK, PARTIAL_LINES, LOWEST_OPEN, ⟨id, 176, 16, .rsv, 0, 0, 0⟩, REBUILD_INDEX, ⟨id, 240, 16, .rsv, 0, 0, 0⟩, FILL_LINES, ⟨id, 266, 22, .rsv, 0, 0, 0⟩]
end TDI_STATUS

/-! Table 9.2 STAT_CTL (0x1700) -/
namespace STAT_CTL
def id : Nat := 0x1700
def SHADE_EN : FldDef := ⟨id, 0, 1, .rw, 0, 0, 1⟩
def LEVEL_MODE : FldDef := ⟨id, 1, 1, .rw, 0, 0, 1⟩
def AUTO_DEF : FldDef := ⟨id, 2, 1, .rw, 0, 0, 1⟩
def MEAN_TC : FldDef := ⟨id, 8, 4, .rw, 12, 1, 15⟩
def UPD : FldDef := ⟨id, 12, 4, .rw, 8, 0, 15⟩
def STEP : FldDef := ⟨id, 16, 8, .rw, 4, 1, 255⟩
def DEAD : FldDef := ⟨id, 24, 8, .rw, 2, 1, 255⟩
def SHADE_MIN : FldDef := ⟨id, 32, 16, .rw, 12288, 0, 65535⟩
def SHADE_MAX : FldDef := ⟨id, 48, 16, .rw, 20480, 0, 65535⟩
def CLIP : FldDef := ⟨id, 64, 16, .rw, 64, 1, 65535⟩
def MIN_N : FldDef := ⟨id, 80, 16, .rw, 1024, 1, 65535⟩
def LEVEL : FldDef := ⟨id, 96, 16, .rw, 0, 0, 65535⟩
def DEF_UPDATES : FldDef := ⟨id, 112, 8, .rw, 8, 1, 255⟩
def DEF_RULE : FldDef := ⟨id, 120, 3, .rw, 0, 0, 4⟩
def BLACK_MIN : FldDef := ⟨id, 128, 12, .rw, 16, 1, 4095⟩
def ILV_MIN : FldDef := ⟨id, 144, 16, .rw, 1024, 1, 65535⟩
def SLOPE_MIN : FldDef := ⟨id, 160, 16, .rw, 256, 1, 65535⟩
def fields : List FldDef :=
  [SHADE_EN, LEVEL_MODE, AUTO_DEF, ⟨id, 3, 5, .rsv, 0, 0, 0⟩, MEAN_TC, UPD, STEP, DEAD, SHADE_MIN, SHADE_MAX, CLIP, MIN_N, LEVEL, DEF_UPDATES, DEF_RULE, ⟨id, 123, 5, .rsv, 0, 0, 0⟩, BLACK_MIN, ⟨id, 140, 4, .rsv, 0, 0, 0⟩, ILV_MIN, SLOPE_MIN, ⟨id, 176, 16, .rsv, 0, 0, 0⟩]
end STAT_CTL

/-! Table 9.4 STAT_BLACK (0x1702) -/
namespace STAT_BLACK
def id : Nat := 0x1702
def BL_FIRST (c : Nat) : FldDef := ⟨id, 32 * (c) + (0), 16, .rw, 0, 0, 65535⟩
def BL_COUNT (c : Nat) : FldDef := ⟨id, 32 * (c) + (16), 16, .rw, 0, 0, 65535⟩
def fields : List FldDef :=
  ((List.range 64).flatMap fun c => [BL_FIRST c, BL_COUNT c])
end STAT_BLACK

/-! Table 9.5 STAT_HIST_CFG (0x1703) -/
namespace STAT_HIST_CFG
def id : Nat := 0x1703
def SRC (k : Nat) : FldDef := ⟨id, 32 * (3 * k) + (0), 2, .rw, 0, 0, 3⟩
def SHIFT (k : Nat) : FldDef := ⟨id, 32 * (3 * k) + (8), 4, .rw, 6, 0, 15⟩
def LINES (k : Nat) : FldDef := ⟨id, 32 * (3 * k) + (16), 16, .rw, 1024, 1, 65535⟩
def COL_FIRST (k : Nat) : FldDef := ⟨id, 32 * (3 * k + 1) + (0), 15, .rw, 0, 0, 32767⟩
def COL_LAST (k : Nat) : FldDef := ⟨id, 32 * (3 * k + 1) + (16), 15, .rw, 0, 0, 32767⟩
def PHASE_MASK (k : Nat) : FldDef := ⟨id, 32 * (3 * k + 2) + (0), 8, .rw, 255, 0, 255⟩
def STREAM (k : Nat) : FldDef := ⟨id, 32 * (3 * k + 2) + (16), 9, .rw, 0, 0, 351⟩
def fields : List FldDef :=
  ((List.range 4).flatMap fun k => [SRC k, ⟨id, 32 * (3 * k) + (2), 6, .rsv, 0, 0, 0⟩, SHIFT k, ⟨id, 32 * (3 * k) + (12), 4, .rsv, 0, 0, 0⟩, LINES k, COL_FIRST k, ⟨id, 32 * (3 * k + 1) + (15), 1, .rsv, 0, 0, 0⟩, COL_LAST k, ⟨id, 32 * (3 * k + 1) + (31), 1, .rsv, 0, 0, 0⟩, PHASE_MASK k, ⟨id, 32 * (3 * k + 2) + (8), 8, .rsv, 0, 0, 0⟩, STREAM k, ⟨id, 32 * (3 * k + 2) + (25), 7, .rsv, 0, 0, 0⟩])
end STAT_HIST_CFG

/-! Table 9.7 STAT_STATUS (0x1708) -/
namespace STAT_STATUS
def id : Nat := 0x1708
def SETTLING_ENTRIES : FldDef := ⟨id, 0, 19, .ro, 0, 0, 524287⟩
def LINES_REJECTED : FldDef := ⟨id, 32, 16, .ro, 0, 0, 65535⟩
def BLACK_SHORT : FldDef := ⟨id, 48, 16, .ro, 0, 0, 65535⟩
def LIMIT_COLS : FldDef := ⟨id, 64, 19, .ro, 0, 0, 524287⟩
def AUTO_DEFECTS : FldDef := ⟨id, 96, 16, .ro, 0, 0, 65535⟩
def LEVEL (tp : Nat) : FldDef := ⟨id, 32 * (4 + tp / 2) + (16 * (tp % 2)), 16, .ro, 0, 0, 65535⟩
def fields : List FldDef :=
  [SETTLING_ENTRIES, ⟨id, 19, 13, .rsv, 0, 0, 0⟩, LINES_REJECTED, BLACK_SHORT, LIMIT_COLS, ⟨id, 83, 13, .rsv, 0, 0, 0⟩, AUTO_DEFECTS, ⟨id, 112, 16, .rsv, 0, 0, 0⟩] ++
  ((List.range 8).flatMap fun tp => [LEVEL tp])
end STAT_STATUS

/-! Table 10.4 SKN_QUEUE (0x1800) -/
namespace SKN_QUEUE
def id : Nat := 0x1800
def ROLE (q : Nat) : FldDef := ⟨id, 32 * (3 * q) + (0), 3, .rw, 0, 0, 4⟩
def LS (q : Nat) : FldDef := ⟨id, 32 * (3 * q) + (4), 2, .rw, 0, 0, 3⟩
def PORT (q : Nat) : FldDef := ⟨id, 32 * (3 * q) + (6), 2, .rw, 0, 0, 3⟩
def SIZE (q : Nat) : FldDef := ⟨id, 32 * (3 * q) + (8), 11, .rw, 0, 0, 1024⟩
def FC_PIN (q : Nat) : FldDef := ⟨id, 32 * (3 * q) + (24), 3, .rw, 0, 0, 4⟩
def WM_HIGH (q : Nat) : FldDef := ⟨id, 32 * (3 * q + 1) + (0), 19, .rw, 0, 0, 524287⟩
def WM_LOW (q : Nat) : FldDef := ⟨id, 32 * (3 * q + 2) + (0), 19, .rw, 0, 0, 524287⟩
def fields : List FldDef :=
  ((List.range 32).flatMap fun q => [ROLE q, ⟨id, 32 * (3 * q) + (3), 1, .rsv, 0, 0, 0⟩, LS q, PORT q, SIZE q, ⟨id, 32 * (3 * q) + (19), 5, .rsv, 0, 0, 0⟩, FC_PIN q, ⟨id, 32 * (3 * q) + (27), 5, .rsv, 0, 0, 0⟩, WM_HIGH q, ⟨id, 32 * (3 * q + 1) + (19), 13, .rsv, 0, 0, 0⟩, WM_LOW q, ⟨id, 32 * (3 * q + 2) + (19), 13, .rsv, 0, 0, 0⟩])
end SKN_QUEUE

/-! Table 10.5 REEL_LS (0x1801) -/
namespace REEL_LS
def id : Nat := 0x1801
def EN (s : Nat) : FldDef := ⟨id, 32 * (3 * s) + (0), 1, .rw, 0, 0, 1⟩
def FIRST (s : Nat) : FldDef := ⟨id, 32 * (3 * s) + (4), 4, .rw, 0, 0, 15⟩
def REGIONS (s : Nat) : FldDef := ⟨id, 32 * (3 * s) + (8), 5, .rw, 16, 1, 16⟩
def QUEUE_IN (s : Nat) : FldDef := ⟨id, 32 * (3 * s) + (16), 5, .rw, 0, 0, 31⟩
def FC_PIN (s : Nat) : FldDef := ⟨id, 32 * (3 * s) + (24), 3, .rw, 0, 0, 4⟩
def GUARD (s : Nat) : FldDef := ⟨id, 32 * (3 * s + 1) + (0), 16, .rw, 1024, 0, 65535⟩
def WM_HIGH (s : Nat) : FldDef := ⟨id, 32 * (3 * s + 2) + (0), 16, .rw, 16384, 0, 65535⟩
def WM_LOW (s : Nat) : FldDef := ⟨id, 32 * (3 * s + 2) + (16), 16, .rw, 8192, 0, 65535⟩
def fields : List FldDef :=
  ((List.range 4).flatMap fun s => [EN s, ⟨id, 32 * (3 * s) + (1), 3, .rsv, 0, 0, 0⟩, FIRST s, REGIONS s, ⟨id, 32 * (3 * s) + (13), 3, .rsv, 0, 0, 0⟩, QUEUE_IN s, ⟨id, 32 * (3 * s) + (21), 3, .rsv, 0, 0, 0⟩, FC_PIN s, ⟨id, 32 * (3 * s) + (27), 5, .rsv, 0, 0, 0⟩, GUARD s, ⟨id, 32 * (3 * s + 1) + (16), 16, .rsv, 0, 0, 0⟩, WM_HIGH s, WM_LOW s])
end REEL_LS

/-! Table 10.6 SKN_STATUS (0x1808) -/
namespace SKN_STATUS
def id : Nat := 0x1808
def PARITY_POISON : FldDef := ⟨id, 0, 16, .ro, 0, 0, 65535⟩
def REFETCH : FldDef := ⟨id, 16, 16, .ro, 0, 0, 65535⟩
def HDR_PARITY : FldDef := ⟨id, 32, 16, .ro, 0, 0, 65535⟩
def ABORTS : FldDef := ⟨id, 48, 16, .ro, 0, 0, 65535⟩
def REEL_CE : FldDef := ⟨id, 64, 32, .ro, 0, 0, 4294967295⟩
def REEL_UE : FldDef := ⟨id, 96, 16, .ro, 0, 0, 65535⟩
def REEL_UE_ADDR : FldDef := ⟨id, 128, 35, .ro, 0, 0, 34359738367⟩
def POISON_INDEX : FldDef := ⟨id, 192, 48, .ro, 0, 0, 281474976710655⟩
def fields : List FldDef :=
  [PARITY_POISON, REFETCH, HDR_PARITY, ABORTS, REEL_CE, REEL_UE, ⟨id, 112, 16, .rsv, 0, 0, 0⟩, REEL_UE_ADDR, ⟨id, 163, 29, .rsv, 0, 0, 0⟩, POISON_INDEX, ⟨id, 240, 16, .rsv, 0, 0, 0⟩]
end SKN_STATUS

/-! Table 10.7 SKN_QSTAT (0x1809), two words per queue q -/
namespace SKN_QSTAT
def id : Nat := 0x1809
def DEPTH (q : Nat) : FldDef := ⟨id, 32 * (2 * q) + (0), 19, .ro, 0, 0, 524287⟩
def ABOVE (q : Nat) : FldDef := ⟨id, 32 * (2 * q) + (19), 1, .ro, 0, 0, 1⟩
def EMPTY (q : Nat) : FldDef := ⟨id, 32 * (2 * q) + (20), 1, .ro, 1, 0, 1⟩
def PKT (q : Nat) : FldDef := ⟨id, 32 * (2 * q + 1) + (0), 18, .ro, 0, 0, 262143⟩
def fields : List FldDef :=
  ((List.range 32).flatMap fun q => [DEPTH q, ABOVE q, EMPTY q, ⟨id, 32 * (2 * q) + (21), 11, .rsv, 0, 0, 0⟩, PKT q, ⟨id, 32 * (2 * q + 1) + (18), 14, .rsv, 0, 0, 0⟩])
end SKN_QSTAT

/-! Table 10.8 REEL_STATUS (0x180A), 16 words per store s, W(16s + n) -/
namespace REEL_STATUS
def id : Nat := 0x180A
def WRITE_PTR (s : Nat) : FldDef := ⟨id, 32 * (16 * s + 0) + 0, 30, .ro, 0, 0, 1073741823⟩
def TAIL_PTR (s : Nat) : FldDef := ⟨id, 32 * (16 * s + 1) + 0, 30, .ro, 0, 0, 1073741823⟩
def FREE (s : Nat) : FldDef := ⟨id, 32 * (16 * s + 2) + 0, 31, .ro, 0, 0, 2147483647⟩
def ABOVE (s : Nat) : FldDef := ⟨id, 32 * (16 * s + 3) + 0, 1, .ro, 0, 0, 1⟩
def XOFF (s : Nat) : FldDef := ⟨id, 32 * (16 * s + 3) + 1, 1, .ro, 0, 0, 1⟩
def REFUSING (s : Nat) : FldDef := ⟨id, 32 * (16 * s + 3) + 2, 1, .ro, 0, 0, 1⟩
def REC_NONE (s : Nat) : FldDef := ⟨id, 32 * (16 * s + 3) + 3, 1, .ro, 1, 0, 1⟩
def CONF_NONE (s : Nat) : FldDef := ⟨id, 32 * (16 * s + 3) + 4, 1, .ro, 1, 0, 1⟩
def LAST_INDEX (s : Nat) : FldDef := ⟨id, 32 * (16 * s + 4) + 0, 48, .ro, 0, 0, 281474976710655⟩
def TAIL_INDEX (s : Nat) : FldDef := ⟨id, 32 * (16 * s + 6) + 0, 48, .ro, 0, 0, 281474976710655⟩
def CONFIRM_INDEX (s : Nat) : FldDef := ⟨id, 32 * (16 * s + 8) + 0, 48, .ro, 0, 0, 281474976710655⟩
def REWIND_INDEX (s : Nat) : FldDef := ⟨id, 32 * (16 * s + 10) + 0, 48, .ro, 0, 0, 281474976710655⟩
def FIRST_REFUSED (s : Nat) : FldDef := ⟨id, 32 * (16 * s + 12) + 0, 48, .ro, 0, 0, 281474976710655⟩
def REFUSED (s : Nat) : FldDef := ⟨id, 32 * (16 * s + 14) + 0, 32, .ro, 0, 0, 4294967295⟩
def fields : List FldDef :=
  ((List.range 4).flatMap fun s => [WRITE_PTR s, ⟨id, 32 * (16 * s + 0) + 30, 2, .rsv, 0, 0, 0⟩, TAIL_PTR s, ⟨id, 32 * (16 * s + 1) + 30, 2, .rsv, 0, 0, 0⟩, FREE s, ⟨id, 32 * (16 * s + 2) + 31, 1, .rsv, 0, 0, 0⟩, ABOVE s, XOFF s, REFUSING s, REC_NONE s, CONF_NONE s, ⟨id, 32 * (16 * s + 3) + 5, 27, .rsv, 0, 0, 0⟩, LAST_INDEX s, TAIL_INDEX s, CONFIRM_INDEX s, REWIND_INDEX s, FIRST_REFUSED s, ⟨id, 32 * (16 * s + 5) + 16, 16, .rsv, 0, 0, 0⟩, ⟨id, 32 * (16 * s + 7) + 16, 16, .rsv, 0, 0, 0⟩, ⟨id, 32 * (16 * s + 9) + 16, 16, .rsv, 0, 0, 0⟩, ⟨id, 32 * (16 * s + 11) + 16, 16, .rsv, 0, 0, 0⟩, ⟨id, 32 * (16 * s + 13) + 16, 16, .rsv, 0, 0, 0⟩, REFUSED s, ⟨id, 32 * (16 * s + 15), 32, .rsv, 0, 0, 0⟩])
end REEL_STATUS

/-! Table 11.6 PACE_CTL (0x1900) -/
namespace PACE_CTL
def id : Nat := 0x1900
def AXIS : FldDef := ⟨id, 0, 3, .rw, 4, 0, 4⟩
def HOST_LOSS : FldDef := ⟨id, 3, 1, .rw, 0, 0, 1⟩
def HOLD_FACTOR : FldDef := ⟨id, 8, 8, .rw, 192, 0, 255⟩
def PRE_LINES : FldDef := ⟨id, 16, 4, .rw, 1, 0, 15⟩
def SLOW_TOL : FldDef := ⟨id, 24, 8, .rw, 4, 0, 255⟩
def V_SET : FldDef := ⟨id, 32, 27, .rw, 1000000, 1, 100000000⟩
def A_PACE : FldDef := ⟨id, 64, 32, .rw, 100000000, 1, 4294967295⟩
def A_STOP : FldDef := ⟨id, 96, 32, .rw, 100000000, 1, 4294967295⟩
def STEP_RATIO : FldDef := ⟨id, 128, 32, .rw, 65536, 0, 4294967295⟩
def SETTLE : FldDef := ⟨id, 160, 16, .rw, 1000, 0, 65535⟩
def fields : List FldDef :=
  [AXIS, HOST_LOSS, ⟨id, 4, 4, .rsv, 0, 0, 0⟩, HOLD_FACTOR, PRE_LINES, ⟨id, 20, 4, .rsv, 0, 0, 0⟩, SLOW_TOL, V_SET, ⟨id, 59, 5, .rsv, 0, 0, 0⟩, A_PACE, A_STOP, STEP_RATIO, SETTLE, ⟨id, 176, 16, .rsv, 0, 0, 0⟩]
end PACE_CTL

/-! Table 11.7 PACE_FC word p (0x1901) -/
namespace PACE_FC
def id : Nat := 0x1901
def OWNER (p : Nat) : FldDef := ⟨id, 32 * (p) + (0), 2, .rw, 0, 0, 3⟩
def LEVEL (p : Nat) : FldDef := ⟨id, 32 * (p) + (2), 1, .rw, 1, 0, 1⟩
def THRESH (p : Nat) : FldDef := ⟨id, 32 * (p) + (8), 8, .rw, 128, 0, 255⟩
def MIN_ASSERT (p : Nat) : FldDef := ⟨id, 32 * (p) + (16), 16, .rw, 100, 0, 65535⟩
def fields : List FldDef :=
  ((List.range 4).flatMap fun p => [OWNER p, LEVEL p, ⟨id, 32 * (p) + (3), 5, .rsv, 0, 0, 0⟩, THRESH p, MIN_ASSERT p])
end PACE_FC

/-! Table 11.8 PACE_STATUS (0x1908) -/
namespace PACE_STATUS
def id : Nat := 0x1908
def STATE : FldDef := ⟨id, 0, 3, .ro, 0, 0, 7⟩
def HOLD_CAUSE : FldDef := ⟨id, 3, 3, .ro, 0, 0, 7⟩
def SHORT_RUNUP : FldDef := ⟨id, 6, 1, .rc, 0, 0, 1⟩
def FACTOR : FldDef := ⟨id, 32, 17, .ro, 0, 0, 131071⟩
def V_CMD : FldDef := ⟨id, 64, 32, .ro, 0, 0, 4294967295⟩
def K_R : FldDef := ⟨id, 96, 48, .ro, 0, 0, 281474976710655⟩
def SEAM_LAST : FldDef := ⟨id, 160, 32, .ro, 0, 0, 4294967295⟩
def GUARD_MIN : FldDef := ⟨id, 192, 16, .ro, 0, 0, 65535⟩
def HOLDS : FldDef := ⟨id, 224, 16, .ro, 0, 0, 65535⟩
def RESTARTS : FldDef := ⟨id, 240, 16, .ro, 0, 0, 65535⟩
def RESTART_FAIL : FldDef := ⟨id, 256, 16, .ro, 0, 0, 65535⟩
def SEAMS : FldDef := ⟨id, 272, 16, .ro, 0, 0, 65535⟩
def OVERTAKEN : FldDef := ⟨id, 288, 16, .ro, 0, 0, 65535⟩
def fields : List FldDef :=
  [STATE, HOLD_CAUSE, SHORT_RUNUP, ⟨id, 7, 25, .rsv, 0, 0, 0⟩, FACTOR, ⟨id, 49, 15, .rsv, 0, 0, 0⟩, V_CMD, K_R, ⟨id, 144, 16, .rsv, 0, 0, 0⟩, SEAM_LAST, GUARD_MIN, ⟨id, 208, 16, .rsv, 0, 0, 0⟩, HOLDS, RESTARTS, RESTART_FAIL, SEAMS, OVERTAKEN, ⟨id, 304, 16, .rsv, 0, 0, 0⟩]
end PACE_STATUS

/-! Table 12.10 HS_STATUS (0x1A08) -/
namespace HS_STATUS
def id : Nat := 0x1A08
def SPEED : FldDef := ⟨id, 0, 3, .ro, 0, 0, 7⟩
def WIDTH : FldDef := ⟨id, 3, 5, .ro, 0, 0, 31⟩
def MPS : FldDef := ⟨id, 8, 3, .ro, 0, 0, 7⟩
def D_STATE : FldDef := ⟨id, 11, 2, .ro, 0, 0, 3⟩
def RESENT_LINES : FldDef := ⟨id, 32, 32, .ro, 0, 0, 4294967295⟩
def READ_ERR_LINES : FldDef := ⟨id, 64, 16, .ro, 0, 0, 65535⟩
def WAKES : FldDef := ⟨id, 80, 16, .ro, 0, 0, 65535⟩
def AER_CE : FldDef := ⟨id, 96, 16, .ro, 0, 0, 65535⟩
def AER_UE : FldDef := ⟨id, 112, 16, .ro, 0, 0, 65535⟩
def fields : List FldDef :=
  [SPEED, WIDTH, MPS, D_STATE, ⟨id, 13, 19, .rsv, 0, 0, 0⟩, RESENT_LINES, READ_ERR_LINES, WAKES, AER_CE, AER_UE]
end HS_STATUS

/-! Table 14.8 MNR_SESSION (0x1A10) -/
namespace MNR_SESSION
def id : Nat := 0x1A10
def STATE : FldDef := ⟨id, 0, 2, .rom, 0, 0, 3⟩
def EVENT_MBX : FldDef := ⟨id, 8, 3, .rom, 0, 0, 7⟩
def VERSION : FldDef := ⟨id, 16, 16, .rom, 0, 0, 65535⟩
def OUTSTANDING : FldDef := ⟨id, 32, 11, .rom, 0, 0, 2047⟩
def DEFERRED_N : FldDef := ⟨id, 48, 11, .rom, 0, 0, 2047⟩
def EVT_HELD : FldDef := ⟨id, 64, 9, .rom, 0, 0, 511⟩
def EVT_LOST : FldDef := ⟨id, 80, 16, .rom, 0, 0, 65535⟩
def OPEN_EPOCH : FldDef := ⟨id, 96, 16, .rom, 0, 0, 65535⟩
def DUP_TAGS : FldDef := ⟨id, 112, 16, .rom, 0, 0, 65535⟩
def fields : List FldDef :=
  [STATE, ⟨id, 2, 6, .rsv, 0, 0, 0⟩, EVENT_MBX, ⟨id, 11, 5, .rsv, 0, 0, 0⟩, VERSION, OUTSTANDING, ⟨id, 43, 5, .rsv, 0, 0, 0⟩, DEFERRED_N, ⟨id, 59, 5, .rsv, 0, 0, 0⟩, EVT_HELD, ⟨id, 73, 7, .rsv, 0, 0, 0⟩, EVT_LOST, OPEN_EPOCH, DUP_TAGS]
end MNR_SESSION

/-! Table 14.9 MNR_LOG (0x1A11) -/
namespace MNR_LOG
def id : Nat := 0x1A11
def LOG_EPOCH : FldDef := ⟨id, 0, 16, .rom, 0, 0, 65535⟩
def COUNT : FldDef := ⟨id, 16, 11, .rom, 0, 0, 2047⟩
def STATUS (t : Nat) : FldDef := ⟨id, 32 * (1 + t / 4) + (8 * (t % 4)), 8, .rom, 255, 0, 255⟩
def fields : List FldDef :=
  []
end MNR_LOG

/-! Table 15.7 SHU_AXIS n (0x1B00 + n) -/
namespace SHU_AXIS
def id (n : Nat) : Nat := 0x1B00 + n
def MODE (n : Nat) : FldDef := ⟨id n, 0, 2, .rw, 0, 0, 2⟩
def DIR_INV (n : Nat) : FldDef := ⟨id n, 2, 1, .rw, 0, 0, 1⟩
def FF_EN (n : Nat) : FldDef := ⟨id n, 3, 1, .rw, 1, 0, 1⟩
def LIM_EN (n : Nat) : FldDef := ⟨id n, 4, 1, .rw, 1, 0, 1⟩
def FLT_EN (n : Nat) : FldDef := ⟨id n, 5, 1, .rw, 1, 0, 1⟩
def IN_RES (n : Nat) : FldDef := ⟨id n, 8, 4, .rw, 4, 0, 8⟩
def OUT_RES (n : Nat) : FldDef := ⟨id n, 12, 4, .rw, 4, 0, 8⟩
def HOLD_PCT (n : Nat) : FldDef := ⟨id n, 16, 7, .rw, 40, 1, 100⟩
def I_RUN (n : Nat) : FldDef := ⟨id n, 32, 13, .rw, 1000, 1, 4500⟩
def HOLD_DELAY (n : Nat) : FldDef := ⟨id n, 48, 16, .rw, 250, 1, 65535⟩
def R_COIL (n : Nat) : FldDef := ⟨id n, 64, 16, .rw, 1000, 1, 65535⟩
def L_COIL (n : Nat) : FldDef := ⟨id n, 80, 16, .rw, 2000, 1, 65535⟩
def K_BEMF (n : Nat) : FldDef := ⟨id n, 96, 32, .rw, 0, 0, 4294967295⟩
def STOP_DEC (n : Nat) : FldDef := ⟨id n, 128, 32, .rw, 1000000, 1, 4294967295⟩
def V_LIMIT (n : Nat) : FldDef := ⟨id n, 160, 32, .rw, 2560000, 0, 4294967295⟩
def A_LIMIT (n : Nat) : FldDef := ⟨id n, 192, 32, .rw, 4294967295, 1, 4294967295⟩
def SOFT_MIN (n : Nat) : FldDef := ⟨id n, 224, 64, .rw, 9223372036854775808, 0, 18446744073709551615⟩
def SOFT_MAX (n : Nat) : FldDef := ⟨id n, 288, 64, .rw, 9223372036854775807, 0, 18446744073709551615⟩
def STEP_W (n : Nat) : FldDef := ⟨id n, 352, 16, .rw, 1000, 50, 65535⟩
def DIR_SETUP (n : Nat) : FldDef := ⟨id n, 368, 16, .rw, 200, 50, 65535⟩
def fields (n : Nat) : List FldDef :=
  [ MODE n, DIR_INV n, FF_EN n, LIM_EN n, FLT_EN n, ⟨id n, 6, 2, .rsv, 0, 0, 0⟩, IN_RES n, OUT_RES n, HOLD_PCT n, ⟨id n, 23, 9, .rsv, 0, 0, 0⟩, I_RUN n, ⟨id n, 45, 3, .rsv, 0, 0, 0⟩, HOLD_DELAY n, R_COIL n, L_COIL n, K_BEMF n, STOP_DEC n, V_LIMIT n, A_LIMIT n, SOFT_MIN n, SOFT_MAX n, STEP_W n, DIR_SETUP n]
end SHU_AXIS

/-! Table 15.8 SHU_WAVE (0x1B04) -/
namespace SHU_WAVE
def id : Nat := 0x1B04
def W (j : Nat) : FldDef := ⟨id, 16 * j, 9, .rw, 0, 0, 256⟩
def fields : List FldDef :=
  []
end SHU_WAVE

/-! Table 15.9 SHU_POS (0x1B05) -/
namespace SHU_POS
def id : Nat := 0x1B05
def AXIS : FldDef := ⟨id, 0, 2, .wo, 0, 0, 3⟩
def POS : FldDef := ⟨id, 32, 64, .wo, 0, 0, 18446744073709551615⟩
def fields : List FldDef :=
  [AXIS, ⟨id, 2, 30, .rsv, 0, 0, 0⟩, POS]
end SHU_POS

/-! Table 15.10 SHU_STATUS (0x1B08) -/
namespace SHU_STATUS
def id : Nat := 0x1B08
def POS (n : Nat) : FldDef := ⟨id, 32 * (8 * n), 64, .ro, 0, 0, 18446744073709551615⟩
def VEL (n : Nat) : FldDef := ⟨id, 32 * (8 * n + 2) + (0), 32, .ro, 0, 0, 4294967295⟩
def STATE (n : Nat) : FldDef := ⟨id, 32 * (8 * n + 3) + (0), 3, .ro, 0, 0, 7⟩
def QUEUE (n : Nat) : FldDef := ⟨id, 32 * (8 * n + 3) + (3), 6, .ro, 0, 0, 63⟩
def HOMED (n : Nat) : FldDef := ⟨id, 32 * (8 * n + 3) + (9), 1, .ro, 0, 0, 1⟩
def REDUCED (n : Nat) : FldDef := ⟨id, 32 * (8 * n + 3) + (10), 1, .ro, 0, 0, 1⟩
def INPUT_LAG (n : Nat) : FldDef := ⟨id, 32 * (8 * n + 3) + (11), 1, .ro, 0, 0, 1⟩
def FAULT (n : Nat) : FldDef := ⟨id, 32 * (8 * n + 4) + (0), 6, .ro, 0, 0, 63⟩
def LIMIT (n : Nat) : FldDef := ⟨id, 32 * (8 * n + 4) + (6), 2, .rc, 0, 0, 3⟩
def VSAT (n : Nat) : FldDef := ⟨id, 32 * (8 * n + 4) + (8), 1, .rc, 0, 0, 1⟩
def CUR_ACT (n : Nat) : FldDef := ⟨id, 32 * (8 * n + 5) + (0), 13, .ro, 0, 0, 8191⟩
def TEMP (n : Nat) : FldDef := ⟨id, 32 * (8 * n + 6) + (0), 16, .ro, 0, 0, 65535⟩
def CLAMPS (n : Nat) : FldDef := ⟨id, 32 * (8 * n + 7) + (0), 16, .ro, 0, 0, 65535⟩
def MOVES (n : Nat) : FldDef := ⟨id, 32 * (8 * n + 7) + (16), 16, .ro, 0, 0, 65535⟩
def fields : List FldDef :=
  ((List.range 4).flatMap fun n => [POS n, VEL n, STATE n, QUEUE n, HOMED n, REDUCED n, INPUT_LAG n, ⟨id, 32 * (8 * n + 3) + (12), 20, .rsv, 0, 0, 0⟩, FAULT n, LIMIT n, VSAT n, ⟨id, 32 * (8 * n + 4) + (9), 23, .rsv, 0, 0, 0⟩, CUR_ACT n, ⟨id, 32 * (8 * n + 5) + (13), 19, .rsv, 0, 0, 0⟩, TEMP n, ⟨id, 32 * (8 * n + 6) + (16), 16, .rsv, 0, 0, 0⟩, CLAMPS n, MOVES n])
end SHU_STATUS

/-! Table 16.5 ILM_CTL (0x1C00) -/
namespace ILM_CTL
def id : Nat := 0x1C00
def DIAG_EVERY : FldDef := ⟨id, 0, 8, .rw, 64, 1, 255⟩
def I_DIAG : FldDef := ⟨id, 8, 11, .rw, 200, 1, 2000⟩
def BLANK_NS : FldDef := ⟨id, 32, 10, .rw, 100, 20, 1023⟩
def OPEN_DV : FldDef := ⟨id, 48, 8, .rw, 20, 1, 60⟩
def SHORT_V : FldDef := ⟨id, 56, 8, .rw, 10, 1, 50⟩
def EXT_EN : FldDef := ⟨id, 64, 1, .rw, 0, 0, 1⟩
def EXT_SRC : FldDef := ⟨id, 65, 3, .rw, 0, 0, 7⟩
def CHAIN_MHZ : FldDef := ⟨id, 72, 5, .rw, 10, 1, 25⟩
def BOARDS : FldDef := ⟨id, 80, 5, .rw, 1, 1, 16⟩
def fields : List FldDef :=
  [DIAG_EVERY, I_DIAG, ⟨id, 19, 13, .rsv, 0, 0, 0⟩, BLANK_NS, ⟨id, 42, 6, .rsv, 0, 0, 0⟩, OPEN_DV, SHORT_V, EXT_EN, EXT_SRC, ⟨id, 68, 4, .rsv, 0, 0, 0⟩, CHAIN_MHZ, ⟨id, 77, 3, .rsv, 0, 0, 0⟩, BOARDS, ⟨id, 85, 11, .rsv, 0, 0, 0⟩]
end ILM_CTL

/-! Table 16.6 ILM_STRING (0x1C01) -/
namespace ILM_STRING
def id : Nat := 0x1C01
def EN (s : Nat) : FldDef := ⟨id, 32 * (2 * s) + (0), 1, .rw, 0, 0, 1⟩
def TEMP_SRC (s : Nat) : FldDef := ⟨id, 32 * (2 * s) + (4), 5, .rw, 0, 0, 31⟩
def TEMP_EN (s : Nat) : FldDef := ⟨id, 32 * (2 * s) + (9), 1, .rw, 0, 0, 1⟩
def I_RATED (s : Nat) : FldDef := ⟨id, 32 * (2 * s) + (16), 11, .rw, 2000, 1, 2000⟩
def T_KNEE (s : Nat) : FldDef := ⟨id, 32 * (2 * s + 1) + (0), 16, .rw, 960, 0, 65535⟩
def T_ZERO (s : Nat) : FldDef := ⟨id, 32 * (2 * s + 1) + (16), 16, .rw, 1600, 0, 65535⟩
def fields : List FldDef :=
  ((List.range 8).flatMap fun s => [EN s, ⟨id, 32 * (2 * s) + (1), 3, .rsv, 0, 0, 0⟩, TEMP_SRC s, TEMP_EN s, ⟨id, 32 * (2 * s) + (10), 6, .rsv, 0, 0, 0⟩, I_RATED s, ⟨id, 32 * (2 * s) + (27), 5, .rsv, 0, 0, 0⟩, T_KNEE s, T_ZERO s])
end ILM_STRING

/-! Table 16.7 ILM_LAMP (0x1C02) -/
namespace ILM_LAMP
def id : Nat := 0x1C02
def EN (n : Nat) : FldDef := ⟨id, 32 * (n) + (0), 1, .rw, 0, 0, 1⟩
def SPARE (n : Nat) : FldDef := ⟨id, 32 * (n) + (1), 1, .rw, 0, 0, 1⟩
def FLUX_K (n : Nat) : FldDef := ⟨id, 32 * (n) + (4), 12, .rw, 2048, 1, 4095⟩
def VF_MV (n : Nat) : FldDef := ⟨id, 32 * (n) + (16), 14, .rw, 3000, 1, 16383⟩
def fields : List FldDef :=
  ((List.range 128).flatMap fun n => [EN n, SPARE n, ⟨id, 32 * (n) + (2), 2, .rsv, 0, 0, 0⟩, FLUX_K n, VF_MV n, ⟨id, 32 * (n) + (30), 2, .rsv, 0, 0, 0⟩])
end ILM_LAMP

/-! Table 16.8 ILM_PHASE (0x1C03) -/
namespace ILM_PHASE
def id : Nat := 0x1C03
def I_SET (b : Nat) : FldDef := ⟨id, 32 * (b) + (0), 11, .rw, 0, 0, 2047⟩
def MOD_PERIOD (b : Nat) : FldDef := ⟨id, 32 * (b) + (16), 16, .rw, 0, 0, 65535⟩
def DUTY (L : Nat) (b : Nat) : FldDef := ⟨id, 32 * (b + 1 + L / 4) + (8 * (L % 4)), 8, .rw, 0, 0, 255⟩
def fields : List FldDef :=
  ((List.range 64).flatMap fun q => let b := 5 * q; [I_SET b, ⟨id, 32 * (b) + (11), 5, .rsv, 0, 0, 0⟩, MOD_PERIOD b]) ++
  ((List.range 16).flatMap fun L => ((List.range 64).flatMap fun q => let b := 5 * q; [DUTY L b]))
end ILM_PHASE

/-! Table 16.9 ILM_STATUS (0x1C08) -/
namespace ILM_STATUS
def id : Nat := 0x1C08
def FAILED : FldDef := ⟨id, 0, 128, .ro, 0, 0, 340282366920938463463374607431768211455⟩
def SPARE_USED : FldDef := ⟨id, 128, 128, .ro, 0, 0, 340282366920938463463374607431768211455⟩
def I_LIM (s : Nat) : FldDef := ⟨id, 32 * (8 + s) + (0), 11, .ro, 0, 0, 2047⟩
def DERATED (s : Nat) : FldDef := ⟨id, 32 * (8 + s) + (11), 1, .ro, 0, 0, 1⟩
def TEMP_LOST (s : Nat) : FldDef := ⟨id, 32 * (8 + s) + (12), 1, .ro, 0, 0, 1⟩
def HEADROOM (s : Nat) : FldDef := ⟨id, 32 * (8 + s) + (13), 1, .rc, 0, 0, 1⟩
def EXHAUSTED (s : Nat) : FldDef := ⟨id, 32 * (8 + s) + (14), 1, .ro, 0, 0, 1⟩
def TEMP (s : Nat) : FldDef := ⟨id, 32 * (8 + s) + (16), 16, .ro, 0, 0, 65535⟩
def VLED_MV : FldDef := ⟨id, 512, 16, .ro, 0, 0, 65535⟩
def CHAIN_FAULT : FldDef := ⟨id, 528, 1, .rc, 0, 0, 1⟩
def DIAG_PULSES : FldDef := ⟨id, 544, 16, .ro, 0, 0, 65535⟩
def BLANK_CUTS : FldDef := ⟨id, 560, 16, .ro, 0, 0, 65535⟩
def LAMP_FAULTS : FldDef := ⟨id, 576, 16, .ro, 0, 0, 65535⟩
def ON_OVERLAP : FldDef := ⟨id, 592, 16, .ro, 0, 0, 65535⟩
def SPARE_MAP (s : Nat) : FldDef := ⟨id, 32 * (19 + s / 2) + (16 * (s % 2)), 16, .ro, 0, 0, 65535⟩
def fields : List FldDef :=
  [FAILED, SPARE_USED, VLED_MV, CHAIN_FAULT, ⟨id, 529, 15, .rsv, 0, 0, 0⟩, DIAG_PULSES, BLANK_CUTS, LAMP_FAULTS, ON_OVERLAP] ++
  ((List.range 8).flatMap fun s => [I_LIM s, DERATED s, TEMP_LOST s, HEADROOM s, EXHAUSTED s, ⟨id, 32 * (8 + s) + (15), 1, .rsv, 0, 0, 0⟩, TEMP s, SPARE_MAP s])
end ILM_STATUS

/-! Table 17.5 AUX_CTL (0x1D00) -/
namespace AUX_CTL
def id : Nat := 0x1D00
def EN : FldDef := ⟨id, 0, 1, .rw, 0, 0, 1⟩
def OSR : FldDef := ⟨id, 4, 3, .rw, 2, 0, 5⟩
def CHK_FAIL : FldDef := ⟨id, 8, 8, .rw, 4, 1, 255⟩
def CHK_TOL : FldDef := ⟨id, 16, 16, .rw, 256, 1, 65535⟩
def ARB_TOL : FldDef := ⟨id, 32, 16, .rw, 1024, 1, 65535⟩
def I_TEST : FldDef := ⟨id, 48, 8, .rw, 20, 1, 255⟩
def OPEN_THR : FldDef := ⟨id, 64, 24, .rw, 1048576, 1, 16777215⟩
def fields : List FldDef :=
  [EN, ⟨id, 1, 3, .rsv, 0, 0, 0⟩, OSR, ⟨id, 7, 1, .rsv, 0, 0, 0⟩, CHK_FAIL, CHK_TOL, ARB_TOL, I_TEST, ⟨id, 56, 8, .rsv, 0, 0, 0⟩, OPEN_THR, ⟨id, 88, 8, .rsv, 0, 0, 0⟩]
end AUX_CTL

/-! Table 17.6 AUX_SLOT (0x1D01) -/
namespace AUX_SLOT
def id : Nat := 0x1D01
def IN_P (s : Nat) : FldDef := ⟨id, 32 * (4 * s + 0) + (0), 5, .rw, 0, 0, 31⟩
def IN_N (s : Nat) : FldDef := ⟨id, 32 * (4 * s + 0) + (8), 5, .rw, 0, 0, 31⟩
def REF_P (s : Nat) : FldDef := ⟨id, 32 * (4 * s + 0) + (16), 5, .rw, 0, 0, 31⟩
def REF_N (s : Nat) : FldDef := ⟨id, 32 * (4 * s + 0) + (24), 5, .rw, 0, 0, 31⟩
def REF (s : Nat) : FldDef := ⟨id, 32 * (4 * s + 0) + (29), 1, .rw, 0, 0, 1⟩
def OPEN_DET (s : Nat) : FldDef := ⟨id, 32 * (4 * s + 0) + (30), 1, .rw, 1, 0, 1⟩
def EN (s : Nat) : FldDef := ⟨id, 32 * (4 * s + 0) + (31), 1, .rw, 0, 0, 1⟩
def EXC_PIN (s : Nat) : FldDef := ⟨id, 32 * (4 * s + 1) + (0), 5, .rw, 0, 0, 31⟩
def EXC_MODE (s : Nat) : FldDef := ⟨id, 32 * (4 * s + 1) + (5), 2, .rw, 0, 0, 2⟩
def BIAS_PIN (s : Nat) : FldDef := ⟨id, 32 * (4 * s + 1) + (8), 5, .rw, 0, 0, 31⟩
def BIAS_EN (s : Nat) : FldDef := ⟨id, 32 * (4 * s + 1) + (13), 1, .rw, 0, 0, 1⟩
def CHK (s : Nat) : FldDef := ⟨id, 32 * (4 * s + 1) + (14), 1, .rw, 1, 0, 1⟩
def GAIN (s : Nat) : FldDef := ⟨id, 32 * (4 * s + 1) + (16), 3, .rw, 0, 0, 7⟩
def NCONV (s : Nat) : FldDef := ⟨id, 32 * (4 * s + 1) + (20), 4, .rw, 1, 1, 15⟩
def EXC_VAL (s : Nat) : FldDef := ⟨id, 32 * (4 * s + 2) + (0), 16, .rw, 0, 0, 65535⟩
def OFFSET (s : Nat) : FldDef := ⟨id, 32 * (4 * s + 2) + (16), 16, .rw, 0, 0, 65535⟩
def SCALE (s : Nat) : FldDef := ⟨id, 32 * (4 * s + 3) + (0), 32, .rw, 16777216, 0, 4294967295⟩
def fields : List FldDef :=
  ((List.range 32).flatMap fun s => [IN_P s, ⟨id, 32 * (4 * s + 0) + (5), 3, .rsv, 0, 0, 0⟩, IN_N s, ⟨id, 32 * (4 * s + 0) + (13), 3, .rsv, 0, 0, 0⟩, REF_P s, ⟨id, 32 * (4 * s + 0) + (21), 3, .rsv, 0, 0, 0⟩, REF_N s, REF s, OPEN_DET s, EN s, EXC_PIN s, EXC_MODE s, ⟨id, 32 * (4 * s + 1) + (7), 1, .rsv, 0, 0, 0⟩, BIAS_PIN s, BIAS_EN s, CHK s, ⟨id, 32 * (4 * s + 1) + (15), 1, .rsv, 0, 0, 0⟩, GAIN s, ⟨id, 32 * (4 * s + 1) + (19), 1, .rsv, 0, 0, 0⟩, NCONV s, ⟨id, 32 * (4 * s + 1) + (24), 8, .rsv, 0, 0, 0⟩, EXC_VAL s, OFFSET s, SCALE s])
end AUX_SLOT

/-! Table 17.7 AUX_AMON (0x1D02) -/
namespace AUX_AMON
def id : Nat := 0x1D02
def SLOT (a : Nat) : FldDef := ⟨id, 32 * (2 * a) + (0), 5, .rw, 0, 0, 31⟩
def EN (a : Nat) : FldDef := ⟨id, 32 * (2 * a) + (5), 1, .rw, 0, 0, 1⟩
def FAULT_LVL (a : Nat) : FldDef := ⟨id, 32 * (2 * a) + (8), 8, .rw, 0, 0, 100⟩
def STALE_MS (a : Nat) : FldDef := ⟨id, 32 * (2 * a) + (16), 16, .rw, 100, 1, 65535⟩
def X_LO (a : Nat) : FldDef := ⟨id, 32 * (2 * a + 1) + (0), 16, .rw, 0, 0, 65535⟩
def X_HI (a : Nat) : FldDef := ⟨id, 32 * (2 * a + 1) + (16), 16, .rw, 1600, 0, 65535⟩
def fields : List FldDef :=
  ((List.range 2).flatMap fun a => [SLOT a, EN a, ⟨id, 32 * (2 * a) + (6), 2, .rsv, 0, 0, 0⟩, FAULT_LVL a, STALE_MS a, X_LO a, X_HI a])
end AUX_AMON

/-! Table 17.8 AUX_STATUS (0x1D08) -/
namespace AUX_STATUS
def id : Nat := 0x1D08
def OPEN : FldDef := ⟨id, 0, 32, .ro, 0, 0, 4294967295⟩
def OPEN_SEEN : FldDef := ⟨id, 32, 32, .rc, 0, 0, 4294967295⟩
def SETTLING : FldDef := ⟨id, 64, 32, .ro, 0, 0, 4294967295⟩
def CHECKER_PRIMARY : FldDef := ⟨id, 96, 1, .ro, 0, 0, 1⟩
def CHK_ACTIVE : FldDef := ⟨id, 97, 1, .ro, 1, 0, 1⟩
def P_FAILED : FldDef := ⟨id, 98, 1, .ro, 0, 0, 1⟩
def C_FAILED : FldDef := ⟨id, 99, 1, .ro, 0, 0, 1⟩
def AMON_FAULT : FldDef := ⟨id, 100, 2, .ro, 0, 0, 3⟩
def MISMATCHES : FldDef := ⟨id, 112, 16, .ro, 0, 0, 65535⟩
def CYCLE_US : FldDef := ⟨id, 128, 32, .ro, 0, 0, 4294967295⟩
def fields : List FldDef :=
  [OPEN, OPEN_SEEN, SETTLING, CHECKER_PRIMARY, CHK_ACTIVE, P_FAILED, C_FAILED, AMON_FAULT, ⟨id, 102, 10, .rsv, 0, 0, 0⟩, MISMATCHES, CYCLE_US]
end AUX_STATUS

/-! Table 19.5 KRM_NODE (0x1E00) -/
namespace KRM_NODE
def id : Nat := 0x1E00
def ADDR : FldDef := ⟨id, 0, 12, .rw, 0, 0, 4094⟩
def UID : FldDef := ⟨id, 32, 64, .rom, 0, 0, 18446744073709551615⟩
def fields : List FldDef :=
  [ADDR, ⟨id, 12, 20, .rsv, 0, 0, 0⟩, UID]
end KRM_NODE

/-! Table 19.6 KRM_CTL (0x1E01) -/
namespace KRM_CTL
def id : Nat := 0x1E01
def PORT_EN : FldDef := ⟨id, 0, 4, .rw, 0, 0, 15⟩
def STITCH : FldDef := ⟨id, 8, 2, .rw, 0, 0, 2⟩
def BCAST_FWD (p : Nat) : FldDef := ⟨id, 32 * (0) + (16 + 4 * p), 4, .rw, 0, 0, 15⟩
def BCAST_ORIG : FldDef := ⟨id, 32, 4, .rw, 0, 0, 15⟩
def COLLECTOR : FldDef := ⟨id, 48, 12, .rw, 0, 0, 4095⟩
def LEAD_NS : FldDef := ⟨id, 64, 16, .rw, 2000, 500, 65535⟩
def TILE_TMO : FldDef := ⟨id, 80, 16, .rw, 100, 1, 65535⟩
def LANE_ERR : FldDef := ⟨id, 96, 8, .rw, 8, 1, 255⟩
def fields : List FldDef :=
  [PORT_EN, ⟨id, 4, 4, .rsv, 0, 0, 0⟩, STITCH, ⟨id, 10, 6, .rsv, 0, 0, 0⟩, BCAST_ORIG, ⟨id, 36, 12, .rsv, 0, 0, 0⟩, COLLECTOR, ⟨id, 60, 4, .rsv, 0, 0, 0⟩, LEAD_NS, TILE_TMO, LANE_ERR, ⟨id, 104, 24, .rsv, 0, 0, 0⟩] ++
  ((List.range 4).flatMap fun p => [BCAST_FWD p])
end KRM_CTL

/-! Table 19.7 KRM_ROUTE (0x1E02) -/
namespace KRM_ROUTE
def id : Nat := 0x1E02
def PORT (a : Nat) : FldDef := ⟨id, 32 * (a / 2) + (16 * (a % 2)), 2, .rw, 0, 0, 3⟩
def VALID (a : Nat) : FldDef := ⟨id, 32 * (a / 2) + (16 * (a % 2) + 2), 1, .rw, 0, 0, 1⟩
def ALT (a : Nat) : FldDef := ⟨id, 32 * (a / 2) + (16 * (a % 2) + 3), 2, .rw, 0, 0, 3⟩
def ALT_VALID (a : Nat) : FldDef := ⟨id, 32 * (a / 2) + (16 * (a % 2) + 5), 1, .rw, 0, 0, 1⟩
def fields : List FldDef :=
  []
end KRM_ROUTE

/-! Table 19.8 KRM_GROUP (0x1E03) -/
namespace KRM_GROUP
def id : Nat := 0x1E03
def GROUP_ID : FldDef := ⟨id, 0, 8, .ro, 0, 0, 255⟩
def ROLE : FldDef := ⟨id, 8, 1, .ro, 0, 0, 1⟩
def MEMBER : FldDef := ⟨id, 9, 1, .ro, 0, 0, 1⟩
def TIME_LOCK : FldDef := ⟨id, 10, 1, .ro, 0, 0, 1⟩
def TILE : FldDef := ⟨id, 16, 6, .ro, 0, 0, 63⟩
def MASTER : FldDef := ⟨id, 32, 12, .ro, 0, 0, 4095⟩
def MEMBERS : FldDef := ⟨id, 48, 7, .ro, 0, 0, 127⟩
def TILES_PRESENT : FldDef := ⟨id, 64, 64, .ro, 0, 0, 18446744073709551615⟩
def OFFSET_PS : FldDef := ⟨id, 128, 32, .ro, 0, 0, 4294967295⟩
def PATH_DELAY : FldDef := ⟨id, 160, 32, .ro, 0, 0, 4294967295⟩
def LATE_LINES : FldDef := ⟨id, 192, 16, .ro, 0, 0, 65535⟩
def FILLED_TILES : FldDef := ⟨id, 208, 16, .ro, 0, 0, 65535⟩
def LATE_TILES : FldDef := ⟨id, 224, 16, .ro, 0, 0, 65535⟩
def fields : List FldDef :=
  [GROUP_ID, ROLE, MEMBER, TIME_LOCK, ⟨id, 11, 5, .rsv, 0, 0, 0⟩, TILE, ⟨id, 22, 10, .rsv, 0, 0, 0⟩, MASTER, ⟨id, 44, 4, .rsv, 0, 0, 0⟩, MEMBERS, ⟨id, 55, 9, .rsv, 0, 0, 0⟩, TILES_PRESENT, OFFSET_PS, PATH_DELAY, LATE_LINES, FILLED_TILES, LATE_TILES, ⟨id, 240, 16, .rsv, 0, 0, 0⟩]
end KRM_GROUP

/-! Table 19.9 KRM_STATUS (0x1E08) -/
namespace KRM_STATUS
def id : Nat := 0x1E08
def UP (p : Nat) : FldDef := ⟨id, 32 * (8 * p) + (0), 1, .ro, 0, 0, 1⟩
def SPARE_USED (p : Nat) : FldDef := ⟨id, 32 * (8 * p) + (1), 1, .ro, 0, 0, 1⟩
def WIDTH_3 (p : Nat) : FldDef := ⟨id, 32 * (8 * p) + (2), 1, .ro, 0, 0, 1⟩
def LANE_FAULT (p : Nat) : FldDef := ⟨id, 32 * (8 * p) + (8), 5, .rc, 0, 0, 31⟩
def NB_ADDR (p : Nat) : FldDef := ⟨id, 32 * (8 * p) + (16), 12, .ro, 0, 0, 4095⟩
def NB_PORT (p : Nat) : FldDef := ⟨id, 32 * (8 * p) + (28), 2, .ro, 0, 0, 3⟩
def NB_UID (p : Nat) : FldDef := ⟨id, 32 * (8 * p + 1), 64, .ro, 0, 0, 18446744073709551615⟩
def DELAY_PS (p : Nat) : FldDef := ⟨id, 32 * (8 * p + 3) + (0), 32, .ro, 0, 0, 4294967295⟩
def REPLAYS (p : Nat) : FldDef := ⟨id, 32 * (8 * p + 4) + (0), 32, .ro, 0, 0, 4294967295⟩
def CRC_ERR (p : Nat) : FldDef := ⟨id, 32 * (8 * p + 5) + (0), 32, .ro, 0, 0, 4294967295⟩
def NO_ROUTE : FldDef := ⟨id, 1024, 16, .ro, 0, 0, 65535⟩
def BAD_BLOCKS : FldDef := ⟨id, 1040, 16, .ro, 0, 0, 65535⟩
def fields : List FldDef :=
  [NO_ROUTE, BAD_BLOCKS] ++
  ((List.range 4).flatMap fun p => [UP p, SPARE_USED p, WIDTH_3 p, ⟨id, 32 * (8 * p) + (3), 5, .rsv, 0, 0, 0⟩, LANE_FAULT p, ⟨id, 32 * (8 * p) + (13), 3, .rsv, 0, 0, 0⟩, NB_ADDR p, NB_PORT p, ⟨id, 32 * (8 * p) + (30), 2, .rsv, 0, 0, 0⟩, NB_UID p, DELAY_PS p, REPLAYS p, CRC_ERR p, ⟨id, 32 * (8 * p + 6), 64, .rsv, 0, 0, 0⟩])
end KRM_STATUS

/-! Table 20.10 PWR_FAULT_POLICY (0x1F00) -/
namespace PWR_FAULT_POLICY
def id : Nat := 0x1F00
def ACTION (c : Nat) : FldDef := ⟨id, 32 * (0) + (2 * c), 2, .rw, ([1, 0, 2, 0, 0, 0, 0, 2, 0, 0, 0, 0, 1, 2, 0].getD c 0), 0, 2⟩
def fields : List FldDef :=
  [⟨id, 30, 2, .rsv, 0, 0, 0⟩] ++
  ((List.range 15).flatMap fun c => [ACTION c])
end PWR_FAULT_POLICY

/-! Table 20.11 PWR_CTL (0x1F01) -/
namespace PWR_CTL
def id : Nat := 0x1F01
def SLEEP_KIND : FldDef := ⟨id, 0, 1, .rw, 0, 0, 1⟩
def TEMP_ALARM : FldDef := ⟨id, 8, 8, .rw, 100, 60, 105⟩
def PF_WARN_MV : FldDef := ⟨id, 16, 16, .rw, 4400, 4400, 27000⟩
def fields : List FldDef :=
  [SLEEP_KIND, ⟨id, 1, 7, .rsv, 0, 0, 0⟩, TEMP_ALARM, PF_WARN_MV]
end PWR_CTL

/-! Table 20.12 PWR_STATUS (0x1F08) -/
namespace PWR_STATUS
def id : Nat := 0x1F08
def MODE : FldDef := ⟨id, 0, 3, .ro, 0, 0, 7⟩
def PREV_MODE : FldDef := ⟨id, 3, 3, .ro, 0, 0, 7⟩
def RESET_CAUSE : FldDef := ⟨id, 6, 3, .ro, 0, 0, 7⟩
def FAULT_ACTIVE : FldDef := ⟨id, 16, 15, .ro, 0, 0, 32767⟩
def DOMAIN_STATE (d : Nat) : FldDef := ⟨id, 32 * (1) + (2 * d), 2, .ro, 0, 0, 3⟩
def VIN_MV : FldDef := ⟨id, 64, 16, .ro, 0, 0, 65535⟩
def DIE_TEMP : FldDef := ⟨id, 80, 16, .ro, 0, 0, 65535⟩
def SAFE_CLASS : FldDef := ⟨id, 96, 4, .ro, 15, 0, 15⟩
def fields : List FldDef :=
  [ MODE, PREV_MODE, RESET_CAUSE, ⟨id, 9, 7, .rsv, 0, 0, 0⟩, FAULT_ACTIVE, ⟨id, 31, 1, .rsv, 0, 0, 0⟩, VIN_MV, DIE_TEMP, SAFE_CLASS, ⟨id, 100, 28, .rsv, 0, 0, 0⟩] ++
  ((List.range 16).flatMap fun d => [DOMAIN_STATE d])
end PWR_STATUS

/-! Table 21.4 SEC_MAP (0x1F10) -/
namespace SEC_MAP
def id : Nat := 0x1F10
def HOST_GRANT : FldDef := ⟨id, 0, 11, .rom, 2047, 0, 2047⟩
def HOST_DB : FldDef := ⟨id, 16, 16, .rom, 65535, 0, 65535⟩
def EXT_IRQ : FldDef := ⟨id, 32, 32, .rom, 0, 0, 4294967295⟩
def EXT_READ : FldDef := ⟨id, 64, 16, .rom, 0, 0, 65535⟩
def REGION (r : Nat) : FldDef := ⟨id, 32 * (3) + (2 * r), 2, .rom, 0, 0, 3⟩
def MAP_VERSION : FldDef := ⟨id, 128, 32, .rom, 0, 0, 4294967295⟩
def fields : List FldDef :=
  [HOST_GRANT, ⟨id, 11, 5, .rsv, 0, 0, 0⟩, HOST_DB, EXT_IRQ, EXT_READ, ⟨id, 80, 16, .rsv, 0, 0, 0⟩, MAP_VERSION] ++
  ((List.range 16).flatMap fun r => [REGION r])
end SEC_MAP

/-! Table 21.8 SEC_STATUS (0x1F18) -/
namespace SEC_STATUS
def id : Nat := 0x1F18
def ACTIVE (t : Nat) : FldDef := ⟨id, 32 * (0) + (2 * t), 2, .ro, 0, 0, 3⟩
def FALLBACK : FldDef := ⟨id, 12, 6, .ro, 0, 0, 63⟩
def CUST_PROV : FldDef := ⟨id, 18, 1, .ro, 0, 0, 1⟩
def DBG_PERM_LOCK : FldDef := ⟨id, 19, 1, .ro, 0, 0, 1⟩
def DBG_OPEN : FldDef := ⟨id, 20, 2, .ro, 0, 0, 3⟩
def VERSION (t : Nat) : FldDef := ⟨id, 32 * (1 + t) + (0), 32, .ro, 0, 0, 4294967295⟩
def SVN (t : Nat) : FldDef := ⟨id, 32 * (7 + t / 4) + (8 * (t % 4)), 8, .ro, 0, 0, 255⟩
def VIOLATIONS : FldDef := ⟨id, 288, 16, .ro, 0, 0, 65535⟩
def fields : List FldDef :=
  [FALLBACK, CUST_PROV, DBG_PERM_LOCK, DBG_OPEN, ⟨id, 22, 10, .rsv, 0, 0, 0⟩, ⟨id, 272, 16, .rsv, 0, 0, 0⟩, VIOLATIONS, ⟨id, 304, 16, .rsv, 0, 0, 0⟩] ++
  ((List.range 6).flatMap fun t => [ACTIVE t, VERSION t, SVN t])
end SEC_STATUS

end Sys2Proof.Machine.Obj
end

