-- ==== Sys2Proof/Machine/Interrupts.lean ====
section
/-! DEFINITION. The interrupt controller (R415 to R427): inputs and arrivals, offers, claim, completion and configuration. -/

namespace Sys2Proof.Machine

/-- The state of source n (R419). -/
def Ic.src (n : Nat) (c : Ic) : IcSrc := Sparse.get {} c.st n

def Ic.setSrc (n : Nat) (x : IcSrc) (c : Ic) : Ic := { c with st := Sparse.set {} c.st n x }

/-- IC_CFG[n] (Table 18.2). -/
def Ic.cfgOf (n : Nat) (c : Ic) : Nat := Sparse.get 0 c.cfg n

def Ic.targets (n : Nat) (c : Ic) : Nat := bits (c.cfgOf n) 4 0
def Ic.sense (n : Nat) (c : Ic) : Nat := bits (c.cfgOf n) 9 8
def Ic.prio (n : Nat) (c : Ic) : Nat := bits (c.cfgOf n) 14 12
def Ic.wake (n : Nat) (c : Ic) : Bool := bit (c.cfgOf n) 16

/-- Whether a change of the input from old to new is an arrival under SENSE (R418). -/
def icArrives (sense : Nat) (old new : Bool) : Bool :=
  match sense with
  | 0 | 1 => !old && new
  | 2 => old && !new
  | _ => old != new

/-- The input of a source takes a level (R418, R419). -/
def IcSrc.input' (sense : Nat) (v : Bool) (x : IcSrc) : IcSrc :=
  let a := icArrives sense x.input v
  { x with input := v, arrivals := if a then satAdd 15 x.arrivals 1 else x.arrivals
           pending := if sense = 0 then v && !x.active else x.pending || a }

def Ic.setInput (n : Nat) (v : Bool) (c : Ic) : Ic := c.setSrc n ((c.src n).input' (c.sense n) v)

/-- Source n is offered to target t (R420). -/
def Ic.offered (t n : Nat) (c : Ic) : Bool :=
  let x := c.src n
  n != 0 && x.pending && !x.active && decide (0 < c.prio n) && bit (c.targets n) t && c.deliver

/-- The offered source of target t with the highest PRIO, or the lowest ID among equals (R421). -/
def Ic.best (t : Nat) (c : Ic) : Option Nat :=
  (c.st.map Prod.fst).foldl (fun b n =>
    if c.offered t n then
      match b with
      | none => some n
      | some m => if c.prio m < c.prio n then some n else b
    else b) none

/-- The interrupt outputs, bit t for target t (R420, R423). -/
def Ic.outputs (c : Ic) : Nat := packBits ((List.range 5).map fun t => (c.best t).isSome)

/-- The sources that some chapter defines (R416); any other never asserts. -/
def definedSource (n : Nat) : Bool :=
  [(1, 26), (32, 57), (64, 78), (128, 133), (136, 146), (160, 163), (165, 170), (192, 215), (224, 230), (232, 232), (240, 247), (256, 262),
   (288, 307), (320, 336), (352, 367), (376, 407), (416, 420), (422, 422), (432, 456), (464, 469), (480, 488), (496, 511)].any
    fun r => decide (r.1 ≤ n) && decide (n ≤ r.2)

/-- A read of IC_CLAIM_t (R421, R423): the word it returns is kept as the target's last claim. TARGETS and PRIO are those from before the cycle
(R417). -/
def Ic.claim (t : Nat) (c : Ic) : Ic :=
  match ({ c with cfg := c.base.cfg } : Ic).best t with
  | some n =>
    let x := c.src n
    { c.setSrc n { x with active := true, claimant := t, arrivals := 0, pending := false } with
      lastClaim := put c.lastClaim t (n + 65536 * x.arrivals) }
  | none => { c with lastClaim := put c.lastClaim t (if bit c.base.out t then 1023 else 0) }

/-- The end of an active claim (R422): a level source whose input is still high is pending again. -/
def IcSrc.release (sense : Nat) (x : IcSrc) : IcSrc :=
  { x with active := false, pending := if sense = 0 then x.input else x.pending }

/-- A write of IC_COMPLETE_t (R422). -/
def Ic.complete (t n : Nat) (c : Ic) : Ic :=
  let x := c.src n
  if decide (1 ≤ n) && decide (n < 512) && x.active && x.claimant == t then c.setSrc n (x.release (c.sense n))
  else { c with badComplete := sat16 c.badComplete }

/-- A write of IC_CFG[n] (R417). -/
def Ic.writeCfg (n v : Nat) (c : Ic) : Ic :=
  let old := c.sense n
  let c' := { c with cfg := Sparse.set 0 c.cfg n (v &&& 0x1731F) }
  if n = 0 then c
  else if c'.sense n = old then c'
  else
    let x := c.src n
    c'.setSrc n { x with arrivals := 0, pending := c'.sense n == 0 && x.input && !x.active }

/-- A write of IC_GCTL by Distaff (R423, R428). -/
def Ic.writeGctl (v events : Nat) (c : Ic) : Ic :=
  let c' := { c with deliver := bit v 0, slpKind := bit v 1 }
  if bit v 0 && c.fromTap then
    { (maskIx events 32).foldl (fun c i => if i = 0 then c else c.setSrc i { c.src i with pending := true, arrivals := 1 }) c' with fromTap := false }
  else c'

/-- The completion of every claim of target t at a reset of its domain (R425). -/
def Ic.dropClaims (t : Nat) (c : Ic) : Ic :=
  (c.st.map Prod.fst).foldl (fun c n =>
    let x := c.src n
    if x.active && x.claimant == t then c.setSrc n (x.release (c.sense n)) else c) c

/-! One controller cycle (R424). -/

/-- The place of an event within its cycle (R424). -/
def IcEv.rank : IcEv → Nat
  | .cfg _ _ | .gctl _ _ => 0
  | .complete _ _ | .drop _ | .clearBad => 1
  | .input _ _ => 2
  | .claim t => 3 + t

/-- One event. -/
def Ic.run (c : Ic) : IcEv → Ic
  | .cfg n v => c.writeCfg n v
  | .gctl v events => c.writeGctl v events
  | .complete t n => c.complete t n
  | .drop t => c.dropClaims t
  | .clearBad => { c with badComplete := 0 }
  | .input n v => c.setInput n v
  | .claim t => c.claim t

/-- What a new cycle starts from. -/
def Ic.snap (c : Ic) : IcBase :=
  { cfg := c.cfg, st := c.st, out := c.outputs, deliver := c.deliver, slpKind := c.slpKind, badComplete := c.badComplete, lastClaim := c.lastClaim
    fromTap := c.fromTap }

/-- The controller with the events of one cycle applied to what stood before it. -/
def Ic.replay (b : IcBase) (now : Nat) (evs : List IcEv) (c : Ic) : Ic :=
  evs.foldl Ic.run { c with cfg := b.cfg, st := b.st, deliver := b.deliver, slpKind := b.slpKind, badComplete := b.badComplete
                            lastClaim := b.lastClaim, fromTap := b.fromTap, evAt := now, evs, base := b }

/-- An event joins those of its 750 MHz cycle, after those of its rank and of lower ones, and the cycle is worked through in the order of R424. -/
def Ic.cycle (now : Nat) (e : IcEv) (c : Ic) : Ic :=
  if cycle750 c.evAt = cycle750 now ∧ c.evs ≠ [] then
    c.replay c.base now ((c.evs.filter fun x => decide (x.rank ≤ e.rank)) ++ e :: c.evs.filter fun x => decide (e.rank < x.rank))
  else c.replay c.snap now [e]

/-- A mailbox source whose arrival is a post (R311, R429). -/
def mailboxSource (n : Nat) : Bool := (decide (32 ≤ n) && decide (n ≤ 39)) || (decide (48 ≤ n) && decide (n ≤ 52))

/-- Source n is a wake source of retention SLEEP (R431). -/
def Ic.wakes (n : Nat) (c : Ic) : Bool := c.wake n || mailboxSource n

/-- A wake source that fires while a sleep is entered or stands is remembered, though its input falls again (R432, R433). -/
def noteWake (e : IcEv) (d : Dev) : Dev :=
  match e with
  | .input n _ => if d.tap.phase ≠ .awake ∧ d.ic.wakes n = true ∧ (d.ic.src n).pending = true then d.uTap fun t => { t with woke := true } else d
  | _ => d

/-- An event of the interrupt controller. -/
def icDo (e : IcEv) (d : Dev) : Dev := noteWake e (d.uIc (Ic.cycle d.now e))

/-- A block raises interrupt n: its input goes high and low again (assumption log 8). -/
def raise (n : Nat) (d : Dev) : Dev := icDo (.input n false) (icDo (.input n true) d)

/-- The input of source n takes a level, if it had the other. -/
def icLevel (n : Nat) (v : Bool) (d : Dev) : Dev := if (d.ic.src n).input = v then d else icDo (.input n v) d

/-- A non-secure access that the security map does not grant (R484): it is counted, and interrupt 488 is raised. -/
def secViolation (d : Dev) : Dev := raise 488 (d.uSec fun s => { s with violations := sat16 s.violations })

/-- The sources whose configuration a target may write: all for the secure cores and Distaff, for core 3 those of R427. -/
def icGranted (t n : Nat) (extIrq : Nat) : Bool :=
  t != 3 || n == 51 || n == 56 || decide (496 ≤ n) || bit extIrq (n / 16)

/-! The commands of the interrupt controller. -/

/-- IC_CLAIM: a read of IC_CLAIM_t. What an earlier read returned stands. -/
def icClaim (t : Nat) (d : Dev) : Dev :=
  icDo (.claim t) (if d.hs.claimRead = some t then d.uHs fun h => { h with readData := [BitVec.ofNat 32 (at' d.ic.lastClaim t 0)], claimRead := none } else d)

/-- IC_COMPLETE: a write of IC_COMPLETE_t. -/
def icComplete (t n : Nat) (d : Dev) : Dev := icDo (.complete t n) d

/-- The words of an object at its reset contents, from its fields (R2). -/
def resetWords (n : Nat) (fs : List FldDef) : List Word :=
  (List.range n).map fun w => BitVec.ofNat 32 (((fs.filter fun f => decide (f.off / 32 = w) || (decide (f.off / 32 < w) && decide (w < (f.off + f.wid + 31) / 32))).map
    fun f => if f.off / 32 = w then (f.rst <<< (f.off % 32)) % 4294967296 else f.rst >>> (32 * w - f.off)).foldl (· ||| ·) 0)

/-- A field of SEC_MAP (Table 21.4): the map in force. -/
def secMap (f : FldDef) (d : Dev) : Nat :=
  let ws := Sparse.get [] d.objs Obj.SEC_MAP.id
  if ws = [] then f.rst else getBits ws f.off f.wid

/-- IC_CFG_WRITE: target t writes IC_CFG[n] (R427). -/
def icCfgWrite (t n v : Nat) (d : Dev) : Dev :=
  if icGranted t n (secMap Obj.SEC_MAP.EXT_IRQ d) then icDo (.cfg n v) d
  else secViolation d

/-- IC_GCTL_WRITE: an endpoint writes IC_GCTL; only Distaff's write counts (R427). -/
def icGctlWrite (t v : Nat) (d : Dev) : Dev :=
  if t = 4 then icDo (.gctl v d.tap.event) d
  else if t = 3 then secViolation d
  else d

end Sys2Proof.Machine
end

