-- ==== Sys2Proof/Machine/Meoner.lean ====
section
/-! DEFINITION. The Meoner firmware (chapter 14): status codes, completions, deferred completions, events, taking and starting a command. -/

namespace Sys2Proof.Machine

/-! Status codes (Table 14.4). -/
namespace St
def OK : Nat := 0x00
def DEFERRED : Nat := 0x01
def ABORTED : Nat := 0x02
def BAD_OPCODE : Nat := 0x03
def BAD_OBJECT : Nat := 0x04
def BAD_FIELD : Nat := 0x05
def WRONG_MODE : Nat := 0x06
def DENIED : Nat := 0x07
def BUSY : Nat := 0x08
def TIMEOUT : Nat := 0x09
def CAL_DISAGREE : Nat := 0x0A
def SPARES_EXHAUSTED : Nat := 0x0B
def CLAMPED : Nat := 0x0C
def DISCARDED : Nat := 0x0D
def SEAM : Nat := 0x0E
def HW_FAULT : Nat := 0x0F
end St

/-! Opcodes (Table 14.5). -/
namespace Op
def PING : Nat := 0x0000
def SESSION_OPEN : Nat := 0x0001
def SESSION_CLOSE : Nat := 0x0002
def DEV_INFO : Nat := 0x0003
def OBJ_READ : Nat := 0x0100
def OBJ_WRITE : Nat := 0x0101
def OBJ_INFO : Nat := 0x0102
def MODE_SET : Nat := 0x0200
def CAL_RUN : Nat := 0x0300
def CAL_SAVE : Nat := 0x0301
def CAL_LAMP : Nat := 0x0302
def CAL_DELAY : Nat := 0x0303
def MOVE_APPEND : Nat := 0x0400
def MOVE_REPLACE : Nat := 0x0401
def AXIS_STOP : Nat := 0x0402
def MOVE_LINEAR : Nat := 0x0403
def LAMP_FORCE : Nat := 0x0500
def LAMP_SPARE : Nat := 0x0501
def STORE_DISCARD : Nat := 0x0600
def FAB_DISCOVER : Nat := 0x0700
def GROUP_JOIN : Nat := 0x0701
def GROUP_LEAVE : Nat := 0x0702
def IMAGE_LOAD : Nat := 0x0800
def IMAGE_ACTIVATE : Nat := 0x0801
def DOMAIN_RESET : Nat := 0x0802
def KEY_PROVISION : Nat := 0x0803
def AUX_READ : Nat := 0x0900
def FAULT_LIST : Nat := 0x0901
end Op

/-- The opcodes of Table 14.5 without EVENT. -/
def knownOpcode (op : Nat) : Bool :=
  [0x0000, 0x0001, 0x0002, 0x0003, 0x0100, 0x0101, 0x0102, 0x0200, 0x0300, 0x0301, 0x0302, 0x0303, 0x0400, 0x0401, 0x0402, 0x0403,
   0x0500, 0x0501, 0x0600, 0x0700, 0x0701, 0x0702, 0x0800, 0x0801, 0x0802, 0x0803, 0x0900, 0x0901].contains op ||
  (decide (0x08F0 ≤ op) && decide (op ≤ 0x08FF))

/-- The security map grants the opcode to the host (Table 21.4, HOST_GRANT). -/
def opcodeGranted (op : Nat) (d : Dev) : Bool :=
  let g := secMap Obj.SEC_MAP.HOST_GRANT d
  if decide (0x08F0 ≤ op) && decide (op ≤ 0x08FF) then bit g 10 else op / 256 == 0 || bit g (op / 256)

/-- The modes in which the firmware accepts an opcode (Table 14.5). -/
def opModes (op : Nat) : List Mode :=
  let any : List Mode := [.reset, .boot, .calibrate, .ready, .scan, .hold, .safe, .sleep]
  if op = Op.CAL_RUN ∨ op = Op.CAL_LAMP ∨ op = Op.CAL_DELAY ∨ op = Op.LAMP_FORCE ∨ op = Op.FAB_DISCOVER then [.calibrate, .ready]
  else if op = Op.CAL_SAVE then [.calibrate, .ready, .scan, .hold]
  else if op = Op.MOVE_APPEND ∨ op = Op.MOVE_REPLACE ∨ op = Op.MOVE_LINEAR ∨ op = Op.GROUP_LEAVE ∨ op = Op.IMAGE_LOAD ∨
      op = Op.IMAGE_ACTIVATE ∨ op = Op.DOMAIN_RESET then [.ready, .scan, .hold]
  else if op = Op.AXIS_STOP ∨ op = Op.FAULT_LIST then [.calibrate, .ready, .scan, .hold, .safe, .sleep]
  else if op = Op.LAMP_SPARE ∨ op = Op.STORE_DISCARD ∨ op = Op.GROUP_JOIN ∨ op = Op.KEY_PROVISION then [.ready]
  else if op = Op.AUX_READ then [.calibrate, .ready, .hold, .safe]
  else any

/-- MODE_SET, SESSION_CLOSE, DOMAIN_RESET and IMAGE_ACTIVATE (R325). -/
def isBarrier (op : Nat) : Bool := op == Op.MODE_SET || op == Op.SESSION_CLOSE || op == Op.DOMAIN_RESET || op == Op.IMAGE_ACTIVATE

/-- The words of a completion (Table 14.2). -/
def completionWords (w : Who) (status detail : Nat) (dup : Bool) (res : List Word) : List Word :=
  [BitVec.ofNat 32 (w.op + 65536 * w.tag + 67108864 * (1 + res.length)), BitVec.ofNat 32 detail, BitVec.ofNat 32 (status + 256 * b2n dup)] ++ res

/-- A completion joins those that wait for its D2H mailbox, as one of the open session (R322, R327). -/
def pushOut (m : Nat) (ws : List Word) (d : Dev) : Dev := d.uMnr fun x => { x with out := x.out ++ [(m, ws, if x.open_ then some x.sess else none)] }

/-- MNR_LOG takes the status of a tag (R327). -/
def logStatus (tag status : Nat) (x : Mnr) : Mnr := { x with log := Sparse.set 0xFF x.log tag status }

/-- A command ends with its final completion (R322, R324); a command of an ended session records its status in MNR_LOG (R327). -/
def finish (w : Who) (status : Nat) (detail : Nat := 0) (res : List Word := []) (d : Dev) : Dev :=
  if w.sess = d.mnr.sess then
    pushOut w.mbx (completionWords w status detail false res) (d.uMnr fun x => { x with tags := x.tags.filter fun r => r.who != w })
  else if d.mnr.logged ∧ w.sess = d.mnr.logSess then d.uMnr (logStatus w.tag status)
  else d

/-- As finish, for a command that may be absent. -/
def finish? (w : Option Who) (status : Nat) (detail : Nat := 0) (res : List Word := []) (d : Dev) : Dev :=
  match w with
  | none => d
  | some w => finish w status detail res d

/-- A command is answered with DEFERRED; its tag stays outstanding (R326). -/
def defer (w : Who) (detail : Nat := 0) (d : Dev) : Dev :=
  if w.sess = d.mnr.sess then
    pushOut w.mbx (completionWords w St.DEFERRED detail false [])
      (d.uMnr fun x => { x with tags := x.tags.map fun r => if r.who = w then { r with deferred := true } else r })
  else if d.mnr.logged ∧ w.sess = d.mnr.logSess then d.uMnr (logStatus w.tag St.DEFERRED)
  else d

/-- An event arises (R335): at most 256 are held, the oldest is dropped. -/
def postEvent (code domain status source : Nat) (line : Option Nat) (detail : List Nat) (d : Dev) : Dev :=
  d.uMnr fun x =>
    let e : Evt := { code, domain, status, seq := x.seq, source, line, detail }
    let x := { x with seq := (x.seq + 1) % 65536 }
    if x.events.length < 256 then { x with events := x.events ++ [e] }
    else { x with events := x.events.drop 1 ++ [e], evtLost := sat16 x.evtLost, lostSince := sat16 x.lostSince }

/-- The words of an event (Table 14.7). -/
def eventWords (e : Evt) (lost : Nat) : List Word :=
  let l := match e.line with | some k => k | none => 281474976710655
  let n := 4 + e.detail.length
  [BitVec.ofNat 32 (0x0080 + 67108864 * n), BitVec.ofNat 32 (e.code + 65536 * e.domain), BitVec.ofNat 32 (e.status + 65536 * e.seq),
   BitVec.ofNat 32 (e.source + 65536 * lost), BitVec.ofNat 32 l, BitVec.ofNat 32 ((l >>> 32) % 65536)] ++ e.detail.map (BitVec.ofNat 32)

/-- The firmware takes a command (R307, R321, R323, R324, R327). -/
def takeCommand (mbx hi tag op len arg : Nat) (pay : List Word) (postEpoch : Nat) (d : Dev) : Dev :=
  let w : Who := { mbx, tag, op, sess := d.mnr.sess }
  if postEpoch ≠ d.hs.hostEpoch then d.uMnr (logStatus tag St.DISCARDED)
  else if d.mnr.tags.any (fun r => r.who.tag == tag) then
    pushOut mbx (completionWords w St.BUSY 0 true []) (d.uMnr fun x => { x with dupTags := sat16 x.dupTags })
  else
    let d := d.uMnr fun x => { x with tags := x.tags ++ [{ who := w }] }
    if len = 15 then finish w St.BAD_FIELD 0 [] d
    else if hi ≠ 0 then finish w St.BAD_FIELD 0 [] d
    else if !knownOpcode op then finish w St.BAD_OPCODE 0 [] d
    else if !opcodeGranted op d then finish w St.DENIED 0 [] d
    else if !d.mnr.open_ && !(op == Op.PING || op == Op.SESSION_OPEN || op == Op.DEV_INFO) then finish w St.DENIED 0 [] d
    else d.uMnr fun x => { x with taken := x.taken ++ [{ who := w, arg, len, pay, at_ := d.now }] }

/-- The commands whose ARG names an object. -/
def namesObject (op : Nat) : Bool := op == Op.OBJ_READ || op == Op.OBJ_WRITE || op == Op.OBJ_INFO

/-- Whether a taken command may start (R325): no command before it is a barrier or, for a barrier, waits to start; commands that name the
same object start in the order taken. (A barrier also waits for started commands, see beginCommand.) -/
def mayStart (before : List Taken) (c : Taken) : Bool :=
  if isBarrier c.who.op then before.isEmpty
  else before.all fun b => !isBarrier b.who.op &&
    !(namesObject b.who.op && namesObject c.who.op && b.arg % 65536 == c.arg % 65536)

/-- Split a list at the first item that satisfies p. -/
def splitAt? {α : Type} (p : α → Bool) : List α → Option (List α × α × List α)
  | [] => none
  | x :: xs => if p x then some ([], x, xs) else (splitAt? p xs).map fun r => (x :: r.1, r.2.1, r.2.2)

/-- The command that a Meoner row starts: one already taken with this mailbox, tag and opcode, or this one posted, taken and started
at once (assumption log 9), which cannot arise while a command posted before it is not taken (R325). none: it was answered, or may not start yet. -/
def beginCommand (op : Nat) (c : MnrCmd) (d : Dev) : Dev × Option Taken :=
  let start (d : Dev) : Dev × Option Taken :=
    match splitAt? (fun t => t.who.mbx == c.mbx.val && t.who.tag == c.tag.val && t.who.op == op) d.mnr.taken with
    | none => (d, none)
    | some (l, t, r) =>
      let settled := !isBarrier op || d.mnr.tags.all fun g => g.deferred || g.who == t.who || r.any fun x => x.who == g.who
      if mayStart l t && settled then (d.uMnr fun x => { x with taken := l ++ r }, some t) else (d, none)
  if d.mnr.taken.any (fun t => t.who.mbx == c.mbx.val && t.who.tag == c.tag.val && t.who.op == op) then start d
  else if d.mbx.h2d.any (fun x => x.posted && decide (x.receiver < 3)) then (d, none)
  else start (takeCommand c.mbx.val c.hi.val c.tag.val op c.len.val c.arg.toNat (c.pay.take c.len.val) d.hs.hostEpoch d)

/-- A payload word W(2 + i) of a command. -/
def Taken.w (t : Taken) (i : Nat) : Nat := (t.pay.getD i 0).toNat

/-- The instant and the measurements that a command carries. -/
def cmdAt (c : MnrCmd) (d : Dev) : Dev :=
  let d := d.at_ c.t
  match c.vled with
  | some v => d.uIlm fun i => { i with vledMv := v.val }
  | none => d

/-- A Meoner command whose opcode's modes hold runs its body; in any other mode it is rejected with WRONG_MODE (R329). -/
def command (op : Nat) (c : MnrCmd) (body : Taken → Dev → Dev) (d : Dev) : Dev :=
  match beginCommand op c (cmdAt c d) with
  | (d', none) => d'
  | (d', some t) => if (opModes op).contains d'.pwr.mode then body t d' else finish t.who St.WRONG_MODE 0 [] d'

/-- A rejection that changes nothing. -/
def reject (t : Taken) (status : Nat) (detail : Nat := 0) (d : Dev) : Dev := finish t.who status detail [] d

/-- The first failing check of a list: status, DETAIL. -/
def firstFail : List (Bool × Nat × Nat) → Option (Nat × Nat)
  | [] => none
  | (bad, s, x) :: r => if bad then some (s, x) else firstFail r

/-- A command runs unless one of its checks fails; the first that fails rejects it. -/
def checked (t : Taken) (checks : List (Bool × Nat × Nat)) (body : Dev → Dev) (d : Dev) : Dev :=
  match firstFail checks with
  | some (s, x) => reject t s x d
  | none => body d

end Sys2Proof.Machine
end

