-- ==== Sys2Proof/Machine/Ops.lean ====
section
/-! DEFINITION. Shared operations: the fields of the configuration in force, the flags and counts of a line's header, and small lookups. -/

namespace Sys2Proof.Machine

/-- A field of an object's words; an object that was never written holds its reset contents (R2). -/
def fieldOf (ws : List Word) (f : FldDef) : Nat := if ws = [] then f.rst else getBits ws f.off f.wid

/-- The words of an object as a read returns them: the staged contents where there are any (R330). -/
def objWords (id : Nat) (d : Dev) : List Word := Sparse.get [] d.objs id

/-- The words of an object in force. -/
def liveWords (id : Nat) (d : Dev) : List Word :=
  let old := Sparse.get [] d.liveOld id
  if old = [] then objWords id d else old

/-- A field of the configuration in force. -/
def cfg (f : FldDef) (d : Dev) : Nat := fieldOf (liveWords f.obj d) f

/-- A field as a flag. -/
def cfgB (f : FldDef) (d : Dev) : Bool := cfg f d != 0

/-- A field as a signed number. -/
def cfgS (f : FldDef) (d : Dev) : Int := toS f.wid (cfg f d)

/-- An object takes new contents at once. -/
def setObj (id : Nat) (ws : List Word) (d : Dev) : Dev := { d with objs := Sparse.set [] d.objs id ws }

/-- An object takes new contents that wait for a frame boundary: the contents in force are kept aside (R30). zero: the words that stand for
reset contents. -/
def stageObj (id : Nat) (zero ws : List Word) (d : Dev) : Dev :=
  let live := let l := liveWords id d; if l = [] then zero else l
  { d with objs := Sparse.set [] d.objs id ws, liveOld := Sparse.set [] d.liveOld id live }

/-- One field of an object is set by the device itself; n words, fs its field map. -/
def pokeObj (n : Nat) (fs : List FldDef) (f : FldDef) (v : Nat) (d : Dev) : Dev :=
  let ws := liveWords f.obj d
  setObj f.obj (setBits (if ws = [] then resetWords n fs else ws) f.off f.wid v) d

/-- The n words that hold the given values in their fields (a read of a status object). -/
def packF (n : Nat) (l : List (FldDef × Nat)) : List Word :=
  wordsOfNat n (l.foldl (fun a x => a + (x.2 % 2 ^ x.1.wid) * 2 ^ x.1.off) 0)

/-- A flag as a field value. -/
def fb (f : FldDef) (b : Bool) : FldDef × Nat := (f, b2n b)

/-- The staged contents of an object go live. -/
def unstage (id : Nat) (d : Dev) : Dev := { d with liveOld := Sparse.set [] d.liveOld id [] }

/-- An object has staged contents. -/
def isStaged (id : Nat) (d : Dev) : Bool := Sparse.get [] d.liveOld id != []

/-- The contents of an object were staged in the 750 MHz cycle of instant t: they wait for the following frame boundary (R30). -/
def stagedLate (t : Nat) (id : Nat) (d : Dev) : Bool :=
  match Sparse.get 0 d.spn.stagedAt id with
  | 0 => false
  | u + 1 => decide (cycle750 t ≤ cycle750 u)

/-! FLAGS bits of a line header (Table 1.5). -/
namespace FL
def OVR : Nat := 1
def UNDR : Nat := 2
def SEAM : Nat := 4
def DEGRADED : Nat := 8
def POISON : Nat := 16
def SETTLING : Nat := 32
def CHECKER_MISMATCH : Nat := 64
def LAMP_FAULT : Nat := 128
def TDI_PARTIAL : Nat := 256
def RESENT : Nat := 512
def FRAME_START : Nat := 1024
def FRAME_END : Nat := 2048
def PACE_SLOW : Nat := 4096
end FL

/-- The record of line k, while the line is on its way; a priming line carries no header (R269). -/
def lineRec (k : Nat) (d : Dev) : Option LineRec := d.lines.find? fun l => l.k == k && !l.priming

/-- The latest start of index k was that of a priming line (R269). -/
def primes (k : Nat) (d : Dev) : Bool := d.lines.any fun l => l.k == k && l.priming

def updLine (k : Nat) (f : LineRec → LineRec) (d : Dev) : Dev := { d with lines := d.lines.map fun l => if l.k = k ∧ l.priming = false then f l else l }

/-- The header of line k takes flags. -/
def flagLine (k fl : Nat) (d : Dev) : Dev := updLine k (fun l => { l with flags := l.flags ||| fl }) d

/-- The line being acquired as index k changes; what happens to a priming line marks no header (R269). -/
def updStarted (k : Nat) (f : LineRec → LineRec) (d : Dev) : Dev := if primes k d then d else updLine k f d

/-- The line being acquired as index k carries the flags (its own header, chapter 1). -/
def markLine (k fl : Nat) (d : Dev) : Dev := updStarted k (fun l => { l with flags := l.flags ||| fl }) d

def markLine? (k : Option Nat) (fl : Nat) (d : Dev) : Dev :=
  match k with
  | none => d
  | some k => markLine k fl d

/-- An out-of-range sample of line k is counted, or one that was counted is replaced; OVR and UNDR follow the counts (R82). -/
def countOut (k rng : Nat) (more : Bool) (d : Dev) : Dev :=
  updStarted k (fun l =>
    let step (n : Nat) : Nat := if more then n + 1 else n - 1
    let o := if rng = 1 then step l.ovr else l.ovr
    let u := if rng = 2 then step l.undr else l.undr
    { l with ovr := o, undr := u, flags := maskAndNot l.flags (FL.OVR + FL.UNDR) ||| (if 0 < o then FL.OVR else 0) ||| (if 0 < u then FL.UNDR else 0) }) d

/-- The index of the line in progress. -/
def curLine (d : Dev) : Option Nat := d.spn.line.map (·.k)

/-- The configured phases (SPN_CTL.PHASES). -/
def phasesOf (d : Dev) : Nat := max 1 (cfg Obj.SPN_CTL.PHASES d)

/-- SCAN_SRC selects the time counter (R28). -/
def timeMode (d : Dev) : Bool := cfg Obj.SPN_CTL.SCAN_SRC d == 8

/-- The sign of the scan direction, s of chapter 2. -/
def dirSign (d : Dev) : Int := if cfgB Obj.SPN_CTL.DIR d then -1 else 1

/-- The distance d = s · (P − ORIGIN) of a position. -/
def distOf (p : Int) (d : Dev) : Int :=
  if timeMode d then p - cfgS Obj.SPN_CTL.ORIGIN d else dirSign d * (p - cfgS Obj.SPN_CTL.ORIGIN d)

/-- The position of a distance. -/
def posOf (x : Int) (d : Dev) : Int :=
  if timeMode d then x + cfgS Obj.SPN_CTL.ORIGIN d else dirSign d * x + cfgS Obj.SPN_CTL.ORIGIN d

/-- LINE_PITCH. -/
def pitch (d : Dev) : Nat := max 1 (cfg Obj.SPN_CTL.LINE_PITCH d)

/-- The start of line k, as a distance. -/
def lineAt (k : Nat) (d : Dev) : Int := (k : Int) * (pitch d : Int)

/-- The maximum line rate of R18, as a fraction (lines, seconds). -/
def maxLineRate (d : Dev) : Nat × Nat :=
  if timeMode d then (256 * 1000000000, pitch d) else (cfg Obj.SPN_CTL.OVERSPEED d * 256, pitch d)

/-- A run of a self-calibration is measuring: no table plays and no window opens (R103). -/
def calMeasuring (d : Dev) : Bool := match d.cal.run with | some r => decide (2 ≤ r.state ∧ r.state ≤ 5) | none => false

/-- The converters take conversions for windows (R77, R103). -/
def converting (d : Dev) : Bool := d.acq.refReady && !calMeasuring d

/-- The canonical form of memory: strictly rising addresses, and no entry equal to 0, which every unlisted address reads as. -/
def Memory.wf (m : List Host.Cell) : Bool := Sparse.wf 0#8 m

/-- One byte of host memory as the device wrote it. -/
def Memory.read (m : List Host.Cell) (a : Nat) : Byte := Sparse.get 0#8 m a

/-- Lines from index f on are missing before the next line that starts (R35, R273). -/
def linesMissing (f : Nat) (d : Dev) : Dev :=
  d.uPace fun p => { p with seamDue := some (match p.seamDue with | some g => min f g | none => f) }

/-- A cell of host memory is written by DMA; the canonical form is kept. -/
def writeByte (a : Nat) (b : Byte) (d : Dev) : Dev := { d with hostMem := Sparse.set 0#8 d.hostMem a b }

def writeBytes (a : Nat) : List Byte → Dev → Dev
  | [], d => d
  | b :: bs, d => writeBytes (a + 1) bs (writeByte a b d)

/-- Words written to host memory, little-endian (R1). -/
def writeWords (a : Nat) (ws : List Word) (d : Dev) : Dev := writeBytes a (ws.flatMap bytesOfWord) d

end Sys2Proof.Machine
end

