-- ==== Sys2Proof/Machine/Position.lean ====
section
/-! DEFINITION. The scan position (R12 to R17, R28): the counted position P, the estimate P̂, the estimated speed and the distance d. -/

namespace Sys2Proof.Machine

/-- SCAN_SRC (Table 2.5). -/
def scanSrc (d : Dev) : Nat := cfg Obj.SPN_CTL.SCAN_SRC d

/-- The device is a follower of a scan group: its Spindle ignores SCAN_SRC and its encoder ports (R450). -/
def follower (d : Dev) : Bool := d.krm.member && !d.krm.role

/-- The scan source is an encoder port. -/
def srcPort (d : Dev) : Option Nat := if scanSrc d < 4 && !follower d then some (scanSrc d) else none

/-- The scan source is a Shuttle axis (R15). -/
def srcAxis (d : Dev) : Option Nat := if decide (4 ≤ scanSrc d) && decide (scanSrc d < 8) && !follower d then some (scanSrc d - 4) else none

/-- The sign of the direction of travel in P: the scan direction, and while a reversal stands that of v̂ (R16, R20). -/
def travelSign (d : Dev) : Int :=
  if d.spn.reversed then (match d.spn.vel with | some (n, _) => if n < 0 then -1 else 1 | none => 1) else dirSign d

def xUnit : Int := 2000000000000000000
def vUnit : Nat := 1000000000000
def aUnit : Nat := 1000000

def axisAt (n : Nat) (d : Dev) : Axis := at' d.shu.ax n {}
def updAxis (n : Nat) (f : Axis → Axis) (d : Dev) : Dev := d.uShu fun s => { s with ax := upd s.ax n f }

/-- p in microsteps (R339): the last microstep emitted in the direction of travel. -/
def Axis.p (a : Axis) : Int := if a.v < 0 then -((-a.x) / xUnit) else a.x / xUnit

/-- How long ago, in 62.5 ps steps and at most 1 µs, an axis passed the microstep p (R343). -/
def microstepAge (a : Axis) : Nat := min 16000 (16000 * (a.x - a.p * xUnit).natAbs / (2 * max 1 a.v.natAbs))

/-- The microsteps that axis n emits by instant t, at its present speed, after its last update (R15, R343). The BACKLASH of R21 holds them. -/
def stepsSince (n t : Nat) (d : Dev) : Int :=
  let a := axisAt n d
  if d.spn.blLeft ≠ 0 ∨ decide (0 < a.v) ≠ d.spn.cmdUp then 0
  else ({ a with x := a.x + 2 * a.v * (min 16000 (t - d.shu.genAt) : Nat) / 16000 } : Axis).p - a.p

/-- P̂ at an instant (R16, R28): interpolated by v̂ from the last edge, within 255 sub-counts of it in the direction of travel. As long as no
reversal is declared, an edge against the direction of travel leaves it where it stands until the count has passed that value. Fractions of a
sub-count are rounded down, as in VEL (assumption log 83). -/
def phatAt (t : Nat) (d : Dev) : Int :=
  if timeMode d then ((125 * (t : Int) + d.krm.ofsHalf) * 16) / 125
  else if follower d then
    match d.spn.vel, d.spn.edges with
    | some (n, den), (_, tk) :: _ => d.spn.p + n * ((t : Int) - tk) / (den : Int)
    | _, _ => d.spn.p
  else
    let sgn := travelSign d
    let est := match srcAxis d, d.spn.vel, d.spn.edges with
      | some n, _, _ => d.spn.p + 256 * stepsSince n t d
      | none, some (n, den), (_, tk) :: _ => d.spn.p + sgn * clampI 0 255 (sgn * (n * ((t : Int) - tk) / (den : Int)))
      | _, _, _ => d.spn.p
    if d.spn.reversed || decide (sgn * (d.spn.p - d.spn.phat) ≥ 0) || ((srcAxis d).isSome && decide (sgn * (est - d.spn.phat) ≥ 0)) then est else d.spn.phat

/-- The distance d of the counted position. -/
def dist (d : Dev) : Int := distOf (if timeMode d then 256 * (d.ns : Int) else d.spn.p) d

/-- The distance of P̂ at an instant. -/
def distAt (t : Nat) (d : Dev) : Int := distOf (phatAt t d) d

/-- |v̂| in counts/s (R34), 0 before it is known; one count is 1 ns in time mode (R28). -/
def speed (d : Dev) : Nat :=
  if timeMode d then 1000000000
  else match d.spn.vel with
    | some (n, den) => n.natAbs * 62500000 / max 1 den
    | none => 0

/-- v̂ in sub-counts per ms (SPN_STATUS.VEL). -/
def velPerMs (d : Dev) : Int :=
  if timeMode d then 256000000
  else match d.spn.vel with
    | some (n, den) => n * 16000000 / (max 1 den : Nat)
    | none => 0

/-- v̂ over the edge intervals present, at most N = 2^VEL_AVG of them (R16). edges: latest first. N counts are those the intervals hold, signed:
an SSI interval may hold many, and edges of both directions cancel (assumption log 84). -/
def velOf (n : Nat) (edges : List (Int × Nat)) : Option (Int × Nat) :=
  match edges with
  | (c, t) :: _ :: _ =>
    match (edges.take (n + 1)).getLast? with
    | some (c0, t0) => if t0 < t then some (256 * (c - c0), t - t0) else none
    | none => none
  | _ => none

/-- The edges that are kept: the N + 1 of v̂ and those of the last 64 ns (R24). -/
def edgesKept (d : Dev) : Nat := 2 ^ cfg Obj.SPN_CTL.VEL_AVG d + 9

/-- A new count of the scan source at an instant (R16): P and P̂ move, and v̂ is formed anew. ofs: P less 256 times the count. -/
def sourceCount (c ofs : Int) (t : Nat) (d : Dev) : Dev :=
  let held := phatAt t d
  let sgn := travelSign d
  let n := 2 ^ cfg Obj.SPN_CTL.VEL_AVG d
  d.uSpn fun s =>
    let edges := ((c, t) :: s.edges).take (edgesKept d)
    let p := 256 * c + ofs
    { s with p, falling := decide (dirSign d * (p - s.p) < 0) || (s.falling && decide (p = s.p))
             phat := if s.reversed || decide (sgn * (p - held) ≥ 0) then p else held, edges, vel := velOf n edges }

/-- The intervals of v̂ start afresh (R16): entry into SCAN, POS_VALID set, a declared reversal. The last edge is kept, so that the next one
completes an interval (assumption log 85). -/
def freshVel (d : Dev) : Dev := d.uSpn fun s => { s with edges := s.edges.take 1, vel := none }

/-- POS_VALID is set, unless SCAN_SRC selects an off port (R32). -/
def setPosValid (d : Dev) : Dev :=
  match srcPort d with
  | some n => if cfg (Obj.SPN_PORT.TYPE n) d = 0 then d else freshVel (d.uSpn fun s => { s with posValid := true, srcFault := false })
  | none => if follower d then d else freshVel (d.uSpn fun s => { s with posValid := true, srcFault := false })

/-- POS_VALID: 1 at all times in time mode (R32). -/
def posValid (d : Dev) : Bool := timeMode d || d.spn.posValid

/-- Spindle may start lines: in SCAN with no move to READY pending, or in a run-up of the pacing unit (R18, R268, R527), and with a valid
position (R32). -/
def startsLines (d : Dev) : Bool :=
  d.runs 7 && d.pwr.trans == .none && (d.pwr.mode == .scan || (d.pwr.mode == .hold && d.pace.state == .runUp)) &&
    !d.spn.srcFault && (follower d || posValid d)

end Sys2Proof.Machine
end

