-- ==== Sys2Proof/Machine/Template.lean ====
section
/-! DEFINITION. The line template (Table 2.1, R31), and the instants at which its events act (R16, R24). -/

namespace Sys2Proof.Machine

/-! The entries of a template (Table 2.1), from its words. -/
namespace Tpl
def events (ws : List Word) : Nat := fieldOf ws Obj.SPN_TEMPLATE.EVENTS
def offset (ws : List Word) (i : Nat) : Nat := getBits ws (64 + 64 * i) 32
def target (ws : List Word) (i : Nat) : Nat := getBits ws (96 + 64 * i) 8
def arg (ws : List Word) (i : Nat) : Nat := getBits ws (104 + 64 * i) 12
def close (ws : List Word) (i : Nat) : Bool := getBits ws (119 + 64 * i) 1 != 0
def mask (ws : List Word) (i : Nat) : Nat := getBits ws (120 + 64 * i) 8
/-- The entries that fire on a phase, in table order (R22). -/
def ofPhase (ws : List Word) (ph : Nat) : List Nat := (List.range (events ws)).filter fun i => (mask ws i).testBit ph
end Tpl

/-- The template of line k, fixed by its index (R31). -/
def templateOf (k : Nat) (d : Dev) : List Word :=
  match d.spn.tplHist.find? fun x => decide (k < x.1) with
  | some x => x.2
  | none => liveWords Obj.SPN_TEMPLATE.id d

/-- The instant on the grid at which an estimate that stands at p at instant tk and moves at v̂ reaches position x. -/
def predictedAt (x p : Int) (tk : Nat) (v : Int × Nat) : Nat := tk + ((2 * (x - p).natAbs * v.2 + v.1.natAbs) / (2 * max 1 v.1.natAbs))

/-- The edges of the scan source, latest first, with v̂ at each and the instant of the next one. -/
def edgeStates (n : Nat) : Option Nat → List (Int × Nat) → List (Int × Nat × Option (Int × Nat) × Option Nat)
  | _, [] => []
  | nx, (c, t) :: es => (c, t, velOf n ((c, t) :: es), nx) :: edgeStates n (some t) es

/-- The instant at which an event at position x acts, with the scan source's edges (R16, R24): the instant that v̂ predicts, fixed 64 ns ahead of
it; the next slot for a position that an edge skips; lag after the edge that brings P̂ there while v̂ is not known. none: not fixed yet. -/
def edgeDue (lag : Nat) (x : Int) (d : Dev) : Option Nat :=
  let sgn := travelSign d
  let ofs := d.spn.p - 256 * ((d.spn.edges.head?.map Prod.fst).getD 0)
  (edgeStates (2 ^ cfg Obj.SPN_CTL.VEL_AVG d) none d.spn.edges).reverse.findSome? fun e =>
    let p := 256 * e.1 + ofs
    let passed : Bool := decide (0 ≤ sgn * (p - x))
    match e.2.2.1 with
    | none => if passed then some (e.2.1 + lag) else none
    | some v =>
      if passed then some (if p = x then e.2.1 else e.2.1 + 1)
      else if sgn * v.1 ≤ 0 then none
      else
        let u := predictedAt x p e.2.1 v
        match e.2.2.2 with
        | none => some u
        | some nx => if max e.2.1 (u - 1024) < nx then some u else none

/-- The position of entry i of the line in progress: P_line + s · OFFSET (R24). -/
def entryPos (l : LineProg) (i : Nat) (d : Dev) : Int :=
  let start := if follower d then l.p0 else posOf (lineAt l.k d) d
  start + (if timeMode d then 1 else dirSign d) * (Tpl.offset (templateOf l.k d) i : Int)

/-- The instant at which Spindle reaches position x, as far as it is fixed or predicted at present (R24, R26, R28): from its own source.
lag: what follows the edge while v̂ is not known (R16): 64 ns for an event, nothing for the start of a line. -/
def sourceDue (lag : Nat) (x : Int) (d : Dev) : Option Nat :=
  if timeMode d then some ((x + 8 - 16 * d.krm.ofsHalf / 125) / 16).toNat else edgeDue lag x d

/-- The instant at which entry i of line l acts, as far as it is fixed or predicted at present (R24, R28, R32). A line on predicted time, and a
follower's, with no speed known give none. -/
def entryWhen (l : LineProg) (i : Nat) (d : Dev) : Option Nat :=
  let x := entryPos l i d
  match l.predicted with
  | some (p, tk, some v) => some (predictedAt x p tk v)
  | some (_, _, none) => none
  | none =>
    if follower d then
      match d.spn.vel, d.spn.edges with
      | some v, (_, tk) :: _ => some (predictedAt x d.spn.p tk v)
      | _, _ => none
    else sourceDue 1024 x d

/-- The line that Spindle is to start next: for a follower the first one that its master has scheduled, on predicted time (R450); none where it
starts no line. -/
def nextLine (d : Dev) : Option LineProg :=
  if !startsLines d then none
  else if follower d then
    d.krm.sched.head?.map fun b =>
      { k := b.k, phase := b.k % phasesOf d, p0 := b.pos, left := Tpl.ofPhase (templateOf b.k d) (b.k % phasesOf d)
        predicted := some (b.pos, ((b.tk : Int) - d.krm.ofsHalf / 125).toNat, d.spn.vel) }
  else
    let k := (d.spn.line.map fun l => l.k + 1).getD d.spn.next
    some { k, phase := k % phasesOf d, p0 := 0, left := Tpl.ofPhase (templateOf k d) (k % phasesOf d) }

/-- The lines with entries that are still to act, oldest first: lines that have ended, and the line in progress (R24). -/
def openEntries (d : Dev) : List LineProg := d.spn.tail ++ d.spn.line.toList

/-- The events of a target that are still to come in the lines that have started and in the next one, as far as their instants are fixed or
predicted: ARG and instant. -/
def comingEvents (target : Nat) (d : Dev) : List (Nat × Nat) :=
  (openEntries d ++ (nextLine d).toList).flatMap fun l =>
    let ws := templateOf l.k d
    (l.left.filter fun i => Tpl.target ws i == target).filterMap fun i => (entryWhen l i d).map fun u => (Tpl.arg ws i, u)

/-- The entries of line l act when their rows come: no instant is predicted. -/
def entryFree (l : LineProg) (d : Dev) : Bool :=
  match l.predicted with
  | some (_, _, v) => v.isNone
  | none => follower d && (d.spn.vel.isNone || d.spn.edges.isEmpty)

/-- The instant at which entry i of line l acts, if it has come by instant t. -/
def entryDue (l : LineProg) (i t : Nat) (d : Dev) : Option Nat :=
  match entryWhen l i d with
  | some u => if u ≤ t then some u else none
  | none => if entryFree l d then some t else none

end Sys2Proof.Machine
end

