-- ==== Sys2Proof/Machine/Windows.lean ====
section
/-! DEFINITION. Converter windows (R67 to R71): arming, the strobe edges that trigger them, opening, cutting, closing and missing. -/

namespace Sys2Proof.Machine

/-! The fields of a window descriptor (Table 4.8). -/

def Window.mask (w : Window) : Nat := getBits w.ws 0 64
def Window.trig (w : Window) : Nat := getBits w.ws 64 2
def Window.string (w : Window) : Nat := getBits w.ws 66 3
def Window.cds (w : Window) : Bool := getBits w.ws 69 1 != 0
def Window.skip (w : Window) : Nat := getBits w.ws 80 16
def Window.count (w : Window) : Nat := getBits w.ws 96 16
def Window.lag (w : Window) : Nat := getBits w.ws 112 2
def Window.delay (w : Window) : Nat := getBits w.ws 128 28
def Window.period (w : Window) : Nat := getBits w.ws 160 28

/-- The words of descriptor i of ACQ_WIN. -/
def windowWords (i : Nat) (ws : List Word) : List Word := (ws.drop (1 + 6 * i)).take 6

/-- Conversions channel c has made in the window, discarded ones included. -/
def Window.made (c : Nat) (w : Window) : Nat := Sparse.get 0 w.done c

/-- Channel c has conversions left to make in the window. -/
def Window.wants (c : Nat) (w : Window) : Bool := w.mask.testBit c && decide (w.made c < w.skip + w.count)

/-- All conversions of the window have been made (R68). -/
def Window.complete (w : Window) : Bool := (maskIx w.mask 64).all fun c => decide (w.skip + w.count ≤ w.made c)

/-- A sample goes to Heddle (R69, R70); a Heddle in reset takes none (Table 20.7). -/
def toHeddle (x : Sample) (d : Dev) : Dev := if d.runs 10 then d.uHdl fun h => { h with inq := h.inq ++ [x] } else d

/-- The conversions of a window that channel c has not made are delivered with SUBST set (R67, R71). -/
def substRest (w : Window) (c : Nat) (d : Dev) : Dev :=
  match w.owner with
  | none => d
  | some k =>
    let kept := w.made c - w.skip
    each (List.range (w.count - kept)) (fun j d => toHeddle { stream := c, j := kept + j, line := k, code := 0, rng := 0, subst := true, at_ := d.now } d) d

def substAll (w : Window) (d : Dev) : Dev := each (maskIx w.mask 64) (substRest w) d

/-- Channel c heads an interleaved pair (R79). -/
def ilvHead (c : Nat) (d : Dev) : Bool := c % 2 == 0 && cfgB (Obj.ACQ_CH.ILV c) d
/-- Channel c is the odd channel of an interleaved pair (R79). -/
def ilvOdd (c : Nat) (d : Dev) : Bool := c % 2 == 1 && ilvHead (c - 1) d

/-- The neighbours of a channel (R80): the next inputs to its left and right, an interleaved pair being one input. -/
def leftOf (c : Nat) (d : Dev) : Option Nat :=
  if c = 0 then none else some (if ilvOdd (c - 1) d then c - 2 else c - 1)
def rightOf (c : Nat) (d : Dev) : Option Nat :=
  let n := if ilvHead c d then c + 2 else c + 1
  if n < 64 then some n else none

def updCh (c : Nat) (f : AcqCh → AcqCh) (d : Dev) : Dev := d.uAcq fun a => { a with ch := upd a.ch c f }
def updCh? (c : Option Nat) (f : AcqCh → AcqCh) (d : Dev) : Dev := match c with | some c => updCh c f d | none => d

/-- A channel's markings of R80 that come from an overload in the window end with the window. A window that never opened holds no conversion. -/
def endMarks (w : Window) (d : Dev) : Dev :=
  if w.open_ then
    each (maskIx w.mask 64) (fun c d =>
      if (at' d.acq.ch c {}).lastOver.isNone then d
      else updCh? (rightOf c d) (fun x => { x with recL := 0 }) (updCh? (leftOf c d) (fun x => { x with recR := 0 })
        (updCh c (fun x => { x with lastOver := none }) d))) d
  else d

/-- A line is known: started, and neither aborted nor discarded. -/
def lineKnown (k : Nat) (d : Dev) : Bool := (lineRec k d).isSome

/-- Line k is on its way and has not left step 5. -/
def lineHeld (k : Nat) (d : Dev) : Bool := match lineRec k d with | some r => !r.passed | none => false

/-! The end of a line's conversions (R69, R83, R84, R220 to R222): its windows have closed, and no line that is still to start and no entry that
is still to act can arm another one for it. -/

/-- The descriptors of ACQ_WIN contents. -/
def descsOf (ws : List Word) : List Window :=
  (List.range (fieldOf ws Obj.ACQ_WIN.NWIN)).map fun i => { desc := i, ws := windowWords i ws, arm := 0, owner := none }

/-- The greatest LAG of the descriptors that name channel c. -/
def lagOf (c : Nat) (d : Dev) : Nat :=
  (((descsOf (liveWords Obj.ACQ_WIN.id d)).filter fun w => w.mask.testBit c).map Window.lag).foldl max 0

/-- The greatest LAG of all descriptors, links and raw groups (R69, R133). -/
def lagMost (d : Dev) : Nat :=
  ((descsOf (liveWords Obj.ACQ_WIN.id d)).map Window.lag ++
    ((List.range 8).filter fun l => cfgB (Obj.JLK_LINK.EN l) d).map (fun l => cfg (Obj.JLK_LINK.LAG l) d) ++
    ((List.range 4).filter fun g => cfgB (Obj.JLK_RAW.EN g) d).map (fun g => cfg (Obj.JLK_RAW.LAG g) d)).foldl max 0

/-- An entry that is still to act arms a window of channel c for line k. -/
def armsLeft (c k : Nat) (d : Dev) : Bool :=
  (openEntries d).any fun l => l.left.any fun i =>
    let ws := templateOf l.k d
    let w : Window := { desc := 0, ws := windowWords (Tpl.arg ws i) (liveWords Obj.ACQ_WIN.id d), arm := 0, owner := none }
    Tpl.target ws i == 2 && w.mask.testBit c && l.k == k + w.lag

/-- Line k takes no further conversion of channel c; n: the line in progress or starting. -/
def chanOver (c k n : Nat) (d : Dev) : Bool :=
  !(d.acq.windows.any fun w => w.owner == some k && w.mask.testBit c) && !armsLeft c k d && (decide (k + lagOf c d < n) || !startsLines d)

/-- Samples of line k may still come: a window or a capture of it is armed or open, or a line or an entry yet to come can arm one. -/
def samplesComing (k : Nat) (d : Dev) : Bool :=
  let own (w : Option LinkWin) : Bool := (w.bind LinkWin.owner) == some k
  (d.acq.windows.any fun w => w.owner == some k) || (d.jlk.link.any fun l => own l.armed || own l.opened) ||
    (d.jlk.lane.any fun l => own l.armed || own l.opened) ||
    ((openEntries d).any fun l => decide (k ≤ l.k ∧ l.k ≤ k + lagMost d) &&
      l.left.any fun i => Tpl.target (templateOf l.k d) i == 1 || Tpl.target (templateOf l.k d) i == 2) ||
    (startsLines d && decide (d.spn.next ≤ k + lagMost d))

def acqCh (c : Nat) (d : Dev) : AcqCh := at' d.acq.ch c {}
def chkAt (k : Nat) (d : Dev) : Checker := at' d.acq.chk k {}
def updChk (k : Nat) (f : Checker → Checker) (d : Dev) : Dev := d.uAcq fun a => { a with chk := upd a.chk k f }
def shadows (k : Nat) (d : Dev) : Bool := cfgB (Obj.ACQ_CHK.SHADOW k) d
def chkCh (k : Nat) (d : Dev) : Nat := cfg (Obj.ACQ_CHK.CH k) d

/-- The tally of line k for channel c ends: an open input is found (R83). -/
def endTally (c k : Nat) (d : Dev) : Dev :=
  let x := acqCh c d
  match Sparse.get none x.tally k with
  | none => d
  | some rail =>
    let found := rail && !x.open_
    let d := updCh c (fun y => { y with tally := Sparse.set none y.tally k none, open_ := y.open_ || found, openSeen := y.openSeen || found
                                        openClr := if found then false else y.openClr }) d
    if found then raise 142 d else d

/-- The comparison of line k by checker i ends: the line is marked or not (R84), and the marked lines in a row are counted (R85). -/
def endCompare (i k : Nat) (d : Dev) : Dev :=
  match Sparse.get none (chkAt i d).cmp k with
  | none => d
  | some m =>
    let d := updChk i (fun y => { y with cmp := Sparse.set none y.cmp k none }) d
    if cfg (Obj.ACQ_CHK.LIMIT i) d ≤ m.length then
      markLine k FL.CHECKER_MISMATCH (raise 138 (updChk i (fun y =>
        { y with lines := sat8 y.lines, marked := if y.markedAt.map (· + 1) = some k then y.marked + 1 else 1, markedAt := some k }) d))
    else updChk i (fun y => { y with marked := 0, markedAt := none }) d

/-- The lines of channel c that take no further conversion end (R83 to R85); n: the line in progress or starting. -/
def endLines (n c : Nat) (d : Dev) : Dev :=
  let ended (l : List Nat) : List Nat := l.filter fun k => chanOver c k n d
  let d' := each (ended ((acqCh c d).tally.map Prod.fst)) (endTally c) d
  each ((List.range 4).filter fun i => chkCh i d == c) (fun i e => each (ended ((chkAt i d).cmp.map Prod.fst)) (endCompare i) e) d'

/-- The line in progress, as an index. -/
def lineNow (d : Dev) : Nat := d.spn.next - 1

/-- Line k leaves step 5 with the mark that its comparisons so far give it (R84). -/
def markCompared (k : Nat) (d : Dev) : Dev :=
  if (List.range 4).any fun i => match Sparse.get none (chkAt i d).cmp k with | some m => decide (cfg (Obj.ACQ_CHK.LIMIT i) d ≤ m.length) | none => false
  then markLine k FL.CHECKER_MISMATCH d else d

/-- The window leaves the list of windows; lines that take no further conversion by it end. -/
def dropWindow (w : Window) (d : Dev) : Dev :=
  let d := endMarks w (d.uAcq fun a => { a with windows := a.windows.filter fun x => x != w })
  each (maskIx w.mask 64) (endLines (lineNow d)) d

/-- CONV_WINDOW: the event of line k at instant t arms descriptor i (R67, R69); while the ACQ domain is in reset its samples are substituted
at once (Table 20.7). The window keeps the descriptor words of this instant, also where new ones go live before it opens (DESIGN CHOICE, assumption
log 120). -/
def armWindow (i k t : Nat) (d : Dev) : Dev :=
  let ws := windowWords i (liveWords Obj.ACQ_WIN.id d)
  if i < cfg Obj.ACQ_WIN.NWIN d then
    let w : Window := { desc := i, ws, arm := k, owner := none }
    let own := if w.lag ≤ k ∧ lineKnown (k - w.lag) d then some (k - w.lag) else none
    let due := if w.trig = 0 then some (t + w.delay) else none
    let w : Window := { w with owner := own, due }
    if d.runs 8 then d.uAcq fun a => { a with windows := a.windows ++ [w] } else markLine? own FL.DEGRADED (substAll w d)
  else d

/-- An edge of string s's strobe gate at instant t triggers the armed windows that wait for it (R67). -/
def strobeEdge (s : Nat) (rising : Bool) (t : Nat) (d : Dev) : Dev :=
  d.uAcq fun a => { a with windows := a.windows.map fun w =>
    if !w.open_ && w.due.isNone && w.string == s && w.trig == (if rising then 1 else 2) then { w with due := some (t + w.delay) } else w }

/-- An open window is cut: its remaining conversions are delivered with SUBST (R71). -/
def cutWindow (w : Window) (d : Dev) : Dev :=
  markLine? w.owner FL.DEGRADED (raise 146 (dropWindow w (substAll w (d.uAcq fun a => { a with winCut := sat16 a.winCut }))))

/-- The window opens (R67); earlier windows that are open on one of its channels close at once (R71), and pairs completed before it yield it no
conversion (R68). -/
def openWindow (w : Window) (t : Nat) (d : Dev) : Dev :=
  let cut := d.acq.windows.filter fun x => x.open_ && decide (x.mask &&& w.mask ≠ 0)
  let d := each cut cutWindow (d.at_ t)
  d.uAcq fun a => { a with
    windows := a.windows.map fun x => if x = w then { x with open_ := true, due := some t } else x
    ch := mapIx (fun c x => if w.mask.testBit c then { x with cds := none } else x) a.ch }

/-- WINDOW_OPEN: an armed window of descriptor i opens at its instant. Without REF_READY (R77) or while a self-calibration measures (R103) nothing
converts: its samples are substituted (assumption log 45). -/
def windowOpen (i : Nat) (d : Dev) : Dev :=
  match d.acq.windows.find? fun w => w.desc == i && !w.open_ && w.due.isSome with
  | some w => if converting d then openWindow w (w.due.getD 0) d else markLine? w.owner FL.DEGRADED (dropWindow w (substAll w (d.at_ (w.due.getD 0))))
  | none => d

/-- At the line start of line k: a window armed by an earlier line that got no qualifying edge does not open (R67). -/
def missWindows (k : Nat) (d : Dev) : Dev :=
  let miss := d.acq.windows.filter fun w => !w.open_ && w.due.isNone && decide (w.arm < k)
  each miss (fun w d =>
    markLine? w.owner FL.DEGRADED (raise 146 (dropWindow w (substAll w (d.uAcq fun a => { a with winMissed := sat16 a.winMissed }))))) d

/-- The windows of an aborted line: those that own it close at once, and its samples are discarded (R20, R69). -/
def abortWindows (k : Nat) (d : Dev) : Dev :=
  let own := d.acq.windows.filter fun w => w.owner == some k
  let d := each own dropWindow d
  d.uHdl fun h => { h with inq := h.inq.filter fun x => x.line != k, lines := h.lines.filter fun x => x.k != k }

/-- Every window of a reset converter block or of a scan that ends: armed windows go, open ones deliver SUBST (R71). -/
def endWindows (d : Dev) : Dev :=
  let d := each (d.acq.windows.filter fun w => w.open_) (fun w d => markLine? w.owner FL.DEGRADED (dropWindow w (substAll w d))) d
  d.uAcq fun a => { a with windows := [] }

/-- No further line starts: the lines whose conversions have all been made end (R83, R84). -/
def endAllLines (d : Dev) : Dev := each (List.range 64) (endLines (lineNow d)) d

/-- An edge of the gate of string s may come at an instant of [a, b]: an edge of its flux modulation, a LAMP_ON or LAMP_OFF event, or, where the
gate follows the exposure window, an entry that opens or closes its group (R52, R67, R369, R370). exposes: a table opens or closes a group so. -/
def gateEdgeWithin (s : Nat) (rising : Bool) (a b : Nat) (exposes : Bool → Nat → Nat → Bool) (d : Dev) : Bool :=
  let x := at' d.ilm.str s {}
  let event (tg : Nat) : Bool := (comingEvents tg d).any fun e => e.1.testBit s && decide (a ≤ e.2 ∧ e.2 ≤ b)
  let modEdge (p : Nat) : Bool :=
    let step := 64 * cfg (Obj.ILM_PHASE.MOD_PERIOD (5 * (8 * s + p))) d
    let on := ((at' x.duty p []).map fun u => u * step / 255).foldl max 0
    let ofs := if rising then 0 else on
    decide (0 < step ∧ 0 < on ∧ on < step) &&
      (let n := (a + step - 1 - min (a + step - 1) (x.since + ofs)) / step
       decide (a ≤ x.since + ofs + n * step ∧ x.since + ofs + n * step ≤ b))
  match x.lit with
  | .strobe _ p =>
    (!rising && event 5) || modEdge p ||
      (cfg Obj.SDRV_CTL.LAMP_GATE d == 2 && exposes rising a b)
  | .off => rising && (event 4 || (x.delayed.isSome && decide (a ≤ x.blankUntil ∧ x.blankUntil ≤ b)))
  | _ => false

end Sys2Proof.Machine
end

