-- ==== Sys2Proof/Machine/Lamps.lean ====
section
/-! DEFINITION. Lamp strings (chapter 16): flux, spares and compensation, strobes, blanking, the strobe gate and its relation to the exposure
window (R52, R367 to R379, R384). -/

namespace Sys2Proof.Machine

def strAt (s : Nat) (d : Dev) : LampStr := at' d.ilm.str s {}
def updStr (s : Nat) (f : LampStr → LampStr) (d : Dev) : Dev := d.uIlm fun x => { x with str := upd x.str s f }

/-- ILM_STRING.EN. -/
def strEn (s : Nat) (d : Dev) : Bool := cfgB (Obj.ILM_STRING.EN s) d
def lampEn (s l : Nat) (d : Dev) : Bool := cfgB (Obj.ILM_LAMP.EN (16 * s + l)) d
def lampSpare (s l : Nat) (d : Dev) : Bool := cfgB (Obj.ILM_LAMP.SPARE (16 * s + l)) d
def lampFlux (s l : Nat) (d : Dev) : Nat := cfg (Obj.ILM_LAMP.FLUX_K (16 * s + l)) d

/-- The base word of ILM_PHASE for string s and phase p (R393). -/
def phaseBase (s p : Nat) : Nat := 5 * (8 * s + p)
def iSet (s p : Nat) (d : Dev) : Nat := cfg (Obj.ILM_PHASE.I_SET (phaseBase s p)) d
def modPeriod (s p : Nat) (d : Dev) : Nat := cfg (Obj.ILM_PHASE.MOD_PERIOD (phaseBase s p)) d
def dutySet (s p l : Nat) (d : Dev) : Nat := cfg (Obj.ILM_PHASE.DUTY l (phaseBase s p)) d

/-- A lamp that carries written duties: fitted and no spare (R368). -/
def isMain (s l : Nat) (d : Dev) : Bool := lampEn s l d && !lampSpare s l d

/-- The spares of a string, lowest first; at most two (R392). -/
def spares (s : Nat) (d : Dev) : List Nat := (List.range 16).filter fun l => lampEn s l d && lampSpare s l d

/-- Which lamp a spare serves. -/
def servedBy (s l : Nat) (d : Dev) : Option Nat :=
  let x := strAt s d
  match spares s d with
  | a :: b :: _ => if l = a then x.spareLo else if l = b then x.spareHi else none
  | [a] => if l = a then x.spareLo else none
  | [] => none

/-- The duty a lamp has in phase p with the lamps now in service (R376). -/
def dutyNow (s p l : Nat) (d : Dev) : Nat :=
  let x := strAt s d
  if x.failed.testBit l || !lampEn s l d then 0
  else if lampSpare s l d then
    match servedBy s l d with
    | some f => min 255 ((dutySet s p f d * lampFlux s f d + lampFlux s l d - 1) / max 1 (lampFlux s l d))
    | none => 0
  else dutySet s p l d

/-- The lamp sum of the written configuration, Σ_nom (R368). -/
def sumNom (s p : Nat) (d : Dev) : Nat := ((List.range 16).map fun l => if isMain s l d then lampFlux s l d * dutySet s p l d else 0).sum

/-- The lamp sum of the lamps now in service, Σ_now (R377). -/
def sumNow (s p : Nat) (d : Dev) : Nat := ((List.range 16).map fun l => lampFlux s l d * dutyNow s p l d).sum

/-- The sink current of R377 step 2. -/
def currentNow (s p : Nat) (d : Dev) : Nat :=
  let nom := sumNom s p d
  let now := sumNow s p d
  let raised := if now = 0 then iSet s p d else (iSet s p d * nom + now - 1) / now
  min raised (strAt s d).iLim

/-- COMP[p] of R377 step 3, from the nominal flux and the flux now given (both times 255). -/
def compOf (nom now : Nat) : Nat :=
  if now < nom then (if now = 0 then 0xFFFF else min 0xFFFF (divRound (16384 * nom) now)) else 0x4000

/-- The lamps of a string that are failed, no spares, and served by none (R379). -/
def unserved (s : Nat) (d : Dev) : List Nat :=
  let x := strAt s d
  (List.range 16).filter fun l => isMain s l d && x.failed.testBit l && x.spareLo != some l && x.spareHi != some l

/-- A string is exhausted (R379). -/
def exhausted (s : Nat) (d : Dev) : Bool := !(unserved s d).isEmpty

/-- The changes of R376 and R377 are decided for every phase; each takes effect at the next line of its phase (R378). -/
def decideLamps (d : Dev) : Dev := d.uIlm fun x => { x with decided := List.replicate 8 true }

/-- The decided duties, currents and COMP of phase p take effect (R378). -/
def applyLamps (p : Nat) (d : Dev) : Dev :=
  if at' d.ilm.decided p false then
    let ss := List.range 8
    let cur := ss.map fun s => currentNow s p d
    let duty := ss.map fun s => (List.range 16).map fun l => dutyNow s p l d
    let en := ss.filter fun s => strEn s d
    let nom := (en.map fun s => at' (strAt s d).nominal p 0).sum
    let now := (en.map fun s => at' cur s 0 * sumNow s p d).sum
    let d := d.uIlm fun x => { x with
      str := mapIx (fun s y => { y with applied := put y.applied p (at' cur s 0), duty := put y.duty p (at' duty s []) }) x.str
      decided := put x.decided p false
      darkPhase := put x.darkPhase p (decide (now = 0) && decide (nom ≠ 0)) }
    d.uHdl fun h => { h with comp := put h.comp p (compOf nom now) }
  else d

/-- The nominal flux Φ_nom (times 255) is recomputed at every write of ILM_LAMP or ILM_PHASE (R368). -/
def renominal (d : Dev) : Dev :=
  d.uIlm fun x => { x with str := mapIx (fun s y => { y with nominal := (List.range 8).map fun p => iSet s p d * sumNom s p d }) x.str }

/-- The exposure group of a string is open (R52). -/
def groupOpen (s : Nat) (d : Dev) : Bool := (at' d.sdrv.expo (bits (cfg Obj.SDRV_CTL.LAMP_GROUP d) (2 * s + 1) (2 * s)) {}).open_

/-- On-time of a duty within a modulation period, in 62.5 ps steps (R369). -/
def onTime (duty mp : Nat) : Nat := duty * mp * 64 / 255

/-- The lamps unshunted at an instant of a strobe (R369). -/
def unshunted (s : Nat) (t : Nat) (d : Dev) : List Nat :=
  let x := strAt s d
  match x.lit with
  | .off => []
  | .strobe _ p =>
    let mp := modPeriod s p d
    (List.range 16).filter fun l =>
      let u := at' (at' x.duty p []) l 0
      decide (0 < u) && !x.failed.testBit l && (if mp = 0 then true else decide ((t - x.since) % (mp * 64) < onTime u mp))
  | .forced m _ _ => (List.range 16).filter fun l => m.testBit l && lampEn s l d && !x.failed.testBit l
  | .diag => (List.range 16).filter fun l => lampEn s l d && !x.failed.testBit l && x.readMask.testBit l

/-- The on state at instant t of the strobe of a string that lights no lamp of its own: its EN is 0, or no lamp is fitted. It has the modulation
edges of the written duties, and without any of them it lasts the whole strobe (R369, R384; assumption log 114). -/
def timingOn (s p since t : Nat) (d : Dev) : Bool :=
  let mp := modPeriod s p d
  let top := (List.range 16).foldl (fun m l => max m (dutySet s p l d)) 0
  decide (mp = 0) || decide (top = 0) || decide ((t - since) % (mp * 64) < onTime top mp)

/-- LXP_STB follows at instant t the on state of string EXT_SRC, and LXP_PH carries the phase of the strobe from 32 ns before it rises (R384). -/
def extStrobe (t : Nat) (d : Dev) : Dev :=
  if cfgB Obj.ILM_CTL.EXT_EN d then
    let s := cfg Obj.ILM_CTL.EXT_SRC d
    let x := strAt s d
    let lamps := (List.range 16).any fun l => lampEn s l d
    let (on, ph) := match x.lit with
      | .strobe _ p => (if strEn s d && lamps then x.gate else timingOn s p x.since t d, p)
      | _ => (false, d.ilm.lxpPh)
    d.uIlm fun i =>
      let moves := on && !i.lxpStb && ph != i.lxpPh
      { i with lxpStb := on, lxpPh := if moves then ph else i.lxpPh, lxpPhAt := if moves then t - 512 else i.lxpPhAt }
  else d.uIlm fun i => { i with lxpStb := false }

/-- The shunts of a string, its sink and its strobe gate are brought up to date at an instant (R52, R369). -/
def refreshGate (s t : Nat) (d : Dev) : Dev :=
  let x := strAt s d
  let un := if strEn s d then unshunted s t d else []
  let raw := !un.isEmpty
  let strobing := match x.lit with | .strobe _ _ => true | _ => false
  let mode := cfg Obj.SDRV_CTL.LAMP_GATE d
  let closed := !groupOpen s d
  let gate := raw && !(strobing && mode == 2 && closed)
  let spill := strobing && raw && closed && mode != 0 && !x.spilled
  let d := updStr s (fun y => { y with gate, shunt := 0xFFFF - (un.foldl (fun m l => m + 2 ^ l) 0), spilled := y.spilled || spill }) d
  let d := if spill then raise 130 (d.uSdrv fun y => { y with spill := sat16 y.spill }) else d
  let d := if strobing && gate != x.gate then strobeEdge s gate t d else d
  extStrobe t d

/-- A strobe starts with the settings of the phase (R370). -/
def startStrobe (s k p t : Nat) (d : Dev) : Dev :=
  refreshGate s t (updStr s (fun y => { y with lit := .strobe k p, since := t, delayed := none, readMask := 0, spilled := false, struck := [] }) d)

/-- The headroom is measured during a strobe (R372): with the strobe its fault ends. -/
def headroomEnd (s : Nat) (d : Dev) : Dev :=
  if (strAt s d).headroomBad then
    let d := updStr s (fun y => { y with headroomBad := false }) d
    if d.ilm.str.any fun y => y.headroomBad then d else d.uPwr fun p => { p with faults := p.faults.filter fun f => f.cls != 9 }
  else d

/-- A diagnostic pulse ends 150 ns after its start, and blanking follows (R371, R375). -/
def settlePulse (s t : Nat) (d : Dev) : Dev :=
  let x := strAt s d
  if x.lit = .diag ∧ x.since + 2400 ≤ t then
    updStr s (fun y => { y with lit := .off, gate := false, shunt := 0xFFFF, struck := [], blankUntil := x.since + 2400 + 16 * cfg Obj.ILM_CTL.BLANK_NS d }) d
  else d

/-- A string's strobe ends and its blanking begins (R371). -/
def endStrobe (s t : Nat) (d : Dev) : Dev :=
  let d := headroomEnd s d
  let x := strAt s d
  let d := if x.gate then strobeEdge s false t d else d
  let d := updStr s (fun y => { y with lit := .off, gate := false, shunt := 0xFFFF, delayed := none, struck := [],
                                        blankUntil := t + 16 * cfg Obj.ILM_CTL.BLANK_NS d }) d
  extStrobe t d

/-- LAMP_ON for one string (R370, R371). -/
def lampOn1 (k t s : Nat) (d : Dev) : Dev :=
  let d := settlePulse s t d
  let x := strAt s d
  let p := k % phasesOf d
  if !strEn s d then updStr s (fun y => { y with lit := .strobe k p, since := t }) d |> extStrobe t
  else
    match x.lit with
    | .off =>
      if t < x.blankUntil then
        let d := updStr s (fun y => { y with delayed := some (k, p) }) (d.uIlm fun i => { i with blankCuts := sat16 i.blankCuts })
        markLine k FL.DEGRADED (raise 404 d)
      else startStrobe s k p t d
    | _ => markLine k FL.DEGRADED (raise 404 (d.uIlm fun i => { i with onOverlap := sat16 i.onOverlap }))

/-- LAMP_OFF for one string (R370). -/
def lampOff1 (t s : Nat) (d : Dev) : Dev :=
  match (strAt s d).lit with
  | .strobe _ _ => endStrobe s t d
  | _ => updStr s (fun y => { y with delayed := none }) d

/-- LAMP_ON of line k at instant t on the strings of a mask, but for those that a LAMP_OFF of the same instant turns off again (R370). -/
def lampOn (mask off k t : Nat) (d : Dev) : Dev :=
  if d.pwr.mode = .scan then
    each (maskIx mask 8) (fun s d => if off.testBit s && (strAt s d).lit == .off then d else lampOn1 k t s d) (d.at_ t)
  else d

/-- LAMP_OFF at instant t on the strings of a mask. -/
def lampOff (mask t : Nat) (d : Dev) : Dev := each (maskIx mask 8) (lampOff1 t) (d.at_ t)

/-- String s has a strobe in progress. -/
def strobing (s : Nat) (d : Dev) : Bool := match (strAt s d).lit with | .strobe _ _ => true | _ => false

/-- Every sink is turned off (R383, R470); a strobe's gate falls (R67), and a pulse in progress gives no verdict. -/
def lampsOff (d : Dev) : Dev :=
  each (List.range 8) (fun s d =>
    let d := headroomEnd s d
    let d := if (strAt s d).gate && strobing s d then strobeEdge s false d.now d else d
    let blanks := match (strAt s d).lit with | .strobe _ _ => true | .diag => true | _ => false
    let until_ := d.now + 16 * cfg Obj.ILM_CTL.BLANK_NS d
    updStr s (fun y => { y with lit := .off, gate := false, shunt := 0xFFFF, delayed := none, struck := [], diagPending := false
                                blankUntil := if blanks then until_ else y.blankUntil }) d) d
    |> fun d => d.uIlm fun i => { i with lxpStb := false }

/-- A lamp needs diagnosis (R375): fitted, not failed, and its on-time is below 120 ns in every one of the eight phases; a spare not in use has
none. -/
def needsDiag (s l : Nat) (d : Dev) : Bool :=
  lampEn s l d && !((strAt s d).failed.testBit l) &&
    (List.range 8).all fun p =>
      let u := dutyNow s p l d
      let mp := modPeriod s p d
      decide (u = 0) || (decide (mp ≠ 0) && decide (onTime u mp < 1920))

/-- A spare is chosen for a failed lamp (R376): the lowest-numbered that is neither failed nor in use. f is the lamp whose duties it takes. -/
def takeSpare (s f : Nat) (d : Dev) : Dev :=
  let x := strAt s d
  match spares s d with
  | a :: rest =>
    if x.spareLo.isNone && !x.failed.testBit a then raise 400 (updStr s (fun y => { y with spareLo := some f }) d)
    else match rest with
      | b :: _ => if x.spareHi.isNone && !x.failed.testBit b then raise 400 (updStr s (fun y => { y with spareHi := some f }) d) else d
      | [] => d
  | [] => d

/-- A lamp fails on an open or short verdict (R374, R376, R379). A failed spare's duties go on to the next spare.
Where the lamp was the last one lit of a strobe or of a forced string, the sink stops conducting (R369), and a strobe's gate falls (R67). -/
def lampFail (s l : Nat) (d : Dev) : Dev :=
  let duty := if lampSpare s l d then servedBy s l d else some l
  let d := updStr s (fun y => { y with failed := setBit y.failed l true, shunt := setBit y.shunt l true }) d
  let d := raise (384 + s) (d.uIlm fun i => { i with lampFaults := sat16 i.lampFaults })
  let d := if lampSpare s l d then
      updStr s (fun y => match spares s d with
        | a :: _ => if l = a then { y with spareLo := none } else { y with spareHi := none }
        | [] => y) d
    else d
  -- a forced string has no strobe in which two lamps could fail together
  let struck := match (strAt s d).lit with
    | .off | .forced _ _ _ => []
    | _ => match duty with | some f => f :: (strAt s d).struck | none => (strAt s d).struck
  -- lamps that fail in one strobe take spares in ascending order: those that took one in it give it back first
  let d := updStr s (fun y => { y with struck
                                       spareLo := if y.spareLo.any struck.contains then none else y.spareLo
                                       spareHi := if y.spareHi.any struck.contains then none else y.spareHi }) d
  let d := match duty with
    | some f => each (if struck.contains f then (List.range 16).filter struck.contains else [f]) (takeSpare s) d
    | none => d
  let d := decideLamps d
  match (strAt s d).lit with
  | .strobe _ _ | .forced _ _ _ => refreshGate s d.now d
  | _ => d

/-- The current that a string's sink conducts, in mA (R369, R375, R377, R381). -/
def sinkCurrent (s : Nat) (d : Dev) : Nat :=
  let x := strAt s d
  match x.lit with
  | .off => 0
  | .strobe _ p => if x.gate then at' x.applied p 0 else 0
  | .diag => if x.shunt = 0xFFFF then 0 else cfg Obj.ILM_CTL.I_DIAG d
  | .forced _ ma _ => if x.gate then ma else 0

/-- After a write of ILM_LAMP a spare goes on serving its lamp, if it is still a spare of the string and the lamp is still one that it can
serve; b: the state before the write (R376, R377). -/
def keepSpares (s : Nat) (b d : Dev) : Dev :=
  let keeps (l : Nat) : Option Nat := (servedBy s l b).filter fun f => isMain s f d && (strAt s d).failed.testBit f
  let sp := spares s d
  updStr s (fun y => { y with spareLo := sp.head?.bind keeps, spareHi := (sp.drop 1).head?.bind keeps }) d

/-- The lamp nodes and the chain's strobe outputs are high impedance (R383). -/
def lampsHiZ (d : Dev) : Bool := d.inMode [.reset, .boot] || (d.pwr.mode == .sleep && d.ic.slpKind)

/-- The sink of string s and its shunts at the LMP nodes; none: high impedance (R383). -/
def lampNodes (s : Nat) (d : Dev) : Option (Bool × Nat) := if lampsHiZ d then none else some ((strAt s d).gate, (strAt s d).shunt)

/-- LXP_STB and LXP_PH; none: high impedance, pulled low (R383, R384). -/
def lxpPins (d : Dev) : Option (Bool × Nat) := if lampsHiZ d then none else some (d.ilm.lxpStb, d.ilm.lxpPh)

/-- Lines of a phase carry LAMP_FAULT and DEGRADED where an unserved lamp has DUTY > 0 (R379), DEGRADED where a phase has no flux left (R377). -/
def lampFlags (p : Nat) (d : Dev) : Nat :=
  let out := (List.range 8).any fun s => strEn s d && (unserved s d).any fun l => decide (0 < dutySet s p l d)
  (if out then FL.LAMP_FAULT ||| FL.DEGRADED else 0) ||| (if at' d.ilm.darkPhase p false then FL.DEGRADED else 0)

end Sys2Proof.Machine
end

