-- ==== Sys2Proof/Machine/SensorDrive.lean ====
section
/-! DEFINITION. Sensor drive (chapter 3): waveform tables and playback engines, cuts, exposure groups, output states. -/

namespace Sys2Proof.Machine

/-! A waveform table's header and entries (Tables 3.9 and 3.2), from its words. -/
namespace Tbl
def entries (ws : List Word) : Nat := fieldOf ws (Obj.SDRV_TABLE.ENTRIES 0)
def cellFirst (ws : List Word) : Nat := fieldOf ws (Obj.SDRV_TABLE.CELL_FIRST 0)
def cellCount (ws : List Word) : Nat := fieldOf ws (Obj.SDRV_TABLE.CELL_COUNT 0)
def cellStart (ws : List Word) : Nat := fieldOf ws (Obj.SDRV_TABLE.CELL_START 0)
def cellPeriod (ws : List Word) : Nat := fieldOf ws (Obj.SDRV_TABLE.CELL_PERIOD 0)
def cellRepeat (ws : List Word) : Nat := fieldOf ws (Obj.SDRV_TABLE.CELL_REPEAT 0)
def time (ws : List Word) (i : Nat) : Nat := getBits ws (160 + 64 * i) 28
def kind (ws : List Word) (i : Nat) : Nat := getBits ws (188 + 64 * i) 3
def tgt (ws : List Word) (i : Nat) : Nat := getBits ws (192 + 64 * i) 6
def level (ws : List Word) (i : Nat) : Bool := getBits ws (198 + 64 * i) 1 != 0
/-- The instant of entry i in repetition r, from t0 (R45). -/
def at_ (ws : List Word) (i r : Nat) : Nat :=
  if i < cellFirst ws then time ws i
  else if i < cellFirst ws + cellCount ws then cellStart ws + r * cellPeriod ws + time ws i
  else cellStart ws + cellRepeat ws * cellPeriod ws + time ws i
/-- The place after entry i of repetition r in the order in which entries act. -/
def next (ws : List Word) (i r : Nat) : Nat × Nat :=
  if 0 < cellCount ws ∧ i + 1 = cellFirst ws + cellCount ws ∧ r + 1 < cellRepeat ws then (cellFirst ws, r + 1) else (i + 1, r)
/-- The duration of the table: the instant of its last entry (R45). -/
def duration (ws : List Word) : Nat :=
  if entries ws = 0 then 0 else at_ ws (entries ws - 1) (cellRepeat ws - 1)
/-- The resources the table's entries name, as bits: outputs 0 to 47, CDS groups 48 to 55, exposure groups 56 to 59. -/
def resources (ws : List Word) : Nat :=
  (List.range (entries ws)).foldl (fun m i =>
    m ||| 2 ^ (match kind ws i with | 0 => tgt ws i | 3 => 56 + tgt ws i | _ => 48 + tgt ws i)) 0
end Tbl

/-- A table that began at t0 opens, or closes, group g at an instant of [t, t + len); entry and rep: its place. -/
def tableExposes (ws : List Word) (g : Nat) (opens : Bool) (t0 entry rep t len : Nat) : Bool :=
  (List.range (Tbl.entries ws)).any fun i =>
    Tbl.kind ws i == 3 && Tbl.tgt ws i == g && Tbl.level ws i == opens &&
      (let first := if i < entry then rep + 1 else rep
       let cell := decide (Tbl.cellFirst ws ≤ i) && decide (i < Tbl.cellFirst ws + Tbl.cellCount ws)
       let base := t0 + Tbl.at_ ws i 0
       let period := max 1 (Tbl.cellPeriod ws)
       let r := if cell then max first (if t ≤ base then 0 else (t - base + period - 1) / period) else 0
       let at_ := if cell then base + r * period else base
       (if cell then decide (r < Tbl.cellRepeat ws) else decide (entry ≤ i)) && decide (t ≤ at_) && decide (at_ < t + len))

/-- The contents table t starts with at present. -/
def tableWords (t : Nat) (d : Dev) : List Word := liveWords (Obj.SDRV_TABLE.id t) d

/-- An engine runs a table. -/
def enginesRunning (d : Dev) : List (Nat × Engine) :=
  (mapIx (fun i e => match e with | some x => [(i, x)] | none => []) d.sdrv.engines).flatten

/-- An output at its idle level (R54): high impedance for MODE 0, else SDRV_PIN.IDLE; the odd output of a pair is the complement. -/
def idlePin (n : Nat) (d : Dev) : OutPin :=
  match cfg (Obj.SDRV_PIN.MODE n) d with
  | 0 => .safe
  | 3 => .drive (!cfgB (Obj.SDRV_PIN.IDLE (n - 1)) d)
  | _ => .drive (cfgB (Obj.SDRV_PIN.IDLE n) d)

def outputsSafe (d : Dev) : Dev := d.uSdrv fun s => { s with out := List.replicate 48 .safe }

/-- The outputs go idle; while the ACQ domain is in reset they are safe (R54). -/
def outputsIdle (d : Dev) : Dev :=
  if d.runs 8 then d.uSdrv fun s => { s with out := (List.range 48).map fun n => idlePin n d } else outputsSafe d

/-- The next IDLE_PERIOD counts from now (R56). -/
def restartIdle (d : Dev) : Dev := d.uSdrv fun s => { s with idleFrom := d.now }

/-- A write of SDRV_CTL, SDRV_PIN or SDRV_CDS takes effect. One that sets IDLE_EN begins the count of IDLE_PERIOD (R57, assumption log 88). -/
def setCtl (id : Nat) (ws : List Word) (d : Dev) : Dev :=
  if id = Obj.SDRV_CTL.id ∧ cfgB Obj.SDRV_CTL.IDLE_EN d = false then restartIdle (setObj id ws d) else setObj id ws d

/-- The pending writes of SDRV_CTL, SDRV_PIN and SDRV_CDS take effect, whatever plays. -/
def applyPendingCtl (d : Dev) : Dev :=
  each d.sdrv.pendingCtl (fun w d => setCtl w.id w.ws d) (d.uSdrv fun s => { s with pendingCtl := [] })

/-- The pending writes take effect for which no table plays any more that played when they arrived (R57). -/
def applyDueCtl (d : Dev) : Dev :=
  let waits (w : PendingCtl) : Bool := (enginesRunning d).any fun e => decide (e.2.order < w.order)
  each (d.sdrv.pendingCtl.filter fun w => !waits w) (fun w d => setCtl w.id w.ws d) (d.uSdrv fun s => { s with pendingCtl := s.pendingCtl.filter waits })

/-- After a table's end: pending writes take effect, and when no table plays any more outside SCAN, the outputs go idle (R54, R57). -/
def tablesEnded (d : Dev) : Dev :=
  let d := if d.sdrv.pendingCtl.isEmpty then d else applyDueCtl d
  if (enginesRunning d).isEmpty && d.inMode [.calibrate, .ready, .hold, .safe] then outputsIdle d else d

/-- Engine i runs no table any more; after a scan table IDLE_PERIOD counts anew (R56). -/
def freeEngine (i : Nat) (e : Engine) (d : Dev) : Dev :=
  let d := d.uSdrv fun s => { s with engines := put s.engines i none }
  if e.line.isSome then restartIdle d else d

/-- A running table is stopped (R49): counted, unless it is an idle table. -/
def stopEngine (i : Nat) (e : Engine) (d : Dev) : Dev :=
  let d := freeEngine i e d
  match e.line with
  | some k => markLine k FL.DEGRADED (raise 128 (d.uSdrv fun s => { s with cuts := sat16 s.cuts }))
  | none => d

/-- Every running table stops at once (R55, R470). -/
def stopTables (d : Dev) : Dev := tablesEnded (each (enginesRunning d) (fun p d => stopEngine p.1 p.2 d) d)

/-- A table can start: it is not empty, the ACQ domain runs, and no self-calibration measures (R103). -/
def tableStarts (tbl : Nat) (d : Dev) : Bool := Tbl.entries (tableWords tbl d) != 0 && d.runs 8 && !calMeasuring d

/-- A table starts on an engine (R45, R49, R56). line: none for an idle table. -/
def startTable (tbl : Nat) (line : Option Nat) (t : Nat) (d : Dev) : Dev :=
  let ws := tableWords tbl d
  if tableStarts tbl d = false then d
  else
    let res := Tbl.resources ws
    let clash := (enginesRunning d).filter fun p => decide (Tbl.resources p.2.ws &&& res ≠ 0)
    let d := each clash (fun p d => stopEngine p.1 p.2 d) d
    let run := enginesRunning d
    let d := if run.length < 8 then d
      else match run.foldl (fun b p => match b with
          | none => some p
          | some q => if p.2.order < q.2.order then some p else some q) none with
        | some p => stopEngine p.1 p.2 d
        | none => d
    let d := applyDueCtl d
    match d.sdrv.engines.findIdx? (fun e => e.isNone) with
    | some i => d.uSdrv fun s => { s with engines := put s.engines i (some { tbl, ws, t0 := t, order := s.order, line }), order := s.order + 1 }
    | none => d

/-- SDRV_WAVE of line k at instant t (R45). -/
def sdrvWave (tbl k t : Nat) (d : Dev) : Dev := startTable tbl (some k) t (d.at_ t)

/-- The line an engine's events belong to, and its next entry: index, kind, target, level, instant. -/
structure EntryAct where
  kind : Nat
  tgt : Nat
  level : Bool
  t : Nat
  line : Option Nat
deriving DecidableEq, Repr

/-- The next entry of engine e. -/
def nextEntry (e : Nat) (d : Dev) : Option EntryAct :=
  match at' d.sdrv.engines e none with
  | none => none
  | some g =>
    if g.entry < Tbl.entries g.ws then
      some { kind := Tbl.kind g.ws g.entry, tgt := Tbl.tgt g.ws g.entry, level := Tbl.level g.ws g.entry,
             t := g.t0 + Tbl.at_ g.ws g.entry g.rep, line := g.line }
    else none

/-- Engine e moves past its entry; after the last one its table ends (R45). -/
def passEntry (e : Nat) (d : Dev) : Dev :=
  match at' d.sdrv.engines e none with
  | none => d
  | some g =>
    let (i, r) := Tbl.next g.ws g.entry g.rep
    if i < Tbl.entries g.ws then d.uSdrv fun s => { s with engines := put s.engines e (some { g with entry := i, rep := r }) }
    else tablesEnded (freeEngine e g d)

/-- The next entry of engine e acts, if it is of the given kind. -/
def entryAct (kind e : Nat) (act : EntryAct → Dev → Dev) (d : Dev) : Dev :=
  match nextEntry e d with
  | some a => if a.kind = kind then passEntry e (act a (d.at_ a.t)) else d
  | none => d

/-- WAVE_ENTRY_PIN: the entry sets an output level; on an LVDS pair the odd output is the complement (R46), and an output with MODE 0 stays off
(Table 3.6). -/
def waveEntryPin (e : Nat) (d : Dev) : Dev :=
  entryAct 0 e (fun a d => d.uSdrv fun s =>
    let o := put s.out a.tgt (.drive a.level)
    match cfg (Obj.SDRV_PIN.MODE a.tgt) d with
    | 0 => s
    | 2 => { s with out := put o (a.tgt + 1) (.drive (!a.level)) }
    | _ => { s with out := o }) d

/-- The channels of a CDS group whose front end is in CDS mode (R50). -/
def cdsChannels (g : Nat) (d : Dev) : List Nat :=
  (List.range 64).filter fun c => cfg (Obj.SDRV_CDS.GROUP c) d == g && cfg (Obj.ACQ_CH.MODE c) d == 2

/-- WAVE_ENTRY_SHR: the reset level is sampled on every CDS channel of the group (R50). -/
def waveEntryShr (e : Nat) (d : Dev) : Dev :=
  entryAct 1 e (fun a d =>
    let d := d.uSdrv fun s => { s with shr := put s.shr a.tgt true }
    each (cdsChannels a.tgt d) (fun c d => d.uAcq fun x => { x with ch := upd x.ch c fun y => { y with shr := true } }) d) d

/-- WAVE_ENTRY_SHD: the data level is sampled and the pair is completed; without an SHR since the previous SHD it pairs with nothing (R50). -/
def waveEntryShd (e : Nat) (d : Dev) : Dev :=
  entryAct 2 e (fun a d =>
    if at' d.sdrv.shr a.tgt false then
      let d := d.uSdrv fun s => { s with shr := put s.shr a.tgt false }
      each (cdsChannels a.tgt d) (fun c d => d.uAcq fun x => { x with ch := upd x.ch c fun y =>
        if y.shr then
          { y with shr := false, cds := if x.windows.any fun w => w.open_ && w.cds && w.wants c then some a.t else none }
        else y }) d
    else d) d

/-- The strings assigned to an exposure group have their gates brought up to date (R52). -/
def refreshGroup (g t : Nat) (d : Dev) : Dev :=
  each (List.range 8) (fun s d =>
    if bits (cfg Obj.SDRV_CTL.LAMP_GROUP d) (2 * s + 1) (2 * s) = g ∧ (strAt s d).lit ≠ .off then refreshGate s t d else d) d

/-- The rows of the TDI engine that wait for the window of group g take its centre (R184). -/
def centreRows (g t : Nat) (d : Dev) : Dev :=
  if cfg Obj.TDI_CTL.EXP_GROUP d = g then
    d.uTdi fun x => { x with rows := x.rows.map fun r => if r.waiting then { r with d := (r.d + distAt t d) / 2, waiting := false } else r }
  else d

/-- An open exposure window closes (R51): EXP_LAST and the positions of its two ends are kept. -/
def closeGroup (g t : Nat) (d : Dev) : Dev :=
  (centreRows g t d).uSdrv fun s => { s with expo := upd s.expo g fun x =>
    { x with open_ := false, last := ((t - x.at_) / 16) % 4294967296, lastWin := some (x.dOpen, distAt t d) } }

def openGroup (g t : Nat) (d : Dev) : Dev :=
  d.uSdrv fun s => { s with expo := upd s.expo g fun x => { x with open_ := true, at_ := t, dOpen := distAt t d } }

/-- An EXPOSE entry acts on group g (R51). -/
def exposeAct (g : Nat) (level : Bool) (t : Nat) (d : Dev) : Dev :=
  let isOpen := (at' d.sdrv.expo g {}).open_
  if level then
    if isOpen then refreshGroup g t (raise 129 ((openGroup g t (closeGroup g t d)).uSdrv fun s => { s with overrun := sat16 s.overrun }))
    else refreshGroup g t (openGroup g t d)
  else if isOpen then refreshGroup g t (closeGroup g t d)
  else d

/-- WAVE_ENTRY_EXPOSE: the entry opens or closes its exposure group. -/
def waveEntryExpose (e : Nat) (d : Dev) : Dev := entryAct 3 e (fun a d => exposeAct a.tgt a.level a.t d) d

/-- Every open exposure group closes: the device enters SCAN (R51). -/
def closeGroups (t : Nat) (d : Dev) : Dev :=
  each (List.range 4) (fun g d => if (at' d.sdrv.expo g {}).open_ then refreshGroup g t (closeGroup g t d) else d) d

/-- IDLE_PLAYBACK: by instant t IDLE_PERIOD has expired in READY or HOLD with no scan table playing, and the idle table starts at the instant of
its expiry (R56). -/
def idlePlayback (t : Nat) (d : Dev) : Dev :=
  let due := d.sdrv.idleFrom + 16 * cfg Obj.SDRV_CTL.IDLE_PERIOD d
  guardD (d.inMode [.ready, .hold] && cfgB Obj.SDRV_CTL.IDLE_EN d && (enginesRunning d).all (fun e => e.2.line.isNone) && decide (due ≤ t))
    (fun d => startTable (cfg Obj.SDRV_CTL.IDLE_TABLE d) none due ((d.at_ t).uSdrv fun s => { s with idleFrom := due })) d

end Sys2Proof.Machine
end

