-- ==== Sys2Proof/Machine/HeddleCore.lean ====
section
/-! DEFINITION. Heddle's banks and held lines (R144, R148, R149, R164, R167) and the resume index (R150). -/

namespace Sys2Proof.Machine

/-! The geometry header of a set (Table 7.6). -/
def HdlSet.width (x : HdlSet) : Nat := getBits x.map 0 16
def HdlSet.rows (x : HdlSet) : Nat := getBits x.map 16 9
def HdlSet.crows (x : HdlSet) : Nat := getBits x.map 32 9
def HdlSet.tblPhases (x : HdlSet) : Bool := getBits x.map 41 1 != 0
def HdlSet.segs (x : HdlSet) : Nat := getBits x.map 48 11

/-- A map segment (Table 7.7). -/
structure Seg where
  stream : Nat
  lin : Nat
  rchk : Bool
  row : Nat
  j : Nat
  n : Nat
  col : Nat
  stride : Int
  run : Nat
deriving DecidableEq, Repr

/-- Segment i of HDL_MAP contents. -/
def segOf (ws : List Word) (i : Nat) : Seg :=
  let f (off wid : Nat) : Nat := getBits ws (64 + 128 * i + off) wid
  { stream := f 0 9, lin := f 12 7, rchk := f 19 1 != 0, row := f 20 8, j := f 32 16, n := f 48 16, col := f 64 15, stride := toS 8 (f 80 8), run := f 96 16 }

def HdlSet.segList (x : HdlSet) : List Seg := (List.range x.segs).map (segOf x.map)

/-- The row and column of sample j of a segment (R144). -/
def Seg.place (s : Seg) (j : Nat) : Nat × Int :=
  let i := j - s.j
  (s.row + i / max 1 s.run, (s.col : Int) + (i % max 1 s.run : Nat) * s.stride)

def Seg.claims (s : Seg) (stream j : Nat) : Bool := s.stream == stream && decide (s.j ≤ j) && decide (j < s.j + s.n)

/-- The segment that claims a sample, with its index. -/
def HdlSet.segFor (x : HdlSet) (stream j : Nat) : Option (Nat × Seg) :=
  (mapIx (fun i s => (i, s)) x.segList).find? fun p => p.2.claims stream j

def bankIx (b : Bool) : Nat := if b then 1 else 0
def bankSet (b : Bool) (d : Dev) : HdlSet := at' d.hdl.bank (bankIx b) {}
/-- The live bank (R164). -/
def liveSet (d : Dev) : HdlSet := bankSet d.hdl.live d
/-- The load bank (R164). -/
def loadSet (d : Dev) : HdlSet := bankSet (!d.hdl.live) d
def setBank (b : Bool) (x : HdlSet) (d : Dev) : Dev := d.uHdl fun h => { h with bank := put h.bank (bankIx b) x }

/-- The bank that line k uses (R167): the old one below the swap line. -/
def bankOfLine (k : Nat) (d : Dev) : Bool := if k < d.hdl.swapLine then !d.hdl.live else d.hdl.live

/-- ROWS and WIDTH of the live set. -/
def rowsOf (d : Dev) : Nat := (liveSet d).rows
def widthOf (d : Dev) : Nat := (liveSet d).width

/-- The table phase of a line of phase ph under a set (R151, R156). -/
def HdlSet.tp (x : HdlSet) (ph : Nat) : Nat := if x.tblPhases then ph else 0

/-- Every position of the line's grid has its sample (R148). -/
def HLine.complete (d : Dev) (l : HLine) : Bool :=
  let x := bankSet l.bank d
  l.forced || decide (x.width * x.rows ≤ l.px.length)

def heldLine (k : Nat) (d : Dev) : Option HLine := d.hdl.lines.find? fun l => l.k == k

/-- The lines in Heddle's order that have not left step 5 (R149). -/
def openLines (d : Dev) : List LineRec := d.lines.filter fun l => !l.passed && !l.priming

/-- The resume index (R150): the lowest line that will not leave step 5; the one already fixed while no line of the restart has begun. -/
def resumeIndex (d : Dev) : Nat :=
  let next := match (openLines d).find? fun l => !((heldLine l.k d).map (HLine.complete d) |>.getD false) with
    | some l => l.k
    | none => d.hdl.resume.getD d.spn.next
  match d.hdl.resume with
  | some r => min r next
  | none => next

/-- The old bank is free once no line that uses it is left before step 5 (R167). -/
def drainEnd (d : Dev) : Dev :=
  if d.hdl.loadState = 3 ∧ (openLines d).all (fun l => decide (d.hdl.swapLine ≤ l.k)) then d.uHdl fun h => { h with loadState := 0 } else d

/-- The lowest index that the seams of the lines discarded from resume index r on leave missing below r (R273, R274): it is missing before the
next line that starts. -/
def seamsDropped (r : Nat) (d : Dev) : List Nat :=
  (d.lines.filter fun l => !l.priming && !l.passed && decide (r ≤ l.k) && decide (l.k - l.seamMissing < r) && l.flags &&& FL.SEAM != 0).map
    fun l => l.k - l.seamMissing

/-- Heddle fixes its resume index and discards every sample of that line and of every later one (R150). With ROWS > 1 their starts stay on record
for the output lines of the same index (R192, R196). -/
def hdlFixResume (d : Dev) : Dev :=
  let r := resumeIndex d
  let d := if 1 < rowsOf d then d else each (seamsDropped r d) linesMissing d
  let kept := d.lines.filter fun l => !l.priming && (l.passed || decide (l.k < r) || decide (1 < rowsOf d))
  let d := { d with lines := kept.map fun (l : LineRec) => if r ≤ l.k then { l with passed := true } else l }
  let d := d.uHdl fun h => { h with resume := some r, discardFrom := some r
                                    lines := h.lines.filter fun l => decide (l.k < r)
                                    inq := h.inq.filter fun x => decide (x.line < r) }
  let d := d.uTdi fun x => { x with rows := x.rows.filter fun p => decide (p.k < r) }
  let d := d.uStat fun s => { s with raw := s.raw.filter (fun x => decide (x.line < r)), left := s.left.filter (fun k => decide (k < r))
                                     hist := s.hist.map fun h => { h with lines := h.lines.filter fun x => decide (x.1 < r) } }
  let cut (w : Option Nat) : Option Nat := w.filter fun k => decide (k < r)
  let d := d.uAcq fun a => { a with windows := a.windows.map fun w => { w with owner := cut w.owner } }
  let cutL (w : Option LinkWin) : Option LinkWin := w.map fun w => { w with owner := cut w.owner }
  drainEnd (d.uJlk fun j => { j with link := j.link.map fun x => { x with armed := cutL x.armed, opened := cutL x.opened }
                                     lane := j.lane.map fun x => { x with armed := cutL x.armed, opened := cutL x.opened } })

/-! Defects (R160, R161). -/

/-- The position of a defect entry, in the order of (ROW, COL). -/
def defKey (e : Nat) : Nat := e % 8388608
def defCol (e : Nat) : Nat := e % 32768
def defRow (e : Nat) : Nat := bits e 22 15
def defRule (e : Nat) : Nat := bits e 25 23

/-- A defect entry lies in the grid of a set. -/
def HdlSet.inGrid (x : HdlSet) (e : Nat) : Bool := decide (defCol e < x.width) && decide (defRow e < x.rows)

/-- The entry joins the list in ascending order. -/
def insertDefect (e : Nat) : List Nat → List Nat
  | [] => [e]
  | x :: xs => if defKey e < defKey x then e :: x :: xs else x :: insertDefect e xs

/-- The entries of the list that are not poisoned: a poisoned one is treated as absent (R163). -/
def HdlSet.goodDefects (x : HdlSet) : List Nat := ((mapIx (fun i e => (i, e)) x.defects).filter fun p => !x.poison.contains (2, p.1)).map Prod.snd

/-- The list holds an entry for the position of e (R161). -/
def HdlSet.hasDefect (x : HdlSet) (e : Nat) : Bool := x.goodDefects.any fun y => defKey y == defKey e

/-- An entry names the position of e, though it be poisoned: its pixel is INVALID (R143, R163). -/
def HdlSet.namesDefect (x : HdlSet) (e : Nat) : Bool := x.defects.any fun y => defKey y == defKey e

/-- The set with an entry inserted; poisoned words of the list move with their entries. -/
def HdlSet.addDefect (x : HdlSet) (e : Nat) : HdlSet :=
  let at_ := countIf (fun y => decide (defKey y ≤ defKey e)) x.defects
  { x with defects := insertDefect e x.defects, poison := x.poison.map fun p => if p.1 = 2 ∧ at_ ≤ p.2 then (2, p.2 + 1) else p }

/-- A run-time defect (R161): its status, and the device after it. -/
def addDefect (e : Nat) (d : Dev) : Nat × Dev :=
  if (liveSet d).hasDefect e then (St.OK, d)
  else if 8192 ≤ (liveSet d).defects.length then
    (St.SPARES_EXHAUSTED, raise 228 (d.uHdl fun h => { h with defFull := true, defLost := sat16 h.defLost
                                                              unlisted := h.unlisted.filter (fun x => defKey x != defKey e) ++ [e]
                                                              defLog := if h.defLog.length < 16 then h.defLog ++ [e] else h.defLog.drop 1 ++ [e] }))
  else
    let ld := loadSet d
    let both := d.hdl.loadState = 0 ∧ ld.inGrid e ∧ ld.defects.length < 8192 ∧ ld.hasDefect e = false
    let d := setBank d.hdl.live ((liveSet d).addDefect e) d
    let d := if both then setBank (!d.hdl.live) (ld.addDefect e) d else d
    (St.OK, raise 227 (d.uHdl fun h => { h with defAdded := sat16 h.defAdded }))

end Sys2Proof.Machine
end

