-- ==== Sys2Proof/Machine/ShuttleCore.lean ====
section
/-! DEFINITION. Shuttle's motion generator and planner (R339 to R352): profiles, junction speeds, stop ramps, the end of a move, and the
commanded position as scan source (R15, R21). Units: x in 1/(2·10^18) microstep, speeds in 10^-12 microsteps/s, accelerations in 10^-6
microsteps/s², time in steps of 1 µs, so that an update is exact integer arithmetic (assumption log 20). -/

namespace Sys2Proof.Machine

/-- SHU_AXIS fields of axis n; a marked field of the other pair of axes resets to 0 (R363). -/
def axMode (n : Nat) (d : Dev) : Nat := cfg (Obj.SHU_AXIS.MODE n) d
def stopDec (n : Nat) (d : Dev) : Nat := cfg (Obj.SHU_AXIS.STOP_DEC n) d * aUnit

/-- Stopping distance from speed w to exit speed vx without acceleration at the start (R344, Table 15.3), in units of x. -/
def rampDist (w vx dec : Nat) (jerk : Option Nat) : Nat :=
  let dv := w - vx
  match jerk with
  | none => (w * w - vx * vx) / max 1 dec
  | some j =>
    let j := max 1 j
    if dec * dec ≤ dv * j then (w + vx) * (dv * j + dec * dec) / (max 1 dec * j)
    else (w + vx) * isqrt (4 * dv * 1099511627776 / j) / 1048576

/-- Stopping distance of an S-curve from speed w with acceleration al along the travel (Table 15.3), in units of x. -/
def sStop (w : Nat) (al : Int) (vx dec j : Nat) : Int :=
  let j := max 1 j
  if 0 ≤ al then
    let b := al.toNat
    (2 * (w * b / j + b * b * b / (3 * j * j)) + rampDist (w + b * b / (2 * j)) vx dec (some j) : Nat)
  else
    let b := (-al).toNat
    let v0 := w + b * b / (2 * j)
    max 0 ((rampDist v0 vx dec (some j) : Int) - 2 * ((v0 * b / j : Nat) - (b * b * b / (6 * j * j) : Nat) : Int))

/-- The distance of a queued move in units of x, signed. -/
def Move.dist (m : Move) : Int := (m.target - m.start) * xUnit

/-- Junction speeds may be non-zero between these two moves (R344). -/
def blends (m n : Move) : Bool :=
  m.blend && m.lin.isNone && n.lin.isNone && decide (0 < (m.target - m.start) * (n.target - n.start))

/-- The greatest entry speed from which a move comes down to vx within a distance (R344). -/
def entryLimit (m : Move) (vx dst : Nat) : Nat :=
  if m.scurve then maxSat 73 (fun v => decide (v ≤ vx) || decide (rampDist v vx m.dec (some m.jerk) ≤ dst)) 0
  else isqrt (vx * vx + m.dec * dst)

/-- The junction speeds backwards (R344): for each move, the speed at its end. -/
def planBack : List Move → List Nat
  | [] => []
  | [_] => [0]
  | m :: n :: ms =>
    let r := planBack (n :: ms)
    let j1 := r.headD 0
    (if blends m n then min (min m.vMax n.vMax) (entryLimit n j1 n.dist.natAbs) else 0) :: r

/-- The greatest speed that a move reaches from speed w within a distance; for an S-curve the jerk-limited ramp fits it (R344). -/
def reachable (m : Move) (w dst : Nat) : Nat :=
  if m.scurve then maxSat 73 (fun v => decide (v ≤ w) || decide (rampDist v w m.acc (some m.jerk) ≤ dst)) 0
  else isqrt (w * w + m.acc * dst)

/-- The exit speed of the active move (R344): its junction, lowered to what it can reach from its present speed over the distance left. -/
def exitSpeed (q : List Move) (w left : Nat) : Nat :=
  match q with
  | [] => 0
  | m :: _ => let j := (planBack q).headD 0
              if j = 0 then 0 else min j (reachable m w left)

/-- What a deceleration b still takes off the speed while the jerk brings it back to 0 (R347). -/
def taperSum (b j : Int) : Int :=
  let k := (b - 1) / j
  if b ≤ 0 then 0 else k * b - j * k * (k + 1) / 2

/-- One update of a jerk-limited ramp to rest (R347): the deceleration rises to dec, holds, and falls back to 0 as the speed w reaches 0. Answers
the new speed and acceleration along the travel. -/
def restStep (dec jerk : Nat) (w al : Int) : Int × Int :=
  let j : Int := max 1 jerk
  let b := -al
  let up := if (dec : Int) < b then max (b - j) dec else min (b + j) dec
  let ok (y : Int) : Bool := decide (taperSum y j ≤ w - y)
  if ok up then (w - up, -up)
  else if decide (0 ≤ b ∧ b ≤ dec) && ok b then (w - b, -b)
  else if b ≤ j ∨ w ≤ b - j then (0, 0)
  else (w - (b - j), j - b)

/-- One update of the speed along the travel under a move's profile (R343): w speed, al acceleration, left the distance left, vx the exit
speed, vLim the speed limit. Answers the new speed and acceleration. -/
def profileStep (m : Move) (w al : Int) (left vx vLim : Nat) : Int × Int :=
  if m.scurve then
    let j : Int := m.jerk
    let fits (b : Int) : Bool :=
      let w' := w + b
      decide (w' + (if 0 < b then b * b / (2 * max 1 j) else 0) ≤ vLim) &&
        decide (sStop w'.toNat b vx m.dec m.jerk ≤ (left : Int) - (w + w'))
    let up := min (al + j) m.acc
    let down := max (al - j) (-(m.dec : Int))
    if w < 0 then
      let r := restStep m.dec m.jerk (-w) (-al)
      (-r.1, -r.2)
    else
      let mid := clampI (-(m.dec : Int)) m.acc al
      let b := if fits up then up else if fits mid then mid else down
      if w + b ≤ 0 then (0, 0) else (w + b, b)
  else if w < 0 then (min 0 (w + m.dec), m.dec)
  else
    -- the largest speed after this update from which the ramp still meets the exit speed at the target
    let lim := (isqrt (m.dec * m.dec + 4 * (vx * vx + m.dec * (left - w.toNat))) - m.dec) / 2
    let w' := if (lim : Int) < w then max (lim : Int) (w - m.dec) else min (w + m.acc) lim
    let w' := if (vLim : Int) < w' then max (vLim : Int) (w - m.dec) else w'
    (w', w' - w)

/-- One update of a stop ramp (R349): the new speed and acceleration along the travel. An S-curve's acceleration is brought to -DEC at its jerk,
from either side. -/
def stopStep (r : StopRamp) (w al : Int) : Int × Int :=
  match r.jerk with
  | none => (max 0 (w - r.dec), if w ≤ r.dec then 0 else -(r.dec : Int))
  | some j =>
    if r.taper then restStep r.dec j w al
    else
      let b := if al < -(r.dec : Int) then min (al + j) (-(r.dec : Int)) else max (al - j) (-(r.dec : Int))
      (max 0 (w + b), if w + b ≤ 0 then 0 else b)

/-- The result words of a move's final completion: p (R340). -/
def posWords (p : Int) : List Word := wordsOfNat 2 (ofS 64 p)

/-- The final completion of a move, and what it counts (R340, Table 15.10). A move that ended on its target carries the target, also where it
passed it into a blended successor. -/
def endMove (n : Nat) (m : Move) (status : Nat) (d : Dev) : Dev :=
  let done := status == St.OK || status == St.CLAMPED
  let d := updAxis n (fun a => { a with moves := if done then wrap16 (a.moves + 1) else a.moves
                                        clamps := if status = St.CLAMPED then sat16 a.clamps else a.clamps }) d
  let d := if status = St.CLAMPED then raise 364 d else d
  match m.lin with
  | none => finish? m.who status 0 (posWords (if done then m.target else (axisAt n d).p)) d
  | some _ => d

/-- A linear move ends: its one final completion (R352). -/
def endLinear (l status : Nat) (d : Dev) : Dev :=
  match d.shu.lins.find? fun x => x.1 == l with
  | none => d
  | some (_, _, w, clamped) =>
    let status := if status = St.OK ∧ clamped then St.CLAMPED else status
    finish? w status 0 [] ((d.uShu fun s => { s with lins := s.lins.filter fun x => x.1 != l }))

/-- The ramp of a stop as AXIS_STOP makes it (R349): STOP_DEC, with the jerk of the active S-curve, or of the stop that is running. -/
def stopRamp (n : Nat) (d : Dev) : StopRamp :=
  let a := axisAt n d
  let active := match a.q with | m :: _ => if m.scurve then some m.jerk else none | [] => none
  { dec := stopDec n d, jerk := match a.stop with | some r => (if r.commanded then r.jerk else active) | none => active }

/-- The moves of an axis end with a status (R346). A linear move ends on every axis it names, and those of them that run it stop. -/
def dropQueue (n status : Nat) (keepActive : Bool) (d : Dev) : Dev :=
  let a := axisAt n d
  let gone := if keepActive then a.q.drop 1 else a.q
  let d := updAxis n (fun a => { a with q := if keepActive then a.q.take 1 else [] }) d
  each gone (fun m d =>
    match m.lin with
    | none => endMove n m status d
    | some l =>
      let mask := match d.shu.lins.find? fun x => x.1 == l with | some x => x.2.1 | none => 0
      let d := each (maskIx mask 4) (fun i d => updAxis i (fun b =>
        if (b.q.head?.map fun h => h.lin == some l) == some true && b.v != 0 then
          { b with q := b.q.filter (fun h => h.lin != some l), stop := some (b.stop.getD (stopRamp i d)) }
        else { b with q := b.q.filter fun h => h.lin != some l }) d) d
      endLinear l status d) d

/-- An axis is at rest. -/
def Axis.atRest (a : Axis) : Bool := a.v == 0

/-- Interrupt 352 + n where axis n, which was as b, has lost its queue at rest (R361). -/
def emptied (n : Nat) (b : Axis) (d : Dev) : Dev :=
  if b.q.isEmpty = false ∧ (axisAt n d).q.isEmpty = true ∧ (axisAt n d).atRest = true then raise (352 + n) d else d

/-- Interrupt 352 + n where axis n, which was moving with an empty queue as b, is at rest at once (R361). -/
def halted (n : Nat) (b : Axis) (d : Dev) : Dev :=
  if b.q.isEmpty = true ∧ b.atRest = false ∧ (axisAt n d).atRest = true then raise (352 + n) d else d

/-- The moves of an axis end with a status (R349, R358, R359); an axis that so has an empty queue at rest says so (R361). -/
def dropMoves (n status : Nat) (keepActive : Bool) (d : Dev) : Dev :=
  let was (i : Nat) := axisAt i d
  each (List.range 4) (fun i d => emptied i (was i) d) (dropQueue n status keepActive d)

/-- An AXIS_STOP completes when the last axis it names is at rest (R349). -/
def stopsDone (d : Dev) : Dev :=
  let done := d.shu.stops.filter fun w => (maskIx w.2 4).all fun n => (axisAt n d).atRest
  each done (fun w d => finish w.1 St.OK 0 [] d) (d.uShu fun s => { s with stops := s.stops.filter fun w => !done.contains w })

/-- The axis stops along a ramp and its moves end with a status. -/
def stopWith (r : StopRamp) (n status : Nat) (d : Dev) : Dev :=
  dropMoves n status false (updAxis n (fun a => { a with stop := if a.v = 0 then none else some r, rest := false, paceMove := none }) d)

/-- The axis stops at STOP_DEC and its moves end with a status (R349, R350, R359); a ramp that is running goes on at STOP_DEC (Table 15.5). -/
def stopAxis (n status : Nat) (d : Dev) : Dev := stopWith (stopRamp n d) n status d

/-- The standstill current (R357). -/
def holdCurrent (n : Nat) (d : Dev) : Nat := cfg (Obj.SHU_AXIS.I_RUN n) d * cfg (Obj.SHU_AXIS.HOLD_PCT n) d / 100

/-- I ramps to the standstill current over 16 PWM periods on an axis whose current is not reduced yet (R357). -/
def reduceCurrent (n : Nat) (d : Dev) : Dev :=
  let a := axisAt n d
  if n < 2 ∧ a.bridge = true ∧ a.reduced = false ∧ cfg (Obj.SHU_AXIS.HOLD_PCT n) d < 100 then
    updAxis n (fun b => { b with reduced := true, rampTo := holdCurrent n d, rampLeft := 16 }) d
  else d

/-- An axis at rest takes the standstill current. -/
def holdCurrentAtRest (n : Nat) (d : Dev) : Dev := if (axisAt n d).atRest then reduceCurrent n d else d

/-- A stage that holds the standstill current as soon as its axis rests: in SAFE and CALIBRATE (R359), and after an overtemperature warning
(Table 15.4). -/
def holdsReduced (n : Nat) (d : Dev) : Bool := d.inMode [.safe, .calibrate] || (axisAt n d).fault.testBit 1

/-- Every moving axis stops, and a stage at rest holds the reduced current, as on entry to SAFE (R359). -/
def stopAllAxes (d : Dev) : Dev := each (List.range 4) (fun n d => holdCurrentAtRest n (stopAxis n St.ABORTED d)) d

/-- A bridge turns off (R358, R470): the motor coasts, the position is lost and HOMED clears. -/
def bridgeOff (n : Nat) (d : Dev) : Dev :=
  updAxis n (fun a => { a with bridge := false, homed := false, v := 0, a := 0, pv := 0, pa := 0, x := a.p * xUnit, stop := none, rest := false, paceMove := none
                               cur := 0, rampLeft := 0 }) d

/-- The microsteps of an update that moved P to p at instant te, latest first, as edges: at most as many as are kept, evenly over the update
(R15, R16; assumption log 20). -/
def microEdges (p was : Int) (te kept : Nat) : List (Int × Nat) :=
  let m := ((p - was).natAbs + 255) / 256
  let g : Int := if was ≤ p then 1 else -1
  (List.range (min m kept)).map fun (j : Nat) => (p / 256 - g * (j : Int), te - (16000 * j / max 1 m : Nat))

/-- The scan position follows Shuttle's commanded position (R15), after each reversal of the command only once it has moved BACKLASH (R21); the
held sub-counts stay as an offset (assumption log 87). Each microstep is a count of R16. -/
def followShuttle (t : Nat) (d : Dev) : Dev :=
  match srcAxis d with
  | none => d
  | some n =>
    let c := 256 * (axisAt n d).p
    let s := d.spn
    let delta := c - s.cmdLast
    if delta = 0 then d
    else
      let up := decide (0 < delta)
      let left := if up = s.cmdUp then s.blLeft else (cfg Obj.SPN_CTL.BACKLASH d : Int)
      let held := min left (delta.natAbs : Int)
      let ofs := s.blOfs - (if up then held else -held)
      let p := c + ofs
      let te := t - microstepAge (axisAt n d)
      let edges := (microEdges p s.p te (edgesKept d) ++ s.edges).take (edgesKept d)
      d.uSpn fun s => { s with cmdLast := c, cmdUp := up, blLeft := left - held, blOfs := ofs, p
                               phat := if s.reversed || decide (travelSign d * (p - s.phat) ≥ 0) then p else s.phat
                               falling := if p = s.p then s.falling else decide (dirSign d * (p - s.p) < 0)
                               edges, vel := velOf (2 ^ cfg Obj.SPN_CTL.VEL_AVG d) edges }

end Sys2Proof.Machine
end

