-- ==== Sys2Proof/Machine/Policy.lean ====
section
/-! DEFINITION. Changes of mode, the stop of the scan, entry into SAFE and the fault policy (R262, R263, R472, R473, R475), with the pins whose
state the mode sets (R261). -/

namespace Sys2Proof.Machine

/-- PACE_CTL.AXIS names a Shuttle axis. -/
def paceAxis (d : Dev) : Option Nat := if cfg Obj.PACE_CTL.AXIS d < 4 then some (cfg Obj.PACE_CTL.AXIS d) else none

def vSet (d : Dev) : Nat := max 1 (cfg Obj.PACE_CTL.V_SET d)
/-- v_h (R258). -/
def vHold (d : Dev) : Nat := vSet d * cfg Obj.PACE_CTL.HOLD_FACTOR d / 256

/-- Speeds and accelerations of the paced axis, in the units of Move, from counts. -/
def axisSpeed (v5 : Nat) (d : Dev) : Nat := v5 * (cfgS Obj.PACE_CTL.STEP_RATIO d).natAbs * 10000000 / 65536
def axisAcc (a : Nat) (d : Dev) : Nat := max 1 (a * (cfgS Obj.PACE_CTL.STEP_RATIO d).natAbs * aUnit / 65536)

/-- The pacing unit brakes its axis to rest at a deceleration in counts/s² (R263); the move queue is suspended. -/
def brakeAxis (a : Nat) (d : Dev) : Dev :=
  match paceAxis d with
  | none => d
  | some n => updAxis n (fun x => { x with stop := if x.v = 0 then none else some { dec := axisAcc a d, commanded := false }, rest := false, paceMove := none }) d

/-- A watermark or line store routed to FC_OUT[p] asks for it (R242). -/
def skeinWants (p : Nat) (d : Dev) : Bool :=
  ((mapIx (fun q x => (q, x)) d.skn.queue).any fun x => x.2.above && cfg (Obj.SKN_QUEUE.FC_PIN x.1) d == p + 1) ||
  ((mapIx (fun s x => (s, x)) d.skn.store).any fun x => (x.2.above || x.2.xoff) && cfg (Obj.REEL_LS.FC_PIN x.1) d == p + 1)

/-- The state of FC_OUT[p] in the present mode (Table 11.1), for a pin that Skein owns the request of R242. -/
def pinState (p : Nat) (x : FcPin) (d : Dev) : FcPin :=
  let hiz := d.inMode [.reset, .boot] || (d.pwr.mode == .sleep && d.ic.slpKind)
  match cfg (Obj.PACE_FC.OWNER p) d with
  | 1 =>
    if hiz then {}
    else if d.inMode [.scan, .hold] then
      let want := decide (d.pace.factor < cfg (Obj.PACE_FC.THRESH p) d * 256)
      let held := match x.until_ with | some t => decide (d.now < t) | none => false
      if want then { driven := true, asserted := true
                     until_ := if x.asserted then x.until_ else some (d.now + 16000 * cfg (Obj.PACE_FC.MIN_ASSERT p) d) }
      else if held then { x with driven := true, asserted := true }
      else { driven := true, asserted := false }
    else { driven := true, asserted := true }
  | 2 => if hiz then {} else { driven := true, asserted := !d.inMode [.scan, .hold] || skeinWants p d }
  | 3 => if hiz then {} else { driven := true, asserted := false }
  | _ => {}

/-- The FC_OUT pins are brought up to date. -/
def refreshPins (d : Dev) : Dev := d.uPace fun x => { x with pins := mapIx (fun p y => pinState p y d) x.pins }

/-- The TDI engine is held in HOLD and SAFE (R198). -/
def tdiHold (d : Dev) : Dev :=
  if d.inMode [.hold, .safe] then
    (if 1 < rowsOf d && !d.tdi.held then raise 245 (d.uTdi fun x => { x with held := true }) else d)
  else d.uTdi fun x => { x with held := false }

/-- The mode code changes (R472): interrupt 464 and a MODE event. Entry into SCAN closes the exposure groups (R51); READY and HOLD begin the idle
state of R56. -/
def setMode (m : Mode) (d : Dev) : Dev :=
  if d.pwr.mode = m then d
  else
    let was := d.pwr.mode
    let d := tdiHold (d.uPwr fun p => { p with mode := m, prevMode := p.mode })
    let d := if was = .scan ∨ was = .hold then endAllLines d else d
    let d := if m = .scan then closeGroups d.now (freshVel d) else if m = .ready ∨ m = .hold then restartIdle d else d
    postEvent 2 0 St.OK 464 none [m.code] (raise 464 (refreshPins d))

/-- The domain of a fault class (Table 20.6). -/
def classDomain (c : Nat) : Nat := [7, 8, 8, 8, 9, 10, 11, 12, 13, 13, 14, 15, 15, 0, 8].getD c 0

/-- A stop (R262, R263): the mode becomes HOLD, Spindle starts no further line, Heddle fixes its resume index and the axis brakes. -/
def paceStop (cause : Nat) (d : Dev) : Dev :=
  if d.pwr.mode = .scan then
    let d := hdlFixResume (setMode .hold d)
    let d := lampsOff d
    let axis := paceAxis d
    let d := d.uPace fun p => { p with
      cause, holds := sat16 p.holds, xoffStop := false, autoResume := cause == 1 || cause == 2 || cause == 6
      resume := d.hdl.resume, verify := none
      state := if axis.isSome then .braking else .idle }
    let d := brakeAxis (if cause = 1 ∨ cause = 6 then cfg Obj.PACE_CTL.A_PACE d else cfg Obj.PACE_CTL.A_STOP d) d
    refreshPins (raise 376 (tablesEnded d))
  else d

/-- A self-calibration in progress stops at once; its CAL_RUN completes with ABORTED (R474). No store write follows. -/
def calAbort (d : Dev) : Dev :=
  match d.cal.run with
  | none => d
  | some r =>
    let d := restartIdle (d.uCal fun c => { c with run := none, lastStatus := St.ABORTED })
    if r.auto then d else finish { mbx := r.mbx, tag := r.tag, op := Op.CAL_RUN, sess := r.sess } St.ABORTED 0 [] d

/-- The pacing unit discards K_r: no restart follows (R276, R473). -/
def paceDiscard (d : Dev) : Dev :=
  d.uPace fun p => { p with state := .idle, cause := 0, kr := 0, vc := 0, factor := 0, autoResume := false, verify := none
                            resume := none, srcFirst := none, rebuild := none, xoffStop := false, shortRunup := p.shortRunup }

/-- A pending transition's MODE_SET ends ABORTED (R326, R481). -/
def dropTrans (d : Dev) : Dev :=
  let d := match d.pwr.trans with
    | .toReady w _ => finish? w St.ABORTED 0 [] d
    | .toSafe w => finish? w St.ABORTED 0 [] d
    | .none => d
  let d := finish? d.pwr.modeWho St.ABORTED 0 [] d
  let d := finish? d.pwr.safeReadyWho St.ABORTED 0 [] d
  let d := if d.pwr.sleepWho.isSome then
      (finish? d.pwr.sleepWho St.ABORTED 2 [] (d.uTap fun t => { t with armed := false, phase := .awake })).uIc fun c => { c with slpResult := 2 }
    else d
  d.uPwr fun p => { p with trans := .none, modeWho := none, safeReadyWho := none, sleepWho := none }

/-- The move to SAFE completes when every axis is at rest and every table has ended (R473). -/
def safeQuiet (d : Dev) : Bool := (enginesRunning d).isEmpty && (List.range 4).all fun n => (axisAt n d).atRest

/-- Entry into SAFE (R473); on a command in HOLD the paced axis brakes at A_STOP (R276). cls is the class of the fault, none for a command or V_WARN. -/
def enterSafe (cls : Option Nat) (who : Option Who) (d : Dev) : Dev :=
  if d.inMode [.calibrate, .ready, .scan, .hold] then
    let from_ := d.pwr.mode
    let d := dropTrans d
    let d := d.uPwr fun p => { p with safeClass := cls.getD 15, safeFrom := from_, calStep := 0 }
    let d := if from_ = .scan ∨ from_ = .hold then (if d.hdl.discardFrom.isSome then d else hdlFixResume d) else d
    let d := calAbort (setMode .safe d)
    let d := lampsOff d
    let d := stopAllAxes (paceDiscard d)
    let d := match paceAxis d with
      | some n => if from_ = .hold ∧ who.isSome then updAxis n (fun x => { x with stop := x.stop.map fun r => { r with dec := axisAcc (cfg Obj.PACE_CTL.A_STOP d) d } }) d else d
      | none => d
    let d := tablesEnded d
    let d := if cls.isSome then raise 465 d else d
    let d := refreshPins d
    d.uPwr fun p => { p with trans := .toSafe who }
  else d

/-- The action of a fault class (R475). -/
def classAction (c : Nat) (d : Dev) : Nat := cfg (Obj.PWR_FAULT_POLICY.ACTION c) d

/-- A fault of a class arises (R475): recorded, sent as a FAULT event and acted on. -/
def faultRaise (c source : Nat) (line : Option Nat) (status : Nat) (d : Dev) : Dev :=
  let act := classAction c d
  let f : FaultRec := { cls := c, domain := classDomain c, action := act, source, line, ts := d.ns }
  let d := d.uPwr fun p => { p with faults := if p.faults.any (fun g => g.cls == c && g.source == source) then p.faults else p.faults ++ [f] }
  let d := postEvent 1 (classDomain c) status source line [] d
  match act with
  | 1 => paceStop (if c = 0 then 4 else 3) d
  | 2 => enterSafe (some c) none d
  | _ => d

/-- The faults of a class no longer stand, or those of one source of it. -/
def faultClear (c : Nat) (d : Dev) : Dev := d.uPwr fun p => { p with faults := p.faults.filter fun f => f.cls != c }
def faultClearSrc (c source : Nat) (d : Dev) : Dev :=
  d.uPwr fun p => { p with faults := p.faults.filter fun f => !(f.cls == c && f.source == source) }

/-- A class has a standing fault. -/
def faultStands (c : Nat) (d : Dev) : Bool := d.pwr.faults.any fun f => f.cls == c

end Sys2Proof.Machine
end

