-- ==== Sys2Proof/Machine/Statistics.lean ====
section
/-! DEFINITION. The statistics unit (chapter 9): robust column means, the tracking law of the shading factors, histograms, and the figures
for the background calibration. -/

namespace Sys2Proof.Machine

/-- Rounding of n / 2^s, halves towards plus infinity (chapter 7). -/
def rnd (n : Int) (s : Nat) : Int := if s = 0 then n else (n + 2 ^ (s - 1)) / 2 ^ s

/-! SHADE and its targets by table phase and column; an entry that is not listed holds 0x4000 (R155, R216). -/

def shadeOf (tp c : Nat) (d : Dev) : Nat := Sparse.get 0x4000 (at' d.hdl.shade tp []) c
def targetOf (tp c : Nat) (d : Dev) : Nat := Sparse.get 0x4000 (at' d.stat.target tp []) c

/-- Columns whose SHADE entry differs from its target. -/
def settlingCols (tp : Nat) (d : Dev) : List Nat :=
  let keys := (at' d.hdl.shade tp []).map Prod.fst ++ (at' d.stat.target tp []).map Prod.fst
  (keys.eraseDups).filter fun c => shadeOf tp c d != targetOf tp c d

def settlingEntries (d : Dev) : Nat := ((List.range 8).map fun tp => (settlingCols tp d).length).sum

/-- When the last entry of all table phases has reached its target after a change, interrupt 262 is raised (R219). -/
def shadeSettled (d : Dev) : Dev :=
  if d.stat.moving && settlingEntries d == 0 then raise 262 (d.uStat fun s => { s with moving := false }) else d

/-- Between two lines of table phase tp, SHADE entries move towards their targets by at most STEP (R217). -/
def shadeStep (tp : Nat) (d : Dev) : Dev :=
  let cols := settlingCols tp d
  if cols.isEmpty then d
  else
    let st := cfg Obj.STAT_CTL.STEP d
    let sh := cols.foldl (fun m c =>
      let v := shadeOf tp c d; let g := targetOf tp c d
      Sparse.set 0x4000 m c (if v < g then min g (v + st) else max g (v - st))) (at' d.hdl.shade tp [])
    shadeSettled (d.uHdl fun h => { h with shade := put h.shade tp sh })

/-- SHADE_RESET: every SHADE entry and every target returns to 0x4000 (R166, R219). -/
def shadeClear (d : Dev) : Dev :=
  shadeSettled ((d.uStat fun s => { s with target := List.replicate 8 [], clipRun := List.replicate 8 [] }).uHdl fun h => { h with shade := List.replicate 8 [] })

/-- Every N returns to 0 at a bank swap (R215). -/
def clearCounts (d : Dev) : Dev := d.uStat fun s => { s with n := List.replicate 8 [] }

/-- The statistics restart for the swaps whose swap line is due; with SHADE_RESET the targets and SHADE entries return with them (R166, R215,
R219). -/
def swapResets (due : Nat → Bool) (d : Dev) : Dev :=
  let now := d.hdl.resets.filter fun x => due x.1
  if now.isEmpty then d
  else
    let d := clearCounts (d.uHdl fun h => { h with resets := h.resets.filter fun x => !due x.1 })
    if now.any (·.2) then shadeClear d else d

/-- Line k is corrected with the SHADE entries that SHADE_RESET leaves, though lines before the swap line are still on their way (R166). -/
def shadeFresh (k : Nat) (d : Dev) : Bool := d.hdl.resets.any fun x => x.2 && decide (x.1 ≤ k)

/-! Regions (R211). -/

/-- A column of line k, phase ph, lies in a region of the given STAT_REGION contents. -/
def inRegion (ws : List Word) (frame k ph c : Nat) : Bool :=
  (List.range (getBits ws 0 5)).any fun i =>
    let o := 32 * (1 + 6 * i)
    let f (off wid : Nat) : Nat := getBits ws (o + off) wid
    let first := f 64 48; let last := f 128 48
    let mode := f 0 2
    mode != 0 && (f 8 8).testBit ph && decide (f 32 15 ≤ c) && decide (c ≤ f 48 15) &&
      (match mode with
       | 1 => true
       | 2 => frame != 0 && decide (first ≤ k % frame) && decide (k % frame ≤ last)
       | _ => decide (first ≤ k) && decide (k ≤ last))

/-- A listed defect makes its pixel INVALID (R143). -/
def listed (x : HdlSet) (row col : Nat) : Bool := x.namesDefect (col + 32768 * row)

/-! Robust column means (R213, R214). -/

/-- The column value of column c of a held line: the rounded mean of y_u over its qualifying pixels. -/
def columnValue (l : HLine) (x : HdlSet) (c : Nat) : Option Int :=
  let ys := (List.range x.rows).filterMap fun r =>
    match Sparse.get none l.px (r * x.width + c) with
    | some p => if p.rng == 0 && !p.invalid && !listed x r c then some p.yu else none
    | none => none
  if ys.isEmpty then none else some ((ys.sum + (ys.length / 2 : Nat)) / (ys.length : Int))

/-- One column's mean takes the value q (R214). -/
def meanStep (m : Int) (n : Nat) (q : Int) (clip tc : Nat) : Int :=
  if n = 0 then 256 * q
  else
    let lim : Int := clip * 4096
    let e := clampI (-lim) lim (256 * q - m)
    m + rnd e (min (Nat.log2 n + 1) tc)

/-- A line that leaves step 5 commits its column values (R214); flags: its FLAGS at that point. -/
def statCommit (l : HLine) (rec : LineRec) (d : Dev) : Dev :=
  if rec.flags &&& (FL.DEGRADED ||| FL.POISON ||| FL.CHECKER_MISMATCH) ≠ 0 then d.uStat fun s => { s with linesRejected := sat16 s.linesRejected }
  else
    let x := bankSet l.bank d
    let tp := x.tp l.phase
    let frame := cfg Obj.SPN_CTL.FRAME_LINES d
    let clip := cfg Obj.STAT_CTL.CLIP d
    let tc := cfg Obj.STAT_CTL.MEAN_TC d
    let cols := (List.range x.width).filter fun c => inRegion rec.region frame l.k l.phase c
    let (m, n) := cols.foldl (fun (a : Sparse Int × Sparse Nat) c =>
      match columnValue l x c with
      | none => a
      | some q =>
        let k := Sparse.get 0 a.2 c
        (Sparse.set 0 a.1 c (meanStep (Sparse.get 0 a.1 c) k q clip tc), Sparse.set 0 a.2 c (min 65535 (k + 1)))) (at' d.stat.m tp [], at' d.stat.n tp [])
    d.uStat fun s => { s with m := put s.m tp m, n := put s.n tp n, committed := upd s.committed tp fun n => if cfgB Obj.STAT_CTL.SHADE_EN d then n + 1 else 0 }

/-! The tracking law (R216 to R218). -/

/-- The phase level L[tp] in 2^-12 code (R216), none where LEVEL_MODE 0 finds no qualifying column. -/
def phaseLevel (tp : Nat) (d : Dev) : Option Int :=
  if cfgB Obj.STAT_CTL.LEVEL_MODE d then some (4096 * (cfg Obj.STAT_CTL.LEVEL d : Int))
  else
    let ok := (at' d.stat.n tp []).filter fun x => decide (cfg Obj.STAT_CTL.MIN_N d ≤ x.2)
    if ok.isEmpty then none
    else
      let sum := (ok.map fun x => Sparse.get 0 (at' d.stat.m tp []) x.1).sum
      some ((sum + (ok.length / 2 : Nat)) / (ok.length : Int))

/-- One column's target is computed and staged (R216, R218). lvl: L[tp]. -/
def stageTarget (tp : Nat) (lvl : Int) (d : Dev) (c : Nat) : Dev :=
  let m := Sparse.get 0 (at' d.stat.m tp []) c
  if m ≤ 0 then d
  else
    let t := ((lvl * 16384 + m / 2) / m)
    let lo : Int := cfg Obj.STAT_CTL.SHADE_MIN d
    let hi : Int := cfg Obj.STAT_CTL.SHADE_MAX d
    let clipped := decide (t < lo) || decide (hi < t)
    let g := (clampI lo hi t).toNat
    let d := d.uStat fun s => { s with
      limit := upd s.limit tp fun q => Sparse.set false q c clipped
      limitCols := if clipped then s.limitCols + 1 else s.limitCols
      clipRun := upd s.clipRun tp fun q => Sparse.set 0 q c (if clipped then min 255 (Sparse.get 0 q c + 1) else 0) }
    let d := if clipped then raise 260 d else d
    let d := if cfg Obj.STAT_CTL.DEAD d ≤ ((g : Int) - targetOf tp c d).natAbs then
        d.uStat fun s => { s with target := upd s.target tp fun q => Sparse.set 0x4000 q c g }
      else d
    if clipped && cfgB Obj.STAT_CTL.AUTO_DEF d && rowsOf d == 1 &&
        decide (cfg Obj.STAT_CTL.DEF_UPDATES d ≤ Sparse.get 0 (at' d.stat.clipRun tp []) c) &&
        !(decide (8192 ≤ (liveSet d).defects.length) && d.hdl.unlisted.any fun e => defKey e == c) then
      let had := (liveSet d).hasDefect c
      let (st, d) := addDefect (c + 8388608 * cfg Obj.STAT_CTL.DEF_RULE d) d
      if st = St.OK ∧ had = false then raise 261 (d.uStat fun s => { s with autoDefects := sat16 s.autoDefects }) else d
    else d

/-- STAT_SHADE_UPDATE: after 2^UPD committed lines of table phase tp, its level and targets are computed (R216). -/
def statShadeUpdate (tp : Nat) (d : Dev) : Dev :=
  let need := 2 ^ cfg Obj.STAT_CTL.UPD d
  if cfgB Obj.STAT_CTL.SHADE_EN d ∧ need ≤ at' d.stat.committed tp 0 then
    let d := d.uStat fun s => { s with committed := upd s.committed tp (· - need) }
    match phaseLevel tp d with
    | none => d
    | some lvl =>
      let d := d.uStat fun s => { s with level := put s.level tp (ofS 16 (lvl / 4096)), limitCols := 0 }
      let cols := ((at' d.stat.n tp []).filter fun x => decide (cfg Obj.STAT_CTL.MIN_N d ≤ x.2)).map Prod.fst
      let d := cols.foldl (stageTarget tp lvl) d
      if 0 < settlingEntries d then d.uStat fun s => { s with moving := true } else shadeSettled d
  else d

/-! Histograms (R220). -/

/-- A value joins the bins of its line; a line counts from its first value since the last copy. -/
def histBin (ln b : Nat) : List (Nat × Sparse Nat) → List (Nat × Sparse Nat)
  | [] => [(ln, [(b, 1)])]
  | x :: xs => if x.1 = ln then (ln, Sparse.set 0 x.2 b (sat32 (Sparse.get 0 x.2 b))) :: xs else x :: histBin ln b xs

/-- Engine k counts a value of line ln. -/
def histCount (k ln v : Nat) (d : Dev) : Dev :=
  let b := min (v >>> cfg (Obj.STAT_HIST_CFG.SHIFT k) d) 1023
  d.uStat fun s => { s with hist := upd s.hist k fun h => { h with lines := histBin ln b h.lines } }

/-- The bins of several lines together. -/
def histSum (l : List (Nat × Sparse Nat)) : Sparse Nat :=
  (l.flatMap Prod.snd).foldl (fun m x => Sparse.set 0 m x.1 (satAdd 4294967295 (Sparse.get 0 m x.1) x.2)) []

/-- The engines with a given source. -/
def histOf (src : Nat) (d : Dev) : List Nat := (List.range 4).filter fun k => cfg (Obj.STAT_HIST_CFG.SRC k) d == src

/-- A sample at the raw tap (SRC 1). -/
def histRaw (stream ln code : Nat) (d : Dev) : Dev :=
  each ((histOf 1 d).filter fun k => cfg (Obj.STAT_HIST_CFG.STREAM k) d == stream) (fun k d => histCount k ln code d) d

/-- The columns an engine counts of a line of phase ph. -/
def histCols (k ph : Nat) (d : Dev) : Nat → Bool := fun c =>
  (cfg (Obj.STAT_HIST_CFG.PHASE_MASK k) d).testBit ph && decide (cfg (Obj.STAT_HIST_CFG.COL_FIRST k) d ≤ c) && decide (c ≤ cfg (Obj.STAT_HIST_CFG.COL_LAST k) d)

/-- A held line at the shading tap (SRC 2). -/
def histShading (l : HLine) (d : Dev) : Dev :=
  let w := (bankSet l.bank d).width
  each (histOf 2 d) (fun k d => each l.px (fun x d =>
    match x.2 with
    | some p => if histCols k l.phase d (x.1 % max 1 w) then histCount k l.k (clampI 0 65535 (p.yu / 16)).toNat d else d
    | none => d) d) d

/-- The pixels of an output line (SRC 3): out, in output columns. -/
def histOutput (ln ph : Nat) (out : List Int) (wide : Bool) (d : Dev) : Dev :=
  each (histOf 3 d) (fun k d => each (mapIx (fun c v => (c, v)) out) (fun x d =>
    if histCols k ph d x.1 then histCount k ln (if wide then (clampI 0 65535 (x.2 / 16)).toNat else x.2.toNat) d else d) d) d

/-- Line ln brings no further value: it has left step 5 or is not on its way, and no sample of it waits or, at the raw tap, can still come. -/
def histDone (src ln : Nat) (d : Dev) : Bool :=
  (match lineRec ln d with | some r => r.passed | none => true) && (d.hdl.inq.all fun x => x.line != ln) && !(src == 1 && samplesComing ln d)

/-- HIST_SNAPSHOT: after LINES lines in which it counted, engine k copies their bins and restarts; what later lines brought already counts on. -/
def histSnapshot (k : Nat) (d : Dev) : Dev :=
  let h := at' d.stat.hist k {}
  let n := cfg (Obj.STAT_HIST_CFG.LINES k) d
  let now := h.lines.take n
  if cfg (Obj.STAT_HIST_CFG.SRC k) d ≠ 0 ∧ n ≤ h.lines.length ∧ now.all (fun x => histDone (cfg (Obj.STAT_HIST_CFG.SRC k) d) x.1 d) then
    raise (256 + k) (d.uStat fun s => { s with
      hist := put s.hist k { lines := h.lines.drop n, snap := histSum now, snapLine := (now.getLast?.map Prod.fst).getD 0, snaps := wrap32 (h.snaps + 1) } })
  else d

/-! Figures for the background calibration (R221 to R223). -/

/-- The black figure of channel c, from its kept conversions of the line. -/
def blackFigure (c : Nat) (raw : List RawConv) (d : Dev) : Option Int :=
  let first := cfg (Obj.STAT_BLACK.BL_FIRST c) d
  let n := cfg (Obj.STAT_BLACK.BL_COUNT c) d
  let cs := raw.filter fun r => r.ch == c && decide (first ≤ r.j) && decide (r.j < first + n)
  let cnt := cs.length
  if cfg Obj.STAT_CTL.BLACK_MIN d ≤ cnt then
    let sum : Int := (cs.map (·.code)).sum
    some ((4 * (sum - cnt * cfg Obj.CAL_CTL.BLACK_TARGET d) + (cnt / 2 : Nat)) / (cnt : Int))
  else none

def ratMean (l : List Nat) : Rat := (l.sum : Rat) / (l.length : Rat)
/-- Mean absolute deviation from the mean. -/
def ratDev (l : List Nat) : Rat := let m := ratMean l; (l.map fun (x : Nat) => if (x : Rat) < m then m - (x : Rat) else (x : Rat) - m).sum / (l.length : Rat)

/-- The interleave figures of pair k: offset, gain and skew, in trim steps (R222). -/
def pairFigures (k : Nat) (raw : List RawConv) (d : Dev) : List (Nat × Int) :=
  let rs := raw.filter fun r => r.ch == 2 * k
  let ev := (rs.filter fun r => !r.odd).map (·.code)
  let od := (rs.filter (·.odd)).map (·.code)
  let least := cfg Obj.STAT_CTL.ILV_MIN d
  let enough := decide (least ≤ ev.length) && decide (least ≤ od.length)
  let ofs := if enough then [(64 + k, roundAway (4 * (ratMean od - ratMean ev)))] else []
  let de := ratDev ev
  let gain := if enough && decide (16 ≤ de) then [(96 + k, roundAway (10000 * (ratDev od - de) / de))] else []
  let near (r : RawConv) (j : Nat) : Option Int := (rs.find? fun q => q.j == j && q.win == r.win).map fun q => (q.code : Int)
  let es := (rs.filter (·.odd)).filterMap fun r =>
    match near r (r.j - 1), near r (r.j + 1) with
    | some a, some b => if 0 < r.j ∧ cfg Obj.STAT_CTL.SLOPE_MIN d ≤ (b - a).natAbs then some ((r.code : Rat) - ((a + b : Int) : Rat) / 2, ((b - a : Int) : Rat)) else none
    | _, _ => none
  let ss : Rat := (es.map fun x => x.2 * x.2).sum
  let period : Rat := ((rs.head?.map (·.period)).getD 0 : Nat) * (125 / 2)
  let skew := if least ≤ es.length then [(128 + k, roundAway (4 * period * (es.map fun x => x.1 * x.2).sum / ss))] else []
  ofs ++ gain ++ skew

/-- The figures of line k, from every conversion of it; its conversions are done with. -/
def lineFigures (k : Nat) (d : Dev) : Dev :=
  let raw := d.stat.raw.filter fun r => r.line == k
  let chans := (List.range 64).filter fun c => cfg (Obj.STAT_BLACK.BL_COUNT c) d != 0
  let black := chans.map fun c => (c, blackFigure c raw d)
  let pairs := (List.range 32).filter fun k => cfgB (Obj.ACQ_CH.ILV (2 * k)) d
  let short := countIf (fun x : Nat × Option Int => x.2.isNone) black
  d.uStat fun s => { s with
    figs := black.filterMap (fun x => x.2.map fun v => (x.1, v)) ++ pairs.flatMap fun k => pairFigures k raw d
    blackShort := satAdd 65535 s.blackShort short
    raw := s.raw.filter fun r => r.line != k }

/-- The figures of the lines that have left step 5 are formed, in that order, once no conversion of the line can come any more (R221, R222); those
of the latest line stand for the next line start (R223; assumption log 110). -/
def formFigures (d : Dev) : Dev :=
  let now := d.stat.left.filter fun k => !samplesComing k d
  each now lineFigures (d.uStat fun s => { s with left := s.left.filter fun k => !now.contains k })

/-! Writes, reads and status. -/

/-- What rejects a write of STAT_CTL (R226). -/
def statCtlCheck (ws : List Word) (_ : Dev) : Option (Nat × Nat) :=
  firstFail [(decide (0x4000 < fieldOf ws Obj.STAT_CTL.SHADE_MIN) || decide (fieldOf ws Obj.STAT_CTL.SHADE_MAX < 0x4000), St.BAD_FIELD, 0),
    (fieldOf ws Obj.STAT_CTL.LEVEL_MODE == 1 && fieldOf ws Obj.STAT_CTL.LEVEL == 0, St.BAD_FIELD, 0)]

/-- What rejects a write of STAT_REGION (R212, R227). -/
def statRegionCheck (ws : List Word) (d : Dev) : Option (Nat × Nat) :=
  let frame := cfg Obj.SPN_CTL.FRAME_LINES d
  let bad (i : Nat) : Bool :=
    let o := 32 * (1 + 6 * i)
    let f (off wid : Nat) : Nat := getBits ws (o + off) wid
    let mode := f 0 2
    let mask := f 8 8
    let cf := f 32 15; let cl := f 48 15; let lf := f 64 48; let ll := f 128 48
    f 2 6 != 0 || f 16 16 != 0 || f 47 1 != 0 || f 63 1 != 0 || f 112 16 != 0 || f 176 16 != 0 || decide (2 ^ phasesOf d ≤ mask) || (mode != 0 && mask == 0) ||
      decide (widthOf d ≤ cl) || decide (cl < cf) || decide (ll < lf) ||
      (mode == 2 && (frame == 0 || decide (frame ≤ ll) || decide (4294967296 ≤ lf)))
  firstFail [(decide (16 < getBits ws 0 5) || getBits ws 5 27 != 0, St.BAD_FIELD, 0), ((List.range (getBits ws 0 5)).any bad, St.BAD_FIELD, 0)]

/-- What rejects a write of STAT_HIST_CFG (R229). -/
def statHistCheck (ws : List Word) (_ : Dev) : Option (Nat × Nat) :=
  firstFail [((List.range 4).any fun k => decide (2 ≤ fieldOf ws (Obj.STAT_HIST_CFG.SRC k)) &&
    decide (fieldOf ws (Obj.STAT_HIST_CFG.COL_LAST k) < fieldOf ws (Obj.STAT_HIST_CFG.COL_FIRST k)), St.BAD_FIELD, 0)]

/-- The words of STAT_HIST k (Table 9.6). -/
def statHistWords (k : Nat) (d : Dev) : List Word :=
  let h := at' d.stat.hist k {}
  wordsOfNat 2 h.snapLine ++ [BitVec.ofNat 32 h.snaps] ++ (List.range 1024).map fun b => BitVec.ofNat 32 (Sparse.get 0 h.snap b)

/-- TP of the live set (R156). -/
def tpOf (d : Dev) : Nat := if (liveSet d).tblPhases then phasesOf d else 1

/-- The words of STAT_MEANS (Table 9.6). -/
def statMeansWords (d : Dev) : List Word :=
  (List.range (tpOf d)).flatMap fun tp => (List.range (widthOf d)).flatMap fun c =>
    [BitVec.ofNat 32 (ofS 32 (Sparse.get 0 (at' d.stat.m tp []) c)), BitVec.ofNat 32 (Sparse.get 0 (at' d.stat.n tp []) c + 65536 * targetOf tp c d)]

/-- The words of STAT_STATUS (Table 9.7). -/
def statStatusWords (d : Dev) : List Word :=
  let s := d.stat
  packF 8 ([(Obj.STAT_STATUS.SETTLING_ENTRIES, settlingEntries d), (Obj.STAT_STATUS.LINES_REJECTED, s.linesRejected),
    (Obj.STAT_STATUS.BLACK_SHORT, s.blackShort), (Obj.STAT_STATUS.LIMIT_COLS, s.limitCols), (Obj.STAT_STATUS.AUTO_DEFECTS, s.autoDefects)] ++
    mapIx (fun tp v => (Obj.STAT_STATUS.LEVEL tp, v)) s.level)

end Sys2Proof.Machine
end

