-- ==== Sys2Proof/Machine/TdiEngine.lean ====
section
/-! DEFINITION. The TDI engine, binning and resampling (chapter 8). -/

namespace Sys2Proof.Machine

def satS32 (v : Int) : Int := clampI (-2147483648) 2147483647 v

/-- The combined RANGE of several pixels (R159, R202). -/
def rngOf (l : List Nat) : Nat := if l.contains 1 then 1 else if l.contains 2 then 2 else 0

/-! Binning and resampling (R202, R203). -/

/-- Groups of n items; the rest is dropped. -/
def groupsOf {α : Type} (n : Nat) (l : List α) : List (List α) := (List.range (l.length / max 1 n)).map fun i => (l.drop (i * n)).take n

/-- Binning along the line (R202). -/
def binLine (bin : Nat) (sum : Bool) (l : List (Int × Nat)) : List (Int × Nat) :=
  if bin ≤ 1 then l
  else (groupsOf bin l).map fun g =>
    let s := (g.map Prod.fst).sum
    (if sum then satS32 s else (s + (bin / 2 : Nat)) / (bin : Int), rngOf (g.map Prod.snd))

/-- The source coordinate of output pixel i, in 2^-16 column (R203). -/
def resampleX (ws : List Word) (i : Nat) : Int :=
  toS 32 (fieldOf ws Obj.TDI_RESAMPLE.X0) + rnd ((fieldOf ws Obj.TDI_RESAMPLE.S * i : Nat) : Int) 6 + rnd (toS 32 (fieldOf ws Obj.TDI_RESAMPLE.K) * (i * i : Nat)) 28

/-- The cubic weights for t = 256 τ, as multiples of 2^-14; c_0 takes the difference (R203). -/
def cubicWeights (t : Nat) : List Int :=
  let q : Rat := (t : Rat) / 256
  let w (x : Rat) : Int := (x * 16384 + 1 / 2).floor
  let cm := w ((-(q * q * q) + 2 * q * q - q) / 2)
  let c1 := w ((-(3 * q * q * q) + 4 * q * q + q) / 2)
  let c2 := w ((q * q * q - q * q) / 2)
  [cm, 16384 - cm - c1 - c2, c1, c2]

/-- Output pixel i of a resampled line (R203). -/
def resamplePixel (ws : List Word) (l : List (Int × Nat)) (i : Nat) : Int × Nat :=
  let x := resampleX ws i
  let j := x / 65536
  let t := ((x / 256) % 256).toNat
  let col (c : Int) : Int × Nat := at' l (clampI 0 ((l.length : Int) - 1) c).toNat (0, 0)
  let mix (taps : List (Int × Int)) (s : Nat) : Int × Nat :=
    let used := taps.filter fun p => p.2 != 0
    (satS32 (rnd ((used.map fun p => (col p.1).1 * p.2).sum) s), rngOf (used.map fun p => (col p.1).2))
  match fieldOf ws Obj.TDI_RESAMPLE.INTERP with
  | 0 => col ((x + 32768) / 65536)
  | 1 => mix [(j, 256 - t), (j + 1, t)] 8
  | _ => mix ((cubicWeights t).zipIdx.map fun p => (j - 1 + p.2, p.1)) 14

/-- Binning and resampling of a line whose TDI_RESAMPLE contents are ws (R202 to R204). -/
def reshape (ws : List Word) (l : List (Int × Nat)) (d : Dev) : List (Int × Nat) :=
  let b := binLine (cfg Obj.TDI_CTL.BIN d) (cfgB Obj.TDI_CTL.BIN_MODE d) l
  if fieldOf ws Obj.TDI_RESAMPLE.EN = 0 then b else (List.range (fieldOf ws Obj.TDI_RESAMPLE.OUT_W)).map (resamplePixel ws b)

/-! Row positions (R183 to R185). -/

/-- TDI_ROW of line k at instant t (R184); the frame of a priming line never comes (R269), nor does one that is discarded after a stop (R150,
R198). -/
def tdiRow (k t : Nat) (d : Dev) : Dev :=
  let d := d.at_ t
  if rowsOf d ≤ 1 then d
  else
    let r := countIf (fun x : RowPos => x.k == k) d.tdi.rows
    let add (p : RowPos) (d : Dev) : Dev := if primes k d || (d.hdl.discardFrom.map fun n => decide (n ≤ k)).getD false then d else d.uTdi fun x => { x with rows := x.rows ++ [p] }
    if cfgB Obj.TDI_CTL.POS_SRC d then
      let g := at' d.sdrv.expo (cfg Obj.TDI_CTL.EXP_GROUP d) {}
      if g.open_ then add { k, r, d := g.dOpen, waiting := true } d
      else raise 244 (add { k, r, d := distAt t d } (d.uTdi fun x => { x with fallback := sat16 x.fallback }))
    else add { k, r, d := distAt t d } d

/-- The TDI_ROW events of the template of line k for its phase (R183). -/
def rowEvents (k ph : Nat) (d : Dev) : Nat := countIf (fun i => Tpl.target (templateOf k d) i == 7) (Tpl.ofPhase (templateOf k d) ph)

/-- The row positions of the frame of line k, of phase ph, none while one that it needs is not known (R183, R184). -/
def rowPositions (k ph : Nat) (d : Dev) : Option (List Int) :=
  let ps := d.tdi.rows.filter fun x => x.k == k
  if ps.any (·.waiting) || ps.length != rowEvents k ph d then none
  else if rowEvents k ph d = 1 then (ps.head?.map fun p => List.replicate (rowsOf d) p.d)
  else if ps.length = rowsOf d then some (ps.map (·.d))
  else none

/-- u of sensor row r (R185). -/
def rowCoord (r : Nat) (de : Int) (d : Dev) : Int :=
  let rho := if cfgB Obj.TDI_CTL.ROW_DIR d then rowsOf d - 1 - r else r
  de - cfgS Obj.TDI_CTL.ROW_OFS d + ((rho * cfg Obj.TDI_CTL.ROW_PITCH d : Nat) : Int)

/-- FILL_LINES (chapter 8). -/
def fillLines (d : Dev) : Nat :=
  let rows := rowsOf d
  if rows ≤ 1 then 0 else ((rows - 1) * cfg Obj.TDI_CTL.ROW_PITCH d + pitch d - 1) / pitch d + phasesOf d

/-- NEED (R193). -/
def tdiNeed (d : Dev) : Nat :=
  let rows := rowsOf d
  let p := phasesOf d
  if rows ≤ 1 then 0 else p * (((rows - 1) * cfg Obj.TDI_CTL.ROW_PITCH d + p * pitch d - 1) / (p * pitch d) + 2)

/-! Accumulation (R186 to R189). -/

/-- The two contributions of a row at coordinate u of a frame of phase ph: line and weight (R186). -/
def rowWeights (u : Int) (ph : Nat) (d : Dev) : List (Int × Nat) :=
  let p : Int := phasesOf d
  let lp : Int := pitch d
  let q := u / lp
  let na := q - (q - ph) % p
  let w1 := ((256 * (u - na * lp) + p * lp / 2) / (p * lp)).toNat
  [(na, 256 - w1), (na + p, w1)].filter fun x => x.2 != 0

/-- One pixel joins an open line with weight w (R186 to R188). Answers the line, whether it saturated and whether the ledger was full. -/
def addPixel (col : Nat) (y : Int) (rng : Nat) (exclude : Bool) (w : Nat) (l : TLine) : TLine × Bool × Bool :=
  let inLedger := l.ledger.any fun e => e.1 == col
  if exclude && (inLedger || decide (l.ledger.length < 32)) then
    ({ l with ledger := if inLedger then l.ledger.map fun e => if e.1 = col then (e.1, e.2 + w) else e else l.ledger ++ [(col, w)] }, false, false)
  else
    let a := Sparse.get 0 l.acc col + rnd (y * w) 8
    let s := satS32 a
    let tag := Sparse.get 0 l.tag col
    let tag' := if rng = 1 then 1 else if rng = 2 ∧ tag ≠ 1 then 2 else tag
    ({ l with acc := Sparse.set 0 l.acc col s, tag := Sparse.set 0 l.tag col tag', clip := l.clip || a != s }, a != s && !l.clip, exclude)

/-- A corrected row: y3, RANGE and EXCLUDE by column. -/
abbrev PixRow := List (Int × Nat × Bool)

/-- A row joins output line n with weight w (R186, R189). -/
def addRow (row : PixRow) (n : Int) (w : Nat) (d : Dev) : Dev :=
  if n < (d.tdi.first.getD 0 : Nat) then d
  else
    let n := n.toNat
    if n < d.tdi.lowest then
      if n < d.tdi.quietBelow then d else raise 240 (d.uTdi fun x => { x with lateDrop := sat16 x.lateDrop })
    else
      let l := (d.tdi.lines.find? fun l => l.n == n).getD { n }
      let (l, clips, ovfs) := (mapIx (fun c p => (c, p)) row).foldl (fun (a : TLine × Nat × Nat) x =>
        let (l', s, o) := addPixel x.1 x.2.1 x.2.2.1 x.2.2.2 w a.1
        (l', a.2.1 + b2n s, a.2.2 + b2n o)) (({ l with w := l.w + w } : TLine), 0, 0)
      let rec ins (l : TLine) : List TLine → List TLine
        | [] => [l]
        | x :: xs => if l.n = x.n then l :: xs else if l.n < x.n then l :: x :: xs else x :: ins l xs
      let d := d.uTdi fun x => { x with lines := ins l x.lines, clip := satAdd 65535 x.clip clips, ledgerOvf := satAdd 65535 x.ledgerOvf ovfs }
      let d := if 0 < clips then raise 241 d else d
      if 0 < ovfs then raise 242 d else d

/-- The flags a frame hands to the lines it contributes to (R192). -/
def frameFlags : Nat := FL.OVR ||| FL.UNDR ||| FL.DEGRADED ||| FL.POISON ||| FL.SETTLING ||| FL.CHECKER_MISMATCH ||| FL.LAMP_FAULT

/-! Closing (R190 to R196). -/

/-- Which frames of an output line's range are missing: any, and any before the first line or after the end (R195). -/
def partialOf (n cur : Nat) (atEnd : Bool) (d : Dev) : Bool × Bool :=
  let f := fillLines d
  let first := d.tdi.first.getD 0
  let top := n + phasesOf d
  let hi := min top cur
  let early := decide (n < first + f)
  let late := atEnd && decide (cur < top)
  let mid := (List.range (hi + 1 - (n - f))).any fun i => !d.tdi.frames.contains (n - f + i)
  (early || late || mid, early || late)

/-- The value of one pixel on closure (R191); the flag says that it had no weight. -/
def closePixel (l : TLine) (col : Nat) (d : Dev) : Int × Nat × Bool :=
  let a := Sparse.get 0 l.acc col
  let tag := Sparse.get 0 l.tag col
  let w := l.w - (((l.ledger.find? fun e => e.1 == col).map Prod.snd).getD 0)
  match cfg Obj.TDI_CTL.NORM d with
  | 2 => (a, tag, false)
  | m =>
    if w = 0 then (16 * (cfg Obj.HDL_CTL.FILL d : Int), 0, true)
    else
      let k : Int := if m = 1 then 256 * (rowsOf d : Int) else 256
      (satS32 ((a * k + (w / 2 : Nat)) / (w : Int)), tag, false)

/-- An open line closes and goes on to binning, resampling and packing (R191, R192, R195). cur: the last frame accumulated. -/
def closeLine (l : TLine) (cur : Nat) (atEnd : Bool) (d : Dev) : Dev :=
  let d := d.uTdi fun x => { x with lines := x.lines.filter fun y => y.n != l.n }
  match lineRec l.n d with
  | none => d
  | some rec =>
    let (part, edge) := partialOf l.n cur atEnd d
    let px := (List.range (widthOf d)).map fun c => closePixel l c d
    let zeros := countIf (fun p : Int × Nat × Bool => p.2.2) px
    let d := if 0 < zeros then raise 243 (d.uTdi fun x => { x with zeroW := satAdd 65535 x.zeroW zeros }) else d
    if part && edge && cfgB Obj.TDI_CTL.EDGE_MODE d then d
    else
      let d := if part then d.uTdi fun x => { x with partials := sat16 x.partials } else d
      let fl := l.flags ||| (if 0 < zeros then FL.DEGRADED else 0) ||| (if part then FL.TDI_PARTIAL else 0) |||
        (rec.flags &&& (FL.SEAM ||| FL.FRAME_START ||| FL.FRAME_END ||| FL.PACE_SLOW))
      let v := reshape rec.resamp (px.map fun p => (p.1, p.2.1)) d
      d.uHdl fun h => { h with packQ := h.packQ ++ [{ k := l.n, v, flags := fl, ovr := l.ovr, undr := l.undr, pgEpoch := l.pgEpoch }] }

/-- LOWEST_OPEN (R198): the lowest line that is open or still in the closing buffer. -/
def lowestOpen (d : Dev) : Nat := (d.hdl.packQ.map (·.k)).foldl min d.tdi.lowest

/-- Lines below the bound close in ascending order (R190); LOWEST_OPEN follows (R198). -/
def closeBelow (bound : Nat) (cur : Nat) (d : Dev) : Dev :=
  let gone := d.tdi.lines.filter fun l => decide (l.n < bound)
  let d := each gone (fun l d => closeLine l cur false d) d
  d.uTdi fun x => { x with lowest := max x.lowest bound }

/-- Frame k, of phase ph, is accumulated (R186 to R190). -/
def tdiAccumulate (k ph : Nat) (rows : List PixRow) (pos : List Int) (fl ovr undr pg : Nat) (d : Dev) : Dev :=
  let us := mapIx (fun r de => rowCoord r de d) pos
  let d := each (rows.zip us) (fun x d => each (rowWeights x.2 ph d) (fun c d => addRow x.1 c.1 c.2 d) d) d
  let ns := (us.flatMap fun u => (rowWeights u ph d).map Prod.fst).eraseDups
  let d := d.uTdi fun x => { x with
    lines := x.lines.map fun l => if ns.contains (l.n : Int) then
        { l with flags := l.flags ||| (fl &&& frameFlags), ovr := min 65535 (l.ovr + ovr), undr := min 65535 (l.undr + undr), pgEpoch := pg }
      else l
    frames := k :: x.frames.filter fun j => decide (x.lowest ≤ j + fillLines d)
    rows := x.rows.filter fun r => r.k != k }
  if d.tdi.held then d
  else
    match us with
    | [] => d
    | u :: rest =>
      let u0 := rest.foldl min u
      let bound := u0 / (pitch d : Int) - phasesOf d + 1
      closeBelow bound.toNat k d

/-- On entry to SCAN from READY the engine starts empty (R196), and no resume index stands. -/
def tdiStart (d : Dev) : Dev := (d.uHdl fun h => { h with resume := none, discardFrom := none }).uTdi fun x => { x with lines := [], rows := [], first := none, frames := [], lowest := 0, quietBelow := 0, held := false }

/-- On the return to READY: open lines that Spindle started close and are flushed, the others are discarded (R196). -/
def tdiFlush (d : Dev) : Dev :=
  if 1 < rowsOf d then
    let cur := d.tdi.frames.foldl max 0
    let d := each d.tdi.lines (fun l d => closeLine l cur true d) d
    raise 247 (d.uTdi fun x => { x with lines := [], rows := [], held := false })
  else d

/-- An HDL domain reset clears the accumulators and the closing buffer, and sets REBUILD_INDEX (R199). -/
def tdiRebuild (d : Dev) : Dev :=
  if 1 < rowsOf d then
    let low := lowestOpen d
    let r := max (low - fillLines d) (d.tdi.first.getD 0)
    let d := d.uTdi fun x => { x with
      lines := [], rows := [], frames := x.frames.filter fun j => decide (j < r), lowest := low, rebuild := r, quietBelow := low }
    raise 246 ((d.uPace fun p => { p with rebuild := some r }).uHdl fun h => { h with packQ := [] })
  else d

/-! Writes and status. -/

/-- What rejects a write of TDI_RESAMPLE on its own (R208). -/
def tdiResampleCheck (ws : List Word) (_ : Dev) : Option (Nat × Nat) :=
  firstFail [(fieldOf ws Obj.TDI_RESAMPLE.EN == 1 && fieldOf ws Obj.TDI_RESAMPLE.OUT_W == 0, St.BAD_FIELD, 0)]

/-- Some source coordinate lies outside the binned line (R203). w: WIDTH. -/
def resampleBad (ws : List Word) (w : Nat) (d : Dev) : Bool :=
  let wb := w / cfg Obj.TDI_CTL.BIN d
  fieldOf ws Obj.TDI_RESAMPLE.EN != 0 &&
    (List.range (fieldOf ws Obj.TDI_RESAMPLE.OUT_W)).any fun i => let x := resampleX ws i; decide (x < 0) || decide (((wb : Int) - 1) * 65536 < x)

/-- The words of TDI_STATUS (Table 8.4). -/
def tdiStatusWords (d : Dev) : List Word :=
  let x := d.tdi
  packF 9 [(Obj.TDI_STATUS.OPEN_LINES, min 257 (x.lines.length + (if 1 < rowsOf d then d.hdl.packQ.length else 0))), fb Obj.TDI_STATUS.HELD x.held, (Obj.TDI_STATUS.NEED, tdiNeed d),
    (Obj.TDI_STATUS.LATE_DROP, x.lateDrop), (Obj.TDI_STATUS.CLIP_TDI, x.clip), (Obj.TDI_STATUS.LEDGER_OVF, x.ledgerOvf), (Obj.TDI_STATUS.ZERO_W, x.zeroW),
    (Obj.TDI_STATUS.POS_FALLBACK, x.fallback), (Obj.TDI_STATUS.PARTIAL_LINES, x.partials), (Obj.TDI_STATUS.LOWEST_OPEN, if 1 < rowsOf d then lowestOpen d else x.lowest),
    (Obj.TDI_STATUS.REBUILD_INDEX, x.rebuild), (Obj.TDI_STATUS.FILL_LINES, fillLines d)]

end Sys2Proof.Machine
end

