-- ==== Sys2Proof/Machine/Heddle.lean ====
section
/-! DEFINITION. Heddle's steps 1 to 5 and the values of step 7 (chapter 7): lane mapping, correction, defect substitution, packing, banks. -/

namespace Sys2Proof.Machine

/-! The correction arithmetic (R151 to R153). -/

/-- The table address of a pixel (chapter 7). -/
def HdlSet.addr (x : HdlSet) (ph row col : Nat) : Nat := (x.tp ph * x.crows + row * x.crows / max 1 x.rows) * x.width + col

/-- Linearity point P[k] of table t (R158); a table never loaded is the identity. -/
def HdlSet.point (x : HdlSet) (t k : Nat) : Int :=
  let ws := Sparse.get [] x.lin t
  if ws = [] then 16 * (k : Int) else (getBits ws (16 * k) 16 : Int)

def linIndex (y1 : Int) : Nat := (clampI 0 4094 (y1 / 16)).toNat

/-- Linearity correction (R152). -/
def linearize (x : HdlSet) (t : Nat) (y1 : Int) : Int :=
  if t = 127 then y1
  else
    let k := linIndex y1
    let f := y1 - 16 * (k : Int)
    clampI (-131072) 131071 (x.point t k + rnd ((x.point t (k + 1) - x.point t k) * f) 4)

/-- The total gain Gt of R153. -/
def totalGain (gain shade pg : Nat) : Nat := min 0x3FFFF ((((gain * shade + 8192) / 16384) * pg + 8192) / 16384)

def sat24 (v : Int) : Int := clampI (-8388608) 8388607 v

/-- y3 before saturation (R153). -/
def gainStep (y2 : Int) (g : Nat) : Int := rnd (y2 * g) 10

/-! Uncorrectable words (R163). -/

/-- The poisoned words that a pixel's correction reads, in the order of the steps: map words, its correction entry, linearity points. -/
def ueWords (x : HdlSet) (a : Nat) (si : Nat) (s : Seg) (y1 : Int) : List (Nat × Nat) :=
  let lin := if s.lin = 127 then [] else [(1, s.lin * 2048 + linIndex y1 / 2), (1, s.lin * 2048 + (linIndex y1 + 1) / 2)]
  (([(3, 0), (3, 1)] ++ (List.range 4).map (fun i => (3, 2 + 4 * si + i)) ++ [(0, a)] ++ lin).eraseDups).filter fun p => x.poison.contains p

/-- Line k meets a poisoned word. -/
def meetUe (k : Nat) (w : Nat × Nat) (d : Dev) : Dev :=
  let first := !((heldLine k d).map (·.ue)).getD true
  let d := d.uHdl fun h => { h with ueAddr := w.2 % 16777216, ueTable := w.1, ueCount := if first then sat16 h.ueCount else h.ueCount
                                    lines := h.lines.map fun l => if l.k = k then { l with ue := true } else l }
  flagLine k FL.DEGRADED d

/-- A table read of the bank of line k finds an error. -/
def tableRead (err : TableErr) (b : Bool) (k : Nat) (d : Dev) : Dev :=
  match err with
  | .none => d
  | .corrected => raise 225 (d.uHdl fun h => { h with ceCount := sat16 h.ceCount })
  | .poisoned t a =>
    let x := bankSet b d
    if x.poison.contains (t.val, a) then d
    else faultRaise 5 226 (some k) St.HW_FAULT (raise 226 (setBank b { x with poison := x.poison ++ [(t.val, a)] } d))

/-! Lines in Heddle (R148). -/

def insertLine (l : HLine) : List HLine → List HLine
  | [] => [l]
  | x :: xs => if l.k < x.k then l :: x :: xs else x :: insertLine l xs

/-- A sample of line k, which would be a fifth, closes the incomplete held line with the lowest index (R148); where all four are complete and
packing is stalled, line k itself finds the hold full and is closed (R237). Answers whether it is. -/
def forceClose (k : Nat) (d : Dev) : Bool × Dev :=
  if d.hdl.lines.length < 4 then (false, d)
  else
    let d := raise 230 (d.uHdl fun h => { h with forced := sat16 h.forced })
    match d.hdl.lines.find? fun l => !l.complete d with
    | some l => (false, flagLine l.k FL.DEGRADED (d.uHdl fun h => { h with lines := h.lines.map fun x => if x.k = l.k then { x with forced := true } else x }))
    | none => (true, flagLine k FL.DEGRADED d)

/-- Line k gets its first pixel: it is held, with the bank, phase gain and SHADE entries it is corrected with (R148, R154, R155, R167). -/
def holdLine (k ph : Nat) (d : Dev) : Dev :=
  if (heldLine k d).isSome then d
  else
    let (forced, d) := forceClose k d
    let b := bankOfLine k d
    let tp := (bankSet b d).tp ph
    let fresh := shadeFresh k d
    let d := if fresh || (settlingCols tp d).isEmpty then d else flagLine k FL.SETTLING d
    let d := updLine k (fun l => { l with pgEpoch := d.hdl.pgEpoch }) d
    let l : HLine := { k, phase := ph, bank := b, pg := at' d.hdl.pg ph 0x4000, shade := if fresh then [] else at' d.hdl.shade tp [], forced }
    d.uHdl fun h => { h with lines := insertLine l h.lines }

/-- DARK and GAIN at an address; an entry that was never loaded is undefined: a free value (R157, assumption log 3). -/
def entryOf (x : HdlSet) (a : Nat) (d : Dev) : Nat × Dev :=
  match Sparse.get none x.tab a with
  | some e => (e, d)
  | none => (d.free 32, d.drawn)

/-- A sample takes its place in its line: steps 1 to 4 (R144 to R153). -/
def placeSample (s : Sample) (ph si : Nat) (seg : Seg) (d : Dev) : Dev :=
  match heldLine s.line d with
  | none => d
  | some l =>
    let x := bankSet l.bank d
    let (row, ci) := seg.place s.j
    let col := ci.toNat
    let pos := row * x.width + col
    if l.forced || (Sparse.get none l.px pos).isSome then d
    else
      let rng := if seg.rchk && !s.subst then
          (if cfg Obj.HDL_CTL.DIG_HI d ≤ s.code then 1 else if s.code ≤ cfg Obj.HDL_CTL.DIG_LO d then 2 else 0)
        else s.rng
      let d := if seg.rchk && !s.subst && (rng == 1 || rng == 2) then countOut l.k rng true d else d
      let a := x.addr ph row col
      let (e, d) := entryOf x a d
      let y1 : Int := (s.code : Int) - (e % 65536 : Nat)
      let y2 := linearize x seg.lin y1
      let gain := e / 65536
      let y3 := gainStep y2 (totalGain gain (Sparse.get 0x4000 l.shade col) l.pg)
      let ue := ueWords x a si seg y1
      let d := each ue (meetUe l.k) d
      let clip := sat24 y3 != y3
      let p : HPix := { y3 := sat24 y3, yu := sat24 (gainStep y2 gain), rng, invalid := s.subst || !ue.isEmpty }
      let d := if clip && !l.clip then d.uHdl fun h => { h with clipGain := sat16 h.clipGain } else d
      d.uHdl fun h => { h with lines := h.lines.map fun y => if y.k = l.k then { y with px := Sparse.set none y.px pos (some p), clip := y.clip || clip } else y }

/-- A sample of a line that has left step 5 is discarded; it counts if no segment claims it (R146). -/
def lateSample (s : Sample) (d : Dev) : Dev :=
  if ((bankSet (bankOfLine s.line d) d).segFor s.stream s.j).isNone then d.uHdl fun h => { h with unmapped := sat16 h.unmapped } else d

/-- HEDDLE_SAMPLE: the oldest sample on its way arrives at Heddle; err, what the table reads it causes find (R144, R146, R163). A sample of a
priming line, or of a line from the resume index on, is discarded before the statistics unit counts it (R150, R269). -/
def heddleSample (err : TableErr) (d : Dev) : Dev :=
  match d.hdl.inq with
  | [] => d
  | s :: rest =>
    let d := d.uHdl fun h => { h with inq := rest }
    if primes s.line d || (d.hdl.discardFrom.map fun r => decide (r ≤ s.line)).getD false then d
    else
      let d := histRaw s.stream s.line s.code d
      match lineRec s.line d with
      | none => lateSample s d
      | some rec =>
        if rec.passed then lateSample s d
        else
          let b := bankOfLine s.line d
          match (bankSet b d).segFor s.stream s.j with
          | none => d.uHdl fun h => { h with unmapped := sat16 h.unmapped }
          | some (si, seg) => placeSample s rec.phase si seg (tableRead err b s.line (holdLine s.line rec.phase d))

/-! Defect substitution (R159). -/

/-- A source pixel: not INVALID, neither by its sample nor by the defect list. -/
def sourcePix (l : HLine) (x : HdlSet) (row : Nat) (col : Int) : Option (Int × Nat) :=
  if col < 0 ∨ (x.width : Int) ≤ col then none
  else match Sparse.get none l.px (row * x.width + col.toNat) with
    | some p => if p.invalid || listed x row col.toNat then none else some (p.y3, p.rng)
    | none => none

/-- The nearest source on one side within reach: distance, value, RANGE. -/
def nearest (l : HLine) (x : HdlSet) (row col reach : Nat) (right : Bool) : Option (Nat × Int × Nat) :=
  (List.range reach).findSome? fun (i : Nat) =>
    let dd : Int := if right then ((i + 1 : Nat) : Int) else -((i + 1 : Nat) : Int)
    (sourcePix l x row ((col : Int) + dd)).map fun p => (i + 1, p.1, p.2)

/-- Rule 0. -/
def interpolate (l : HLine) (x : HdlSet) (row col reach : Nat) : Option (Int × Nat) :=
  match nearest l x row col reach false, nearest l x row col reach true with
  | some (dl, vl, rl), some (dr, vr, rr) => some ((vl * dr + vr * dl + ((dl + dr) / 2 : Nat)) / ((dl + dr : Nat) : Int), rngOf [rl, rr])
  | some (_, v, r), none => some (v, rngOf [r])
  | none, some (_, v, r) => some (v, rngOf [r])
  | none, none => none

/-- A substituted value under a rule (Table 7.2). -/
def substValue (rule : Nat) (l : HLine) (x : HdlSet) (row col reach : Nat) : Option (Int × Nat) :=
  let zero := interpolate l x row col reach
  match rule with
  | 1 => match nearest l x row col reach false with | some (_, v, r) => some (v, rngOf [r]) | none => zero
  | 2 => match nearest l x row col reach true with | some (_, v, r) => some (v, rngOf [r]) | none => zero
  | 3 =>
    let up := if row = 0 then none else sourcePix l x (row - 1) col
    let down := if row + 1 < x.rows then sourcePix l x (row + 1) col else none
    match up, down with
    | some (a, r), some (b, q) => some (rnd (a + b) 1, rngOf [r, q])
    | some (a, r), none => some (a, rngOf [r])
    | none, some (b, q) => some (b, rngOf [q])
    | none, none => zero
  | _ => zero

/-- One pixel after step 5: value, RANGE, EXCLUDE, and whether it was filled without a source. -/
def finalPixel (l : HLine) (x : HdlSet) (sub reach fill row col : Nat) : Int × Nat × Bool × Bool :=
  match sourcePix l x row col with
  | some (y, r) => (y, r, false, false)
  | none =>
    let rule := match x.goodDefects.find? fun e => defKey e == col + 32768 * row with
      | some e => defRule e
      | none => sub
    let ex := rule == 4 && decide (1 < x.rows)
    match substValue rule l x row col reach with
    | some (v, r) => (v, r, ex, false)
    | none => (16 * (fill : Int), 0, ex, true)

/-- The poisoned entries of the defect list, each of which names a pixel of every line (R163). -/
def poisonedDefects (x : HdlSet) : List (Nat × Nat) := ((List.range x.defects.length).map fun i => (2, i)).filter fun p => x.poison.contains p

/-- The complete line with the lowest index that may leave step 5 (R149). -/
def nextDone (d : Dev) : Option (LineRec × HLine) :=
  let low := (openLines d).foldl (fun (b : Option LineRec) l => match b with | none => some l | some m => if l.k < m.k then some l else b) none
  match low with
  | none => none
  | some r =>
    match heldLine r.k d with
    | some l => if l.complete d then some (r, l) else none
    | none => none

/-- Step 5 of line l: its rows, and what the line and Heddle's counters record. -/
def stepFive (l : HLine) (d : Dev) : List PixRow × Dev :=
  let x := bankSet l.bank d
  let d := each (poisonedDefects x) (meetUe l.k) d
  let sub := cfg Obj.HDL_CTL.SUBST_RULE d; let reach := cfg Obj.HDL_CTL.REACH d; let fill := cfg Obj.HDL_CTL.FILL d
  let px := (List.range x.rows).map fun r => (List.range x.width).map fun c => finalPixel l x sub reach fill r c
  let filled := px.any fun row => row.any fun p => p.2.2.2
  let d := if filled then flagLine l.k FL.DEGRADED (d.uHdl fun h => { h with filled := sat16 h.filled }) else d
  let d := if d.hdl.unlisted.any fun e => x.inGrid e && !x.hasDefect e then flagLine l.k FL.DEGRADED d else d
  (px.map fun row => row.map fun p => (p.1, p.2.1, p.2.2.1), d)

/-- HEDDLE_LINE_DONE: the next line in index order leaves step 5 (R149), and enters step 6. -/
def heddleLineDone (d : Dev) : Dev :=
  match nextDone d with
  | none => d
  | some (_, l) =>
    let x := bankSet l.bank d
    match (if x.rows ≤ 1 then some [] else rowPositions l.k l.phase d) with
    | none => d
    | some pos =>
      let (rows, d) := stepFive l d
      let d := markCompared l.k (swapResets (fun n => decide (n ≤ l.k)) d)
      match lineRec l.k d with
      | none => d
      | some rec =>
        let d := shadeStep (x.tp l.phase) (formFigures ((histShading l (statCommit l rec d)).uStat fun s => { s with left := s.left ++ [l.k] }))
        let d := updLine l.k (fun r => { r with passed := true }) d
        let d := drainEnd (d.uHdl fun h => { h with lines := h.lines.filter fun y => y.k != l.k, lastPassed := some l.k })
        if x.rows ≤ 1 then
          let v := reshape rec.resamp ((rows.headD []).map fun p => (p.1, p.2.1)) d
          d.uHdl fun h => { h with packQ := h.packQ ++ [{ k := l.k, v }] }
        else tdiAccumulate l.k l.phase rows pos rec.flags rec.ovr rec.undr rec.pgEpoch d

/-- Every line that is complete leaves step 5 at once (R150). -/
def finishComplete : Nat → Dev → Dev
  | 0, d => d
  | n + 1, d => if (nextDone d).isNone then d else finishComplete n (heddleLineDone d)

/-! Packing (R168, R169). -/

/-- Bits of an output pixel. -/
def outBits (d : Dev) : Nat := at' [8, 10, 12, 16, 32] (cfg Obj.HDL_CTL.FORMAT d) 16

/-- Output pixels per line (R202, R203). -/
def outPixels (d : Dev) : Nat :=
  if cfgB Obj.TDI_RESAMPLE.EN d then cfg Obj.TDI_RESAMPLE.OUT_W d else widthOf d / max 1 (cfg Obj.TDI_CTL.BIN d)

/-- One output pixel: OUT, and whether a clamp acted on a value computed from V (R168). -/
def packPixel (v : Int) (rng : Nat) (d : Dev) : Int × Bool :=
  let b := outBits d
  let ofs := 16 * cfgS Obj.HDL_CTL.OUT_OFS d
  let force := cfgB Obj.HDL_CTL.RANGE_FORCE d
  if b = 32 then
    if force && rng == 1 then (2147483647, false) else if force && rng == 2 then (-2147483648, false)
    else let w := v + ofs; (satS32 w, satS32 w != w)
  else
    let top : Int := 2 ^ b - 1
    if force && rng == 1 then (top, false) else if force && rng == 2 then (0, false)
    else let w := rnd (v + ofs) (4 + cfg Obj.HDL_CTL.RSHIFT d); (clampI 0 top w, clampI 0 top w != w)

/-- The payload length in bytes, padded to 32 (R169). -/
def paddedBytes (pixels bits : Nat) : Nat := ((pixels * bits + 7) / 8 + 31) / 32 * 32

/-- The payload words of output pixels, a little-endian bit stream padded with zeros (R169). -/
def payloadWords (out : List Int) (bits : Nat) : List Word :=
  let words := paddedBytes out.length bits / 4
  let per := if bits = 10 then 16 else if bits = 12 then 8 else 32 / bits
  let unit := per * bits / 32
  let groups := (List.range ((words + unit - 1) / max 1 unit)).map fun g =>
    wordsOfNat unit ((((out.drop (g * per)).take per).map (ofS bits)).foldr (fun v a => v + a * 2 ^ bits) 0)
  groups.flatten.take words

/-! Phase gains (R154). -/

def phaseGain (p : Nat) (d : Dev) : Nat := min 0xFFFF ((cfg (Obj.HDL_PHASE.USER_GAIN p) d * at' d.hdl.comp p 0x4000 + 8192) / 16384)

/-- At a line start the changed phase gains take effect (R154). -/
def phaseGainStart (d : Dev) : Dev :=
  let new := (List.range 8).map fun p => phaseGain p d
  let changed := (List.range (phasesOf d)).any fun p => at' new p 0 != at' d.hdl.pg p 0
  let d := d.uHdl fun h => { h with pg := new, pgEpoch := if changed then wrap32 (h.pgEpoch + 1) else h.pgEpoch }
  if changed then raise 229 d else d

/-! Banks (R164 to R167). -/

/-- Defects that were logged but not inserted are done with once the live list includes them (R161). -/
def dropListed (d : Dev) : Dev := d.uHdl fun h => { h with unlisted := h.unlisted.filter fun e => !(liveSet d).hasDefect e }

/-- The banks change roles at line k (R167). -/
def bankSwap (k : Nat) (d : Dev) : Dev :=
  dropListed (drainEnd (raise 224 (d.uHdl fun h => { h with live := !h.live, bankEpoch := wrap16 (h.bankEpoch + 1), swapLine := k, loadState := 3
                                                            resets := h.resets ++ [(k, h.shadeReset)], shadeReset := false })))

/-- At the line start of line k at instant t a staged set goes live, but for one whose STAGE completed in the same 750 MHz cycle (R166). -/
def bankLineStart (k : Nat) (boundary : Bool) (t : Nat) (d : Dev) : Dev :=
  if d.hdl.loadState = 2 ∧ (d.hdl.atLine || boundary) ∧ stagedLate t 0x1505 d = false then bankSwap k d else drainEnd d

/-- A set goes live while no line runs (R166): in CALIBRATE and READY, and a staged set on entry to READY. -/
def bankSwapNow (d : Dev) : Dev := swapResets (fun _ => true) ((bankSwap 0 d).uHdl fun h => { h with loadState := 0, swapLine := 0 })

/-- On entry to READY (R166, R167). -/
def bankReady (d : Dev) : Dev :=
  if d.hdl.loadState = 2 then bankSwapNow d
  else swapResets (fun _ => true) (d.uHdl fun h => { h with swapLine := 0, loadState := if h.loadState = 3 then 0 else h.loadState })

/-- HDL_COPY_DONE: the copy of the live set into the load bank ends (R165). -/
def hdlCopyDone (d : Dev) : Dev :=
  if d.hdl.loadState = 1 then
    let w : Option Who := d.hdl.copyMbx.map fun x => { mbx := x.1, tag := x.2.1, op := Op.OBJ_WRITE, sess := x.2.2 }
    let d := setBank (!d.hdl.live) (liveSet d) (d.uHdl fun h => { h with loadState := 0, copyMbx := none })
    finish? w St.OK 0x1505 [] (raise 232 d)
  else d

/-- The segment that first offends against R145; 0xFFFF_FFFF where a position is left out. -/
def segOffender (x : HdlSet) : Option Nat :=
  let segs := mapIx (fun i s => (i, s)) x.segList
  let step (a : Option Nat × List Nat × List Seg) (p : Nat × Seg) : Option Nat × List Nat × List Seg :=
    match a.1 with
    | some _ => a
    | none =>
      let s := p.2
      let clash := a.2.2.any fun q => q.stream == s.stream && decide (q.j < s.j + s.n) && decide (s.j < q.j + q.n)
      let (bad, used) := (List.range s.n).foldl (fun (b : Bool × List Nat) i =>
        if b.1 then b
        else
          let (r, c) := s.place (s.j + i)
          let pos := r * x.width + c.toNat
          if c < 0 ∨ (x.width : Int) ≤ c ∨ x.rows ≤ r ∨ b.2.contains pos then (true, b.2) else (false, pos :: b.2)) (false, a.2.1)
      (if clash || bad then some p.1 else none, used, s :: a.2.2)
  match segs.foldl step (none, [], []) with
  | (some i, _, _) => some i
  | (none, used, _) => if used.length < x.width * x.rows then some 0xFFFFFFFF else none

/-- The defect list is in order, without duplicates, inside the grid (R160). -/
def defectsOk (x : HdlSet) : Bool :=
  x.defects.all x.inGrid && (x.defects.zip (x.defects.drop 1)).all fun p => decide (defKey p.1 < defKey p.2)

/-- TP of a set under the present PHASES (R156). -/
def HdlSet.tpCount (x : HdlSet) (d : Dev) : Nat := if x.tblPhases then phasesOf d else 1

/-- What rejects a STAGE action of its own (R145, R147, R156, R160). -/
def stageCheck (x : HdlSet) (d : Dev) : Option (Nat × Nat) :=
  let seg := segOffender x
  firstFail [(x.width == 0 || x.segs == 0, St.BAD_FIELD, 0), (seg.isSome, St.BAD_FIELD, seg.getD 0),
    (x.segList.any fun s => decide (64 ≤ s.lin) && s.lin != 127, St.BAD_FIELD, 0),
    (decide (3145728 < x.width * x.tpCount d * x.crows), St.BAD_FIELD, 0), (!defectsOk x, St.BAD_FIELD, 0)]

/-! Writes of the load bank (R164). -/

/-- The words of a table are loaded anew: they are poisoned no more (R163). -/
def unpoison (t lo n : Nat) (x : HdlSet) : HdlSet := { x with poison := x.poison.filter fun p => !(p.1 == t && decide (lo ≤ p.2) && decide (p.2 < lo + n)) }

def loadBank (f : HdlSet → HdlSet) (d : Dev) : Dev :=
  let d := setBank (!d.hdl.live) (f (loadSet d)) d
  if d.hdl.bank.all fun x => x.poison.isEmpty then faultClear 5 d else d

/-- The load bank accepts writes only in LOAD_STATE 0. -/
def loadBusy (d : Dev) : Option (Nat × Nat) := firstFail [(d.hdl.loadState != 0, St.BUSY, 0)]

/-- What rejects a write of HDL_MAP of its own (R174 to R175). -/
def hdlMapCheck (ws : List Word) (_ : Dev) : Option (Nat × Nat) :=
  let x : HdlSet := { map := ws }
  let bad (i : Nat) : Bool :=
    let f (off wid : Nat) : Nat := getBits ws (64 + 128 * i + off) wid
    let s := segOf ws i
    decide (351 < s.stream) || f 9 3 != 0 || f 28 4 != 0 || s.n == 0 || f 79 1 != 0 || s.stride == 0 || f 88 8 != 0 || s.run == 0 || decide (32768 < s.run) ||
      f 112 16 != 0 || (s.rchk && decide (s.stream < 64))
  firstFail [(decide (x.rows < x.crows), St.BAD_FIELD, 0), ((List.range x.segs).any bad, St.BAD_FIELD, 0)]

def hdlMapApply (ws : List Word) (d : Dev) : Dev := loadBank (fun x => unpoison 3 0 5000 { x with map := ws }) d

def hdlLinApply (t : Nat) (ws : List Word) (d : Dev) : Dev := loadBank (fun x => unpoison 1 (2048 * t) 2048 { x with lin := Sparse.set [] x.lin t ws }) d

/-- What rejects a write of HDL_TABLE (R176). -/
def hdlTableCheck (ws : List Word) (_ : Dev) : Option (Nat × Nat) :=
  firstFail [(decide (3145728 < fieldOf ws Obj.HDL_TABLE.START + fieldOf ws Obj.HDL_TABLE.COUNT), St.BAD_FIELD, 0)]

def hdlTableApply (ws : List Word) (d : Dev) : Dev :=
  let start := fieldOf ws Obj.HDL_TABLE.START
  let n := fieldOf ws Obj.HDL_TABLE.COUNT
  loadBank (fun x => unpoison 0 start n { x with tab := (mapIx (fun i w => (start + i, w)) ((ws.drop 2).take n)).foldl (fun m p => Sparse.set none m p.1 (some p.2.toNat)) x.tab }) d

/-- What rejects a write of HDL_DEFECT (R160). -/
def hdlDefectCheck (ws : List Word) (_ : Dev) : Option (Nat × Nat) :=
  firstFail [((ws.drop 1).any fun w => decide (4 < defRule w.toNat) || decide (67108864 ≤ w.toNat), St.BAD_FIELD, 0)]

def hdlDefectApply (ws : List Word) (d : Dev) : Dev :=
  loadBank (fun x => unpoison 2 0 8192 { x with defects := ((ws.drop 1).take (fieldOf ws Obj.HDL_DEFECT.COUNT)).map BitVec.toNat }) d

/-- What rejects a write of HDL_CTL (R174). -/
def hdlCtlCheck (ws : List Word) (_ : Dev) : Option (Nat × Nat) :=
  firstFail [(fieldOf ws Obj.HDL_CTL.FORMAT == 4 && fieldOf ws Obj.HDL_CTL.RSHIFT != 0, St.BAD_FIELD, 0),
    (decide (fieldOf ws Obj.HDL_CTL.DIG_HI ≤ fieldOf ws Obj.HDL_CTL.DIG_LO), St.BAD_FIELD, 0)]

/-- What rejects a write of HDL_DEF_ADD (R161). -/
def defAddCheck (ws : List Word) (d : Dev) : Option (Nat × Nat) :=
  let e := (ws.headD 0).toNat
  firstFail [(!(liveSet d).inGrid e || decide (4 < defRule e) || decide (67108864 ≤ e), St.BAD_FIELD, 0)]

/-! Reads and status. -/

def hdlLinWords (t : Nat) (d : Dev) : List Word :=
  let ws := Sparse.get [] (loadSet d).lin t
  if ws = [] then (List.range 2048).map fun i => BitVec.ofNat 32 (32 * i + 65536 * ((32 * i + 16) % 65536)) else ws

def hdlDefectWords (d : Dev) : List Word :=
  BitVec.ofNat 32 (loadSet d).defects.length :: (loadSet d).defects.map (BitVec.ofNat 32)

/-- The number of entries a read of HDL_TABLE returns (R176). -/
def hdlTableCount (d : Dev) : Nat :=
  let x := loadSet d
  let n := x.width * x.tpCount d * x.crows
  if x.width = 0 ∨ 3145728 < n then 3145728 else n

/-- The words of a read of HDL_TABLE; an entry never loaded reads a free value. -/
def hdlTableWords (d : Dev) : List Word :=
  let x := loadSet d
  let n := hdlTableCount d
  [0, BitVec.ofNat 32 n] ++ (List.range n).map fun a => match Sparse.get none x.tab a with | some e => BitVec.ofNat 32 e | none => Config.freeWord (d.seed + a)

def hdlTableDrawn (d : Dev) : Dev := { d with seed := d.seed + hdlTableCount d }

/-- The words of HDL_SHADE (R181). -/
def hdlShadeWords (d : Dev) : List Word :=
  let vs := (List.range (tpOf d)).flatMap fun tp => (List.range (widthOf d)).map fun c => shadeOf tp c d
  (List.range ((vs.length + 1) / 2)).map fun i => BitVec.ofNat 32 (at' vs (2 * i) 0 + 65536 * at' vs (2 * i + 1) 0)

def defLogWords (d : Dev) : List Word := BitVec.ofNat 32 d.hdl.defLog.length :: d.hdl.defLog.map (BitVec.ofNat 32)
def defLogClear (d : Dev) : Dev := d.uHdl fun h => { h with defLog := [] }

/-- The words of HDL_STATUS (Table 7.13). -/
def hdlStatusWords (d : Dev) : List Word :=
  let h := d.hdl
  packF 12 ([(Obj.HDL_STATUS.LOAD_STATE, h.loadState), fb Obj.HDL_STATUS.LIVE_BANK h.live, fb Obj.HDL_STATUS.DEF_FULL h.defFull,
    (Obj.HDL_STATUS.DEF_COUNT, (liveSet d).defects.length), (Obj.HDL_STATUS.BANK_EPOCH, h.bankEpoch), (Obj.HDL_STATUS.UNMAPPED, h.unmapped),
    (Obj.HDL_STATUS.CE_COUNT, h.ceCount), (Obj.HDL_STATUS.UE_COUNT, h.ueCount), (Obj.HDL_STATUS.FORCED, h.forced), (Obj.HDL_STATUS.FILLED, h.filled),
    (Obj.HDL_STATUS.CLIP_GAIN, h.clipGain), (Obj.HDL_STATUS.CLIP_PACK, h.clipPack), (Obj.HDL_STATUS.DEF_LOST, h.defLost),
    (Obj.HDL_STATUS.DEF_ADDED, h.defAdded), (Obj.HDL_STATUS.PG_EPOCH, h.pgEpoch), (Obj.HDL_STATUS.UE_ADDR, h.ueAddr), (Obj.HDL_STATUS.UE_TABLE, h.ueTable)] ++
    mapIx (fun p v => (Obj.HDL_STATUS.COMP p, v)) h.comp)

def hdlStatusClear (d : Dev) : Dev := d.uHdl fun h => { h with defFull := false }

end Sys2Proof.Machine
end

