-- ==== Sys2Proof/Machine/Pacing.lean ====
section
/-! DEFINITION. The pacing unit (chapter 11): fills of Skein and Reel, the pacing law, stops, the restart line, park, run-up, priming lines,
seams, and its status. -/

namespace Sys2Proof.Machine

def queueAt (q : Nat) (d : Dev) : Queue := at' d.skn.queue q {}
def updQueue (q : Nat) (f : Queue → Queue) (d : Dev) : Dev := d.uSkn fun s => { s with queue := upd s.queue q f }
def storeAt (s : Nat) (d : Dev) : Store := at' d.skn.store s {}
def updStore (s : Nat) (f : Store → Store) (d : Dev) : Dev := d.uSkn fun x => { x with store := upd x.store s f }

/-! Fills (R232, R243, R248). -/

def qRole (q : Nat) (d : Dev) : Nat := cfg (Obj.SKN_QUEUE.ROLE q) d
def qCap (q : Nat) (d : Dev) : Nat := 256 * cfg (Obj.SKN_QUEUE.SIZE q) d
def qDepth (q : Nat) (d : Dev) : Nat := (queueAt q d).q.length
def storeEn (s : Nat) (d : Dev) : Bool := cfgB (Obj.REEL_LS.EN s) d
def queueIn (s : Nat) (d : Dev) : Nat := cfg (Obj.REEL_LS.QUEUE_IN s) d
/-- Size of a line store in 32-byte units; a store that is not enabled has none. -/
def storeSize (s : Nat) (d : Dev) : Nat := if storeEn s d then cfg (Obj.REEL_LS.REGIONS s) d * 67108864 else 0
/-- USED in 32-byte units (R248): the records, the one being written, and those allocated to lines in assembly (R456). -/
def storeUsed (s : Nat) (d : Dev) : Nat :=
  let x := storeAt s d
  (x.recs.map fun r => r.words.length).sum + (match x.writing with | some w => w.words.length | none => 0) +
    ((d.krm.stitch.filter fun l => l.store == s).map (·.units)).sum
/-- FREE in 32-byte units (R248). -/
def storeFree (s : Nat) (d : Dev) : Nat := storeSize s d - storeUsed s d
/-- MiB in 32-byte units. -/
def mib (n : Nat) : Nat := 32768 * n
def guardOf (s : Nat) (d : Dev) : Nat := mib (cfg (Obj.REEL_LS.GUARD s) d)
def enabledStores (d : Dev) : List Nat := (List.range 4).filter fun s => storeEn s d
/-- TAIL_INDEX (R248). -/
def tailIndex (s : Nat) (d : Dev) : Nat :=
  let x := storeAt s d
  match x.recs with
  | r :: _ => r.k
  | [] => if x.recNone then 0 else x.lastIndex + 1
/-- REWIND_INDEX (R250). -/
def rewindIndex (s : Nat) (d : Dev) : Nat :=
  if (storeAt s d).recNone then 0 else if 1 < rowsOf d then min (tailIndex s d) (lowestOpen d) else tailIndex s d
/-- The condition of R268 for causes 1 and 2: ABOVE = 0 and XOFF = 0 on every enabled store. -/
def fillsLow (d : Dev) : Bool := (enabledStores d).all fun s => !(storeAt s d).above && !(storeAt s d).xoff

/-! The pacing law (R258, R259). Speeds in 10^-5 counts/s. -/

def spd : Nat := 100000
def vSet5 (d : Dev) : Nat := spd * vSet d
def vHold5 (d : Dev) : Nat := vSet d * cfg Obj.PACE_CTL.HOLD_FACTOR d * spd / 256

/-- A taper term v_set · num / den; with den 0 the spec states no value: a free one (assumption log 3). -/
def taper (num den : Int) (d : Dev) : Int × Dev :=
  if den = 0 then ((spd * d.free 27 : Nat), d.drawn) else ((vSet5 d : Int) * num / den, d)

/-- v_f: the fill taper over every enabled store and its inbound queue. -/
def fillTaper (d : Dev) : Int × Dev :=
  (enabledStores d).foldl (fun a s =>
    let (vf, d) := a
    let (vf, d) :=
      if mib (cfg (Obj.REEL_LS.WM_HIGH s) d) < storeUsed s d then
        let top : Int := (storeSize s d : Int) - guardOf s d
        let (v, d) := taper (top - storeUsed s d) (top - mib (cfg (Obj.REEL_LS.WM_HIGH s) d)) d
        (min vf v, d)
      else (vf, d)
    let q := queueIn s d
    let high := cfg (Obj.SKN_QUEUE.WM_HIGH q) d
    if high < qDepth q d then
      let (v, d) := taper ((qCap q d : Int) - qDepth q d) ((qCap q d : Int) - high) d
      (min vf v, d)
    else (vf, d)) ((vSet5 d : Int), d)

/-- t_r in µs: 12, or 14 in a scan group (R259). -/
def reactUs (d : Dev) : Nat := if d.krm.member then 14 else 12

/-- v_b: the braking curve. -/
def brakeCurve (d : Dev) : Nat :=
  (enabledStores d).foldl (fun vb s =>
    let lines := (32 * (storeFree s d - guardOf s d)) / max 1 d.pace.recBytes
    let dist := lines * pitch d * 1000000 - vSet d * reactUs d * 256
    min vb (isqrt (vHold5 d * vHold5 d + 2 * cfg Obj.PACE_CTL.A_PACE d * dist * 625 / 16))) (vSet5 d)

/-- v_d of this device. -/
def ownDemand (d : Dev) : Nat × Dev :=
  let (vf, d) := fillTaper d
  ((clampI 0 (min (vSet5 d) (brakeCurve d)) vf).toNat, d)

/-- v_d, in a scan group the lowest of the group on the member whose AXIS names an axis (R259). -/
def demand (d : Dev) : Nat × Dev :=
  let (vd, d) := ownDemand d
  (if (paceAxis d).isSome then d.krm.paceVd.foldl (fun v x => min v (spd * x.2.1)) vd else vd, d)

/-- Motion that the PX7240 cannot command: an external axis, or time mode (R272). -/
def externalMotion (d : Dev) : Bool := (paceAxis d).isNone || timeMode d

/-- F in 2^-16 from a speed. -/
def factorOf (v : Nat) (d : Dev) : Nat := min 65536 (v * 65536 / vSet5 d)

/-- The commanded speed takes a value, and F with it. -/
def setVc (v : Nat) (d : Dev) : Dev := d.uPace fun p => { p with vc := v, factor := factorOf v d }

/-! Restart line (R265, R271). -/

/-- The lowest of this device's values of R265 that apply. -/
def ownRestart (d : Dev) : Nat :=
  let p := d.pace
  let first := d.tdi.first.getD 0
  let stores := (enabledStores d).filterMap fun s =>
    let x := storeAt s d
    if x.refusing then some (if 1 < rowsOf d then max (x.firstRefused - fillLines d) first else x.firstRefused) else none
  let rest := stores ++ p.rebuild.toList ++ p.srcFirst.toList
  match d.hdl.resume with
  | some r => rest.foldl min r
  | none => match rest with | [] => d.spn.next | x :: xs => xs.foldl min x

/-- K_r: in a group, on the member whose AXIS names an axis, the lowest value that any member reports (R454). -/
def restartLine (d : Dev) : Nat :=
  if (paceAxis d).isSome then (d.krm.paceVd.filterMap fun x => if x.2.2.2 = 0 then none else some (x.2.2.2 - 1)).foldl min (ownRestart d)
  else ownRestart d

/-- The first line that this device keeps after the priming lines: K_r, in a group its own value of R265 (R454). -/
def keepFrom (d : Dev) : Nat := if d.krm.member then max d.pace.kr (ownRestart d) else d.pace.kr

/-- Microsteps of the paced axis for a distance in sub-counts. -/
def stepsOf (dd : Int) (d : Dev) : Int := (if timeMode d then 1 else dirSign d) * dd * cfgS Obj.PACE_CTL.STEP_RATIO d / 16777216

/-- d_park in sub-counts for a resume at the speed v5 (R266). -/
def parkDist (v5 : Nat) (d : Dev) : Int :=
  let a := 2 * cfg Obj.PACE_CTL.A_PACE d
  ((d.pace.kr : Int) - cfg Obj.PACE_CTL.PRE_LINES d) * (pitch d : Int) -
    (256 * (v5 * cfg Obj.PACE_CTL.SETTLE d * a + v5 * v5 * 10) / (a * 100000000000) : Nat)

/-- A move of the pacing unit on its axis. -/
def paceMoveTo (n : Nat) (target : Int) (v5 a : Nat) (d : Dev) : Dev :=
  let m : Move := { start := (axisAt n d).p, target, vMax := axisSpeed v5 d, acc := axisAcc a d, dec := axisAcc a d, who := none }
  updAxis n (fun x => { x with paceMove := some m, rest := false, stop := none }) d

/-- The rewind begins: the axis moves to the park for a resume at the speed v5, or to its travel limit where that lies before it (R266, R267). -/
def beginRewind (n v5 : Nat) (d : Dev) : Dev :=
  let dp := parkDist v5 d
  let target := (axisAt n d).p + stepsOf (dp - dist d) d
  let goal := clampI (cfgS (Obj.SHU_AXIS.SOFT_MIN n) d) (cfgS (Obj.SHU_AXIS.SOFT_MAX n) d) target
  paceMoveTo n goal (vSet5 d) (cfg Obj.PACE_CTL.A_PACE d) (d.uPace fun p => { p with state := .rewinding, dPark := dp, vr := v5, parkShort := goal != target })

/-- The release of every refusing store is armed at L_rel (R271). -/
def armReleases (d : Dev) : Dev :=
  let kr := d.pace.kr
  let rows := rowsOf d
  each (enabledStores d) (fun s d => updStore s (fun x => if x.refusing then { x with release := some (if 1 < rows then x.firstRefused else kr) } else x) d) d

/-- The TDI engine's accumulators are cleared as R199 does, with FIRST_REFUSED in place of LOWEST_OPEN (R271), once for each such index. -/
def tdiOvertaken (first : Nat) (d : Dev) : Dev :=
  if d.tdi.lines.isEmpty && d.hdl.packQ.isEmpty && d.tdi.lowest == first && d.tdi.quietBelow == first then d
  else
    let r := max (first - fillLines d) (d.tdi.first.getD 0)
    let d := d.uTdi fun x => { x with lines := [], rows := [], frames := x.frames.filter fun j => decide (j < r), lowest := first, quietBelow := first }
    raise 246 (d.uHdl fun h => { h with packQ := [] })

/-- The lowest FIRST_REFUSED of the stores that refuse lines. -/
def lowestRefused (d : Dev) : Option Nat :=
  match (enabledStores d).filter fun s => (storeAt s d).refusing with
  | [] => none
  | s :: ss => some (ss.foldl (fun m t => min m (storeAt t d).firstRefused) (storeAt s d).firstRefused)

/-- K_r is fixed, and the releases are armed; with ROWS > 1 the TDI engine is made ready to build the refused lines anew (R265, R271). -/
def fixRestart (d : Dev) : Dev :=
  let kr := restartLine d
  let d := armReleases (d.uPace fun p => { p with kr })
  match lowestRefused d with
  | some first => if 1 < rowsOf d then tdiOvertaken first d else d
  | none => d

/-- K_r is judged anew while lines have stopped (R271, R276): an axis in the park parks again for a lower one, one that rewinds goes on to the new
park, and one that runs up brakes and parks again. -/
def repark (d : Dev) : Dev :=
  let lower := decide (restartLine d < d.pace.kr)
  match d.pace.state, paceAxis d with
  | .parked, some n | .rewinding, some n => if lower then let d := fixRestart d; beginRewind n (vSet5 d) d else armReleases d
  | .runUp, _ => brakeAxis (cfg Obj.PACE_CTL.A_STOP d) (d.uPace fun p => { p with state := .braking })
  | _, _ => d

/-- A store began to refuse lines (R271): under device-driven motion the mark is overtaken where the scan brakes on XOFF, and while lines have
stopped K_r is judged anew. -/
def markOvertaken (d : Dev) : Dev :=
  if externalMotion d then d
  else
    let d := if d.pace.cause = 2 then raise 380 (d.uPace fun p => { p with overtaken := sat16 p.overtaken }) else d
    if d.pwr.mode = .hold then repark d else d

/-! Stops (R262, R263, R276). -/

/-- XOFF is set on a store (cause 2): a device-driven scan brakes at A_STOP, and lines go on until v̂ falls to v_h. -/
def xoffBegin (d : Dev) : Dev :=
  if d.pwr.mode = .scan ∧ externalMotion d = false ∧ d.pace.xoffStop = false ∧ (d.pace.state = .running ∨ d.pace.state = .slowing) ∧ d.pwr.trans = .none then
    raise 383 (brakeAxis (cfg Obj.PACE_CTL.A_STOP d) (d.uPace fun p => { p with cause := 2, xoffStop := true, state := .braking }))
  else d

/-- A commanded HOLD while the device is in HOLD (R276): the automatic resume is cancelled; an axis that is running up brakes again. -/
def holdInHold (d : Dev) : Dev :=
  let d := finish? d.pwr.modeWho St.ABORTED 0 [] d
  let d := d.uPwr fun p => { p with modeWho := none }
  let d := if d.pace.state = .runUp then brakeAxis (cfg Obj.PACE_CTL.A_STOP d) d else d
  d.uPace fun p => { p with cause := 3, autoResume := false, state := if p.state = .runUp then .braking else p.state }

/-- A run-up is given up (R276): the axis brakes at A_STOP and parks again. -/
def abandonRunUp (cause : Nat) (d : Dev) : Dev :=
  if d.pace.state = .runUp then
    refreshPins (brakeAxis (cfg Obj.PACE_CTL.A_STOP d) (d.uPace fun p => { p with cause, autoResume := false, state := .braking }))
  else d

/-- The deceleration in force, per 10 µs: A_PACE under causes 1 and 6, else A_STOP (Table 11.2). -/
def brakeStep (d : Dev) : Nat :=
  if d.pace.cause = 1 ∨ d.pace.cause = 6 then cfg Obj.PACE_CTL.A_PACE d else cfg Obj.PACE_CTL.A_STOP d

/-! The park and the run-up (R266 to R269). -/

/-- PACE_AXIS_AT_REST: the axis is at rest in HOLD; K_r is fixed and the rewind begins (R263, R265 to R267). -/
def paceAxisAtRest (d : Dev) : Dev :=
  match paceAxis d with
  | none => d
  | some n =>
    if d.pwr.mode = .hold ∧ d.pwr.trans = .none ∧ d.pace.state = .braking ∧ (axisAt n d).atRest then
      let d := updAxis n (fun x => { x with paceMove := none, stop := none }) (setVc 0 (fixRestart d))
      beginRewind n (vSet5 d) d
    else d

/-- PACE_PARK_REACHED: the axis is parked; Spindle takes d_park as its reversal reference, and a new next index (R266, R267). -/
def paceParkReached (d : Dev) : Dev :=
  match paceAxis d with
  | none => d
  | some n =>
    let a := axisAt n d
    let there : Bool := match a.paceMove with | some m => a.p == m.target | none => true
    if d.pace.state = .rewinding ∧ a.atRest ∧ there then
      let next := d.pace.kr - cfg Obj.PACE_CTL.PRE_LINES d
      let d := updAxis n (fun x => { x with paceMove := none }) d
      let d := if d.pace.parkShort then raise 381 (d.uPace fun p => { p with shortRunup := true, parkShort := false }) else d
      let d := d.uSpn fun s => { s with dHigh := d.pace.dPark, reversed := false, revArmed := true, abortedIdx := none, next, line := none, tail := [] }
      d.uPace fun p => { p with state := .parked }
    else d

/-- The condition of R268 for a resume. -/
def mayResume (d : Dev) : Bool :=
  fillsLow d && d.pace.autoResume && (d.pace.cause != 6 || d.mnr.open_) &&
    (d.pace.cause == 1 || d.pace.cause == 2 || d.pace.cause == 6 || posValid d)

/-- A free value of 64 bits: the quantity that the spec does not give (assumption log 97). -/
def free64 (i : Nat) (d : Dev) : Nat := (Config.freeWord (d.seed + i)).toNat + 4294967296 * (Config.freeWord (d.seed + i + 1)).toNat

/-- Output lines a to b - 1, which Spindle does not start, are produced all the same over an external pause (R273); the spec gives them no
POSITION and no TIMESTAMP: free values (assumption log 97). -/
def unstarted (a b : Nat) (d : Dev) : Dev :=
  let f := cfg Obj.SPN_CTL.FRAME_LINES d
  each (List.range (b - a)) (fun i d =>
    let k := a + i
    let rec' : LineRec := {
      k, phase := k % phasesOf d, pos := toS 64 (free64 0 d), ts := free64 2 d, passed := true
      flags := (if 0 < f ∧ k % f = 0 then FL.FRAME_START else 0) ||| (if 0 < f ∧ k % f = f - 1 then FL.FRAME_END else 0)
      region := liveWords 0x1701 d, resamp := liveWords Obj.TDI_RESAMPLE.id d }
    { d with lines := (d.lines.filter fun r => r.k != k) ++ [rec'], seed := d.seed + 4 }) d

/-- A store that refuses lines under external motion is released once XOFF has cleared (R272). -/
def releaseExternal (d : Dev) : Dev :=
  each (enabledStores d) (fun s d =>
    let x := storeAt s d
    if x.refusing && !x.xoff && x.release.isNone then
      if 1 < rowsOf d then
        let l := lowestOpen d
        let miss := min 4294967295 (l - x.firstRefused)
        let d := updStore s (fun x => { x with release := some l }) d
        let d := flagLine l FL.SEAM (updLine l (fun r => { r with seamMissing := miss }) d)
        let d := raise 379 (d.uPace fun p => { p with seams := sat16 p.seams, seamLast := miss })
        if 0 < miss then postEvent 4 0 St.SEAM 379 (some l) [miss] d else d
      else
        let l := d.spn.next
        let d := updStore s (fun x => { x with release := some l }) d
        d.uPace fun p => { p with seamAt := some (l, match p.seamAt with | some (_, f) => min f x.firstRefused | none => x.firstRefused) }
    else d) d

/-- An external scan resumes (R273): Spindle starts with the first line that lies ahead of d, and the seam is marked. -/
def resumeExternal (d : Dev) : Dev :=
  let r := d.hdl.resume.getD d.spn.next
  let x := dist d
  let ahead : Nat := if x < 0 then 0 else (x / (pitch d : Int)).toNat + 1
  let k1 := max ahead r
  let d := if 1 < rowsOf d then unstarted (max r d.spn.next) k1 d else d
  let d := d.uSpn fun s => { s with next := k1, dHigh := x, reversed := false, revArmed := true, abortedIdx := none, line := none, tail := [] }
  let d := if 1 < rowsOf d then flagLine (lowestOpen d) FL.SEAM (d.uPace fun p => { p with seamLast := 0, seamDue := none })
    else linesMissing r d
  let d := releaseExternal (d.uHdl fun h => { h with resume := none, discardFrom := none })
  let w := d.pwr.modeWho
  let d := d.uPwr fun p => { p with modeWho := none }
  let d := d.uPace fun p => { p with state := .running, cause := 0, resume := none, srcFirst := none, rebuild := none, autoResume := true }
  finish? w St.OK 0 [] (setMode .scan d)

/-- PACE_RESUME: the resume condition holds and the run-up begins (R268); with external motion the scan goes on at once. An axis that is parked
for another speed than v_r first moves to the park for v_r (R266; assumption log 56). -/
def paceResume (d : Dev) : Dev :=
  if d.pwr.mode = .hold ∧ d.pwr.trans = .none ∧ mayResume d then
    if externalMotion d then resumeExternal d
    else
      match paceAxis d with
      | none => d
      | some n =>
        if d.pace.state = .parked then
          let (vf, d) := fillTaper d
          let vr := (clampI 0 (min (vSet5 d) (brakeCurve d)) vf).toNat
          if vr = 0 then d
          else if vr ≠ d.pace.vr then beginRewind n vr d
          else
            let a := cfg Obj.PACE_CTL.A_PACE d
            let far : Int := lineAt (d.pace.kr + 1) d + (256 * vr * vr / (2 * max 1 a * spd * spd) : Nat)
            let target := (axisAt n d).p + stepsOf (far - dist d) d
            paceMoveTo n target vr a (d.uPace fun p => { p with state := .runUp })
        else d
  else d

/-- The pacing unit's part in the start of line k (R260, R269, R270, R272 to R274): whether it is a priming line, and its FLAGS and
SEAM_MISSING. -/
def paceLineStart (k : Nat) (d : Dev) : Bool × Nat × Nat × Dev :=
  let running := (d.pace.state = .runUp ∨ d.pace.state = .priming) ∧ (d.pwr.mode = .hold ∨ d.pwr.mode = .scan)
  if running ∧ k < keepFrom d then
    (true, 0, 0, (setMode .scan d).uPace fun p => { p with state := .priming })
  else
    let d := if running then
        let d := setMode .scan d
        let d := match paceAxis d with
          | some n => updAxis n (fun x => { x with paceMove := none }) d
          | none => d
        let w := d.pwr.modeWho
        let d := finish? w St.OK 0 [] (d.uPwr fun p => { p with modeWho := none })
        let d := d.uHdl fun h => { h with resume := none, discardFrom := none }
        d.uPace fun p => { p with state := .running, cause := 0, verify := some (keepFrom d), resume := none, srcFirst := none, rebuild := none
                                  xoffStop := false, autoResume := true }
      else d
    let slow := !timeMode d && decide (speed d * 256 < vSet d * (256 - cfg Obj.PACE_CTL.SLOW_TOL d))
    let rel := match d.pace.seamAt with | some (l, f) => if l ≤ k then some f else none | none => none
    let first := match d.pace.seamDue, rel with
      | some a, some b => some (min a b)
      | some a, none => some a
      | none, b => b
    let fl := if slow then FL.PACE_SLOW else 0
    match first with
    | none => (false, fl, 0, d)
    | some f =>
      let miss := min 4294967295 (k - f)
      let d := if rel.isSome then raise 379 (d.uPace fun p => { p with seams := sat16 p.seams, seamAt := none }) else d
      let d := d.uPace fun p => { p with seamDue := none, seamLast := miss }
      let d := if 0 < miss then postEvent 4 0 St.SEAM (if rel.isSome then 379 else 0) (some k) [miss] d else d
      (false, fl ||| FL.SEAM, miss, d)

/-- The pacing law in SCAN (R258). -/
def paceLaw (d : Dev) : Dev :=
  let (vd, d) := demand d
  let top := vSet5 d
  let d := d.uPace fun p => { p with vd }
  let d := if externalMotion d then releaseExternal (setVc vd d)
    else
      let a := cfg Obj.PACE_CTL.A_PACE d
      let vc := d.pace.vc
      setVc (if vd < vc then max vd (vc - a) else min vd (vc + a)) d
  let slow := decide (vd < top)
  let began := slow && d.pace.state != .slowing
  let d := d.uPace fun p => { p with state := if slow || decide (p.vc < top) then .slowing else .running }
  let d := if began then raise 382 d else d
  if externalMotion d = false ∧ d.pace.vc ≤ vHold5 d ∧ vd ≤ vHold5 d then paceStop 1 d else d

/-- The braking of the axis (R263): the commanded speed falls by one step of 10 µs. -/
def paceBrake (d : Dev) : Dev :=
  let d := setVc (d.pace.vc - brakeStep d) d
  if d.pace.xoffStop ∧ d.pwr.mode = .scan ∧ speed d * spd ≤ vHold5 d then paceStop 2 d else d

/-- PACE_TICK: the computation of the pacing unit every 10 µs (R258, R261 to R263); in a run-up the commanded speed rises along A_PACE (R268). -/
def paceTick (d : Dev) : Dev :=
  let d := if d.krm.paceVd.any (fun x => x.2.2.1) then xoffBegin d else d
  refreshPins (match d.pace.state with
    | .running | .slowing => if d.pwr.mode = .scan ∧ d.pwr.trans = .none then paceLaw d else d
    | .braking => if d.inMode [.scan, .hold] then paceBrake d else d
    | .runUp | .priming => if d.inMode [.scan, .hold] then setVc (min d.pace.vr (d.pace.vc + cfg Obj.PACE_CTL.A_PACE d)) d else d
    | _ => d)

/-- FC_MIN_ASSERT_END: the least assertion time of a pacing-owned pin ends (R261). -/
def fcMinAssertEnd (p : Nat) (d : Dev) : Dev :=
  match (at' d.pace.pins p {}).until_ with
  | some t => refreshPins (d.at_ t)
  | none => d

/-- On entry to SCAN from READY the pacing unit runs at V_SET. -/
def paceStart (d : Dev) : Dev :=
  refreshPins (setVc (vSet5 d) (d.uPace fun p => { p with
    state := .running, cause := 0, vd := vSet5 d, kr := 0, resume := none, srcFirst := none, rebuild := none, xoffStop := false, autoResume := true
    verify := none, seamDue := none, seamAt := none }))

/-- The source of line positions faults (R32, R265, R276): the first line not started is kept. -/
def paceSourceFault (first : Nat) (d : Dev) : Dev :=
  if externalMotion d then linesMissing first d
  else abandonRunUp 4 (d.uPace fun p => { p with srcFirst := some (match p.srcFirst with | some f => min f first | none => first) })

/-- An HDL domain reset in HOLD (R276). -/
def paceRebuild (d : Dev) : Dev := if d.pwr.mode = .hold ∧ externalMotion d = false then repark d else d

/-- The move to READY that the LINES-th line began is pending (R333). -/
def linesEnding (d : Dev) : Bool := match d.pwr.trans with | .toReady _ done => done | _ => false

/-- The move to READY begins (R527): Spindle starts no line, the axis brakes at A_STOP, K_r is discarded. A pending MODE_SET ends ABORTED. -/
def beginReady (who : Option Who) (scanDone : Bool) (d : Dev) : Dev :=
  let scanDone := scanDone || linesEnding d
  let d := dropTrans d
  let moving : Bool := match paceAxis d with | some n => !(axisAt n d).atRest | none => false
  let d := if moving then brakeAxis (cfg Obj.PACE_CTL.A_STOP d) d else d
  let d := d.uPace fun p => { p with state := if moving then .braking else .idle, cause := 0, kr := 0, resume := none, srcFirst := none, rebuild := none
                                     xoffStop := false, autoResume := false, verify := none, seamDue := none, seamAt := none }
  d.uPwr fun p => { p with trans := .toReady who scanDone }

/-- GUARD_MIN (R264): the largest over the enabled stores, in MiB. -/
def guardMin (d : Dev) : Nat :=
  let v := vSet d
  let h := cfg Obj.PACE_CTL.HOLD_FACTOR d
  let a := cfg Obj.PACE_CTL.A_STOP d
  -- counts × 65536 × 2·a × 10^6
  let num := v * reactUs d * 2 * a * 65536 + (v * v * 65536 - v * v * h * h) * 1000000
  let den := 2 * a * 65536 * 1000000 * pitch d
  let nb := (num * 256 + den - 1) / max 1 den
  let r := 64 + paddedBytes (outPixels d) (outBits d)
  (enabledStores d).foldl (fun m s => max m ((nb * r + 5 * r + 8192 * cfg (Obj.SKN_QUEUE.SIZE (queueIn s d)) d + 1048575) / 1048576)) 0

/-- What rejects a write of PACE_CTL (R279) and of PACE_FC (R280). -/
def paceCtlCheck (ws : List Word) (_ : Dev) : Option (Nat × Nat) :=
  firstFail [(decide (fieldOf ws Obj.PACE_CTL.A_STOP < fieldOf ws Obj.PACE_CTL.A_PACE), St.BAD_FIELD, 0),
    (decide (fieldOf ws Obj.PACE_CTL.AXIS ≤ 3) && fieldOf ws Obj.PACE_CTL.STEP_RATIO == 0, St.BAD_FIELD, 0)]
def paceFcCheck (ws : List Word) (_ : Dev) : Option (Nat × Nat) :=
  firstFail [((List.range 4).any fun p => fieldOf ws (Obj.PACE_FC.OWNER p) == 1 && fieldOf ws (Obj.PACE_FC.THRESH p) == 0, St.BAD_FIELD, 0)]

/-- The words of PACE_STATUS (Table 11.8). -/
def paceStatusWords (d : Dev) : List Word :=
  let p := d.pace
  packF 10 [(Obj.PACE_STATUS.STATE, p.state.code), (Obj.PACE_STATUS.HOLD_CAUSE, p.cause), fb Obj.PACE_STATUS.SHORT_RUNUP p.shortRunup,
    (Obj.PACE_STATUS.FACTOR, p.factor), (Obj.PACE_STATUS.V_CMD, p.vc / spd), (Obj.PACE_STATUS.K_R, p.kr), (Obj.PACE_STATUS.SEAM_LAST, p.seamLast),
    (Obj.PACE_STATUS.GUARD_MIN, min 65535 (guardMin d)), (Obj.PACE_STATUS.HOLDS, p.holds), (Obj.PACE_STATUS.RESTARTS, p.restarts),
    (Obj.PACE_STATUS.RESTART_FAIL, p.restartFail), (Obj.PACE_STATUS.SEAMS, p.seams), (Obj.PACE_STATUS.OVERTAKEN, p.overtaken)]
def paceStatusClear (d : Dev) : Dev := d.uPace fun p => { p with shortRunup := false }

end Sys2Proof.Machine
end

