-- ==== Sys2Proof/Machine/KarumCore.lean ====
section
/-! DEFINITION. Sending on the Karum fabric (R437 to R444): routes, ports, sequence numbers and the replay buffer; the tiles present. -/

namespace Sys2Proof.Machine

def kport (p : Nat) (d : Dev) : KPort := at' d.krm.port p {}
def updPort (p : Nat) (f : KPort → KPort) (d : Dev) : Dev := d.uKrm fun k => { k with port := upd k.port p f }

/-- KRM_NODE.ADDR. -/
def nodeAddr (d : Dev) : Nat := cfg Obj.KRM_NODE.ADDR d
def portEn (p : Nat) (d : Dev) : Bool := (cfg Obj.KRM_CTL.PORT_EN d).testBit p
def portUp (p : Nat) (d : Dev) : Bool := (kport p d).up

/-- The address and tile that line headers carry: 0 for a device that belongs to no group (R441). -/
def headerAddr (d : Dev) : Nat := if d.krm.member then nodeAddr d else 0
def headerTile (d : Dev) : Nat := if d.krm.member then d.krm.tile else 0

/-- The port on which a block for an address leaves (R443). -/
def routePort (a : Nat) (d : Dev) : Option Nat :=
  let p := cfg (Obj.KRM_ROUTE.PORT a) d
  let q := cfg (Obj.KRM_ROUTE.ALT a) d
  if cfgB (Obj.KRM_ROUTE.VALID a) d && portUp p d then some p
  else if cfgB (Obj.KRM_ROUTE.ALT_VALID a) d && portUp q d then some q
  else none

/-- Waiting blocks keep the order of R438: by class, and within a class by arrival. -/
def insertClass (b : KBlock) : List KBlock → List KBlock
  | [] => [b]
  | x :: xs => if b.cls < x.cls then b :: x :: xs else x :: insertClass b xs

/-- The words of a block before its CRC (Table 19.1). -/
def KBlock.words (b : KBlock) : List Word :=
  let w (n : Nat) : Word := BitVec.ofNat 32 n
  [w (b.type + 16 * b.cls + 256 * b.seq + 1048576 * b.hops), w (b.dest + 65536 * b.src),
   w (b.units + 32 * b2n b.end_ + 64 * b2n b.abort + 65536 * b.queue), w (match b.ack with | some a => a + 4096 | none => 0)] ++
  (b.payload ++ List.replicate (8 * b.units - b.payload.length) 0).take (8 * b.units)

/-- A block with the SEQ and the CRC-32C that it is sent with (R283, R437). -/
def KBlock.sealed (b : KBlock) (seq : Nat) : KBlock := let b := { b with seq }; { b with crc := crcWords b.words }

/-- A block is sent on a port: it takes the next SEQ and waits in the replay buffer for its acknowledgement (R439); with 256 blocks there it
waits its turn. -/
def sendOn (p : Nat) (b : KBlock) (d : Dev) : Dev :=
  if !portUp p d then d
  else updPort p (fun x =>
    if x.replayBuf.length < 256 then { x with replayBuf := x.replayBuf ++ [b.sealed x.txSeq], txSeq := (x.txSeq + 1) % 4096 }
    else { x with txq := insertClass b x.txq }) d

/-- Waiting blocks are sent as acknowledgements make room. -/
def sendWaiting (p : Nat) (d : Dev) : Dev :=
  let x := kport p d
  let n := 256 - x.replayBuf.length
  each (x.txq.take n) (sendOn p) (updPort p (fun y => { y with txq := y.txq.drop n }) d)

/-- A block for a node leaves on its route, or is dropped and counted in NO_ROUTE (R443). -/
def sendTo (b : KBlock) (d : Dev) : Dev :=
  match routePort b.dest d with
  | some p => sendOn p b d
  | none => d.uKrm fun k => { k with noRoute := sat16 k.noRoute }

/-- A block is sent on every port of a mask. -/
def sendMask (m : Nat) (b : KBlock) (d : Dev) : Dev := each (maskIx m 4) (fun p d => sendOn p b d) d

/-- A broadcast of this device (R444). -/
def broadcast (b : KBlock) (d : Dev) : Dev := sendMask (cfg Obj.KRM_CTL.BCAST_ORIG d) b d

/-- TILES_PRESENT (R446): the tiles of the present members. -/
def tilesPresent (d : Dev) : Nat :=
  if d.krm.member then d.krm.members.foldl (fun m x => m ||| 2 ^ x.tile) (2 ^ d.krm.tile) else 0

/-- A member is the collector (R455). -/
def collecting (d : Dev) : Bool := d.krm.member && cfg Obj.KRM_CTL.STITCH d == 2
/-- A member sends its lines to the collector (R455). -/
def sending (d : Dev) : Bool := d.krm.member && cfg Obj.KRM_CTL.STITCH d == 1

/-- The CONFIRM blocks of the collector for a committed line (R458). The spec gives the block no format; it carries the index in two words. -/
def sendConfirms (k : Nat) (d : Dev) : Dev :=
  each d.krm.members (fun m d => if m.addr = nodeAddr d then d
    else sendTo { type := 9, cls := 1, dest := m.addr, src := nodeAddr d, units := 1, payload := wordsOfNat 2 k } d) d

end Sys2Proof.Machine
end

