-- ==== Sys2Proof/Machine/Reel.lean ====
section
/-! DEFINITION. Skein and Reel (chapter 10): queue words, pushes and pops, the Reel writer and reader, watermarks, confirmation, refusal and
release, the stitcher of R456; and the line header with its CRCs (R170, R282, R283). -/

namespace Sys2Proof.Machine

/-! Line headers (Table 12.1). -/

structure Hdr where
  k : Nat
  phase : Nat
  pos : Nat
  ts : Nat
  bytes : Nat
  pixels : Nat
  flags : Nat
  addr : Nat
  tile : Nat
  seam : Nat
  ovr : Nat
  undr : Nat
  pg : Nat
  pcrc : Nat
deriving DecidableEq, Repr

/-- The 16 words of a header; the last is the CRC over the 15 before it. -/
def Hdr.words (h : Hdr) : List Word :=
  let w (n : Nat) : Word := BitVec.ofNat 32 n
  let body := [w h.k, w ((h.k >>> 32) % 65536 + 65536 * h.phase + 16777216)] ++ wordsOfNat 2 h.pos ++ wordsOfNat 2 h.ts ++
    [w h.bytes, w h.pixels, w h.flags, w (h.addr + 65536 * h.tile), w h.seam, w (h.ovr + 65536 * h.undr), w h.pg, 0, w h.pcrc]
  body ++ [crcWords body]

/-- The fields of a header's words. -/
def hdrOf (ws : List Word) : Hdr :=
  let g (off wid : Nat) : Nat := getBits ws off wid
  { k := g 0 48, phase := g 48 8, pos := g 64 64, ts := g 128 64, bytes := g 192 32, pixels := g 224 32, flags := g 256 32, addr := g 288 12,
    tile := g 304 16, seam := g 320 32, ovr := g 352 16, undr := g 368 16, pg := g 384 32, pcrc := g 448 32 }

/-- Words in 32-byte groups. -/
def groups8 (ws : List Word) : List (List Word) := (List.range (ws.length / 8)).map fun i => (ws.drop (8 * i)).take 8

/-- A record as it is stored: the header over its payload, with fresh CRCs. -/
def recordWords (h : Hdr) (payload : List Word) : List (List Word) :=
  groups8 (({ h with bytes := 4 * payload.length, pcrc := (crcWords payload).toNat } : Hdr).words ++ payload)

def recHdr (r : List (List Word)) : Hdr := hdrOf (r.take 2).flatten
def recPayload (r : List (List Word)) : List Word := (r.drop 2).flatten

/-! Queue words (R234, R235). -/

def parity (w : Word) : Bool := (List.range 32).foldl (fun b i => b != w.getLsbD i) false

/-- A word with its parity. -/
def qword (ws : List Word) (end_ : Bool) : QWord := { d := ws, par := packBits (ws.map parity), end_ }

/-- The words of one packet: END on the last (R235). -/
def packet (rec : List (List Word)) : List QWord := mapIx (fun i w => qword w (i + 1 == rec.length)) rec

/-- A word as it is popped after upsets of its data bits: the data, and whether a parity bit disagrees (R239). -/
def readWord (w : QWord) (flip : Nat) : List Word × Bool :=
  let ws := mapIx (fun i x => x ^^^ BitVec.ofNat 32 (flip >>> (32 * i))) w.d
  (ws, packBits (ws.map parity) != w.par)

/-! Watermarks and XOFF (R241, R242, R251). -/

/-- The watermark of queue q on its present depth; a queue of SIZE 0 has none. In the middle of a Skein cycle it waits for the cycle's end
(R238). -/
def evalQueue (q : Nat) (d : Dev) : Dev :=
  let n := qDepth q d
  let above := (queueAt q d).above
  let size := cfg (Obj.SKN_QUEUE.SIZE q) d
  if d.skn.quiet = some q then d
  else if !above && decide (0 < size) && decide (cfg (Obj.SKN_QUEUE.WM_HIGH q) d ≤ n) then
    refreshPins (raise 288 (updQueue q (fun x => { x with above := true }) d))
  else if above && (size == 0 || decide (n ≤ cfg (Obj.SKN_QUEUE.WM_LOW q) d)) then
    refreshPins (raise 289 (updQueue q (fun x => { x with above := false }) d))
  else d

/-- An access of queue q: its watermark waits where the other access of the same Skein cycle follows (R238; assumption log 98). -/
def inCycle (more : Bool) (q : Nat) (f : Dev → Dev) (d : Dev) : Dev :=
  if more then (f (d.uSkn fun s => { s with quiet := some q })).uSkn fun s => { s with quiet := none } else f d

/-- The watermark and XOFF of line store s on its present fill; under external motion the clearing of XOFF arms the release (R272). -/
def evalStore (s : Nat) (d : Dev) : Dev :=
  if !storeEn s d then d
  else
    let used := storeUsed s d
    let free := storeFree s d
    let x := storeAt s d
    let d := if !x.above && decide (mib (cfg (Obj.REEL_LS.WM_HIGH s) d) ≤ used) then raise (302 + s) (updStore s (fun x => { x with above := true }) d)
      else if x.above && decide (used ≤ mib (cfg (Obj.REEL_LS.WM_LOW s) d)) then raise 306 (updStore s (fun x => { x with above := false }) d)
      else d
    let d := if !x.xoff && decide (free < guardOf s d) then xoffBegin (raise (294 + s) (updStore s (fun x => { x with xoff := true }) d))
      else if x.xoff && decide (2 * guardOf s d ≤ free) then
        let d := updStore s (fun x => { x with xoff := false }) d
        if d.inMode [.scan, .hold] ∧ externalMotion d = true then releaseExternal d else d
      else d
    if (storeAt s d).above = x.above ∧ (storeAt s d).xoff = x.xoff then d else refreshPins d

/-! Pushes and pops (R236 to R240). -/

/-- One word enters queue q; a word of a packet whose remainder is dropped is discarded (R240). -/
def pushWord (q : Nat) (w : QWord) (d : Dev) : Dev :=
  updQueue q (fun x =>
    if x.drop then { x with drop := !w.end_, midPush := !w.end_ }
    else { x with q := x.q ++ [w], pkt := x.pkt + b2n w.end_, midPush := !w.end_ }) d

def hasRoom (q : Nat) (d : Dev) : Bool := (queueAt q d).drop || decide (qDepth q d < qCap q d)

/-- The words a producer has ready enter the queue as far as there is room; the first that finds none stalls (R237). -/
def pushReady (q : Nat) : List QWord → Dev → Dev
  | [], d => updQueue q (fun x => { x with wait := [], stalled := false }) d
  | w :: ws, d => if hasRoom q d then pushReady q ws (pushWord q w d) else updQueue q (fun x => { x with wait := w :: ws, stalled := true }) d

/-- A stalled push completes once there is room (R237). -/
def refill (q : Nat) (d : Dev) : Dev :=
  match (queueAt q d).wait with
  | w :: ws =>
    if (queueAt q d).stalled && hasRoom q d then updQueue q (fun x => { x with wait := ws, stalled := false }) (pushWord q w d) else d
  | [] => d

/-- The queues that output packing feeds (R232): ROLE 1, the QUEUE_IN of an enabled store with its number. -/
def packTargets (d : Dev) : List Nat :=
  (List.range 32).filter fun q => qRole q d == 1 && storeEn (cfg (Obj.SKN_QUEUE.LS q) d) d && queueIn (cfg (Obj.SKN_QUEUE.LS q) d) d == q

/-- Packing is stalled: words of a packed line wait for room (R237). -/
def packStalled (d : Dev) : Bool := (packTargets d).any fun q => !(queueAt q d).wait.isEmpty

/-- The next record the Reel reader of queue q delivers: the first above those it has passed. While the group runs and the store is not emptied, a
later scan's records below that index are never delivered (DESIGN CHOICE, assumption log 100). -/
def nextRecord (q : Nat) (d : Dev) : Option Record :=
  let g := at' d.hs.group q {}
  (storeAt (cfg (Obj.SKN_QUEUE.LS q) d) d).recs.find? fun r => decide (g.next ≤ r.k)

def groupAt (q : Nat) (d : Dev) : Group := at' d.hs.group q {}
def updGroup (q : Nat) (f : Group → Group) (d : Dev) : Dev := d.uHs fun h => { h with group := upd h.group q f }

/-- A ring that names queue q delivers (R285, R286). -/
def groupRunning (q : Nat) (d : Dev) : Bool := d.hs.ring.any fun r => r.running && r.queue == q

/-- The head word of a queue leaves it, which lets a stalled push complete. -/
def takeWord (q : Nat) (d : Dev) : Dev :=
  refill q (updQueue q (fun x => match x.q with | [] => x | w :: ws => { x with q := ws, pkt := x.pkt - b2n w.end_ }) d)

/-- A pop that finds no word waits for the next push (R237). -/
def waitForWord (q : Nat) (header : Bool) (flip : Nat) (ue : Bool) (d : Dev) : Dev := updQueue q (fun x => { x with waitPop := some (header, flip, ue) }) d

/-- Words up to and including the first END. -/
def afterEnd : List QWord → Option (List QWord)
  | [] => none
  | w :: ws => if w.end_ then some ws else afterEnd ws

/-- The remainder of the packet at the head of queue q is dropped (R240). -/
def dropRemainder (q : Nat) (d : Dev) : Dev :=
  evalQueue q (refill q (updQueue q (fun x => match afterEnd x.q with
    | some r => { x with q := r, pkt := x.pkt - 1 }
    | none => { x with q := [], drop := true }) d))

/-! Refusal and release (R252, R271, R272). -/

/-- A line is refused. -/
def refuseLine (s k : Nat) (d : Dev) : Dev :=
  let x := storeAt s d
  let d := updStore s (fun x => { x with firstRefused := if x.refused = 0 then k else x.firstRefused, refused := sat32 x.refused, refusing := true }) d
  if x.refusing then d else markOvertaken (raise (298 + s) d)

/-- Whether store s takes line k, of n units in all: the release of R271 and R272 ends REFUSING; a record above FREE is refused. -/
def admitLine (s k n : Nat) (d : Dev) : Bool × Dev :=
  let x := storeAt s d
  let freed := match x.release with | some l => decide (l ≤ k) | none => false
  let d := if x.refusing && freed then updStore s (fun x => { x with refusing := false, refused := 0, release := none }) d else d
  if x.refusing && !freed then (false, refuseLine s k d)
  else if storeFree s d < n then (false, refuseLine s k d)
  else (true, d)

/-- LAST_INDEX + 1, the index a line takes whose header cannot be trusted or was not popped (R239, R240). -/
def afterLast (s : Nat) (d : Dev) : Nat := (storeAt s d).lastIndex + 1

/-! Commit (R245), confirmation (R249). -/

/-- The scan's LINES-th line is committed (R333). -/
def linesDone (k : Nat) (d : Dev) : Dev :=
  match d.pwr.linesLast with
  | some l =>
    if l ≤ k ∧ d.inMode [.scan, .hold] ∧ linesEnding d = false then beginReady none true d else d
  | none => d

/-- A record is committed in store s. -/
def commitRecord (s k : Nat) (words : List (List Word)) (d : Dev) : Dev :=
  let size := max 1 (storeSize s d)
  let d := updStore s (fun x => { x with recs := x.recs ++ [{ k, start := x.writePtr, words }], writePtr := (x.writePtr + words.length) % size
                                         lastIndex := k, recNone := false, writing := none }) d
  linesDone k (evalStore s d)

/-- REEL_COMMIT: the record being written in store s has its END word (R245). A poisoned record gets POISON and fresh CRCs (R239). -/
def reelCommit (s : Nat) (d : Dev) : Dev :=
  match (storeAt s d).writing with
  | some w =>
    if w.ended then
      let words := if w.poison then let h := recHdr w.words; recordWords { h with flags := h.flags ||| FL.POISON } (recPayload w.words) else w.words
      commitRecord s w.k words d
    else d
  | none => d

/-- A confirm index C reaches store s (R249). -/
def storeConfirm (s c : Nat) (d : Dev) : Dev :=
  let x := storeAt s d
  if x.recNone then d
  else if x.confNone || decide (x.confirm < c) then
    let c := min c x.lastIndex
    evalStore s (updStore s (fun x => { x with confirm := c, confNone := false, recs := x.recs.filter fun r => decide (c < r.k) }) d)
  else d

/-! Tiles of a collector, and words bound for one (R240, R437, R455, R456). -/

def stitching (q : Nat) (d : Dev) : Bool := collecting d && storeEn (cfg (Obj.SKN_QUEUE.LS q) d) d && (qRole q d == 2 || queueIn (cfg (Obj.SKN_QUEUE.LS q) d) d == q)

/-- Words of the tile packet taken from queue q so far. -/
def tileWords (q : Nat) (d : Dev) : List (List Word) := ((d.krm.tileIn.find? fun x => x.1 == q).map Prod.snd).getD []
def setTileWords (q : Nat) (ws : List (List Word)) (d : Dev) : Dev :=
  d.uKrm fun k => { k with tileIn := (k.tileIn.filter fun x => x.1 != q) ++ (if ws.isEmpty then [] else [(q, ws)]) }

/-- The tile in the making from queue q is given up: the rest of its packet is dropped (R240). -/
def dropTile (q : Nat) (d : Dev) : Dev := if (tileWords q d).isEmpty then d else dropRemainder q (setTileWords q [] d)

/-- The queues whose words leave on a port (R232). -/
def outboundQueues (d : Dev) : List Nat := (List.range 32).filter fun q => qRole q d == 4

/-- A DATA block for the collector with the words gathered from queue q: it leaves on its route (R437, R443). -/
def sendData (q : Nat) (ws : List (List Word)) (end_ abort : Bool) (d : Dev) : Dev :=
  sendTo { type := 1, cls := 2, dest := cfg Obj.KRM_CTL.COLLECTOR d, src := nodeAddr d, units := ws.length, end_, abort, queue := (Config.destQueue q).toNat
           payload := ws.flatten } (d.uKrm fun k => { k with partial_ := k.partial_.filter fun y => y.1 != q })

/-- Words of queue q gathered for a DATA block. -/
def gatheredOf (q : Nat) (d : Dev) : List (List Word) := ((d.krm.partial_.find? fun x => x.1 == q).map Prod.snd).getD []

/-- A packet of an outbound queue that is sent in part is abandoned: a DATA block with END and ABORT ends it (R240, R437). -/
def abortOutbound (q : Nat) (d : Dev) : Dev :=
  if qRole q d = 4 ∧ 0 < (queueAt q d).got then sendData q (gatheredOf q d) true true d else d

/-! Emptying (R232, R243, R332). -/

/-- What is half popped for store s is given up, with the rest of its packet (R240, R243). -/
def cutPackets (s : Nat) (d : Dev) : Dev :=
  let d := each ((List.range 32).filter fun q => cfg (Obj.SKN_QUEUE.LS q) d == s) dropTile d
  match (storeAt s d).writing with
  | some w => let d := updStore s (fun x => { x with writing := none }) d
              if w.ended then d else dropRemainder (queueIn s d) d
  | none => d

/-- A store is emptied, with the lines in assembly for it. REFUSING and what goes with it stay: only the pacing unit ends it (R252; assumption
log 99). -/
def clearStore (s : Nat) (d : Dev) : Dev :=
  let d := (cutPackets s d).uKrm fun k => { k with stitch := k.stitch.filter fun l => l.store != s }
  let en := storeEn s d
  let d := updStore s (fun x => { above := en && x.above, xoff := en && x.xoff, refusing := x.refusing, refused := x.refused
                                  firstRefused := x.firstRefused, release := x.release }) d
  let d := d.uHs fun h => { h with hiDlv := put h.hiDlv s none }
  let d := each ((List.range 32).filter fun q => decide (3 ≤ qRole q d) && cfg (Obj.SKN_QUEUE.LS q) d == s)
    (updGroup · (fun g => { g with next := 0, resentTo := none })) d
  evalStore s d

/-- The records that were read into queue q and not taken whole are read again. -/
def unread (q : Nat) (d : Dev) : Dev :=
  match (queueAt q d).dir with
  | [] => d
  | e :: _ => updGroup q (fun g => { g with next := min e.k g.next }) d

/-- Every queue is emptied (R232); records and packets in the making go with them, and the fills are judged anew (R241, R251). -/
def clearQueues (d : Dev) : Dev :=
  let d := each (List.range 32) unread (each (outboundQueues d) abortOutbound d)
  let d := d.uSkn fun s => { s with queue := s.queue.map fun x => { above := x.above }, store := s.store.map fun x => { x with writing := none } }
  let d := d.uHs fun h => { h with group := h.group.map fun g => { g with asm := [] } }
  let d := d.uKrm fun k => { k with tileIn := [], partial_ := [] }
  each (enabledStores d) evalStore (each (List.range 32) evalQueue d)

/-- STORE_DISCARD (R332). -/
def storeDiscard (c : MnrCmd) (d : Dev) : Dev :=
  command Op.STORE_DISCARD c (fun t d =>
    checked t [(decide (4 ≤ t.arg) || !t.pay.isEmpty && decide (0 < t.len), St.BAD_FIELD, 0), (!storeEn (t.arg % 4) d, St.BAD_FIELD, 0)]
      (fun d => finish t.who St.OK 0 [] (clearStore (t.arg % 4) d)) d) d

/-! The stitcher (R456, R457). -/

/-- Payload units of tile t in a line: its own, else as last seen, else as the line's first tile. -/
def tileUnits (l : StitchLine) (t : Nat) (d : Dev) : Nat :=
  match l.tiles.find? fun x => x.1 == t with
  | some x => x.2.length - 2
  | none => let n := Sparse.get 0 d.krm.tileLen t; if n = 0 then (match l.tiles with | x :: _ => x.2.length - 2 | [] => 0) else n

/-- The stitched record of a line, with the tiles it lacks as zeros (R457). -/
def stitchedRecord (l : StitchLine) (d : Dev) : List (List Word) :=
  let bits := outBits d
  let tiles := maskIx l.present 64
  let part (t : Nat) : Option Hdr × List Word :=
    match l.tiles.find? fun x => x.1 == t with
    | some x => (some (recHdr x.2), recPayload x.2)
    | none => (none, List.replicate (8 * tileUnits l t d) 0)
  let parts := tiles.map part
  let hs := parts.filterMap (·.1)
  let h0 := match hs with | h :: _ => h | [] => hdrOf []
  let own := (hs.find? fun h => h.tile == d.krm.tile).getD h0
  let filled := parts.any fun p => p.1.isNone
  recordWords { h0 with
    addr := nodeAddr d, tile := 0xFFFF, pixels := (parts.map fun p => match p.1 with | some h => h.pixels | none => 32 * p.2.length / bits).sum
    flags := (hs.foldl (fun f h => f ||| h.flags) 0) ||| (if filled then FL.DEGRADED else 0)
    ovr := min 65535 ((hs.map (·.ovr)).sum), undr := min 65535 ((hs.map (·.undr)).sum), seam := hs.foldl (fun m h => max m h.seam) 0, pg := own.pg }
    (parts.flatMap (·.2))

def StitchLine.complete (l : StitchLine) : Bool := (maskIx l.present 64).all fun t => l.tiles.any fun x => x.1 == t

/-- A stitched line is committed (R456, R458); missing tiles are filled. While the store refuses, no line above the refused one is (R252). -/
def stitchCommit (l : StitchLine) (d : Dev) : Dev :=
  let missing := countIf (fun t => !(l.tiles.any fun x => x.1 == t)) (maskIx l.present 64)
  let words := stitchedRecord l d
  let d := d.uKrm fun k => { k with stitch := k.stitch.filter (fun x => x != l), filledTiles := satAdd 65535 k.filledTiles missing }
  let d := if 0 < missing then raise 453 d else d
  let x := storeAt l.store d
  if storeFree l.store d < words.length ∨ (x.refusing = true ∧ x.firstRefused < l.k) then evalStore l.store (refuseLine l.store l.k d)
  else sendConfirms l.k (commitRecord l.store l.k words d)

/-- Complete lines are committed in ascending order. -/
def stitchFlush : Nat → Dev → Dev
  | 0, d => d
  | n + 1, d =>
    match d.krm.stitch with
    | l :: _ => if l.complete then stitchFlush n (stitchCommit l d) else d
    | [] => d

def insertStitch (l : StitchLine) : List StitchLine → List StitchLine
  | [] => [l]
  | x :: xs => if l.k < x.k then l :: x :: xs else x :: insertStitch l xs

/-- A whole tile arrives at the stitcher of store s (R456). -/
def stitchTile (s : Nat) (words : List (List Word)) (d : Dev) : Dev :=
  let h := recHdr words
  let x := storeAt s d
  if !x.recNone && decide (h.k ≤ x.lastIndex) then d.uKrm fun k => { k with lateTiles := sat16 k.lateTiles }
  else
    let d := d.uKrm fun k => { k with tileLen := Sparse.set 0 k.tileLen h.tile (words.length - 2) }
    let add (d : Dev) : Dev := stitchFlush 4 (d.uKrm fun k => { k with stitch := k.stitch.map fun l => if l.k = h.k ∧ l.store = s then { l with tiles := l.tiles ++ [(h.tile, words)] } else l })
    if d.krm.stitch.any fun l => l.k == h.k && l.store == s then add d
    else if x.refusing && decide (h.k < x.firstRefused + x.refused) && (match x.release with | some l => decide (h.k < l) | none => true) then d
    else
      let d := if d.krm.stitch.length < 4 then d else match d.krm.stitch with | l :: _ => stitchCommit l d | [] => d
      let l : StitchLine := { k := h.k, store := s, openAt := d.now, present := tilesPresent d ||| 2 ^ h.tile }
      let units := 2 + ((maskIx l.present 64).map fun t => tileUnits { l with tiles := [(h.tile, words)] } t d).sum
      let (ok, d) := admitLine s h.k units d
      if ok then add (evalStore s (d.uKrm fun k => { k with stitch := insertStitch { l with units } k.stitch })) else d

/-- STITCH_TILE_TIMEOUT: the oldest line in assembly still lacks a tile TILE_TMO after its first one. -/
def stitchTileTimeout (d : Dev) : Dev :=
  match d.krm.stitch with
  | l :: _ => stitchFlush 4 (stitchCommit l (d.at_ (l.openAt + 16000 * cfg Obj.KRM_CTL.TILE_TMO d)))
  | [] => d

/-! The Reel writer (R239, R240, R244, R252). -/

/-- The line store that the writer of an inbound queue serves: its QUEUE_IN, or any ROLE 2 queue of a collector's store. -/
def writerStore (q : Nat) (d : Dev) : Option Nat :=
  let s := cfg (Obj.SKN_QUEUE.LS q) d
  if (qRole q d = 1 ∨ qRole q d = 2) ∧ storeEn s d = true ∧ (queueIn s d = q ∨ stitching q d = true) then some s else none

/-- An aborted packet: the record is given up and its line refused (R240). -/
def abortRecord (s k : Nat) (d : Dev) : Dev :=
  let d := updStore s (fun x => { x with writing := none }) d
  evalStore s (refuseLine s k (raise 293 (d.uSkn fun x => { x with aborts := sat16 x.aborts })))

/-- An aborted tile of line k: the line in assembly is given up and refused (R240, R252); a tile of a line that is committed is only counted
(assumption log 99). -/
def abortTile (q s k : Nat) (d : Dev) : Dev :=
  let d := setTileWords q [] d
  let x := storeAt s d
  if !x.recNone && decide (k ≤ x.lastIndex) then raise 293 (d.uSkn fun x => { x with aborts := sat16 x.aborts })
  else abortRecord s k (d.uKrm fun y => { y with stitch := y.stitch.filter fun l => !(l.k == k && l.store == s) })

/-- REEL_HEADER_POP: the writer of queue q pops the two header words of the packet at its head; flip: upset data bits (R252). It waits for the
words that are not there yet (R237). -/
def reelHeaderPop (q : Nat) (flip : Nat) (d : Dev) : Dev :=
  match writerStore q d with
  | none => d
  | some s =>
    let tile := stitching q d
    if (if tile then !(tileWords q d).isEmpty else (storeAt s d).writing.isSome) then d
    else
      let d := match (queueAt q d).head, (queueAt q d).q with
        | none, w0 :: _ => evalQueue q (updQueue q (fun x => { x with head := some (w0, flip % 2 ^ 256) }) (takeWord q d))
        | _, _ => d
      match (queueAt q d).head, (queueAt q d).q with
      | some (w0, flip0), w1 :: _ =>
        let d := evalQueue q (updQueue q (fun x => { x with head := none }) (takeWord q d))
        if w1.abort then abortRecord s (afterLast s d) d
        else
          let (a, badA) := readWord w0 flip0
          let (b, badB) := readWord w1 (flip >>> 256)
          let rest (d : Dev) : Dev := if w1.end_ then d else dropRemainder q d
          if badA || badB then
            rest (refuseLine s (afterLast s d) (raise 292 (d.uSkn fun x => { x with hdrParity := sat16 x.hdrParity })))
          else if tile then
            let d := setTileWords q [a, b] d
            if w1.end_ then stitchTile s [a, b] (setTileWords q [] d) else d
          else
            let h := hdrOf (a ++ b)
            let (ok, d) := admitLine s h.k (2 + h.bytes / 32) d
            if ok then evalStore s (updStore s (fun x => { x with writing := some { k := h.k, words := [a, b], total := 2 + h.bytes / 32, ended := w1.end_ } }) d)
            else rest d
      | _, _ => waitForWord q true flip false d

/-- The writer of queue q is in the middle of a packet, and pops its payload words. -/
def midPacket (q s : Nat) (d : Dev) : Bool :=
  if stitching q d then !(tileWords q d).isEmpty else match (storeAt s d).writing with | some r => !r.ended | none => false

/-- A payload word of an inbound queue goes to its record (R239, R244). -/
def popInbound (q s : Nat) (flip : Nat) (w : QWord) (d : Dev) : Dev :=
  let (ws, bad) := readWord w flip
  let ws := if bad then List.replicate 8 (0 : Word) else ws
  if stitching q d then
    let got := tileWords q d
    let h := recHdr got
    if w.abort then abortTile q s h.k d
    else
      let d := if bad then raise 290 (d.uSkn fun x => { x with parityPoison := sat16 x.parityPoison, poisonIndex := h.k }) else d
      let got := if bad then recordWords { h with flags := h.flags ||| FL.POISON } (recPayload got) ++ [ws] else got ++ [ws]
      if w.end_ then stitchTile s got (setTileWords q [] d) else setTileWords q got d
  else
    match (storeAt s d).writing with
    | none => d
    | some r =>
      if w.abort then abortRecord s r.k d
      else
        let d := if bad then raise 290 (d.uSkn fun x => { x with parityPoison := sat16 x.parityPoison, poisonIndex := r.k }) else d
        evalStore s (updStore s (fun x => { x with writing := some { r with words := r.words ++ [ws], poison := r.poison || bad, ended := w.end_ } }) d)

/-! The Reel reader (R239, R246, R295). -/

/-- A stored 32-byte word reads as uncorrectable (R246): i counts from the start of the record. -/
def reelReadUe (s : Nat) (r : Record) (i : Nat) (d : Dev) : Dev :=
  let a := cfg (Obj.REEL_LS.FIRST s) d * 2147483648 + 32 * ((r.start + i) % max 1 (storeSize s d))
  faultRaise 6 307 (some r.k) St.HW_FAULT (raise 307 (d.uSkn fun x => { x with reelUe := sat16 x.reelUe, reelUeAddr := a % 34359738368 }))

/-- The words of a record of n words that ue names. -/
def ueOf (n : Nat) (ue : List Nat) : List Nat := (List.range n).filter fun i => ue.contains i

/-- Record r of store s is read; the words that ue names read as uncorrectable and return zeros (R246). -/
def readRecord (s : Nat) (r : Record) (ue : List Nat) (d : Dev) : List (List Word) × Dev :=
  let ue := ueOf r.words.length ue
  (mapIx (fun i w => if ue.contains i then List.replicate 8 0 else w) r.words, each ue (reelReadUe s r) d)

/-- What an outbound consumer gets of a word it pops: with a parity error it is read again from the stored record (R239), where it may read as
uncorrectable (R246). -/
def outboundWord (q : Nat) (w : QWord) (flip : Nat) (ue : Bool) (d : Dev) : List Word × Dev :=
  let x := queueAt q d
  let s := cfg (Obj.SKN_QUEUE.LS q) d
  if (readWord w flip).2 then
    let d := raise 291 (d.uSkn fun x => { x with refetch := sat16 x.refetch })
    match x.dir with
    | e :: _ =>
      match ue, (storeAt s d).recs.find? fun r => r.k == e.k with
      | true, some r =>
        (List.replicate 8 0, reelReadUe s r x.got (updQueue q (fun y => { y with dir := { e with ue := e.ue ++ [x.got] } :: y.dir.tail }) d))
      | _, _ => (w.d, d)
    | [] => (w.d, d)
  else ((readWord w flip).1, d)

/-- A word popped from outbound queue q against a credit: the words gathered leave as a DATA block when there are 16 of them or the packet ends
(R437, R440). -/
def portWord (q : Nat) (w : List Word) (end_ : Bool) (d : Dev) : Dev :=
  let got := gatheredOf q d ++ [w]
  let dest := (Config.destQueue q).toNat
  let d := d.uKrm fun k => { k with credit := Sparse.set 0 k.credit dest (Sparse.get 0 k.credit dest - 1) }
  if end_ || decide (16 ≤ got.length) then sendData q got end_ false d
  else d.uKrm fun k => { k with partial_ := (k.partial_.filter fun y => y.1 != q) ++ [(q, got)] }

/-- The words popped so far are the whole record at the head of queue q, by Reel's directory (R295). -/
def asmDone (q : Nat) (d : Dev) : Bool :=
  match (queueAt q d).dir with
  | e :: _ => (groupAt q d).asm.length == e.len
  | [] => false

/-- SKEIN_POP: the consumer of queue q pops one word, or waits for one (R237); flip: data bits upset in the SRAM; ue: a word read again reads
as uncorrectable (R239, R246). -/
def skeinPop (q : Nat) (flip : Nat) (ue : Bool) (d : Dev) : Dev :=
  let pops : Bool := match qRole q d with
    | 3 => groupRunning q d && !asmDone q d
    | 4 => decide (0 < Sparse.get 0 d.krm.credit (Config.destQueue q).toNat)
    | _ => match writerStore q d with | some s => midPacket q s d | none => false
  if !pops then d
  else
    match (queueAt q d).q with
    | [] => waitForWord q false flip ue d
    | w :: _ =>
      let d := evalQueue q (takeWord q d)
      match qRole q d with
      | 3 =>
        let (ws, d) := outboundWord q w flip ue d
        updQueue q (fun x => { x with got := x.got + 1 }) (updGroup q (fun g => { g with asm := g.asm ++ [ws] }) d)
      | 4 =>
        let (ws, d) := outboundWord q w flip ue d
        portWord q ws w.end_ (updQueue q (fun x => if w.end_ then { x with dir := x.dir.tail, got := 0 } else { x with got := x.got + 1 }) d)
      | _ => popInbound q (cfg (Obj.SKN_QUEUE.LS q) d) flip w d

/-- A pop that waits completes with the word just pushed; then the watermark is evaluated (R237, R238). -/
def servePop (q : Nat) (d : Dev) : Dev :=
  evalQueue q (match (queueAt q d).waitPop with
    | some (header, flip, ue) =>
      let d := updQueue q (fun x => { x with waitPop := none }) d
      if header then reelHeaderPop q flip d else skeinPop q flip ue d
    | none => d)

/-- A producer pushes a packet; the words that find no room wait (R237). -/
def pushPacket (q : Nat) (ws : List QWord) (d : Dev) : Dev := servePop q (pushReady q ((queueAt q d).wait ++ ws) d)

/-- A producer stops in the middle of its packet: one word with END and ABORT follows the words already pushed (R240). -/
def abortPacket (q : Nat) (d : Dev) : Dev :=
  let x := queueAt q d
  let d := updQueue q (fun x => { x with wait := [], stalled := false }) d
  if x.midPush then servePop q (pushReady q [{ d := List.replicate 8 0, par := 0, end_ := true, abort := true }] d) else d

/-- The Reel reader of an outbound queue takes the next record, once all words of the one before are pushed. -/
def readNext (q : Nat) (ue : List Nat) (d : Dev) : Dev :=
  if (queueAt q d).wait.isEmpty && ((qRole q d == 3 && groupRunning q d) || (qRole q d == 4 && sending d)) then
    match nextRecord q d with
    | some r =>
      let (ws, d) := readRecord (cfg (Obj.SKN_QUEUE.LS q) d) r ue d
      updQueue q (fun x => { x with wait := packet ws, dir := x.dir ++ [{ k := r.k, len := ws.length, ue := ueOf ws.length ue }] })
        (updGroup q (fun g => { g with next := r.k + 1 }) d)
    | none => d
  else d

/-- SKEIN_PUSH: the producer of queue q pushes its next word, or stalls on a full queue (R237). ue: the words of a record that the Reel reader
takes now that read as uncorrectable (R246). -/
def skeinPush (q : Nat) (ue : List Nat) (d : Dev) : Dev :=
  let d := readNext q ue d
  match (queueAt q d).wait with
  | [] => d
  | w :: ws =>
    if hasRoom q d then servePop q (updQueue q (fun x => { x with wait := ws, stalled := false }) (pushWord q w d))
    else updQueue q (fun x => { x with stalled := true }) d

/-- REEL_SCRUB: refresh and scrub run; the devices report n corrections (R246). -/
def reelScrub (n : Nat) (d : Dev) : Dev := d.uSkn fun s => { s with reelCe := satAdd 4294967295 s.reelCe n }

/-! Objects (R255 to R257). -/

/-- What rejects a write of SKN_QUEUE (R232, R255). -/
def sknQueueCheck (ws : List Word) (_ : Dev) : Option (Nat × Nat) :=
  let bad (q : Nat) : Bool :=
    let role := fieldOf ws (Obj.SKN_QUEUE.ROLE q)
    let size := fieldOf ws (Obj.SKN_QUEUE.SIZE q)
    let hi := fieldOf ws (Obj.SKN_QUEUE.WM_HIGH q)
    (fieldOf ws (Obj.SKN_QUEUE.PORT q) != 0 && role != 2 && role != 4) || (size == 0 && role != 0) ||
      (decide (0 < size) && (decide (hi ≤ fieldOf ws (Obj.SKN_QUEUE.WM_LOW q)) || decide (256 * size < hi)))
  firstFail [((List.range 32).any bad, St.BAD_FIELD, 0), (decide (1024 < ((List.range 32).map fun q => fieldOf ws (Obj.SKN_QUEUE.SIZE q)).sum), St.BAD_FIELD, 0)]

def sknQueueApply (ws : List Word) (d : Dev) : Dev := refreshPins (clearQueues (setObj Obj.SKN_QUEUE.id ws (each (outboundQueues d) abortOutbound d)))

/-- The case of R243 that store s meets. -/
def storeBad (ws : List Word) (d : Dev) (s : Nat) : Bool :=
  let f (x : FldDef) := fieldOf ws x
  let en (s : Nat) := f (Obj.REEL_LS.EN s) != 0
  let lo (s : Nat) := f (Obj.REEL_LS.FIRST s)
  let hi (s : Nat) := f (Obj.REEL_LS.FIRST s) + f (Obj.REEL_LS.REGIONS s)
  let q := f (Obj.REEL_LS.QUEUE_IN s)
  en s && (
    ((List.range s).any fun t => en t && decide (lo s < hi t) && decide (lo t < hi s)) || decide (16 < hi s) ||
    !((qRole q d == 1 || qRole q d == 2) && cfg (Obj.SKN_QUEUE.LS q) d == s) ||
    decide (f (Obj.REEL_LS.GUARD s) < 2) || decide (f (Obj.REEL_LS.REGIONS s) * 2048 < 4 * f (Obj.REEL_LS.GUARD s)) ||
    decide (f (Obj.REEL_LS.REGIONS s) * 2048 < f (Obj.REEL_LS.WM_HIGH s)))

/-- What rejects a write of REEL_LS: WM_LOW not below WM_HIGH (Table 10.5, which gives no DETAIL), and the cases of R243, with DETAIL naming the
first store that meets one. -/
def reelLsCheck (ws : List Word) (d : Dev) : Option (Nat × Nat) :=
  let low (s : Nat) : Bool := fieldOf ws (Obj.REEL_LS.EN s) != 0 && decide (fieldOf ws (Obj.REEL_LS.WM_HIGH s) ≤ fieldOf ws (Obj.REEL_LS.WM_LOW s))
  if (List.range 4).any low then some (St.BAD_FIELD, 0) else ((List.range 4).find? (storeBad ws d)).map fun s => (St.BAD_FIELD, s)

def reelLsApply (ws : List Word) (d : Dev) : Dev :=
  let changed := (List.range 4).filter fun s =>
    [Obj.REEL_LS.EN s, Obj.REEL_LS.FIRST s, Obj.REEL_LS.REGIONS s, Obj.REEL_LS.QUEUE_IN s, Obj.REEL_LS.FC_PIN s, Obj.REEL_LS.GUARD s, Obj.REEL_LS.WM_HIGH s,
      Obj.REEL_LS.WM_LOW s].any fun f => fieldOf ws f != cfg f d
  refreshPins (each changed clearStore (setObj Obj.REEL_LS.id ws (each changed cutPackets d)))

/-- The words of SKN_STATUS (Table 10.6). -/
def sknStatusWords (d : Dev) : List Word :=
  let s := d.skn
  packF 8 [(Obj.SKN_STATUS.PARITY_POISON, s.parityPoison), (Obj.SKN_STATUS.REFETCH, s.refetch), (Obj.SKN_STATUS.HDR_PARITY, s.hdrParity),
    (Obj.SKN_STATUS.ABORTS, s.aborts), (Obj.SKN_STATUS.REEL_CE, s.reelCe), (Obj.SKN_STATUS.REEL_UE, s.reelUe), (Obj.SKN_STATUS.REEL_UE_ADDR, s.reelUeAddr),
    (Obj.SKN_STATUS.POISON_INDEX, s.poisonIndex)]

/-- The words of SKN_QSTAT (Table 10.7). -/
def sknQstatWords (d : Dev) : List Word :=
  (mapIx (fun _ (x : Queue) => [BitVec.ofNat 32 (x.q.length + 524288 * b2n x.above + 1048576 * b2n x.q.isEmpty), BitVec.ofNat 32 x.pkt]) d.skn.queue).flatten

/-- TAIL_PTR (R248). -/
def tailPtr (x : Store) : Nat := match x.recs with | r :: _ => r.start | [] => x.writePtr

/-- The words of REEL_STATUS (Table 10.8). -/
def reelStatusWords (d : Dev) : List Word :=
  (mapIx (fun s (x : Store) =>
    [BitVec.ofNat 32 x.writePtr, BitVec.ofNat 32 (tailPtr x), BitVec.ofNat 32 (storeFree s d),
     BitVec.ofNat 32 (b2n x.above + 2 * b2n x.xoff + 4 * b2n x.refusing + 8 * b2n x.recNone + 16 * b2n x.confNone)] ++
    wordsOfNat 2 x.lastIndex ++ wordsOfNat 2 (tailIndex s d) ++ wordsOfNat 2 x.confirm ++ wordsOfNat 2 (rewindIndex s d) ++ wordsOfNat 2 x.firstRefused ++
    [BitVec.ofNat 32 x.refused, 0]) d.skn.store).flatten

/-- The first store that holds an unconfirmed record (R253, R476). -/
def unconfirmed (d : Dev) : Bool := (enabledStores d).any fun s => !(storeAt s d).recs.isEmpty

end Sys2Proof.Machine
end

