-- ==== Sys2Proof/Machine/Packing.lean ====
section
/-! DEFINITION. Output packing (R168 to R170) and the verification of a restart (R270). -/

namespace Sys2Proof.Machine

/-- The restart is verified on the first line from K_r on that reaches packing (R270). -/
def restartVerify (k : Nat) (rec : LineRec) (d : Dev) : Dev :=
  match d.pace.verify with
  | none => d
  | some kr =>
    if k < kr then d
    else
      let d := d.uPace fun p => { p with verify := none }
      let off := (rec.pos - posOf (lineAt kr d) d).natAbs
      if k = kr ∧ 16 * off ≤ pitch d then raise 377 (d.uPace fun p => { p with restarts := sat16 p.restarts })
      else
        let miss := min 4294967295 (k - kr)
        let d := raise 378 (d.uPace fun p => { p with restartFail := sat16 p.restartFail, seamLast := miss })
        let d := updLine k (fun l => { l with flags := l.flags ||| FL.SEAM, seamMissing := miss }) d
        if 0 < miss then postEvent 4 0 St.SEAM 378 (some k) [miss] d else d

/-- The header of an output line (R170, Table 12.1). -/
def packHdr (o : OutLine) (rec : LineRec) (pixels : Nat) (d : Dev) : Hdr :=
  let tdi := decide (1 < rowsOf d)
  { k := o.k, phase := rec.phase, pos := ofS 64 rec.pos, ts := rec.ts, bytes := 0, pixels,
    flags := if tdi then o.flags ||| (rec.flags &&& (FL.SEAM ||| FL.FRAME_START ||| FL.FRAME_END ||| FL.PACE_SLOW)) else rec.flags
    addr := headerAddr d, tile := headerTile d, seam := rec.seamMissing
    ovr := min 65535 (if tdi then o.ovr else rec.ovr), undr := min 65535 (if tdi then o.undr else rec.undr), pg := if tdi then o.pgEpoch else rec.pgEpoch, pcrc := 0 }

/-- The packed record of an output line, its pixels, and whether a clamp acted (R168 to R170). -/
def packRecord (o : OutLine) (rec : LineRec) (d : Dev) : List (List Word) × List Int × Bool :=
  let px := o.v.map fun p => packPixel p.1 p.2 d
  let out := px.map Prod.fst
  (recordWords (packHdr o rec out.length d) (payloadWords out (outBits d)), out, px.any Prod.snd)

/-- PACK_LINE: the next output line is packed and pushed into Skein. -/
def packLine (d : Dev) : Dev :=
  match d.hdl.packQ with
  | [] => d
  | o :: rest =>
    if packStalled d then d
    else
      let d := d.uHdl fun h => { h with packQ := rest }
      match lineRec o.k d with
      | none => d
      | some rec0 =>
        let d := restartVerify o.k rec0 d
        let lr := (lineRec o.k d).getD rec0
        let (words, out, clip) := packRecord o lr d
        let d := if clip then d.uHdl fun h => { h with clipPack := sat16 h.clipPack } else d
        let d := histOutput o.k lr.phase out (outBits d == 32) d
        let d := d.uPace fun p => { p with recBytes := 32 * words.length }
        let d := { d with lines := d.lines.filter fun l => !((l.passed || l.priming) && decide (l.k ≤ o.k)) }
        each (packTargets d) (fun q d => pushPacket q (packet words) d) d

/-- HEDDLE_LINE_DONE while packing is not stalled. The TDI engine accepts a frame once it has read out every closed line that its closing buffer
does not hold: all but one (R194). -/
def lineDone (d : Dev) : Dev := if packStalled d || (decide (1 < rowsOf d) && decide (1 < d.hdl.packQ.length)) then d else heddleLineDone d

end Sys2Proof.Machine
end

