-- ==== Sys2Proof/Machine/HostStream.lean ====
section
/-! DEFINITION. The host stream (chapter 12): completion queues and messages, rings and groups, descriptors, delivery, confirmation, re-send,
and the power state of the PCIe link and function. -/

namespace Sys2Proof.Machine

def ringAt (n : Nat) (d : Dev) : Ring := at' d.hs.ring n {}
def updRing (n : Nat) (f : Ring → Ring) (d : Dev) : Dev := d.uHs fun h => { h with ring := upd h.ring n f }
def cqAt (q : Nat) (d : Dev) : Cq := at' d.hs.cq q {}
def updCq (q : Nat) (f : Cq → Cq) (d : Dev) : Dev := d.uHs fun h => { h with cq := upd h.cq q f }

/-- The function may issue DMA (R292). -/
def dmaOpen (d : Dev) : Bool := d.hs.func == .d0 && (d.hs.link == .l0 || d.hs.link == .l1 || d.hs.link == .l11 || d.hs.link == .l12)

/-! Messages (R291, R292). -/

/-- A message is sent on a vector; a masked vector sets its pending bit. -/
def sendMsg (v : Nat) (d : Dev) : Dev :=
  let e := at' d.hs.msix v {}
  if e.mask then d.uHs fun h => { h with pba := setBit h.pba v true }
  else writeBytes e.addr (bytesOfNat 4 e.data) d

/-- A message is requested on a vector. -/
def requestMsg (v : Nat) (d : Dev) : Dev :=
  if d.hs.func = .d0 ∧ d.hs.link = .l0 ∧ d.hs.cfg.msixEn then sendMsg v d
  else
    let d := d.uHs fun h => { h with waiting := if h.waiting.contains v then h.waiting else h.waiting ++ [v] }
    if d.hs.link = .l2 then raise 336 (d.uHs fun h => { h with wakeL := true, wakes := sat16 h.wakes })
    else if d.hs.func ≠ .d0 then raise 336 (d.uHs fun h => { h with pme := true, wakes := sat16 h.wakes })
    else if dmaOpen d && d.hs.link != .l0 then d.uHs fun h => { h with l1Exit := true, clkreq := true }
    else d

/-- The messages that wait are sent once the function is in D0, the link in L0 and MSI-X enabled. -/
def sendWaitingMsgs (d : Dev) : Dev :=
  if d.hs.func = .d0 ∧ d.hs.link = .l0 ∧ d.hs.cfg.msixEn then each d.hs.waiting sendMsg (d.uHs fun h => { h with waiting := [] }) else d

/-- PCIE_AER_ERROR: the function logs a correctable or an uncorrectable error (R297). -/
def pcieAerError (ue : Bool) (d : Dev) : Dev :=
  raise 332 (d.uHs fun h => if ue then { h with aerUe := sat16 h.aerUe } else { h with aerCe := sat16 h.aerCe })

/-! Completion queues (R289 to R291). -/

/-- The words of a completion entry (Table 12.5). -/
def entryWords (e : CqEntry) (phase : Bool) : List Word :=
  let w (n : Nat) : Word := BitVec.ofNat 32 n
  [w (b2n phase + 2 * e.kind + 256 * e.ring + 65536 * e.status), w (e.descIdx + 65536 * e.lines), w e.bytes, w e.flagsOr, w e.first,
   w ((e.first >>> 32) % 65536 + 65536 * b2n e.readErr), w e.skipped, w e.cookie]

def cqBad (x : Cq) : Bool := x.cbLo % 4096 != 0 || decide (x.sizeLog2 < 4)

/-- Whether queue q can take an entry. -/
def cqRoom (x : Cq) : Bool := decide ((x.tail + 65536 - x.head) % 65536 < 2 ^ x.sizeLog2)

/-- The message of a queue is requested, and its count and timer start over. -/
def cqMessage (q : Nat) (d : Dev) : Dev := requestMsg (cqAt q d).vector (updCq q (fun x => { x with pending := 0, timer := false }) d)

/-- An entry is written and counted (R290, R291). -/
def writeEntry (q : Nat) (e : CqEntry) (d : Dev) : Dev :=
  let x := cqAt q d
  let slot := x.tail % 2 ^ x.sizeLog2
  let phase := (x.tail >>> x.sizeLog2) % 2 == 0
  let d := writeWords (x.cbLo + 4294967296 * x.cbHi + 32 * slot) (entryWords e phase) d
  let d := updCq q (fun x => { x with tail := wrap16 (x.tail + 1), pending := sat8 x.pending, timer := true }) d
  if x.modCount ≤ x.pending + 1 then cqMessage q d else d

/-- What follows the writing of an entry: the KIND 1 entry of a re-send ends it, and RS_BUSY clears (R294). -/
def entryWritten (n : Nat) (e : CqEntry) (d : Dev) : Dev := if e.ends then raise 330 (updRing n (fun r => { r with resend := none }) d) else d

/-- The entry a ring holds for its completion queue is written, or the ring waits (R290). -/
def postEntries : Nat → Nat → Dev → Dev
  | 0, _, d => d
  | f + 1, n, d =>
    let r := ringAt n d
    match r.entries with
    | [] => d
    | e :: rest =>
      let x := cqAt r.cq d
      if !x.en || cqBad x || !dmaOpen d then d
      else if cqRoom x then postEntries f n (entryWritten n e (writeEntry r.cq e (updRing n (fun r => { r with entries := rest }) d)))
      else if x.full then d
      else raise (320 + r.cq) (updCq r.cq (fun x => { x with full := true }) d)

/-- A ring's next completion. -/
def pushEntry (n : Nat) (e : CqEntry) (d : Dev) : Dev :=
  postEntries 4 n (updRing n (fun r => { r with entries := r.entries ++ [{ e with ring := n }] }) d)

/-! Descriptors (R287, R288). -/

/-- Descriptors posted and not consumed. -/
def Ring.posted (r : Ring) : Nat := (r.prod + 65536 - r.cons) % 65536

/-- A descriptor from its eight words (Table 12.3). -/
def descOf (ws : List Word) : Desc :=
  let g (off wid : Nat) : Nat := getBits ws off wid
  { addr := g 0 64, len := g 64 32, maxLines := g 96 16, eof := g 112 1 != 0, cookie := g 128 32,
    bad := g 0 6 != 0 || g 64 5 != 0 || g 113 15 != 0 || g 160 64 != 0 || g 224 32 != 0 }

/-- The descriptors that complete at once are completed, and the next one becomes the one to fill. -/
def takeDesc : Nat → Nat → Dev → Dev
  | 0, _, d => d
  | f + 1, n, d =>
    let r := ringAt n d
    if r.fill.isSome || !r.entries.isEmpty then d
    else
      match r.fetched with
      | [] => d
      | x :: rest =>
        let idx := r.cons
        let d := updRing n (fun r => { r with fetched := rest }) d
        if x.bad then
          let d := raise 329 (updRing n (fun r => { r with cons := wrap16 (r.cons + 1), descErr := sat16 r.descErr }) d)
          takeDesc f n (pushEntry n { kind := 0, ring := n, status := St.BAD_FIELD, descIdx := idx, cookie := x.cookie } d)
        else if x.len = 0 then
          let d := updRing n (fun r => { r with cons := wrap16 (r.cons + 1) }) d
          takeDesc f n (pushEntry n { kind := 0, ring := n, status := St.OK, descIdx := idx, cookie := x.cookie } d)
        else updRing n (fun r => { r with fill := some { desc := x, idx } }) d

/-- The descriptor being filled completes (R288). -/
def completeDesc (n status : Nat) (d : Dev) : Dev :=
  match (ringAt n d).fill with
  | none => d
  | some x =>
    let d := updRing n (fun r => { r with fill := none, cons := wrap16 (r.cons + 1) }) d
    takeDesc 17 n (pushEntry n { kind := 0, ring := n, status, descIdx := x.idx, lines := x.lines, bytes := x.bytes, flagsOr := x.flagsOr,
                                 first := x.first, readErr := x.readErr, cookie := x.desc.cookie } d)

/-- Rings that wait at their completion go on when their queue takes entries again. -/
def cqDrain (q : Nat) (d : Dev) : Dev :=
  let d := updCq q (fun x => { x with full := x.full && !cqRoom x, cfgErr := x.en && cqBad x }) d
  each (List.range 64) (fun n d => if (ringAt n d).cq = q then takeDesc 17 n (postEntries 16 n d) else d) d

/-- LINK_POWER_STATE_CHANGE: the link takes a power state, with its speed, width and maximum payload size once it is up. In L1.2 CLKREQ_L is not
asserted (R292). The entries that waited for the link are written, and then the messages sent. -/
def linkState (st : LinkPower) (speed width mps : Nat) (d : Dev) : Dev :=
  let was := d.hs.link
  let d := d.uHs fun h => { h with
    link := st, speed := if st = .down then 0 else speed, width := if st = .down then 0 else width, mps
    clkreq := st == .l0 || st == .l1 || st == .l11, l1Exit := h.l1Exit && st != .l0 }
  let d := if (was = .l0) = (st = .l0) then d else raise 333 d
  sendWaitingMsgs (each (List.range 8) cqDrain d)

/-! What the function's packets on the link carry (Table 12.6); the model holds no packets (assumption log 112). -/

/-- The size in bytes of base address register n: BAR0 only; BAR2 and BAR4 read 0. -/
def barSize (n : Nat) : Nat := if n = 0 then 16777216 else 0

/-- The attributes of a data write: relaxed ordering where Device Control enables it, and No Snoop, which is never set. -/
def writeAttrs (d : Dev) : Bool × Bool := (d.hs.cfg.relaxed, false)

/-- The most bytes that one request of a descriptor fetch reads. -/
def readRequest (d : Dev) : Nat := 128 * 2 ^ d.hs.cfg.mrrs.val

/-- Packets carry an ECRC; the function sends LTR messages. -/
def sendsEcrc (d : Dev) : Bool := d.hs.cfg.ecrc
def sendsLtr (d : Dev) : Bool := d.hs.cfg.ltr

/-- FUNC_POWER_STATE_CHANGE: the function takes a power state; c, what the host has set in its configuration space. The entries that waited for D0
are written, and then the messages sent. -/
def funcPowerChange (st : FuncPower) (c : FuncCfg) (d : Dev) : Dev :=
  let was := d.hs.func
  let d := d.uHs fun h => { h with func := st, cfg := c, pme := h.pme && st != .d0, wakeL := h.wakeL && st != .d0 }
  sendWaitingMsgs (each (List.range 8) cqDrain (if was = st then d else raise 334 d))

/-- CQ_ENABLE: a write of the word at 0x08 of queue q (R289). -/
def cqEnable (q v : Nat) (d : Dev) : Dev :=
  cqDrain q (updCq q (fun x => if x.en then { x with en := bit v 31 }
    else { x with en := bit v 31, sizeLog2 := bits v 3 0, vector := bits v 13 8 }) d)

/-- CQ_HEAD_WRITE: the host advances HEAD (R290). -/
def cqHeadWrite (q v : Nat) (d : Dev) : Dev := cqDrain q (updCq q (fun x => { x with head := v % 65536 }) d)

/-- MSIX_MODERATION_TIMER: the moderation timer of queue q expires (R291). -/
def moderationTimer (q : Nat) (d : Dev) : Dev :=
  let x := cqAt q d
  if x.timer then (if 0 < x.pending then cqMessage q d else updCq q (fun x => { x with timer := false }) d) else d

/-! Groups (R285, R286). -/

/-- The line store of a ROLE 3 queue. -/
def queueStore (q : Nat) (d : Dev) : Option Nat := if qRole q d = 3 then some (cfg (Obj.SKN_QUEUE.LS q) d) else none

def ringsOf (q : Nat) (d : Dev) : List Nat := (List.range 64).filter fun n => (ringAt n d).en && (ringAt n d).queue == q

/-- The configuration of ring n breaks a condition of R286; its group is the one that delivers, or the one that would start. -/
def ringBad (n : Nat) (d : Dev) : Bool :=
  let r := ringAt n d
  let ms := if r.running then (groupAt r.queue d).members else ringsOf r.queue d
  (queueStore r.queue d).isNone || r.rbLo % 4096 != 0 || decide (r.sizeLog2 < 4) || decide (10 < r.batchLog2) ||
    ms.any fun m => (ringAt m d).batchLog2 != r.batchLog2

/-- NO_SESSION and CFG_ERR are brought up to date. -/
def refreshRings (d : Dev) : Dev :=
  each (List.range 64) (fun n d => updRing n (fun r => { r with noSession := r.en && !d.mnr.open_, cfgErr := r.en && ringBad n d }) d) d

/-- The group of queue q starts if every condition of R286 holds. -/
def groupStart (q : Nat) (d : Dev) : Dev :=
  let ms := ringsOf q d
  let waits := (groupAt q d).stopped && d.hs.ring.any fun r => r.named && r.queue == q && !r.en
  if groupRunning q d || ms.isEmpty || !d.mnr.open_ || ms.any (fun n => ringBad n d) || waits then d
  else
    let s := (queueStore q d).getD 0
    let t := tailIndex s d
    let d := updGroup q (fun _ => { members := ms, next := t, resentTo := at' d.hs.hiDlv s none }) d
    let d := updQueue q (fun x => { above := x.above }) d
    each ms (fun n d => updRing n (fun r => { r with running := true, stall := false, conf := if t = 0 then none else some (t - 1) }) d) d

/-- Groups whose conditions are now met start. -/
def groupsStart (d : Dev) : Dev := refreshRings (each (List.range 32) groupStart d)

/-- The last record of a re-send is sent, and its KIND 1 entry follows (R294). -/
def endResend (n : Nat) (d : Dev) : Dev :=
  match (ringAt n d).resend with
  | none => d
  | some r =>
    if r.sent then d
    else
      pushEntry n { kind := 1, ring := n, status := if r.skipped = 0 then St.OK else St.BAD_FIELD, first := r.first, skipped := min 65535 r.skipped, ends := true }
        (updRing n (fun x => { x with resend := some { r with sent := true } }) d)

/-- The member of a group that an index belongs to (R285). -/
def memberOf (k : Nat) (q : Nat) (d : Dev) : Option Nat :=
  let ms := (groupAt q d).members
  match ms with
  | [] => none
  | m :: _ => ms[(k >>> (ringAt m d).batchLog2) % ms.length]?

/-- The indices of a re-send that belong to ring n and are not tested yet. -/
def resendLeft (n : Nat) (r : Resend) (d : Dev) : List Nat :=
  ((List.range r.count).map (r.first + ·)).filter fun k => decide (r.next ≤ k) && memberOf k (ringAt n d).queue d == some n

/-- The whole group of queue q stops at a record boundary (R286). -/
def groupStop (q : Nat) (d : Dev) : Dev :=
  if groupRunning q d then
    let ms := (groupAt q d).members
    let d := each ms (fun n d =>
      let d := updRing n (fun r => { r with resend := r.resend.map fun x => if x.sent then x else { x with skipped := x.skipped + (resendLeft n x d).length } }) d
      let d := completeDesc n St.OK (updRing n (fun r => { r with fetched := [] }) (endResend n d))
      pushEntry n { kind := 2, ring := n, status := St.OK } (updRing n (fun r => { r with running := false, stall := false }) d)) d
    updQueue q (fun x => { above := x.above }) (updGroup q (fun g => { g with stopped := true, asm := [] }) d) |> evalQueue q
  else d

/-- RING_ENABLE: a write of the word at 0x08 of ring n stops its group, or starts those whose conditions it meets: its own, or the one that waited
for a ring that names another queue now (R284, R286). -/
def ringEnable (n v : Nat) (d : Dev) : Dev :=
  let r := ringAt n d
  let en := bit v 31
  let d := updRing n (fun r => if r.en then { r with en }
    else { r with en, sizeLog2 := bits v 3 0, batchLog2 := bits v 7 4, queue := bits v 12 8, cq := bits v 18 16, named := true }) d
  groupsStart (if !en && r.en && r.running then groupStop (ringAt n d).queue d else d)

/-- RING_PROD_WRITE: PROD takes a value, unless it would place too many descriptors (R287). -/
def ringProdWrite (n v : Nat) (d : Dev) : Dev :=
  let r := ringAt n d
  if 2 ^ r.sizeLog2 < (v % 65536 + 65536 - r.cons) % 65536 then d
  else updRing n (fun r => { r with prod := v % 65536, stall := r.stall && v % 65536 == r.cons }) d

/-- RING_DESC_FETCH: the device reads the next posted descriptor of ring n, whose words are ws (R287). -/
def ringDescFetch (n : Nat) (ws : List Word) (d : Dev) : Dev :=
  let r := ringAt n d
  if r.running && dmaOpen d && decide (r.fetched.length < 16) && decide (r.fetched.length + b2n r.fill.isSome < r.posted) then
    takeDesc 17 n (updRing n (fun r => { r with fetched := r.fetched ++ [descOf ws] }) d)
  else d

/-- RING_IDLE_FLUSH: IDLE_FLUSH µs have passed since the last record was placed (R288). -/
def ringIdleFlush (n : Nat) (d : Dev) : Dev :=
  let r := ringAt n d
  match r.fill with
  | some x => if r.running && r.idleFlush != 0 && decide (0 < x.lines) then completeDesc n St.OK d else d
  | none => d

/-! Delivery (R285, R288, R294, R295). -/

/-- A record is placed in the buffer of ring n; the descriptors it does not fit complete. Whether it was placed. -/
def placeRecord : Nat → Nat → Nat → Nat → Bool → List Word → Dev → Bool × Dev
  | 0, _, _, _, _, _, d => (false, d)
  | f + 1, n, k, fl, err, ws, d =>
    let r := ringAt n d
    let size := 4 * ws.length
    if !r.entries.isEmpty then (false, d)
    else
      match r.fill with
      | none =>
        if r.posted = 0 ∧ r.stall = false then (false, raise 328 (updRing n (fun r => { r with stall := true }) d)) else (false, d)
      | some x =>
        if x.bytes + size ≤ x.desc.len then
          let d := writeWords (x.desc.addr + x.bytes) ws d
          let lines := x.lines + 1
          let d := updRing n (fun r => { r with
            stall := false, dlv := some (match r.dlv with | some v => max v k | none => k)
            fill := some { x with bytes := x.bytes + size, lines, flagsOr := x.flagsOr ||| fl, first := if x.lines = 0 then k else x.first
                                  readErr := x.readErr || err } }) d
          let done := (x.desc.maxLines != 0 && lines == x.desc.maxLines) || (x.desc.eof && fl &&& FL.FRAME_END != 0)
          (true, if done then completeDesc n St.OK d else d)
        else if x.lines = 0 then
          placeRecord f n k fl err ws (completeDesc n St.BAD_FIELD (raise 329 (updRing n (fun r => { r with descErr := sat16 r.descErr }) d)))
        else placeRecord f n k fl err ws (completeDesc n St.OK d)

/-- A record as it is written into host memory: a re-sent one carries RESENT, and its HDR_CRC changes as that bit changes it, unless the word
that holds them reads as uncorrectable and stays zero (R282, R295). -/
def sentWords (rec : List (List Word)) (resent : Bool) (ue : List Nat) : List Word :=
  let ws := rec.flatten
  if resent && !ue.contains 1 then
    let body := ws.take 15
    let new := put body 8 (at' body 8 0 ||| BitVec.ofNat 32 FL.RESENT)
    new ++ [at' ws 15 0 ^^^ crcWords body ^^^ crcWords new] ++ ws.drop 16
  else ws

/-- Record k of store s, as it was read, goes to ring n. ue: its words that read as uncorrectable (R295). -/
def deliverTo (n s k : Nat) (words : List (List Word)) (resent : Bool) (ue : List Nat) (d : Dev) : Bool × Dev :=
  let ws := sentWords words resent ue
  let bad := !ue.isEmpty
  let (ok, d) := placeRecord 18 n k (at' ws 8 0).toNat bad ws d
  if ok then
    let d := d.uHs fun h => { h with resentLines := if resent then sat32 h.resentLines else h.resentLines
                                     readErrLines := if bad then sat16 h.readErrLines else h.readErrLines
                                     hiDlv := upd h.hiDlv s fun v => some (match v with | some x => max x k | none => k) }
    (true, if bad then raise 331 d else d)
  else (false, d)

/-- The record at the head of queue q, as Reel's directory names it (R295), with its words and the device without them. none: there is none. -/
def headRecord (q : Nat) (d : Dev) : Option (DirEntry × List (List Word) × Dev) :=
  let x := queueAt q d
  match x.dir with
  | [] => none
  | e :: es =>
    let asm := (groupAt q d).asm
    let need := e.len - asm.length
    let rest := (x.q ++ x.wait).drop need
    let left := x.q.length - need
    let d := updQueue q (fun y => { y with
      q := rest.take left, wait := rest.drop left, dir := es, got := 0, pkt := y.pkt - countIf (fun w : QWord => w.end_) (y.q.take need)
      midPush := y.midPush && decide (need ≤ y.q.length), stalled := y.stalled && decide (need ≤ y.q.length) }) d
    some (e, asm ++ ((x.q ++ x.wait).take need).map (·.d), evalQueue q (refill q (updGroup q (fun g => { g with asm := [] }) d)))

/-- One record of the re-send of ring n (R294); ue, the words of it that read as uncorrectable. -/
def resendStep (n s : Nat) (r : Resend) (ue : List Nat) (d : Dev) : Dev :=
  let left := resendLeft n r d
  let has (k : Nat) : Option Record :=
    if (match (ringAt n d).dlv with | some v => decide (k ≤ v) | none => false) then (storeAt s d).recs.find? fun x => x.k == k else none
  let lost := left.takeWhile fun k => (has k).isNone
  match left.drop lost.length with
  | [] => endResend n (updRing n (fun x => { x with resend := some { r with skipped := r.skipped + lost.length, next := r.first + r.count } }) d)
  | k :: _ =>
    match has k with
    | none => d
    | some rec' =>
      let (ws, dr) := readRecord s rec' ue d
      let (ok, dr) := deliverTo n s k ws true (ueOf ws.length ue) dr
      if ok then
        let r := { r with skipped := r.skipped + lost.length, next := k + 1 }
        let d := updRing n (fun x => { x with resend := some r }) dr
        if (resendLeft n r d).isEmpty then endResend n d else d
      else -- it is read again when its ring takes it
        (deliverTo n s k ws true (ueOf ws.length ue) d).2

/-- RING_DELIVER_RECORD: the next record of the group of queue q is written into its member's buffer. A re-send goes first; ue, the words of the
record it reads that read as uncorrectable. -/
def ringDeliver (q : Nat) (ue : List Nat) (d : Dev) : Dev :=
  match queueStore q d with
  | none => d
  | some s =>
    if groupRunning q d && dmaOpen d then
      match (groupAt q d).members.findSome? fun n => (ringAt n d).resend.bind fun r => if r.sent then none else some (n, r) with
      | some (n, r) => resendStep n s r ue d
      | none =>
        match headRecord q d with
        | none => d
        | some (e, words, d') =>
          match memberOf e.k q d' with
          | none => d
          | some n =>
            let resent := match (groupAt q d').resentTo with | some v => decide (e.k ≤ v) | none => false
            let (ok, d'') := deliverTo n s e.k words resent e.ue d'
            if ok then d''
            else -- the record waits at the head of the queue (R285)
              (deliverTo n s e.k words resent e.ue d).2
    else d

/-! Confirmation (R293) and re-send (R294). -/

/-- The lowest index from a on that belongs to the member of rank m among n (R285). -/
def firstOf (a m n b : Nat) : Nat :=
  let blk := a >>> b
  if blk % n = m then a else (blk + (m + n - blk % n) % n) <<< b

/-- u_r of the member of rank m in the group of queue q: the lowest index above its confirm index that holds a record, or may yet hold one. -/
def unconfirmedOf (q s m : Nat) (d : Dev) : Nat :=
  let ms := (groupAt q d).members
  let n := at' ms m 0
  let r := ringAt n d
  let low := match r.conf with | some c => c + 1 | none => 0
  let x := storeAt s d
  match x.recs.find? fun y => decide (low ≤ y.k) && memberOf y.k q d == some n with
  | some y => y.k
  | none => firstOf (max (max low (tailIndex s d)) (if x.recNone then 0 else x.lastIndex + 1)) m (max 1 ms.length) r.batchLog2

/-- RING_CONF_WRITE: a write of CONF_HI presents a confirm index. -/
def ringConfWrite (n v : Nat) (d : Dev) : Dev :=
  let d := updRing n (fun r => { r with confHi := v % 65536 }) d
  let r := ringAt n d
  match r.dlv with
  | none => d
  | some dlv =>
    let c := min (r.confLo + 4294967296 * r.confHi) dlv
    let more := match r.conf with | some o => decide (o < c) | none => true
    if !more then d
    else
      let d := updRing n (fun r => { r with conf := some c }) d
      let q := r.queue
      match queueStore q d with
      | none => d
      | some s =>
        let ms := (groupAt q d).members
        if ms.contains n then
          let us := (List.range ms.length).map fun m => unconfirmedOf q s m d
          let u := us.foldl min (us.headD 0)
          if u = 0 then d else storeConfirm s (u - 1) d
        else d

/-- RING_RESEND_REQUEST: a write of RS_CNT requests cnt indices again. -/
def ringResendRequest (n cnt : Nat) (d : Dev) : Dev :=
  let r := ringAt n d
  let first := r.rsLo + 4294967296 * r.rsHi
  if r.resend.isSome then updRing n (fun r => { r with rsDrop := sat16 r.rsDrop }) d
  else if cnt % 65536 = 0 then pushEntry n { kind := 1, ring := n, status := St.BAD_FIELD, first } d
  else updRing n (fun r => { r with resend := some { first, count := cnt % 65536, next := first } }) d

/-! Register writes without a row of their own. -/

/-- A write of the word at an offset of ring n's block (Table 12.2). -/
def ringWrite (n off v : Nat) (d : Dev) : Dev :=
  match off with
  | 0x00 => updRing n (fun r => if r.en then r else { r with rbLo := v }) d
  | 0x04 => updRing n (fun r => if r.en then r else { r with rbHi := v }) d
  | 0x08 => ringEnable n v d
  | 0x0C => ringProdWrite n v d
  | 0x14 => updRing n (fun r => { r with confLo := v }) d
  | 0x18 => ringConfWrite n v d
  | 0x1C => updRing n (fun r => { r with rsLo := v }) d
  | 0x20 => updRing n (fun r => { r with rsHi := v % 65536 }) d
  | 0x24 => ringResendRequest n v d
  | 0x34 => updRing n (fun r => { r with idleFlush := v % 1024 }) d
  | _ => d

/-- A write of the word at an offset of completion queue q's block (Table 12.4). -/
def cqWrite (q off v : Nat) (d : Dev) : Dev :=
  match off with
  | 0x00 => updCq q (fun x => if x.en then x else { x with cbLo := v }) d
  | 0x04 => updCq q (fun x => if x.en then x else { x with cbHi := v }) d
  | 0x08 => cqEnable q v d
  | 0x0C => cqHeadWrite q v d
  | 0x14 => updCq q (fun x => { x with modCount := if bits v 7 0 = 0 then x.modCount else bits v 7 0
                                       modTime := if bits v 26 16 = 0 ∨ 1024 < bits v 26 16 then x.modTime else bits v 26 16 }) d
  | _ => d

/-- A write of word w of entry v of the MSI-X table: a vector that is unmasked with its pending bit set sends its message. -/
def msixWrite (v w x : Nat) (d : Dev) : Dev :=
  let d := d.uHs fun h => { h with msix := upd h.msix v fun e =>
    match w with
    | 0 => { e with addr := e.addr / 4294967296 * 4294967296 + x / 4 * 4 }
    | 1 => { e with addr := e.addr % 4294967296 + 4294967296 * x }
    | 2 => { e with data := x }
    | _ => { e with mask := bit x 0 } }
  if w = 3 ∧ bit x 0 = false ∧ d.hs.pba.testBit v then requestMsg v (d.uHs fun h => { h with pba := setBit h.pba v false }) else d

/-- The words of HS_STATUS (Table 12.10). -/
def hsStatusWords (d : Dev) : List Word :=
  let h := d.hs
  packF 4 [(Obj.HS_STATUS.SPEED, h.speed), (Obj.HS_STATUS.WIDTH, h.width), (Obj.HS_STATUS.MPS, h.mps),
    (Obj.HS_STATUS.D_STATE, if h.func = .d0 then 0 else 3), (Obj.HS_STATUS.RESENT_LINES, h.resentLines), (Obj.HS_STATUS.READ_ERR_LINES, h.readErrLines),
    (Obj.HS_STATUS.WAKES, h.wakes), (Obj.HS_STATUS.AER_CE, h.aerCe), (Obj.HS_STATUS.AER_UE, h.aerUe)]

end Sys2Proof.Machine
end

