-- ==== Sys2Proof/Machine/Taproot.lean ====
section
/-! DEFINITION. Taproot's inputs, events, timer and registers (R429, R430). -/

namespace Sys2Proof.Machine

/-- The device sleeps with its interrupt controller powered off (R428). -/
def tapOnly (d : Dev) : Bool := d.pwr.mode == .sleep && d.ic.slpKind

/-- SENSE of input i (Table 18.5). -/
def tapSense (i : Nat) (d : Dev) : Nat :=
  let w := if i < 16 then d.tap.sense0 else d.tap.sense1
  bits w (2 * (i % 16) + 1) (2 * (i % 16))

/-- Input i fires while Taproot is armed: EVENT, and FIRST with its time for the first one. -/
def tapFire (i : Nat) (d : Dev) : Dev :=
  if d.tap.armed && bit d.tap.watch i && !bit d.tap.event i then
    d.uTap fun t => { t with event := setBit t.event i true, fired := true, first := if t.fired then t.first else i
                             firstTime := if t.fired then t.firstTime else d.ns }
  else d

/-- Input i takes a level; inputs 1 to 31 are the interrupt sources of the same numbers (the controller is in reset in RESET, and off in
Taproot-only SLEEP). -/
def taprootInput (i : Nat) (v : Bool) (d : Dev) : Dev :=
  let old := bit d.tap.input i
  let sense := if i = 0 then 0 else tapSense i d
  let d := d.uTap fun t => { t with input := setBit t.input i v }
  let d := if i = 0 ∨ tapOnly d ∨ d.pwr.mode = .reset then d else icDo (.input i v) d
  if icArrives sense old v then tapFire i d else d

/-- An event of input i: its level goes high and low again. -/
def tapPulse (i : Nat) (d : Dev) : Dev := taprootInput i false (taprootInput i true d)

/-- Taproot is armed at the sleep request: level inputs that are high fire at once (R431). -/
def tapArm (d : Dev) : Dev :=
  let d := d.uTap fun t => { t with armed := true, fired := false, woke := false, event := 0, first := 0, firstTime := 0 }
  each (List.range 32) (fun i d => if (i = 0 ∨ tapSense i d = 0) ∧ bit d.tap.input i then tapFire i d else d) d

/-- IC_LEVEL_DEASSERT: the input of source n falls to 0 (R419). Sources 1 to 26 are Taproot's inputs (R429); for the D2H sources it is the posting
core's acknowledgement (R320). -/
def icLevelDeassert (n : Nat) (d : Dev) : Dev :=
  if 1 ≤ n ∧ n ≤ 26 then taprootInput n false d
  else if 40 ≤ n ∧ n ≤ 47 then
    icDo (.input n false) (d.uMbx fun m => { m with d2hAck := setBit m.d2hAck (n - 40) false })
  else if n ≤ 31 ∨ (32 ≤ n ∧ n ≤ 57) then d
  else icDo (.input n false) d

/-- TAP_EVENT_W1C: Distaff clears bits of TAP_EVENT. -/
def tapEventClear (mask : Nat) (d : Dev) : Dev := d.uTap fun t => { t with event := maskAndNot t.event mask }

/-- TAP_TIMER_EXPIRY: the wake timer expires, and input 22 fires. -/
def tapTimerExpiry (d : Dev) : Dev :=
  if d.tap.timer = 0 then d else tapPulse 22 (d.uTap fun t => { t with timer := 0 })

/-- A write of a Taproot register by Distaff (Table 18.5). -/
def tapWrite (off v : Nat) (d : Dev) : Dev :=
  d.uTap fun t => match off with
    | 0x00 => { t with watch := v ||| 1 }
    | 0x04 => { t with sense0 := v }
    | 0x08 => { t with sense1 := v }
    | 0x0C => { t with event := maskAndNot t.event v }
    | 0x20 => { t with timer := v }
    | _ => t

end Sys2Proof.Machine
end

