-- ==== Sys2Proof/Machine/Mailboxes.lean ====
section
/-! DEFINITION. Mailboxes and doorbells (chapter 13): posting and taking, time-outs, discards, routes, event registers and the level sources of
Table 13.9. -/

namespace Sys2Proof.Machine

def updH2d (m : Nat) (f : Mbox → Mbox) (d : Dev) : Dev := d.uMbx fun x => { x with h2d := upd x.h2d m f }
def updD2h (m : Nat) (f : Mbox → Mbox) (d : Dev) : Dev := d.uMbx fun x => { x with d2h := upd x.d2h m f }
def updMbi (i : Nat) (f : Mbox → Mbox) (d : Dev) : Dev := d.uMbx fun x => { x with mbi := upd x.mbi i f }
def h2dAt (m : Nat) (d : Dev) : Mbox := at' d.mbx.h2d m {}
def d2hAt (m : Nat) (d : Dev) : Mbox := at' d.mbx.d2h m {}
def mbiAt (i : Nat) (d : Dev) : Mbox := at' d.mbx.mbi i {}

/-- The present epoch of an endpoint (R312): cores 0 to 3, Distaff 4, the host 5. -/
def epochOf (e : Nat) (d : Dev) : Nat := if e < 4 then at' d.mbx.cpyEpoch e 0 else if e = 4 then d.mbx.secEpoch else d.hs.hostEpoch

/-- The level of mailbox source n (Table 13.9). -/
def mbxLevel (n : Nat) (d : Dev) : Bool :=
  if n < 40 then (h2dAt (n - 32) d).posted
  else if n < 48 then bit d.mbx.d2hAck (n - 40)
  else if n < 53 then at' d.mbx.mbiArrived (n - 48) 0 != 0
  else at' d.mbx.mbiEmptied (n - 53) 0 != 0

/-- The sources of Table 13.9, and Taproot input 0 (R429), follow their conditions. -/
def mbxLevels (d : Dev) : Dev :=
  let d := each (List.range 26) (fun i d => icLevel (32 + i) (mbxLevel (32 + i) d) d) d
  taprootInput 0 (((List.range 8).any fun m => mbxLevel (32 + m) d) || (List.range 5).any fun t => mbxLevel (48 + t) d) d

/-- TAPROOT_INPUT: input i takes a level. Input 0 is the OR of the mailbox sources whatever is commanded, and inputs 27 to 31 are reserved and never
set (R416, R429). -/
def tapInput (i : Nat) (v : Bool) (d : Dev) : Dev := if i = 0 then mbxLevels d else if 27 ≤ i then d else taprootInput i v d

/-! Event bits. An event bit has a number here: bit m of H2D_EMPTIED is m, bit m of D2H_ARRIVED 8 + m, bit i of MBI_ARRIVED_t 64 + 64·t + i, and
bit i of MBI_EMPTIED_t 80 + 64·t + i (assumption log 2: one cycle is one instant). -/

def arrivedKey (t i : Nat) : Nat := 64 + 64 * t + i
def emptiedKey (t i : Nat) : Nat := 80 + 64 * t + i

/-- An event bit is set now; was: its value before. -/
def noteSet (key : Nat) (was : Bool) (d : Dev) : Dev :=
  d.uMbx fun x => { x with fresh := (d.now, (if x.fresh.1 = d.now then x.fresh.2 else []) ++ [(key, !was)]) }

/-- The n bits from an event bit on that were set at this instant: a clear in the same cycle leaves them (R308, R318). -/
def freshBits (key n : Nat) (d : Dev) : Nat :=
  if d.mbx.fresh.1 = d.now then packBits ((List.range n).map fun i => d.mbx.fresh.2.any fun x => x.1 == key + i) else 0

/-- The bit rose at this instant. -/
def roseNow (key : Nat) (d : Dev) : Bool := d.mbx.fresh.1 == d.now && d.mbx.fresh.2.any fun x => x.1 == key && x.2

/-- Bits of H2D_EMPTIED and D2H_ARRIVED are set; a bit that rises requests its message (R308). -/
def emptiedBit (m : Nat) (d : Dev) : Dev :=
  let was := bit d.mbx.h2dEmptied m
  let d := noteSet m was (d.uMbx fun x => { x with h2dEmptied := setBit x.h2dEmptied m true })
  if d.mbx.evtEn && !was then requestMsg d.mbx.emptyVec d else d
def arrivedBit (m : Nat) (d : Dev) : Dev :=
  let was := bit d.mbx.d2hArrived m
  let d := noteSet (8 + m) was (d.uMbx fun x => { x with d2hArrived := setBit x.d2hArrived m true })
  if d.mbx.evtEn && !was then requestMsg d.mbx.arriveVec d else d

/-- The posting core's source of D2H mailbox m is raised (R320). -/
def ackRaise (m : Nat) (d : Dev) : Dev := d.uMbx fun x => { x with d2hAck := setBit x.d2hAck m true }
def mbiArrive (t i : Nat) (d : Dev) : Dev :=
  noteSet (arrivedKey t i) (bit (at' d.mbx.mbiArrived t 0) i) (d.uMbx fun x => { x with mbiArrived := upd x.mbiArrived t fun v => setBit v i true })
def mbiEmpty (t i : Nat) (d : Dev) : Dev :=
  noteSet (emptiedKey t i) (bit (at' d.mbx.mbiEmptied t 0) i) (d.uMbx fun x => { x with mbiEmptied := upd x.mbiEmptied t fun v => setBit v i true })

/-! The messages that a reset of their receiver discards (R313). -/

def discardH2d (m : Nat) (d : Dev) : Dev :=
  emptiedBit m (updH2d m (fun x => { x with posted := false, discarded := true, lostAt := some d.now }) d)
def discardD2h (m : Nat) (d : Dev) : Dev :=
  ackRaise m (updD2h m (fun x => { x with posted := false, discarded := true, tmo := false, lostAt := some d.now }) d)
def discardMbi (i : Nat) (d : Dev) : Dev :=
  mbiEmpty (mbiAt i d).sender i (updMbi i (fun x => { x with posted := false, discarded := true, tmo := false, lostAt := some d.now }) d)

/-! Actions that meet in one cycle (Table 13.6). -/

/-- The domain of endpoint e is reset at this instant. -/
def resetNow (e : Nat) (d : Dev) : Bool := at' d.mbx.resetAt e none == some d.now

/-- POST_EPOCH of a GO by endpoint e: a reset of the sender in the same cycle comes after it. -/
def goEpoch (e : Nat) (d : Dev) : Nat := if resetNow e d then (epochOf e d + 65535) % 65536 else epochOf e d

/-- A GO finds the mailbox posted, also where a DONE of the same cycle empties it. -/
def full (x : Mbox) (d : Dev) : Bool := x.posted || x.doneAt == some d.now

/-- The mailbox after its GO. -/
def Mbox.go (now limit epoch : Nat) (x : Mbox) : Mbox :=
  { x with posted := true, tmo := false, tmoSpent := false, tmoLimit := limit, postEpoch := epoch, goAt := now, doneAt := none, lostAt := none, tmoAt := none }

/-- The mailbox after its DONE. -/
def Mbox.done (now : Nat) (x : Mbox) : Mbox := { x with posted := false, tmo := false, doneAt := some now, tmoAt := none }

/-- A DONE that meets the reset of its receiver: the message counts as taken. -/
def Mbox.taken (now : Nat) (x : Mbox) : Mbox := if x.lostAt = some now then { x with discarded := false, lostAt := none, doneAt := some now } else x

/-- The host reaches BAR0 (R311). -/
def hostReach (d : Dev) : Bool := dmaOpen d

/-- A write by the host, which does nothing while the host cannot reach the device. -/
def hostWrite (f : Dev → Dev) (d : Dev) : Dev := if hostReach d then f d else d

/-- OVERRUN of a host mailbox. -/
def overrunCount (d : Dev) : Dev := d.uMbx fun x => { x with overrunCount := sat16 x.overrunCount }

/-- OVERRUN of H2D mailbox m: a write finds it posted (R306). -/
def h2dOverrun (m : Nat) (d : Dev) : Dev := overrunCount (updH2d m (fun x => { x with overrun := true }) d)

/-- H2D_GO: the host posts H2D mailbox m (R306). -/
def h2dGo (m : Nat) (d : Dev) : Dev :=
  hostWrite (fun d =>
    if full (h2dAt m d) d then h2dOverrun m d
    else
      let d := mbxLevels (updH2d m (fun x => x.go d.now x.tmoLimit (goEpoch hostEnd d)) d)
      if resetNow (h2dAt m d).receiver d then mbxLevels (discardH2d m d) else d) d

/-- A host write of word i of H2D mailbox m (R306). -/
def h2dWord (m i v : Nat) (d : Dev) : Dev :=
  if full (h2dAt m d) d then h2dOverrun m d
  else updH2d m (fun x => { x with words := put x.words i (BitVec.ofNat 32 v) }) d

/-- H2D mailbox m is the next one that the Meoner firmware takes: commands are taken in the order of their GO, and those of one cycle in the order
of the mailboxes (R325). -/
def nextTaken (m : Nat) (d : Dev) : Bool :=
  (List.range 8).all fun n =>
    let x := h2dAt n d
    let y := h2dAt m d
    !(x.posted && decide (x.receiver < 3)) || n == m || decide (y.goAt < x.goAt) || (y.goAt == x.goAt && decide (m < n))

/-- H2D_DONE: the receiver takes H2D mailbox m (R307); a Canopy core that runs Meoner takes a command with it, in the order of R325. -/
def h2dDone (m : Nat) (d : Dev) : Dev :=
  let x := h2dAt m d
  if x.posted then
    if x.receiver < 3 ∧ nextTaken m d = false then d
    else
      let d := mbxLevels (emptiedBit m (updH2d m (Mbox.done d.now) d))
      let w (i : Nat) : Nat := (at' x.words i 0).toNat
      if x.receiver < 3 then
        takeCommand m (bits (w 0) 31 30) (bits (w 0) 25 16) (bits (w 0) 15 0) (bits (w 0) 29 26) (w 1) ((x.words.drop 2).take (bits (w 0) 29 26)) x.postEpoch d
      else d
  else updH2d m (Mbox.taken d.now) d

/-- A message is posted to D2H mailbox m; se: the session whose completion it is. -/
def d2hPost (m : Nat) (ws : List Word) (se : Option Nat) (d : Dev) : Dev :=
  let s := (d2hAt m d).sender
  let d := mbxLevels (arrivedBit m (updD2h m (fun x => { (x.go d.now d.mbx.mbxTmo (goEpoch s d)) with words := ws ++ x.words.drop ws.length, sess := se }) d))
  if resetNow hostEnd d then mbxLevels (discardD2h m d) else d

/-- D2H_GO: the firmware posts the next message that waits for D2H mailbox m: a completion, else an event where m is EVENT_MBX (R322, R335). -/
def d2hGo (m : Nat) (d : Dev) : Dev :=
  if full (d2hAt m d) d then d
  else
    match splitAt? (fun x => x.1 == m) d.mnr.out with
    | some (l, x, r) => d2hPost m x.2.1 x.2.2 (d.uMnr fun y => { y with out := l ++ r })
    | none =>
      match d.mnr.events with
      | e :: rest =>
        if d.mnr.open_ && d.mnr.eventMbx == m then
          d2hPost m (eventWords e d.mnr.lostSince) none (d.uMnr fun y => { y with events := rest, lostSince := 0 })
        else d
      | [] => d

/-- The D2H mailboxes that timed out at this instant, other than m. -/
def timedNow (m : Nat) (d : Dev) : List Nat :=
  (List.range 8).filter fun j => j != m && (match (d2hAt j d).tmoAt with | some (t, _) => t == d.now | none => false)

/-- A time-out that meets a DONE is not reported (Table 13.6): TMO_COUNT counts the other time-outs of the instant alone. -/
def untimeD2h (m : Nat) (d : Dev) : Dev :=
  match (d2hAt m d).tmoAt with
  | some (t, n) =>
    if t = d.now then
      let js := timedNow m d
      let base := (js.filterMap fun j => (d2hAt j d).tmoAt.map Prod.snd).foldl min n
      (each js (fun j d => updD2h j (fun x => { x with tmoAt := some (t, base) }) d) d).uMbx fun x => { x with tmoCount := min 65535 (base + js.length) }
    else d
  | none => d

/-- The event bit of a time-out that meets a DONE goes back. -/
def untimeMbi (i : Nat) (d : Dev) : Dev :=
  let x := mbiAt i d
  match x.tmoAt with
  | some (t, _) =>
    if t = d.now ∧ roseNow (emptiedKey x.sender (16 + i)) d = true then
      d.uMbx fun y => { y with mbiEmptied := upd y.mbiEmptied x.sender fun v => setBit v (16 + i) false }
    else d
  | none => d

/-- D2H_DONE: the host takes D2H mailbox m (R307). -/
def d2hDone (m : Nat) (d : Dev) : Dev :=
  hostWrite (fun d =>
    if (d2hAt m d).posted then mbxLevels (ackRaise m (updD2h m (Mbox.done d.now) (untimeD2h m d)))
    else updD2h m (Mbox.taken d.now) d) d

/-- D2H_TIMEOUT: MBX_TMO passes after the GO of a D2H mailbox that is still posted (R310). -/
def d2hTimeout (m : Nat) (d : Dev) : Dev :=
  let x := d2hAt m d
  if x.posted && !x.tmoSpent then
    let d := updD2h m (fun x => { x with tmo := true, tmoSpent := true, tmoAt := some (d.now, d.mbx.tmoCount) }) d
    mbxLevels (ackRaise m (d.uMbx fun y => { y with tmoCount := sat16 y.tmoCount }))
  else d

/-- MBX_EVENT_W1C: the host clears bits of H2D_EMPTIED and D2H_ARRIVED. -/
def mbxEventClear (v : Nat) (d : Dev) : Dev :=
  hostWrite (fun d => d.uMbx fun x => { x with
    h2dEmptied := maskAndNot x.h2dEmptied (maskAndNot (bits v 7 0) (freshBits 0 8 d))
    d2hArrived := maskAndNot x.d2hArrived (maskAndNot (bits v 15 8) (freshBits 8 8 d)) }) d

/-- HOST_DB_WRITE: doorbells that the security map grants to the host (R308, R484). -/
def hostDbWrite (v : Nat) (d : Dev) : Dev :=
  hostWrite (fun d => each (maskIx (v &&& secMap Obj.SEC_MAP.HOST_DB d) 16) (fun i d => raise (496 + i) d) d) d

/-- MBI_GO: endpoint t sets GO of internal mailbox i (R306, R317). -/
def mbiGo (i t : Nat) (d : Dev) : Dev :=
  let x := mbiAt i d
  if x.sender ≠ t then d
  else if full x d then updMbi i (fun x => { x with overrun := true }) d
  else
    let d := mbxLevels (mbiArrive x.receiver i (updMbi i (fun x => x.go d.now x.tmoUs (goEpoch t d)) d))
    if resetNow x.receiver d then mbxLevels (discardMbi i d) else d

/-- MBI_DONE: endpoint t takes internal mailbox i (R307, R317). -/
def mbiDone (i t : Nat) (d : Dev) : Dev :=
  let x := mbiAt i d
  if x.receiver ≠ t then d
  else if x.posted then mbxLevels (mbiEmpty x.sender i (updMbi i (Mbox.done d.now) (untimeMbi i d)))
  else updMbi i (Mbox.taken d.now) d

/-- MBI_TIMEOUT: TMO_US passes after the GO of an internal mailbox that is still posted (R310). -/
def mbiTimeout (i : Nat) (d : Dev) : Dev :=
  let x := mbiAt i d
  if x.posted && !x.tmoSpent then mbxLevels (mbiEmpty x.sender (16 + i) (updMbi i (fun x => { x with tmo := true, tmoSpent := true, tmoAt := some (d.now, 0) }) d)) else d

/-- MBI_EVENT_W1C: endpoint t clears bits of MBI_ARRIVED_t or MBI_EMPTIED_t (R318). -/
def mbiEventClear (t : Nat) (emptied : Bool) (v : Nat) (d : Dev) : Dev :=
  mbxLevels (d.uMbx fun x =>
    if emptied then { x with mbiEmptied := upd x.mbiEmptied t fun y => maskAndNot y (maskAndNot v (freshBits (emptiedKey t 0) 32 d)) }
    else { x with mbiArrived := upd x.mbiArrived t fun y => maskAndNot y (maskAndNot (v % 65536) (freshBits (arrivedKey t 0) 16 d)) })

/-- A write of a word or of TMO_US of internal mailbox i by endpoint t (R306, R317). -/
def mbiWrite (i off v t : Nat) (d : Dev) : Dev :=
  let x := mbiAt i d
  if x.sender ≠ t then d
  else if off < 0x40 then
    if full x d then updMbi i (fun x => { x with overrun := true }) d else updMbi i (fun x => { x with words := put x.words (off / 4) (BitVec.ofNat 32 v) }) d
  else if off = 0x4C ∧ 1 ≤ v % 1048576 ∧ v % 1048576 ≤ 1000000 then updMbi i (fun x => { x with tmoUs := v % 1048576 }) d
  else d

/-- A reroute that meets the reset of the old receiver wins (Table 13.6): the message that the reset discarded is posted again. -/
def unlostH2d (m : Nat) (d : Dev) : Dev :=
  if (h2dAt m d).lostAt = some d.now then
    let undo := roseNow m d
    (updH2d m (fun x => { x with posted := true, discarded := false, lostAt := none }) d).uMbx fun x =>
      { x with h2dEmptied := if undo then setBit x.h2dEmptied m false else x.h2dEmptied }
  else d
def unlostMbi (i : Nat) (d : Dev) : Dev :=
  let x := mbiAt i d
  if x.lostAt = some d.now then
    let undo := roseNow (emptiedKey x.sender i) d
    (updMbi i (fun x => { x with posted := true, discarded := false, lostAt := none }) d).uMbx fun y =>
      { y with mbiEmptied := if undo then upd y.mbiEmptied x.sender (fun v => setBit v i false) else y.mbiEmptied }
  else d

/-- A route move (R315). -/
def moveRoute (mbox endpoint : Nat) (side : Bool) (d : Dev) : Dev :=
  if 5 ≤ endpoint then d
  else if mbox < 8 then mbxLevels (updH2d mbox (fun x => { x with receiver := endpoint }) (unlostH2d mbox d))
  else if mbox < 16 then mbxLevels (updD2h (mbox - 8) (fun x => { x with sender := endpoint }) d)
  else
    let i := mbox - 16
    let x := mbiAt i d
    if side then (if endpoint = x.receiver then d else updMbi i (fun x => { x with sender := endpoint }) d)
    else if endpoint = x.sender then d
    else
      let d := updMbi i (fun x => { x with receiver := endpoint }) (unlostMbi i d)
      mbxLevels (if (mbiAt i d).posted then mbiArrive endpoint i d else d)

/-- MBX_ROUTE_WRITE: endpoint t writes MBX_ROUTE; only Distaff's write counts (R315, Table 13.10). -/
def mbxRouteWrite (t v : Nat) (d : Dev) : Dev := if t = 4 then moveRoute (bits v 4 0) (bits v 10 8) (bit v 12) d else d

/-- The messages posted to an endpoint whose domain is reset are discarded (R313). -/
def discardTo (e : Nat) (d : Dev) : Dev :=
  let d := each ((List.range 8).filter fun m => (h2dAt m d).posted && (h2dAt m d).receiver == e) discardH2d d
  let d := each ((List.range 8).filter fun m => (d2hAt m d).posted && e == hostEnd) discardD2h d
  mbxLevels (each ((List.range 16).filter fun i => (mbiAt i d).posted && (mbiAt i d).receiver == e) discardMbi d)

/-- The instant of an endpoint's domain reset (R316). -/
def noteReset (e : Nat) (d : Dev) : Dev := d.uMbx fun x => { x with resetAt := put x.resetAt e (some d.now) }

/-- The mailboxes that name core c, in the numbering of MBX_ROUTE, each with its side (R315). -/
def mailboxesOf (c : Nat) (d : Dev) : List (Nat × Bool) :=
  (((List.range 8).filter fun m => (h2dAt m d).receiver == c).map fun m => (m, false)) ++
  (((List.range 8).filter fun m => (d2hAt m d).sender == c).map fun m => (8 + m, true)) ++
  (((List.range 16).filter fun i => (mbiAt i d).receiver == c && (mbiAt i d).sender != c).map fun i => (16 + i, false)) ++
  (((List.range 16).filter fun i => (mbiAt i d).sender == c).map fun i => (16 + i, true))

/-- A core's mailboxes move to its sibling (R315, R525); a mailbox between the two stays, since its two ends stay apart. -/
def moveMailboxes (c sib : Nat) (d : Dev) : Dev :=
  let l := mailboxesOf c d
  let d := d.uMbx fun x => { x with held := x.held ++ [(c, l)] }
  each l (fun m d => moveRoute m.1 sib m.2 d) d

/-- The mailboxes of a core move back to it once it runs again (R525). -/
def returnMailboxes (c : Nat) (d : Dev) : Dev :=
  let l := (d.mbx.held.filter fun x => x.1 == c).flatMap Prod.snd
  let d := d.uMbx fun x => { x with held := x.held.filter fun y => y.1 != c }
  each l (fun m d => moveRoute m.1 c m.2 d) d

/-- A host write of the mailbox status region (Table 13.3). -/
def mbxStatusWrite (off v : Nat) (d : Dev) : Dev :=
  match off with
  | 0x04 => mbxEventClear v d
  | 0x08 => d.uMbx fun x => { x with emptyVec := bits v 5 0, arriveVec := bits v 13 8, evtEn := bit v 15 }
  | 0x0C => if 1 ≤ v % 1048576 ∧ v % 1048576 ≤ 1000000 then d.uMbx fun x => { x with mbxTmo := v % 1048576 } else d
  | 0x10 => hostDbWrite v d
  | _ => d

end Sys2Proof.Machine
end

