-- ==== Sys2Proof/Machine/Analog.lean ====
section
/-! DEFINITION. Analog capture (chapter 4): conversions, over-range and recovery, open inputs, checkers and substitution, injected
conversions, the reference; and the bank supplies of sensor drive (R43). -/

namespace Sys2Proof.Machine

def chMode (c : Nat) (d : Dev) : Nat := cfg (Obj.ACQ_CH.MODE c) d
/-- The channel whose front end converter p serves (R79, R100). -/
def chanOfConv (p : Nat) (d : Dev) : Nat := if ilvOdd p d then p - 1 else p

/-- The checker taken for converter p, whether or not it serves already (R86). -/
def standIn (p : Nat) (d : Dev) : Option Nat := (List.range 4).find? fun k => (chkAt k d).sub == some p && !(chkAt k d).failed

/-- The checker that serves in place of converter p (R87). -/
def checkerFor (p : Nat) (d : Dev) : Option Nat := (standIn p d).filter fun k => !(chkAt k d).takeover

/-- The checker that shadows channel c (R84). -/
def shadowOf (c : Nat) (d : Dev) : Option Nat :=
  (List.range 4).find? fun k => shadows k d && chkCh k d == c && !(chkAt k d).failed && (chkAt k d).sub.isNone

/-- The channel converter i serves, checkers from 64 on (R100). -/
def servedChannel (i : Nat) (d : Dev) : Option Nat :=
  if i < 64 then some (chanOfConv i d)
  else
    let k := chkAt (i - 64) d
    match k.sub with
    | some p => some (chanOfConv p d)
    | none => if shadows (i - 64) d && !k.failed then some (chkCh (i - 64) d) else none

/-- The unclipped sums of the converter part and the front-end part (R100). -/
def trimSum (i : Nat) (d : Dev) : Trim :=
  let c := at' d.cal.conv i {}
  match servedChannel i d with
  | some ch => let f := at' d.cal.fe ch {}; { c with ofs := c.ofs + f.ofs, gain := c.gain + f.gain }
  | none => c

/-- The trims applied to converter i, at the nearer end of the range where the sum lies outside it (R99, R100). -/
def trimApplied (i : Nat) (d : Dev) : Trim :=
  let s := trimSum i d
  { ofs := clampI (-2048) 2047 s.ofs, gain := clampI (-512) 511 s.gain, skew := clampI (-128) 127 s.skew }

/-- TRIM_SAT is brought up to date; interrupt 165 is raised where a bit rises (R100). -/
def refreshTrimSat (d : Dev) : Dev :=
  let sat := packBits ((List.range 68).map fun i => decide (trimSum i d ≠ trimApplied i d))
  let rise := (List.range 68).any fun i => sat.testBit i && !d.cal.trimSat.testBit i
  let d := d.uCal fun c => { c with trimSat := sat }
  if rise then raise 165 d else d

/-- The gain of a PGA setting, 10^(g · 0.5 / 20), times 10^9 (R65; assumption log 90). -/
def pgaGain (g : Nat) : Nat :=
  at' [1000000000, 1059253725, 1122018454, 1188502227, 1258925412, 1333521432, 1412537545, 1496235656, 1584893192, 1678804018, 1778279410,
    1883649089, 1995262315, 2113489040, 2238721139, 2371373706, 2511886432, 2660725060, 2818382931, 2985382619, 3162277660, 3349654392, 3548133892,
    3758374043, 3981071706] g 1000000000

/-- The code and RANGE of an input level after the PGA stage and the trims (R65, R80, R99). The level is in 1/4 LSB of PGA = 0, from the input
that the mode's zero code stands for. -/
def convCode (mode pga : Nat) (tr : Trim) (lvl : Int) : Nat × Nat :=
  let zero : Int := if mode = 2 then 1 else 32768
  let x := lvl * pgaGain pga / 1000000000
  let code := (4 * zero + x + x * tr.gain / 10000 + tr.ofs + 2) / 4
  if 65534 < code then (0xFFFF, 1) else if code < 1 then (0, 2) else (code.toNat, 0)

/-- The code of a level on channel c by converter i. -/
def codeOf (c i : Nat) (lvl : Int) (d : Dev) : Nat × Nat := convCode (chMode c d) (cfg (Obj.ACQ_CH.PGA c) d) (trimApplied i d) lvl

/-- A sampling instant delayed by a SKEW trim of 0.5 ps steps (R99), on the grid of 62.5 ps (assumption log 91). -/
def skewed (t : Nat) (skew : Int) : Nat := ((125 * (t : Int) + skew + 62) / 125).toNat

/-! Converter failure and substitution (R86 to R88). -/

/-- The checker taken for converter p in the order of R86. -/
def pickChecker (p : Nat) (d : Dev) : Option Nat :=
  let free (k : Nat) : Bool := !(chkAt k d).failed && (chkAt k d).sub.isNone
  let pick (q : Nat → Bool) : Option Nat := (List.range 4).find? fun k => free k && q k
  (pick fun k => shadows k d && chkCh k d == chanOfConv p d).or ((pick fun k => !shadows k d).or (pick fun k => shadows k d))

/-- Conversion j of channel c, in a window with the given SKIP, is taken by converter p (R79). -/
def takenBy (p c skip j : Nat) (d : Dev) : Bool := !ilvHead c d || ((j + skip) % 2 == 1) == (p != c)

/-- The grid position of conversion j of channel c in a line of the bank. -/
def gridPos (x : HdlSet) (c j : Nat) : Option Nat :=
  (x.segFor c j).map fun s => let p := s.2.place j; p.1 * x.width + p.2.toNat

/-- Samples of line k carry no measurement after all: those that wait for Heddle become SUBST, pixels made from them INVALID, and the line carries
DEGRADED (R87, R131). hit: stream and sample index. -/
def substSamples (k : Nat) (hit : Nat → Nat → Bool) (d : Dev) : Dev :=
  let bad (l : HLine) : List Nat :=
    let x := bankSet l.bank d
    x.segList.flatMap fun s => ((List.range s.n).map (s.j + ·)).filterMap fun j => if hit s.stream j then gridPos x s.stream j else none
  markLine k FL.DEGRADED (d.uHdl fun h => { h with
    inq := h.inq.map fun s => if s.line == k && hit s.stream s.j then { s with subst := true } else s
    lines := h.lines.map fun l => if l.k = k then
        { l with px := (bad l).foldl (fun m q => match Sparse.get none m q with | some v => Sparse.set none m q (some { v with invalid := true }) | none => m) l.px }
      else l })

/-- A kept conversion of channel c for line k, delivered with the given RANGE, enters the counts and the figures (R82, R221, R222). -/
def countConv (r : RawConv) (rng : Nat) (d : Dev) : Dev :=
  if rng = 1 ∨ rng = 2 then
    countOut r.line rng true (updCh r.ch (fun y => { y with outs := y.outs.filter (fun o => lineHeld o.1 d) ++ [(r.line, r.j, rng)] }) d)
  else if rng = 0 && !primes r.line d then d.uStat fun s => { s with raw := s.raw ++ [r] }
  else d

/-- The conversions that failed converter p of channel c has taken for line k leave the counts and the figures (R87). -/
def uncount (p c k skip : Nat) (d : Dev) : Dev :=
  let d := d.uStat fun s => { s with raw := s.raw.filter fun r => !(r.line == k && r.ch == c && takenBy p c skip r.j d) }
  let gone (o : Nat × Nat × Nat) : Bool := o.1 == k && takenBy p c skip o.2.1 d
  each ((acqCh c d).outs.filter gone) (fun o d => countOut k o.2.2 false d) (updCh c (fun y => { y with outs := y.outs.filter fun o => !gone o }) d)

/-- The conversions that failed converter p of channel c has taken for line k carry no measurement (R87). -/
def recallSubst (p c k skip : Nat) (d : Dev) : Dev := substSamples k (fun st j => st == c && takenBy p c skip j d) (uncount p c k skip d)

/-- The conversions of checker i replace those that failed converter p of channel c has taken for line k (R87): samples still on their way take
its codes and RANGE, those already in their line are delivered again with them, and the counts and figures are those of its conversions. -/
def recallShots (i c k skip : Nat) (d : Dev) : Dev :=
  each ((chkAt i d).shots.filter fun s => s.conv.line == k && s.conv.ch == c) (fun s d =>
    let j := s.conv.j
    let new : Sample := { stream := c, j, line := k, code := s.conv.code, rng := s.rng, subst := false, at_ := s.conv.at_ }
    let d := countConv s.conv s.rng d
    if d.hdl.inq.any fun x => x.stream == c && x.line == k && x.j == j then
      d.uHdl fun h => { h with inq := h.inq.map fun x => if x.stream = c ∧ x.line = k ∧ x.j = j then new else x }
    else
      match d.hdl.lines.find? fun l => l.k == k && !l.forced with
      | none => d
      | some l =>
        match gridPos (bankSet l.bank d) c j with
        | none => d
        | some q =>
          if (Sparse.get none l.px q).isSome then
            d.uHdl fun h => { h with inq := new :: h.inq, lines := h.lines.map fun y => if y.k = k then { y with px := Sparse.set none y.px q none } else y }
          else d) (uncount c c k skip d)

/-- The line in which converter p's failure was found, with its SKIP: that of its channel's last kept conversion, while it is in Heddle. -/
def failLine (p : Nat) (d : Dev) : Option (Nat × Nat) :=
  (acqCh (chanOfConv p d) d).kept.filter fun x => lineHeld x.1 d

/-- Background items start afresh (R114). A change in progress ends with its last step: the lines of the 24 ns after it carry SETTLING (R113). -/
def dropItems (l : List Nat) (d : Dev) : Dev :=
  let moving := l.filter fun i => (Sparse.get {} d.cal.bg i).target.isSome
  d.uCal fun c => { c with bg := l.foldl (fun m i => Sparse.set {} m i {}) c.bg
                           settling := moving.foldl (fun m i => Sparse.set 0 m i (d.now + 384)) c.settling }

/-- CONV_SKEW is held at 0 on every converter that serves no odd half of a pair (R101; assumption log 93). -/
def holdSkew (d : Dev) : Dev :=
  let odd (i : Nat) : Bool := if i < 64 then ilvOdd i d else match (chkAt (i - 64) d).sub with | some p => ilvOdd p d | none => false
  d.uCal fun c => { c with conv := mapIx (fun i t => if odd i then t else { t with skew := 0 }) c.conv }

/-- The background items of pair k start afresh: another converter serves its odd half. -/
def dropBg (k : Nat) (d : Dev) : Dev := dropItems [64 + k, 96 + k, 128 + k] d

/-- A checker is taken for converter p, or the spares are exhausted (R86 to R88). One that was shadowing the channel gives its conversions for the
line in which the failure was found; it does not sample at the instants of a pair's odd half. -/
def substitute (p : Nat) (d : Dev) : Dev :=
  let c := chanOfConv p d
  let d := if p % 2 = 1 then dropBg (p / 2) d else d
  match pickChecker p d with
  | some k =>
    let was := shadows k d && chkCh k d == p
    let d := match failLine p d with
      | some (l, skip) => if was then recallShots k c l skip d else recallSubst p c l skip d
      | none => d
    refreshTrimSat (raise 140 (updChk k (fun x => { x with sub := some p, takeover := !was, marked := 0, markedAt := none }) d))
  | none =>
    let d := match failLine p d with
      | some (l, skip) => recallSubst p c l skip d
      | none => d
    faultRaise 3 141 (curLine d) St.SPARES_EXHAUSTED (raise 141 (d.uAcq fun a => { a with sparesOut := true }))

/-- Channel converter p is found failed (R86). -/
def failConverter (p : Nat) (d : Dev) : Dev :=
  if (acqCh p d).failed then d else substitute p (updCh p (fun x => { x with failed := true }) d)

/-- Checker k is found failed; a converter it stands in for takes another checker. -/
def failChecker (k : Nat) (d : Dev) : Dev :=
  if (chkAt k d).failed then d
  else
    let p := (chkAt k d).sub
    let d := holdSkew (updChk k (fun x => { x with failed := true, sub := none, takeover := false, marked := 0, markedAt := none }) d)
    match p with
    | some p => substitute p d
    | none => refreshTrimSat d

/-- CONVERTER_FAIL: converter i (checkers from 64 on) is found failed by its dither (R86). -/
def converterFail (i : Nat) (d : Dev) : Dev := if i < 64 then failConverter i d else failChecker (i - 64) d

/-- A sample block of converter i has come over its link without a CRC failure (R86; assumption log 92). -/
def goodBlock (i : Nat) (d : Dev) : Dev := d.uAcq fun a => { a with crc := put a.crc i 0 }

/-- CONV_LINK_CRC_FAIL: a sample block of converter i fails its CRC; the fourth failure in a row fails the converter. -/
def convLinkCrcFail (i : Nat) (d : Dev) : Dev :=
  let n := at' d.acq.crc i 0 + 1
  let d := raise 145 (d.uAcq fun a => { a with crc := put a.crc i (if n < 4 then n else 0) })
  if n < 4 then d else converterFail i d

/-! Open inputs (R83). -/

/-- A kept conversion of channel c for line k joins the tally: rail, whether it read above range with AIN_P at the bias rail. -/
def tallyConv (c k : Nat) (rail inRange : Bool) (d : Dev) : Dev :=
  updCh c (fun y => { y with tally := Sparse.set none y.tally k (some ((Sparse.get none y.tally k).getD true && rail))
                             openClr := y.openClr || (y.open_ && inRange) }) d

/-- At the start of line k: the lines before it that take no further conversion end, and substitution ends where a conversion was in range. -/
def openInputs (k : Nat) (d : Dev) : Dev :=
  each (List.range 64) (fun c d =>
    let d := endLines k c d
    if (acqCh c d).open_ && (acqCh c d).openClr then updCh c (fun y => { y with open_ := false, openClr := false }) d else d) d

/-! Conversions (R68 to R84). -/

/-- The last out-of-range instant of a neighbour. -/
def overOf (n : Option Nat) (d : Dev) : Option Nat := n.bind fun n => (acqCh n d).lastOver

/-- Conversions of stream n taken at instant t that wait for Heddle are marked as recovering: they count neither for the figures (R221, R222) nor
as mismatches (R84). -/
def markRecovering (n t : Nat) (d : Dev) : Dev :=
  let hit (x : Sample) : Bool := x.stream == n && x.at_ == t && x.rng == 0 && !x.subst
  let raws := d.stat.raw.filter fun r => r.ch == n && r.at_ == t
  let d := d.uStat fun s => { s with raw := s.raw.filter fun r => !(r.ch == n && r.at_ == t) }
  let clear (s : Shot) : Shot := if s.conv.ch = n ∧ s.conv.at_ = t ∧ s.rng = 0 then { s with rng := 3 } else s
  let gone (k : Nat) (w : Nat × Nat) : Bool := raws.any fun r => r.line == k && r.win == w.1 && r.j == w.2
  let d := each ((List.range 4).filter fun i => chkCh i d == n) (fun i d => updChk i (fun x =>
    { x with shots := x.shots.map clear, cmp := x.cmp.map fun y => (y.1, y.2.map fun m => m.filter fun w => !gone y.1 w) }) d) d
  d.uHdl fun h => { h with inq := h.inq.map fun x => if hit x then { x with rng := 3 } else x }

/-- Channel c is out of range at instant t: its neighbours are marked from now to their third conversion after it (R80). -/
def overload (c t : Nat) (d : Dev) : Dev :=
  let d := updCh c (fun x => { x with lastOver := some t }) d
  let d := match leftOf c d with
    | some n => markRecovering n t (updCh n (fun x => { x with recR := 3 }) d)
    | none => d
  match rightOf c d with
  | some n => markRecovering n t (updCh n (fun x => { x with recL := 3 }) d)
  | none => d

/-- One conversion of channel c passes: the counts of R80 go down for conversions after a neighbour's last overload. -/
def passConv (c t : Nat) (d : Dev) : Dev :=
  let less (lo : Option Nat) (n : Nat) : Nat := match lo with | some o => if o < t then n - 1 else n | none => n
  let l := overOf (leftOf c d) d
  let r := overOf (rightOf c d) d
  updCh c (fun x => { x with lastConv := t, recL := less l x.recL, recR := less r x.recR }) d

/-- A change of a trim that serves converter p on channel c is settling at instant t (R113). Items: front ends 0 to 63; offset, gain and
skew of pair k at 64 + k, 96 + k and 128 + k. -/
def settlingAt (c p t : Nat) (d : Dev) : Bool :=
  let on (i : Nat) : Bool := let s := Sparse.get 0 d.cal.settling i; s != 0 && decide (t < s)
  on c || (p % 2 == 1 && ilvOdd p d && (on (64 + p / 2) || on (96 + p / 2) || on (128 + p / 2)))

/-- The comparison of R84 for a kept conversion of the channel that checker i shadows: the code of its converter and that of the checker. -/
def compareCodes (i code ccode : Nat) (r : RawConv) (d : Dev) : Dev :=
  if cfg (Obj.ACQ_CHK.THRESH i) d < ((code : Int) - ccode).natAbs then
    updChk i (fun y => { y with cmp := Sparse.set none y.cmp r.line (some ((Sparse.get none y.cmp r.line).getD [] ++ [(r.win, r.j)])) }) d
  else d

/-- Line k is aborted: its comparisons and its tallies of open inputs end with it (R20, R69, R83, R84). -/
def forgetLine (k : Nat) (d : Dev) : Dev :=
  d.uAcq fun a => { a with
    chk := a.chk.map fun x => { x with cmp := Sparse.set none x.cmp k none, shots := x.shots.filter fun s => s.conv.line != k }
    ch := a.ch.map fun x => { x with tally := Sparse.set none x.tally k none, outs := x.outs.filter fun o => o.1 != k
                                     kept := if x.kept.map Prod.fst = some k then none else x.kept } }

/-- Checker i samples a kept conversion of the channel it shadows (R84, R87). -/
def takeShot (i : Nat) (s : Shot) (d : Dev) : Dev :=
  updChk i (fun x => { x with shots := x.shots.filter (fun y => lineHeld y.conv.line d) ++ [s]
                              cmp := Sparse.set none x.cmp s.conv.line (some ((Sparse.get none x.cmp s.conv.line).getD [])) }) d

/-- The kept conversion r. p: the converter whose turn it is; rng: what its serving converter reads, with the markings of R80. -/
def keepConv (p rng : Nat) (subst : Bool) (r : RawConv) (d : Dev) : Dev :=
  let k := r.line
  let d := if subst then markLine k FL.DEGRADED d else d
  let d := if d.acq.refBad then markLine k FL.DEGRADED d else d
  let d := if settlingAt r.ch p r.at_ d then markLine k FL.SETTLING d else d
  if subst then toHeddle { stream := r.ch, j := r.j, line := k, code := 0, rng := 0, subst := true, at_ := r.at_ } d
  else toHeddle { stream := r.ch, j := r.j, line := k, code := r.code, rng, subst := false, at_ := r.at_ } (countConv r rng d)

/-- A channel is substituted because a converter of it is failed with no checker to serve (R87, R88): converter p now, and from the line after the
failure the whole channel. -/
def noConverter (c p : Nat) (d : Dev) : Bool :=
  ((acqCh p d).failed && (checkerFor p d).isNone) || (acqCh c d).dead || (ilvHead c d && (acqCh (c + 1) d).dead)

/-- A conversion of channel c in window w: lvl, the level at the channel's input (none: the input is not driven); chk, that level as a checker
samples it. -/
def convert (w : Window) (c : Nat) (lvl : Option Int) (chk : Int) (d : Dev) : Dev :=
  let n := w.made c
  let p := if ilvHead c d && n % 2 == 1 then c + 1 else c
  let server := checkerFor p d
  let i := match server with | some k => 64 + k | none => p
  let t := if w.cds then (acqCh c d).cds.getD d.now else skewed (w.due.getD 0 + n * w.period) (trimApplied i d).skew
  let d := goodBlock i (d.at_ t)
  let period := if w.cds then t - (acqCh c d).lastConv else w.period
  let openDet := cfgB Obj.ACQ_CTL.OPEN_DET d
  let (code, rng0, d) : Nat × Nat × Dev := match lvl with
    | some l =>
      let r := codeOf c i (if server.isSome then chk else l) d
      (r.1, r.2, d)
    | none => if openDet then (0xFFFF, 1, d) else let v := d.free 18; (v % 65536, v / 65536, d.drawn)
  let rail := lvl.isNone && openDet
  let x := acqCh c d
  let near : Bool := match x.lastOver with | some o => decide (t < o + 640 + period) | none => false
  let recovering : Bool := near || decide (0 < x.recL) || decide (0 < x.recR)
  let rng := if rng0 == 0 && recovering then 3 else rng0
  let d := passConv c t d
  let d := if rng0 = 1 ∨ rng0 = 2 then overload c t d else d
  let subst := noConverter c p d || d.cal.feFailed.testBit c || x.open_
  let d := match w.owner with
    | some k =>
      if w.skip ≤ n then
        let d := updCh c (fun y => { y with kept := some (k, w.skip) }) d
        let d := if openDet then tallyConv c k (rail && rng0 == 1) (rng0 == 0 || rng0 == 3) d else d
        let r : RawConv := { line := k, ch := c, j := n - w.skip, code, odd := p != c, period := w.period, win := w.due.getD 0, at_ := t }
        let d := match shadowOf c d with
          | some i =>
            let cc := codeOf c (64 + i) chk d
            if p = c ∧ server.isNone ∧ subst = false then
              let crng := if cc.2 = 0 ∧ recovering then 3 else cc.2
              let d := takeShot i { conv := { r with code := cc.1 }, rng := crng } (goodBlock (64 + i) d)
              if rng = 0 ∧ crng = 0 ∧ lvl.isSome then compareCodes i code cc.1 r d else d
            else d
          | none => d
        keepConv p rng subst r d
      else d
    | none => d
  let w' := { w with done := Sparse.set 0 w.done c (n + 1) }
  let d := updCh c (fun y => { y with cds := none }) (d.uAcq fun a => { a with windows := a.windows.map fun v => if v = w then w' else v })
  if w'.complete then dropWindow w' d else d

/-- CONVERSION: channel c takes its next conversion in its open window (R68, R77). -/
def conversion (c : Nat) (lvl : Option Int) (chk : Int) (d : Dev) : Dev :=
  if converting d then
    match d.acq.windows.find? fun w => w.open_ && w.wants c && (!w.cds || (acqCh c d).cds.isSome) with
    | some w => convert w c lvl chk d
    | none => d
  else d

/-! Arbitration (R85). -/

/-- A converter fails the arbitration when any one of its four results is more than ARB_TOL off (DESIGN CHOICE, assumption log 118). -/
def arbFails (tol : Nat) (r : ArbRes) : Bool :=
  let bad (x e : Int) : Bool := decide (tol < (x - e).natAbs)
  bad r.lo1 16384 || bad r.lo2 16384 || bad r.hi1 49152 || bad r.hi2 49152

/-- A running table, or one that a coming event starts, opens or closes the exposure group of string s within [a, b]. -/
def exposesWithin (s : Nat) (d : Dev) (opens : Bool) (a b : Nat) : Bool :=
  let g := bits (cfg Obj.SDRV_CTL.LAMP_GROUP d) (2 * s + 1) (2 * s)
  ((enginesRunning d).any fun p => tableExposes p.2.ws g opens p.2.t0 p.2.entry p.2.rep a (b + 1 - a)) ||
    (comingEvents 1 d).any fun e => tableExposes (tableWords e.1 d) g opens e.2 0 0 a (b + 1 - a)

/-- A window of channel c is open at instant t or opens in the n steps after it: one that is armed, or that a coming event arms, by its instant or
by an edge of its string's gate (R67, R75, R85). -/
def windowSoon (c t n : Nat) (d : Dev) : Bool :=
  let edge (w : Window) (a : Nat) : Bool :=
    w.trig != 0 && decide (w.delay ≤ n) && gateEdgeWithin w.string (w.trig == 1) (max a (t - w.delay)) (t + n - w.delay) (exposesWithin w.string d) d
  (d.acq.windows.any fun w => w.mask.testBit c &&
    (w.open_ || (match w.due with | some u => decide (u ≤ t + n) | none => edge w d.now))) ||
  (comingEvents 2 d).any fun e =>
    let w : Window := { desc := e.1, ws := windowWords e.1 (liveWords Obj.ACQ_WIN.id d), arm := 0, owner := none }
    decide (e.1 < cfg Obj.ACQ_WIN.NWIN d) && w.mask.testBit c && (if w.trig = 0 then decide (e.2 + w.delay ≤ t + n) else edge w e.2)

/-- CHECKER_ARBITRATION: after FAIL_LINES marked lines, checker k and its channel's converter are tested at instant t (R85). The
count of consecutive marked lines starts again at 0, whatever the outcome (DESIGN CHOICE, assumption log 118). -/
def checkerArbitration (k t : Nat) (conv chk : ArbRes) (d : Dev) : Dev :=
  let c := chkCh k d
  if shadowOf c d = some k ∧ cfg (Obj.ACQ_CHK.FAIL_LINES k) d ≤ (chkAt k d).marked ∧ converting d ∧ windowSoon c t 1024 d = false then
    let d := d.at_ t
    let tol := cfg (Obj.ACQ_CHK.ARB_TOL k) d
    let d := updChk k (fun x => { x with marked := 0, markedAt := none }) d
    let d := match arbFails tol conv, arbFails tol chk with
      | true, false => failConverter c d
      | false, true => failChecker k d
      | true, true => failConverter c (failChecker k d)
      | false, false => d
    raise 139 d
  else d

/-! Injected conversions (R74 to R76). -/

/-- A result enters the result queue (R76). -/
def pushResult (r : InjRes) (d : Dev) : Dev :=
  d.uAcq fun a => if a.res.length < 16 then { a with res := a.res ++ [r] } else { a with res := a.res.drop 1 ++ [r], resLost := sat16 a.resLost }

/-- INJECT of channel c: the request is queued, or dropped if eight are pending (R74). -/
def injectEvent (c t : Nat) (d : Dev) : Dev :=
  let d := d.at_ t
  if d.acq.inj.length < 8 then d.uAcq fun a => { a with inj := a.inj ++ [{ ch := c, tag := 0, event := true }] }
  else d.uAcq fun a => { a with injDropped := sat16 a.injDropped }

/-- Requests are served while no self-calibration runs; one in service at the arrival of CAL_RUN still ends (R109, R110). -/
def injOpen (d : Dev) : Bool := match d.cal.run with | none => true | some r => r.state == 1 && r.serving

/-- The oldest pending request can be served at instant t (R66, R75). A channel that is off takes no conversion: its request waits. -/
def injReady (t : Nat) (d : Dev) : Bool :=
  match d.acq.inj with
  | [] => false
  | r :: _ => !windowSoon r.ch t 256 d && !(acqCh r.ch d).shr && d.acq.refReady && chMode r.ch d != 0 && decide (r.waited < cfg Obj.ACQ_CTL.INJ_TMO d)

/-- INJ_SERVE: the oldest pending request is served at instant t, at the input level lvl (R75). -/
def injServe (t : Nat) (lvl : Int) (d : Dev) : Dev :=
  match d.acq.inj with
  | [] => d
  | r :: rest =>
    if injReady t d && injOpen d then
      let i := match checkerFor r.ch d with | some k => 64 + k | none => r.ch
      let d := goodBlock i (d.at_ t)
      let (code, rng) := codeOf r.ch i lvl d
      let res : InjRes := { ch := r.ch, status := St.OK, tag := r.tag, code, rng, ts := d.ns, pos := phatAt t d }
      let d := d.uCal fun c => { c with run := c.run.map fun x => { x with serving := false } }
      raise 143 (pushResult res (d.uAcq fun a => { a with inj := rest }))
    else d

/-- INJ_TIMEOUT: a request that has waited INJ_TMO line starts leaves the queue (R75). -/
def injTimeout (d : Dev) : Dev :=
  match splitAt? (fun r => decide (cfg Obj.ACQ_CTL.INJ_TMO d ≤ r.waited)) d.acq.inj with
  | some (l, r, rest) =>
    raise 144 (pushResult { ch := r.ch, status := St.TIMEOUT, tag := r.tag } (d.uAcq fun a => { a with inj := l ++ rest }))
  | none => d

/-- What rejects a write of ACQ_INJ (R74). -/
def acqInjCheck (ws : List Word) (d : Dev) : Option (Nat × Nat) :=
  let c := fieldOf ws Obj.ACQ_INJ.CHANNEL
  firstFail [(chMode c d == 0 || ilvOdd c d, St.BAD_FIELD, 0), (decide (8 ≤ d.acq.inj.length), St.BUSY, 0)]

def acqInjApply (ws : List Word) (d : Dev) : Dev :=
  d.uAcq fun a => { a with inj := a.inj ++ [{ ch := fieldOf ws Obj.ACQ_INJ.CHANNEL, tag := fieldOf ws Obj.ACQ_INJ.TAG, event := false }] }

/-- The words of a read of ACQ_INJ_RESULT (Table 4.11). -/
def injResultWords (d : Dev) : List Word :=
  match d.acq.res with
  | [] => packF 7 []
  | r :: _ => packF 7 [(Obj.ACQ_INJ_RESULT.VALID, 1), (Obj.ACQ_INJ_RESULT.STATUS, r.status), (Obj.ACQ_INJ_RESULT.CHANNEL, r.ch),
      (Obj.ACQ_INJ_RESULT.CODE, r.code), (Obj.ACQ_INJ_RESULT.RANGE, r.rng), (Obj.ACQ_INJ_RESULT.TIMESTAMP, r.ts),
      (Obj.ACQ_INJ_RESULT.POSITION, ofS 64 r.pos), (Obj.ACQ_INJ_RESULT.TAG, r.tag)]

def injResultClear (d : Dev) : Dev := d.uAcq fun a => { a with res := a.res.drop 1 }

/-! The reference (R77, R78). -/

/-- The first run of a self-calibration begins: no table plays on (R103), and a full one clears FAILED, SPARES_EXHAUSTED and every substitution
(R106). -/
def beginRun (d : Dev) : Dev :=
  match d.cal.run with
  | none => d
  | some r =>
    let d := stopTables (d.uCal fun c => { c with run := some { r with state := 2 } })
    if r.full then
      refreshTrimSat (holdSkew (faultClear 3 (d.uAcq fun a => { a with
        ch := a.ch.map fun x => { x with failed := false, dead := false }
        chk := a.chk.map fun x => { x with failed := false, sub := none, takeover := false, marked := 0, markedAt := none }
        sparesOut := false })))
    else d

/-- REF_READY_SET: 2 ms after REF_EN rose, REF_READY is set; a self-calibration that waits for it begins its first run (R77, R102). -/
def refReadySet (d : Dev) : Dev :=
  match d.acq.refAt with
  | some t =>
    let d := (d.at_ t).uAcq fun a => { a with refReady := true, refAt := none }
    let d := raise 136 d
    match d.cal.run with
    | some r => if r.state = 6 then beginRun d else d
    | none => d
  | none => d

/-- REF_EN takes a value (R77). -/
def setRefEn (v : Bool) (d : Dev) : Dev :=
  if v then (if d.acq.refReady || d.acq.refAt.isSome then d else d.uAcq fun a => { a with refAt := some (d.now + 32000000) })
  else faultClear 2 (d.uAcq fun a => { a with refReady := false, refAt := none, refBad := false })

/-- REF_FAULT: the reference leaves its tolerance while REF_EN = 1 (R78). -/
def refFault (d : Dev) : Dev :=
  if cfgB Obj.ACQ_CTL.REF_EN d && !d.acq.refBad then
    faultRaise 2 137 (curLine d) St.HW_FAULT (raise 137 (d.uAcq fun a => { a with refFault := true, refBad := true }))
  else d

/-- REF_RESTORED: the reference is back within tolerance. -/
def refRestored (d : Dev) : Dev := if d.acq.refBad then faultClear 2 (d.uAcq fun a => { a with refBad := false }) else d

/-! Bank supplies of sensor drive (R42, R43). -/

/-- BANK_SUPPLY_FAULT: the supply of bank b leaves its range and reads v (0 absent to 3). -/
def bankSupplyFault (b v : Nat) (d : Dev) : Dev :=
  let d := d.uSdrv fun s => { s with bankV := put s.bankV b v }
  if d.inMode [.scan, .hold] then
    faultRaise 1 132 (curLine d) St.HW_FAULT
      (raise 132 (d.uSdrv fun s => { s with bankFault := setBit s.bankFault b true, bankBad := setBit s.bankBad b true }))
  else d

/-- BANK_SUPPLY_RETURN: the supply of bank b is in range again and reads v. -/
def bankSupplyReturn (b v : Nat) (d : Dev) : Dev :=
  let d := d.uSdrv fun s => { s with bankV := put s.bankV b v, bankBad := setBit s.bankBad b false }
  if d.sdrv.bankBad = 0 then faultClear 1 d else d

/-! Writes and reads of the objects of this chapter. -/

/-- What rejects a write of ACQ_CH (R79, R93). -/
def acqChCheck (ws : List Word) (_ : Dev) : Option (Nat × Nat) :=
  let m (c : Nat) := fieldOf ws (Obj.ACQ_CH.MODE c)
  let i (c : Nat) := fieldOf ws (Obj.ACQ_CH.ILV c) != 0
  let bad (c : Nat) : Bool :=
    (c % 2 == 1 && i c) || (c % 2 == 0 && i c && (m c == 2 || m (c + 1) != 0)) || (fieldOf ws (Obj.ACQ_CH.TERM c) != 0 && m c != 1)
  firstFail [((List.range 64).any bad, St.BAD_FIELD, 0)]

/-- ACQ_CH_WRITE: FE_STALE is set or cleared as the change requires (R108), and skews are held at 0 (R101). -/
def acqChApply (ws : List Word) (d : Dev) : Dev :=
  let stale := packBits ((List.range 64).map fun c =>
    let m := fieldOf ws (Obj.ACQ_CH.MODE c)
    let changed := m != chMode c d || fieldOf ws (Obj.ACQ_CH.PGA c) != cfg (Obj.ACQ_CH.PGA c) d ||
      fieldOf ws (Obj.ACQ_CH.TERM c) != cfg (Obj.ACQ_CH.TERM c) d
    if m = 0 then false else d.cal.feStale.testBit c || changed)
  refreshTrimSat (holdSkew (setObj Obj.ACQ_CH.id ws (d.uCal fun c => { c with feStale := stale })))

/-- A write of ACQ_CTL. With OPEN_DET = 0 nothing is detected or marked (R83). -/
def acqCtlApply (ws : List Word) (d : Dev) : Dev :=
  let d := setRefEn (fieldOf ws Obj.ACQ_CTL.REF_EN != 0) (setObj Obj.ACQ_CTL.id ws d)
  if cfgB Obj.ACQ_CTL.OPEN_DET d then d
  else d.uAcq fun a => { a with ch := a.ch.map fun x => { x with open_ := false, openClr := false, tally := [] } }

/-- What rejects a write of ACQ_CHK (R95). -/
def acqChkCheck (ws : List Word) (d : Dev) : Option (Nat × Nat) :=
  let ch (k : Nat) := fieldOf ws (Obj.ACQ_CHK.CH k)
  let sh (k : Nat) := fieldOf ws (Obj.ACQ_CHK.SHADOW k) != 0
  firstFail [((List.range 4).any fun k => ilvOdd (ch k) d, St.BAD_FIELD, 0),
    ((List.range 4).any fun k => (List.range k).any fun l => sh k && sh l && ch k == ch l, St.BAD_FIELD, 0)]

/-- A write of ACQ_CHK. A checker that shadows another channel, or none, starts its count of marked lines afresh (R85). -/
def acqChkApply (ws : List Word) (d : Dev) : Dev :=
  let same (k : Nat) : Bool := fieldOf ws (Obj.ACQ_CHK.CH k) == chkCh k d && (fieldOf ws (Obj.ACQ_CHK.SHADOW k) != 0) == shadows k d
  refreshTrimSat (setObj Obj.ACQ_CHK.id ws (d.uAcq fun a => { a with chk := mapIx (fun k x =>
    if same k then x else { x with marked := 0, markedAt := none, cmp := [], shots := [] }) a.chk }))

/-- A window descriptor is well formed (Table 4.8). -/
def descOk (d : Dev) (w : Window) : Bool :=
  let allIlv := (maskIx w.mask 64).all fun c => ilvHead c d
  w.mask != 0 && w.trig != 3 && (w.trig != 0 || w.string == 0) && getBits w.ws 70 10 == 0 && decide (1 ≤ w.count) &&
    getBits w.ws 114 14 == 0 && getBits w.ws 156 4 == 0 && getBits w.ws 188 4 == 0 &&
    (if w.cds then w.period == 0 else decide (128 ≤ w.period) || (allIlv && decide (64 ≤ w.period)))

/-- What rejects a write of ACQ_WIN (R94). -/
def acqWinCheck (ws : List Word) (d : Dev) : Option (Nat × Nat) := firstFail [(!(descsOf ws).all (descOk d), St.BAD_FIELD, 0)]

/-- CHK_STATE of checker k (Table 4.12). For a checker that stands in for the odd half of a pair the channel field shows the number of that
converter, 2k + 1 (DESIGN CHOICE, assumption log 119). -/
def chkState (k : Nat) (d : Dev) : Nat :=
  let x := chkAt k d
  if x.failed then 3
  else match x.sub with
    | some p => 2 + 4 * p
    | none => if shadows k d then 1 + 4 * chkCh k d else 0

/-- The words of ACQ_STATUS (Table 4.12). -/
def acqStatusWords (d : Dev) : List Word :=
  let a := d.acq
  packF 11 ([fb Obj.ACQ_STATUS.REF_READY a.refReady, fb Obj.ACQ_STATUS.REF_FAULT a.refFault, fb Obj.ACQ_STATUS.SPARES_EXHAUSTED a.sparesOut,
    (Obj.ACQ_STATUS.INJ_PENDING, a.inj.length), (Obj.ACQ_STATUS.INJ_DROPPED, a.injDropped),
    (Obj.ACQ_STATUS.OPEN_INPUT, packBits (a.ch.map (·.openSeen))), (Obj.ACQ_STATUS.OPEN_ACTIVE, packBits (a.ch.map fun x => x.open_ && !x.openClr)),
    (Obj.ACQ_STATUS.FAILED, packBits (a.ch.map (·.failed))), (Obj.ACQ_STATUS.WIN_MISSED, a.winMissed), (Obj.ACQ_STATUS.WIN_CUT, a.winCut),
    (Obj.ACQ_STATUS.RES_LOST, a.resLost)] ++
    (List.range 4).map (fun k => (Obj.ACQ_STATUS.CHK_STATE k, chkState k d)) ++
    (List.range 4).map (fun k => (Obj.ACQ_STATUS.MISMATCH_LINES k, (chkAt k d).lines)))

def acqStatusClear (d : Dev) : Dev :=
  d.uAcq fun a => { a with refFault := false, ch := a.ch.map fun x => { x with openSeen := false } }

/-- The words of SDRV_STATUS (Table 3.8). -/
def sdrvStatusWords (d : Dev) : List Word :=
  let s := d.sdrv
  packF 8 ([(Obj.SDRV_STATUS.BANK_V, (mapIx (fun b v => v * 4 ^ b) s.bankV).sum), (Obj.SDRV_STATUS.BANK_FAULT, s.bankFault),
    fb Obj.SDRV_STATUS.TBL_STAGED s.staged, fb Obj.SDRV_STATUS.TBL_BANK s.bank, (Obj.SDRV_STATUS.CUTS, s.cuts), (Obj.SDRV_STATUS.SPILL, s.spill),
    (Obj.SDRV_STATUS.EXP_OVERRUN, s.overrun), (Obj.SDRV_STATUS.DIAG_SKIPPED, s.diagSkipped), (Obj.SDRV_STATUS.TBL_EPOCH, s.epoch)] ++
    mapIx (fun g x => (Obj.SDRV_STATUS.EXP_LAST g, x.last)) s.expo)

def sdrvStatusClear (d : Dev) : Dev := d.uSdrv fun s => { s with bankFault := 0 }

end Sys2Proof.Machine
end

