-- ==== Sys2Proof/Machine/Illumination.lean ====
section
/-! DEFINITION. The illumination drive (chapter 16): verdicts, diagnostic pulses, derating, headroom, the commands on lamps, the expansion
chain, and its objects. -/

namespace Sys2Proof.Machine

/-! Verdicts, exhaustion and spares (R374 to R379). -/

/-- Which strings have become exhausted between two states, and which no longer are: interrupt 392 + s, FAULT event and standing fault (R379). -/
def exhaustedChange (line : Option Nat) (before d : Dev) : Dev :=
  each (List.range 8) (fun s d =>
    if exhausted s d && !exhausted s before then faultRaise 8 (392 + s) line St.SPARES_EXHAUSTED (raise (392 + s) d)
    else if !exhausted s d && exhausted s before then faultClearSrc 8 (392 + s) d
    else d) d

/-- An open or short verdict on lamp l of string s. -/
def failVerdict (s l : Nat) (line : Option Nat) (d : Dev) : Dev := exhaustedChange line d (lampFail s l d)

/-- A reading is an open or a short verdict (R374). -/
def badReading (s l mv : Nat) (d : Dev) : Bool :=
  decide (cfg (Obj.ILM_LAMP.VF_MV (16 * s + l)) d + 100 * cfg Obj.ILM_CTL.OPEN_DV d < mv) || decide (mv < 100 * cfg Obj.ILM_CTL.SHORT_V d)

/-- The driver reads lamp l now (R374): it is unshunted for at least 120 ns, and was not read in this strobe; spares are read in diagnostic
pulses only. -/
def readsLamp (s l : Nat) (d : Dev) : Bool :=
  let x := strAt s d
  let on := strEn s d && lampEn s l d && !x.failed.testBit l && !x.shunt.testBit l
  match x.lit with
  | .off => false
  | .diag => on && x.readMask.testBit l
  | .forced _ _ _ => on && !lampSpare s l d
  | .strobe _ p =>
    let mp := modPeriod s p d
    on && !lampSpare s l d && !x.readMask.testBit l && (decide (mp = 0) || decide (1920 ≤ onTime (at' (at' x.duty p []) l 0) mp))

/-- LAMP_VOLTAGE_READ: lamp l of string s reads mv millivolts 100 ns into its on-interval. The line whose strobe gave a bad verdict carries
LAMP_FAULT (R378), with DEGRADED where no spare serves the lamp. -/
def lampVoltageRead (s l mv : Nat) (d : Dev) : Dev :=
  if readsLamp s l d then
    let x := strAt s d
    let line : Option Nat := match x.lit with | .strobe k _ => some k | _ => none
    let d := updStr s (fun y => match y.lit with | .strobe _ _ => { y with readMask := setBit y.readMask l true } | _ => y) d
    if badReading s l mv d then
      let d := failVerdict s l line d
      markLine? line (FL.LAMP_FAULT ||| (if (unserved s d).contains l then FL.DEGRADED else 0)) d
    else d
  else d

/-! Diagnostic pulses (R53, R375). -/

/-- Group g's exposure window is open at some instant of [t, t + len): it is open now, a running table opens it, or a table does that an event
of this line or the next one starts by then (R53). -/
def windowWithin (g t len : Nat) (d : Dev) : Bool :=
  (at' d.sdrv.expo g {}).open_ ||
  ((enginesRunning d).any fun p => tableExposes p.2.ws g true p.2.t0 p.2.entry p.2.rep t len) ||
  (comingEvents 1 d).any fun e => tableExposes (tableWords e.1 d) g true e.2 0 0 t len

/-- The exposure group of string s (R52). -/
def groupOfString (s : Nat) (d : Dev) : Nat := bits (cfg Obj.SDRV_CTL.LAMP_GROUP d) (2 * s + 1) (2 * s)

/-- The diagnostic slot of one string at instant t: refused by sensor drive, unused while the string is on or blanked, or its pulse. -/
def diagSlot1 (len t s : Nat) (d : Dev) : Dev :=
  let d := settlePulse s t d
  let x := strAt s d
  let test := (List.range 16).filter fun l => needsDiag s l d
  if !x.diagPending || !strEn s d || test.isEmpty then d
  else if windowWithin (groupOfString s d) t len d then raise 131 (d.uSdrv fun y => { y with diagSkipped := sat16 y.diagSkipped })
  else if x.lit ≠ .off ∨ t < x.blankUntil then d
  else
    let m := test.foldl (fun m l => m + 2 ^ l) 0
    updStr s (fun y => { y with lit := .diag, since := t, readMask := m, shunt := 0xFFFF - m, diagPending := false })
      (d.uIlm fun i => { i with diagPulses := wrap16 (i.diagPulses + 1) })

/-- LAMP_DIAG_SLOT of length len (62.5 ps steps) at instant t. -/
def lampDiagSlot (len t : Nat) (d : Dev) : Dev :=
  if d.pwr.mode = .scan then each (List.range 8) (diagSlot1 len t) (d.at_ t) else d

/-- At every line start: a pulse falls due every DIAG_EVERY lines (R375). -/
def diagLineStart (d : Dev) : Dev :=
  let n := d.ilm.diagLines + 1
  if cfg Obj.ILM_CTL.DIAG_EVERY d ≤ n then
    d.uIlm fun i => { i with diagLines := 0, str := mapIx (fun s y => { y with
      diagPending := y.diagPending || (strEn s d && (List.range 16).any fun l => needsDiag s l d) }) i.str }
  else d.uIlm fun i => { i with diagLines := n }

/-- String s is forced on (R381). -/
def isForced (s : Nat) (d : Dev) : Bool := match (strAt s d).lit with | .forced _ _ _ => true | _ => false

/-! Instants of a strobe (R369, R371). -/

/-- LAMP_BLANK_END: the blanking of string s ends, and a delayed strobe starts. -/
def lampBlankEnd (s : Nat) (d : Dev) : Dev :=
  let x := strAt s d
  match x.delayed with
  | some (k, p) => if d.pwr.mode = .scan ∧ x.lit = .off then startStrobe s k p x.blankUntil (d.at_ x.blankUntil) else d
  | none => d

/-- LAMP_MOD_PERIOD: at instant t an on-time, a modulation period or a diagnostic pulse of string s elapses. -/
def lampModPeriod (s t : Nat) (d : Dev) : Dev :=
  let d := settlePulse s t (d.at_ t)
  match (strAt s d).lit with
  | .strobe _ _ => refreshGate s t d
  | _ => d

/-- LAMP_HEADROOM_FAULT: the sink of string s has less than 0.8 V during its strobe, or VLED, now vled millivolts, leaves its range (R372). -/
def lampHeadroomFault (s vled : Nat) (d : Dev) : Dev :=
  let d := d.uIlm fun i => { i with vledMv := vled }
  match (strAt s d).lit with
  | .strobe k _ =>
    if strEn s d then
      let d := markLine k (FL.LAMP_FAULT ||| FL.DEGRADED) (raise 403 (updStr s (fun y => { y with headroom := true, headroomBad := true }) d))
      faultRaise 9 403 (some k) St.HW_FAULT d
    else d
  | _ => d

/-! Derating (R373). -/

/-- I_lim at a temperature in 1/16 °C. -/
def limitAt (s : Nat) (t : Int) (d : Dev) : Nat :=
  let knee := cfgS (Obj.ILM_STRING.T_KNEE s) d
  let zero_ := cfgS (Obj.ILM_STRING.T_ZERO s) d
  let r := cfg (Obj.ILM_STRING.I_RATED s) d
  if t ≤ knee then r else if t < zero_ then ((r : Int) * (zero_ - t) / (zero_ - knee)).toNat else 0

/-- Interrupt 402 is set while some string has TEMP_LOST, and clears with its next valid result (R373). -/
def tempInput (d : Dev) : Dev := icLevel 402 (d.ilm.str.any fun y => y.tempLost) d

/-- ILM_TEMP_READ: the driver reads the temperature of string s from its auxiliary result. -/
def ilmTempRead (s : Nat) (d : Dev) : Dev :=
  if cfgB (Obj.ILM_STRING.TEMP_EN s) d then
    let r := at' d.aux.res (cfg (Obj.ILM_STRING.TEMP_SRC s) d) {}
    let x := strAt s d
    if r.formed.isNone ∨ r.stale then d
    else if r.open_ ∨ r.settling then
      tempInput (updStr s (fun y => { y with tempLost := true }) d)
    else
      let lim := limitAt s r.eng d
      let d := tempInput (updStr s (fun y => { y with tempLost := false, temp := r.eng }) d)
      if 8 ≤ (lim - x.iLim) + (x.iLim - lim) then
        decideLamps (raise 401 (updStr s (fun y => { y with iLim := lim, derated := decide (lim < cfg (Obj.ILM_STRING.I_RATED s) d) }) d))
      else d
  else d

/-- ILM_TEMP_LOST: no valid result for 100 ms. -/
def ilmTempLost (s : Nat) (d : Dev) : Dev :=
  if cfgB (Obj.ILM_STRING.TEMP_EN s) d then tempInput (updStr s (fun y => { y with tempLost := true }) d) else d

/-- With TEMP_EN = 0 the limit is I_RATED; it never exceeds I_RATED. -/
def ratedLimits (d : Dev) : Dev :=
  tempInput <| d.uIlm fun i => { i with str := mapIx (fun s y =>
    let r := cfg (Obj.ILM_STRING.I_RATED s) d
    if cfgB (Obj.ILM_STRING.TEMP_EN s) d then { y with iLim := min y.iLim r, derated := decide (min y.iLim r < r) }
    else { y with iLim := r, derated := false, tempLost := false }) i.str }

/-! The commands (R380 to R382). -/

/-- CAL_LAMP and the lamp check of CALIBRATE on the strings of a mask: the voltages mv of lamp 16s + L. A lamp without a voltage reads good. -/
def lampCheck (mask : Nat) (mv : List Nat) (d : Dev) : Nat × Dev :=
  let ss := (maskIx mask 8).filter fun s => strEn s d
  let bad := ss.flatMap fun s => ((List.range 16).filter fun l =>
    lampEn s l d && !(strAt s d).failed.testBit l && (match mv[16 * s + l]? with | some v => badReading s l v d | none => false)).map fun l => (s, l)
  let d := each bad (fun x d => failVerdict x.1 x.2 none d) d
  let d := d.uIlm fun i => { i with lampCheckDue := false, diagPulses := wrap16 (i.diagPulses + ss.length) }
  (bad.length, raise 407 d)

/-- CAL_LAMP (R380): mv, the voltages the pulses read. -/
def calLamp (c : MnrCmd) (mv : List Nat) (d : Dev) : Dev :=
  command Op.CAL_LAMP c (fun t d =>
    checked t [(decide (t.arg = 0) || decide (256 ≤ t.arg), St.BAD_FIELD, 0), ((maskIx t.arg 8).any fun s => isForced s d, St.BUSY, 0)] (fun d =>
      let (n, d) := lampCheck t.arg mv d
      finish t.who (if (maskIx t.arg 8).any fun s => exhausted s d then St.SPARES_EXHAUSTED else St.OK) n [] d) d) d

/-- A forced string turns off. -/
def forceOff (s : Nat) (d : Dev) : Dev :=
  if isForced s d then updStr s (fun y => { y with lit := .off, gate := false, shunt := 0xFFFF, struck := [] }) d else d

/-- LAMP_FORCE (R381). -/
def lampForce (c : MnrCmd) (d : Dev) : Dev :=
  command Op.LAMP_FORCE c (fun t d =>
    let s := t.arg % 8
    let on := bit t.arg 3
    let ma := t.w 0
    checked t [(decide (16 ≤ t.arg), St.BAD_FIELD, 0), (on && t.len != 3, St.BAD_FIELD, 0), (!on && t.len != 0, St.BAD_FIELD, 0),
        (on && (decide (ma = 0) || decide ((strAt s d).iLim < ma) || decide (65536 ≤ t.w 1) || decide (t.w 2 = 0) || decide (1000000 < t.w 2)),
          St.BAD_FIELD, 0)] (fun d =>
      let d := if on then refreshGate s d.now (updStr s (fun y => { y with lit := .forced (t.w 1) ma (t.w 2), since := d.now, readMask := 0, struck := [] }) d)
        else forceOff s d
      finish t.who St.OK 0 [] d) d) d

/-- LAMP_FORCE_END: the forced duration of string s ends. -/
def lampForceEnd (s : Nat) (d : Dev) : Dev :=
  match (strAt s d).lit with
  | .forced _ _ us => if (strAt s d).since + 16000 * us ≤ d.now then forceOff s d else d
  | _ => d

/-- Every forced string turns off: the device leaves its mode (R381). -/
def forcesEnd (d : Dev) : Dev := each (List.range 8) forceOff d

/-- LAMP_SPARE (R382): mv, the voltage the lamp reads when it is pulsed alone. -/
def lampSpareCmd (c : MnrCmd) (mv : Nat) (d : Dev) : Dev :=
  command Op.LAMP_SPARE c (fun t d =>
    let s := t.arg % 8
    let l := bits t.arg 7 4
    checked t [(bit t.arg 3 || decide (256 ≤ t.arg), St.BAD_FIELD, 0), (!(strAt s d).failed.testBit l, St.BAD_FIELD, 0)] (fun d =>
      if badReading s l mv d then finish t.who St.HW_FAULT 0 [] d
      else
        let d' := updStr s (fun y => { y with failed := setBit y.failed l false
                                              spareLo := if y.spareLo = some l then none else y.spareLo
                                              spareHi := if y.spareHi = some l then none else y.spareHi }) d
        let d' := decideLamps (each (unserved s d') (takeSpare s) d')
        finish t.who St.OK 0 [] (exhaustedChange none d d')) d) d

/-- An ILM domain reset (R383, Table 20.7). -/
def ilmReset (d : Dev) : Dev :=
  let d := lampsOff d
  let d := d.uIlm fun i => { i with
    str := i.str.map fun y => { y with failed := 0, spareLo := none, spareHi := none, headroom := false, headroomBad := false, derated := false
                                       tempLost := false, temp := 0, blankUntil := 0 }
    chainFault := false, diagPulses := 0, blankCuts := 0, lampFaults := 0, onOverlap := 0, lampCheckDue := true, diagLines := 0, shift := none
    lxpLat := none, darkPhase := List.replicate 8 false }
  let d := d.uHdl fun h => { h with comp := List.replicate 8 0x4000 }
  ratedLimits (decideLamps (faultClear 8 (faultClear 9 d)))

/-! The expansion chain (R384 to R386). -/

/-- The frame of the chain (R385): the block of the farthest board first, each with its CRC word. -/
def chainFrame (boards : Nat) (ws : List Word) : List Word :=
  (List.range boards).reverse.flatMap fun b =>
    let block := (ws.drop (8 * b)).take 8
    block ++ [BitVec.ofNat 32 (crc8 (block.flatMap fun w => [w.toNat / 16777216, w.toNat / 65536, w.toNat / 256, w.toNat]) + 256 * b)]

/-- What rejects a write of ILM_CHAIN (R389, R394). -/
def chainCheck (ws : List Word) (d : Dev) : Option (Nat × Nat) :=
  firstFail [(!cfgB Obj.ILM_CTL.EXT_EN d, St.WRONG_MODE, 0), (ws.any fun w => decide (16777216 ≤ w.toNat), St.BAD_FIELD, 0)]

/-- A write of ILM_CHAIN starts the shift; it completes when the shift has ended. -/
def chainBegin (ws : List Word) (who : Option Who) (d : Dev) : Dev := d.uIlm fun i => { i with shift := some { frame := ws, who } }

/-- CHAIN_SHIFT_DONE at instant t: ret, the words that LXP_RET returned during the second pass. -/
def chainShiftDone (ret : List Word) (t : Nat) (d : Dev) : Dev :=
  match d.ilm.shift with
  | none => d
  | some x =>
    let d := (d.at_ t).uIlm fun i => { i with shift := none }
    if ret = chainFrame (cfg Obj.ILM_CTL.BOARDS d) x.frame then
      let d := setObj 0x1C10 x.frame (d.uIlm fun i => { i with boards := x.frame, lxpLat := some { at_ := t + 640, ns := 100 } })
      finish? x.who St.OK 0x1C10 [] (raise 406 d)
    else finish? x.who St.HW_FAULT 0 [] (raise 405 (d.uIlm fun i => { i with chainFault := true }))

/-! Objects (R390 to R395). -/

def ilmStringCheck (ws : List Word) (_ : Dev) : Option (Nat × Nat) :=
  firstFail [((List.range 8).any fun s =>
    decide (toS 16 (fieldOf ws (Obj.ILM_STRING.T_ZERO s)) ≤ toS 16 (fieldOf ws (Obj.ILM_STRING.T_KNEE s))), St.BAD_FIELD, 0)]

def ilmLampCheck (ws : List Word) (_ : Dev) : Option (Nat × Nat) :=
  firstFail [((List.range 8).any fun s => decide (2 < countIf (fun l => fieldOf ws (Obj.ILM_LAMP.SPARE (16 * s + l)) != 0) (List.range 16)), St.BAD_FIELD, 0)]

def ilmPhaseCheck (ws : List Word) (d : Dev) : Option (Nat × Nat) :=
  firstFail [((List.range 64).any fun i =>
    let b := 5 * i
    let mp := fieldOf ws (Obj.ILM_PHASE.MOD_PERIOD b)
    let cur := fieldOf ws (Obj.ILM_PHASE.I_SET b)
    decide (cfg (Obj.ILM_STRING.I_RATED (i / 8)) d < cur) || (decide (0 < mp) && decide (mp < 25)) ||
      (List.range 16).any fun l =>
        let u := fieldOf ws (Obj.ILM_PHASE.DUTY l b)
        (decide (mp = 0) && decide (0 < u) && decide (u < 255)) || (decide (0 < u) && decide (cur = 0)), St.BAD_FIELD, 0)]

/-- A write of ILM_STRING, ILM_LAMP or ILM_PHASE: nominal flux (R368), the spares of the lamps as they now are (R377) and the settings of the
next lines follow; a forced string takes the new setting at once (R367). -/
def ilmApply (id : Nat) (ws : List Word) (d : Dev) : Dev :=
  let e := ratedLimits (setObj id ws d)
  let e := if id = Obj.ILM_STRING.id then e else renominal e
  let e := if id = Obj.ILM_LAMP.id then each (List.range 8) (fun s e => let e := keepSpares s d e; each (unserved s e) (takeSpare s) e) e else e
  let e := each (List.range 8) (fun s e => if isForced s e then refreshGate s e.now e else e) (decideLamps e)
  exhaustedChange none d e

/-- The byte of SPARE_MAP for a spare that serves a lamp. -/
def mapByte (f : Option Nat) : Nat := match f with | some l => 128 + l | none => 0

/-- SPARE_USED of a string: the spares in service. -/
def sparesUsed (s : Nat) (d : Dev) : Nat := packBits ((List.range 16).map fun l => lampSpare s l d && (servedBy s l d).isSome)

/-- The words of ILM_STATUS (Table 16.9). -/
def ilmStatusWords (d : Dev) : List Word :=
  let i := d.ilm
  let ss := List.range 8
  packF 23 (mapIx (fun s y => (({ Obj.ILM_STATUS.FAILED with off := 16 * s, wid := 16 } : FldDef), y.failed)) i.str ++
    (ss.map fun s => (({ Obj.ILM_STATUS.SPARE_USED with off := 128 + 16 * s, wid := 16 } : FldDef), sparesUsed s d)) ++
    mapIx (fun s y => (Obj.ILM_STATUS.I_LIM s, y.iLim)) i.str ++ mapIx (fun s y => fb (Obj.ILM_STATUS.DERATED s) y.derated) i.str ++
    mapIx (fun s y => fb (Obj.ILM_STATUS.TEMP_LOST s) y.tempLost) i.str ++ mapIx (fun s y => fb (Obj.ILM_STATUS.HEADROOM s) y.headroom) i.str ++
    (ss.map fun s => fb (Obj.ILM_STATUS.EXHAUSTED s) (exhausted s d)) ++ mapIx (fun s y => (Obj.ILM_STATUS.TEMP s, ofS 16 y.temp)) i.str ++
    mapIx (fun s y => (Obj.ILM_STATUS.SPARE_MAP s, mapByte y.spareLo + 256 * mapByte y.spareHi)) i.str ++
    [(Obj.ILM_STATUS.VLED_MV, i.vledMv), fb Obj.ILM_STATUS.CHAIN_FAULT i.chainFault, (Obj.ILM_STATUS.DIAG_PULSES, i.diagPulses),
     (Obj.ILM_STATUS.BLANK_CUTS, i.blankCuts), (Obj.ILM_STATUS.LAMP_FAULTS, i.lampFaults), (Obj.ILM_STATUS.ON_OVERLAP, i.onOverlap)])
def ilmStatusClear (d : Dev) : Dev := d.uIlm fun i => { i with chainFault := false, str := i.str.map fun y => { y with headroom := false } }

end Sys2Proof.Machine
end

