-- ==== Sys2Proof/Machine/Calibration.lean ====
section
/-! DEFINITION. Converter trimming and self-calibration (chapter 5): CAL_RUN and its runs, the background calibration, the calibration store. -/

namespace Sys2Proof.Machine

/-! Self-calibration (R102 to R110). -/

/-- The items of a self-calibration: full, or the front ends whose setting is stale (R101, Table of SCOPE). -/
def calItems (full : Bool) (d : Dev) : List CalItem :=
  if full then
    (List.range 68).map CalItem.conv ++ ((List.range 64).filter fun c => chMode c d != 0).map CalItem.fe
  else ((List.range 64).filter fun c => d.cal.feStale.testBit c).map CalItem.fe

/-- The self-calibration starts: its first run, or the wait for the reference (R102). -/
def calBegin (d : Dev) : Dev :=
  let d := setRefEn true (pokeObj 1 Obj.ACQ_CTL.fields Obj.ACQ_CTL.REF_EN 1 d)
  let d := d.uCal fun c => { c with run := c.run.map fun r => { r with items := calItems r.full d } }
  if d.acq.refReady then beginRun d else d.uCal fun c => { c with run := c.run.map fun r => { r with state := 6 } }

/-- A self-calibration is requested: w, the command (none for the automatic one). -/
def calRequest (full : Bool) (w : Option Who) (d : Dev) : Dev :=
  d.uCal fun c => { c with run := some { state := 1, full, auto := w.isNone, mbx := (w.map (·.mbx)).getD 0, tag := (w.map (·.tag)).getD 0
                                         sess := (w.map (·.sess)).getD 0, items := [] } }

/-- CAL_RUN (R102, R109). With requests pending it is deferred; the oldest of them is being served if it can be at that instant (assumption log
94), and else the run starts at once. -/
def calRun (c : MnrCmd) (d : Dev) : Dev :=
  command Op.CAL_RUN c (fun t d =>
    checked t [(decide (1 < t.arg), St.BAD_FIELD, 0), (d.cal.run.isSome || (d.pwr.mode == .calibrate && decide (d.pwr.calStep < 3)), St.BUSY, 0)] (fun d =>
      let pending := !d.acq.inj.isEmpty
      let serving := injReady d.now d
      let d := calRequest (t.arg == 0) (some t.who) d
      if pending then
        let d := defer t.who 0 d
        if serving then d.uCal fun c => { c with run := c.run.map fun r => { r with serving := true } } else calBegin d
      else calBegin d) d) d

/-- CAL_RUN_DEFERRED_START: the injected conversion in service has ended, and the deferred self-calibration starts (R109). -/
def calRunDeferredStart (d : Dev) : Dev :=
  match d.cal.run with
  | some r => if r.state = 1 && !(r.serving && injReady d.now d) then calBegin d else d
  | none => d

/-- A trim lies in the range of Table 5.1. -/
def trimInRange (t : Trim) : Bool :=
  decide (-2048 ≤ t.ofs ∧ t.ofs ≤ 2047) && decide (-512 ≤ t.gain ∧ t.gain ≤ 511) && decide (-128 ≤ t.skew ∧ t.skew ≤ 127)

/-- Two results agree (R104). -/
def trimsAgree (a b : Trim) : Bool :=
  decide ((a.ofs - b.ofs).natAbs ≤ 8) && decide ((a.gain - b.gain).natAbs ≤ 2) && decide ((a.skew - b.skew).natAbs ≤ 4)

/-- The mean of two codes to the nearest step, ties to the even code (R104). -/
def meanEven (a b : Int) : Int :=
  let s := a + b
  if s % 2 = 0 then s / 2 else if (s / 2) % 2 = 0 then s / 2 else s / 2 + 1

def trimMean (a b : Trim) : Trim := { ofs := meanEven a.ofs b.ofs, gain := meanEven a.gain b.gain, skew := meanEven a.skew b.skew }

/-- A measured result: the skew is measured on the odd converter of a pair only (R101, R103). -/
def calResult (i : CalItem) (t : Trim) (d : Dev) : Trim :=
  match i with
  | .conv p => if ilvOdd p d then t else { t with skew := 0 }
  | .fe _ => { t with skew := 0 }

/-- The trims of an item change, with the new value as its centre (R114). -/
def applyItem (i : CalItem) (t : Trim) (d : Dev) : Dev :=
  d.uCal fun c => match i with
    | .conv p => { c with conv := put c.conv p t, convC := put c.convC p t }
    | .fe f => { c with fe := put c.fe f t, feC := put c.feC f t }

/-! The calibration store (R115 to R119). -/

/-- The words of trims in the layout of CAL_TRIM (Table 5.6). -/
def trimWords (conv fe : List Trim) : List Word :=
  conv.map (fun t => BitVec.ofNat 32 (ofS 12 t.ofs + 4096 * ofS 10 t.gain + 4194304 * ofS 8 t.skew)) ++
    fe.map (fun t => BitVec.ofNat 32 (ofS 12 t.ofs + 4096 * ofS 10 t.gain))

/-- The trims that words in that layout hold. -/
def trimsOf (ws : List Word) : List Trim × List Trim :=
  let one (w : Word) : Trim := { ofs := toS 12 w.toNat, gain := toS 10 (w.toNat / 4096), skew := toS 8 (w.toNat / 4194304) }
  ((List.range 68).map fun i => one (ws.getD i 0), (List.range 64).map fun c => { one (ws.getD (68 + c) 0) with skew := 0 })

/-- A slot of the calibration store is valid (R117). -/
def CalRec.valid (r : CalRec) : Bool := recValid 0x4B414350 261888 r

/-- The body of a record (R115): its directory with the one section of type 0x0001, the trims and their centres. -/
def calBody (c : Cal) : List Word := [1, 1, 16, 1056] ++ trimWords c.conv c.fe ++ trimWords c.convC c.feC

/-- The record that a store write programs (R115). -/
def calRecord (seq : Nat) (c : Cal) : CalRec := recSealed 0x4B414350 seq 1072 (calBody c)

/-- The words of the first section of a type in a body (R115); a type that is not known is passed over. -/
def sectionOf (type : Nat) (body : List Word) : Option (List Word) :=
  let e (i w : Nat) : Nat := (body.getD (1 + 3 * i + w) 0).toNat
  ((List.range (body.getD 0 0).toNat).find? fun i => e i 0 % 65536 == type).map fun i => (body.drop (e i 1 / 4)).take (e i 2 / 4)

/-- The newest valid slot: 0 A, 1 B (R117). -/
def newestSlot (c : Cal) : Option Nat := recNewest c.slotA c.slotB c.slotA.valid c.slotB.valid

def slotOf (c : Cal) (s : Nat) : CalRec := if s = 1 then c.slotB else c.slotA
def putSlot (c : Cal) (s : Nat) (r : CalRec) : Cal := if s = 1 then { c with slotB := r } else { c with slotA := r }

/-- The store write takes the trims in force and erases the slot that does not hold the newest valid record (R116). -/
def beginStoreWrite (c : Cal) : Cal :=
  let (slot, seq) := recNext c.slotA c.slotB (newestSlot c)
  { putSlot c slot {} with write := .writing slot (calRecord seq c) }

/-- Step 2 of R116: the body is programmed into the erased slot, whose header still reads as erased. -/
def programBody (slot : Nat) (r : CalRec) (c : Cal) : Cal := putSlot c slot { body := r.body }

/-- Step 3 of R116: the body reads back with the BODY_CRC of the record. -/
def readsBack (slot : Nat) (r : CalRec) (c : Cal) : Bool := bodyCrcOf { slotOf c slot with bodyLen := r.bodyLen } == r.bodyCrc

/-- Step 4 of R116: the header is programmed over the body that the slot holds. -/
def programHeader (slot : Nat) (r : CalRec) (c : Cal) : Cal := putSlot c slot { r with body := (slotOf c slot).body }

/-- The CAL_SAVE in progress. -/
def saveWho (d : Dev) : Option Who := d.cal.saveMbx.map fun w => { mbx := w.1, tag := w.2.1, op := Op.CAL_SAVE, sess := w.2.2 }

/-- The store writer stops; no header is programmed (R118). -/
def stopStore (d : Dev) : Dev :=
  let w := saveWho d
  finish? w St.ABORTED 0 [] (d.uCal fun c => { c with write := .idle, saveMbx := none, abandoned := true, abandonedInt := true })

/-- A store write is requested: in SCAN it waits for the next line start (R119). While a supply failure is signalled it stops at once (R118). -/
def requestStore (w : Option (Nat × Nat × Nat)) (d : Dev) : Dev :=
  if d.cal.write = .idle then
    let d := d.uCal fun c => { c with saveMbx := w }
    if d.pwr.vinWarn then stopStore d
    else d.uCal fun c => if d.pwr.mode = .scan then { c with write := .waitLine } else beginStoreWrite c
  else d

/-- CAL_SAVE (R119). -/
def calSave (c : MnrCmd) (d : Dev) : Dev :=
  command Op.CAL_SAVE c (fun t d =>
    checked t [(t.arg != 0, St.BAD_FIELD, 0), (decide (d.cal.write ≠ .idle), St.BUSY, 0)]
      (requestStore (some (t.who.mbx, t.who.tag, t.who.sess))) d) d

/-- The header of a store write is programmed: the slot holds the record, and CAL_SAVE completes (R116, R119). -/
def commitStore (slot : Nat) (r : CalRec) (d : Dev) : Dev :=
  let w := saveWho d
  finish? w St.OK 0 [] (raise 168 (d.uCal fun c => { programHeader slot r c with write := .idle, saveMbx := none }))

/-- CAL_STORE_WRITE_DONE: the body is programmed, read back and checked, then the header (R116). A write that no line start has begun was begun at
once (R119). A body that does not read back well gets no header, and the slot is erased again (assumption log 111); nor does one when a supply
failure is signalled (R118). -/
def calStoreWriteDone (d : Dev) : Dev :=
  let d := if d.cal.write = .waitLine then d.uCal beginStoreWrite else d
  match d.cal.write with
  | .writing slot r =>
    if d.pwr.vinWarn then stopStore d
    else
      let d := d.uCal (programBody slot r)
      if readsBack slot r d.cal then commitStore slot r d else d.uCal fun c => putSlot c slot {}
  | _ => d

/-- A supply failure stops a store write, unless the programming of its header has begun, which then ends within the hold-up (R118). The spec does
not say how long erasing and programming the body take, so how far the write has come is a free value: the slot is erased, its body is programmed,
or its header has begun (assumption log 95). -/
def abandonStore (d : Dev) : Dev :=
  match d.cal.write with
  | .idle => d
  | .waitLine => stopStore d
  | .writing slot r =>
    match d.free 2 with
    | 3 => commitStore slot r (d.drawn.uCal (programBody slot r))
    | 2 => stopStore (d.drawn.uCal (programBody slot r))
    | _ => stopStore d.drawn

/-- Power is back: the interrupt of an abandoned write (R118). -/
def storePowerBack (d : Dev) : Dev :=
  if d.cal.abandonedInt then raise 169 (d.uCal fun c => { c with abandonedInt := false }) else d

/-- BOOT loads the newest valid slot (R117). -/
def loadStore (d : Dev) : Dev :=
  match newestSlot d.cal with
  | some s =>
    let ws := (sectionOf 1 (slotOf d.cal s).body).getD []
    let a := trimsOf ws
    let b := trimsOf (ws.drop 132)
    refreshTrimSat (holdSkew (d.uCal fun c => { c with conv := a.1, fe := a.2, convC := b.1, feC := b.2 }))
  | none => raise 170 (d.uCal fun c => { c with conv := List.replicate 68 {}, fe := List.replicate 64 {}
                                                convC := List.replicate 68 {}, feC := List.replicate 64 {} })

/-- The outcome of one failed item, in the order of R106. -/
def failItem (i : CalItem) (d : Dev) : Dev :=
  match i with
  | .conv p =>
    let d := raise 162 (d.uCal fun c => { c with convFail := setBit c.convFail p true })
    if p < 64 then failConverter p d else d
  | .fe f => faultRaise 14 163 none St.HW_FAULT (raise 163 (d.uCal fun c => { c with feFailed := setBit c.feFailed f true }))

/-- A self-calibration ends: its outcomes are applied, background changes of what it measured end, and its final completion is sent (R106, R107,
R114). -/
def calEnd (r : CalRun) (d : Dev) : Dev :=
  let bad (i : CalItem) : Bool := r.bad.contains i
  let all := (List.range 68).map CalItem.conv ++ (List.range 64).map CalItem.fe
  let d := restartIdle (d.uCal fun c => { c with run := none })
  let d := if r.auto then d.uPwr fun p => { p with calStep := if p.calStep = 1 then 3 else p.calStep } else d
  let d := if r.full then d.uCal fun c => { c with convFail := 0, bgLimit := 0 } else d
  let d := holdSkew (each r.good (fun x d => applyItem x.1 x.2 d) d)
  let measured := r.good.map Prod.fst ++ r.bad
  let d := each measured (fun i d => match i with
    | .fe f => d.uCal fun c => { c with feStale := setBit c.feStale f false, feFailed := if bad i then c.feFailed else setBit c.feFailed f false }
    | .conv _ => d) d
  let d := dropItems (if r.full then d.cal.bg.map Prod.fst else measured.filterMap fun i => match i with | .fe f => some f | .conv _ => none) d
  let d := if d.cal.feFailed = 0 then faultClear 14 d else d
  let d := each (List.range 4) (fun k d => if bad (.conv (64 + k)) then updChk k (fun x => { x with failed := true }) d else d) d
  let d := each (all.filter bad) failItem d
  let none_ := r.full && (List.range 64).any fun p => (acqCh p d).failed && (standIn p d).isNone
  let status := if none_ then St.SPARES_EXHAUSTED else if r.bad.isEmpty then St.OK else St.CAL_DISAGREE
  let d := refreshTrimSat (raise 160 (d.uCal fun c => { c with lastStatus := status }))
  let d := if r.auto then d else finish { mbx := r.mbx, tag := r.tag, op := Op.CAL_RUN, sess := r.sess } status r.bad.length [] d
  if cfgB Obj.CAL_CTL.AUTO_SAVE d ∧ status ≠ St.SPARES_EXHAUSTED then requestStore none d else d

/-- CAL_PASS_END: a pair of runs ends; res holds, for every item it measured, the two results (R104, R105). Without REF_READY no converter converts
(R77), so no run ends. -/
def calPassEnd (res : List (CalItem × Trim × Trim)) (d : Dev) : Dev :=
  match d.cal.run with
  | none => d
  | some r =>
    let pairOf (i : CalItem) : Option (Trim × Trim) := (res.find? fun x => x.1 == i).map fun x => (calResult i x.2.1 d, calResult i x.2.2 d)
    if d.acq.refReady ∧ 2 ≤ r.state ∧ r.state ≤ 5 ∧ r.items.all (fun i => (pairOf i).isSome) then
      let pairs := r.items.filterMap fun i => (pairOf i).map fun p => (i, p)
      let (inR, outR) := pairs.partition fun x => trimInRange x.2.1 && trimInRange x.2.2
      let (ok, dis) := inR.partition fun x => trimsAgree x.2.1 x.2.2
      let good := r.good ++ ok.map fun x => (x.1, trimMean x.2.1 x.2.2)
      let bad := r.bad ++ outR.map Prod.fst
      let again := dis.map Prod.fst
      let d := each again (fun _ d => raise 161 (d.uCal fun c => { c with disagree := sat16 c.disagree })) d
      if again.isEmpty then calEnd { r with good, bad } d
      else if r.state = 5 then calEnd { r with good, bad := bad ++ again } d
      else d.uCal fun c => { c with run := some { r with state := r.state + 1, items := again, good, bad } }
    else d

/-! Background calibration (R111 to R114). -/

/-- The converter whose trim an interleave item of pair k adjusts: the one that serves the odd half (R111). -/
def oddServer (k : Nat) (d : Dev) : Nat := match checkerFor (2 * k + 1) d with | some i => 64 + i | none => 2 * k + 1

/-- The trim that background item i adjusts, and its centre (R111, R114). Items as in settlingAt. -/
def bgTrim (i : Nat) (d : Dev) : Int × Int :=
  let s := oddServer (i % 32) d
  let t := at' d.cal.conv s {}
  let c := at' d.cal.convC s {}
  if i < 64 then ((at' d.cal.fe i {}).ofs, (at' d.cal.feC i {}).ofs)
  else if i < 96 then (t.ofs, c.ofs) else if i < 128 then (t.gain, c.gain) else (t.skew, c.skew)

def setBgTrim (i : Nat) (v : Int) (d : Dev) : Dev :=
  let s := oddServer (i % 32) d
  d.uCal fun c =>
    if i < 64 then { c with fe := upd c.fe i fun t => { t with ofs := v } }
    else { c with conv := upd c.conv s fun t => if i < 96 then { t with ofs := v } else if i < 128 then { t with gain := v } else { t with skew := v } }

def setBg (i : Nat) (x : BgItem) (d : Dev) : Dev := d.uCal fun c => { c with bg := Sparse.set {} c.bg i x }

/-- One item at a line start at instant t (R112 to R114). A change in progress stays within BG_SPAN of the centre as both stand now;
the code range of Table 5.1 does not bound it (DESIGN CHOICE, assumption log 121). -/
def bgItem (i t : Nat) (fig : Option Int) (d : Dev) : Dev :=
  let b := Sparse.get {} d.cal.bg i
  let (trim, centre) := bgTrim i d
  let span : Int := cfg Obj.CAL_CTL.BG_SPAN d
  let clip (x : Int) : Int := clampI (centre - span) (centre + span) x
  let limit (d : Dev) : Dev := raise 167 (d.uCal fun c => { c with bgLimit := setBit c.bgLimit (if i < 64 then i else 2 * (i % 32)) true })
  match b.target with
  | some want =>
    let target := clip want
    let d := if target = want then d else limit (setBg i { b with target := some target } d)
    let step := min (cfg Obj.CAL_CTL.BG_STEP d) (target - trim).natAbs
    let v := if trim < target then trim + step else trim - step
    let d := setBgTrim i v d
    if v = target then setBg i {} (d.uCal fun c => { c with settling := Sparse.set 0 c.settling i (t + 384) })
    else d.uCal fun c => { c with settling := Sparse.set 0 c.settling i (2 ^ 62) }
  | none =>
    match fig with
    | none => d
    | some x =>
      let f := b.f + ((x : Rat) - b.f) / (2 ^ cfg Obj.CAL_CTL.BG_TC d : Nat)
      if (cfg Obj.CAL_CTL.BG_DEAD d : Rat) ≤ f ∨ f ≤ -(cfg Obj.CAL_CTL.BG_DEAD d : Rat) then
        let want := trim - roundEven f
        let target := clip want
        let d := if target = want then d else limit d
        if target = trim then setBg i { f } d else raise 166 (setBg i { f, target := some target } d)
      else setBg i { f } d

/-- The background calibration at a line start at instant t (R112): every item with a figure or a change in progress. -/
def bgStep (t : Nat) (d : Dev) : Dev :=
  if cfgB Obj.CAL_CTL.BG_EN d then
    let figs := d.stat.figs
    let keys := (figs.map Prod.fst ++ (d.cal.bg.map Prod.fst).filter fun k => !(figs.any fun x => x.1 == k))
    let d := each keys (fun i d => bgItem i t ((figs.find? fun x => x.1 == i).map Prod.snd) d) d
    if keys.isEmpty then d else refreshTrimSat d
  else d

/-- At a line start, a CAL_SAVE that waited for it takes the trims in force (R119). -/
def calLineStart (d : Dev) : Dev := if d.cal.write = .waitLine then d.uCal beginStoreWrite else d

/-! Status (R122, R123). -/

/-- The words of CAL_TRIM (Table 5.6). -/
def calTrimWords (d : Dev) : List Word := trimWords d.cal.conv d.cal.fe

/-- The words of CAL_STATUS (Table 5.7). -/
def calStatusWords (d : Dev) : List Word :=
  let c := d.cal
  let newest := newestSlot c
  packF 14 [(Obj.CAL_STATUS.RUN_STATE, (c.run.map (·.state)).getD 0), fb Obj.CAL_STATUS.STORE_BUSY (decide (c.write ≠ .idle)),
    (Obj.CAL_STATUS.STORE_SLOT, newest.getD 3), fb Obj.CAL_STATUS.STORE_ABANDONED c.abandoned, (Obj.CAL_STATUS.LAST_STATUS, c.lastStatus),
    (Obj.CAL_STATUS.DISAGREE, c.disagree), (Obj.CAL_STATUS.STORE_SEQ, (newest.map fun s => (slotOf c s).seq).getD 0),
    (Obj.CAL_STATUS.CONV_CAL_FAIL, c.convFail), (Obj.CAL_STATUS.FE_FAILED, c.feFailed), (Obj.CAL_STATUS.FE_STALE, c.feStale),
    (Obj.CAL_STATUS.BG_LIMIT, c.bgLimit), (Obj.CAL_STATUS.TRIM_SAT, c.trimSat)]

def calStatusClear (d : Dev) : Dev := d.uCal fun c => { c with abandoned := false, bgLimit := 0 }

end Sys2Proof.Machine
end

