-- ==== Sys2Proof/Machine/Links.lean ====
section
/-! DEFINITION. Digital sensor and converter links (chapter 6): bring-up, SYSREF, errors, re-initialisation, capture windows and raw lanes. -/

namespace Sys2Proof.Machine

def linkAt (l : Nat) (d : Dev) : Link := at' d.jlk.link l {}
def updLink (l : Nat) (f : Link → Link) (d : Dev) : Dev := d.uJlk fun j => { j with link := upd j.link l f }
def laneAt (p : Nat) (d : Dev) : RawLane := at' d.jlk.lane p {}
def updLane (p : Nat) (f : RawLane → RawLane) (d : Dev) : Dev := d.uJlk fun j => { j with lane := upd j.lane p f }

/-- The JCLK cycle of an instant (R128). -/
def jclkCycle (t : Nat) (d : Dev) : Nat := t * cfg Obj.JLK_CTL.JCLK_KHZ d / 16000000

/-- JCLK periods per multiframe or extended multiblock, as a fraction (R125). -/
def lmfcRatio (l : Nat) (ws : List Word) (khz : Nat) : Nat × Nat :=
  let lr := fieldOf ws (Obj.JLK_LINK.LANE_RATE l)
  if fieldOf ws (Obj.JLK_LINK.STD l) = 0 then
    (khz * fieldOf ws (Obj.JLK_LINK.F l) * fieldOf ws (Obj.JLK_LINK.K l), lr * 100)
  else (khz * 2112 * fieldOf ws (Obj.JLK_LINK.E l), lr * 1000)

/-- JCLK periods per multiframe or extended multiblock of link l. -/
def lmfcPeriod (l : Nat) (d : Dev) : Nat :=
  let r := lmfcRatio l (liveWords (Obj.JLK_LINK.id l) d) (cfg Obj.JLK_CTL.JCLK_KHZ d)
  max 1 (r.1 / max 1 r.2)

def linkEn (l : Nat) (d : Dev) : Bool := cfgB (Obj.JLK_LINK.EN l) d
def rawEn (g : Nat) (d : Dev) : Bool := cfgB (Obj.JLK_RAW.EN g) d

/-- The enabled raw group that holds physical lane p. -/
def groupOfLane (p : Nat) (d : Dev) : Option Nat :=
  (List.range 4).find? fun g => rawEn g d && (cfg (Obj.JLK_RAW.LANE_MASK g) d).testBit p

/-- The physical lanes of link l, in logical order (R127). -/
def linkLanes (l : Nat) (ws : List Word) : List Nat :=
  (List.range (fieldOf ws (Obj.JLK_LINK.L l))).map fun i => fieldOf ws (Obj.JLK_LINK.LANE_MAP l i) % 32
/-- JSYNC[l]_P/N requests synchronisation (_P below _N): in code-group sync of a JESD204B link (R124, R130). -/
def jsync (l : Nat) (d : Dev) : Bool := (linkAt l d).state == 2 && cfg (Obj.JLK_LINK.STD l) d == 0

/-! Frames (R127). The order of the samples in a frame is that of the JESD204 standards, which the spec names (assumption log 96). -/

/-- Octet j of a frame on logical lane i: data holds the octets by physical lane, and LANE_MAP names that lane and may invert it. -/
def laneOctet (l i j : Nat) (data : List (List Nat)) (d : Dev) : Nat :=
  let m := cfg (Obj.JLK_LINK.LANE_MAP l i) d
  let o := at' (at' data (m % 32) []) j 0 % 256
  if m.testBit 5 then 255 - o else o

/-- Word w of a frame, N' bits: converter w / S, sample w mod S. With HD = 0 a lane carries whole words; with HD = 1 they run on from lane to
lane. -/
def frameWord (l w : Nat) (data : List (List Nat)) (d : Dev) : Nat :=
  let f := cfg (Obj.JLK_LINK.F l) d
  let lanes := cfg (Obj.JLK_LINK.L l) d
  let np := cfg (Obj.JLK_LINK.NP l) d
  let per := (cfg (Obj.JLK_LINK.M l) d * cfg (Obj.JLK_LINK.S l) d + lanes - 1) / max 1 lanes
  let off := if cfgB (Obj.JLK_LINK.HD l) d then w * np else w / max 1 per * (8 * f) + w % max 1 per * np
  let o := off / 8
  let n := (List.range 3).foldl (fun a j => a * 256 + laneOctet l ((o + j) / max 1 f) ((o + j) % max 1 f) data d) 0
  (n >>> (24 - off % 8 - np)) % 2 ^ np

/-- Sample i of converter m in a frame: the N data bits stand first, and control bits and tail bits are removed (R127). -/
def frameSample (l m i : Nat) (data : List (List Nat)) (d : Dev) : Nat :=
  frameWord l (m * cfg (Obj.JLK_LINK.S l) d + i) data d >>> (cfg (Obj.JLK_LINK.NP l) d - cfg (Obj.JLK_LINK.N l) d)

/-- The control bits of converter 0 in a frame: bit b is set if some sample of it has control bit b set. -/
def frameCtl (l : Nat) (data : List (List Nat)) (d : Dev) : Nat :=
  let low := cfg (Obj.JLK_LINK.NP l) d - cfg (Obj.JLK_LINK.N l) d
  packBits ((List.range (cfg (Obj.JLK_LINK.CS l) d)).map fun b =>
    (List.range (cfg (Obj.JLK_LINK.S l) d)).any fun i => (frameWord l i data d).testBit (low - 1 - b))

def laneMaskOf (l : Nat) (d : Dev) : Nat := (linkLanes l (liveWords (Obj.JLK_LINK.id l) d)).foldl (fun m p => m ||| 2 ^ p) 0

/-! Capture windows (R133, R134). -/

/-- The streams of a source (R127). -/
def srcStreams (s : LinkSrc) (d : Dev) : List Nat :=
  match s with
  | .link l => (List.range (cfg (Obj.JLK_LINK.M l.val) d)).map fun m => 64 + 32 * l.val + m
  | .lane p => [320 + p.val]

def armedOf (s : LinkSrc) (d : Dev) : Option LinkWin := match s with | .link l => (linkAt l.val d).armed | .lane p => (laneAt p.val d).armed
def openedOf (s : LinkSrc) (d : Dev) : Option LinkWin := match s with | .link l => (linkAt l.val d).opened | .lane p => (laneAt p.val d).opened
def setArmed (s : LinkSrc) (w : Option LinkWin) (d : Dev) : Dev :=
  match s with
  | .link l => updLink l.val (fun x => { x with armed := w }) d
  | .lane p => updLane p.val (fun x => { x with armed := w }) d
def setOpened (s : LinkSrc) (w : Option LinkWin) (d : Dev) : Dev :=
  match s with
  | .link l => updLink l.val (fun x => { x with opened := w }) d
  | .lane p => updLane p.val (fun x => { x with opened := w }) d

/-- Samples reach Heddle only while the link is in DATA, or the lane aligned. -/
def srcUp (s : LinkSrc) (d : Dev) : Bool :=
  match s with | .link l => (linkAt l.val d).state == 4 | .lane p => (laneAt p.val d).aligned

/-- The kept samples of a window not taken yet are delivered with SUBST set. -/
def substLink (s : LinkSrc) (w : LinkWin) (d : Dev) : Dev :=
  match w.owner with
  | none => d
  | some k =>
    let kept := w.taken - w.skip
    each (srcStreams s d) (fun st d => each (List.range (w.count - kept)) (fun j d =>
      toHeddle { stream := st, j := kept + j, line := k, code := 0, rng := 0, subst := true, at_ := d.now } d) d) d

/-- An open window ends early (R134). -/
def cutLinkWin (s : LinkSrc) (w : LinkWin) (d : Dev) : Dev :=
  let d := substLink s w (setOpened s none (d.uJlk fun j => { j with lwinCut := sat16 j.lwinCut }))
  let d := match s with
    | .link l => updLink l.val (fun x => if x.frame = 0 then x else { x with closed := x.closed ++ [(w, x.frame - 1)] }) d
    | .lane _ => d
  markLine? w.owner FL.DEGRADED (raise 211 d)

def cutOpened (s : LinkSrc) (d : Dev) : Dev := match openedOf s d with | some w => cutLinkWin s w d | none => d

/-- A raw lane loses alignment (R136): its open window ends, and its group faults. -/
def loseAlign (p : Fin 32) (d : Dev) : Dev :=
  let d := updLane p.val (fun x => { x with aligned := false, missed := 0, hist := [], hi := none, errAt := [] }) (cutOpened (.lane p) d)
  match groupOfLane p.val d with
  | some g => raise (212 + g) (d.uJlk fun j => { j with rawFault := put j.rawFault g true })
  | none => d

/-- A window does not open (R134). -/
def missLinkWin (s : LinkSrc) (w : LinkWin) (d : Dev) : Dev :=
  let d := substLink s w (d.uJlk fun j => { j with lwinMissed := sat16 j.lwinMissed })
  let d := markLine? w.owner FL.DEGRADED (raise 211 d)
  match s with
  | .link _ => d
  | .lane p =>
    match groupOfLane p.val d with
    | some g =>
      if cfg (Obj.JLK_RAW.CODING g) d = 0 ∧ (laneAt p.val d).aligned then
        let d := updLane p.val (fun x => { x with missed := x.missed + 1 }) d
        if cfg (Obj.JLK_RAW.ERR_LIMIT g) d ≤ (laneAt p.val d).missed then loseAlign p d else d
      else d
    | none => d

/-- The window definition of a source, armed by line k at instant t (R133). -/
def windowDef (s : LinkSrc) (k t : Nat) (d : Dev) : LinkWin :=
  let (lag, skip, count, delay) := match s with
    | .link l => (cfg (Obj.JLK_LINK.LAG l.val) d, cfg (Obj.JLK_LINK.SKIP l.val) d, cfg (Obj.JLK_LINK.COUNT l.val) d, cfg (Obj.JLK_LINK.DELAY l.val) d)
    | .lane p => match groupOfLane p.val d with
      | some g => (cfg (Obj.JLK_RAW.LAG g) d, cfg (Obj.JLK_RAW.SKIP g) d, cfg (Obj.JLK_RAW.COUNT g) d, cfg (Obj.JLK_RAW.DELAY g) d)
      | none => (0, 0, 0, 0)
  { owner := if lag ≤ k ∧ lineKnown (k - lag) d then some (k - lag) else none, skip, count, at_ := t + delay }

/-- A source's window is armed by line k at instant t (R133, R134). -/
def armLink (k t : Nat) (s : LinkSrc) (d : Dev) : Dev :=
  let d := match armedOf s d with
    | some w => missLinkWin s w (setArmed s none d)
    | none => d
  let w := windowDef s k t d
  if srcUp s d then
    let shifted := match s with
      | .link l => (linkAt l.val d).latShift && cfg (Obj.JLK_LINK.SOL_CTL l.val) d == 0
      | .lane _ => false
    let d := if shifted then markLine? w.owner FL.DEGRADED d else d
    setArmed s (some w) d
  else missLinkWin s w d

/-- The enabled sources whose trigger is the line start (0), or the start of a table (1, R133). -/
def linkSources (trig : Nat) (tbl : Nat) (d : Dev) : List LinkSrc :=
  ((List.finRange 8).filter fun l => linkEn l.val d && cfg (Obj.JLK_LINK.TRIG l.val) d == trig &&
      (trig == 0 || cfg (Obj.JLK_LINK.TRIG_TABLE l.val) d == tbl)).map LinkSrc.link ++
  ((List.finRange 32).filter fun p => match groupOfLane p.val d with
      | some g => cfg (Obj.JLK_RAW.TRIG g) d == trig && (trig == 0 || cfg (Obj.JLK_RAW.TRIG_TABLE g) d == tbl)
      | none => false).map LinkSrc.lane

/-- Line k arms the windows of a trigger at instant t. -/
def armLinks (trig tbl k t : Nat) (d : Dev) : Dev := each (linkSources trig tbl d) (armLink k t) d

/-- The link windows of an aborted line close at once (R69, R133). -/
def abortLinkWindows (k : Nat) (d : Dev) : Dev :=
  let drop (w : Option LinkWin) : Option LinkWin := w.filter fun w => w.owner != some k
  d.uJlk fun j => { j with link := j.link.map fun x => { x with armed := drop x.armed, opened := drop x.opened }
                           lane := j.lane.map fun x => { x with armed := drop x.armed, opened := drop x.opened } }

/-- The armed window of a source may open at instant t: at or after the trigger plus DELAY, or in the same JCLK cycle (R133). -/
def windowDue (s : LinkSrc) (t : Nat) (d : Dev) : Bool :=
  match armedOf s d with
  | some w => srcUp s d && (decide (w.at_ ≤ t) || decide (jclkCycle w.at_ d ≤ jclkCycle t d))
  | none => false

/-- The armed window opens; one that is open on the source closes at once (R134). -/
def openLinkWin (s : LinkSrc) (d : Dev) : Dev :=
  let d := cutOpened s d
  match armedOf s d with
  | some w =>
    let d := match s with | .lane p => updLane p.val (fun x => { x with missed := 0 }) d | .link _ => d
    setArmed s none (setOpened s (some { w with taken := 0 }) d)
  | none => d

/-- A frame of link l with control bits ctl of converter 0 opens its window (R133). -/
def solFrame (l ctl : Nat) (d : Dev) : Bool :=
  let b := cfg (Obj.JLK_LINK.SOL_CTL l) d
  b == 0 || ctl.testBit (b - 1)

/-- Words of a raw lane that end in its start-of-line mark (R136); a control character has bit 8 set. -/
def solMark (p : Nat) (ws : List Nat) (d : Dev) : Bool :=
  match groupOfLane p d with
  | some g =>
    if cfg (Obj.JLK_RAW.CODING g) d = 0 then
      ws.drop (ws.length - 4) == [2 ^ cfg (Obj.JLK_RAW.WIDTH g) d - 1, 0, 0, cfg (Obj.JLK_RAW.SOL_WORD g) d]
    else ws.getLast? == some 0x11C
  | none => false

/-- LINK_WINDOW_OPEN: what opens the armed window reaches Heddle at instant t (R133): a frame, mark holding the control bits of its converter 0,
or the words or characters of a raw lane up to its start-of-line mark. -/
def linkWindowOpen (s : LinkSrc) (mark : List Nat) (t : Nat) (d : Dev) : Dev :=
  let hit := match s with | .link l => solFrame l.val (mark.headD 0) d | .lane p => solMark p.val mark d
  if windowDue s t d && hit then openLinkWin s (d.at_ t) else d

/-- The open window of a source takes the next samples of its streams: per of each, val by stream order and place; bad: they carry no
measurement (R131, R133). -/
def takeSamples (s : LinkSrc) (per : Nat) (val : Nat → Nat → Nat) (bad : Bool) (t : Nat) (d : Dev) : Dev :=
  match openedOf s d with
  | none => d
  | some w =>
    let kept (i : Nat) : Bool := decide (w.skip ≤ w.taken + i) && decide (w.taken + i < w.skip + w.count)
    let d := match w.owner with
      | none => d
      | some k =>
        let d := if bad && (List.range per).any kept then markLine k FL.DEGRADED d else d
        each (mapIx (fun m st => (m, st)) (srcStreams s d)) (fun x d =>
          each ((List.range per).filter kept) (fun i d =>
            toHeddle { stream := x.2, j := w.taken + i - w.skip, line := k, code := if bad then 0 else val x.1 i, rng := 0, subst := bad, at_ := t } d) d) d
    let w := { w with taken := w.taken + per }
    if w.skip + w.count ≤ w.taken then
      let d := setOpened s none d
      match s with | .link l => updLink l.val (fun x => { x with closed := x.closed ++ [(w, x.frame)] }) d | .lane _ => d
    else setOpened s (some w) d

/-- Errors of the last millisecond with n more at instant t (R132, R136). -/
def recentErrs (l : List Nat) (n t : Nat) : List Nat := (l.filter fun u => decide (t < u + 16000000)) ++ List.replicate n t

/-- The samples that a window has taken from frames of the errored multiblock before this one carry no measurement; n: samples of each stream
back from its last. -/
def recallFrames (l : Fin 8) (w : LinkWin) (n : Nat) (d : Dev) : Dev :=
  let lo := max w.skip (w.taken - n) - w.skip
  let hi := min w.taken (w.skip + w.count) - w.skip
  match w.owner with
  | some k => if lo < hi then substSamples k (fun st j => decide (lo ≤ j) && decide (j < hi) && (srcStreams (.link l) d).contains st) d else d
  | none => d

/-- A frame of an errored JESD204C multiblock: the frames of that multiblock before it lose their samples, and those after it will (R131). -/
def blockError (l : Fin 8) (d : Dev) : Dev :=
  let x := linkAt l.val d
  let f := max 1 (cfg (Obj.JLK_LINK.F l.val) d)
  let b := (f * x.frame + f - 1) / 256
  let first := 256 * b / f
  let per := cfg (Obj.JLK_LINK.S l.val) d
  let d := match x.opened with
    | some w => recallFrames l w ((x.frame - first) * per) d
    | none => d
  let d := each (x.closed.filter fun c => decide (first ≤ c.2)) (fun c d => recallFrames l c.1 ((c.2 + 1 - first) * per) d) d
  updLink l.val (fun y => { y with errTo := some ((256 * b + 255) / f) }) d

/-- LINK_REINIT: link l re-initialises; lost, the physical lanes that lost CDR lock (R132). -/
def linkReinit (l : Fin 8) (lost : Nat) (d : Dev) : Dev :=
  let x := linkAt l.val d
  if 2 ≤ x.state ∧ x.state ≤ 4 then
    let before := if x.state = 4 then some x.lat else x.latBefore
    let d := cutOpened (.link l) (updLink l.val (fun y => { y with state := 2, latBefore := before, reinits := sat8 y.reinits, errAt := [], errTo := none, closed := [], frame := 0 }) d)
    let d := d.uJlk fun j => { j with cdrLock := maskAndNot j.cdrLock lost }
    faultRaise 4 (192 + l.val) (curLine d) St.HW_FAULT (raise (192 + l.val) d)
  else d

/-- A frame of a link in DATA: its window opens on it where it is due; its samples go to the window; ERR_LIMIT errors within 1 ms re-initialise
the link (R127, R131 to R133). -/
def jesdFrame (l : Fin 8) (data : List (List Nat)) (errs : List (Fin 32)) (t : Nat) (d : Dev) : Dev :=
  let s := LinkSrc.link l
  let std := cfg (Obj.JLK_LINK.STD l.val) d
  let bad := !errs.isEmpty
  let d := if bad && std == 1 then blockError l d else d
  let d := if windowDue s t d && solFrame l.val (frameCtl l.val data d) d then openLinkWin s d else d
  let x := linkAt l.val d
  let hit := bad || (match x.errTo with | some e => decide (x.frame ≤ e) | none => false)
  let width := cfg (Obj.JLK_LINK.N l.val) d
  let d := takeSamples s (cfg (Obj.JLK_LINK.S l.val) d) (fun m i => frameSample l.val m i data d * 2 ^ (16 - width)) hit t d
  let n := 256 * cfg (Obj.JLK_LINK.E l.val) d / max 1 (cfg (Obj.JLK_LINK.F l.val) d)
  let d := updLink l.val (fun y => { y with
    errAt := recentErrs y.errAt errs.length t
    frame := if std = 0 then 0 else (y.frame + 1) % max 1 n
    errTo := if std = 0 ∨ n ≤ y.frame + 1 then none else y.errTo
    closed := if std = 0 ∨ n ≤ y.frame + 1 then [] else y.closed }) d
  if bad && decide (cfg (Obj.JLK_LINK.ERR_LIMIT l.val) d ≤ (linkAt l.val d).errAt.length) then linkReinit l 0 d else d

/-- One word, or one character, of raw lane p (R136). -/
def rawItem (p : Fin 32) (g : Nat) (bad : Bool) (t w : Nat) (d : Dev) : Dev :=
  let s := LinkSrc.lane p
  let width := cfg (Obj.JLK_RAW.WIDTH g) d
  let one (v : Nat) (d : Dev) : Dev := takeSamples s 1 (fun _ _ => v % 2 ^ width * 2 ^ (16 - width)) bad t d
  let x := laneAt p.val d
  let seen := x.hist ++ [w]
  if solMark p.val seen d && windowDue s t d then openLinkWin s (updLane p.val (fun y => { y with hist := [], hi := none }) d)
  else if cfg (Obj.JLK_RAW.CODING g) d = 0 then one w (updLane p.val (fun y => { y with hist := seen.drop (seen.length - 3) }) d)
  else if w.testBit 8 then updLane p.val (fun y => { y with hi := none }) d
  else if width ≤ 8 then one w d
  else match x.hi with
    | none => updLane p.val (fun y => { y with hi := some w }) d
    | some h => one (h * 256 + w) (updLane p.val (fun y => { y with hi := none }) d)

/-- Words or characters of an aligned raw lane; ERR_LIMIT errors within 1 ms end the alignment of a coded one (R136). -/
def rawFrame (p : Fin 32) (ws : List Nat) (errs : List (Fin 32)) (t : Nat) (d : Dev) : Dev :=
  match groupOfLane p.val d with
  | none => d
  | some g =>
    let d := each ws (rawItem p g (!errs.isEmpty) t) d
    if cfg (Obj.JLK_RAW.CODING g) d = 1 ∧ errs ≠ [] then
      let d := updLane p.val (fun y => { y with errAt := recentErrs y.errAt errs.length t }) d
      if cfg (Obj.JLK_RAW.ERR_LIMIT g) d ≤ (laneAt p.val d).errAt.length then loseAlign p d else d
    else d

/-- LINK_FRAME: what a source receives at instant t (R127, R131): a frame of a link, its octets by physical lane, or words of a raw lane; errs,
the physical lane of every error found in it. -/
def linkFrame (s : LinkSrc) (data : List (List Nat)) (errs : List (Fin 32)) (t : Nat) (d : Dev) : Dev :=
  if srcUp s d then
    let d := (d.at_ t).uJlk fun j => { j with laneErr := j.laneErr ||| errs.foldl (fun m p => m ||| 2 ^ p.val) 0 }
    match s with
    | .link l => jesdFrame l data errs t d
    | .lane p => rawFrame p data.flatten errs t d
  else d

/-! Bring-up and faults (R128 to R132). -/

/-- EN of link l goes from 0 to 1, or the link restarts (R130). -/
def linkEnable (l : Nat) (d : Dev) : Dev :=
  let d := updLink l (fun x => { reinits := x.reinits, state := 1, enabledAt := jclkCycle d.now d }) d
  if d.jlk.link.any fun x => x.latShift then d else faultClearSrc 4 210 d

/-- EN of link l goes to 0: an open window ends (R134). -/
def linkDisable (l : Fin 8) (d : Dev) : Dev :=
  let d := cutOpened (.link l) d
  faultClearSrc 4 (192 + l.val) (updLink l.val (fun x => { reinits := x.reinits }) (d.uJlk fun j => { j with cdrLock := maskAndNot j.cdrLock (laneMaskOf l.val d) }))

/-- SYSREF_EDGE: a rising SYSREF edge at instant t aligns the links that wait for it and is checked against the others (R128). -/
def sysrefEdge (t : Nat) (d : Dev) : Dev :=
  let d := d.at_ t
  let c := jclkCycle t d
  each (List.range 8) (fun l d =>
    let x := linkAt l d
    if x.state = 1 then (if c = x.enabledAt then d else updLink l (fun y => { y with lmfc := some c, state := 2 }) d)
    else match x.lmfc with
      | some c0 =>
        let p := lmfcPeriod l d
        let off := ((c : Int) - c0).natAbs % p
        if cfg Obj.JLK_CTL.SYSREF_MODE d = 1 ∧ cfg Obj.JLK_CTL.SYSREF_TOL d < min off (p - off) then
          raise 208 (d.uJlk fun j => { j with sysrefFault := true })
        else d
      | none => d) d

/-- The transmitter's lane rate in kb/s lies within 300 ppm of LANE_RATE (R125). -/
def rateOk (l kbps : Nat) (d : Dev) : Bool :=
  let r := 1000 * cfg (Obj.JLK_LINK.LANE_RATE l) d
  decide (((kbps : Int) - r).natAbs * 1000000 ≤ 300 * r)

/-- LINK_SYNC_LOCK: code-group sync or sync-header lock on link l, whose transmitter sends at kbps; at another rate no lane locks (R125, R130). -/
def linkSyncLock (l kbps : Nat) (d : Dev) : Dev :=
  if (linkAt l d).state = 2 ∧ rateOk l kbps d then
    updLink l (fun x => { x with state := 3 }) (d.uJlk fun j => { j with cdrLock := j.cdrLock ||| laneMaskOf l d })
  else d

/-- The ILAS carries the parameters of JLK_LINK (R130). -/
def ilasMatches (l : Nat) (i : Ilas) (d : Dev) : Bool :=
  let f (x : FldDef) := cfg x d
  i.l == f (Obj.JLK_LINK.L l) && i.m == f (Obj.JLK_LINK.M l) && i.f == f (Obj.JLK_LINK.F l) && i.s == f (Obj.JLK_LINK.S l) &&
    i.n == f (Obj.JLK_LINK.N l) && i.np == f (Obj.JLK_LINK.NP l) && i.cs == f (Obj.JLK_LINK.CS l) && i.k == f (Obj.JLK_LINK.K l) &&
    i.hd == f (Obj.JLK_LINK.HD l) && i.scr == f (Obj.JLK_LINK.SCR l)

/-- Link l enters DATA with its latency in ps (R129, R130, R132). -/
def linkData (l lat : Nat) (d : Dev) : Dev :=
  let shift := match (linkAt l d).latBefore with
    | some b => decide (1000000000 < ((lat : Int) - b).natAbs * cfg Obj.JLK_CTL.JCLK_KHZ d)
    | none => false
  let d := updLink l (fun x => { x with state := 4, lat, latBefore := none, latShift := x.latShift || shift, errAt := [], frame := 0, errTo := none, closed := [] }) d
  let d := faultClearSrc 4 (192 + l) (raise (200 + l) d)
  if shift then faultRaise 4 210 (curLine d) St.HW_FAULT (raise 210 (d.uJlk fun j => { j with latShift := setBit j.latShift l true })) else d

/-- The lanes of link l do not meet its release point: arrive, each lane's arrival in octets after the LMFC boundary (R129). -/
def deskewBad (l : Nat) (arrive : List Nat) (d : Dev) : Bool :=
  let hi := arrive.foldl max 0
  let lo := arrive.foldl min hi
  decide (cfg (Obj.JLK_LINK.RBD l) d * cfg (Obj.JLK_LINK.F l) d < hi) || decide (512 < hi - lo)

/-- LINK_DESKEW_FAULT: the lanes of link l arrive beyond the release point or a buffer (R129). -/
def linkDeskewFault (l : Fin 8) (arrive : List Nat) (d : Dev) : Dev :=
  let x := linkAt l.val d
  if (x.state = 3 ∨ x.state = 4) ∧ deskewBad l.val arrive d then
    let d := cutOpened (.link l) (updLink l.val (fun y => { y with state := 5 }) d)
    raise (192 + l.val) (d.uJlk fun j => { j with deskew := true })
  else d

/-- ILAS_RECEIVED: the ILAS, or the lock of the extended multiblock, completes on link l, whose lanes arrive as given; lat, the latency (R129, R130). -/
def ilasReceived (l : Fin 8) (i : Ilas) (arrive : List Nat) (lat : Nat) (d : Dev) : Dev :=
  if (linkAt l.val d).state = 3 then
    if cfg (Obj.JLK_LINK.STD l.val) d = 0 ∧ ilasMatches l.val i d = false then
      raise 209 (updLink l.val (fun x => { x with state := 5 }) (d.uJlk fun j => { j with ilas := setBit j.ilas l.val true }))
    else if deskewBad l.val arrive d then linkDeskewFault l arrive d
    else linkData l.val lat d
  else d

/-! Raw lanes (R136). -/

/-- A word that raw lane p receives n times in a row aligns it: TRAIN 64 times where it is not coded, and one comma, K28.5, where it is (R136). -/
def alignsOn (g word n : Nat) (d : Dev) : Bool :=
  if cfg (Obj.JLK_RAW.CODING g) d = 0 then word == cfg (Obj.JLK_RAW.TRAIN g) d && decide (64 ≤ n) else word == 0x1BC && decide (1 ≤ n)

/-- RAW_ALIGN: raw lane p finds its word boundary or commas on a word that repeats n times. -/
def rawAlign (p word n : Nat) (d : Dev) : Dev :=
  match groupOfLane p d with
  | some g =>
    if !alignsOn g word n d then d
    else
    let d := updLane p (fun x => { x with aligned := true, missed := 0, hist := [], hi := none, errAt := [] }) (d.uJlk fun j => { j with cdrLock := setBit j.cdrLock p true })
    let all := (maskIx (cfg (Obj.JLK_RAW.LANE_MASK g) d) 32).all fun q => (laneAt q d).aligned
    if all then d.uJlk fun j => { j with rawFault := put j.rawFault g false } else d
  | none => d

/-- RAW_ALIGN_LOST: raw lane p loses alignment and starts to re-align. -/
def rawAlignLost (p : Fin 32) (d : Dev) : Dev :=
  if (laneAt p.val d).aligned then loseAlign p d else d

/-- RAW_STATE of group g (Table 6.6). -/
def rawState (g : Nat) (d : Dev) : Nat :=
  if !rawEn g d then 0
  else if at' d.jlk.rawFault g false then 3
  else if (maskIx (cfg (Obj.JLK_RAW.LANE_MASK g) d) 32).all fun q => (laneAt q d).aligned then 2
  else 1

/-! Writes and status. -/

/-- Physical lanes named by the enabled links and groups, with repetitions; i replaces link or group object id's contents by ws. -/
def lanesNamed (id : Nat) (ws : List Word) (d : Dev) : List Nat :=
  let w (i : Nat) : List Word := if i = id then ws else objWords i d
  ((List.range 8).flatMap fun l => if fieldOf (w (Obj.JLK_LINK.id l)) (Obj.JLK_LINK.EN l) = 0 then [] else linkLanes l (w (Obj.JLK_LINK.id l))) ++
  ((List.range 4).flatMap fun g => if fieldOf (w (Obj.JLK_RAW.id g)) (Obj.JLK_RAW.EN g) = 0 then []
    else maskIx (fieldOf (w (Obj.JLK_RAW.id g)) (Obj.JLK_RAW.LANE_MASK g)) 32)

def distinct (l : List Nat) : Bool := match l with | [] => true | x :: xs => !xs.contains x && distinct xs

def ratioWhole (r : Nat × Nat) : Bool := r.2 != 0 && r.1 % r.2 == 0

/-- What rejects a write of JLK_LINK l (R124, R125, R129, R139). -/
def jlkLinkCheck (l : Nat) (ws : List Word) (d : Dev) : Option (Nat × Nat) :=
  let f (x : FldDef) := fieldOf ws x
  let en := f (Obj.JLK_LINK.EN l) != 0
  let lr := f (Obj.JLK_LINK.LANE_RATE l)
  let np := f (Obj.JLK_LINK.NP l)
  let k := f (Obj.JLK_LINK.K l); let e := f (Obj.JLK_LINK.E l); let fo := f (Obj.JLK_LINK.F l); let rbd := f (Obj.JLK_LINK.RBD l)
  let std := if f (Obj.JLK_LINK.STD l) = 0 then
      (lr == 0 || (decide (1500 ≤ lr) && decide (lr ≤ 12500))) && decide (1 ≤ k) && decide (17 ≤ fo * k) && decide (fo * k ≤ 1024) && e == 0 && decide (rbd < k)
    else (lr == 0 || (decide (6000 ≤ lr) && decide (lr ≤ 24750))) && decide (1 ≤ e) && k == 0 && 256 * e % fo == 0 && decide (rbd < 256 * e / fo)
  firstFail [
    (!(np == 8 || np == 12 || np == 16) || decide (np < f (Obj.JLK_LINK.N l) + f (Obj.JLK_LINK.CS l)), St.BAD_FIELD, 0),
    (!std, St.BAD_FIELD, 0),
    (decide (f (Obj.JLK_LINK.CS l) < f (Obj.JLK_LINK.SOL_CTL l)), St.BAD_FIELD, 0),
    ((List.range 32).any fun i => decide (f (Obj.JLK_LINK.L l) ≤ i) && f (Obj.JLK_LINK.LANE_MAP l i) != 0, St.BAD_FIELD, 0),
    (en && (lr == 0 || !ratioWhole (lmfcRatio l ws (cfg Obj.JLK_CTL.JCLK_KHZ d))), St.BAD_FIELD, 0),
    (en && !distinct (lanesNamed (Obj.JLK_LINK.id l) ws d), St.BAD_FIELD, 0)]

/-- What rejects a write of JLK_RAW g (R136, R140). -/
def jlkRawCheck (g : Nat) (ws : List Word) (d : Dev) : Option (Nat × Nat) :=
  let f (x : FldDef) := fieldOf ws x
  let en := f (Obj.JLK_RAW.EN g) != 0
  let lr := f (Obj.JLK_RAW.LANE_RATE g)
  let coded := f (Obj.JLK_RAW.CODING g) != 0
  firstFail [
    (lr != 0 && !(if coded then decide (1000 ≤ lr) && decide (lr ≤ 12500) else decide (500 ≤ lr) && decide (lr ≤ 2500)), St.BAD_FIELD, 0),
    (coded && (f (Obj.JLK_RAW.SOL_WORD g) != 0 || f (Obj.JLK_RAW.TRAIN g) != 0), St.BAD_FIELD, 0),
    (en && (lr == 0 || f (Obj.JLK_RAW.LANE_MASK g) == 0), St.BAD_FIELD, 0),
    (en && !distinct (lanesNamed (Obj.JLK_RAW.id g) ws d), St.BAD_FIELD, 0)]

/-- What rejects a write of JLK_CTL (R125). -/
def jlkCtlCheck (ws : List Word) (d : Dev) : Option (Nat × Nat) :=
  let khz := fieldOf ws Obj.JLK_CTL.JCLK_KHZ
  firstFail [(decide (1 < fieldOf ws Obj.JLK_CTL.SYSREF_MODE), St.BAD_FIELD, 0),
    ((List.range 8).any fun l => linkEn l d && !ratioWhole (lmfcRatio l (objWords (Obj.JLK_LINK.id l) d) khz), St.BAD_FIELD, 0)]

/-- A write of a link or group object changes only the fields that may be staged (R135). -/
def sameBut (n : Nat) (fs stage : List FldDef) (old new : List Word) : Bool :=
  let o := if old = [] then resetWords n fs else old
  fs.all fun f => stage.contains f || getBits o f.off f.wid == getBits new f.off f.wid

def linkStageFields (l : Nat) : List FldDef :=
  [Obj.JLK_LINK.TRIG l, Obj.JLK_LINK.TRIG_TABLE l, Obj.JLK_LINK.LAG l, Obj.JLK_LINK.SKIP l, Obj.JLK_LINK.COUNT l, Obj.JLK_LINK.DELAY l,
   Obj.JLK_LINK.SOL_CTL l]
def rawStageFields (g : Nat) : List FldDef :=
  [Obj.JLK_RAW.TRIG g, Obj.JLK_RAW.TRIG_TABLE g, Obj.JLK_RAW.LAG g, Obj.JLK_RAW.SKIP g, Obj.JLK_RAW.COUNT g, Obj.JLK_RAW.DELAY g]

/-- A write of JLK_LINK l outside SCAN and HOLD (R130). -/
def jlkLinkApply (l : Fin 8) (ws : List Word) (d : Dev) : Dev :=
  let was := linkEn l.val d
  let en := fieldOf ws (Obj.JLK_LINK.EN l.val) != 0
  let d := if was && !en then linkDisable l d else d
  let d := setObj (Obj.JLK_LINK.id l.val) ws d
  if en && !was then linkEnable l.val d else d

/-- A write of JLK_RAW g outside SCAN and HOLD: lanes that the group takes or leaves start over (R136), and their open windows end (R134). -/
def jlkRawApply (g : Nat) (ws : List Word) (d : Dev) : Dev :=
  let was := if rawEn g d then cfg (Obj.JLK_RAW.LANE_MASK g) d else 0
  let now := if fieldOf ws (Obj.JLK_RAW.EN g) = 0 then 0 else fieldOf ws (Obj.JLK_RAW.LANE_MASK g)
  let moves := (List.finRange 32).filter fun p => was.testBit p.val != now.testBit p.val
  let d := setObj (Obj.JLK_RAW.id g) ws (each moves (fun p d => cutOpened (.lane p) d) d)
  let d := each moves (fun p d => updLane p.val (fun _ => {}) d) d
  d.uJlk fun j => { j with rawFault := if was = now then j.rawFault else put j.rawFault g false }

/-- The words of JLK_STATUS (Table 6.6). -/
def jlkStatusWords (d : Dev) : List Word :=
  let j := d.jlk
  packF 16 ([(Obj.JLK_STATUS.CDR_LOCK, j.cdrLock), (Obj.JLK_STATUS.LANE_ERR, j.laneErr), fb Obj.JLK_STATUS.SYSREF_FAULT j.sysrefFault,
    fb Obj.JLK_STATUS.DESKEW j.deskew, (Obj.JLK_STATUS.ILAS_MISMATCH, j.ilas), (Obj.JLK_STATUS.LAT_SHIFT, j.latShift),
    (Obj.JLK_STATUS.LWIN_MISSED, j.lwinMissed), (Obj.JLK_STATUS.LWIN_CUT, j.lwinCut)] ++
    mapIx (fun l x => (Obj.JLK_STATUS.LINK_STATE l, x.state)) j.link ++ mapIx (fun l x => (Obj.JLK_STATUS.LAT l, x.lat)) j.link ++
    mapIx (fun l x => (Obj.JLK_STATUS.REINITS l, x.reinits)) j.link ++ (List.range 4).map fun g => (Obj.JLK_STATUS.RAW_STATE g, rawState g d))

def jlkStatusClear (d : Dev) : Dev :=
  d.uJlk fun j => { j with laneErr := 0, sysrefFault := false, deskew := false, ilas := 0, latShift := 0 }

end Sys2Proof.Machine
end

