-- ==== Sys2Proof/Machine/SpindleCore.lean ====
section
/-! DEFINITION. What Spindle's template entries fire, the abort of a line, reversal, overspeed and the faults of the scan source
(R20, R24, R25, R32, R34). -/

namespace Sys2Proof.Machine

/-- A pulse on the masked pins of a list. -/
def pulsePins (mask t ns : Nat) (l : List (Option Pulse)) : List (Option Pulse) :=
  mapIx (fun i p => if mask.testBit i then some { at_ := t, ns } else p) l

/-- TRIG_OUT with its ARG (Table 2.2). -/
def trigOut (arg t : Nat) (d : Dev) : Dev := (d.at_ t).uSpn fun s => { s with trig := pulsePins (arg % 16) t (4 * (arg / 16)) s.trig }

/-- FC_PULSE with its ARG: only the pins that Spindle owns pulse (R261). -/
def fcPulse (arg t : Nat) (d : Dev) : Dev :=
  let own := packBits ((List.range 4).map fun p => cfg (Obj.PACE_FC.OWNER p) d == 3)
  (d.at_ t).uSpn fun s => { s with fcPulse := pulsePins ((arg % 16) &&& own) t (4 * (arg / 16)) s.fcPulse }

/-- The strings that a LAMP_OFF of the same offset turns off after a LAMP_ON (R370). -/
def offWith (ws : List Word) (i ph : Nat) : Nat :=
  ((Tpl.ofPhase ws ph).filter fun j => decide (i < j) && Tpl.offset ws j == Tpl.offset ws i && Tpl.target ws j == 5).foldl (fun m j => m ||| Tpl.arg ws j) 0

/-- Entry i of line k's template acts at instant t (R25); a block whose domain is in reset does not answer. -/
def fireEntry (k ph i t : Nat) (d : Dev) : Dev :=
  let ws := templateOf k d
  let a := Tpl.arg ws i
  match Tpl.target ws i with
  | 1 => let on := tableStarts a d; let d := sdrvWave a k t d; if on then armLinks 1 a k t d else d
  | 2 => armWindow a k t d
  | 3 => if d.runs 8 then injectEvent a t d else d
  | 4 => if d.runs 13 then lampOn a (offWith ws i ph) k t d else d
  | 5 => if d.runs 13 then lampOff a t d else d
  | 6 => if d.runs 13 then lampDiagSlot a t d else d
  | 7 => if d.runs 10 then tdiRow k t d else d
  | 8 => trigOut a t d
  | 9 => fcPulse a t d
  | _ => d

/-- Entry i of line l is a row of the target, is the next one of its line to act (R24: in the order of the table), and its instant has come. -/
def entryActs (target t i : Nat) (d : Dev) (l : LineProg) : Option Nat :=
  if l.left.head? == some i && Tpl.target (templateOf l.k d) i == target then entryDue l i t d else none

/-- The first entry of line k has acted. -/
def entryDone (k : Nat) (d : Dev) : Dev :=
  let step (l : LineProg) : LineProg := if l.k = k then { l with left := l.left.drop 1 } else l
  d.uSpn fun s => { s with line := s.line.map step, tail := (s.tail.map step).filter fun l => !l.left.isEmpty }

/-- A template event row: entry i acts in the oldest line whose next entry it is. -/
def templateEvent (target t i : Nat) (d : Dev) : Dev :=
  match (openEntries d).findSome? fun l => (entryActs target t i d l).map fun u => (l, u) with
  | some (l, u) => fireEntry l.k l.phase i u (entryDone l.k d)
  | none => d

/-- Line l is in progress: d has not reached the next line's start. -/
def inProgress (l : LineProg) (d : Dev) : Bool := decide (d.spn.dHigh < lineAt (l.k + 1) d)

/-- v̂ in sub-counts per ns in Q8.24 (R450). -/
def vhatQ (d : Dev) : Nat :=
  if timeMode d then 4294967295
  else match d.spn.vel with
    | some (n, den) => min 4294967295 (n.natAbs * 16 * 16777216 / max 1 den)
    | none => 0

/-- An instant of the group time, in 62.5 ps steps, and back (R447). -/
def groupStep (t : Nat) (d : Dev) : Nat := ((t : Int) + d.krm.ofsHalf / 125).toNat
def localStep (t : Nat) (d : Dev) : Nat := ((t : Int) - d.krm.ofsHalf / 125).toNat

/-- The content of a LINE block as payload words; the spec gives the block no layout. -/
def lineBlockWords (b : LineBlk) : List Word :=
  wordsOfNat 8 (b.k % 2 ^ 48 + 2 ^ 48 * (b.phase % 8) + 2 ^ 51 * b2n b.frameStart + 2 ^ 52 * b2n b.frameEnd + 2 ^ 53 * b2n b.abort +
    2 ^ 64 * (b.tk % 2 ^ 64) + 2 ^ 128 * ofS 64 b.pos + 2 ^ 192 * (b.vhat % 2 ^ 32))

/-- The master of a group broadcasts a LINE block for line k, predicted or started at instant t with position pos (R450). -/
def sendLineBlock (k : Nat) (pos : Int) (t : Nat) (abort : Bool) (d : Dev) : Dev :=
  if d.krm.member && d.krm.role then
    let f := cfg Obj.SPN_CTL.FRAME_LINES d
    let b : LineBlk := { k, tk := groupStep t d, pos, vhat := vhatQ d, phase := k % phasesOf d, frameStart := decide (0 < f) && k % f == 0
                         frameEnd := decide (0 < f) && k % f == f - 1, abort }
    (broadcast { type := 6, cls := 0, dest := 0xFFF, src := nodeAddr d, units := 1, payload := lineBlockWords b } d).uKrm fun x => { x with lastBlk := t }
  else d

/-- The line in progress is aborted (R20): its CLOSE entries fire at once, no other entry fires, every sample of it is discarded, and its index
becomes available again, to start afresh when d next reaches its start. -/
def abortLine (t : Nat) (d : Dev) : Dev :=
  match d.spn.line with
  | none => d
  | some l =>
    if l.predicted.isSome || !inProgress l d then d
    else
      let d := d.uSpn fun s => { s with line := none }
      let d := each (l.left.filter fun i => Tpl.close (templateOf l.k d) i) (fun i d => fireEntry l.k l.phase i t d) d
      let pr := primes l.k d
      let rec' := if pr then none else lineRec l.k d
      let d := abortLinkWindows l.k (abortWindows l.k (forgetLine l.k d))
      let d := { d with lines := d.lines.filter fun r => r.k != l.k || (pr && !r.priming) }
      let d := d.uTdi fun x => { x with rows := x.rows.filter fun r => r.k != l.k }
      let d := d.uStat fun x => { x with raw := x.raw.filter (fun r => r.line != l.k), left := x.left.filter (fun k => k != l.k), hist := x.hist.map fun h => { h with lines := h.lines.filter fun r => r.1 != l.k } }
      let d : Dev := match rec' with
        | some r => if r.flags &&& FL.SEAM ≠ 0 then linesMissing (l.k - r.seamMissing) d else d
        | none => d
      let d : Dev := if d.pwr.mode = .hold then
          d.uHdl fun h => { h with resume := h.resume.map (min l.k), discardFrom := h.discardFrom.map (min l.k) }
        else d
      let d := sendLineBlock l.k l.p0 t true d
      raise 74 (d.uSpn fun s => { s with next := l.k, abortedIdx := if dist d < lineAt l.k d then none else some l.k, aborts := sat16 s.aborts })

/-- A reversal is declared (R20). -/
def declareReversal (t : Nat) (d : Dev) : Dev :=
  let d := freshVel (d.uSpn fun s => { s with revPeak := if s.reversed then max s.revPeak s.dHigh else s.dHigh, reversed := true, revArmed := false, phat := s.p })
  abortLine t (raise 73 d)

/-- |v̂| exceeds OVERSPEED (R34). -/
def overspeed (d : Dev) : Bool :=
  !timeMode d && (match d.spn.vel with | some (n, den) => decide (cfg Obj.SPN_CTL.OVERSPEED d * den < n.natAbs * 62500000) | none => false)

/-- After P has moved at instant t: overspeed (R34), the highest d, the reversal and its end (R20). -/
def sourceMoved (t : Nat) (d : Dev) : Dev :=
  if timeMode d then d
  else
    let o := overspeed d
    let d := if o && !d.spn.overNow then raise 72 d else d
    let d := d.uSpn fun s => { s with overNow := o, overSticky := s.overSticky || o }
    let x := dist d
    let d := if d.spn.reversed && decide (d.spn.revPeak < x) then d.uSpn fun s => { s with reversed := false, revArmed := true } else d
    let d := match d.spn.abortedIdx with
      | some k => if x < lineAt k d then d.uSpn fun s => { s with abortedIdx := none } else d
      | none => d
    if d.spn.dHigh < x then d.uSpn fun s => { s with dHigh := x }
    else if d.spn.revArmed && decide ((cfg Obj.SPN_CTL.DIR_HYST d : Int) < d.spn.dHigh - x) then declareReversal t d
    else d

/-- A fault of the scan source (R32), reported as interrupt source src: no further line starts, the line in progress completes on predicted
time, POS_VALID clears, and the first line not started passes to the pacing unit. -/
def scanFault (src : Nat) (d : Dev) : Dev :=
  if (timeMode d && !follower d) || d.spn.srcFault then d
  else
    let first := d.spn.next
    let on := d.inMode [.scan, .hold]
    let d := d.uSpn fun s => { s with posValid := false, srcFault := true, line := s.line.map (fun l => { l with predicted := some (s.p, (s.edges.head?.map Prod.snd).getD 0, s.vel) }),
                                       tail := s.tail.map (fun l => { l with predicted := some (s.p, (s.edges.head?.map Prod.snd).getD 0, s.vel) }) }
    let d := faultRaise 0 src (if on then some first else none) St.HW_FAULT d
    if on then paceSourceFault first d else d

/-- A fault of encoder port n (R32). -/
def encFault (n : Nat) (d : Dev) : Dev :=
  let d := raise (64 + n) (d.uSpn fun s => { s with encFault := setBit s.encFault n true, ssiGood := put s.ssiGood n 0 })
  if srcPort d = some n then scanFault (64 + n) d else d

/-- POS_VALID is set, and a scan-source fault no longer stands (R32). -/
def positionBack (d : Dev) : Dev :=
  let d := setPosValid d
  if d.spn.posValid then d.uPwr fun p => { p with faults := p.faults.filter fun f => !(f.cls == 0 && decide (f.source < 448)) } else d

end Sys2Proof.Machine
end

