-- ==== Sys2Proof/Machine/Spindle.lean ====
section
/-! DEFINITION. Spindle (chapter 2): encoder and SSI ports, Z pulses, line starts, frames and what goes live at a frame boundary, the
position-strobe port, and the objects SPN_CTL, SPN_PORT and SPN_TEMPLATE. -/

namespace Sys2Proof.Machine

/-! Ports (R12 to R14, R32, R33). -/

/-- The receivers of port n run: Spindle's domain is powered and runs (R12, R476). -/
def portRuns (n type : Nat) (d : Dev) : Bool :=
  d.runs 7 && !d.inMode [.reset, .sleep] && cfg (Obj.SPN_PORT.TYPE n) d == type

def cntOf (n : Nat) (d : Dev) : Int := at' d.spn.cnt n 0
def zOfsOf (n : Nat) (d : Dev) : Int := at' d.spn.zOfs n 0

/-- At an edge of its scan source, at most every 100 ns, the master of a group broadcasts the predicted start of the next line (R450). -/
def linePredicted (t : Nat) (d : Dev) : Dev :=
  if d.krm.member && d.krm.role && d.pwr.mode == .scan && decide (d.krm.lastBlk + 1600 ≤ t) then
    match d.spn.vel with
    | some (n, den) =>
      let left := lineAt d.spn.next d - distAt t d
      if n = 0 ∨ left ≤ 0 then d else sendLineBlock d.spn.next (posOf (lineAt d.spn.next d) d) (t + left.toNat * den / n.natAbs) false (d.uKrm fun k => { k with lastBlk := t })
    | none => d
  else d

/-- The count of port n takes a value at instant t; P moves where n is the scan source. -/
def portCount (n : Nat) (c : Int) (t : Nat) (d : Dev) : Dev :=
  let d := d.uSpn fun s => { s with cnt := put s.cnt n c }
  if srcPort d = some n then linePredicted t (sourceMoved t (sourceCount c (zOfsOf n d) t d)) else d

/-- Line k may start at a distance x: the index of the last start that x has reached, if it is one that has not started. -/
def reachedLine (x : Int) (d : Dev) : Option Nat :=
  if x < 0 then none
  else
    let k := (x / (pitch d : Int)).toNat
    let late : Bool := match d.pwr.linesLast with | some l => decide (l < k) | none => false
    if k < d.spn.next || late || d.spn.abortedIdx == some k then none else some k

/-- The fast compare path (R26): the edge that brings the count to the start of a line drives LS_OUT, once for each index. -/
def lsEdge (t : Nat) (d : Dev) : Dev :=
  if cfgB Obj.SPN_CTL.LS_FAST d && !timeMode d && startsLines d then
    match reachedLine (dist d) d with
    | some k =>
      if dist d = lineAt k d ∧ d.spn.lsIdx ≠ some k then
        d.uSpn fun s => { s with lsIdx := some k, lsOut := some { at_ := t, ns := cfg Obj.SPN_CTL.LS_WIDTH d } }
      else d
    | none => d
  else d

/-- The step of the count from one pair of levels (A, B) to another: A before B counts up (assumption log 86); none: both have changed. -/
def quadStep (o n : Bool × Bool) : Option Int :=
  match o.1 != n.1, o.2 != n.2 with
  | true, true => none
  | false, false => some 0
  | true, false => some (if n.1 != n.2 then 1 else -1)
  | false, true => some (if n.1 == n.2 then 1 else -1)

/-- Instant t lies within FILTER of an earlier change on port n (R13). -/
def withinFilter (n : Nat) (x : Option Nat) (t : Nat) (d : Dev) : Bool :=
  match x with | some u => decide (t < u + 16 * cfg (Obj.SPN_PORT.FILTER n) d) | none => false

/-- A change within FILTER of the last one of the same conductor cannot arise: that one passed the filter, so its level held (R13). -/
def cannotPass (n : Nat) (chA chB : Bool) (t : Nat) (d : Dev) : Bool :=
  let was := at' d.spn.pinAt n (none, none)
  (chA && withinFilter n was.1 t d) || (chB && withinFilter n was.2 t d)

/-- ENC_EDGE: the pair of port n takes levels that pass the glitch filter (R13): four counts per cycle; a change of both, or of one within
FILTER of the other, is an illegal transition. The row stands for an edge that has passed the filter, so a change that would undo such an edge
within FILTER is none, and changes nothing (assumption log 105). Taproot sees the activity of the pair (R429). -/
def encEdge (n : Nat) (a b : Bool) (t : Nat) (d : Dev) : Dev :=
  if d.pwr.mode = .reset then d
  else
    let d := tapPulse (6 + n) (d.at_ t)
    let old := at' d.spn.pins n (false, false)
    let was := at' d.spn.pinAt n (none, none)
    let chA := old.1 != a
    let chB := old.2 != b
    if portRuns n 1 d && cannotPass n chA chB t d then d
    else
    let d := d.uSpn fun s => { s with pins := put s.pins n (a, b), pinAt := put s.pinAt n (if chA then some t else was.1, if chB then some t else was.2) }
    if portRuns n 1 d then
      match quadStep old (a, b) with
      | none => encFault n d
      | some k =>
        if k = 0 then d
        else if (chA && withinFilter n was.2 t d) || (chB && withinFilter n was.1 t d) then encFault n d
        else
          let d := portCount n (cntOf n d + k) t d
          if srcPort d = some n then lsEdge t d else d
    else d

/-- ENC_PAIR_STUCK: both conductors of a pair of port n stay at one level (R32). -/
def encPairStuck (n : Nat) (d : Dev) : Dev :=
  if portRuns n 1 d || portRuns n 2 d then encFault n d else d

/-- The binary value of a Gray code. -/
def grayFrom : Nat → Nat → Nat
  | 0, g => g
  | b + 1, g => g ^^^ (grayFrom b (g / 2))

/-- The change from the last frame's value, a change of more than half the range being a wrap (R14). -/
def ssiDelta (bits old new : Nat) : Int :=
  let m : Int := ((2 ^ bits : Nat) : Int)
  let x : Int := (new : Int) - old
  if m < 2 * x then x - m else if 2 * x < -m then x + m else x

/-- Some fault of R32 is found in a frame: no data change at any position for more than one frame, or, on the scan source with v̂ known, a
value away from the prediction. -/
def ssiBad (n same : Nat) (c : Int) (t : Nat) (d : Dev) : Bool :=
  decide (2 ≤ same) ||
  (srcPort d == some n && !(at' d.spn.ssiRaw n none).isNone && (match d.spn.vel with
    | none => false
    | some (v, den) =>
      let dt : Int := (t : Int) - at' d.spn.ssiAt n 0
      -- the deviation and the limit, both times the denominator of v̂
      let dev : Int := 256 * (c - cntOf n d) * den - v * dt
      decide (256 * ((den : Int) + v.natAbs * dt.toNat) < dev.natAbs)))

/-- SSI_FRAME: a frame with the data raw was frozen at instant t (R14): the count follows the encoder's value, and two consistent frames in a row set POS_VALID
(R32). -/
def ssiFrame (n raw t : Nat) (d : Dev) : Dev :=
  if portRuns n 2 d then
    let d := d.at_ t
    let nb := cfg (Obj.SPN_PORT.SSI_BITS n) d
    let r := raw % 2 ^ nb
    let v := if cfgB (Obj.SPN_PORT.SSI_CODE n) d then grayFrom nb r else r
    let old := at' d.spn.ssiRaw n none
    let c : Int := match old with | none => (v : Int) | some o => cntOf n d + ssiDelta nb o v
    let same := if r = 0 ∨ r = 2 ^ nb - 1 then at' d.spn.ssiSame n 0 + 1 else 0
    let bad := ssiBad n same c t d
    let good := if bad then 0 else at' d.spn.ssiGood n 0 + 1
    let d := if bad then encFault n d else d
    let d := d.uSpn fun s => { s with ssiRaw := put s.ssiRaw n (some v), ssiAt := put s.ssiAt n t, ssiSame := put s.ssiSame n same, ssiGood := put s.ssiGood n good }
    let d := portCount n c t d
    if 2 ≤ good ∧ srcPort d = some n ∧ d.spn.posValid = false then positionBack d else d
  else d

/-- A fault of the Z pulses of port n (R33). -/
def zFaultOf (n : Nat) (d : Dev) : Dev := raise (68 + n) (d.uSpn fun s => { s with zFault := setBit s.zFault n true })

/-- Z pulses are checked on port n: Z_MODE 1, or 2 once it has homed (R33). -/
def zChecks (n : Nat) (d : Dev) : Bool :=
  let m := cfg (Obj.SPN_PORT.Z_MODE n) d
  m == 1 || (m == 2 && at' d.spn.zHomed n false)

/-- Z_PULSE: a Z pulse on port n at instant t (R33). -/
def zPulse (n t : Nat) (d : Dev) : Dev :=
  if portRuns n 1 d && cfg (Obj.SPN_PORT.Z_MODE n) d != 0 then
    let d := d.at_ t
    let c := cntOf n d
    let note (d : Dev) : Dev := d.uSpn fun s => { s with zLast := put s.zLast n (some c), zMissed := put s.zMissed n false }
    if zChecks n d then
      let per : Int := (cfg (Obj.SPN_PORT.Z_PERIOD n) d : Int)
      let tol : Int := (cfg (Obj.SPN_PORT.Z_TOL n) d : Int)
      match at' d.spn.zLast n none with
      | none => note d
      | some z =>
        let off : Int := ((c - z).natAbs : Int)
        note (if off < per - tol ∨ per + tol < off then zFaultOf n d else d)
    else
      let home := cfgS (Obj.SPN_PORT.HOME n) d
      let d := note (d.uSpn fun s => { s with zHomed := put s.zHomed n true, zOfs := put s.zOfs n (home - 256 * c) })
      if srcPort d = some n then
        let d := d.uSpn fun s => { s with p := home, phat := home }
        let x := dist d
        positionBack (sourceMoved t (d.uSpn fun s => { s with dHigh := x }))
      else d
  else d

/-- Z_MISSING: no Z has come by Z_PERIOD + Z_TOL counts after the last one on port n (R33). -/
def zMissing (n : Nat) (d : Dev) : Dev :=
  match at' d.spn.zLast n none with
  | none => d
  | some z =>
    if portRuns n 1 d && zChecks n d && !at' d.spn.zMissed n false &&
        decide (cfg (Obj.SPN_PORT.Z_PERIOD n) d + cfg (Obj.SPN_PORT.Z_TOL n) d ≤ (cntOf n d - z).natAbs) then
      zFaultOf n (d.uSpn fun s => { s with zMissed := put s.zMissed n true })
    else d

/-! Frames, and what goes live at a frame boundary (R29 to R31, R58, R73, R135, R204). -/

def frameLines (d : Dev) : Nat := cfg Obj.SPN_CTL.FRAME_LINES d

/-- Something is staged in the waveform memory. -/
def tablesStaged (d : Dev) : Bool := d.sdrv.staged

/-- A staged template goes live: epoch, bank and the swap interrupt (R30). k: lines below it keep the old one (R31). TPL_ID stands in the
object's words alone, as no event or status carries it (DESIGN CHOICE, assumption log 108). -/
def templateLive (k : Nat) (d : Dev) : Dev :=
  if isStaged Obj.SPN_TEMPLATE.id d then
    let old := liveWords Obj.SPN_TEMPLATE.id d
    raise 75 ((unstage Obj.SPN_TEMPLATE.id d).uSpn fun s => { s with tplEpoch := wrap16 (s.tplEpoch + 1), tplBank := !s.tplBank, tplHist := s.tplHist ++ [(k, old)] })
  else d

/-- Staged waveform tables go live (R58). -/
def tablesLive (d : Dev) : Dev :=
  if tablesStaged d then raise 133 (d.uSdrv fun s => { s with staged := false, bank := !s.bank, epoch := wrap16 (s.epoch + 1) }) else d

/-- Everything staged for the frame boundary of line k at instant t goes live, but for what was staged in the same cycle. -/
def boundaryLive (k t : Nat) (d : Dev) : Dev :=
  let late := d.liveOld.filter fun x => stagedLate t x.1 d
  let tables := late.filter fun x => decide (Obj.SDRV_TABLE.id 0 ≤ x.1) && decide (x.1 ≤ Obj.SDRV_TABLE.id 63)
  let d := if stagedLate t Obj.SPN_TEMPLATE.id d then d else templateLive k d
  let all := d.liveOld.filter fun x => decide (Obj.SDRV_TABLE.id 0 ≤ x.1) && decide (x.1 ≤ Obj.SDRV_TABLE.id 63)
  let d := if tables = [] then tablesLive d
    else if all.length = tables.length then d
    else (tablesLive d).uSdrv fun s => { s with staged := true }
  { d with liveOld := late }.uSpn fun s => { s with stagedAt := s.stagedAt.filter fun x => x.1 == 0x1505 || late.any fun y => y.1 == x.1 }

/-- Everything staged goes live while no line runs: on entry to READY (R30). -/
def allLive (d : Dev) : Dev :=
  let d := tablesLive (templateLive 0 d)
  { d with liveOld := [] }.uSpn fun s => { s with stagedAt := [] }

/-- TPL_EPOCH of line k: that of the template it uses. -/
def epochOfLine (k : Nat) (d : Dev) : Nat :=
  (d.spn.tplEpoch + 65536 * 65536 - countIf (fun x : Nat × List Word => decide (k < x.1)) d.spn.tplHist) % 65536

/-! The start of a line (R18, R19). -/

/-- The marks a line takes from the state of the device at its start: bank supplies (R43), reference (R78), overspeed (R34), lamps (R377,
R379), and the frame it opens or ends (R29). -/
def startFlags (k : Nat) (d : Dev) : Nat :=
  let f := frameLines d
  (if !d.runs 8 || d.sdrv.bankBad ≠ 0 || (d.spn.overNow && !timeMode d && !follower d) then FL.DEGRADED else 0) ||| lampFlags (k % phasesOf d) d |||
  (if 0 < f ∧ k % f = 0 then FL.FRAME_START else 0) ||| (if 0 < f ∧ k % f = f - 1 then FL.FRAME_END else 0)

/-- The work of the other blocks at a line start, before line k is known to them. -/
def lineStartBlocks (k : Nat) (boundary : Bool) (t : Nat) (d : Dev) : Dev :=
  let d := openInputs k (missWindows k d)
  let d := d.uAcq fun a => { a with chk := a.chk.map fun x => { x with takeover := false }, ch := mapIx (fun p x => { x with dead := x.failed && (standIn p d).isNone }) a.ch, inj := a.inj.map fun r => { r with waited := r.waited + 1 } }
  let d := (bgStep t (formFigures d)).uStat fun s => { s with figs := [] }
  let d := calLineStart d
  let d := if boundary then boundaryLive k t d else d
  diagLineStart (bankLineStart k boundary t (phaseGainStart (applyLamps (k % phasesOf d) d)))

/-- Line k starts at instant t with a latched position (R18, R19). -/
def startLine (k : Nat) (pos : Int) (t : Nat) (d : Dev) : Dev :=
  let d := d.at_ t
  let again : Bool := match d.spn.started with | some m => decide (k ≤ m) | none => false
  let frame := decide (0 < frameLines d) && k % frameLines d == 0
  let d := lineStartBlocks k (frame && !again) t d
  let d := if frame then raise 77 d else d
  let (priming, fl, miss, d) := paceLineStart k d
  let ph := k % phasesOf d
  let rec' : LineRec := {
    k, phase := ph, pos, ts := d.ns, flags := fl ||| startFlags k d, tplEpoch := epochOfLine k d, seamMissing := miss, priming
    pgEpoch := d.hdl.pgEpoch, region := liveWords 0x1701 d, resamp := liveWords Obj.TDI_RESAMPLE.id d }
  let d := { d with lines := (d.lines.filter fun (r : LineRec) => r.k != k || (priming && !r.priming)) ++ [rec'] }
  let d := d.uTdi fun x => { x with first := some (x.first.getD k) }
  let d := d.uPwr fun p => { p with linesLast := if p.linesLast.isNone && decide (0 < p.linesGoal) && !priming then some (k + p.linesGoal - 1) else p.linesLast }
  let ls := if d.spn.lsIdx = some k then d.spn.lsOut else some { at_ := t, ns := cfg Obj.SPN_CTL.LS_WIDTH d }
  let d := d.uSpn fun s => { s with
    line := some { k, phase := ph, p0 := pos, left := Tpl.ofPhase (templateOf k d) ph }, next := k + 1, lastLine := k
    tail := (s.tail ++ s.line.toList).filter fun l => !l.left.isEmpty
    started := some (max k (s.started.getD 0)), dHigh := dist d, revArmed := true, abortedIdx := none, lsIdx := none, lsOut := ls }
  armLinks 0 0 k t d

/-- Lines up to k that Spindle does not start are missing (R35); of a restart, those from the first line that is kept (R274). -/
def skipLines (k : Nat) (d : Dev) : Dev :=
  let from_ := if d.pace.state = .runUp ∨ d.pace.state = .priming then max d.spn.next (keepFrom d) else d.spn.next
  if d.spn.next < k then raise 78 (if from_ < k then linesMissing from_ d else d) else d

/-- The instant at which line k starts, with the row's instant t: an LS_FAST start is the row's (R24, R26). -/
def lineInstant (k t : Nat) (d : Dev) : Nat :=
  if cfgB Obj.SPN_CTL.LS_FAST d && !timeMode d then t else (sourceDue 0 (posOf (lineAt k d) d) d).getD t

/-- LINE_START: P̂ reaches the start of the next line (R18, R26). The line starts at the instant on the grid that v̂ predicts for it, as an event of
offset 0 (R24), and where none is predicted at t. -/
def ownLineStart (t : Nat) (d : Dev) : Dev :=
  let d := d.at_ t
  if startsLines d then
    match reachedLine (distAt (t + 1) d) d with
    | none => d
    | some k =>
      let u := lineInstant k t d
      if t < u then d
      else
      let pos := if cfgB Obj.SPN_CTL.LS_FAST d && !timeMode d then posOf (lineAt k d) d else phatAt u d
      sendLineBlock k pos u false (startLine k pos u (skipLines k d))
  else d

/-- A follower starts the first scheduled line whose T_k has come, with the index, position and time that the master sent (R450). -/
def followedLineStart (t : Nat) (d : Dev) : Dev :=
  let d := d.at_ t
  match d.krm.sched with
  | [] => d
  | b :: rest =>
    if b.tk ≤ groupStep (t + 1) d then
      let d := d.uKrm fun k => { k with sched := rest }
      let late : Bool := match d.pwr.linesLast with | some l => decide (l < b.k) | none => false
      if startsLines d && decide (d.spn.next ≤ b.k) && !late then
        let d := skipLines b.k (d.uSpn fun s => { s with p := b.pos, phat := b.pos, edges := [(b.pos / 256, t)] })
        updLine b.k (fun r => { r with ts := b.tk / 16 }) (startLine b.k b.pos t d)
      else d
    else d

/-- LINE_START. -/
def lineStart (t : Nat) (d : Dev) : Dev := if follower d then followedLineStart t d else ownLineStart t d

/-- On entry to SCAN from READY (R18): the first line is the smallest whose start lies strictly ahead of d. REVERSED clears and the highest d
restarts (DESIGN CHOICE, assumption log 106). -/
def spnStart (d : Dev) : Dev :=
  let x := if (srcAxis d).isSome then distAt d.now d else dist d
  let next : Nat := if x < 0 then 0 else (x / (pitch d : Int)).toNat + 1
  let d := freshVel d
  let d : Dev := { d with lines := d.lines.filter fun l => l.passed && d.hdl.packQ.any fun o => o.k == l.k }
  d.uSpn fun s => { s with next, phat := s.p, dHigh := x, line := none, tail := [], reversed := false, revArmed := true, abortedIdx := none,
                                               lsIdx := none, started := none, tplHist := [] }

/-- On entry to READY: every staged object goes live (R30), and from CALIBRATE POS_VALID is set where R32 says so. -/
def spnReady (fromCal : Bool) (d : Dev) : Dev :=
  let d := (allLive d).uSpn fun s => { s with tplHist := [], line := none, tail := [] }
  let known : Bool := match srcPort d with
    | some n => cfg (Obj.SPN_PORT.TYPE n) d == 1 && cfg (Obj.SPN_PORT.Z_MODE n) d != 2
    | none => (srcAxis d).isSome
  let d := if timeMode d then d.uSpn fun s => { s with srcFault := false } else d
  if fromCal && known then positionBack d else d

/-! The position-strobe port (R27). -/

/-- The status byte of R27. -/
def strobeStatus (d : Dev) : Nat :=
  b2n (posValid d) + 2 * b2n (d.spn.falling && !timeMode d) + 4 * b2n d.spn.overSticky + 8 * b2n d.spn.srcFault + 16 * scanSrc d

/-- STB_L_FALL: Taproot input 10 (R429); the position is latched, and byte 0 follows. -/
def stbFall (t : Nat) (d : Dev) : Dev :=
  let d := taprootInput 10 true d
  if d.inMode [.reset, .sleep] || !d.runs 7 then d
  else
    let d := d.at_ t
    if d.spn.stbLow then d
    else
      let p := phatAt t d
      let pos := (List.range 8).map fun i => (ofS 64 p >>> (8 * i)) % 256
      let bs := pos ++ [strobeStatus d]
      let bytes := bs ++ [crc8 bs]
      raise 76 (d.uSpn fun s => { s with
        stbPos := p, stbCount := wrap32 (s.stbCount + 1), stbLow := true, stbBytes := bytes, stbIdx := 0, stbOut := some (at' bytes 0 0) })

/-- STB_CLK_EDGE: the next byte is driven; 0x00 after byte 9. -/
def stbClk (d : Dev) : Dev :=
  if d.spn.stbLow then d.uSpn fun s => { s with stbIdx := min 10 (s.stbIdx + 1), stbOut := some (at' s.stbBytes (min 10 (s.stbIdx + 1)) 0) } else d

/-- STB_L_RISE: the cycle ends. -/
def stbRise (d : Dev) : Dev :=
  let d := taprootInput 10 false d
  if d.spn.stbLow then d.uSpn fun s => { s with stbLow := false, stbOut := none } else d

/-! Objects (R26, R29, R38 to R41). -/

/-- What rejects a write of SPN_CTL of its own (R26, R29, R39). -/
def spnCtlCheck (ws : List Word) (d : Dev) : Option (Nat × Nat) :=
  let src := fieldOf ws Obj.SPN_CTL.SCAN_SRC
  let ovs := fieldOf ws Obj.SPN_CTL.OVERSPEED
  let fast := fieldOf ws Obj.SPN_CTL.LS_FAST != 0
  let inc : Bool := decide (src < 4) && cfg (Obj.SPN_PORT.TYPE src) d == 1
  firstFail [
    (fast && !(inc && fieldOf ws Obj.SPN_CTL.LINE_PITCH % 256 == 0 && fieldOf ws Obj.SPN_CTL.ORIGIN % 256 == 0), St.BAD_FIELD, 0),
    (fieldOf ws Obj.SPN_CTL.FRAME_LINES % max 1 (fieldOf ws Obj.SPN_CTL.PHASES) != 0, St.BAD_FIELD, 0),
    ((List.range 4).any fun n => cfg (Obj.SPN_PORT.TYPE n) d == 1 && decide (1000000000 ≤ cfg (Obj.SPN_PORT.FILTER n) d * ovs), St.BAD_FIELD, 0)]

/-- SPN_CTL takes new contents: P is that of the selected source, v̂ and the reversal are judged afresh: REVERSED clears and the highest d restarts (DESIGN CHOICE, assumption
log 106); a newly selected source has no fault, and in READY POS_VALID is set (R32). The commanded direction of a Shuttle axis counts as upward until its first motion (assumption log 87). -/
def spnCtlApply (ws : List Word) (d : Dev) : Dev :=
  let was := scanSrc d
  let d := setObj Obj.SPN_CTL.id ws d
  let d := if scanSrc d = was then d else d.uSpn fun s => { s with srcFault := false }
  let d := match srcPort d, srcAxis d with
    | some n, _ => let p := 256 * cntOf n d + zOfsOf n d; d.uSpn fun s => { s with p, phat := p, blLeft := 0, blOfs := 0 }
    | none, some n => let p := 256 * (axisAt n d).p; d.uSpn fun s => { s with p, phat := p, blLeft := 0, blOfs := 0, cmdLast := p, cmdUp := true }
    | none, none => d
  let x := dist d
  let d := d.uSpn fun s => { s with edges := [], vel := none, overNow := false, falling := false, dHigh := x, reversed := false, revArmed := true }
  if d.pwr.mode = .ready then positionBack d else d

/-- What rejects a write of SPN_PORT n of its own (R39, Table 2.6). -/
def spnPortCheck (n : Nat) (ws : List Word) (d : Dev) : Option (Nat × Nat) :=
  firstFail [
    (fieldOf ws (Obj.SPN_PORT.Z_MODE n) != 0 && fieldOf ws (Obj.SPN_PORT.Z_PERIOD n) == 0, St.BAD_FIELD, 0),
    (fieldOf ws (Obj.SPN_PORT.TYPE n) == 1 && decide (1000000000 ≤ fieldOf ws (Obj.SPN_PORT.FILTER n) * cfg Obj.SPN_CTL.OVERSPEED d), St.BAD_FIELD, 0)]

/-- SPN_PORT n takes new contents: Z_MODE 2 homes anew (R33). A write that leaves TYPE keeps the last SSI value, and the next frame is unwrapped
against it (DESIGN CHOICE, assumption log 109). -/
def spnPortApply (n : Nat) (ws : List Word) (d : Dev) : Dev :=
  let was := cfg (Obj.SPN_PORT.TYPE n) d
  let d := (setObj (Obj.SPN_PORT.id n) ws d).uSpn fun s => { s with zHomed := put s.zHomed n false, zLast := put s.zLast n none, zMissed := put s.zMissed n false }
  if cfg (Obj.SPN_PORT.TYPE n) d = was then d
  else d.uSpn fun s => { s with ssiRaw := put s.ssiRaw n none, ssiGood := put s.ssiGood n 0, ssiSame := put s.ssiSame n 0 }

/-- The ARG of a template entry lies in the range of its target (Table 2.2, R45, R67, R74). -/
def argOk (target arg : Nat) : Bool :=
  match target with
  | 1 => decide (arg < 64)
  | 2 => decide (arg < 256)
  | 3 => decide (arg < 64)
  | 4 | 5 => decide (arg < 256)
  | 6 => decide (2400 ≤ arg)
  | 7 => arg == 0
  | 8 | 9 => arg % 16 != 0 && decide (1 ≤ arg / 16)
  | _ => false

/-- Entry i of a template offends on its own or against the entry before it (R23). -/
def entryBad (ws : List Word) (i : Nat) (d : Dev) : Bool :=
  let o := Tpl.offset ws i
  (decide (0 < i) && decide (o < Tpl.offset ws (i - 1))) || decide (pitch d ≤ o) || !argOk (Tpl.target ws i) (Tpl.arg ws i) ||
  getBits ws (116 + 64 * i) 3 != 0 || Tpl.mask ws i == 0 || decide (2 ^ phasesOf d ≤ Tpl.mask ws i)

/-- The event instants of n consecutive lines from line 0 on: position and entry. -/
def templateInstants (ws : List Word) (n : Nat) (d : Dev) : List (Nat × Nat) :=
  (List.range n).flatMap fun k => (Tpl.ofPhase ws (k % phasesOf d)).map fun i => (k * pitch d + Tpl.offset ws i, i)

/-- The entry that places the 97th instant in the earliest 64 ns window that holds more than 96 at OVERSPEED (R23). -/
def windowOffender (ws : List Word) (d : Dev) : Option Nat :=
  let per := (List.range (phasesOf d)).foldl (fun s p => s + (Tpl.ofPhase ws p).length) 0
  if per = 0 then none
  else
    let l := templateInstants ws (phasesOf d * (2 + 97 / per)) d
    let rate := if timeMode d then 1000000000 else cfg Obj.SPN_CTL.OVERSPEED d
    ((l.zip (l.drop 96)).find? fun x => decide ((x.2.1 - x.1.1) * 1000000000 < 64 * 256 * rate)).map fun x => x.2.2

/-- What rejects a write of SPN_TEMPLATE of its own (R23): DETAIL is the first offending entry. -/
def templateCheck (ws : List Word) (d : Dev) : Option (Nat × Nat) :=
  let n := Tpl.events ws
  match (List.range n).find? fun i => entryBad ws i d with
  | some i => some (St.BAD_FIELD, i)
  | none =>
    let (num, den) := maxLineRate d
    if 3 * 1000000000 * den < 2 * n * num then some (St.BAD_FIELD, 0xFFFFFFFF)
    else (windowOffender ws d).map fun i => (St.BAD_FIELD, i)

/-- The words of SPN_STATUS (Table 2.7). With FRAME_LINES = 0 FRAME_INDEX reads 0 (DESIGN CHOICE, assumption log 107). -/
def spnStatusWords (d : Dev) : List Word :=
  let s := d.spn
  let f := frameLines d
  packF 11 [(Obj.SPN_STATUS.POS, ofS 64 (phatAt d.now d)), (Obj.SPN_STATUS.VEL, ofS 32 (velPerMs d)), (Obj.SPN_STATUS.LINE_INDEX, s.lastLine),
    (Obj.SPN_STATUS.FRAME_INDEX, if f = 0 then 0 else s.lastLine / f), (Obj.SPN_STATUS.ENC_FAULT, s.encFault), (Obj.SPN_STATUS.Z_FAULT, s.zFault),
    fb Obj.SPN_STATUS.OVERSPEED s.overSticky, fb Obj.SPN_STATUS.REVERSED s.reversed, fb Obj.SPN_STATUS.POS_VALID (posValid d),
    fb Obj.SPN_STATUS.TPL_STAGED (isStaged Obj.SPN_TEMPLATE.id d), fb Obj.SPN_STATUS.TPL_BANK s.tplBank, (Obj.SPN_STATUS.TPL_EPOCH, s.tplEpoch),
    (Obj.SPN_STATUS.ABORTS, s.aborts), (Obj.SPN_STATUS.STB_POS, ofS 64 s.stbPos), (Obj.SPN_STATUS.STB_COUNT, s.stbCount)]
/-- The sticky bits that a read clears; a condition that still holds sets its bit again (R2). -/
def spnStatusClear (d : Dev) : Dev := d.uSpn fun s => { s with encFault := 0, zFault := 0, overSticky := s.overNow }

/-- A reset of the SPN domain (R479): the counters restart, POS_VALID clears, the scan source faults; the template stays. -/
def spnReset (d : Dev) : Dev :=
  let d := scanFault 0 d
  let keepP := timeMode d || (srcAxis d).isSome
  let d := d.uSpn fun s => { s with
    cnt := [0, 0, 0, 0], zOfs := [0, 0, 0, 0], ssiRaw := [none, none, none, none], ssiGood := [0, 0, 0, 0], ssiSame := [0, 0, 0, 0]
    zHomed := [false, false, false, false], zLast := [none, none, none, none], zMissed := [false, false, false, false]
    p := if keepP then s.p else 0, phat := if keepP then s.phat else 0, edges := [], vel := none, posValid := false
    encFault := 0, zFault := 0, overSticky := false, overNow := false, falling := false, reversed := false, revArmed := true, aborts := 0, tplEpoch := 0, lastLine := 0
    stbCount := 0, stbPos := 0, stbLow := false, stbOut := none, trig := [none, none, none, none], fcPulse := [none, none, none, none], lsOut := none }
  let d := match srcAxis d with
    | some n => d.uSpn fun s => { s with p := 256 * (axisAt n d).p, phat := 256 * (axisAt n d).p, cmdLast := 256 * (axisAt n d).p, blLeft := 0, blOfs := 0 }
    | none => d
  let x := dist d
  d.uSpn fun s => { s with dHigh := x }

end Sys2Proof.Machine
end

