-- ==== Sys2Proof/Machine/Karum.lean ====
section
/-! DEFINITION. The Karum fabric (chapter 19): links, blocks, discovery, groups, time, LINE and PACE blocks, and the fabric's objects. -/

namespace Sys2Proof.Machine

/-! Links (R434 to R436, R439). -/

/-- A link goes down: what waits on it is lost, and a packet in the middle of its inbound queue is aborted (R240, R458). -/
def linkDown (p : Nat) (d : Dev) : Dev :=
  if portUp p d then
    let d := updPort p (fun x => { x with up := false, txSeq := 0, rxExpected := 0, replayBuf := [], replayCount := 0, ackDue := false, nakDue := none
                                          txq := [], granted := [], delays := [] }) d
    let d := if (routePort (cfg Obj.KRM_CTL.COLLECTOR d) d).isSome then d else d.uKrm fun k => { k with credit := [] }
    let d := each ((List.range 32).filter fun q => qRole q d == 2 && cfg (Obj.SKN_QUEUE.PORT q) d == p) abortPacket d
    raise (436 + p) d
  else d

/-- Working lanes of a port. -/
def workingLanes (x : KPort) : Nat := (maskIx x.lanes 5).length

/-- The Skein queues that receive blocks of port p (R232). -/
def inboundQueues (p : Nat) (d : Dev) : List Nat := (List.range 32).filter fun q => qRole q d == 2 && cfg (Obj.SKN_QUEUE.PORT q) d == p

/-- Class 2 credit is granted to the sender of each inbound queue for the room that no grant covers yet (R440), by a node that has an address
(R441), over the route to that sender (R443); the spec gives no register that names the sender (assumption log 3). -/
def grantCredits (p : Nat) (d : Dev) : Dev :=
  each (if nodeAddr d = 0 then [] else inboundQueues p d) (fun q d =>
    let g := Sparse.get 0 (kport p d).granted q
    let free := qCap q d - qDepth q d
    let dest := (Config.creditNode q).toNat
    if g < free ∧ (routePort dest d).isSome = true then
      sendTo { type := 4, cls := 1, dest, src := nodeAddr d, queue := q, units := 1, payload := [BitVec.ofNat 32 (free - g)] }
        (updPort p (fun x => { x with granted := Sparse.set 0 x.granted q free }) d)
    else d) d

/-- The collector asks every member to deliver again from the line after its last one (R458). The spec gives the request no block type; it goes as a
CONFIRM block whose second unit word is 1. -/
def askAgain (d : Dev) : Dev :=
  if collecting d then
    each d.krm.members (fun m d => sendTo { type := 9, cls := 1, dest := m.addr, src := nodeAddr d, units := 1, payload := [0, 0, 1] } d) d
  else d

/-- The spare lane takes over from lane l (R435). -/
def useSpare (p l : Nat) (d : Dev) : Dev := raise (440 + p) (updPort p (fun x => { x with spareUsed := true, onSpare := some l }) d)

/-- The link runs on the three lanes that remain (R436). -/
def useThree (p : Nat) (d : Dev) : Dev :=
  faultRaise 11 (444 + p) none St.SPARES_EXHAUSTED (raise (444 + p) (updPort p (fun x => { x with width3 := true, spareUsed := x.spareUsed || x.lanes.testBit 4 }) d))

/-- KRM_LINK_UP: training of port p completes (R458), over the spare or over three lanes where lanes have failed (R435, R436). -/
def krmLinkUp (p : Nat) (d : Dev) : Dev :=
  if portEn p d && d.runs 15 && !portUp p d && decide (3 ≤ workingLanes (kport p d)) then
    let d := updPort p (fun x => { x with up := true, signal := true }) d
    let x := kport p d
    let d :=
      if workingLanes x = 3 then (if x.width3 then d else useThree p d)
      else match (List.range 4).find? fun l => !x.lanes.testBit l with
        | some l => if x.spareUsed then d else useSpare p l d
        | none => d
    askAgain (grantCredits p (raise (432 + p) d))
  else d

/-- KRM_SIGNAL_DETECT: signal appears on the receivers of a port whose link is down (R434). -/
def krmSignalDetect (p : Nat) (d : Dev) : Dev :=
  if portEn p d && !portUp p d then tapPulse (17 + p) (updPort p (fun x => { x with signal := true }) d) else d

/-- KRM_LANE_FAIL: lane l of port p fails (R435, R436); lane 4 is the spare. LANE_ERR bounds the receiver's error count, which is judged outside:
the command says that the lane has failed (assumption log 65). -/
def krmLaneFail (p l : Nat) (d : Dev) : Dev :=
  let x := kport p d
  if x.lanes.testBit l then
    let d := updPort p (fun x => { x with lanes := setBit x.lanes l false, laneFault := setBit x.laneFault l true }) d
    if !x.up then d
    else
      let n := workingLanes (kport p d)
      if n < 3 then linkDown p d
      else if n = 3 then
        if x.width3 then d else useThree p d
      else if l = 4 then d
      else useSpare p l d
  else d

/-- Blocks are replayed from the oldest one that is not acknowledged (R439); the eighth replay of a block takes the link down. -/
def replay (p : Nat) (d : Dev) : Dev :=
  let d := raise 448 (updPort p (fun x => { x with replays := sat32 x.replays, replayCount := x.replayCount + 1 }) d)
  if 8 ≤ (kport p d).replayCount then linkDown p d else d

/-- KRM_REPLAY_TIMEOUT: 4 µs have passed since a send without an acknowledgement (R439). -/
def krmReplayTimeout (p : Nat) (d : Dev) : Dev := if portUp p d && !(kport p d).replayBuf.isEmpty then replay p d else d

/-- KRM_ACK_TIMER: the receiver acknowledges what it has received, and grants credit (R439, R440); a node without an address sends neither (R441). -/
def krmAckTimer (p : Nat) (d : Dev) : Dev :=
  if portUp p d then
    let x := kport p d
    let d := if x.ackDue && nodeAddr d != 0 then
        sendOn p { type := 2, cls := 1, dest := x.nbAddr, src := nodeAddr d, units := 1, payload := [BitVec.ofNat 32 ((x.rxExpected + 4095) % 4096)] }
          (updPort p (fun x => { x with ackDue := false }) d)
      else d
    grantCredits p d
  else d

/-- Blocks up to SEQ a are acknowledged (R439). -/
def ackUpTo (p a : Nat) (d : Dev) : Dev :=
  match splitAt? (fun b : KBlock => b.seq == a) (kport p d).replayBuf with
  | some (_, _, r) => sendWaiting p (updPort p (fun x => { x with replayBuf := r, replayCount := 0 }) d)
  | none => d

/-! Receiving a block (R437, R439, R441, R443, R444). -/

/-- The received block h, of the type, class and DATA fields of b. -/
def arrived (h : KHdr) (b : KBlock) : KBlock :=
  { b with type := (h.badType.map (·.val)).getD b.type, seq := h.seq.val, hops := h.hops.val, dest := h.dest.val, src := h.src.val
           units := h.pay.length / 8, payload := h.pay, ack := h.ack.map (·.val), crc := h.crc }

/-- The CRC-32C of a received block is right (R283, R437). -/
def crcRight (h : KHdr) (b : KBlock) : Bool := h.crc == crcWords (arrived h b).words

/-- A block arrives: its CRC and sequence are checked, its acknowledgement taken, and it is accepted here, forwarded or dropped. A block that is
discarded draws a NAK, those that follow it do not, and one replayed that fails again does (R439). b: its type, class and DATA fields; link: a block
of the link itself, which goes no further; disc: a DISC block, the only one that a node without an address accepts, and the only one it sends (R441). -/
def receive (h : KHdr) (link disc : Bool) (b : KBlock) (accept : Dev → Dev) (d : Dev) : Dev :=
  let p := h.port.val
  if !(portUp p d && d.runs 15) then d
  else if !crcRight h b || h.seq.val != (kport p d).rxExpected then
    let x := kport p d
    let d := if crcRight h b then d else updPort p (fun x => { x with crcErr := sat32 x.crcErr }) d
    if nodeAddr d = 0 ∨ (x.nakDue = some x.rxExpected ∧ h.seq.val ≠ x.rxExpected) then d
    else
      sendOn p { type := 3, cls := 1, dest := x.nbAddr, src := nodeAddr d, units := 1, payload := [BitVec.ofNat 32 x.rxExpected] }
        (updPort p (fun x => { x with nakDue := some x.rxExpected }) d)
  else
    let b := arrived h b
    let d := updPort p (fun x => { x with rxExpected := (x.rxExpected + 1) % 4096, ackDue := true, nakDue := none }) d
    let d := match h.ack with | some a => if nodeAddr d = 0 ∧ disc = false then d else ackUpTo p a.val d | none => d
    if h.badType.isSome then d.uKrm fun k => { k with badBlocks := sat16 k.badBlocks }
    else if nodeAddr d = 0 then (if disc then accept d else d)
    else if link then accept d
    else if h.dest.val = nodeAddr d then accept d
    else if h.dest.val = 0xFFF then
      let d := accept d
      if h.hops.val = 0 then d else sendMask (setBit (cfg (Obj.KRM_CTL.BCAST_FWD p) d) p false) { b with hops := h.hops.val - 1, ack := none } d
    else if h.hops.val = 0 then d.uKrm fun k => { k with noRoute := sat16 k.noRoute }
    else sendTo { b with hops := h.hops.val - 1, ack := none } d

/-- KRM_ACK_BLOCK: an acknowledgement up to SEQ a. -/
def krmAckBlock (h : KHdr) (a : Nat) (d : Dev) : Dev := receive h true false { type := 2, cls := 1, dest := 0, src := 0 } (ackUpTo h.port.val a) d

/-- KRM_NAK_BLOCK: the neighbour expects SEQ e: the blocks before it have arrived, and those from it on are replayed. -/
def krmNakBlock (h : KHdr) (e : Nat) (d : Dev) : Dev :=
  receive h true false { type := 3, cls := 1, dest := 0, src := 0 } (fun d =>
    let p := h.port.val
    let d := ackUpTo p ((e + 4095) % 4096) d
    if (kport p d).replayBuf.any fun b => b.seq == e then replay p d else d) d

/-- KRM_CREDIT_BLOCK: n words of class 2 credit for queue q (R440). -/
def krmCreditBlock (h : KHdr) (q n : Nat) (d : Dev) : Dev :=
  receive h false false { type := 4, cls := 1, dest := 0, src := 0, queue := q } (fun d =>
    d.uKrm fun x => { x with credit := Sparse.set 0 x.credit q (Sparse.get 0 x.credit q + n) }) d

/-- KRM_DATA_BLOCK: units of a Skein packet for queue q (R437, R440); of an abandoned packet the last word has END and ABORT (R240). -/
def krmDataBlock (h : KHdr) (q : Nat) (end_ abort : Bool) (d : Dev) : Dev :=
  let us := groups8 h.pay
  receive h false false { type := 1, cls := 2, dest := 0, src := 0, queue := q, end_, abort } (fun d =>
    let p := h.port.val
    if (inboundQueues p d).contains q then
      let d := updPort p (fun x => { x with granted := Sparse.set 0 x.granted q (Sparse.get 0 x.granted q - us.length) }) d
      let d := pushPacket q (mapIx (fun i w => qword w (end_ && !abort && i + 1 == us.length)) us) d
      if abort then abortPacket q d else d
    else d) d

/-! Discovery (R442). -/

/-- The DISC block of this device; that of a node without an address carries the acknowledgement that is due, since the node sends no ACK block
(R439, R441). -/
def discBlock (p : Nat) (reply : Bool) (d : Dev) : KBlock :=
  let x := kport p d
  { type := 8, cls := 1, dest := 0, src := nodeAddr d, units := 1
    ack := if nodeAddr d = 0 ∧ x.ackDue = true then some ((x.rxExpected + 4095) % 4096) else none
    payload := [BitVec.ofNat 32 (nodeAddr d + 65536 * p + 2 ^ 20 * d.krm.groupId + 2 ^ 28 * b2n reply)] ++ (objWords Obj.KRM_NODE.id d).drop 1 }

/-- A DISC block is sent. -/
def sendDisc (p : Nat) (reply : Bool) (d : Dev) : Dev :=
  let b := discBlock p reply d
  sendOn p b (if b.ack.isSome then updPort p (fun x => { x with ackDue := false }) d else d)

/-- A neighbour's identity. -/
def setNeighbour (p uid addr port : Nat) (d : Dev) : Dev := updPort p (fun x => { x with nbUid := uid, nbAddr := addr, nbPort := port }) d

/-- KRM_DISC_BLOCK: the neighbour's identity; one that is no reply is answered. -/
def krmDiscBlock (h : KHdr) (uid addr port : Nat) (reply : Bool) (d : Dev) : Dev :=
  receive h true true { type := 8, cls := 1, dest := 0, src := 0 } (fun d =>
    let d := setNeighbour h.port.val uid addr port d
    if reply then d else sendDisc h.port.val true d) d

/-- FAB_DISCOVER (R442): up, the named ports whose link trains now; nb, what the neighbours answer. -/
def fabDiscover (c : MnrCmd) (up : Nat) (nb : List (Fin 4 × Nat × Nat × Fin 4)) (d : Dev) : Dev :=
  command Op.FAB_DISCOVER c (fun t d =>
    checked t [(t.arg = 0 || decide (16 ≤ t.arg), St.BAD_FIELD, 0)] (fun d =>
      let d := each (maskIx t.arg 4) (fun p d =>
        let d := if up.testBit p then krmLinkUp p d else d
        if portUp p d then
          let d := sendDisc p false d
          match nb.find? fun x => x.1.val == p with
          | some x => setNeighbour p x.2.1 x.2.2.1 x.2.2.2.val d
          | none => d
        else d) d
      let mask := packBits ((List.range 4).map fun p => portUp p d)
      finish t.who St.OK mask [] (raise 456 d)) d) d

/-- CAL_DELAY (R448): 1,024 exchanges on every port that is up; delays, their results in ps. -/
def calDelay (c : MnrCmd) (delays : List Nat) (d : Dev) : Dev :=
  command Op.CAL_DELAY c (fun t d =>
    checked t [(t.arg != 0, St.BAD_FIELD, 0)] (fun d =>
      finish t.who St.OK 0 [] (each (List.range 4) (fun p d => if portUp p d then updPort p (fun x => { x with delayPs := at' delays p 0 }) d else d) d)) d) d

/-! Groups (R445, R446, R459). -/

/-- A GROUP block of this device to a node; the spec gives it no layout. -/
def groupBlock (dest code a b : Nat) (d : Dev) : KBlock :=
  { type := 10, cls := 1, dest, src := nodeAddr d, units := 1, payload := [BitVec.ofNat 32 code, BitVec.ofNat 32 a, BitVec.ofNat 32 b] ++ (objWords Obj.KRM_NODE.id d).drop 1 }

/-- The output format with which this member stitches (R455). -/
def stitchFmt (d : Dev) : Option Nat := if d.krm.member && cfg Obj.KRM_CTL.STITCH d != 0 then some (cfg Obj.HDL_CTL.FORMAT d) else none

/-- The master's scan parameters (R451). -/
def ownMaster (d : Dev) : MasterCfg :=
  { pitch := pitch d, phases := phasesOf d, frameLines := cfg Obj.SPN_CTL.FRAME_LINES d, origin := cfg Obj.SPN_CTL.ORIGIN d }

/-- GROUP_JOIN (R445). -/
def groupJoin (c : MnrCmd) (d : Dev) : Dev :=
  command Op.GROUP_JOIN c (fun t d =>
    let role := bit t.arg 8
    let tile := bits t.arg 14 9
    let gid := t.arg % 256
    checked t [(decide (32768 ≤ t.arg), St.BAD_FIELD, 0), (nodeAddr d = 0, St.BAD_FIELD, 0), (d.krm.member || d.krm.joining.isSome, St.BUSY, 0)] (fun d =>
      if role then
        finish t.who St.OK 0 [] (d.uKrm fun k => { k with member := true, role := true, groupId := gid, tile, master := nodeAddr d, members := [], timeLock := true
                                                          offsetPs := 0, pathDelay := 0 })
      else broadcast (groupBlock 0xFFF 1 gid tile d) (d.uKrm fun k => { k with joining := some (t.who, gid, tile) })) d) d

/-- The follower's join completes. -/
def joinEnds (status detail : Nat) (d : Dev) : Dev :=
  match d.krm.joining with
  | some (w, _, _) =>
    let d := if status = St.BAD_FIELD then raise 455 d else d
    finish w status detail [] (d.uKrm fun k => { k with joining := none })
  | none => d

/-- GROUP_JOIN_TIMEOUT: no master has answered within 50 ms. -/
def groupJoinTimeout (d : Dev) : Dev := if d.krm.joining.isSome && !d.krm.member then joinEnds St.TIMEOUT 0 d else d

/-- Tiles and members that follow the list: interrupts 451 and 452 (R446). A collector that finds its senders again asks them to deliver (R458). -/
def setMembers (l : List Member) (d : Dev) : Dev :=
  let was := d.krm.members.map (·.addr)
  let now_ := l.map (·.addr)
  let d := d.uKrm fun k => { k with members := l, paceVd := k.paceVd.filter fun x => now_.contains x.1 }
  let d := if now_.any fun a => !was.contains a then askAgain (raise 451 d) else d
  if was.any fun a => !now_.contains a then raise 452 d else d

/-- TIME_LOCK clears (R448); in SCAN and HOLD that is a fault of class 12. -/
def timeUnlock (d : Dev) : Dev :=
  if d.krm.timeLock && !d.krm.role then
    let d := raise 450 (d.uKrm fun k => { k with timeLock := false, lockCount := 0 })
    if d.inMode [.scan, .hold] then faultRaise 12 450 none St.HW_FAULT d else d
  else d

/-- The device's own membership ends (R459): Spindle starts no further line, and a line in progress completes on predicted time. -/
def leaveGroup (d : Dev) : Dev :=
  if d.krm.member then
    let wasMaster := d.krm.master
    let d := each (d.krm.tileIn.map Prod.fst) dropTile d
    let d := if d.krm.role || wasMaster = 0 then d else sendTo (groupBlock wasMaster 4 0 0 d) d
    let d := d.uKrm fun k => { k with member := false, role := false, groupId := 0, tile := 0, master := 0, members := [], timeLock := false, lockCount := 0
                                      offsetPs := 0, pathDelay := 0, mcfg := none, sched := [], joinReqs := [], paceVd := [] }
    let d := faultClearSrc 0 450 (faultClear 12 d)
    if d.inMode [.scan, .hold] then
      d.uSpn fun s => { s with posValid := false, srcFault := true, line := s.line.map fun l => { l with predicted := some (s.p, (s.edges.head?.map Prod.snd).getD 0, s.vel) } }
    else d.uSpn fun s => { s with srcFault := false }
  else d

/-- GROUP_LEAVE (R459). -/
def groupLeave (c : MnrCmd) (d : Dev) : Dev :=
  command Op.GROUP_LEAVE c (fun t d => checked t [(t.arg != 0, St.BAD_FIELD, 0)] (fun d => finish t.who St.OK 0 [] (leaveGroup d)) d) d

/-- The master decides a join request (R445): its answer, and the new member. -/
def decideJoin (r : Nat × Nat × Nat) (d : Dev) : Dev :=
  let (addr, tile, uid) := r
  let clash := if addr = nodeAddr d ∨ tile = d.krm.tile then some (nodeAddr d) else (d.krm.members.find? fun m => m.addr == addr || m.tile == tile).map (·.addr)
  match clash with
  | some a => sendTo (groupBlock addr 2 St.BAD_FIELD a d) d
  | none =>
    if 63 ≤ d.krm.members.length then sendTo (groupBlock addr 2 St.BUSY 0 d) d
    else sendTo (groupBlock addr 2 St.OK 0 d) (setMembers (d.krm.members ++ [{ addr, tile, uid }]) d)

/-- A list of join requests by rising UID (R460). -/
def insertUid (r : Nat × Nat × Nat) : List (Nat × Nat × Nat) → List (Nat × Nat × Nat)
  | [] => [r]
  | x :: xs => if r.2.2 < x.2.2 then r :: x :: xs else x :: insertUid r xs

/-- KRM_GROUP_BLOCK: a GROUP block arrives. -/
def krmGroupBlock (h : KHdr) (m : GroupMsg) (d : Dev) : Dev :=
  let src := h.src.val
  let b : KBlock := { type := 10, cls := 1, dest := 0, src := 0 }
  receive h false false b (fun d =>
    match m with
    | .heartbeat lock fmt => if d.krm.role then d.uKrm fun k => { k with members := k.members.map fun x => if x.addr = src then { x with lock, fmt } else x } else d
    | .members l mc =>
      if d.krm.member && !d.krm.role && (d.krm.master == src || d.krm.master == 0) then
        if l.any fun x => x.addr == nodeAddr d then
          setMembers (l.filter fun x => x.addr != nodeAddr d) (d.uKrm fun k => { k with mcfg := some mc, master := src })
        else leaveGroup d
      else d
    | .join uid tile group => if d.krm.role && d.krm.groupId == group then d.uKrm fun k => { k with joinReqs := insertUid (src, tile, uid) k.joinReqs } else d
    | .answer status detail =>
      match d.krm.joining with
      | some (_, gid, tile) =>
        if d.krm.member then d
        else if status = St.OK then d.uKrm fun k => { k with member := true, role := false, groupId := gid, tile, master := src, members := [], timeLock := false, lockCount := 0 }
        else if status = St.BAD_FIELD ∨ status = St.BUSY then joinEnds status detail d
        else d
      | none => d
    | .leave => if d.krm.role then setMembers (d.krm.members.filter fun x => x.addr != src) d else d) d

/-- KRM_HEARTBEAT: every 100 µs a member sends its heartbeat, and the master decides the joins and broadcasts the member list (R446). -/
def krmHeartbeat (d : Dev) : Dev :=
  if d.krm.member && d.runs 15 then
    if d.krm.role then
      let d := each d.krm.joinReqs decideJoin (d.uKrm fun k => { k with joinReqs := [] })
      broadcast (groupBlock 0xFFF 3 (d.krm.members.length + 1) 0 d) d
    else if d.krm.master = 0 then d
    else sendTo (groupBlock d.krm.master 0 (b2n d.krm.timeLock) (match stitchFmt d with | some f => f + 1 | none => 0) d) d
  else d

/-- KRM_MEMBER_SILENT: member a has been silent for 1 ms, and the master removes it (R446). -/
def krmMemberSilent (a : Nat) (d : Dev) : Dev :=
  if d.krm.role && d.krm.members.any (fun m => m.addr == a) then setMembers (d.krm.members.filter fun m => m.addr != a) d else d

/-- KRM_MASTER_LOST: no LINE block 1 µs after the last one expected: a fault of the scan source, and TIME_LOCK clears (R459). -/
def krmMasterLost (d : Dev) : Dev :=
  if follower d && d.krm.master != 0 then
    let d := timeUnlock d
    scanFault 450 (d.uKrm fun k => { k with master := 0, sched := [], mcfg := none })
  else d

/-! Time (R447, R448). -/

/-- KRM_TIME_BLOCK: a TIME block arrives; a request is answered, a reply carries the path sum of the neighbour. -/
def krmTimeBlock (h : KHdr) (reply : Bool) (path : Nat) (d : Dev) : Dev :=
  receive h true false { type := 5, cls := 0, dest := 0, src := 0 } (fun d =>
    let p := h.port.val
    if nodeAddr d = 0 then d
    else if reply then updPort p (fun x => { x with nbPath := path }) d
    else sendOn p { type := 5, cls := 0, dest := h.src.val, src := nodeAddr d, units := 1, payload := [BitVec.ofNat 32 d.krm.pathDelay] } d) d

/-- The mean of the last 16 link delays, in ps. -/
def meanDelay (l : List Int) : Int := if l.isEmpty then 0 else l.foldl (· + ·) 0 / (l.length : Int)

/-- KRM_TIME_EXCHANGE: an exchange with the neighbour towards the master ends with the four instants of R447, in 62.5 ps steps. -/
def krmTimeExchange (t1 t2 t3 t4 : Nat) (d : Dev) : Dev :=
  if follower d && d.krm.master != 0 && d.runs 15 then
    match routePort d.krm.master d with
    | none => d
    | some p =>
      -- δ and θ in quarter steps are twice these differences over 4; one step is 125 half ps
      let dl : Int := ((t4 : Int) - t1) - ((t3 : Int) - t2)
      let th : Int := ((t2 : Int) - t1) - ((t4 : Int) - t3)
      let delta := dl * 125 / 4
      let theta := th * 125 / 4
      let d := updPort p (fun x => let l := (delta :: x.delays).take 16; { x with delays := l, delayPs := (meanDelay l).toNat }) d
      let path := (kport p d).delayPs + (kport p d).nbPath
      let step := !d.krm.timeLock && d.inMode [.ready, .calibrate]
      let corr := let h := th * 125 / 2; if step then h else clampI (-2000) 2000 h
      let d := d.uKrm fun k => { k with offsetPs := theta, pathDelay := path, ofsHalf := k.ofsHalf - corr
                                        lockCount := if theta.natAbs < 100 then min 16 (k.lockCount + 1) else 0 }
      if d.krm.timeLock then (if 1000 < theta.natAbs then timeUnlock d else d)
      else if d.krm.lockCount = 16 then
        let d := raise 449 (d.uKrm fun k => { k with timeLock := true })
        joinEnds St.OK 0 (faultClear 12 d)
      else d
  else d

/-- KRM_TIME_LOCK_LOST: no exchange has succeeded for 100 µs (R448). -/
def krmTimeLockLost (d : Dev) : Dev := if follower d then timeUnlock d else d

/-! LINE, PACE and CONFIRM blocks (R450, R452, R454, R455, R458). -/

/-- The scheduled lines in rising order, a later block for a line replacing the earlier one. -/
def schedule (b : LineBlk) : List LineBlk → List LineBlk
  | [] => [b]
  | x :: xs => if b.k < x.k then b :: x :: xs else if b.k = x.k then b :: xs else x :: schedule b xs

/-- The follower's v̂ and position reference from a LINE block. -/
def followVhat (b : LineBlk) (d : Dev) : Dev :=
  d.uSpn fun s => { s with vel := some ((if timeMode d then 1 else dirSign d) * b.vhat, 268435456) }

/-- KRM_LINE_BLOCK: a follower receives a LINE block at instant t (R450, R452). -/
def krmLineBlock (h : KHdr) (b : LineBlk) (t : Nat) (d : Dev) : Dev :=
  receive h false false { type := 6, cls := 0, dest := 0, src := 0 } (fun d =>
    if follower d && d.krm.master == h.src.val then
      let d := followVhat b (d.at_ t)
      if b.abort then
        let d := d.uKrm fun k => { k with sched := k.sched.filter fun x => x.k != b.k }
        match d.spn.line with
        | some l => if l.k = b.k then (abortLine t d).uSpn fun s => { s with abortedIdx := none } else d
        | none => d
      else if b.k < d.spn.next || !startsLines d then d
      else if b.tk < groupStep t d + 1024 then
        if d.krm.sched.any fun x => x.k == b.k then d
        else
          let d := raise 78 (linesMissing (min d.spn.next b.k) d)
          raise 454 ((d.uKrm fun k => { k with lateLines := sat16 k.lateLines }).uSpn fun s => { s with next := b.k + 1 })
      else d.uKrm fun k => { k with sched := schedule b k.sched }
    else d) d

/-- The lowest value of R265 on this device, one up; 0 where it reports none (R454). -/
def paceReport (d : Dev) : Nat := if d.pwr.mode = .hold then ownRestart d + 1 else 0

/-- PACE_TICK in a group: a member whose AXIS names no axis sends its PACE block (R454). -/
def paceTickGroup (d : Dev) : Dev :=
  let d := paceTick d
  if d.krm.member && (paceAxis d).isNone && d.runs 15 then
    let xoff := (enabledStores d).any fun s => (storeAt s d).xoff
    broadcast { type := 7, cls := 0, dest := 0xFFF, src := nodeAddr d, units := 1
                payload := [BitVec.ofNat 32 (d.pace.vd / spd), BitVec.ofNat 32 (b2n xoff)] ++ wordsOfNat 2 (paceReport d) } d
  else d

/-- KRM_PACE_BLOCK: a member's v_d in counts/s, its XOFF state and its value of R265 reach the driving member (R454). -/
def krmPaceBlock (h : KHdr) (vd : Nat) (xoff : Bool) (restart : Option Nat) (d : Dev) : Dev :=
  receive h false false { type := 7, cls := 0, dest := 0, src := 0 } (fun d =>
    if d.krm.member && (paceAxis d).isSome then
      d.uKrm fun k => { k with paceVd := (k.paceVd.filter fun x => x.1 != h.src.val) ++ [(h.src.val, vd, xoff, (restart.map (· + 1)).getD 0)] }
    else d) d

/-- KRM_CONFIRM_BLOCK: the collector confirms line k, or asks for delivery again from TAIL_INDEX (R455, R458). -/
def krmConfirmBlock (h : KHdr) (k : Nat) (again : Bool) (d : Dev) : Dev :=
  receive h false false { type := 9, cls := 1, dest := 0, src := 0 } (fun d =>
    if sending d && h.src.val == cfg Obj.KRM_CTL.COLLECTOR d then
      each (outboundQueues d) (fun q d =>
        let s := cfg (Obj.SKN_QUEUE.LS q) d
        if again then
          let d := abortOutbound q d
          evalQueue q (updGroup q (fun g => { g with next := 0, asm := [] }) (updQueue q (fun x => { above := x.above }) d))
        else storeConfirm s k d) d
    else d) d

/-! Reset and objects (R459, R462 to R467). -/

/-- A reset of the KRM domain: the device leaves its group, and its links go down to train again (R459, R479). -/
def krmReset (d : Dev) : Dev :=
  let d := joinEnds St.ABORTED 0 (leaveGroup d)
  let d := each (List.range 4) linkDown d
  let d := d.uKrm fun k => { k with port := k.port.map (fun x => { lanes := x.lanes }), lateLines := 0, filledTiles := 0, lateTiles := 0, noRoute := 0
                                    badBlocks := 0, stitch := [], tileLen := [], joinReqs := [], credit := [], partial_ := [] }
  each (enabledStores d) evalStore d

/-- What rejects a write of KRM_CTL of its own (Table 19.6). -/
def krmCtlCheck (ws : List Word) (_ : Dev) : Option (Nat × Nat) :=
  let c := fieldOf ws Obj.KRM_CTL.COLLECTOR
  firstFail [((List.range 4).any fun p => (fieldOf ws (Obj.KRM_CTL.BCAST_FWD p)).testBit p, St.BAD_FIELD, 0),
    (c == 0xFFF || (fieldOf ws Obj.KRM_CTL.STITCH == 1 && c == 0), St.BAD_FIELD, 0)]

/-- KRM_CTL takes new contents; a port that is no longer enabled goes down. -/
def krmCtlApply (ws : List Word) (d : Dev) : Dev :=
  let d := setObj Obj.KRM_CTL.id ws d
  each (List.range 4) (fun p d => if portEn p d then d else linkDown p d) d

/-- What rejects a write of KRM_ROUTE of its own (R465). -/
def krmRouteCheck (ws : List Word) (d : Dev) : Option (Nat × Nat) :=
  let e (a : Nat) : Nat := getBits ws (16 * a) 16
  firstFail [(e 0 != 0 || e 0xFFF != 0 || e (nodeAddr d) != 0, St.BAD_FIELD, 0), ((List.range 4096).any fun a => decide (64 ≤ e a), St.BAD_FIELD, 0)]

/-- The words of KRM_GROUP (Table 19.8). -/
def krmGroupWords (d : Dev) : List Word :=
  let k := d.krm
  packF 8 [(Obj.KRM_GROUP.GROUP_ID, k.groupId), fb Obj.KRM_GROUP.ROLE k.role, fb Obj.KRM_GROUP.MEMBER k.member, fb Obj.KRM_GROUP.TIME_LOCK k.timeLock,
    (Obj.KRM_GROUP.TILE, k.tile), (Obj.KRM_GROUP.MASTER, k.master), (Obj.KRM_GROUP.MEMBERS, if k.member then k.members.length + 1 else 0),
    (Obj.KRM_GROUP.TILES_PRESENT, tilesPresent d), (Obj.KRM_GROUP.OFFSET_PS, ofS 32 k.offsetPs), (Obj.KRM_GROUP.PATH_DELAY, k.pathDelay),
    (Obj.KRM_GROUP.LATE_LINES, k.lateLines), (Obj.KRM_GROUP.FILLED_TILES, k.filledTiles), (Obj.KRM_GROUP.LATE_TILES, k.lateTiles)]

/-- The words of KRM_STATUS (Table 19.9). -/
def krmStatusWords (d : Dev) : List Word :=
  let k := d.krm
  packF 33 (((List.range 4).flatMap fun p =>
    let x := kport p d
    [fb (Obj.KRM_STATUS.UP p) x.up, fb (Obj.KRM_STATUS.SPARE_USED p) x.spareUsed, fb (Obj.KRM_STATUS.WIDTH_3 p) x.width3, (Obj.KRM_STATUS.LANE_FAULT p, x.laneFault),
     (Obj.KRM_STATUS.NB_ADDR p, x.nbAddr), (Obj.KRM_STATUS.NB_PORT p, x.nbPort), (Obj.KRM_STATUS.NB_UID p, x.nbUid), (Obj.KRM_STATUS.DELAY_PS p, x.delayPs),
     (Obj.KRM_STATUS.REPLAYS p, x.replays), (Obj.KRM_STATUS.CRC_ERR p, x.crcErr)]) ++
    [(Obj.KRM_STATUS.NO_ROUTE, k.noRoute), (Obj.KRM_STATUS.BAD_BLOCKS, k.badBlocks)])
/-- A read clears LANE_FAULT (R2). -/
def krmStatusClear (d : Dev) : Dev := d.uKrm fun k => { k with port := k.port.map fun x => { x with laneFault := 0 } }

end Sys2Proof.Machine
end

