-- ==== Sys2Proof/Machine/SensorObjects.lean ====
section
/-! DEFINITION. The objects of sensor drive: what rejects a write of SDRV_CTL, SDRV_PIN, SDRV_CDS and SDRV_TABLE, and what a write does
(R47, R56 to R58, R60 to R64). -/

namespace Sys2Proof.Machine

namespace Tbl

/-- The repetitions of the cell that decide a table's checks: all of them, or the first and the last 40 where there are more than 80, since the
cell repeats itself in between. -/
def reps (ws : List Word) : List Nat :=
  let r := if cellCount ws = 0 then 0 else cellRepeat ws
  if r ≤ 80 then List.range r else List.range 40 ++ (List.range 40).map fun i => r - 40 + i

/-- The acts of a table in order, each as its entry and its instant from t0 (R45). -/
def acts (ws : List Word) : List (Nat × Nat) :=
  let f := cellFirst ws
  let c := cellCount ws
  ((List.range (min f (entries ws))).map fun i => (i, at_ ws i 0)) ++
  ((reps ws).flatMap fun r => (List.range c).map fun j => (f + j, at_ ws (f + j) r)) ++
  ((List.range (entries ws - (f + c))).map fun j => (f + c + j, at_ ws (f + c + j) 0))

/-- The acts that set output o to another level than the act before them; the first one counts, as the level before it may differ. -/
def edges (ws : List Word) (o : Nat) : List (Nat × Nat) :=
  ((acts ws).foldl (fun (s : Option Bool × List (Nat × Nat)) a =>
    if kind ws a.1 = 0 ∧ tgt ws a.1 = o then
      (some (level ws a.1), if s.1 = some (level ws a.1) then s.2 else s.2 ++ [a])
    else s) (none, [])).2

/-- The last level that the table gives output o. -/
def lastLevel (ws : List Word) (o : Nat) : Option Bool :=
  (acts ws).foldl (fun s a => if kind ws a.1 = 0 ∧ tgt ws a.1 = o then some (level ws a.1) else s) none

/-- The outputs that the table names. -/
def outputs (ws : List Word) : List Nat := (List.range 48).filter fun o => (resources ws).testBit o

end Tbl

/-- The least time in steps that output n holds a level (Table 3.1); 0 where its mode or its bank gives none. -/
def leastHold (n : Nat) (d : Dev) : Nat :=
  match cfg (Obj.SDRV_PIN.MODE n) d with
  | 1 => match at' d.sdrv.bankV (n / 8) 0 with | 1 => 40 | 2 => 48 | 3 => 64 | _ => 0
  | 2 => 16
  | _ => 0

/-- Entry i of a table breaks Table 3.2, or names the odd output of a pair. -/
def tblEntryBad (ws : List Word) (i : Nat) (d : Dev) : Bool :=
  let k := Tbl.kind ws i
  let g := Tbl.tgt ws i
  decide (4 ≤ k) || getBits ws (191 + 64 * i) 1 != 0 || getBits ws (199 + 64 * i) 25 != 0 ||
  (match k with
   | 0 => decide (48 ≤ g) || cfg (Obj.SDRV_PIN.MODE g) d == 3
   | 3 => decide (4 ≤ g)
   | _ => decide (8 ≤ g) || Tbl.level ws i)

/-- Entry i of a table breaks the order or the bounds of its section (R47). -/
def tblOrderBad (ws : List Word) (i : Nat) : Bool :=
  let f := Tbl.cellFirst ws
  let c := Tbl.cellCount ws
  let t := Tbl.time ws i
  (decide (0 < i) && i != f && i != f + c && decide (t < Tbl.time ws (i - 1))) ||
  (if i < f then decide (Tbl.cellStart ws ≤ t) else decide (i < f + c) && decide (Tbl.cellPeriod ws ≤ t))

/-- The entries whose act is the 33rd or a later one within 1 ns (assumption log 40: a slot of 1 ns begins anywhere on the grid). -/
def tblCrowded (ws : List Word) : List Nat :=
  let l := Tbl.acts ws
  (l.zip (l.drop 32)).filterMap fun p => if p.2.2 - p.1.2 < 16 then some p.2.1 else none

/-- The entries whose edge on an output follows the edge before it too closely (R42). -/
def tblTooClose (ws : List Word) (d : Dev) : List Nat :=
  (Tbl.outputs ws).flatMap fun o =>
    let e := Tbl.edges ws o
    (e.zip (e.drop 1)).filterMap fun p => if p.2.2 - p.1.2 < leastHold o d then some p.2.1 else none

/-- The conversion period of a CDS group's channels in steps: that of a converter, 8 ns, as no pair is in CDS mode (R50, R79, R89; assumption
log 89); none where the group has no such channel. -/
def groupPeriod (g : Nat) (d : Dev) : Option Nat := if (cdsChannels g d).isEmpty then none else some 128

/-- The acts of a table that sample on CDS group g: SHD or SHR, entry and instant. -/
def Tbl.samples (ws : List Word) (g : Nat) : List (Bool × Nat × Nat) :=
  ((Tbl.acts ws).filter fun a => (kind ws a.1 == 1 || kind ws a.1 == 2) && tgt ws a.1 == g).map fun a => (kind ws a.1 == 2, a)

/-- The SHD entries of a group that come less than 1.5 ns after an SHR, or less than the conversion period after an SHD (R50). -/
def tblShdBad (ws : List Word) (g : Nat) (d : Dev) : List Nat :=
  ((Tbl.samples ws g).foldl (fun (s : Option Nat × Option Nat × List Nat) a =>
    if a.1 then
      let early (n : Nat) (o : Option Nat) : Bool := match o with | some t => decide (a.2.2 < t + n) | none => false
      (s.1, some a.2.2, if early 24 s.1 || (match groupPeriod g d with | some p => early p s.2.1 | none => false) then s.2.2 ++ [a.2.1] else s.2.2)
    else (some a.2.2, s.2.1, s.2.2)) (none, none, [])).2.2

/-- The contents of a sensor drive object that will be in force: those that wait for a table's end, or the live ones (R57). -/
def nextCtl (id : Nat) (d : Dev) : List Word := ((d.sdrv.pendingCtl.filter fun w => w.id == id).getLast?.map (·.ws)).getD (liveWords id d)

/-- An idle table is empty or longer than IDLE_PERIOD (R56). ctl, tw: the contents of SDRV_CTL and of the table. -/
def idleBad (ctl tw : List Word) : Bool :=
  fieldOf ctl Obj.SDRV_CTL.IDLE_EN != 0 && (Tbl.entries tw == 0 || decide (16 * fieldOf ctl Obj.SDRV_CTL.IDLE_PERIOD < Tbl.duration tw))

/-- What rejects a write of SDRV_TABLE t of its own (R47, R50, R56): DETAIL is the first offending entry, or 0xFFFF_FFFF for a header field and
for an idle table that R56 rejects. -/
def sdrvTableCheck (t : Nat) (ws : List Word) (d : Dev) : Option (Nat × Nat) :=
  let n := Tbl.entries ws
  let used := ((List.range 64).map fun u => if u = t then 0 else Tbl.entries (objWords (Obj.SDRV_TABLE.id u) d)).sum
  let c := Tbl.cellCount ws
  let hdr := decide (16384 < used + n) || decide (n < Tbl.cellFirst ws + c) ||
    (decide (0 < c) && (Tbl.cellRepeat ws == 0 || Tbl.cellPeriod ws == 0)) || (c == 0 && Tbl.cellRepeat ws != 0)
  let ctl := nextCtl Obj.SDRV_CTL.id d
  if hdr || (fieldOf ctl Obj.SDRV_CTL.IDLE_TABLE == t && idleBad ctl ws) then some (St.BAD_FIELD, 0xFFFFFFFF)
  else
    let long := (Tbl.acts ws).filterMap fun a => if 2 ^ 28 < a.2 then some a.1 else none
    let bad := ((List.range n).filter fun i => tblEntryBad ws i d || tblOrderBad ws i) ++ long ++ tblCrowded ws ++ tblTooClose ws d ++
      (List.range 8).flatMap fun g => tblShdBad ws g d
    match bad with
    | [] => none
    | i :: r => some (St.BAD_FIELD, r.foldl min i)

/-- What rejects a write of SDRV_CTL of its own (R56). -/
def sdrvCtlCheck (ws : List Word) (d : Dev) : Option (Nat × Nat) :=
  firstFail [(idleBad ws (tableWords (fieldOf ws Obj.SDRV_CTL.IDLE_TABLE) d), St.BAD_FIELD, 0)]

/-- What rejects a write of SDRV_PIN of its own (R61, Table 3.6): MODE 2 and 3 stand together on the two outputs of a pair. SLEW = 1 on
an LVDS word is accepted and acts on nothing (DESIGN CHOICE, assumption log 117). -/
def sdrvPinCheck (ws : List Word) (_ : Dev) : Option (Nat × Nat) :=
  let m (n : Nat) : Nat := fieldOf ws (Obj.SDRV_PIN.MODE n)
  firstFail [((List.range 24).any fun p =>
    let e := m (2 * p)
    let o := m (2 * p + 1)
    e == 3 || o == 2 || (e == 2) != (o == 3) ||
      (e == 2 && (fieldOf ws (Obj.SDRV_PIN.DRIVE (2 * p)) != 0 || fieldOf ws (Obj.SDRV_PIN.DRIVE (2 * p + 1)) != 0 ||
        fieldOf ws (Obj.SDRV_PIN.IDLE (2 * p + 1)) != 0)), St.BAD_FIELD, 0)]

/-- What rejects a write of SDRV_CDS of its own (Table 3.7). -/
def sdrvCdsCheck (ws : List Word) (_ : Dev) : Option (Nat × Nat) :=
  firstFail [((List.range 64).any fun c => let g := fieldOf ws (Obj.SDRV_CDS.GROUP c); decide (8 ≤ g) && g != 15, St.BAD_FIELD, 0)]

/-- A write of SDRV_CTL, SDRV_PIN or SDRV_CDS takes effect at once, or when the tables have ended that play as it arrives (R57). -/
def sdrvApply (id : Nat) (ws : List Word) (d : Dev) : Dev :=
  if (enginesRunning d).isEmpty then tablesEnded (setCtl id ws d)
  else d.uSdrv fun s => { s with pendingCtl := s.pendingCtl ++ [{ order := s.order, id, ws }] }

/-- The words of a sensor drive object as a read returns them: a write that waits for a table's end shows (R330). -/
def sdrvRead (id : Nat) (d : Dev) : Option (List Word) := (d.sdrv.pendingCtl.filter fun w => w.id == id).getLast?.map (·.ws)

end Sys2Proof.Machine
end

