-- ==== Sys2Proof/Machine/Admission.lean ====
section
/-! DEFINITION. The admission check (R9, R10): the limits of Table 1.2, and the checks that the chapters attach to it. Instants are counted in
a unit in which both a sub-count at the OVERSPEED speed and a step of 62.5 ps are whole. -/

namespace Sys2Proof.Machine

/-- The units of a sub-count, and those of a 62.5 ps step, at OVERSPEED (R18) or in time mode. -/
def unitSub (d : Dev) : Nat := if timeMode d then 1 else 62500000
def unitStep (d : Dev) : Nat := if timeMode d then 16 else cfg Obj.SPN_CTL.OVERSPEED d

/-- The line period in units. -/
def unitLine (d : Dev) : Nat := pitch d * unitSub d

/-- What a template event occupies: the phase of its line, and its first and last instant from that line's start, in units. -/
structure Span where
  phase : Nat
  a : Nat
  b : Nat
deriving DecidableEq, Repr

/-- The lines n, counted from the line of x, in which y meets the closed interval of x: the least and the greatest. -/
def spanRange (t : Nat) (x y : Span) : Int × Int := (-(((y.b : Int) - x.a) / (max 1 t : Nat)), ((x.b : Int) - y.a) / (max 1 t : Nat))

/-- How many lines of the range have the phase of y. -/
def spanCount (t p : Nat) (x y : Span) : Nat :=
  let (lo, hi) := spanRange t x y
  let r : Int := (y.phase : Int) - x.phase
  ((hi - r) / (p : Int) - (lo - 1 - r) / (p : Int)).toNat

/-- x and y meet, when every phase's lines run in sequence; same: they are one event, which does not meet itself in its own line. -/
def spansMeet (t p : Nat) (same : Bool) (x y : Span) : Bool := decide ((if same then 1 else 0) < spanCount t p x y)

/-- Some two items of the list satisfy the relation, given whether they are one and the same. -/
def anyPair {α : Type} (l : List α) (f : Bool → α → α → Bool) : Bool :=
  let n := mapIx (fun i x => (i, x)) l
  n.any fun x => n.any fun y => decide (x.1 ≤ y.1) && f (x.1 == y.1) x.2 y.2

/-- The live template's entries of a target, each once for every phase whose lines fire it. -/
def templateEvents (target : Nat) (d : Dev) : List (Nat × Nat) :=
  let ws := liveWords Obj.SPN_TEMPLATE.id d
  (List.range (phasesOf d)).flatMap fun p => ((Tpl.ofPhase ws p).filter fun i => Tpl.target ws i == target).map fun i => (p, i)

/-- The instant of entry i, from the start of its line. -/
def entryAt (i : Nat) (d : Dev) : Nat := Tpl.offset (liveWords Obj.SPN_TEMPLATE.id d) i * unitSub d
def entryArg (i : Nat) (d : Dev) : Nat := Tpl.arg (liveWords Obj.SPN_TEMPLATE.id d) i

/-! Waveform tables (R47, R48). -/

/-- The plays of tables: table and span. -/
def plays (d : Dev) : List (Nat × Span) :=
  (templateEvents 1 d).map fun e =>
    let t := entryArg e.2 d
    (t, { phase := e.1, a := entryAt e.2 d, b := entryAt e.2 d + Tbl.duration (tableWords t d) * unitStep d })

/-- Table 3.1 is broken on an output between the end of one play and the beginning of another. -/
def boundaryBroken (x y : Nat × Span) (d : Dev) : Bool :=
  let u := tableWords x.1 d
  let v := tableWords y.1 d
  ((Tbl.outputs u).filter fun o => (Tbl.outputs v).contains o).any fun o =>
    match (Tbl.edges u o).getLast?, (Tbl.acts v).find? (fun a => Tbl.kind v a.1 == 0 && Tbl.tgt v a.1 == o && some (Tbl.level v a.1) != Tbl.lastLevel u o) with
    | some e, some f =>
      let p := x.2.a + e.2 * unitStep d
      let q := y.2.a + f.2 * unitStep d
      let least := leastHold o d * unitStep d
      -- y in a line after x's end, with its edge less than the least time after x's last one
      spansMeet (unitLine d) (phasesOf d) false { phase := x.2.phase, a := p, b := p + least - 1 } { phase := y.2.phase, a := q, b := q } && decide (0 < least)
    | _, _ => false

/-- Across the boundary from play x to play y, an SHD of y comes less than 1.5 ns after an SHR of x, or less than the conversion period after an
SHD of x, on a CDS group of both (R50). -/
def shdBroken (x y : Nat × Span) (d : Dev) : Bool :=
  (List.range 8).any fun g =>
    let u := Tbl.samples (tableWords x.1 d) g
    match (Tbl.samples (tableWords y.1 d) g).find? (·.1) with
    | some f =>
      let q := y.2.a + f.2.2 * unitStep d
      let near (n : Nat) (e : Option (Bool × Nat × Nat)) : Bool := match e with
        | some e =>
          let p := x.2.a + e.2.2 * unitStep d
          spansMeet (unitLine d) (phasesOf d) false { phase := x.2.phase, a := p + 1, b := p + n * unitStep d - 1 } { phase := y.2.phase, a := q, b := q }
        | none => false
      near 24 (u.filter fun a => !a.1).getLast? || (match groupPeriod g d with | some n => near n (u.filter (·.1)).getLast? | none => false)
    | none => false

/-- A table that the template starts breaks R50 on its own. -/
def shdBad (d : Dev) : Bool := (plays d).any fun x => (List.range 8).any fun g => !(tblShdBad (tableWords x.1 d) g d).isEmpty

/-- The first table that a template event names and that is empty (R47). -/
def emptyTable (d : Dev) : Option Nat := ((plays d).find? fun x => Tbl.entries (tableWords x.1 d) == 0).map Prod.fst

/-- What R48 and R50 reject. -/
def tablesClash (d : Dev) : Bool :=
  let l := plays d
  let t := unitLine d
  let p := phasesOf d
  (l.any fun x => decide (8 < (l.map fun y => spanCount t p { x.2 with b := x.2.a } y.2).sum)) ||
  anyPair l (fun same x y => (Tbl.resources (tableWords x.1 d) &&& Tbl.resources (tableWords y.1 d)) != 0 && spansMeet t p same x.2 y.2) ||
  shdBad d || l.any fun x => l.any fun y => boundaryBroken x y d || shdBroken x y d

/-! Converter windows (R67, R71, R74, R94). -/

/-- The instants of SHD entries on a CDS group in one round of the phases, from its start. -/
def shdInstants (g : Nat) (d : Dev) : List Nat :=
  (plays d).flatMap fun x =>
    let ws := tableWords x.1 d
    let f := Tbl.cellFirst ws
    let c := Tbl.cellCount ws
    let all := ((List.range (min f (Tbl.entries ws))).map fun i => (i, Tbl.at_ ws i 0)) ++
      ((List.range (if c = 0 then 0 else Tbl.cellRepeat ws)).flatMap fun r => (List.range c).map fun j => (f + j, Tbl.at_ ws (f + j) r)) ++
      ((List.range (Tbl.entries ws - (f + c))).map fun j => (f + c + j, Tbl.at_ ws (f + c + j) 0))
    (all.filter fun a => Tbl.kind ws a.1 == 2 && Tbl.tgt ws a.1 == g).map fun a => x.2.phase * unitLine d + x.2.a + a.2 * unitStep d

/-- The instant of the n-th of events that repeat every t, at or after a; none where there are none. -/
def nthAfter (t a n : Nat) (l : List Nat) : Option Nat :=
  let rel := (l.map fun x => (x + t * (a / max 1 t + 1) - a) % max 1 t).mergeSort (fun x y => decide (x ≤ y))
  if rel = [] then none else some (a + (n - 1) / rel.length * t + at' rel ((n - 1) % rel.length) 0)

/-- The spans of the windows that a template event arms on channel c; none in the second part: a CDS window that no SHD ends. -/
def windowSpan (e : Nat × Nat) (w : Window) (c : Nat) (d : Dev) : Option Span :=
  let a := entryAt e.2 d + w.delay * unitStep d
  if w.cds then
    let base := e.1 * unitLine d
    let g := cfg (Obj.SDRV_CDS.GROUP c) d
    (nthAfter (phasesOf d * unitLine d) (base + a) (w.skip + w.count) (shdInstants g d)).map fun b => { phase := e.1, a, b := b - base }
  else some { phase := e.1, a, b := a + (w.skip + w.count - 1) * w.period * unitStep d }

/-- The CONV_WINDOW events with their descriptors. -/
def windowEvents (d : Dev) : List ((Nat × Nat) × Window) :=
  let ds := descsOf (liveWords Obj.ACQ_WIN.id d)
  (templateEvents 2 d).filterMap fun e => (ds[entryArg e.2 d]?).map fun w => (e, w)

/-- What R71, R94 and R74 reject: ARG, masks, CDS windows, periods of the present interleaving, overlaps. -/
def windowsBad (d : Dev) : Bool :=
  let n := fieldOf (liveWords Obj.ACQ_WIN.id d) Obj.ACQ_WIN.NWIN
  let evs := windowEvents d
  ((templateEvents 2 d).any fun e => decide (n ≤ entryArg e.2 d)) ||
  ((descsOf (liveWords Obj.ACQ_WIN.id d)).any fun w =>
    !descOk d w || (maskIx w.mask 64).any fun c => chMode c d == 0 || ilvOdd c d || (w.cds && chMode c d != 2)) ||
  (List.range 64).any fun c =>
    let l := evs.filterMap fun x => if x.2.mask.testBit c then some (windowSpan x.1 x.2 c d) else none
    l.any (fun s => s.isNone) && decide (0 < l.length) ||
      anyPair (l.filterMap id) (fun same x y => spansMeet (unitLine d) (phasesOf d) same x y)

/-- An INJECT event names a channel that is off or the odd one of a pair (R74). -/
def injectBad (d : Dev) : Bool := (templateEvents 3 d).any fun e => chMode (entryArg e.2 d) d == 0 || ilvOdd (entryArg e.2 d) d

/-! Converter links (R134). -/

/-- The sample rate of link l or of raw group g, as samples in so many µs. -/
def linkSampleRate (l : Nat) (d : Dev) : Nat × Nat :=
  let r := cfg (Obj.JLK_LINK.LANE_RATE l) d * cfg (Obj.JLK_LINK.S l) d
  let f := cfg (Obj.JLK_LINK.F l) d
  if cfg (Obj.JLK_LINK.STD l) d = 0 then (r, 10 * f) else (r * 64, 66 * 8 * f)
def rawSampleRate (g : Nat) (d : Dev) : Nat × Nat :=
  let w := cfg (Obj.JLK_RAW.WIDTH g) d
  if cfg (Obj.JLK_RAW.CODING g) d = 0 then (cfg (Obj.JLK_RAW.LANE_RATE g) d, w) else (cfg (Obj.JLK_RAW.LANE_RATE g) d, if w ≤ 8 then 10 else 20)

/-- n samples last longer than a line period. -/
def tooLong (n : Nat) (rate : Nat × Nat) (d : Dev) : Bool := decide (unitLine d * rate.1 < n * rate.2 * 16000 * unitStep d)

def startsTable (t : Nat) (d : Dev) : Bool := (plays d).any fun x => x.1 == t

/-- The first link or raw group that R134 rejects. -/
def linkOffender (d : Dev) : Option Nat :=
  match (List.range 8).find? fun l => linkEn l d &&
      (tooLong (cfg (Obj.JLK_LINK.SKIP l) d + cfg (Obj.JLK_LINK.COUNT l) d) (linkSampleRate l d) d ||
        (cfg (Obj.JLK_LINK.TRIG l) d == 1 && !startsTable (cfg (Obj.JLK_LINK.TRIG_TABLE l) d) d)) with
  | some l => some (Obj.JLK_LINK.id l)
  | none =>
    ((List.range 4).find? fun g => rawEn g d &&
      (tooLong (cfg (Obj.JLK_RAW.SKIP g) d + cfg (Obj.JLK_RAW.COUNT g) d) (rawSampleRate g d) d ||
        (cfg (Obj.JLK_RAW.TRIG g) d == 1 && !startsTable (cfg (Obj.JLK_RAW.TRIG_TABLE g) d) d))).map Obj.JLK_RAW.id

/-! Samples per line (R72, R145). -/

/-- A link or group arms its window in lines of phase p. -/
def armsIn (trig tbl p : Nat) (d : Dev) : Bool := trig == 0 || (plays d).any fun x => x.1 == tbl && x.2.phase == p

/-- The streams and sample numbers that windows armed in lines of phase p keep: stream, LAG, count. -/
def keptIn (p : Nat) (d : Dev) : List (Nat × Nat × Nat) :=
  ((windowEvents d).flatMap fun x => if x.1.1 = p then (maskIx x.2.mask 64).map fun c => (c, x.2.lag, x.2.count) else []) ++
  ((List.range 8).flatMap fun l =>
    if linkEn l d && armsIn (cfg (Obj.JLK_LINK.TRIG l) d) (cfg (Obj.JLK_LINK.TRIG_TABLE l) d) p d then
      (List.range (cfg (Obj.JLK_LINK.M l) d)).map fun m => (64 + 32 * l + m, cfg (Obj.JLK_LINK.LAG l) d, cfg (Obj.JLK_LINK.COUNT l) d)
    else []) ++
  ((List.range 4).flatMap fun g =>
    if rawEn g d && armsIn (cfg (Obj.JLK_RAW.TRIG g) d) (cfg (Obj.JLK_RAW.TRIG_TABLE g) d) p d then
      (maskIx (cfg (Obj.JLK_RAW.LANE_MASK g) d) 32).map fun i => (320 + i, cfg (Obj.JLK_RAW.LAG g) d, cfg (Obj.JLK_RAW.COUNT g) d)
    else [])

/-- The conversions kept per line, for the phase with the most where the windows differ by phase (R72, assumption log 80). -/
def keptPerLine (d : Dev) : Nat :=
  (List.range (phasesOf d)).foldl (fun m p => max m (((keptIn p d).filter fun x => decide (x.1 < 64)).map fun x => x.2.2).sum) 0

/-- The input pixels of a line that limit 3 counts: one for each kept conversion (R72), and one for each position of the set's grid that no
analog stream fills (assumption log 80). -/
def inputPerLine (d : Dev) : Nat :=
  let x := liveSet d
  keptPerLine d + (x.rows * x.width - ((x.segList.filter fun s => decide (s.stream < 64)).map (·.n)).sum)

/-- Some segment claims more samples of a stream than the windows deliver to lines of some phase (R145). -/
def claimsUnmet (d : Dev) : Bool :=
  let x := liveSet d
  let pn := phasesOf d
  (List.range pn).any fun p =>
    let got := (List.range pn).flatMap fun a => (keptIn a d).filter fun k => (p + k.2.1) % pn == a
    x.segList.any fun s => !got.any fun k => k.1 == s.stream && decide (s.j + s.n ≤ k.2.2)

/-! The limits of Table 1.2. -/

/-- The raw input in bytes/s times 33, with the object that carries each part (R10, R72). An uncoded raw lane counts its whole rate (assumption
log 41). -/
def rawInput (d : Dev) : List (Nat × Nat) :=
  [(Obj.ACQ_CH.id, 33 * 250000000 * countIf (fun c => chMode c d != 0) (List.range 64))] ++
  ((List.range 8).filter fun l => linkEn l d).map (fun l =>
    let r := cfg (Obj.JLK_LINK.LANE_RATE l) d * 1000000 * cfg (Obj.JLK_LINK.L l) d
    (Obj.JLK_LINK.id l, if cfg (Obj.JLK_LINK.STD l) d = 0 then 33 * r / 10 else 4 * r)) ++
  ((List.range 4).filter fun g => rawEn g d).map (fun g =>
    let r := cfg (Obj.JLK_RAW.LANE_RATE g) d * 1000000 * countIf (fun i => (cfg (Obj.JLK_RAW.LANE_MASK g) d).testBit i) (List.range 32)
    (Obj.JLK_RAW.id g, if cfg (Obj.JLK_RAW.CODING g) d = 0 then 33 * r / 8 else 33 * r / 10))

/-- The object whose part takes the raw input above limit 2. -/
def rawOffender (d : Dev) : Option Nat :=
  ((rawInput d).foldl (fun (s : Nat × Option Nat) x =>
    let n := s.1 + x.2
    (n, if s.2.isNone && decide (33 * 96000000000 < n) then some x.1 else s.2)) (0, none)).2

/-- Pixels and payload bytes that limits 6 and 7 count: at the collector those of the stitched line (R455), whose other tiles have the length
they had when last seen, or this tile's. -/
def outLine (d : Dev) : Nat × Nat :=
  let px := outPixels d
  let by_ := paddedBytes px (outBits d)
  if collecting d then
    let others := (List.range 64).filter fun t => (tilesPresent d).testBit t && t != d.krm.tile
    let n := (others.map fun t => let u := Sparse.get 0 d.krm.tileLen t; if u = 0 then by_ else 32 * u).sum
    (px + 8 * n / outBits d, by_ + n)
  else (px, by_)

/-- Limit 7 in bytes/s by the maximum payload size (R298). -/
def limit7 (d : Dev) : Nat := if d.hs.mps = 2 then 48000000000 else if d.hs.mps = 1 then 46000000000 else 40000000000

/-- The limits of Table 1.2 in order: status and W1 of the first that is exceeded. Which object W1 names for limits 3, 4, 6 and 7, whose
quantities draw on fields of several objects, is the model's choice (assumption log 78). -/
def limits (d : Dev) : Option (Nat × Nat) :=
  let (num, den) := maxLineRate d
  let x := liveSet d
  let (px, by_) := outLine d
  let raw := rawOffender d
  firstFail [
    (decide (4000000 * den < num), St.BAD_FIELD, Obj.SPN_CTL.id),
    (raw.isSome, St.BAD_FIELD, raw.getD 0),
    (decide (48000000000 * den < inputPerLine d * num), St.BAD_FIELD, Obj.HDL_MAP.id),
    (decide (3145728 < x.width * x.tpCount d * x.crows), St.BAD_FIELD, Obj.HDL_MAP.id),
    (decide (4194304 < x.rows * x.width) || decide (256 < x.rows), St.BAD_FIELD, Obj.HDL_MAP.id),
    (decide (24000000000 * den < px * num), St.BAD_FIELD, if cfgB Obj.TDI_RESAMPLE.EN d then Obj.TDI_RESAMPLE.id else Obj.TDI_CTL.id),
    (decide (limit7 d * den < by_ * num), St.BAD_FIELD, Obj.HDL_CTL.id)]

/-! The checks of the chapters. -/

/-- An output stands in a bank whose supply does not carry it (R43). -/
def pinSupplyBad (d : Dev) : Bool :=
  (List.range 48).any fun n =>
    let m := cfg (Obj.SDRV_PIN.MODE n) d
    let v := at' d.sdrv.bankV (n / 8) 0
    (m != 0 && v == 0) || (decide (2 ≤ m) && v == 1)

/-- The phase's TDI_ROW events are neither one nor one per row (R183). -/
def rowsBad (d : Dev) : Bool :=
  decide (1 < rowsOf d) &&
    ((List.range (phasesOf d)).any (fun p => let n := countIf (fun e : Nat × Nat => e.1 == p) (templateEvents 7 d); n != 1 && n != rowsOf d) ||
      decide (pitch d < cfg Obj.TDI_CTL.ROW_PITCH d) || decide (rowsOf d + 1 < tdiNeed d))

/-- A route to a pin that Skein does not own (R242). -/
def foreignPin (pin : Nat) (d : Dev) : Bool := pin != 0 && cfg (Obj.PACE_FC.OWNER (pin - 1)) d != 2

/-- A LAMP_ON comes less than BLANK_NS after its string's previous LAMP_OFF, at OVERSPEED (R371). -/
def blankingBroken (d : Dev) : Bool :=
  let ws := liveWords Obj.SPN_TEMPLATE.id d
  let pn := phasesOf d
  (List.range 8).any fun s =>
    let l := (List.range (2 * pn)).flatMap fun k => ((Tpl.ofPhase ws (k % pn)).filter fun i =>
        (Tpl.target ws i == 4 || Tpl.target ws i == 5) && (Tpl.arg ws i).testBit s).map fun i => (k * unitLine d + entryAt i d, Tpl.target ws i == 4)
    (l.foldl (fun (a : Option Nat × Bool) e =>
      if e.2 then (a.1, a.2 || (match a.1 with | some t => decide (e.1 < t + cfg Obj.ILM_CTL.BLANK_NS d * 16 * unitStep d) | none => false))
      else (some e.1, a.2)) (none, false)).2

/-- VLED does not carry the lamps of some string in some phase (R372). -/
def headroomShort (d : Dev) : Bool :=
  (List.range 8).any fun s => strEn s d && (List.range 8).any fun p =>
    decide (0 < iSet s p d) && decide (d.ilm.vledMv < 1500 +
      ((List.range 16).map fun l => if isMain s l d && decide (0 < dutySet s p l d) then cfg (Obj.ILM_LAMP.VF_MV (16 * s + l)) d else 0).sum)

/-- Some lamp needs diagnosis while the template has no slot for it (R375). -/
def diagMissing (d : Dev) : Bool :=
  (templateEvents 6 d).isEmpty && (List.range 8).any fun s => (List.range 16).any fun l => needsDiag s l d

/-- What R451 rejects in a follower. -/
def followerBad (d : Dev) : Bool :=
  follower d && (d.krm.mcfg != some (ownMaster d) || decide (cfg Obj.KRM_CTL.LEAD_NS d * 1000 < d.krm.pathDelay + 500000) || !d.krm.timeLock)

/-- Bytes per line of the tile traffic over port p: this sender's own tile on its route to the collector, and at the collector a tile for each
ROLE 2 queue of the port. What a node only forwards for others it cannot know (assumption log 101). -/
def tileTraffic (p : Nat) (d : Dev) : Nat :=
  let tile := 64 + paddedBytes (outPixels d) (outBits d)
  if sending d then (if routePort (cfg Obj.KRM_CTL.COLLECTOR d) d = some p then tile else 0)
  else if collecting d then tile * (inboundQueues p d).length
  else 0

/-- What R455 rejects: tiles that do not join, members with another output format, or more than 12.5 GB/s of tiles over one port. -/
def stitchBad (d : Dev) : Bool :=
  let (num, den) := maxLineRate d
  (stitchFmt d).isSome && (outPixels d * outBits d % 256 != 0 || d.krm.members.any (fun m => m.fmt.isSome && m.fmt != stitchFmt d) ||
    (List.range 4).any fun p => decide (12500000000 * den < tileTraffic p d * num))

/-- The BAD_FIELD checks of the chapters, in the order in which a line passes the blocks (assumption log 42). -/
def blockChecks (d : Dev) : Option (Nat × Nat) :=
  let src := scanSrc d
  let own := !follower d
  let tws := liveWords Obj.SPN_TEMPLATE.id d
  let empty := emptyTable d
  let link := linkOffender d
  let axis := cfg Obj.PACE_CTL.AXIS d
  firstFail [
    (own && decide (src < 4) && cfg (Obj.SPN_PORT.TYPE src) d == 0, St.BAD_FIELD, Obj.SPN_CTL.id),
    ((templateCheck tws d).isSome, St.BAD_FIELD, Obj.SPN_TEMPLATE.id),
    ((templateEvents 9 d).any fun e => (List.range 4).any fun p => (entryArg e.2 d).testBit p && cfg (Obj.PACE_FC.OWNER p) d != 3, St.BAD_FIELD, Obj.PACE_FC.id),
    (pinSupplyBad d, St.BAD_FIELD, Obj.SDRV_PIN.id),
    (empty.isSome, St.BAD_FIELD, Obj.SDRV_TABLE.id (empty.getD 0)),
    (tablesClash d, St.BAD_FIELD, 0),
    (windowsBad d, St.BAD_FIELD, Obj.ACQ_WIN.id),
    (injectBad d, St.BAD_FIELD, 0),
    (link.isSome, St.BAD_FIELD, link.getD 0),
    ((liveSet d).width == 0 || claimsUnmet d, St.BAD_FIELD, Obj.HDL_MAP.id),
    (rowsBad d, St.BAD_FIELD, Obj.TDI_CTL.id),
    (resampleBad (liveWords Obj.TDI_RESAMPLE.id d) (widthOf d) d, St.BAD_FIELD, Obj.TDI_RESAMPLE.id),
    ((List.range 32).any fun q => foreignPin (cfg (Obj.SKN_QUEUE.FC_PIN q) d) d, St.BAD_FIELD, Obj.SKN_QUEUE.id),
    ((List.range 4).any fun s => foreignPin (cfg (Obj.REEL_LS.FC_PIN s) d) d, St.BAD_FIELD, Obj.REEL_LS.id),
    (decide (axis < 4) && (timeMode d || (decide (4 ≤ src) && decide (src < 8) && src != 4 + axis)), St.BAD_FIELD, Obj.PACE_CTL.id),
    (blankingBroken d, St.BAD_FIELD, Obj.ILM_CTL.id),
    (headroomShort d, St.BAD_FIELD, Obj.ILM_PHASE.id),
    (diagMissing d, St.BAD_FIELD, Obj.ILM_CTL.id),
    (followerBad d || stitchBad d, St.BAD_FIELD, Obj.KRM_CTL.id)]

/-- The whole check of a configuration, without what answers BUSY (R9, R166). -/
def wholeCheck (d : Dev) : Option (Nat × Nat) :=
  match limits d with
  | some r => some r
  | none => blockChecks d

/-- The configuration that will be live once the staged parts go live together (R9). A set staged with SWAP_AT = 1 may go live before a staged
template; only the configuration with every staged part is checked (assumption log 79). -/
def stagedLive (d : Dev) : Dev :=
  let d : Dev := { d with liveOld := [] }
  if d.hdl.loadState = 2 then d.uHdl fun h => { h with live := !h.live } else d

/-- The whole check of a part that is staged in SCAN or HOLD, on the device as it will be (R9, R30). -/
def stageAdmit (d : Dev) : Option (Nat × Nat) :=
  wholeCheck (stagedLive d)

/-- Channels in use lack the reference: the wait that remains, in µs (R77). -/
def refMissing (d : Dev) : Bool × Nat × Nat :=
  let wait : Nat := match d.acq.refAt with | some t => (t - d.now + 15999) / 16000 | none => 0xFFFFFFFF
  ((List.range 64).any (fun c => chMode c d != 0) && !d.acq.refReady, St.BUSY, wait)

/-- An enabled link is not in DATA, or an enabled raw group not aligned (R130). -/
def linksDown (d : Dev) : Bool × Nat × Nat :=
  ((List.range 8).any (fun l => linkEn l d && (linkAt l d).state != 4) ||
    (List.range 4).any (fun g => rawEn g d && rawState g d != 2), St.BUSY, Obj.JLK_STATUS.id)

/-- A member lacks TIME_LOCK: the master answers every MODE_SET to SCAN with BUSY (R451). -/
def lockMissing (d : Dev) : Bool × Nat × Nat := (d.krm.member && d.krm.role && d.krm.members.any fun m => !m.lock, St.BUSY, Obj.KRM_GROUP.id)

/-- What answers a MODE_SET from HOLD to SCAN with BUSY (R77, R130, R383, R451). -/
def resumeBusy (d : Dev) : Option (Nat × Nat) := 
  firstFail [refMissing d, linksDown d, (d.ilm.lampCheckDue, St.BUSY, Obj.ILM_STATUS.id), lockMissing d]

/-- What answers a MODE_SET from READY to SCAN with BUSY (R77, R108, R130, R253, R383, R451). -/
def busyChecks (d : Dev) : Option (Nat × Nat) :=
  firstFail [
    refMissing d,
    (d.cal.feStale != 0, St.BUSY, Obj.CAL_STATUS.id),
    linksDown d,
    (unconfirmed d, St.BUSY, Obj.REEL_STATUS.id),
    (d.ilm.lampCheckDue, St.BUSY, Obj.ILM_STATUS.id),
    lockMissing d]

/-- The admission check of a MODE_SET from READY to SCAN. -/
def admission (d : Dev) : Option (Nat × Nat) :=
  match wholeCheck d with
  | some r => some r
  | none => busyChecks d

end Sys2Proof.Machine
end

