-- ==== Sys2Proof/Machine/Auxiliary.lean ====
section
/-! DEFINITION. The auxiliary crosspoint (chapter 17): dwells and words, results, wire breaks, the checker, AMON outputs, AUX_READ and its
objects. -/

namespace Sys2Proof.Machine

/-! The fields of a slot (Table 17.6), from its four words. -/
namespace AuxSlot
def words (s : Nat) (ws : List Word) : List Word := if ws = [] then [0x40000000#32, 0x00104000#32, 0#32, 0x01000000#32] else (ws.drop (4 * s)).take 4
def en (ws : List Word) : Bool := getBits ws 31 1 != 0
def openDet (ws : List Word) : Bool := getBits ws 30 1 != 0
def gain (ws : List Word) : Nat := getBits ws 48 3
def chk (ws : List Word) : Bool := getBits ws 46 1 != 0
def excMode (ws : List Word) : Nat := getBits ws 37 2
def nconv (ws : List Word) : Nat := getBits ws 52 4
def offset (ws : List Word) : Int := toS 16 (getBits ws 80 16)
def scale (ws : List Word) : Int := toS 32 (getBits ws 96 32)
/-- The valid words of a dwell (R396). -/
def valid (ws : List Word) : Nat := if openDet ws then 2 * nconv ws else nconv ws
end AuxSlot

/-- What an AUX pin does while a slot converts (Table 17.1); test: the test current into the pin, in nA (R402). -/
inductive PinRole where
  | inP | inN | refP | refN | excCurrent (ua : Nat) | excVoltage (mv : Nat) | bias | test (na : Int)
deriving DecidableEq, Repr

/-- The configuration of slot s. -/
def auxSlot (s : Nat) (d : Dev) : List Word := AuxSlot.words s (liveWords Obj.AUX_SLOT.id d)
def auxEn (d : Dev) : Bool := cfgB Obj.AUX_CTL.EN d
/-- The crosspoint is in a state in which conversions may run (R408). -/
def auxModes (d : Dev) : Bool := d.inMode [.calibrate, .ready, .scan, .hold, .safe] && at' d.pwr.domState 14 0 == 0
/-- Conversions run (R408). -/
def auxRuns (d : Dev) : Bool := auxEn d && auxModes d

/-- The next enabled slot after slot s in ascending order, around to slot s itself; from the start for none. -/
def nextSlot (s : Option Nat) (d : Dev) : Option Nat :=
  let from_ := match s with | some k => k + 1 | none => 0
  ((List.range 32).map fun i => (from_ + i) % 32).find? fun k => AuxSlot.en (auxSlot k d)

/-- The slot words of the running dwell (R396). The sequence starts as soon as conversions run; its slots wait during arbitration (R404), and a
dwell that AUX_CTL.EN = 0 ends goes on to the end of its word (R400). -/
def dwellWords (d : Dev) : Option (List Word) :=
  if !auxModes d || d.aux.arbDue then none
  else match d.aux.active with
    | some _ => some d.aux.cfg
    | none => if auxEn d then (nextSlot none d).map fun k => auxSlot k d else none

/-- The roles of AUX pin p now: those that the slot of the running dwell gives it; with none the pin is high impedance (R396, R397, R399). With
OPEN_DET the test current flows into IN_P and out of IN_N, and turns at every valid word (R402). -/
def auxPin (p : Nat) (d : Dev) : List PinRole :=
  let ws := (dwellWords d).getD []
  let role (is : Bool) (off : Nat) (r : PinRole) : List PinRole := if is && getBits ws off 5 == p then [r] else []
  let ref := getBits ws 29 1 != 0
  let test : Int := 10 * cfg Obj.AUX_CTL.I_TEST d * (if 3 ≤ d.aux.word ∧ d.aux.word % 2 = 0 then -1 else 1)
  if (dwellWords d).isNone then []
  else role true 0 .inP ++ role true 8 .inN ++ role ref 16 .refP ++ role ref 24 .refN ++
    role (AuxSlot.excMode ws == 1) 32 (.excCurrent (getBits ws 64 16)) ++ role (AuxSlot.excMode ws == 2) 32 (.excVoltage (getBits ws 64 16)) ++
    role (getBits ws 45 1 != 0) 40 .bias ++ role (AuxSlot.openDet ws) 0 (.test test) ++ role (AuxSlot.openDet ws) 8 (.test (-test))

/-- CYCLE_US (R396, R414). -/
def cycleUs (d : Dev) : Nat :=
  let n := ((List.range 32).map fun s => if AuxSlot.en (auxSlot s d) then 3 + AuxSlot.valid (auxSlot s d) else 0).sum
  n * 125 * 2 ^ cfg Obj.AUX_CTL.OSR d / 4

/-- V_R in nV: the internal reference of 2.500 V, or with REF = 1 that between the reference pins (R398). -/
def AuxSlot.vRef (ws : List Word) (pins : Int) : Int := if getBits ws 29 1 != 0 then pins else 2500000000

/-- A word's code (R398) from the input and reference voltages in nV; for a reference of 0 the spec states none: a free value. -/
def auxCode (gain : Nat) (v ref : Int) (d : Dev) : Int × Dev :=
  if ref = 0 then (clampI (-8388607) 8388607 (toS 24 (d.free 24)), d.drawn)
  else (clampI (-8388607) 8388607 (roundAway ((8388608 * 2 ^ gain * v : Int) / (ref : Int) : Rat)), d)

/-- VALID of a result (Table 17.2). -/
def AuxRes.valid (r : AuxRes) : Bool := r.formed.isSome && !r.settling && !r.open_ && !r.mismatch && !r.stale

/-! AMON outputs (R405, R406). -/

def updAmon (a : Nat) (f : Amon → Amon) (d : Dev) : Dev := d.uAux fun x => { x with amon := upd x.amon a f }

/-- The output of the 12-bit DAC for a fraction of VREF_AMON (R405): 4,095 steps to the full reference (assumption log 115). -/
def amonDac (v : Rat) : Rat := (roundAway (4095 * v) : Rat) / 4095

/-- AMON pin a goes to its fault level (R406). In SLEEP the sources of the crosspoint make no arrivals (R428). -/
def amonFault (a : Nat) (d : Dev) : Dev :=
  let was := (at' d.aux.amon a {}).fault
  let d := updAmon a (fun x => { x with driven := true, fault := true, level := amonDac ((cfg (Obj.AUX_AMON.FAULT_LVL a) d : Rat) / 100) }) d
  if was || d.pwr.mode == .sleep then d else raise 422 d

/-- AMON pin a follows a result of its slot. -/
def amonFollow (s : Nat) (r : AuxRes) (a : Nat) (d : Dev) : Dev :=
  if cfgB (Obj.AUX_AMON.EN a) d && cfg (Obj.AUX_AMON.SLOT a) d == s then
    if r.open_ || r.mismatch then amonFault a d
    else if r.settling then d
    else
      let lo := cfgS (Obj.AUX_AMON.X_LO a) d
      let hi := cfgS (Obj.AUX_AMON.X_HI a) d
      let v : Rat := 1 / 20 + 9 / 10 * ((r.eng - lo : Int) : Rat) / ((hi - lo : Int) : Rat)
      updAmon a (fun x => { x with driven := true, fault := false, level := amonDac (max (1 / 20) (min (19 / 20) v)) }) d
  else d

/-- The AMON pins with EN = 1 stand at their fault level while AUX_CTL.EN = 0; a pin with EN = 0 is not driven. -/
def refreshAmon (d : Dev) : Dev :=
  each [0, 1] (fun a d =>
    if !cfgB (Obj.AUX_AMON.EN a) d then updAmon a (fun _ => {}) d
    else if auxEn d then updAmon a (fun x => { x with driven := true }) d
    else amonFault a d) d

/-! AUX_READ (R407). -/

/-- The two words of a slot's result (Table 17.2). -/
def auxResWords (s : Nat) (d : Dev) : List Word :=
  let r := at' d.aux.res s {}
  let age := match r.formed with | some t => min 65535 ((d.now - t) / 16000000) | none => 65535
  [BitVec.ofNat 32 (ofS 24 r.code + 2 ^ 24 * b2n r.valid + 2 ^ 25 * b2n r.settling + 2 ^ 26 * b2n r.open_ + 2 ^ 27 * b2n r.mismatch +
     2 ^ 28 * b2n r.ovr + 2 ^ 29 * b2n r.stale + 2 ^ 30 * b2n r.checker),
   BitVec.ofNat 32 (ofS 16 r.eng + 65536 * age)]

def auxReadWords (mask : Nat) (d : Dev) : List Word := (maskIx mask 32).flatMap fun s => auxResWords s d

/-- The fresh reads whose slots have all formed a result are answered. -/
def auxAnswer (d : Dev) : Dev :=
  let done := d.aux.waits.filter fun w => w.left == 0
  each done (fun w d => finish w.who St.OK 0 (auxReadWords w.mask d) d) (d.uAux fun x => { x with waits := x.waits.filter fun w => w.left != 0 })

/-- AUX_READ. A result formed since the command was taken counts, also before it starts. -/
def auxRead (c : MnrCmd) (d : Dev) : Dev :=
  command Op.AUX_READ c (fun t d =>
    let n := (maskIx t.arg 32).length
    let fresh := t.len == 1 && bit (t.w 0) 0
    checked t [(decide (n = 0) || decide (6 < n), St.BAD_FIELD, 0), (decide (1 < t.len), St.BAD_FIELD, 0), (t.len == 1 && decide (2 ≤ t.w 0), St.BAD_FIELD, 0)]
      (fun d =>
        if fresh then
          let left := (maskIx t.arg 32).foldl (fun m s => match (at' d.aux.res s {}).formed with
            | some f => if t.at_ < f then setBit m s false else m
            | none => m) t.arg
          auxAnswer (d.uAux fun x => { x with waits := x.waits ++ [{ mask := t.arg, left, who := t.who }] })
        else finish t.who St.OK 0 (auxReadWords t.arg d) d) d) d

/-- AUX_READ_TIMEOUT: the oldest fresh read has waited for more than 1 s. -/
def auxReadTimeout (d : Dev) : Dev :=
  match d.aux.waits with
  | [] => d
  | w :: ws => finish w.who St.TIMEOUT 0 (auxReadWords w.mask d) (d.uAux fun x => { x with waits := ws })

/-! Dwells and results (R396, R400 to R403). -/

/-- The dwell of a slot begins. -/
def beginDwell (s : Option Nat) (d : Dev) : Dev :=
  d.uAux fun x => { x with active := s, word := 0, prim := [], chk := [], comp := false, dwellOld := false, mixed := false
                           cfg := match s with | some k => auxSlot k d | none => [] }

/-- The sequence starts once conversions run (R396). -/
def auxStart (d : Dev) : Dev := if auxRuns d && d.aux.active.isNone && !d.aux.arbDue then beginDwell (nextSlot none d) d else d

/-- The dwell of slot s starts again at a boundary with the configuration of a write (R400); a slot that it disables gives way to the next one,
and with EN = 0 none follows. -/
def restartDwell (s : Nat) (d : Dev) : Dev :=
  if !auxEn d then beginDwell none d
  else if AuxSlot.en (auxSlot s d) then beginDwell (some s) d
  else beginDwell (nextSlot (some s) d) d

/-- The mean of words, rounded to nearest with half away from zero (R401). -/
def meanCode (ws : List Int) : Int := if ws.isEmpty then 0 else roundAway ((ws.sum : Rat) / (ws.length : Rat))

/-- A pair of words of opposite test polarity shows a wire break (R402). -/
def wireBreak (thr : Nat) : List Int → Bool
  | a :: b :: r => decide (thr < (a - b).natAbs) || (decide (8388607 ≤ a.natAbs) && decide (8388607 ≤ b.natAbs)) || wireBreak thr r
  | _ => false

/-- The result of the dwell of slot s at instant t (R401 to R403). -/
def formResult (s t : Nat) (d : Dev) : Dev :=
  let x := d.aux
  let ws := x.cfg
  let code := meanCode x.prim
  let open_ := x.comp || (AuxSlot.openDet ws && wireBreak (cfg Obj.AUX_CTL.OPEN_THR d) x.prim)
  let compared := AuxSlot.chk ws && x.chkActive && !open_
  let differ := compared && decide (cfg Obj.AUX_CTL.CHK_TOL d < (code - meanCode x.chk).natAbs)
  let bothFailed := x.pFailed && x.cFailed
  let first := x.firstDue.testBit s
  let settling := (x.mixed && x.settle.testBit s) || first
  let r : AuxRes := { code, settling, open_, mismatch := differ || bothFailed, ovr := x.prim.any fun w => decide (8388607 ≤ w.natAbs)
                      stale := false, checker := x.checkerPrimary
                      eng := clampI (-32768) 32767 ((code * AuxSlot.scale ws) / 16777216 + AuxSlot.offset ws), formed := some t, seq := (at' x.res s {}).seq + 1 }
  let wasOpen := x.openMask.testBit s
  let d := d.uAux fun x => { x with
    res := put x.res s r, settle := setBit x.settle s (settling && (x.settle.testBit s || first)), firstDue := setBit x.firstDue s false
    openMask := setBit x.openMask s open_, openSeen := if open_ then setBit x.openSeen s true else x.openSeen
    run := if differ then x.run + 1 else 0, mismatches := if differ then sat16 x.mismatches else x.mismatches
    waits := x.waits.map fun w => { w with left := setBit w.left s false } }
  let d := if open_ && !wasOpen then raise 416 d else if !open_ && wasOpen then raise 417 d else d
  let d := if differ then raise 418 d else d
  let d := if differ && decide (cfg Obj.AUX_CTL.CHK_FAIL d ≤ d.aux.run) then d.uAux fun x => { x with arbDue := true } else d
  auxAnswer (each [0, 1] (amonFollow s r) d)

/-- AUX_WORD: a conversion word ends at instant t. v and ref are the input voltage and that between the reference pins of the primary converter in
nV, vc and refc those of the checker; comp: the slot's current source stood at its compliance limit for the whole word. -/
def auxWord (t : Nat) (v ref vc refc : Int) (comp : Bool) (d : Dev) : Dev :=
  if !auxModes d || d.aux.arbDue then d
  else
    let d := auxStart (d.at_ t)
    match d.aux.active with
    | none => d
    | some s =>
      let g := AuxSlot.gain d.aux.cfg
      let settled := decide (3 ≤ d.aux.word)
      let (p, d) := auxCode g v (AuxSlot.vRef d.aux.cfg ref) d
      let (c, d) := auxCode g vc (AuxSlot.vRef d.aux.cfg refc) d
      let d := d.uAux fun x => { x with
        word := x.word + 1, prim := if settled then x.prim ++ [if x.checkerPrimary then c else p] else x.prim
        chk := if settled then x.chk ++ [c] else x.chk, comp := x.comp || (comp && AuxSlot.excMode x.cfg == 1) }
      if 3 + AuxSlot.valid d.aux.cfg ≤ d.aux.word then
        let d := formResult s t d
        beginDwell (if auxEn d then nextSlot (some s) d else none) d
      else if d.aux.dwellOld then restartDwell s d
      else d

/-- Both converters have failed: every result carries MISMATCH, those already held among them, and the AMON pins show it (R404, R406). -/
def allMismatch (d : Dev) : Dev :=
  each [0, 1] (fun a d => if cfgB (Obj.AUX_AMON.EN a) d then amonFault a d else d) (d.uAux fun x => { x with res := x.res.map fun r => { r with mismatch := true } })

/-- AUX_ARBITRATION: both converters measure the test level at 1/4 and 3/4 of positive full scale (R404). -/
def auxArbitration (prim chk : ArbRes) (d : Dev) : Dev :=
  if !auxModes d || !d.aux.arbDue then d
  else
    let tol := cfg Obj.AUX_CTL.ARB_TOL d
    let fails (r : ArbRes) : Bool := [r.lo1 - 2097152, r.lo2 - 2097152, r.hi1 - 6291456, r.hi2 - 6291456].any fun e => decide (tol < e.natAbs)
    let pf := fails prim
    let cf := fails chk
    let d := raise 419 (d.uAux fun x => { x with
      arbDue := false, run := 0, pFailed := x.pFailed || pf, cFailed := x.cFailed || cf, chkActive := x.chkActive && !pf && !cf
      checkerPrimary := x.checkerPrimary || (pf && !cf) })
    let d := if pf || cf then raise 420 d else d
    -- a write that came meanwhile takes effect now, a boundary
    let d := if d.aux.dwellOld then (match d.aux.active with | some s => restartDwell s d | none => d) else d
    if pf && cf then faultRaise 10 420 none St.HW_FAULT (allMismatch d) else d

/-- AUX_STALE: slot s, enabled, has formed no result for 100 ms (R401). -/
def auxStale (s : Nat) (d : Dev) : Dev :=
  if AuxSlot.en (auxSlot s d) then d.uAux fun x => { x with res := upd x.res s fun r => { r with stale := true } } else d

/-- AMON_STALE: the slot of pin a has had no valid result for STALE_MS (R406). -/
def amonStale (a : Nat) (d : Dev) : Dev := if cfgB (Obj.AUX_AMON.EN a) d && !d.inMode [.reset, .boot] && d.runs 14 then amonFault a d else d

/-! Reset and objects (R408, R411 to R414). -/

/-- An AUX domain reset (Table 20.7). -/
def auxReset (d : Dev) : Dev :=
  faultClear 10 (d.uAux fun x => { firstDue := 4294967295, waits := x.waits })

/-- Conversions stop in retention SLEEP (R408); they begin again with a new dwell. -/
def auxStop (d : Dev) : Dev := d.uAux fun x => { x with active := none }

/-- What rejects a write of AUX_SLOT (R397, R412). -/
def auxSlotCheck (ws : List Word) (_ : Dev) : Option (Nat × Nat) :=
  let bad (s : Nat) : Bool :=
    let f (x : Nat → FldDef) := fieldOf ws (x s)
    let m := f Obj.AUX_SLOT.EXC_MODE
    let v := f Obj.AUX_SLOT.EXC_VAL
    let bias := f Obj.AUX_SLOT.BIAS_EN != 0 && f Obj.AUX_SLOT.BIAS_PIN != f Obj.AUX_SLOT.IN_N
    let pins := [f Obj.AUX_SLOT.IN_P, f Obj.AUX_SLOT.IN_N] ++
      (if f Obj.AUX_SLOT.REF != 0 then [f Obj.AUX_SLOT.REF_P, f Obj.AUX_SLOT.REF_N] else []) ++
      (if m = 0 then [] else [f Obj.AUX_SLOT.EXC_PIN]) ++ (if bias then [f Obj.AUX_SLOT.BIAS_PIN] else [])
    (m == 1 && (v == 0 || decide (2000 < v))) || (m == 2 && (decide (v < 100) || decide (3000 < v))) || (f Obj.AUX_SLOT.EN != 0 && !pins.Nodup)
  firstFail [((List.range 32).any bad, St.BAD_FIELD, 0)]

/-- A write of AUX_SLOT: every slot carries SETTLING until a result of words taken after it (R400). -/
def auxSlotApply (ws : List Word) (d : Dev) : Dev :=
  let d := auxStart d
  let old := match d.aux.active with | some s => auxSlot s d | none => []
  let d := setObj Obj.AUX_SLOT.id ws d
  let changed : Bool := match d.aux.active with | some s => auxSlot s d != old | none => false
  auxStart <| d.uAux fun x => { x with settle := 4294967295, dwellOld := x.dwellOld || changed, mixed := x.mixed || decide (3 ≤ x.word)
                                       res := x.res.map fun r => { r with settling := true } }

/-- A write of AUX_CTL: with EN = 0 the dwell ends with its word, a conversion boundary (R400); with EN = 1 the sequence starts. -/
def auxCtlApply (ws : List Word) (d : Dev) : Dev :=
  let d := refreshAmon (setObj Obj.AUX_CTL.id ws d)
  if auxEn d then auxStart d else d.uAux fun x => { x with dwellOld := true }

def auxAmonCheck (ws : List Word) (_ : Dev) : Option (Nat × Nat) :=
  firstFail [((List.range 2).any fun a =>
    (decide (5 ≤ fieldOf ws (Obj.AUX_AMON.FAULT_LVL a)) && decide (fieldOf ws (Obj.AUX_AMON.FAULT_LVL a) ≤ 95)) ||
      fieldOf ws (Obj.AUX_AMON.X_LO a) == fieldOf ws (Obj.AUX_AMON.X_HI a), St.BAD_FIELD, 0)]

def auxAmonApply (ws : List Word) (d : Dev) : Dev := refreshAmon (setObj Obj.AUX_AMON.id ws d)

/-- The words of AUX_STATUS (Table 17.8). -/
def auxStatusWords (d : Dev) : List Word :=
  let x := d.aux
  packF 5 [(Obj.AUX_STATUS.OPEN, x.openMask), (Obj.AUX_STATUS.OPEN_SEEN, x.openSeen), (Obj.AUX_STATUS.SETTLING, x.settle),
    fb Obj.AUX_STATUS.CHECKER_PRIMARY x.checkerPrimary, fb Obj.AUX_STATUS.CHK_ACTIVE x.chkActive, fb Obj.AUX_STATUS.P_FAILED x.pFailed,
    fb Obj.AUX_STATUS.C_FAILED x.cFailed, (Obj.AUX_STATUS.AMON_FAULT, packBits (x.amon.map fun a => a.fault)),
    (Obj.AUX_STATUS.MISMATCHES, x.mismatches), (Obj.AUX_STATUS.CYCLE_US, cycleUs d)]
def auxStatusClear (d : Dev) : Dev := d.uAux fun x => { x with openSeen := 0 }

end Sys2Proof.Machine
end

