-- ==== Sys2Proof/Machine/Security.lean ====
section
/-! DEFINITION. Security (chapter 21): the firmware store, images, keys, live update, debug and boundary scan, and the words of SEC_STATUS. The
verdicts of the cryptographic checks are operands of the commands that ask for them. -/

namespace Sys2Proof.Machine

/-! Slots and images (R485 to R488). -/

def slotAt (t s : Nat) (d : Dev) : Slot := at' (at' d.sec.slots t []) s {}
def putSlot' (t s : Nat) (x : Slot) (d : Dev) : Dev := d.uSec fun c => { c with slots := upd c.slots t fun l => put l s x }

/-- A copy of the slot state record is valid; the copies have 64 KiB (R486). -/
def slotRecValid (r : CalRec) : Bool := recValid 0x54534C53 65280 r

/-- The newest valid copy of the slot state record (R117, R486). -/
def newestRec (s : Sec) : Option Nat := recNewest s.rec0 s.rec1 (slotRecValid s.rec0) (slotRecValid s.rec1)

/-- The active slots that the slot state record names; slot A for every target where neither copy is valid (R486). -/
def recordActive (s : Sec) : List Nat :=
  match newestRec s with
  | some n => let bs := (if n = 1 then s.rec1 else s.rec0).body.flatMap bytesOfWord
              (List.range 6).map fun t => (bs.getD t 0).toNat
  | none => List.replicate 6 0

/-- The slot state record is committed with new active slots, in the copy that is not the newest (R116, R486). -/
def commitActive (active : List Nat) (s : Sec) : Sec :=
  let (n, seq) := recNext s.rec0 s.rec1 (newestRec s)
  let r := recSealed 0x54534C53 seq 6 (wordsOfNat 2 (packF8 active))
  if n = 1 then { s with active, rec1 := r } else { s with active, rec0 := r }
where packF8 : List Nat → Nat
  | [] => 0
  | b :: bs => b % 256 + 256 * packF8 bs

/-- The image in slot s of target t is valid (R488). Its signature and hashes were checked when it was written. -/
def slotValid (t s : Nat) (d : Dev) : Bool :=
  let x := slotAt t s d
  x.valid && decide (at' d.sec.svnFuse t 0 ≤ x.svn) && (if t < 4 then !x.cust else if t = 4 then x.cust && d.sec.custProv else x.cust == d.sec.custProv)

/-- The domain of an image target (0 Distaff, 1 to 4 the cores). -/
def targetDomain (t : Nat) : Nat := 1 + t

/-- A domain state of Table 20.12. -/
def setDomain (n v : Nat) (d : Dev) : Dev := d.uPwr fun p => { p with domState := put p.domState n v }

/-! An image header (Table 21.2), as the words a host buffer holds. -/
namespace Img
def w (ws : List Word) (i : Nat) : Nat := (ws.getD i 0).toNat
def target (ws : List Word) : Nat := bits (w ws 1) 23 16
def flags (ws : List Word) : Nat := bits (w ws 1) 31 24
def version (ws : List Word) : Nat := w ws 2
def svn (ws : List Word) : Nat := w ws 3
def bodyLen (ws : List Word) : Nat := w ws 4
def enc (ws : List Word) : Bool := bit (flags ws) 0
def cust (ws : List Word) : Bool := bit (flags ws) 1
/-- The header obeys Table 21.2. -/
def ok (ws : List Word) : Bool :=
  w ws 0 == 0x47494D41 && w ws 1 % 65536 == 1 && decide (target ws ≤ 5) && decide (flags ws < 4) && decide (svn ws ≤ 64) &&
  bodyLen ws % 16 == 0 && decide (16 ≤ bodyLen ws) && decide (bodyLen ws ≤ (if target ws = 5 then 1048064 else 2096640)) &&
  ((List.range 128).all fun i => w ws i == 0 || !(decide (5 ≤ i ∧ i < 8) || i == 23 || decide (52 ≤ i ∧ i < 64) || decide (88 ≤ i)))
end Img

/-- The verdict of R488 on an image for target t: sig, whether its key, signature, body hash and decryption verify. -/
def imageValid (t : Nat) (ws : List Word) (sig : Bool) (d : Dev) : Bool :=
  sig && Img.target ws == t && decide (at' d.sec.svnFuse t 0 ≤ Img.svn ws) && (!Img.enc ws || t == 4) &&
  (if t < 4 then !Img.cust ws else if t = 4 then Img.cust ws && d.sec.custProv else Img.cust ws == d.sec.custProv)

/-- A buffer command's payload (R331) breaks its form: LEN 3, ADDR a multiple of 4, LENGTH not 0. -/
def bufBad (t : Taken) : Bool := t.len != 3 || t.w 0 % 4 != 0 || t.w 2 == 0

/-- The slot that IMAGE_LOAD writes: the non-active one among A and B. -/
def loadSlot (t : Nat) (d : Dev) : Nat := if at' d.sec.active t 0 = 0 then 1 else 0

/-- IMAGE_LOAD (R494): the image's header is the buffer's first 128 words; sig, the verdict of the cryptographic checks. -/
def imageLoad (c : MnrCmd) (sig : Bool) (d : Dev) : Dev :=
  command Op.IMAGE_LOAD c (fun t d =>
    let tg := t.arg % 16
    let ws := c.buf
    let denied := !imageValid tg ws sig d
    match firstFail [(decide (6 ≤ t.arg) || bufBad t, St.BAD_FIELD, 0), (d.sec.load.isSome || d.sec.act.isSome, St.BUSY, 0), (!c.hostOk, St.HW_FAULT, 0),
        (!Img.ok ws || t.w 2 != 512 + Img.bodyLen ws, St.BAD_FIELD, 0), (denied, St.DENIED, 0)] with
    | some (s, x) => reject t s x (if s = St.DENIED then raise 481 d else d)
    | none =>
      let s := loadSlot tg d
      let d := putSlot' tg s {} d
      let d := d.uSec fun x => { x with load := some { target := tg, slot := s, version := Img.version ws, svn := Img.svn ws, cust := Img.cust ws, who := some t.who } }
      defer t.who 0 d) d

/-- The load in progress ends. -/
def loadEnds (status : Nat) (d : Dev) : Dev :=
  match d.sec.load with
  | none => d
  | some l =>
    let d := d.uSec fun s => { s with load := none }
    if status = St.OK then
      finish? l.who St.OK 0 [] (raise 480 (putSlot' l.target l.slot { valid := true, version := l.version, svn := l.svn, cust := l.cust } d))
    else finish? l.who status 0 [] d

/-- IMAGE_LOAD_DONE: the write of the image ends; ok, whether programming succeeded. -/
def imageLoadDone (ok : Bool) (d : Dev) : Dev := loadEnds (if ok then St.OK else St.HW_FAULT) d

/-! Live update (R495 to R497). -/

/-- The core that holds the duties of core n (R496); core 3 has none. -/
def siblingOf (n : Nat) : Option Nat := if n = 0 then some 1 else if n = 1 then some 2 else if n = 2 then some 1 else none

/-- The reset of core n: its epoch advances (R312), its claims are completed (R425), and core 3 loses its messages (R525). -/
def coreReset (n : Nat) (d : Dev) : Dev :=
  let d := noteReset n (d.uMbx fun x => { x with cpyEpoch := upd x.cpyEpoch n wrap16' })
  let d := icDo (.drop n) d
  if n = 3 then discardTo 3 (d.uSec fun s => { s with extRunning := false }) else d
where wrap16' (v : Nat) : Nat := wrap16 (v + 1)

/-- A core hands its mailboxes to its sibling (R315, R525). -/
def handOver (n : Nat) (d : Dev) : Dev :=
  match siblingOf n with
  | some s => moveMailboxes n s d
  | none => d

/-- Core n runs again: its mailboxes return. -/
def coreRuns (n : Nat) (d : Dev) : Dev :=
  let d := returnMailboxes n (setDomain (2 + n) 0 d)
  if n = 3 then d.uSec fun s => { s with extRunning := slotRuns s } else d
where slotRuns (s : Sec) : Bool := decide (at' s.running 4 3 < 3)

/-- IMAGE_ACTIVATE (R495). -/
def imageActivate (c : MnrCmd) (d : Dev) : Dev :=
  command Op.IMAGE_ACTIVATE c (fun t d =>
    let tg := t.arg % 16
    let s := (t.arg / 16) % 2
    let busy := d.sec.load.isSome || d.sec.act.isSome || (decide (tg < 5) && !d.runs (targetDomain tg))
    if 32 ≤ t.arg ∨ 6 ≤ tg then reject t St.BAD_FIELD 0 d
    else if at' d.sec.active tg 0 = s ∧ at' d.sec.running tg 3 = s then finish t.who St.OK 0 [] d
    -- an IMAGE_LOAD writes the slot (R500)
    else if (match d.sec.load with | some l => l.target == tg && l.slot == s | none => false) then reject t St.BUSY 0 d
    else if !slotValid tg s d then reject t St.BAD_FIELD 0 d
    else if busy then reject t St.BUSY 0 d
    else if tg = 5 then finish t.who St.OK 0 [] (d.uSec fun x => commitActive (put x.active 5 s) x)
    else
      let d := setDomain (targetDomain tg) 2 (d.uSec fun x => { x with act := some { target := tg, slot := s, who := some t.who } })
      let d := if tg = 0 then d else coreReset (tg - 1) (handOver (tg - 1) d)
      defer t.who 0 d) d

/-- CORE_READY: the new image reports ready; the record is committed and the fuse raised (R496, R497). -/
def coreReady (d : Dev) : Dev :=
  match d.sec.act with
  | none => d
  | some a =>
    if d.pwr.domState.getD (targetDomain a.target) 0 ≠ 2 then d
    else
      let x := slotAt a.target a.slot d
      let d := d.uSec fun s => { commitActive (put s.active a.target a.slot) s with
        act := none, running := put s.running a.target a.slot, version := put s.version a.target x.version
        svnFuse := upd s.svnFuse a.target (max x.svn) }
      let d := if a.target = 0 then setDomain 1 0 d else coreRuns (a.target - 1) d
      finish? a.who St.OK 0 [BitVec.ofNat 32 x.version] (raise 482 d)

/-- The activation in progress ends on the previous slot (R496): ABORTED, FALLBACK and interrupt 483. runs: whether the target runs again at
once. -/
def updateFails (runs : Bool) (d : Dev) : Dev :=
  match d.sec.act with
  | none => d
  | some a =>
    let d := d.uSec fun s => { s with act := none, fallback := setBit s.fallback a.target true }
    let d := if a.target = 0 then setDomain 1 0 d
      else
        let d := coreReset (a.target - 1) d
        if runs then coreRuns (a.target - 1) d else setDomain (targetDomain a.target) 1 d
    finish? a.who St.ABORTED 0 [] (raise 483 d)

/-- LIVE_UPDATE_TIMEOUT: the new image is not ready within 50 ms. -/
def liveUpdateTimeout (d : Dev) : Dev := updateFails true d

/-! Keys (R489, R490). -/

/-- A number of 32·n free bits, and the device after drawing them. -/
def freeBits : Nat → Dev → Nat × Dev
  | 0, d => (0, d)
  | n + 1, d => let r := freeBits n d.drawn; (d.free 32 + 4294967296 * r.1, r.2)

/-- KEY_PROVISION (R490). -/
def keyProvision (c : MnrCmd) (d : Dev) : Dev :=
  command Op.KEY_PROVISION c (fun t d =>
    let w := natOfWords c.buf
    checked t [(t.arg != 0 || bufBad t || t.w 2 != 96, St.BAD_FIELD, 0), (d.sec.custProv, St.DENIED, 0), (d.sec.keyProv.isSome, St.BUSY, 0), (!c.hostOk, St.HW_FAULT, 0),
        (decide (2 ≤ (w >>> 640) % 2 ^ 128), St.BAD_FIELD, 0)] (fun d =>
      defer t.who 0 (d.uSec fun s => { s with keyProv := some { hash := w % 2 ^ 384, aes := (w >>> 384) % 2 ^ 256, permLock := bit w 640, who := some t.who } })) d) d

/-- KEY_PROVISION_DONE: the fuses are programmed, CUST_PROV last; a fuse bit never returns to 0. -/
def keyProvisionDone (d : Dev) : Dev :=
  match d.sec.keyProv with
  | none => d
  | some k =>
    let d := d.uSec fun s => { s with keyProv := none, custProv := true, permLock := s.permLock || k.permLock, custHash := s.custHash ||| k.hash, custAes := s.custAes ||| k.aes }
    finish? k.who St.OK 0 [] (raise 487 d)

/-- A supply failure during KEY_PROVISION (R490): some of the fuses are programmed, which ones the manual leaves open, and CUST_PROV is not. The command ends ABORTED (R326; assumption log 113). -/
def keyProvisionCut (d : Dev) : Dev :=
  match d.sec.keyProv with
  | none => d
  | some k =>
    let (h, d) := freeBits 12 d
    let (a, d) := freeBits 8 d
    let lk := d.free 1
    finish? k.who St.ABORTED 0 [] <| d.drawn.uSec fun s => { s with keyProv := none, custHash := s.custHash ||| (k.hash &&& h), custAes := s.custAes ||| (k.aes &&& a), permLock := s.permLock || (k.permLock && lk == 1) }

/-! Debug and boundary scan (R498, R499). -/

/-- Distaff returns a nonce, which nothing fixes: a free value. -/
def issueNonce (d : Dev) : Dev :=
  let (n, d) := freeBits 8 d
  d.uSec fun s => { s with nonce := some n, attachWait := false }

/-- DEBUG_ATTACH: a debug attach request (R498, R500). -/
def debugAttach (d : Dev) : Dev :=
  if d.pwr.mode = .reset then d
  else
    let d := tapPulse 24 d
    if d.pwr.mode = .boot then d.uSec fun s => { s with attachWait := true } else issueNonce d

/-- DEBUG_RESPONSE: a signed response for a scope; sig, whether the signature verifies under the scope's key. -/
def debugResponse (scope : Nat) (sig : Bool) (d : Dev) : Dev :=
  match d.sec.nonce with
  | none => d
  | some _ =>
    let ok := sig && !d.sec.permLock && (scope == 1 || (scope == 0 && d.sec.custProv))
    if ok then raise 485 (d.uSec fun s => { s with nonce := none, dbgOpen := setBit s.dbgOpen scope true })
    else raise 486 (d.uSec fun s => { s with nonce := none })

/-- JTAG_INSTRUCTION: an instruction is loaded; one that drives balls acts as BYPASS unless SYS_RESET_L is low (R499). -/
def jtagInstruction (ir : Nat) (drives : Bool) (d : Dev) : Dev := d.uSec fun s => { s with jtagIr := ir, jtagBypass := drives && d.pwr.sysResetL }

/-! Boot (R491, R492), and words. -/

/-- The slot a target starts from: its active one, then the other, then F. -/
def bootSlot (t : Nat) (d : Dev) : Nat :=
  let a := at' d.sec.active t 0
  let other := if a = 0 then 1 else 0
  ((([a, other] ++ (if t < 4 then [2] else [])).find? fun s => slotValid t s d).getD 3)

/-- Distaff checks every image (R491, R492): none where Distaff or a core of 0 to 2 has no valid image. map: the body of the map image. -/
def bootImages (map : List Word) (d : Dev) : Option Dev :=
  let d := d.uSec fun s => { s with active := recordActive s }
  let run := (List.range 6).map fun t => bootSlot t d
  if (run.take 4).any fun s => s == 3 then none
  else
    let fell := packBits ((List.range 6).map fun t => at' run t 3 != 3 && at' run t 3 != at' d.sec.active t 0)
    let d := d.uSec fun s => { s with
      running := run, fallback := fell, mapLocked := true, extRunning := decide (at' run 4 3 < 3)
      version := mapIx (fun t r => if r = 3 then 0 else (slotAt t r d).version) run }
    let s5 := at' run 5 3
    some { d with objs := Sparse.set [] d.objs Obj.SEC_MAP.id (if s5 = 3 then [] else (map.take 4 ++ List.replicate (4 - map.length) 0) ++ [BitVec.ofNat 32 (slotAt 5 s5 d).version]) }

/-- DEV_INFO (R501). -/
def devInfo (c : MnrCmd) (d : Dev) : Dev :=
  command Op.DEV_INFO c (fun t d => checked t [(t.arg != 0, St.BAD_FIELD, 0)]
    (fun d => finish t.who St.OK 0 (BitVec.ofNat 32 0xB1 :: d.sec.version.map (BitVec.ofNat 32)) d) d) d

/-- The words of SEC_STATUS (Table 21.8). -/
def secStatusWords (d : Dev) : List Word :=
  let s := d.sec
  packF 10 (((List.range 6).flatMap fun t => [(Obj.SEC_STATUS.ACTIVE t, at' s.running t 3), (Obj.SEC_STATUS.VERSION t, at' s.version t 0), (Obj.SEC_STATUS.SVN t, at' s.svnFuse t 0)]) ++
    [(Obj.SEC_STATUS.FALLBACK, s.fallback), fb Obj.SEC_STATUS.CUST_PROV s.custProv, fb Obj.SEC_STATUS.DBG_PERM_LOCK s.permLock, (Obj.SEC_STATUS.DBG_OPEN, s.dbgOpen),
     (Obj.SEC_STATUS.VIOLATIONS, s.violations)])

end Sys2Proof.Machine
end

