-- ==== Sys2Proof/Machine/Shuttle.lean ====
section
/-! DEFINITION. Shuttle (chapter 15): moves and stops, linear interpolation, the generator, step inputs and outputs, stages and their faults,
limits, and Shuttle's objects. -/

namespace Sys2Proof.Machine

/-- The pacing unit owns axis n: from the brake to the start of line K_r (R351). -/
def paceOwned (n : Nat) (d : Dev) : Bool :=
  paceAxis d == some n && (d.pace.state == .braking || d.pace.state == .rewinding || d.pace.state == .parked || d.pace.state == .runUp || d.pace.state == .priming)

def vLimit (n : Nat) (d : Dev) : Nat := cfg (Obj.SHU_AXIS.V_LIMIT n) d
def aLimit (n : Nat) (d : Dev) : Nat := cfg (Obj.SHU_AXIS.A_LIMIT n) d
def softMin (n : Nat) (d : Dev) : Int := cfgS (Obj.SHU_AXIS.SOFT_MIN n) d
def softMax (n : Nat) (d : Dev) : Int := cfgS (Obj.SHU_AXIS.SOFT_MAX n) d
def inSoft (n : Nat) (p : Int) (d : Dev) : Bool := decide (softMin n d ≤ p) && decide (p ≤ softMax n d)

def sgn (i : Int) : Int := if i < 0 then -1 else if 0 < i then 1 else 0

/-- A limit input of the direction g of travel is asserted with LIM_EN = 1 (R350). -/
def limited (n : Nat) (g : Int) (d : Dev) : Bool :=
  cfgB (Obj.SHU_AXIS.LIM_EN n) d && ((decide (g < 0) && (axisAt n d).limIn.testBit 0) || (decide (0 < g) && (axisAt n d).limIn.testBit 1))

/-! Moves (R340 to R348). -/

/-- The position from which an appended move counts (R341). -/
def appendBase (n : Nat) (d : Dev) : Int :=
  let a := axisAt n d
  match a.q.getLast? with
  | some m => m.target
  | none => a.p

/-- The profile words of Tables 15.2 and R352 break their ranges. -/
def badProfile (n flags v acc dec jerk : Nat) (d : Dev) : Bool :=
  decide (8 ≤ flags) || decide (v = 0) || decide (vLimit n d < v) || decide (acc = 0) || decide (aLimit n d < acc) || decide (dec = 0) ||
    decide (aLimit n d < dec) || (bit flags 1 != decide (jerk ≠ 0))

/-- The move of a payload (Table 15.2). -/
def moveOf (t : Taken) (start target : Int) : Move :=
  { start, target, scurve := bit (t.w 2) 1, blend := bit (t.w 2) 2, vMax := t.w 3 * vUnit, acc := t.w 4 * aUnit, dec := t.w 5 * aUnit, jerk := t.w 6 * 256
    who := some t.who }

/-- POS of Table 15.2. -/
def movePos (t : Taken) : Int := toS 64 (t.w 0 + 4294967296 * t.w 1)

/-- The checks that both move commands share. -/
def moveChecks (n : Nat) (t : Taken) (d : Dev) : List (Bool × Nat × Nat) :=
  [(decide (4 ≤ t.arg) || t.len != 7, St.BAD_FIELD, 0), (axMode n d != 1, St.BAD_FIELD, 0),
   (badProfile n (t.w 2) (t.w 3) (t.w 4) (t.w 5) (t.w 6) d, St.BAD_FIELD, 0), (decide ((axisAt n d).fault ≠ 0), St.HW_FAULT, 0)]

/-- MOVE_APPEND (R340 to R342). -/
def moveAppend (c : MnrCmd) (d : Dev) : Dev :=
  command Op.MOVE_APPEND c (fun t d =>
    let n := t.arg % 4
    let base := appendBase n d
    let target := if bit (t.w 2) 0 then movePos t else base + movePos t
    checked t (moveChecks n t d ++ [(!inSoft n target d, St.BAD_FIELD, 0), (limited n (target - base) d, St.BAD_FIELD, 0),
        (decide (target ≠ base) && decide (32 ≤ (axisAt n d).q.length), St.BUSY, 0)]) (fun d =>
      if target = base then finish t.who St.OK 0 (posWords (axisAt n d).p) d
      else defer t.who 0 (updAxis n (fun a => { a with q := a.q ++ [moveOf t base target], appended := a.appended + 1 }) d)) d) d

/-- The distance of Table 15.3: what the axis travels from its present speed and acceleration before it rests under a move's ramp. -/
def overshoot (a : Axis) (m : Move) : Int :=
  let w := a.v.natAbs
  if m.scurve then sStop w (a.a * sgn a.v) 0 m.dec m.jerk else (rampDist w 0 m.dec none : Nat)

/-- A target that lies behind the axis in its direction of travel, or closer than the axis can stop (R347). -/
def mustRest (a : Axis) (m : Move) : Bool :=
  let left := sgn a.v * (m.target * xUnit - a.x)
  a.v != 0 && (decide (left ≤ 0) || decide (left < overshoot a m))

/-- The new target is that of the active move (R348). -/
def sameTarget (a : Axis) (target : Int) : Option Move :=
  match a.q with
  | m :: _ => if m.target = target ∧ m.lin.isNone ∧ a.v ≠ 0 ∧ a.rest = false ∧ a.stop.isNone then some m else none
  | [] => none

/-- MOVE_REPLACE (R346 to R348, R350, R351). -/
def moveReplace (c : MnrCmd) (d : Dev) : Dev :=
  command Op.MOVE_REPLACE c (fun t d =>
    let n := t.arg % 4
    let a := axisAt n d
    let target := if bit (t.w 2) 0 then movePos t else a.p + movePos t
    let m := moveOf t a.p target
    -- a stop that a limit input holds comes first (Table 15.5); any other stop gives way to the new move (R346)
    let held := limited n (sgn a.v) d && a.stop.isSome
    let old := sameTarget a target
    let m := match old with
      | some o => if sgn a.v * (target * xUnit - a.x) < overshoot a m then { m with dec := max o.dec m.dec, clamped := true } else m
      | none => m
    let left := sgn a.v * (target * xUnit - a.x)
    -- with the greater DEC the ramp of R348 ends on the target, but for a move that was to pass it at speed
    let rest := !held && (if old.isSome then decide (left + xUnit < overshoot a m) else mustRest a m)
    let restAt := (a.x + sgn a.v * overshoot a m + xUnit / 2) / xUnit
    let still := (!bit (t.w 2) 0 && decide (movePos t = 0)) || (decide (target = a.p) && a.atRest)
    checked t (moveChecks n t d ++ [(paceOwned n d, St.BUSY, 0), (!inSoft n target d, St.BAD_FIELD, 0),
        (!still && limited n (target - a.p) d, St.BAD_FIELD, 0), (!still && rest && !inSoft n restAt d, St.BAD_FIELD, 0)]) (fun d =>
      if still then finish t.who St.OK 0 (posWords a.p) d
      else
        let d := dropQueue n St.ABORTED false d
        defer t.who 0 (updAxis n (fun b => { b with q := [m], rest, restAt, stop := if held then b.stop else none, vsatMove := false, appended := 0
                                                    replaced := true }) d)) d) d

/-- AXIS_STOP (R349). -/
def axisStop (c : MnrCmd) (d : Dev) : Dev :=
  command Op.AXIS_STOP c (fun t d =>
    let ns := maskIx t.arg 4
    checked t [(decide (t.arg = 0) || decide (16 ≤ t.arg), St.BAD_FIELD, 0), (ns.any fun n => paceOwned n d, St.BUSY, 0)] (fun d =>
      let d := each ns (fun n d => stopAxis n St.ABORTED d) d
      if ns.all fun n => (axisAt n d).atRest then finish t.who St.OK 0 [] d
      else defer t.who 0 (d.uShu fun s => { s with stops := s.stops ++ [(t.who, t.arg)] })) d) d

/-! Linear interpolation (R352). -/

/-- The axis with the largest distance, the lowest-numbered among equals. -/
def leadAxis (dist : Nat → Nat) (ns : List Nat) : Nat := ns.foldl (fun b n => if dist b < dist n then n else b) (ns.headD 0)

/-- The profile factor as a fraction: 1, or the largest with which every axis fits its limits. -/
def fitFactor (ns : List Nat) (dist : Nat → Nat) (top v acc dec : Nat) (d : Dev) : Rat :=
  ns.foldl (fun f n =>
    if dist n = 0 then f
    else
      let r : Rat := (top : Rat) / (dist n : Rat)
      min f (min (r * vLimit n d / v) (min (r * aLimit n d / acc) (r * aLimit n d / dec)))) 1

/-- A linear move with its profile scaled by f, for an axis whose distance is di where the largest is top (R352). -/
def Move.scaled (f : Rat) (di top : Nat) (m : Move) : Move :=
  let s (x : Nat) : Nat := max 1 (f * (x : Nat)).floor.toNat
  { m with vMax := s (m.given.getD 0 0 * vUnit), acc := s (m.given.getD 1 0 * aUnit), dec := s (m.given.getD 2 0 * aUnit)
           jerk := if m.scurve then max 1 (s (m.given.getD 3 0 * 256) * di / max 1 top) else 0, clamped := decide (f < 1) }

/-- MOVE_LINEAR (R352). -/
def moveLinear (c : MnrCmd) (d : Dev) : Dev :=
  command Op.MOVE_LINEAR c (fun t d =>
    let ns := maskIx t.arg 4
    let pos (n : Nat) : Int := toS 64 (t.w (5 + 2 * n) + 4294967296 * t.w (6 + 2 * n))
    let target (n : Nat) : Int := if bit (t.w 0) 0 then pos n else appendBase n d + pos n
    let dst (n : Nat) : Nat := (target n - appendBase n d).natAbs
    let lead := leadAxis dst ns
    let scanAxis : Bool := match paceAxis d with | some n => d.inMode [.scan, .hold] && ns.contains n | none => false
    checked t [(decide (16 ≤ t.arg) || decide (ns.length < 2) || t.len != 13, St.BAD_FIELD, 0),
        ((List.range 4).any fun n => !ns.contains n && decide (pos n ≠ 0), St.BAD_FIELD, 0), (ns.any fun n => axMode n d != 1, St.BAD_FIELD, 0),
        (bit (t.w 0) 2 || badProfile lead (t.w 0) (t.w 1) (t.w 2) (t.w 3) (t.w 4) d, St.BAD_FIELD, 0), (scanAxis, St.BAD_FIELD, 0),
        (ns.any fun n => decide ((axisAt n d).fault ≠ 0), St.HW_FAULT, 0), (ns.any fun n => !inSoft n (target n) d, St.BAD_FIELD, 0),
        (ns.any fun n => limited n (target n - appendBase n d) d, St.BAD_FIELD, 0),
        (decide (dst lead ≠ 0) && ns.any fun n => decide (32 ≤ (axisAt n d).q.length), St.BUSY, 0)] (fun d =>
      if dst lead = 0 then finish t.who St.OK 0 [] d
      else
        let f := fitFactor ns dst (dst lead) (t.w 1) (t.w 2) (t.w 3) d
        let clamped := decide (f < 1)
        let l := d.shu.linNo
        let mk (n : Nat) : Move :=
          { start := appendBase n d, target := target n, scurve := bit (t.w 0) 1, vMax := 0, acc := 0, dec := 0, who := none, lin := some l
            given := [t.w 1, t.w 2, t.w 3, t.w 4] : Move }.scaled f (dst n) (dst lead)
        let d := each (ns.map fun n => (n, mk n)) (fun x d => updAxis x.1 (fun a => { a with q := a.q ++ [x.2] }) d) d
        defer t.who 0 (d.uShu fun s => { s with lins := s.lins ++ [(l, t.arg, some t.who, clamped)], linNo := l + 1 })) d) d

/-! The generator (R343, R349, R351, R355). -/

/-- The axis comes to rest at the microstep it has reached. -/
def restHere (g : Int) (x : Int) (a : Axis) : Axis :=
  let p := if g < 0 then -((-x) / xUnit) else x / xUnit
  { a with x := p * xUnit, v := 0, a := 0, pv := 0, pa := 0 }

/-- The queue of an axis is empty and it is at rest: interrupt 352 + n, and the stops that waited for it. -/
def axisRested (n : Nat) (d : Dev) : Dev :=
  let d := if holdsReduced n d then reduceCurrent n d else d
  stopsDone (if (axisAt n d).q.isEmpty then raise (352 + n) d else d)

/-- One update of a stop ramp; done: what changes once at rest. -/
def genStop (n : Nat) (r : StopRamp) (done : Axis → Axis) (d : Dev) : Dev :=
  let a := axisAt n d
  let g := sgn a.v
  let (w, al) := stopStep r a.v.natAbs (a.a * g)
  let x := a.x + g * ((a.v.natAbs : Int) + w)
  if w = 0 then axisRested n (updAxis n (fun b => done (restHere g x b)) d)
  else updAxis n (fun b => { b with x, v := g * w, a := g * al, pv := g * w, pa := g * al }) d

/-- The axis runs its active move under the pacing unit's factor (R351). -/
def pacedNow (n : Nat) (d : Dev) : Bool := paceAxis d == some n && d.pwr.mode == .scan

/-- A queue whose active move counts from p. -/
def headFrom (p : Int) (q : List Move) : List Move := match q with | m :: ms => { m with start := p } :: ms | [] => []

/-- One update under a move's profile: the new axis, and whether the target is reached. Under the pacing unit v is the speed that the move's
own ramps give, limited to V_MAX times the factor (R351, paced); a move whose ramps reach its target in the update in which the factor is 0 ends there
(Table 15.5). -/
def genProfile (n : Nat) (m : Move) (q : List Move) (paced : Bool) (d : Dev) : Axis × Bool :=
  let a := axisAt n d
  let g := if m.target * xUnit < a.x then -1 else 1
  let left := (m.target * xUnit - a.x).natAbs
  let v := a.v * g
  let w := if paced then a.pv * g else v
  let al := if paced then a.pa * g else a.a * g
  -- the direction of the active move is that from where it is (R344)
  let vx := exitSpeed (headFrom (m.target - g) q) v.toNat left
  let (w1, al) := profileStep m w al left vx m.vMax
  let v1 := if paced then min w1 ((m.vMax * d.pace.factor / 65536 : Nat) : Int) else w1
  let still := decide (v = 0 ∧ w1 = 0 ∧ left ≤ 2) || (paced && d.pace.factor == 0 && decide ((left : Int) ≤ v + w1))
  if (left : Int) ≤ v + v1 ∨ still = true then
    if 0 < vx ∧ 0 < v1 then ({ a with x := a.x + g * (v + v1), v := g * v1, a := g * (v1 - v), pv := g * w1, pa := g * al }, true)
    else ({ a with x := m.target * xUnit, v := 0, a := 0, pv := 0, pa := 0 }, true)
  else ({ a with x := a.x + g * (v + v1), v := g * v1, a := if paced then g * (v1 - v) else g * al, pv := g * w1, pa := g * al }, false)

/-- The current of a resting axis is below I_RUN or on its way back to it: the move waits (R357). -/
def currentReady (n : Nat) (d : Dev) : Bool × Dev :=
  let a := axisAt n d
  if a.v ≠ 0 then (true, d)
  else if a.reduced then (false, updAxis n (fun b => { b with reduced := false, rampTo := cfg (Obj.SHU_AXIS.I_RUN n) d, rampLeft := 8 }) d)
  else (decide (a.rampLeft = 0), d)

/-- The active move of axis n ends. -/
def moveEnds (n : Nat) (m : Move) (a : Axis) (d : Dev) : Dev :=
  let d := updAxis n (fun _ => { a with q := a.q.drop 1, vsatMove := false }) d
  let d := endMove n m (if m.clamped then St.CLAMPED else St.OK) d
  if a.v = 0 then axisRested n d else d

/-- One update of the active move of axis n, which is no linear move. -/
def genMove (n : Nat) (m : Move) (d : Dev) : Dev :=
  let a := axisAt n d
  if a.rest then
    -- the rest of Table 15.3: what the steps of 1 µs leave of it is less than two microsteps
    genStop n { dec := m.dec, jerk := if m.scurve then some m.jerk else none, commanded := false, taper := true }
      (fun b => { b with rest := false, x := if (b.x - b.restAt * xUnit).natAbs ≤ 2 * xUnit then b.restAt * xUnit else b.x }) d
  else
    let (ready, d) := currentReady n d
    if ready then
      -- a move that reaches rest in this update does not blend into one appended in it (Table 15.5)
      let (b, done) := genProfile n m (a.q.take (a.q.length - a.appended)) (pacedNow n d) d
      let (b, done) := if done && b.v == 0 then (b, done) else genProfile n m a.q (pacedNow n d) d
      if done then moveEnds n m b d else updAxis n (fun _ => b) d
    else d

/-- The distance of the active move of axis i. -/
def activeDist (d : Dev) (i : Nat) : Nat := match (axisAt i d).q with | h :: _ => (h.target - h.start).natAbs | [] => 0

/-- Where the active linear move of axis i lies when its leading axis is at xl of a move from start over total microsteps (R352). -/
def onLine (i : Nat) (xl start total : Int) (d : Dev) : Int :=
  match (axisAt i d).q with
  | h :: _ => h.start * xUnit + (h.target - h.start) * (xl - start * xUnit) / total
  | [] => (axisAt i d).x

/-- Linear move l starts from where its axes rest: their distances, and with them the scaled profile, are those from there (R352). -/
def relayLinear (l : Nat) (ns : List Nat) (d : Dev) : Dev :=
  let dst (i : Nat) : Nat := match (axisAt i d).q with | h :: _ => (h.target - (axisAt i d).p).natAbs | [] => 0
  let top := dst (leadAxis dst ns)
  let g := match (axisAt (ns.headD 0) d).q with | h :: _ => h.given | [] => []
  let f := if top = 0 then 1 else fitFactor ns dst top (g.getD 0 0) (g.getD 1 0) (g.getD 2 0) d
  let d := each ns (fun i d => updAxis i (fun a => match a.q with
    | h :: hs => { a with q := { h with start := a.p }.scaled f (dst i) top :: hs }
    | [] => a) d) d
  d.uShu fun s => { s with lins := s.lins.map fun x => if x.1 = l then (x.1, x.2.1, x.2.2.1, decide (f < 1)) else x }

/-- One update of linear move l, led by axis n: the other axes follow the same timing, scaled by their distances (R352). It starts from where its
axes rest, also where they were still stopping when it was queued; an axis that it cannot go on moving, because another one was stopped, stops at
STOP_DEC (assumption log 123). Where the pacing unit's axis is one of them, the move is scaled by the factor (R351). -/
def genLinear (n l mask : Nat) (m : Move) (d : Dev) : Dev :=
  let ns := maskIx mask 4
  let here := ns.all fun i => ((axisAt i d).q.head?.bind (·.lin)) == some l && (axisAt i d).stop.isNone && (axisAt i d).paceMove.isNone && !paceOwned i d
  let lead := leadAxis (activeDist d) ns
  let off := match (axisAt lead d).q with
    | h :: _ => ns.any fun i => (axisAt i d).x != onLine i (axisAt lead d).x h.start (h.target - h.start) d
    | [] => false
  let d := if here && off && (ns.all fun i => (axisAt i d).atRest) then relayLinear l ns d else d
  let m := (axisAt n d).q.headD m
  if !here then
    (if (axisAt n d).atRest then d else updAxis n (fun b => { b with stop := some { stopRamp n d with commanded := false } }) d)
  else if leadAxis (activeDist d) ns == n then
    let moving := (axisAt n d).v != 0
    let (ready, d) := if moving then (true, d) else ns.foldl (fun (r : Bool × Dev) i => let (ok, d) := currentReady i r.2; (r.1 && ok, d)) (true, d)
    if ready then
      let (b, done) := genProfile n m [m] (ns.any fun i => pacedNow i d) d
      let total := m.target - m.start
      let follow (i : Nat) (d : Dev) : Dev :=
        if i = n then updAxis n (fun _ => b) d
        else updAxis i (fun a => match a.q with
          | h :: _ => let di := h.target - h.start
                      { a with x := onLine i b.x m.start total d, v := b.v * di / total, a := b.a * di / total }
          | [] => a) d
      let d := each ns follow d
      if done then
        let d := each ns (fun i d => match (axisAt i d).q with
          | h :: _ => moveEnds i h { axisAt i d with x := h.target * xUnit, v := 0, a := 0 } d
          | [] => d) d
        endLinear l St.OK d
      else d
    else d
  else d

/-- One update of a step-input axis (R354), which runs neither into a limit nor in SAFE and CALIBRATE (assumption log 103), nor with a fault
(R358): p follows p_in at the mean rate of the last two input periods, at most at V_LIMIT. -/
def genStep (n : Nat) (d : Dev) : Dev :=
  let a := axisAt n d
  let step : Int := 2 ^ (8 - cfg (Obj.SHU_AXIS.IN_RES n) d)
  let goal := a.pIn * xUnit
  let lim := vLimit n d * vUnit
  let rate := match a.inT with
    | t0 :: _ :: t2 :: _ => (2 * step.toNat * 16000000000 * vUnit) / max 1 (t0 - t2)
    | t0 :: t1 :: _ => (step.toNat * 16000000000 * vUnit) / max 1 (t0 - t1)
    | _ => lim
  let lag := (goal - a.x).natAbs
  let w := if step * xUnit < lag then lim else min lim rate
  let g := sgn (goal - a.x)
  let there := lag ≤ 2 * w
  let x := if there then goal else a.x + g * (2 * w : Nat)
  let late := decide (step * xUnit < (goal - x).natAbs)
  let d := updAxis n (fun b => { b with x, v := if there then 0 else g * w, a := 0, inputLag := late
                                        reduced := if lag = 0 then b.reduced else false
                                        rampTo := if b.reduced && lag != 0 then cfg (Obj.SHU_AXIS.I_RUN n) d else b.rampTo
                                        rampLeft := if b.reduced && lag != 0 then 8 else b.rampLeft }) d
  if late && !a.inputLag then raise 365 d else d

/-- The pulses of k output steps that an axis makes in the update that ends at t (R355): each at the instant of its step, but not before
DIR_SETUP has passed since DIRn changed, nor closer than 2·STEP_W to the pulse before it. -/
def stepPulses (k t width setup : Nat) (dirAt : Nat) (last : Option Pulse) : List Pulse :=
  ((List.range k).foldl (fun (r : List Pulse × Option Pulse) i =>
    let free := match r.2 with | some p => p.at_ + 32 * p.ns | none => 0
    let p : Pulse := { at_ := max (t - 16000 + 16000 * (i + 1) / (k + 1)) (max (dirAt + 16 * setup) free), ns := width }
    (r.1 ++ [p], some p)) ([], last)).1

/-- STEPn and DIRn of axes 2 and 3 follow p (R355): one pulse for each multiple of the output step that p crosses, spread evenly over the
update (assumption log 20). -/
def stepOutput (n t : Nat) (before : Int) (d : Dev) : Dev :=
  let p := (axisAt n d).p
  let m : Int := 2 ^ (8 - cfg (Obj.SHU_AXIS.OUT_RES n) d)
  let k := (p / m - before / m).natAbs
  if n < 2 ∨ k = 0 then d
  else updAxis n (fun a =>
    let dir := decide (p < before) != cfgB (Obj.SHU_AXIS.DIR_INV n) d
    let dirAt := if dir = a.dirOut then a.dirAt else t - 16000
    { a with dirOut := dir, dirAt
             stepOut := stepPulses k t (cfg (Obj.SHU_AXIS.STEP_W n) d) (cfg (Obj.SHU_AXIS.DIR_SETUP n) d) dirAt a.stepOut.getLast? }) d

/-- The direction of travel of axis n: that of its motion, else that of the move it is about to run; a suspended queue runs none (R351). -/
def travelDir (n : Nat) (d : Dev) : Int :=
  let a := axisAt n d
  if a.v ≠ 0 then sgn a.v
  else match a.paceMove, a.q with
    | some m, _ => sgn (m.target * xUnit - a.x)
    | none, m :: _ => if paceOwned n d then 0 else sgn (m.target * xUnit - a.x)
    | none, [] => 0

/-- A limit input of the direction of travel stops axis n as AXIS_STOP does (R350). A move that replaced the others in this update, away from the
limit, runs after the stop (Table 15.5). -/
def limitStop (n : Nat) (d : Dev) : Dev :=
  let a := axisAt n d
  let g := travelDir n d
  if limited n g d then
    let b := if g < 0 then 0 else 1
    let away : List Move := if a.replaced then (a.q.take 1).filter fun m => decide (g * (m.target * xUnit - a.x) < 0) else []
    let ramp := stopRamp n d
    let d := raise (360 + n) (updAxis n (fun a => { a with limit := setBit a.limit b true, q := a.q.drop away.length }) d)
    let d := updAxis n (fun a => { a with q := away }) (stopWith ramp n St.ABORTED d)
    stopsDone d
  else d

/-- A limit input stops the axis once: while it runs down, the stop of R350 is under way. -/
def limitHolds (n : Nat) (d : Dev) : Dev :=
  match (axisAt n d).stop with
  | some r => if r.commanded then d else limitStop n d
  | none => limitStop n d

/-- One update of axis n. -/
def genAxis (n : Nat) (d : Dev) : Dev :=
  let d := limitHolds n d
  let a := axisAt n d
  let d := updAxis n (fun b => { b with replaced := false }) d
  let d :=
    if axMode n d = 0 then d
    else match a.stop with
      | some r => if a.v = 0 then updAxis n (fun b => { b with stop := none }) d else genStop n r (fun b => { b with stop := none }) d
      | none =>
        if axMode n d = 2 then (if d.inMode [.safe, .calibrate] || decide (a.fault ≠ 0) || limited n (sgn (a.pIn * xUnit - a.x)) d then d else genStep n d)
        else match a.paceMove with
          | some m =>
            if m.target * xUnit = a.x ∧ a.v = 0 then d
            else
              let (ready, d) := currentReady n d
              if ready then updAxis n (fun _ => (genProfile n m [m] false d).1) d else d
          | none =>
            if paceOwned n d then d
            else match a.q with
              | [] => if a.v = 0 then d else updAxis n (fun b => { b with stop := some { dec := stopDec n d, commanded := false } }) d
              | m :: _ =>
                match m.lin with
                | none => genMove n m d
                | some l => match d.shu.lins.find? fun x => x.1 == l with
                  | some (_, mask, _, _) => genLinear n l mask m d
                  | none => d
  updAxis n (fun b => { b with appended := 0 }) d

/-! Stage faults (R358). -/

/-- A fault turns the bridge of axis n off: the position is unknown, which for the scan source is a scan-source fault. -/
def faultBridgeOff (n : Nat) (d : Dev) : Dev :=
  let was := (axisAt n d).bridge
  let d := bridgeOff n d
  if was && srcAxis d == some n then scanFault (356 + n) d else d

/-- Fault b of Table 15.4 arises on axis n; off: the bridge turns off, else the axis stops at STOP_DEC. -/
def stageFault (n b : Nat) (off : Bool) (d : Dev) : Dev :=
  if (axisAt n d).fault.testBit b then d
  else
    let d := raise (356 + n) (updAxis n (fun a => { a with fault := setBit a.fault b true }) d)
    let d := if off then halted n (axisAt n d) (dropMoves n St.HW_FAULT false (faultBridgeOff n d)) else stopAxis n St.HW_FAULT d
    stopsDone (faultRaise 7 (356 + n) none St.HW_FAULT d)

/-- A cause of a fault is present or has gone. -/
def setCause (n b : Nat) (v : Bool) (d : Dev) : Dev := updAxis n (fun a => { a with cause := setBit a.cause b v }) d

/-- While FLTn_L is low with FLT_EN = 1 the axis is in driver fault, whatever its MODE (R355); no further step pulse follows. -/
def driverFault (n : Nat) (d : Dev) : Dev :=
  let a := axisAt n d
  if decide (2 ≤ n) && d.runs 12 && !d.inMode [.reset, .boot, .sleep] && a.cause.testBit 5 && cfgB (Obj.SHU_AXIS.FLT_EN n) d && !a.fault.testBit 5 then
    halted n a (stageFault n 5 false (updAxis n (fun a => { restHere (sgn a.v) a.x a with stop := none, rest := false, paceMove := none }) d))
  else d

/-! The update of every axis. -/

/-- SHU_GEN_UPDATE at instant t: an axis whose driver shows a fault takes it, every axis is updated, step outputs pulse, and P follows the axis that is the scan source. -/
def shuGenUpdate (t : Nat) (d : Dev) : Dev :=
  if d.inMode [.reset, .boot, .sleep] then d
  else
    let before := (List.range 4).map fun n => (axisAt n d).p
    let d := (each (List.range 4) genAxis (each [2, 3] driverFault (d.at_ t))).uShu fun s => { s with genAt := t }
    let d := each (List.range 4) (fun n d => stepOutput n t (before.getD n 0) d) d
    if (srcAxis d).isSome then sourceMoved t (followShuttle t d) else d

/-! Stages (R353, R356, R357). -/

/-- W[j] of SHU_WAVE (R353). -/
def waveW (j : Nat) (d : Dev) : Nat :=
  let ws := liveWords Obj.SHU_WAVE.id d
  if ws = [] then defaultWave.getD j 0 else getBits ws (16 * j) 9
where
  /-- round(256 sin(πj/512)), j = 0 to 256 (Table 15.8). -/
  defaultWave : List Nat := 
    [0, 2, 3, 5, 6, 8, 9, 11, 13, 14, 16, 17, 19, 20, 22, 24, 25, 27, 28, 30, 31, 33, 34, 36, 38, 39, 41, 42, 44, 45, 47, 48, 50, 51, 53, 55, 56, 58, 59, 61] ++
    [62, 64, 65, 67, 68, 70, 71, 73, 74, 76, 77, 79, 80, 82, 83, 85, 86, 88, 89, 91, 92, 94, 95, 97, 98, 99, 101, 102, 104, 105, 107, 108, 109, 111, 112, 114, 115, 117, 118, 119] ++
    [121, 122, 123, 125, 126, 128, 129, 130, 132, 133, 134, 136, 137, 138, 140, 141, 142, 144, 145, 146, 147, 149, 150, 151, 152, 154, 155, 156, 157, 159, 160, 161, 162, 164, 165, 166, 167, 168, 170, 171] ++
    [172, 173, 174, 175, 177, 178, 179, 180, 181, 182, 183, 184, 185, 186, 188, 189, 190, 191, 192, 193, 194, 195, 196, 197, 198, 199, 200, 201, 202, 203, 204, 205, 206, 207, 207, 208, 209, 210, 211, 212] ++
    [213, 214, 215, 215, 216, 217, 218, 219, 220, 220, 221, 222, 223, 224, 224, 225, 226, 227, 227, 228, 229, 229, 230, 231, 231, 232, 233, 233, 234, 235, 235, 236, 237, 237, 238, 238, 239, 239, 240, 241] ++
    [241, 242, 242, 243, 243, 244, 244, 245, 245, 245, 246, 246, 247, 247, 248, 248, 248, 249, 249, 249, 250, 250, 250, 251, 251, 251, 252, 252, 252, 252, 253, 253, 253, 253, 254, 254, 254, 254, 254, 255] ++
    [255, 255, 255, 255, 255, 255, 256, 256, 256, 256, 256, 256, 256, 256, 256, 256, 256]

/-- QW(k), times 256 (R353). -/
def quarterWave (k : Nat) (d : Dev) : Int :=
  let c : Int := ((k % 1024 : Nat) : Int) - 512
  let c := (c.natAbs : Int) - 256
  if c < 0 then -(waveW c.natAbs d : Int) else waveW c.natAbs d

/-- round(10^15 sin(πj/512)), j = 0 to 256: sin and cos of the electrical angle for the feed-forward of R356, to 15 digits. -/
def sineTable : List Nat :=
    [0, 6135884649154, 12271538285720, 18406729905805, 24541228522912, 30674803176637, 36807222941359, 42938256934941, 49067674327418, 55195244349690, 61320736302209, 67443919563664, 73564563599667, 79682437971430, 85797312344440, 91908956497133] ++
    [98017140329561, 104121633872055, 110222207293883, 116318630911905, 122410675199216, 128498110793793, 134580708507126, 140658239332849, 146730474455362, 152797185258443, 158858143333861, 164913120489970, 170961888760301, 177004220412149, 183039887955141, 189068664149806] ++
    [195090322016128, 201104634842092, 207111376192219, 213110319916091, 219101240156870, 225083911359793, 231058108280671, 237023605994367, 242980179903264, 248927605745720, 254865659604515, 260794117915276, 266712757474898, 272621355449949, 278519689385053, 284407537211272] ++
    [290284677254462, 296150888243624, 302005949319228, 307849640041535, 313681740398891, 319502030816016, 325310292162263, 331106305759876, 336889853392220, 342660717311994, 348418680249435, 354163525420490, 359895036534988, 365612997804774, 371317193951838, 377007410216418] ++
    [382683432365090, 388345046698826, 393992040061048, 399624199845647, 405241314004990, 410843171057904, 416429560097637, 422000270799800, 427555093430282, 433093818853152, 438616238538528, 444122144570429, 449611329654607, 455083587126344, 460538710958240, 465976495767966] ++
    [471396736825998, 476799230063322, 482183772079123, 487550160148436, 492898192229784, 498227666972782, 503538383725718, 508830142543107, 514102744193222, 519355990165590, 524589682678469, 529803624686295, 534997619887097, 540171472729893, 545324988422046, 550457972936605] ++
    [555570233019602, 560661576197336, 565731810783613, 570780745886967, 575808191417845, 580813958095765, 585797857456439, 590759701858874, 595699304492433, 600616479383869, 605511041404326, 610382806276309, 615231590580627, 620057211763289, 624859488142386, 629638238914927] ++
    [634393284163645, 639124444863776, 643831542889791, 648514401022112, 653172842953777, 657806693297079, 662415777590172, 666999922303638, 671558954847018, 676092703575316, 680600997795453, 685083667772700, 689540544737067, 693971460889654, 698376249408973, 702754744457225] ++
    [707106781186548, 711432195745216, 715730825283819, 720002507961382, 724247082951467, 728464390448225, 732654271672413, 736816568877370, 740951125354959, 745057785441466, 749136394523459, 753186799043612, 757208846506485, 761202385484262, 765167265622459, 769103337645580] ++
    [773010453362737, 776888465673232, 780737228572094, 784556597155575, 788346427626606, 792106577300212, 795836904608884, 799537269107905, 803207531480645, 806847553543799, 810457198252595, 814036329705948, 817584813151584, 821102514991105, 824589302785025, 828045045257756] ++
    [831469612302545, 834862874986380, 838224705554838, 841554977436898, 844853565249707, 848120344803297, 851355193105265, 854557988365401, 857728610000272, 860866938637767, 863972856121587, 867046245515693, 870086991108711, 873094978418290, 876070094195407, 879012226428633] ++
    [881921264348355, 884797098430938, 887639620402854, 890448723244758, 893224301195515, 895966249756185, 898674465693954, 901348847046022, 903989293123443, 906595704514915, 909167983090522, 911706032005430, 914209755703531, 916679059921043, 919113851690058, 921514039342042] ++
    [923879532511287, 926210242138311, 928506080473216, 930766961078984, 932992798834739, 935183509938948, 937339011912575, 939459223602190, 941544065183021, 943593458161960, 945607325380521, 947585591017741, 949528180593037, 951435020969008, 953306040354194, 955141168305771] ++
    [956940335732209, 958703474895872, 960430519415566, 962121404269042, 963776065795440, 965394441697689, 966976471044852, 968522094274417, 970031253194544, 971503890986252, 972939952205560, 974339382785576, 975702130038529, 977028142657754, 978317370719628, 979569765685441] ++
    [980785280403230, 981963869109555, 983105487431216, 984210092386929, 985277642388941, 986308097244599, 987301418157858, 988257567730749, 989176509964781, 990058210262297, 990902635427780, 991709753669100, 992479534598710, 993211949234795, 993906970002356, 994564570734255] ++
    [995184726672197, 995767414467660, 996312612182778, 996820299291166, 997290456678690, 997723066644192, 998118112900149, 998475580573295, 998795456205172, 999077727752645, 999322384588350, 999529417501093, 999698818696204, 999830581795823, 999924701839145, 999981175282601] ++
    [1000000000000000]

/-- cos θ of the electrical angle k, θ = 2πk/1,024 (R356). -/
def cosAt (k : Nat) : Rat :=
  let c : Int := ((k % 1024 : Nat) : Int) - 512
  let c := (c.natAbs : Int) - 256
  ((if c < 0 then -(sineTable.getD c.natAbs 0 : Int) else sineTable.getD c.natAbs 0 : Int) : Rat) / 1000000000000000

/-- sin θ (R356). -/
def sinAt (k : Nat) : Rat := cosAt (k + 768)

/-- HOLD_CURRENT_REDUCE: HOLD_DELAY ms have passed on axis n without a microstep. -/
def holdCurrentReduce (n : Nat) (d : Dev) : Dev := reduceCurrent n d

/-- The duty of a phase: U / VIN, limited to ±1, from µV and mV. -/
def dutyOf (u : Rat) (vin : Nat) : Rat × Bool :=
  let r := if vin = 0 then 0 else u / (1000 * vin)
  if 1 < r then (1, true) else if r < -1 then (-1, true) else (r, false)

/-- STAGE_PWM_PERIOD of axis n: VIN in mV and the measured current amplitude in mA. -/
def stagePwmPeriod (n vin cur : Nat) (d : Dev) : Dev :=
  if 2 ≤ n then d
  else
    let a := axisAt n d
    let i := if a.rampLeft = 0 then a.cur else ((a.cur : Int) + ((a.rampTo : Int) - a.cur) / a.rampLeft).toNat
    let k := ofS 10 a.p
    let iA : Rat := (i : Rat) * quarterWave k d / 256
    let iB : Rat := (i : Rat) * quarterWave (k + 768) d / 256
    let inv : Rat := if cfgB (Obj.SHU_AXIS.DIR_INV n) d then -1 else 1
    let w : Rat := 2 * 314159265358979 / 100000000000000 * (a.v : Rat) / (vUnit : Rat) / 1024
    let e : Rat := w * ((cfg (Obj.SHU_AXIS.L_COIL n) d : Rat) * i / 1000 + cfg (Obj.SHU_AXIS.K_BEMF n) d)
    let e := if cfgB (Obj.SHU_AXIS.FF_EN n) d then e else 0
    let r : Rat := cfg (Obj.SHU_AXIS.R_COIL n) d
    let (dA, sA) := dutyOf (r * iA - e * sinAt k) vin
    let (dB, sB) := dutyOf (inv * (r * iB + e * cosAt k)) vin
    let sat := a.bridge && (sA || sB)
    let d := updAxis n (fun b => { b with
      vin, curAct := min 8191 cur, cur := i, rampLeft := b.rampLeft - 1
      dutyA := if b.bridge then dA else 0, dutyB := if b.bridge then dB else 0
      vsat := b.vsat || sat, vsatMove := b.vsatMove || sat
      cause := if 4300 ≤ vin then setBit b.cause 3 false else b.cause }) d
    if sat && !a.vsatMove then raise 366 d else d

/-- STEP_INPUT_EDGE: a rising edge of SIN_STEPn at instant t, with SIN_DIRn up or not (R354). -/
def stepInputEdge (n t : Nat) (up : Bool) (d : Dev) : Dev :=
  if n < 2 ∧ axMode n d = 2 then
    let step : Int := 2 ^ (8 - cfg (Obj.SHU_AXIS.IN_RES n) d)
    updAxis n (fun a => { a with pIn := if up then a.pIn + step else a.pIn - step, inT := (t :: a.inT).take 3 }) (d.at_ t)
  else d

/-! The commands of Table 15.4. -/

/-- STAGE_OVERCURRENT. -/
def stageOvercurrent (n : Nat) (d : Dev) : Dev := if n < 2 ∧ (axisAt n d).bridge then stageFault n 0 true d else d

/-- STAGE_OVERTEMP_WARN. -/
def stageOvertempWarn (n : Nat) (d : Dev) : Dev :=
  if n < 2 ∧ (axisAt n d).fault.testBit 1 = false then holdCurrentAtRest n (stageFault n 1 false (raise 367 (setCause n 1 true d))) else d

/-- STAGE_OVERTEMP. -/
def stageOvertemp (n : Nat) (d : Dev) : Dev := if n < 2 then stageFault n 2 true (setCause n 2 true d) else d

/-- STAGE_VIN_LOW: every bridge turns off. -/
def stageVinLow (d : Dev) : Dev :=
  each [0, 1] (fun n d => if (axisAt n d).bridge then stageFault n 3 true (setCause n 3 true d) else d) d

/-- STAGE_OPEN_COIL. -/
def stageOpenCoil (n : Nat) (d : Dev) : Dev := if n < 2 ∧ (axisAt n d).bridge ∧ 200 ≤ (axisAt n d).cur then stageFault n 4 false d else d

/-- EXT_DRIVER_FAULT: FLTn_L is low for 1 µs, which is also Taproot input 13 + n (R429). -/
def extDriverFault (n : Nat) (d : Dev) : Dev :=
  if n < 2 then d else driverFault n (setCause n 5 true (taprootInput (13 + n) true d))

/-- EXT_DRIVER_FAULT_RELEASE: FLTn_L is high again. -/
def extDriverFaultRelease (n : Nat) (d : Dev) : Dev := if n < 2 then d else setCause n 5 false (taprootInput (13 + n) false d)

/-- SHU_TEMP_MEASURE: the stage temperature of axis n in 1/16 °C. -/
def shuTempMeasure (n : Nat) (t : Int) (d : Dev) : Dev :=
  if 2 ≤ n then d
  else updAxis n (fun a => { a with temp := t, tempDue := false
                                    cause := setBit (setBit a.cause 1 (decide (105 * 16 < t) && a.cause.testBit 1)) 2 (decide (125 * 16 < t) && a.cause.testBit 2) }) d

/-! Limit inputs (R350). -/

/-- LIMIT_INPUT: the limit input of the positive (pos) or negative end of axis n is asserted. -/
def limitInput (n : Nat) (pos : Bool) (d : Dev) : Dev :=
  let d := updAxis n (fun a => { a with limIn := setBit a.limIn (if pos then 1 else 0) true }) (taprootInput (11 + n) true d)
  if travelDir n d = (if pos then 1 else -1) then limitStop n d else d

/-- LIMIT_INPUT_RELEASE. -/
def limitInputRelease (n : Nat) (pos : Bool) (d : Dev) : Dev :=
  let d := updAxis n (fun a => { a with limIn := setBit a.limIn (if pos then 1 else 0) false }) d
  if (axisAt n d).limIn = 0 then taprootInput (11 + n) false d else d

/-! Bridges by mode, reset and objects (R355, R359, R362 to R366). -/

/-- A bridge is on in the present mode (R359, R470). -/
def bridgeWanted (n : Nat) (d : Dev) : Bool :=
  let off := d.inMode [.reset, .boot] || tapOnly d
  let m := axMode n d
  decide (n < 2) && !off && !d.pwr.vinWarn && ((axisAt n d).fault &&& 13) == 0 && (if d.pwr.mode = .calibrate then m == 1 else m != 0)

/-- The bridges are brought up to date with the mode; one that turns on holds the standstill current. -/
def refreshBridges (d : Dev) : Dev :=
  each [0, 1] (fun n d =>
    let a := axisAt n d
    if bridgeWanted n d then
      (if a.bridge then d else updAxis n (fun b => { b with bridge := true, reduced := decide (cfg (Obj.SHU_AXIS.HOLD_PCT n) d < 100), cur := holdCurrent n d, rampTo := holdCurrent n d, rampLeft := 0 }) d)
    else if a.bridge then bridgeOff n d else d) d

/-- Every bridge turns off at once (R470). -/
def bridgesOff (d : Dev) : Dev := each [0, 1] (fun n d => if (axisAt n d).bridge then stopsDone (halted n (axisAt n d) (faultBridgeOff n d)) else d) d

/-- ENAn_L is low (R355). -/
def enabled (n : Nat) (d : Dev) : Bool := decide (2 ≤ n) && axMode n d == 1 && (axisAt n d).fault == 0 && !(d.inMode [.reset, .boot] || tapOnly d)

/-- The step, direction and enable outputs of axes 2 and 3 are high impedance (R359). -/
def stepsHiZ (d : Dev) : Bool := d.inMode [.reset, .boot] || tapOnly d

/-- The levels of ENAn_L, DIRn and STEPn at instant t; none: high impedance (R355, R359). -/
def enaPin (n : Nat) (d : Dev) : Option Bool := if stepsHiZ d then none else some (!enabled n d)
def dirPin (n : Nat) (d : Dev) : Option Bool := if stepsHiZ d then none else some (axisAt n d).dirOut
def stepPin (n t : Nat) (d : Dev) : Option Bool :=
  if stepsHiZ d then none else some ((axisAt n d).stepOut.any fun p => decide (p.at_ ≤ t ∧ t < p.at_ + 16 * p.ns))

/-- An SHU domain reset (R359). An axis whose FLTn_L stays low is in driver fault again with the first update after it (driverFault, R355). -/
def shuReset (d : Dev) : Dev :=
  let d := each (List.range 4) (fun n d =>
    halted n (axisAt n d) (dropMoves n St.ABORTED false (if n < 2 then faultBridgeOff n d else updAxis n (fun a => { a with v := 0 }) d))) d
  let d := d.uShu fun s => { s with ax := mapIx (fun n a => { limIn := a.limIn, cause := a.cause, tempDue := decide (n < 2), vin := a.vin }) s.ax }
  let d := stopsDone (d.uPwr fun p => { p with faults := p.faults.filter fun f => f.cls != 7 })
  if (srcAxis d).isSome then followShuttle d.now d else d

/-- The fields of SHU_AXIS n: a marked field of the other pair of axes accepts and resets to 0 only (R363). -/
def shuAxisFields (n : Nat) : List FldDef :=
  let other := if n < 2 then [Obj.SHU_AXIS.FLT_EN n, Obj.SHU_AXIS.OUT_RES n, Obj.SHU_AXIS.STEP_W n, Obj.SHU_AXIS.DIR_SETUP n]
    else [Obj.SHU_AXIS.FF_EN n, Obj.SHU_AXIS.IN_RES n, Obj.SHU_AXIS.I_RUN n]
  (Obj.SHU_AXIS.fields n).map fun f => if other.contains f then { f with rst := 0, lo := 0, hi := 0 } else f

/-- What rejects a write of SHU_AXIS n (R355, R358, R363). -/
def shuAxisCheck (n : Nat) (ws : List Word) (d : Dev) : Option (Nat × Nat) :=
  let f (x : Nat → FldDef) := fieldOf ws (x n)
  let v := f Obj.SHU_AXIS.V_LIMIT
  let res := 2 ^ (8 - f Obj.SHU_AXIS.OUT_RES)
  firstFail [(decide (2 ≤ n) && f Obj.SHU_AXIS.MODE == 2, St.BAD_FIELD, 0), (decide (f Obj.SHU_AXIS.A_LIMIT < f Obj.SHU_AXIS.STOP_DEC), St.BAD_FIELD, 0),
    (decide (n < 2) && decide (25600000 < v), St.BAD_FIELD, 0),
    (decide (toS 64 (f Obj.SHU_AXIS.SOFT_MAX) ≤ toS 64 (f Obj.SHU_AXIS.SOFT_MIN)), St.BAD_FIELD, 0),
    (decide (2 ≤ n) && (decide (10000000 * res < v) || decide (1000000000 * res < v * 2 * f Obj.SHU_AXIS.STEP_W)), St.BAD_FIELD, 0),
    (f Obj.SHU_AXIS.MODE == 1 && decide ((axisAt n d).fault ≠ 0) && decide ((axisAt n d).cause ≠ 0), St.HW_FAULT, 0)]

/-- A write of SHU_AXIS n takes effect: with MODE 1 it clears the axis's faults (R358). -/
def shuAxisApply (n : Nat) (ws : List Word) (d : Dev) : Dev :=
  let mode := fieldOf ws (Obj.SHU_AXIS.MODE n)
  let d := if mode ≠ axMode n d ∧ axMode n d = 1 then stopsDone (stopAxis n St.ABORTED d) else d
  let d := setObj (Obj.SHU_AXIS.id n) ws d
  let d := if mode = 1 then faultClearSrc 7 (356 + n) (updAxis n (fun a => { a with fault := 0 }) d) else d
  let d := if mode = 2 then updAxis n (fun a => { a with pIn := a.p, inT := [], inputLag := false }) d else d
  let d := if mode = 0 then updAxis n (fun a => restHere (sgn a.v) a.x { a with stop := none, paceMove := none }) d else d
  let d := refreshBridges d
  driverFault n d

def shuWaveCheck (ws : List Word) (_ : Dev) : Option (Nat × Nat) :=
  let w (j : Nat) := fieldOf ws (Obj.SHU_WAVE.W j)
  firstFail [(w 256 != 256 || (List.range 256).any fun j => decide (w (j + 1) < w j), St.BAD_FIELD, 0)]

/-- The words of SHU_WAVE. -/
def shuWaveWords (d : Dev) : List Word :=
  (List.range 129).map fun i => BitVec.ofNat 32 (waveW (2 * i) d + (if i < 128 then 65536 * waveW (2 * i + 1) d else 0))

/-- What rejects a write of SHU_POS (R362, R365). -/
def shuPosCheck (ws : List Word) (d : Dev) : Option (Nat × Nat) :=
  let n := fieldOf ws Obj.SHU_POS.AXIS
  firstFail [(!(axisAt n d).atRest || !(axisAt n d).q.isEmpty, St.BUSY, 0), (!inSoft n (toS 64 (fieldOf ws Obj.SHU_POS.POS)) d, St.BAD_FIELD, 0)]

/-- SHU_POS_WRITE: p and HOMED of one axis (R365). -/
def shuPosApply (ws : List Word) (d : Dev) : Dev :=
  let n := fieldOf ws Obj.SHU_POS.AXIS
  let p := toS 64 (fieldOf ws Obj.SHU_POS.POS)
  let d := updAxis n (fun a => { a with x := p * xUnit, pIn := p, homed := true }) d
  if srcAxis d = some n then
    d.uSpn fun s => { s with cmdLast := 256 * p, blOfs := 0, blLeft := 0, p := 256 * p, phat := 256 * p, edges := [], vel := none }
  else d

/-- STATE of SHU_STATUS (Table 15.10). -/
def axisState (n : Nat) (d : Dev) : Nat :=
  let a := axisAt n d
  if axMode n d = 0 then 0
  else if a.fault ≠ 0 then 6
  else if axMode n d = 2 then 5
  else if (match a.stop with | some r => r.commanded | none => false) then 3
  else if paceOwned n d || (paceAxis d == some n && d.pwr.mode == .scan) then 4
  else if a.v ≠ 0 ∨ a.q ≠ [] then 2
  else 1

/-- The words of SHU_STATUS (Table 15.10). -/
def shuStatusWords (d : Dev) : List Word :=
  packF 32 ((List.range 4).flatMap fun n =>
    let a := axisAt n d
    [(Obj.SHU_STATUS.POS n, ofS 64 a.p), (Obj.SHU_STATUS.VEL n, ofS 32 (Int.tdiv a.v vUnit)), (Obj.SHU_STATUS.STATE n, axisState n d),
     (Obj.SHU_STATUS.QUEUE n, a.q.length), fb (Obj.SHU_STATUS.HOMED n) a.homed, fb (Obj.SHU_STATUS.REDUCED n) a.reduced,
     fb (Obj.SHU_STATUS.INPUT_LAG n) a.inputLag, (Obj.SHU_STATUS.FAULT n, a.fault), (Obj.SHU_STATUS.LIMIT n, a.limit), fb (Obj.SHU_STATUS.VSAT n) a.vsat,
     (Obj.SHU_STATUS.CUR_ACT n, a.curAct), (Obj.SHU_STATUS.TEMP n, ofS 16 a.temp), (Obj.SHU_STATUS.CLAMPS n, a.clamps), (Obj.SHU_STATUS.MOVES n, a.moves)])
def shuStatusClear (d : Dev) : Dev := d.uShu fun s => { s with ax := s.ax.map fun a => { a with limit := 0, vsat := false } }

end Sys2Proof.Machine
end

