-- ==== Sys2Proof/Machine/Power.lean ====
section
/-! DEFINITION. The power manager (chapter 20): RESET, BOOT and CALIBRATE, MODE_SET and the transitions between the modes, SLEEP and its wake
(R428, R431 to R433), supply and temperature events, and the standing faults. -/

namespace Sys2Proof.Machine

/-- The core firmware runs: not in RESET, BOOT or SLEEP, and not while a sleep is being entered (R428; assumption log 43). -/
def coresRun (d : Dev) : Bool := !d.inMode [.reset, .boot, .sleep] && d.tap.phase == .awake

/-! RESET and BOOT (R468, R469, Table 20.4). -/

/-- The device enters RESET: what stays is the firmware store with its fuses and the calibration store, the counts since power-up, the memory
outside the device, and what its inputs show. -/
def enterReset (cause : Nat) (d : Dev) : Dev :=
  { seed := d.seed, hostMem := d.hostMem
    sdrv := { bankV := d.sdrv.bankV }
    cal := { slotA := d.cal.slotA, slotB := d.cal.slotB, abandoned := d.cal.abandoned, abandonedInt := d.cal.abandonedInt }
    hs := { devEpoch := d.hs.devEpoch, hostEpoch := wrap16 (d.hs.hostEpoch + 1) }
    mnr := { sess := d.mnr.sess + 1 }
    tap := { input := d.tap.input }
    shu := { ax := d.shu.ax.map fun a => { limIn := a.limIn, cause := a.cause } }
    pwr := { prevMode := d.pwr.mode, resetCause := cause, sysResetL := d.pwr.sysResetL, vinPor := d.pwr.vinPor, vinMv := d.pwr.vinMv, dieTemp := d.pwr.dieTemp }
    sec := { rec0 := d.sec.rec0, rec1 := d.sec.rec1, active := d.sec.active, slots := d.sec.slots, custProv := d.sec.custProv, permLock := d.sec.permLock, vendorHash := d.sec.vendorHash
             custHash := d.sec.custHash, custAes := d.sec.custAes, svnFuse := d.sec.svnFuse } }

/-- The controller, started afresh, takes in the levels that its inputs show (R415, R419). -/
def icSync (d : Dev) : Dev := mbxLevels (each (List.range 26) (fun i d => icLevel (i + 1) (bit d.tap.input (i + 1)) d) d)

/-- RESET ends and BOOT begins. -/
def beginBoot (d : Dev) : Dev := icSync <| setMode .boot (d.uHs fun h => { h with devEpoch := wrap16 (h.devEpoch + 1) })

/-- RESET may end: VIN stands, SYS_RESET_L is high, and the die is not above 125 °C. -/
def mayBoot (d : Dev) : Bool := d.pwr.mode == .reset && d.pwr.sysResetL && !d.pwr.vinPor && decide (d.pwr.dieTemp ≤ 2000)

/-- POWER_ON_RELEASE: VIN has been above V_POR for 10 ms. -/
def powerOnRelease (d : Dev) : Dev :=
  let d := d.uPwr fun p => { p with vinPor := false }
  if mayBoot d then beginBoot d else d

/-- A write or a load in progress meets a loss of power (R118, R490, R494). -/
def cutWrites (d : Dev) : Dev := keyProvisionCut (loadEnds St.ABORTED (abandonStore d))

/-- VIN_POR_FALL: VIN falls below 4.00 V; the counts since power-up start again (Table 12.8). -/
def vinPorFall (d : Dev) : Dev :=
  (enterReset 1 ((cutWrites d).uPwr fun p => { p with vinPor := true })).uHs fun h => { h with devEpoch := 0, hostEpoch := 0 }

/-- SYS_RESET: SYS_RESET_L goes low. A store write in progress is cut as by a supply failure (DESIGN CHOICE, assumption log 122). -/
def sysReset (d : Dev) : Dev := enterReset 2 ((cutWrites d).uPwr fun p => { p with sysResetL := false })

/-- SYS_RESET_RELEASE: SYS_RESET_L rises. -/
def sysResetRelease (d : Dev) : Dev :=
  let d := d.uPwr fun p => { p with sysResetL := true }
  if mayBoot d then beginBoot d else d

/-! CALIBRATE (R474). -/

/-- CALIBRATE's sequence begins from its first step: REF_EN, and the full self-calibration once REF_READY is set. -/
def startCalibrate (d : Dev) : Dev :=
  let d := setMode .calibrate d
  let d := outputsIdle (d.uPwr fun p => { p with calStep := 1 })
  let d := refreshPins (refreshBridges d)
  calBegin (calRequest true none d)

/-- BOOT_END: Distaff has checked the images and locked the map; map, the body of the map image. Without a valid image of Distaff or of cores 0 to
2 the device stays in BOOT (R491). -/
def bootEnd (map : List Word) (d : Dev) : Dev :=
  if d.pwr.mode ≠ .boot then d
  else
    match bootImages map d with
    | none => d
    | some d =>
      let d := ratedLimits (storePowerBack (loadStore d))
      let d := icDo (.gctl 1 d.tap.event) d
      let d := if d.sec.fallback = 0 then d else raise 484 d
      let d := if d.sec.attachWait then issueNonce d else d
      startCalibrate d

/-! READY. -/

/-- The device enters READY: the TDI engine flushes (R196), the moves of the paced axis end (R340), staged parts go live (R30, R166). -/
def enterReady (d : Dev) : Dev :=
  let was := d.pwr.mode
  let scanned := d.inMode [.scan, .hold, .safe]
  let d := if scanned then tdiFlush d else d
  let d := if was = .scan ∨ was = .hold then
      match paceAxis d with
      | some n => updAxis n (fun x => { x with paceMove := none, stop := none }) (dropMoves n St.ABORTED false d)
      | none => d
    else d
  let d := setMode .ready d
  let d := bankReady (spnReady (was == .calibrate) (formFigures d))
  -- a strobe still on ends; sinks are off in READY (R383)
  let d := tablesEnded (if was = .calibrate then forcesEnd d else if scanned then lampsOff d else d)
  let d := refreshPins (refreshBridges d)
  let d := d.uPace fun p => { p with state := .idle, autoResume := true }
  d.uPwr fun p => { p with calStep := 0, linesGoal := 0, linesLast := none, trans := .none }

/-- CALIBRATE_END: the sequence of R474 ends with CAL_DELAY in a group member and the lamp check of strings with EN = 1; delays and mv are their
results. -/
def calibrateEnd (delays mv : List Nat) (d : Dev) : Dev :=
  if d.pwr.mode = .calibrate ∧ d.pwr.calStep = 3 ∧ d.cal.run.isNone then
    let d := if d.krm.member then each (List.range 4) (fun p d => if portUp p d then updPort p (fun x => { x with delayPs := at' delays p 0 }) d else d) d else d
    let d := if (List.range 8).any fun s => strEn s d then (lampCheck 255 mv d).2 else d
    if d.pwr.mode ≠ .calibrate then d -- a lamp's fault has taken the device to SAFE
    else
      let w := d.pwr.safeReadyWho
      finish? w St.OK 0 [] (enterReady (d.uPwr fun p => { p with safeReadyWho := none }))
  else d

/-- Whether lines of the scan are still on their way to step 5 although their samples are not. -/
def stuckLines (d : Dev) : List LineRec :=
  if d.acq.windows.isEmpty && d.hdl.inq.isEmpty && d.jlk.link.all (fun l => l.armed.isNone && l.opened.isNone) &&
      d.jlk.lane.all (fun l => l.armed.isNone && l.opened.isNone) then
    (openLines d).filter fun l => !((heldLine l.k d).map (HLine.complete d) |>.getD false)
  else []

/-- READY_ENTRY_DONE: the axis is at rest and the lines that were started have completed; the mode code becomes READY (R527). Armed windows
that no edge will open count as missed, and a line whose samples do not come any more is closed early or dropped (assumption log 44). -/
def readyEntryDone (d : Dev) : Dev :=
  match d.pwr.trans with
  | .toReady who scanDone =>
    let rest : Bool := match paceAxis d with | some n => (axisAt n d).atRest | none => true
    if !rest || !d.inMode [.scan, .hold] then d
    else if !(openLines d).isEmpty then
      if d.acq.windows.any fun w => !w.open_ && w.due.isNone then missWindows (d.spn.next + 1) d
      else
        each (stuckLines d) (fun l d =>
          if (heldLine l.k d).isSome then
            markLine l.k FL.DEGRADED (raise 230 (d.uHdl fun h => { h with
              forced := sat16 h.forced, lines := h.lines.map fun x => if x.k = l.k then { x with forced := true } else x }))
          else if 1 < rowsOf d then { d with lines := d.lines.map fun x => if x.k = l.k then { x with passed := true } else x }
          else { d with lines := d.lines.filter fun x => x.k != l.k }) d
    else
      let last := d.pwr.linesLast
      let d := finish? who St.OK 0 [] (enterReady d)
      if scanDone then postEvent 3 0 St.OK 0 last [] d else d
  | _ => d

/-- SAFE_ENTRY_DONE: every axis is at rest and every table has ended. -/
def safeEntryDone (d : Dev) : Dev :=
  match d.pwr.trans with
  | .toSafe who => if safeQuiet d then finish? who St.OK 0 [] (d.uPwr fun p => { p with trans := .none }) else d
  | _ => d

/-! SLEEP (R428, R431 to R433, R476). -/

/-- A wake source is pending or has fired (R431, R432). -/
def wakePending (d : Dev) : Bool :=
  if d.ic.slpKind then d.tap.event &&& d.tap.watch != 0 || (List.range 31).any fun i => bit d.tap.watch (i + 1) && (d.ic.src (i + 1)).pending
  else d.tap.woke || (d.ic.st.map Prod.fst).any fun n => (d.ic.src n).pending && d.ic.wakes n

/-- The sleep is abandoned before the commit point (R432). -/
def sleepAborted (d : Dev) : Dev :=
  let w := d.pwr.sleepWho
  let d := (d.uTap fun t => { t with armed := false, phase := .awake }).uIc fun c => { c with slpResult := 2 }
  finish? w St.ABORTED 2 [] (d.uPwr fun p => { p with sleepWho := none })

/-- An event that may wake the device, and the test of its AON cycle: a wake source before the commit point abandons the sleep (R432). What wakes
it by another command is found by the test of the commit point. -/
def sleepTest (f : Dev → Dev) (d : Dev) : Dev :=
  let d := f d
  if d.tap.phase = .saving ∧ d.pwr.mode = .ready ∧ wakePending d = true then sleepAborted d else d

/-- The power manager raises its sleep request; a wake source of the same cycle abandons it. -/
def sleepRequest (w : Who) (d : Dev) : Dev :=
  let d := d.uIc fun c => { c with slpKind := cfgB Obj.PWR_CTL.SLEEP_KIND d, evs := [] }
  let d := tapArm ((d.uTap fun t => { t with phase := .saving }).uPwr fun p => { p with sleepWho := some w })
  if wakePending d then sleepAborted d else d

/-- What Taproot-only SLEEP leaves: the AON domain (power manager, pacing unit, mailboxes, Taproot, epochs) with its objects, the stores that keep
their contents without power, and what the inputs show. -/
def tapOnlyOff (d : Dev) : Dev :=
  let aon (id : Nat) : Bool := id / 256 == 0x19 || (decide (0x1F00 ≤ id) && decide (id ≤ 0x1F08))
  let r := enterReset d.pwr.resetCause d
  { r with
    now := d.now, objs := d.objs.filter fun x => aon x.1
    pwr := { d.pwr with trans := .none, modeWho := none, safeReadyWho := none, resets := [], domState := List.replicate 16 0, faults := d.pwr.faults.filter fun f => f.cls == 13 }
    pace := { d.pace with state := .idle, pins := List.replicate 4 {} }
    mbx := { d.mbx with held := [], cpyEpoch := d.mbx.cpyEpoch.map fun e => wrap16 (e + 1), secEpoch := wrap16 (d.mbx.secEpoch + 1) }
    tap := { d.tap with event := packBits ((List.range 32).map fun i => bit d.tap.event i || (decide (0 < i) && (d.ic.src i).pending)) }
    ic := { slpKind := true, slpResult := 1 } }

/-- SLEEP_COMMIT: the save ends; a wake source abandons the sleep, otherwise the mode becomes SLEEP. -/
def sleepCommit (d : Dev) : Dev :=
  if d.tap.phase ≠ .saving ∨ d.pwr.mode ≠ .ready then d
  else if wakePending d then sleepAborted d
  else
    let w := d.pwr.sleepWho
    let d := (d.uTap fun t => { t with phase := .committed }).uPwr fun p => { p with sleepWho := none }
    let d := finish? w St.OK 0 [] (d.uIc fun c => { c with slpResult := 1 })
    let d := lampsOff (setMode .sleep d)
    if d.ic.slpKind then tapOnlyOff d
    else refreshPins (refreshBridges (outputsIdle (stopTables <| auxStop (d.uSkn fun s => { s with selfRefresh := true }))))

/-- The session ends by a reset of the HOST domain (R327): MNR_LOG is filled as Table 14.3 gives. -/
def sessionLost (d : Dev) : Dev :=
  let stat (ws : List Word) : Option (Nat × Nat) :=
    let w0 := (ws.getD 0 0).toNat
    let w2 := (ws.getD 2 0).toNat
    if w0 % 65536 = 0x0080 ∨ bit w2 8 then none else some (bits w0 25 16, w2 % 256)
  let own (se : Option Nat) : Bool := se == some d.mnr.sess
  let sent := (d.mbx.d2h.filter fun m => m.posted && own m.sess).filterMap fun m => stat m.words
  let held := (d.mnr.out.filter fun o => own o.2.2).filterMap fun o => stat o.2.1
  let left := d.mnr.tags.map fun t => (t.who.tag, if d.mnr.taken.any (fun c => c.who == t.who) then St.ABORTED else St.DEFERRED)
  let log : Sparse Nat := (sent ++ held ++ left).foldl (fun m x => Sparse.set 0xFF m x.1 x.2) []
  d.uMnr fun x => { x with
    logEpoch := if x.open_ then d.hs.hostEpoch else x.logEpoch
    log := if x.open_ then log else x.log, logged := if x.open_ then true else x.logged, logSess := if x.open_ then x.sess else x.logSess
    extOld := (x.tags.filter fun g => g.deferred && decide (0x08F0 ≤ g.who.op)).map (·.who)
    open_ := false, tags := [], taken := [], out := [], sess := x.sess + 1 }

/-- The HOST domain is reset through the link (R275, R297, R313, R480). -/
def hostReset (d : Dev) : Dev :=
  let d := noteReset hostEnd (discardTo hostEnd (sessionLost (raise 335 d)))
  let d := d.uHs fun h => { hiDlv := h.hiDlv, link := h.link, func := h.func, speed := h.speed, width := h.width, mps := h.mps
                            clkreq := h.clkreq, devEpoch := h.devEpoch, hostEpoch := wrap16 (h.hostEpoch + 1), readData := h.readData, claimRead := h.claimRead }
  let d := each (List.range 32) (fun q d => if qRole q d = 3 then evalQueue q (updQueue q (fun x => { above := x.above }) d) else d) d
  if cfgB Obj.PACE_CTL.HOST_LOSS d && d.pwr.trans == .none && !externalMotion d then paceStop 6 d else d

/-- PCIE_LINK_RESET: a function level reset, a hot reset, a link-down event or PERST_L; retention SLEEP holds it back (Table 20.14). -/
def pcieLinkReset (d : Dev) : Dev :=
  match d.pwr.mode with
  | .reset => d
  | .sleep => if d.ic.slpKind then d else d.uPwr fun p => { p with linkResetDue := true }
  | _ => hostReset d

/-- LINK_POWER_STATE_CHANGE: the PCIe link takes a power state; a link that goes down resets the HOST domain (R297). -/
def linkPowerChange (st : LinkPower) (speed width mps : Nat) (d : Dev) : Dev :=
  let falls := st == .down && d.hs.link != .down
  let d := linkState st speed width mps d
  if falls then pcieLinkReset d else d

/-- SLEEP_WAKE: a wake source has fired after the commit point; the sleep ends by the ordinary exit (R433). -/
def sleepWake (d : Dev) : Dev :=
  if d.tap.phase ≠ .committed ∨ d.pwr.mode ≠ .sleep then d
  else if d.ic.slpKind then
    if d.tap.event &&& d.tap.watch = 0 then d
    else beginWake ((d.uTap fun t => { t with armed := false, phase := .awake }).uIc fun c => { c with fromTap := true, slpKind := false, evs := [] })
  else if wakePending d then
    let d := setMode .ready (d.uTap fun t => { t with armed := false, phase := .awake })
    let d := refreshPins (refreshBridges (tablesEnded (d.uSkn fun s => { s with selfRefresh := false })))
    if d.pwr.linkResetDue then hostReset (d.uPwr fun p => { p with linkResetDue := false }) else d
  else d
where beginWake (d : Dev) : Dev := icSync (setMode .boot d)

/-! MODE_SET (R333, R472, Table 20.4). -/

/-- The class of a standing fault whose action is SAFE. -/
def safeClassStanding (d : Dev) : Option Nat := (List.range 15).find? fun c => faultStands c d && classAction c d == 2

/-- READY to SCAN. -/
def modeScan (w : Who) (lines : Nat) (d : Dev) : Dev :=
  match admission d with
  | some (s, x) => finish w s x [] d
  | none =>
    let d := forcesEnd (dropTrans d)
    let d := setMode .scan (d.uPwr fun p => { p with linesGoal := lines, linesLast := none })
    finish w St.OK 0 [] (paceStart (tdiStart (spnStart d)))

/-- HOLD to SCAN: without the reference or a link it is BUSY (R77, R130); the final completion follows at the line start of K_r (R268); an external scan whose condition holds goes on at once. -/
def modeResume (w : Who) (d : Dev) : Dev :=
  match d.pwr.trans with
  | .toReady _ _ => finish w St.WRONG_MODE 0 [] d
  | _ =>
    match resumeBusy d with
    | some (s, x) => finish w s x [] d
    | none =>
    let d := dropTrans d
    let d := (d.uPace fun p => { p with autoResume := true }).uPwr fun p => { p with modeWho := some w }
    if externalMotion d && mayResume d then paceResume d else defer w 0 d

/-- A MODE_SET to HOLD supersedes a pending MODE_SET (R326); the move to READY that the LINES-th line began goes on (R333). -/
def holdTrans (d : Dev) : Dev :=
  if linesEnding d then (dropTrans d).uPwr fun p => { p with trans := .toReady none true } else dropTrans d

/-- SAFE to READY, or to CALIBRATE. -/
def modeUnsafe (w : Who) (d : Dev) : Dev :=
  match safeClassStanding d with
  | some c => finish w St.BUSY c [] d
  | none =>
    let d := dropTrans d
    if d.pwr.safeFrom = .calibrate then startCalibrate (defer w 0 (d.uPwr fun p => { p with safeReadyWho := some w }))
    else finish w St.OK 0 [] (enterReady d)

/-- MODE_SET to a mode from the present one, its fields being right. -/
def modeChange (w : Who) (target lines : Nat) (d : Dev) : Dev :=
  match d.pwr.mode, target with
  | .ready, 3 | .scan, 4 | .safe, 6 => finish w St.OK 0 [] d
  | .hold, 5 => finish w St.OK 0 [] (holdInHold d)
  | .ready, 4 => modeScan w lines d
  | .scan, 5 => finish w St.OK 0 [] (paceStop 3 (holdTrans d))
  | .hold, 4 => modeResume w d
  | .scan, 3 | .hold, 3 => finishReady w (beginReady (some w) false d)
  | .calibrate, 6 | .ready, 6 | .scan, 6 | .hold, 6 => finishSafe w (enterSafe none (some w) d)
  | .safe, 3 => modeUnsafe w d
  | .ready, 7 => if cfgB Obj.PWR_CTL.SLEEP_KIND d && unconfirmed d then finish w St.BUSY 0 [] d else sleepRequest w (dropTrans d)
  | _, _ => finish w St.WRONG_MODE 0 [] d
where
  /-- The move to READY waits for the axis and for the lines that were started, unless there are none (R527). -/
  finishReady (w : Who) (d : Dev) : Dev :=
    let rest : Bool := match paceAxis d with | some n => (axisAt n d).atRest | none => true
    if rest && (openLines d).isEmpty then readyEntryDone d else defer w 0 d
  /-- The move to SAFE waits for axes and tables, unless all are at rest already. -/
  finishSafe (w : Who) (d : Dev) : Dev := if safeQuiet d then safeEntryDone d else defer w 0 d

/-- MODE_SET. -/
def modeSet (c : MnrCmd) (d : Dev) : Dev :=
  command Op.MODE_SET c (fun t d =>
    let scan : Bool := t.arg == 4
    checked t [(decide (8 ≤ t.arg) || decide (t.arg ≤ 2), St.BAD_FIELD, 0), (t.len != 0 && t.len != 2, St.BAD_FIELD, 0),
      (if scan then decide (65536 ≤ t.w 1) else t.w 0 != 0 || t.w 1 != 0, St.BAD_FIELD, 0)]
      (modeChange t.who t.arg (t.w 0 + 4294967296 * t.w 1)) d) d

/-! Supply and temperature (R469, R470, R477). -/

/-- VIN_WARN: VIN falls below V_WARN (R470). -/
def vinWarn (d : Dev) : Dev :=
  if d.pwr.mode = .reset ∨ d.pwr.vinWarn then d
  else
    let d := taprootInput 4 true (d.uPwr fun p => { p with vinWarn := true })
    if d.pwr.mode = .sleep then (if d.ic.slpKind then d else cutWrites d)
    else
      let d := stopTables (lampsOff (bridgesOff d))
      let d := enterSafe none none (cutWrites d)
      postEvent 1 0 St.HW_FAULT 466 none [] (raise 466 d)

/-- VIN_RESTORED: VIN is above V_WARN + 200 mV for 1 ms. -/
def vinRestored (d : Dev) : Dev :=
  if d.pwr.vinWarn then
    let d := tapPulse 5 (taprootInput 4 false (d.uPwr fun p => { p with vinWarn := false }))
    if tapOnly d then d else storePowerBack (refreshBridges (raise 467 d))
  else d

/-- PWR_MONITOR_TICK: the die temperature in 1/16 °C and VIN are read. -/
def pwrMonitorTick (vin : Nat) (temp : Int) (d : Dev) : Dev :=
  let d := d.uPwr fun p => { p with vinMv := vin, dieTemp := temp }
  if d.pwr.mode = .reset then d
  else if 2000 < temp then enterReset 3 (cutWrites d)
  else
    let hot := decide ((16 * cfg Obj.PWR_CTL.TEMP_ALARM d : Nat) < temp)
    let was := faultStands 13 d
    if hot && !was then
      let d := taprootInput 21 true d
      if tapOnly d then d else faultRaise 13 468 none St.HW_FAULT (raise 468 d)
    else if !hot then faultClear 13 (taprootInput 21 false d)
    else d

/-! The standing faults and PWR_STATUS (R483). -/

/-- The words of a FAULT_LIST entry (Table 20.13). -/
def faultWords (f : FaultRec) : List Word :=
  let l := f.line.getD 281474976710655
  [BitVec.ofNat 32 (f.cls + 16 * f.domain + 256 * f.action + 65536 * f.source), BitVec.ofNat 32 l, BitVec.ofNat 32 ((l >>> 32) % 65536)] ++ wordsOfNat 2 f.ts

/-- A command's buffer (R331) in host memory: ADDR and LENGTH. -/
def bufAddr (t : Taken) : Nat := t.w 0 + 4294967296 * t.w 1

/-- FAULT_LIST (R483). -/
def faultList (c : MnrCmd) (d : Dev) : Dev :=
  command Op.FAULT_LIST c (fun t d =>
    let n := d.pwr.faults.length
    let size := 4 + 20 * n
    checked t [(t.arg != 0 || bufBad t, St.BAD_FIELD, 0), (decide (t.w 2 < size), St.BAD_FIELD, size), (!c.hostOk, St.HW_FAULT, 0)] (fun d =>
      finish t.who St.OK n [] (writeWords (bufAddr t) (BitVec.ofNat 32 n :: d.pwr.faults.flatMap faultWords) d)) d) d

/-- The words of PWR_STATUS (Table 20.12). -/
def pwrStatusWords (d : Dev) : List Word :=
  let p := d.pwr
  packF 4 ([(Obj.PWR_STATUS.MODE, p.mode.code), (Obj.PWR_STATUS.PREV_MODE, p.prevMode.code), (Obj.PWR_STATUS.RESET_CAUSE, p.resetCause),
    (Obj.PWR_STATUS.FAULT_ACTIVE, packBits ((List.range 15).map fun c => faultStands c d)), (Obj.PWR_STATUS.VIN_MV, p.vinMv),
    (Obj.PWR_STATUS.DIE_TEMP, ofS 16 p.dieTemp), (Obj.PWR_STATUS.SAFE_CLASS, p.safeClass)] ++
    (List.range 16).map fun n => (Obj.PWR_STATUS.DOMAIN_STATE n, p.domState.getD n 0))

end Sys2Proof.Machine
end

