-- ==== Sys2Proof/Machine/Domains.lean ====
section
/-! DEFINITION. Domain resets (R478, R479, R525, Table 20.7), the sessions of Meoner (R323, R336), PING and the relayed opcodes (R329), and the
arrivals of interrupt sources from outside a modelled block (R418, R419). -/

namespace Sys2Proof.Machine

/-! What each domain loses (Table 20.7). -/

/-- ACQ: the tables and windows in progress end with SUBST and DEGRADED, the outputs are safe, injected requests end ABORTED (R97), the
converters restart with REF_EN set and a 2 ms wait; trims with their TRIM_SAT, FAILED and substitutions stay. Every exposure group closes, and no
lamp gate is brought up to date by that (DESIGN CHOICE, assumption log 116). -/
def acqReset (d : Dev) : Dev :=
  let d := each (enginesRunning d) (fun p d => markLine? p.2.line FL.DEGRADED d) d
  let d := applyPendingCtl (d.uSdrv fun s => { s with engines := List.replicate 8 none, expo := List.replicate 4 {}, shr := List.replicate 8 false, bankFault := 0, epoch := 0, cuts := 0, spill := 0, overrun := 0, diagSkipped := 0 })
  let d := endWindows (outputsSafe d)
  let d := each d.acq.inj (fun r d => pushResult { ch := r.ch, status := St.ABORTED, tag := r.tag } d) d
  let d := calAbort d
  let d := d.uAcq fun a => { a with
    inj := [], refReady := false, refAt := if cfgB Obj.ACQ_CTL.REF_EN d then some (d.now + 32000000) else none
    ch := a.ch.map fun x => { failed := x.failed, dead := x.dead }, chk := a.chk.map fun x => { failed := x.failed, sub := x.sub, takeover := x.takeover }
    crc := List.replicate 68 0, refFault := false, resLost := 0, winMissed := 0, winCut := 0, injDropped := 0 }
  d.uCal fun c => { c with disagree := 0, bgLimit := 0 }

/-- JLNK: windows deliver SUBST, and the links restart at LINK_STATE 1. -/
def jlnkReset (d : Dev) : Dev :=
  let srcs := (List.finRange 8).map LinkSrc.link ++ (List.finRange 32).map LinkSrc.lane
  let d := each srcs (fun s d =>
    let d := cutOpened s (setOpened s (openedOf s d) d)
    let d := setOpened s none d
    match armedOf s d with
    | some w => missLinkWin s w (setArmed s none d)
    | none => d) d
  let d := faultClear 4 (d.uJlk fun _ => {})
  each (List.range 8) (fun l d => if linkEn l d then linkEnable l d else d) d

/-- HDL: complete lines are finished, open lines and TDI state are lost (R150, R199), HOLD_CAUSE 5, means and histograms cleared (R215), a packet
being pushed is aborted (R240). -/
def hdlReset (d : Dev) : Dev :=
  let was := d.pwr.mode
  let d := finishComplete d.hdl.lines.length d
  let d := each ((packTargets d).filter fun q => (queueAt q d).midPush) abortPacket d
  let d := d.uHdl fun h => { h with lines := [], inq := [] }
  let d := if was = .scan ∧ d.pwr.trans = .none then paceStop 5 d
    else if was = .scan ∨ was = .hold then hdlFixResume d
    else { d with lines := d.lines.filter fun l => l.passed }
  let d := tdiRebuild (d.uTdi fun x => { x with lines := [], rows := [] })
  let d := if was = .hold then paceRebuild (d.uPace fun p => { p with resume := d.hdl.resume }) else d
  let w : Option Who := d.hdl.copyMbx.map fun x => { mbx := x.1, tag := x.2.1, op := Op.OBJ_WRITE, sess := x.2.2 }
  let d := finish? w St.ABORTED 0 [] (d.uHdl fun h => { h with
    loadState := if h.loadState = 2 then 2 else 0, copyMbx := none, bank := h.bank.map fun x => { x with poison := [] }, bankEpoch := 0, pgEpoch := 0
    defLog := [], defFull := false, defLost := 0, defAdded := 0, unmapped := 0, ceCount := 0, ueCount := 0, ueAddr := 0, ueTable := 0, forced := 0
    filled := 0, clipGain := 0, clipPack := 0 })
  let d := faultClear 5 (d.uTdi fun x => { x with fallback := 0, lateDrop := 0, clip := 0, ledgerOvf := 0, zeroW := 0, partials := 0 })
  d.uStat fun s => { s with m := List.replicate 8 [], n := List.replicate 8 [], hist := List.replicate 4 {}, linesRejected := 0, blackShort := 0
                            autoDefects := 0, limitCols := 0, level := List.replicate 8 0, committed := List.replicate 8 0, raw := [], figs := [], left := [] }

/-- The packets in a list of queue words: each one's first two words where it has them, and whether its END is there. -/
def packetHeads : List QWord → List QWord → List (Option Nat)
  | [], [] => []
  | [], acc => [headOf acc]
  | w :: ws, acc => if w.end_ then headOf (acc ++ [w]) :: packetHeads ws [] else packetHeads ws (acc ++ [w])
where headOf (l : List QWord) : Option Nat := match l with
  | a :: b :: _ => some (hdrOf (a.d ++ b.d)).k
  | _ => none

/-- The words of a queue with those popped of a header in the making and those that wait. -/
def queueWords (x : Queue) : List QWord := (x.head.map Prod.fst).toList ++ x.q ++ x.wait

/-- The lines in flight to store s (R240, R252): the record being written, and the packets in its inbound queue; none for one whose header is not
whole. -/
def linesInFlight (s : Nat) (d : Dev) : List (Option Nat) :=
  let x := queueAt (queueIn s d) d
  match (storeAt s d).writing with
  | some w => some w.k :: packetHeads (if w.ended then queueWords x else (afterEnd (queueWords x)).getD []) []
  | none => packetHeads (if x.drop then (afterEnd (queueWords x)).getD [] else queueWords x) []

/-- The packets in flight to the stitcher of store s. -/
def tilesInFlight (s : Nat) (d : Dev) : Nat :=
  (((List.range 32).filter fun q => stitching q d && cfg (Obj.SKN_QUEUE.LS q) d == s).map fun q =>
    let x := queueAt q d
    let ws := queueWords x
    if (tileWords q d).isEmpty then (packetHeads (if x.drop then (afterEnd ws).getD [] else ws) []).length
    else 1 + (packetHeads ((afterEnd ws).getD []) []).length).sum

/-- SKN: queues emptied, packets in flight aborted and their lines refused; records, pointers and directory stay. The lines of a collector's tiles
are delivered again (R458). -/
def sknReset (d : Dev) : Dev :=
  let d := each (enabledStores d) (fun s d =>
    if stitching (queueIn s d) d then each (List.range (tilesInFlight s d)) (fun _ => raise 293) d
    else each (linesInFlight s d) (fun k d => refuseLine s (k.getD (afterLast s d)) (raise 293 d)) d) d
  let d := clearQueues d
  faultClear 6 (d.uSkn fun s => { s with parityPoison := 0, refetch := 0, hdrParity := 0, aborts := 0, reelCe := 0, reelUe := 0, reelUeAddr := 0, poisonIndex := 0 })

/-- A core is reset; its sibling holds its duties and mailboxes (R525). An activation that it holds the duties for ends with ABORTED, and that core
restarts on its previous slot once this one runs again (R500). -/
def cpyReset (n : Nat) (d : Dev) : Dev :=
  let d := match d.sec.act with
    | some a =>
      if 1 ≤ a.target ∧ a.target ≤ 4 ∧ siblingOf (a.target - 1) = some n then
        (updateFails false d).uPwr fun p => { p with resets := p.resets ++ [{ left := [2 + n, targetDomain a.target], who := none }] }
      else d
    | none => d
  coreReset n (handOver n d)

/-- What the reset of domain n does at once. -/
def loseDomain (n : Nat) (d : Dev) : Dev :=
  match n with
  | 2 | 3 | 4 | 5 => cpyReset (n - 2) d
  | 7 => spnReset d
  | 8 => acqReset d
  | 9 => jlnkReset d
  | 10 => hdlReset d
  | 11 => sknReset d
  | 12 => shuReset d
  | 13 => ilmReset d
  | 14 => auxReset d
  | 15 => krmReset d
  | _ => d

/-- DOMAIN_RESET (R478). -/
def domainReset (c : MnrCmd) (d : Dev) : Dev :=
  command Op.DOMAIN_RESET c (fun t d =>
    let doms := maskIx t.arg 16
    match firstFail [(decide (65536 ≤ t.arg), St.BAD_FIELD, 0), (bit t.arg 0 || bit t.arg 1, St.DENIED, 0), (bit t.arg 6 || t.arg == 0, St.BAD_FIELD, 0)] with
    | some (s, x) => reject t s x d
    | none =>
      match doms.find? fun n => !d.runs n with
      | some n => reject t St.BUSY n d
      | none =>
        let d := (defer t.who 0 d).uPwr fun p => { p with resets := p.resets ++ [{ left := doms, who := some t.who }] }
        each doms loseDomain (each doms (fun n d => setDomain n 1 d) d)) d

/-- DOMAIN_RESET_DONE: domain n runs again, a collector asks its senders to deliver again (R458); interrupt 469 is raised, and the command that names it completes when all of its domains run. -/
def domainResetDone (n : Nat) (d : Dev) : Dev :=
  let waits : Bool := (n == 12 && d.shu.ax.any fun a => a.tempDue) || (n == 8 && d.acq.refAt.isSome) ||
    d.pwr.resets.any fun r => r.who.isNone && decide (1 < r.left.length) && r.left.getLast? == some n
  if d.pwr.domState.getD n 0 ≠ 1 || waits then d
  else
    let d := if 2 ≤ n ∧ n ≤ 5 then coreRuns (n - 2) d else setDomain n 0 d
    let d := raise 469 (if n = 8 then outputsIdle d else if n = 11 then askAgain d else if n = 14 then refreshAmon d else d)
    let rs := d.pwr.resets.map fun r => { r with left := r.left.filter (· != n) }
    let done := rs.filter fun r => r.left.isEmpty
    let d := d.uPwr fun p => { p with resets := rs.filter fun r => !r.left.isEmpty }
    each done (fun r d => finish? r.who St.OK 0 [] d) d

/-! Sessions (R323, R336). -/

/-- PING (Table 14.5). -/
def ping (c : MnrCmd) (d : Dev) : Dev := command Op.PING c (fun t d => finish t.who St.OK t.arg [] d) d

/-- SESSION_OPEN. -/
def sessionOpen (c : MnrCmd) (d : Dev) : Dev :=
  command Op.SESSION_OPEN c (fun t d =>
    checked t [(decide (524288 ≤ t.arg), St.BAD_FIELD, 0), (bits t.arg 15 8 != 1, St.BAD_FIELD, 0x0100), (d.mnr.open_, St.BUSY, 0)] (fun d =>
      let d := d.uMnr fun x => { x with open_ := true, eventMbx := bits t.arg 18 16, openEpoch := d.hs.hostEpoch }
      finish t.who St.OK 0x0100 [BitVec.ofNat 32 d.hs.hostEpoch] (groupsStart d)) d) d

/-- SESSION_CLOSE: every stream ring stops as a write of EN = 0 does (R286); the log that it leaves has no entry (R336). -/
def sessionClose (c : MnrCmd) (d : Dev) : Dev :=
  command Op.SESSION_CLOSE c (fun t d =>
    checked t [(t.arg != 0, St.BAD_FIELD, 0), (d.mnr.tags.any fun g => g.who != t.who, St.BUSY, 0)] (fun d =>
      let d := each (List.range 32) groupStop (d.uHs fun h => { h with ring := h.ring.map fun r => { r with en := false } })
      let d := finish t.who St.OK 0 [] d
      refreshRings (d.uMnr fun x => { x with open_ := false, log := [], logEpoch := d.hs.hostEpoch, logSess := x.sess, logged := true, sess := x.sess + 1 })) d) d

/-- EXT_CMD: an opcode 0x08F0 + n is relayed to the extension firmware through internal mailbox 8, and completes with that firmware's answer
(R329). An answer of DEFERRED leaves the tag outstanding, and the next answer under it is final (R326); one of an ended session is logged (R327; which command an answer belongs to: assumption log 73). -/
def extCmd (n : Nat) (status detail : Nat) (res : List Word) (c : MnrCmd) (d : Dev) : Dev :=
  match d.mnr.tags.find? fun g => g.deferred && g.who.mbx == c.mbx.val && g.who.tag == c.tag.val && g.who.op == 0x08F0 + n with
  | some g => if status = St.DEFERRED ∨ d.sec.extRunning = false then cmdAt c d else finish g.who status detail (res.take 13) (cmdAt c d)
  | none =>
    match d.mnr.extOld.find? fun w => w.mbx == c.mbx.val && w.tag == c.tag.val && w.op == 0x08F0 + n with
    | some w =>
      if status = St.DEFERRED ∨ d.sec.extRunning = false then cmdAt c d
      else finish w status detail [] ((cmdAt c d).uMnr fun x => { x with extOld := x.extOld.filter fun v => v != w })
    | none =>
    command (0x08F0 + n) c (fun t d =>
      if !d.sec.extRunning then reject t St.BAD_OPCODE 0 d
      else if (mbiAt 8 d).posted then d.uMnr fun x => { x with taken := t :: x.taken }
      else
        let w0 := BitVec.ofNat 32 (t.who.op + 65536 * t.who.tag + 67108864 * t.len)
        let d := updMbi 8 (fun x => { x with words := (w0 :: BitVec.ofNat 32 t.arg :: t.pay) ++ x.words.drop (2 + t.pay.length) }) d
        let d := mbiGo 8 (mbiAt 8 d).sender d
        if status = St.DEFERRED then defer t.who detail d else finish t.who status detail (res.take 13) d) d

/-- The words of MNR_SESSION (Table 14.8). -/
def mnrSessionWords (d : Dev) : List Word :=
  let m := d.mnr
  let def_ := countIf (fun g => g.deferred) m.tags
  [BitVec.ofNat 32 (b2n m.open_ + (if m.open_ then 256 * m.eventMbx + 65536 * 0x0100 else 0)), BitVec.ofNat 32 (m.tags.length + 65536 * def_),
   BitVec.ofNat 32 (m.events.length + 65536 * m.evtLost), BitVec.ofNat 32 (m.openEpoch + 65536 * m.dupTags)]

/-- The words of MNR_LOG (Table 14.9); a tag without an entry reads 0xFF. -/
def mnrLogWords (d : Dev) : List Word :=
  let m := d.mnr
  let st (t : Nat) : Nat := Sparse.get 0xFF m.log t
  BitVec.ofNat 32 (m.logEpoch + 65536 * m.log.length) ::
    (List.range 256).map fun i => BitVec.ofNat 32 (st (4 * i) + 256 * st (4 * i + 1) + 65536 * st (4 * i + 2) + 16777216 * st (4 * i + 3))

/-! Interrupt sources (R418, R419). -/

/-- The sources of the blocks that retention SLEEP leaves a clock, the AON and SEC domains and the doorbells of the mailboxes; any other source holds
its level and makes no arrival there (R428, R476). -/
def awakeSource (n : Nat) : Bool := decide (376 ≤ n ∧ n ≤ 383) || decide (464 ≤ n)

/-- IC_ARRIVAL: the input of source n changes to make an arrival under its SENSE. The sources of Taproot have its inputs; those of the mailboxes
follow their conditions, and one that no chapter defines never asserts (R416). -/
def icArrival (n : Nat) (d : Dev) : Dev :=
  if 1 ≤ n ∧ n ≤ 26 then
    let v := match d.ic.sense n with | 0 | 1 => true | 2 => false | _ => !bit d.tap.input n
    taprootInput n v (taprootInput n (if d.ic.sense n = 3 then bit d.tap.input n else !v) d)
  else if (32 ≤ n ∧ n ≤ 57) || !definedSource n || (d.pwr.mode == .sleep && !awakeSource n) then d
  else
    match d.ic.sense n with
    | 0 | 1 => icDo (.input n true) (icLevel n false d)
    | 2 => icDo (.input n false) (icLevel n true d)
    | _ => icDo (.input n (!(d.ic.src n).input)) d

end Sys2Proof.Machine
end

