-- ==== Sys2Proof/Machine/Objects.lean ====
section
/-! DEFINITION. The directory of Meoner objects (R337): for each object its size, fields, modes, checks, effect of a write and words of a read;
and OBJ_READ, OBJ_WRITE, OBJ_INFO (R330, R331), with the rows of the opcode table that write or read one object. -/

namespace Sys2Proof.Machine

/-- An object: the words that contents with these count fields have, its field map, whether it always travels through the buffer, or for reads
only, whether writes are denied, the modes that accept a write, DETAIL of a field that breaks the map, what else rejects a write, what a write
does, what a read returns, and what a successful read clears. -/
structure ObjDef where
  size : List Word → Nat
  fields : List FldDef := []
  buf : Bool := false
  readBuf : Bool := false
  ro : Bool := false
  modes : List Mode := []
  fieldDetail : Nat := 0
  check : List Word → Dev → Option (Nat × Nat) := fun _ _ => none
  apply : Taken → List Word → Dev → Dev := fun _ _ d => d
  read : Dev → List Word := fun _ => []
  clear : Dev → Dev := fun d => d

/-- Contents as a read returns them: the reset contents until the first write. -/
def stored (id n : Nat) (fs : List FldDef) (d : Dev) : List Word := let ws := objWords id d; if ws = [] then resetWords n fs else ws

/-- A write that takes effect and completes with OK. -/
def okApply (id : Nat) (f : List Word → Dev → Dev) : Taken → List Word → Dev → Dev := fun t ws d => finish t.who St.OK id [] (f ws d)

def calReady : List Mode := [.calibrate, .ready]
def calScan : List Mode := [.calibrate, .ready, .scan, .hold]
def scanning (d : Dev) : Bool := d.inMode [.scan, .hold]
def firstSome (a b : Option (Nat × Nat)) : Option (Nat × Nat) := match a with | some r => some r | none => b

/-- A configuration object of n words. -/
def cfgObj (id n : Nat) (fs : List FldDef) (modes : List Mode) (check : List Word → Dev → Option (Nat × Nat)) (f : List Word → Dev → Dev) : ObjDef :=
  { size := fun _ => n, fields := fs, modes, check, apply := okApply id f, read := stored id n fs }

/-- A status object. -/
def statusObj (words : Dev → List Word) (clear : Dev → Dev) : ObjDef := { size := fun _ => 0, ro := true, read := words, clear }

def noCheck (_ : List Word) (_ : Dev) : Option (Nat × Nat) := none

/-! Staged writes (R30, R58, R73, R135, R204). -/

/-- The device with the object staged in SCAN and HOLD, or with the object replaced at once. -/
def stageOrSet (id : Nat) (zero ws : List Word) (d : Dev) : Dev :=
  if scanning d then
    let d := (stageObj id zero ws d).uSpn fun s => { s with stagedAt := Sparse.set 0 s.stagedAt id (d.now + 1) }
    if Obj.SDRV_TABLE.id 0 ≤ id ∧ id ≤ Obj.SDRV_TABLE.id 63 then d.uSdrv fun s => { s with staged := true } else d
  else setObj id ws d

/-- What rejects a write that is staged in SCAN and HOLD: no frames, the object's own check, the whole check of R9. -/
def stageChecks (id : Nat) (zero : List Word) (own : List Word → Dev → Option (Nat × Nat)) (ws : List Word) (d : Dev) : Option (Nat × Nat) :=
  if scanning d then
    if frameLines d = 0 then some (St.WRONG_MODE, 0)
    else firstSome (own ws d) (stageAdmit (stageOrSet id zero ws d))
  else own ws d

/-- The words of a link or group object may change in SCAN and HOLD in the fields that R135 lists only. -/
def linkChecks (id n : Nat) (fs stage : List FldDef) (own : List Word → Dev → Option (Nat × Nat)) (ws : List Word) (d : Dev) : Option (Nat × Nat) :=
  if scanning d && !sameBut n fs stage (objWords id d) ws then some (St.WRONG_MODE, 0) else stageChecks id (resetWords n fs) own ws d

/-! Spindle, sensor drive (chapters 2 and 3). -/

def spindleObj (id : Nat) : Option ObjDef :=
  let out : List Mode := [.calibrate, .ready, .safe]
  if id = Obj.SPN_CTL.id then some (cfgObj id 8 Obj.SPN_CTL.fields out spnCtlCheck spnCtlApply)
  else if id < 0x1005 then
    let n := id - 0x1001
    some (cfgObj id 5 (Obj.SPN_PORT.fields n) out (spnPortCheck n) (spnPortApply n))
  else if id = Obj.SPN_STATUS.id then some (statusObj spnStatusWords spnStatusClear)
  else if id = Obj.SPN_TEMPLATE.id then
    some { size := fun ws => 2 + 2 * Tpl.events ws, fields := Obj.SPN_TEMPLATE.fields, buf := true, modes := [.calibrate, .ready, .scan, .hold, .safe]
           check := stageChecks id [0, 0] templateCheck, apply := okApply id (stageOrSet id [0, 0]), read := stored id 2 Obj.SPN_TEMPLATE.fields }
  else none

def pendingRead (id n : Nat) (fs : List FldDef) (d : Dev) : List Word := (sdrvRead id d).getD (stored id n fs d)

def sensorObj (id : Nat) : Option ObjDef :=
  if id = Obj.SDRV_CTL.id then some { cfgObj id 3 Obj.SDRV_CTL.fields calReady sdrvCtlCheck (sdrvApply id) with read := pendingRead id 3 Obj.SDRV_CTL.fields }
  else if id = Obj.SDRV_PIN.id then
    some { cfgObj id 48 Obj.SDRV_PIN.fields calReady sdrvPinCheck (sdrvApply id) with buf := true, read := pendingRead id 48 Obj.SDRV_PIN.fields }
  else if id = Obj.SDRV_CDS.id then some { cfgObj id 8 Obj.SDRV_CDS.fields calReady sdrvCdsCheck (sdrvApply id) with read := pendingRead id 8 Obj.SDRV_CDS.fields }
  else if id = Obj.SDRV_STATUS.id then some (statusObj sdrvStatusWords sdrvStatusClear)
  else if Obj.SDRV_TABLE.id 0 ≤ id ∧ id ≤ Obj.SDRV_TABLE.id 63 then
    let t := id - Obj.SDRV_TABLE.id 0
    let fs := Obj.SDRV_TABLE.fields t
    some { size := fun ws => 5 + 2 * Tbl.entries ws, fields := fs, buf := true, modes := calScan, fieldDetail := 0xFFFFFFFF
           check := stageChecks id (List.replicate 5 0) (sdrvTableCheck t), apply := okApply id (stageOrSet id (List.replicate 5 0)), read := stored id 5 fs }
  else none

/-! Analog capture and calibration (chapters 4 and 5). -/

def captureObj (id : Nat) : Option ObjDef :=
  if id = Obj.ACQ_CTL.id then some (cfgObj id 1 Obj.ACQ_CTL.fields calReady noCheck acqCtlApply)
  else if id = Obj.ACQ_CH.id then some { cfgObj id 64 Obj.ACQ_CH.fields calReady acqChCheck acqChApply with buf := true }
  else if id = Obj.ACQ_WIN.id then
    some { size := fun ws => 1 + 6 * fieldOf ws Obj.ACQ_WIN.NWIN, fields := Obj.ACQ_WIN.fields, buf := true, modes := calScan
           check := stageChecks id [0] acqWinCheck, apply := okApply id (stageOrSet id [0]), read := stored id 1 Obj.ACQ_WIN.fields }
  else if id = Obj.ACQ_CHK.id then some (cfgObj id 8 Obj.ACQ_CHK.fields calReady acqChkCheck acqChkApply)
  else if id = Obj.ACQ_INJ.id then some { cfgObj id 2 Obj.ACQ_INJ.fields calScan acqInjCheck acqInjApply with read := fun _ => [0, 0] }
  else if id = Obj.ACQ_INJ_RESULT.id then some (statusObj injResultWords injResultClear)
  else if id = Obj.ACQ_STATUS.id then some (statusObj acqStatusWords acqStatusClear)
  else if id = Obj.CAL_CTL.id then some (cfgObj id 2 Obj.CAL_CTL.fields calReady noCheck (setObj id))
  else if id = Obj.CAL_TRIM.id then some { statusObj calTrimWords (fun d => d) with buf := true }
  else if id = Obj.CAL_STATUS.id then some (statusObj calStatusWords calStatusClear)
  else none

/-! Converter links (chapter 6). -/

def linkObj (id : Nat) : Option ObjDef :=
  if id = Obj.JLK_CTL.id then some (cfgObj id 2 Obj.JLK_CTL.fields calReady jlkCtlCheck (setObj id))
  else if id < 0x1409 then
    let l := id - 0x1401
    let fs := Obj.JLK_LINK.fields l
    some (cfgObj id 15 fs calScan (linkChecks id 15 fs (linkStageFields l) (jlkLinkCheck l)) fun ws d =>
      if scanning d then stageOrSet id (resetWords 15 fs) ws d else jlkLinkApply (Fin.ofNat 8 l) ws d)
  else if 0x1410 ≤ id ∧ id < 0x1414 then
    let g := id - 0x1410
    let fs := Obj.JLK_RAW.fields g
    some (cfgObj id 6 fs calScan (linkChecks id 6 fs (rawStageFields g) (jlkRawCheck g)) fun ws d =>
      if scanning d then stageOrSet id (resetWords 6 fs) ws d else jlkRawApply g ws d)
  else if id = Obj.JLK_STATUS.id then some { statusObj jlkStatusWords jlkStatusClear with buf := true }
  else none

/-! Heddle (chapter 7). -/

/-- ACTION and SHADE_RESET of HDL_SWAP. -/
def swapAction (ws : List Word) : Nat := (ws.headD 0).toNat % 4
def swapShade (ws : List Word) : Bool := bit (ws.headD 0).toNat 2

/-- What rejects STAGE (R166, R200). -/
def swapStageCheck (d : Dev) : Option (Nat × Nat) :=
  let x := loadSet d
  let y := liveSet d
  if scanning d then
    firstSome (firstFail [(x.rows != y.rows || x.width != y.width, St.WRONG_MODE, 0), (!cfgB Obj.HDL_CTL.SWAP_AT d && frameLines d == 0, St.WRONG_MODE, 0)])
      (firstSome (stageCheck x d) (stageAdmit (d.uHdl fun h => { h with loadState := 2 })))
  else firstSome (stageCheck x d) (wholeCheck (d.uHdl fun h => { h with live := !h.live }))

/-- What rejects a write of HDL_SWAP. -/
def swapCheck (ws : List Word) (d : Dev) : Option (Nat × Nat) :=
  let a := swapAction ws
  firstSome (firstFail [(8 ≤ (ws.headD 0).toNat, St.BAD_FIELD, 0), (swapShade ws && a != 2, St.BAD_FIELD, 0),
    ((a == 1 || a == 2) && d.hdl.loadState != 0, St.BUSY, 0)]) (if a = 2 then swapStageCheck d else none)

/-- A write of HDL_SWAP: COPY completes when the copy ends (R165). -/
def swapApply (id : Nat) (t : Taken) (ws : List Word) (d : Dev) : Dev :=
  match swapAction ws with
  | 1 => d.uHdl fun h => { h with loadState := 1, copyMbx := some (t.who.mbx, t.who.tag, t.who.sess) }
  | 2 =>
    let d := d.uHdl fun h => { h with shadeReset := swapShade ws }
    if scanning d then
      let d := d.uSpn fun s => { s with stagedAt := Sparse.set 0 s.stagedAt id (d.now + 1) }
      finish t.who St.OK id [] (d.uHdl fun h => { h with loadState := 2, atLine := cfgB Obj.HDL_CTL.SWAP_AT d })
    else finish t.who St.OK id [] (bankSwapNow d)
  | 3 => finish t.who St.OK id [] (if d.hdl.loadState = 2 then d.uHdl fun h => { h with loadState := 0, shadeReset := false } else d)
  | _ => finish t.who St.OK id [] d

/-- HDL_DEF_ADD: the entry joins the live list, or completes with SPARES_EXHAUSTED (R161). -/
def defAddApply (id : Nat) (t : Taken) (ws : List Word) (d : Dev) : Dev :=
  let (st, d) := addDefect (ws.headD 0).toNat d
  finish t.who st (if st = St.OK then id else 0) [] d

/-- A write of the load bank. -/
def bankObj (id : Nat) (size : List Word → Nat) (fs : List FldDef) (check : List Word → Dev → Option (Nat × Nat)) (f : List Word → Dev → Dev) (read : Dev → List Word) : ObjDef :=
  { size, fields := fs, buf := true, modes := calScan, check := fun ws d => firstSome (loadBusy d) (check ws d), apply := okApply id f, read }

def heddleObj (id : Nat) : Option ObjDef :=
  if id = Obj.HDL_CTL.id then some (cfgObj id 3 Obj.HDL_CTL.fields calReady hdlCtlCheck (setObj id))
  else if id = Obj.HDL_MAP.id then
    some (bankObj id (fun ws => 2 + 4 * fieldOf ws Obj.HDL_MAP.SEGS) Obj.HDL_MAP.fields hdlMapCheck hdlMapApply fun d => (loadSet d).map)
  else if id = Obj.HDL_TABLE.id then
    some { bankObj id (fun ws => 2 + fieldOf ws Obj.HDL_TABLE.COUNT) Obj.HDL_TABLE.fields hdlTableCheck hdlTableApply hdlTableWords with clear := hdlTableDrawn }
  else if id = Obj.HDL_DEFECT.id then some (bankObj id (fun ws => 1 + fieldOf ws Obj.HDL_DEFECT.COUNT) Obj.HDL_DEFECT.fields hdlDefectCheck hdlDefectApply hdlDefectWords)
  else if id = Obj.HDL_PHASE.id then some (cfgObj id 4 Obj.HDL_PHASE.fields [.ready, .scan, .hold] noCheck (setObj id))
  else if id = 0x1505 then some { size := fun _ => 1, modes := calScan, check := swapCheck, apply := swapApply id, read := fun _ => [0] }
  else if id = 0x1506 then some { size := fun _ => 1, modes := [.scan, .hold], check := defAddCheck, apply := defAddApply id, read := fun _ => [0] }
  else if id = Obj.HDL_STATUS.id then some (statusObj hdlStatusWords hdlStatusClear)
  else if id = 0x1509 then some { statusObj hdlShadeWords (fun d => d) with buf := true }
  else if id = 0x150A then some (statusObj defLogWords defLogClear)
  else if 0x1540 ≤ id ∧ id < 0x1580 then
    some (bankObj id (fun _ => 2048) [] noCheck (hdlLinApply (id - 0x1540)) (hdlLinWords (id - 0x1540)))
  else none

/-! TDI and statistics (chapters 8 and 9). -/

def imageObj (id : Nat) : Option ObjDef :=
  if id = Obj.TDI_CTL.id then some (cfgObj id 3 Obj.TDI_CTL.fields calReady noCheck (setObj id))
  else if id = Obj.TDI_RESAMPLE.id then
    let fs := Obj.TDI_RESAMPLE.fields
    some (cfgObj id 4 fs calScan (stageChecks id (resetWords 4 fs) tdiResampleCheck) (stageOrSet id (resetWords 4 fs)))
  else if id = Obj.TDI_STATUS.id then some (statusObj tdiStatusWords fun d => d)
  else if id = Obj.STAT_CTL.id then some (cfgObj id 6 Obj.STAT_CTL.fields calReady statCtlCheck (setObj id))
  else if id = 0x1701 then
    some { size := fun ws => 1 + 6 * getBits ws 0 5, modes := calScan, check := statRegionCheck, apply := okApply id (setObj id), read := stored id 1 [] }
  else if id = Obj.STAT_BLACK.id then some (cfgObj id 64 Obj.STAT_BLACK.fields calReady noCheck (setObj id))
  else if id = Obj.STAT_HIST_CFG.id then some (cfgObj id 12 Obj.STAT_HIST_CFG.fields calReady statHistCheck (setObj id))
  else if id = 0x1704 then some { statusObj statMeansWords (fun d => d) with buf := true }
  else if id = Obj.STAT_STATUS.id then some (statusObj statStatusWords fun d => d)
  else if 0x1710 ≤ id ∧ id < 0x1714 then some { statusObj (statHistWords (id - 0x1710)) (fun d => d) with buf := true }
  else none

/-! Skein, Reel and pacing (chapters 10 and 11), the stream and the sessions (12 and 14). -/

def storeObj (id : Nat) : Option ObjDef :=
  if id = Obj.SKN_QUEUE.id then some { cfgObj id 96 Obj.SKN_QUEUE.fields calReady sknQueueCheck (fun ws d => groupsStart (sknQueueApply ws d)) with buf := true }
  else if id = Obj.REEL_LS.id then some (cfgObj id 12 Obj.REEL_LS.fields calReady reelLsCheck reelLsApply)
  else if id = Obj.SKN_STATUS.id then some (statusObj sknStatusWords fun d => d)
  else if id = Obj.SKN_QSTAT.id then some { statusObj sknQstatWords (fun d => d) with buf := true }
  else if id = Obj.REEL_STATUS.id then some { statusObj reelStatusWords (fun d => d) with buf := true }
  else if id = Obj.PACE_CTL.id then some (cfgObj id 6 Obj.PACE_CTL.fields calReady paceCtlCheck (setObj id))
  else if id = Obj.PACE_FC.id then some (cfgObj id 4 Obj.PACE_FC.fields calReady paceFcCheck fun ws d => refreshPins (setObj id ws d))
  else if id = Obj.PACE_STATUS.id then some (statusObj paceStatusWords paceStatusClear)
  else if id = Obj.HS_STATUS.id then some (statusObj hsStatusWords fun d => d)
  else if id = Obj.MNR_SESSION.id then some (statusObj mnrSessionWords fun d => d)
  else if id = Obj.MNR_LOG.id then some { statusObj mnrLogWords (fun d => d) with buf := true }
  else none

/-! Shuttle, illumination and auxiliary crosspoint (chapters 15 to 17). -/

/-- The fields of SHU_WAVE (Table 15.8). -/
def shuWaveFields : List FldDef :=
  ((List.range 257).flatMap fun j => [Obj.SHU_WAVE.W j, ⟨Obj.SHU_WAVE.id, 16 * j + 9, 7, .rsv, 0, 0, 0⟩]) ++ [⟨Obj.SHU_WAVE.id, 4112, 16, .rsv, 0, 0, 0⟩]

def shuttleObj (id : Nat) : Option ObjDef :=
  if id < 0x1B04 then
    let n := id - 0x1B00
    some { cfgObj id 12 (shuAxisFields n) calReady (shuAxisCheck n) (shuAxisApply n) with readBuf := true }
  else if id = Obj.SHU_WAVE.id then some { cfgObj id 129 shuWaveFields calReady shuWaveCheck (setObj id) with buf := true, read := shuWaveWords }
  else if id = Obj.SHU_POS.id then
    some { cfgObj id 3 Obj.SHU_POS.fields [.calibrate, .ready, .scan, .hold, .safe] (fun ws d => if d.pwr.mode = .ready then shuPosCheck ws d else some (St.BUSY, 0)) shuPosApply with
      read := fun _ => [0, 0, 0] }
  else if id = Obj.SHU_STATUS.id then some { statusObj shuStatusWords shuStatusClear with buf := true }
  else none

/-- A write of ILM_CHAIN: it completes when the shift has ended (R386). -/
def chainApply (t : Taken) (ws : List Word) (d : Dev) : Dev := chainBegin ws (some t.who) d

def lampObj (id : Nat) : Option ObjDef :=
  if id = Obj.ILM_CTL.id then some (cfgObj id 3 Obj.ILM_CTL.fields calReady noCheck (setObj id))
  else if id = Obj.ILM_STRING.id then some (cfgObj id 16 Obj.ILM_STRING.fields calReady ilmStringCheck (ilmApply id))
  else if id = Obj.ILM_LAMP.id then some { cfgObj id 128 Obj.ILM_LAMP.fields calReady ilmLampCheck (ilmApply id) with buf := true }
  else if id = Obj.ILM_PHASE.id then some { cfgObj id 320 Obj.ILM_PHASE.fields calReady ilmPhaseCheck (ilmApply id) with buf := true }
  else if id = Obj.ILM_STATUS.id then some { statusObj ilmStatusWords ilmStatusClear with buf := true }
  else none

/-- ILM_CHAIN holds 8 × BOARDS words (R394). -/
def chainObj (boards : Nat) : ObjDef :=
  { size := fun _ => 8 * boards, buf := true, modes := calReady, check := fun ws d => chainCheck ws d, apply := chainApply
    read := fun d => let ws := objWords 0x1C10 d; (ws ++ List.replicate (8 * boards - ws.length) 0).take (8 * boards) }

def auxObj (id : Nat) : Option ObjDef :=
  let modes : List Mode := [.calibrate, .ready, .scan, .hold, .safe]
  if id = Obj.AUX_CTL.id then some (cfgObj id 3 Obj.AUX_CTL.fields modes noCheck auxCtlApply)
  else if id = Obj.AUX_SLOT.id then some { cfgObj id 128 Obj.AUX_SLOT.fields modes auxSlotCheck auxSlotApply with buf := true }
  else if id = Obj.AUX_AMON.id then some (cfgObj id 4 Obj.AUX_AMON.fields modes auxAmonCheck auxAmonApply)
  else if id = Obj.AUX_STATUS.id then some (statusObj auxStatusWords auxStatusClear)
  else none

/-! Karum, power and security (chapters 19 to 21). -/

def fabricObj (id : Nat) : Option ObjDef :=
  if id = Obj.KRM_NODE.id then some (cfgObj id 3 Obj.KRM_NODE.fields calReady noCheck (setObj id))
  else if id = Obj.KRM_CTL.id then some (cfgObj id 4 Obj.KRM_CTL.fields calReady krmCtlCheck krmCtlApply)
  else if id = Obj.KRM_ROUTE.id then some { cfgObj id 2048 [] calScan krmRouteCheck (setObj id) with buf := true }
  else if id = Obj.KRM_GROUP.id then some (statusObj krmGroupWords fun d => d)
  else if id = Obj.KRM_STATUS.id then some { statusObj krmStatusWords krmStatusClear with buf := true }
  else none

/-- ACTION 3 is rejected, and 0 for the classes that Table 20.6 gives no such action. -/
def policyCheck (ws : List Word) (_ : Dev) : Option (Nat × Nat) :=
  firstFail [((List.range 15).any fun c => fieldOf ws (Obj.PWR_FAULT_POLICY.ACTION c) == 3, St.BAD_FIELD, 0),
    (fieldOf ws (Obj.PWR_FAULT_POLICY.ACTION 0) == 0 || fieldOf ws (Obj.PWR_FAULT_POLICY.ACTION 13) == 0, St.BAD_FIELD, 0)]

def controlObj (id : Nat) : Option ObjDef :=
  let modes : List Mode := [.calibrate, .ready, .safe]
  if id = Obj.PWR_FAULT_POLICY.id then some (cfgObj id 1 Obj.PWR_FAULT_POLICY.fields modes policyCheck (setObj id))
  else if id = Obj.PWR_CTL.id then some (cfgObj id 1 Obj.PWR_CTL.fields modes noCheck (setObj id))
  else if id = Obj.PWR_STATUS.id then some (statusObj pwrStatusWords fun d => d)
  else if id = Obj.SEC_MAP.id then some (statusObj (stored id 5 Obj.SEC_MAP.fields) fun d => d)
  else if id = Obj.SEC_STATUS.id then some (statusObj secStatusWords fun d => d)
  else none

/-- The object of an ID (Table 14.11). -/
def objDef (id : Nat) (d : Dev) : Option ObjDef :=
  if id = 0x1C10 then some (chainObj (cfg Obj.ILM_CTL.BOARDS d))
  else match id / 256 with
    | 0x10 => spindleObj id
    | 0x11 => sensorObj id
    | 0x12 | 0x13 => captureObj id
    | 0x14 => linkObj id
    | 0x15 => heddleObj id
    | 0x16 | 0x17 => imageObj id
    | 0x18 | 0x19 | 0x1A => storeObj id
    | 0x1B => shuttleObj id
    | 0x1C => lampObj id
    | 0x1D => auxObj id
    | 0x1E => fabricObj id
    | 0x1F => controlObj id
    | _ => none

/-- The domain in reset or in live update that refuses every access to an object (R526). -/
def domainBusy (id : Nat) (d : Dev) : Option Nat :=
  let n := match id / 256 with
    | 0x10 => 7 | 0x11 | 0x12 | 0x13 => 8 | 0x14 => 9 | 0x15 | 0x16 | 0x17 => 10 | 0x18 => 11 | 0x1B => 12 | 0x1C => 13 | 0x1D => 14 | 0x1E => 15
    | 0x1F => if 0x1F10 ≤ id then 1 else 0
    | _ => 0
  if d.runs n then none else some n

/-! OBJ_READ, OBJ_WRITE, OBJ_INFO. -/

/-- A field breaks its map: a reserved field that is not 0, or a value outside its range (R4, R334). -/
def fieldsBad (fs : List FldDef) (ws : List Word) : Bool :=
  fs.any fun f => (f.acc == .rw || f.acc == .wo || f.acc == .rwl || f.acc == .rsv) && (decide (getBits ws f.off f.wid < f.lo) || decide (f.hi < getBits ws f.off f.wid))

/-- Fields that a write does not set keep their value (Table 0.2). -/
def keepRo (fs : List FldDef) (old ws : List Word) : List Word :=
  fs.foldl (fun ws f => if f.acc = .ro ∨ f.acc = .rom ∨ f.acc = .rc then setBits ws f.off f.wid (getBits old f.off f.wid) else ws) ws

/-- n words from a list, with zeros where it is shorter. -/
def padTo (n : Nat) (ws : List Word) : List Word := (ws ++ List.replicate (n - ws.length) 0).take n

/-- What an OBJ_WRITE meets before its owner sees it (R330, R331). -/
def writeForm (o : ObjDef) (c : MnrCmd) (t : Taken) (ws : List Word) : Option (Nat × Nat) :=
  let n := o.size ws
  if bit t.arg 16 then firstFail [(bufBad t, St.BAD_FIELD, 0), (!c.hostOk, St.HW_FAULT, 0), (t.w 2 != 4 * n, St.BAD_FIELD, 0)]
  else firstFail [(o.buf || decide (14 < n) || t.len != n, St.BAD_FIELD, 0)]

/-- The words an OBJ_WRITE carries. -/
def writeWords' (c : MnrCmd) (t : Taken) : List Word := if bit t.arg 16 then c.buf else padTo t.len t.pay

/-- A write of the object is still in progress: a command that names it waits (R325). -/
def objInProgress (id : Nat) (d : Dev) : Bool :=
  (id == 0x1505 && d.hdl.copyMbx.isSome) || (id == 0x1C10 && match d.ilm.shift with | some x => x.who.isSome | none => false)

/-- A taken command goes on waiting to start. -/
def waitOn (t : Taken) (d : Dev) : Dev := d.uMnr fun x => { x with taken := t :: x.taken }

/-- OBJ_WRITE (R330, R331): form, fields, mode and the owner's check; then its effect. An object that takes no write answers DENIED, and one whose
domain is busy BUSY, before form and fields are looked at: R4, R40, R336 and R526 give them no order (DESIGN CHOICE, assumption log 46). -/
def objWrite (c : MnrCmd) (d : Dev) : Dev :=
  command Op.OBJ_WRITE c (fun t d =>
    let id := t.arg % 65536
    if 131072 ≤ t.arg then reject t St.BAD_FIELD 0 d
    else if objInProgress id d then waitOn t d
    else
      match objDef id d with
      | none => reject t St.BAD_OBJECT 0 d
      | some o =>
        match domainBusy id d with
        | some n => reject t St.BUSY n d
        | none =>
          let ws := writeWords' c t
          if o.ro then reject t St.DENIED 0 d
          else
            match firstSome (writeForm o c t ws) (firstFail [(fieldsBad o.fields (padTo (o.size ws) ws), St.BAD_FIELD, o.fieldDetail), (!o.modes.contains d.pwr.mode, St.WRONG_MODE, 0)]) with
            | some (s, x) => reject t s x d
            | none =>
              let ws := padTo (o.size ws) ws
              match o.check ws d with
              | some (s, x) => reject t s x d
              | none => o.apply t (keepRo o.fields (o.read d) ws) d) d

/-- OBJ_READ (R330, R331): the words as they stand, and the fields that a read clears. -/
def objRead (c : MnrCmd) (d : Dev) : Dev :=
  command Op.OBJ_READ c (fun t d =>
    let id := t.arg % 65536
    if 131072 ≤ t.arg then reject t St.BAD_FIELD 0 d
    else if objInProgress id d then waitOn t d
    else
      match objDef id d with
      | none => reject t St.BAD_OBJECT 0 d
      | some o =>
        match domainBusy id d with
        | some n => reject t St.BUSY n d
        | none =>
          let ws := o.read d
          let size := 4 * ws.length
          if bit t.arg 16 then
            checked t [(bufBad t, St.BAD_FIELD, 0), (decide (t.w 2 < size), St.BAD_FIELD, size), (!c.hostOk, St.HW_FAULT, 0)]
              (fun d => finish t.who St.OK size [] (o.clear (writeWords (bufAddr t) ws d))) d
          else
            checked t [(o.buf || o.readBuf || decide (13 < ws.length), St.BAD_FIELD, 0)] (fun d => finish t.who St.OK id ws (o.clear d)) d) d

/-- OBJ_INFO (Table 14.5): the present size in bytes, and whether a read needs the buffer (assumption log 47). -/
def objInfo (c : MnrCmd) (d : Dev) : Dev :=
  command Op.OBJ_INFO c (fun t d =>
    if 65536 ≤ t.arg then reject t St.BAD_FIELD 0 d
    else if objInProgress t.arg d then waitOn t d
    else
      match objDef t.arg d with
      | none => reject t St.BAD_OBJECT 0 d
      | some o =>
        match domainBusy t.arg d with
        | some n => reject t St.BUSY n d
        | none =>
          let n := (o.read d).length
          finish t.who St.OK 0 [BitVec.ofNat 32 (4 * n), BitVec.ofNat 32 (b2n (o.buf || o.readBuf || decide (13 < n)))] d) d

/-! The rows that name one object. -/

/-- The command with its object ID set. -/
def withObj (id : Nat) (c : MnrCmd) : MnrCmd := { c with arg := BitVec.ofNat 32 (id + c.arg.toNat / 65536 * 65536) }

/-- A command of the same mailbox and tag was taken for another object. -/
def otherTaken (id : Nat) (c : MnrCmd) (d : Dev) : Bool := d.mnr.taken.any fun t => t.who.mbx == c.mbx.val && t.who.tag == c.tag.val && t.arg % 65536 != id

def namedWrite (id : Nat) (c : MnrCmd) (d : Dev) : Dev := if otherTaken id c d then d else objWrite (withObj id c) d
def namedRead (id : Nat) (c : MnrCmd) (d : Dev) : Dev := if otherTaken id c d then d else objRead (withObj id c) d

/-- A command whose first payload word carries an ACTION of HDL_SWAP. -/
def swapWrite (action : Nat) (c : MnrCmd) (d : Dev) : Dev :=
  let set (l : List Word) : List Word := match l with
    | [] => []
    | w :: ws => BitVec.ofNat 32 (w.toNat / 4 * 4 + action) :: ws
  let other := d.mnr.taken.any fun t => t.who.mbx == c.mbx.val && t.who.tag == c.tag.val && !bit t.arg 16 && swapAction t.pay != action
  if other then d else namedWrite 0x1505 { c with pay := set c.pay, buf := set c.buf } d

end Sys2Proof.Machine
end

