-- ==== Sys2Proof/Machine/RegisterReads.lean ====
section
/-! DEFINITION. Which domains and endpoints run, and what registers read as (R2, R3, R299): BAR0 (Table 12.7) for the host, and the maps of the Canopy cores and of Distaff (chapters
13 and 18). A reserved bit, an unassigned offset and a field of access WO read 0; a field of access RC is cleared by its read. -/

namespace Sys2Proof.Machine

/-- The device is powered beyond its AON domain (R476): not in RESET, and not in Taproot-only SLEEP. -/
def powered (d : Dev) : Bool := d.pwr.mode != .reset && !tapOnly d

/-- Domain n is powered, clocked and running (R476, Table 20.12). -/
def Dev.on (n : Nat) (d : Dev) : Bool := d.runs n && !d.inMode [.reset, .sleep]

/-- Endpoint t executes (R312): cores 0 to 3 after BOOT and not in the save of a sleep (R428), Distaff (4) in BOOT too; none executes in RESET or
SLEEP. -/
def endpointRuns (t : Nat) (d : Dev) : Bool :=
  if t < 4 then d.on (2 + t) && d.pwr.mode != .boot && d.tap.phase == .awake else d.on 1

/-- Endpoint e acts on a mailbox at instant t: it executes, or its domain is reset in that cycle, which comes after (R316). -/
def endpointActs (e t : Nat) (d : Dev) : Bool := endpointRuns e d || at' d.mbx.resetAt e none == some t

/-! The words of the register maps. -/

/-- MBX_W0 to MBX_W15 of a mailbox, and its CTL, STAT and EPOCH words: stat and epoch as its table has them. -/
def mailboxWord (x : Mbox) (off stat epoch : Nat) : Nat :=
  if off < 0x40 then (at' x.words (off / 4) 0).toNat
  else if off = 0x44 then stat
  else if off = 0x48 then epoch
  else 0

/-- A word of H2D mailbox m (Table 13.1). -/
def h2dReg (m off : Nat) (d : Dev) : Nat :=
  let x := h2dAt m d
  mailboxWord x off (b2n x.posted + 2 * b2n x.discarded + 4 * b2n x.overrun + 256 * x.receiver) (x.postEpoch + 65536 * epochOf x.receiver d)

/-- A word of D2H mailbox m (Table 13.2). -/
def d2hReg (m off : Nat) (d : Dev) : Nat :=
  let x := d2hAt m d
  mailboxWord x off (b2n x.posted + 2 * b2n x.tmo + 256 * x.sender) (x.postEpoch + 65536 * epochOf x.sender d)

/-- A word of internal mailbox i (Table 13.7). -/
def mbiReg (i off : Nat) (d : Dev) : Nat :=
  let x := mbiAt i d
  if off = 0x4C then x.tmoUs
  else mailboxWord x off (b2n x.posted + 2 * b2n x.discarded + 4 * b2n x.tmo + 8 * b2n x.overrun + 256 * x.sender + 4096 * x.receiver)
    (x.postEpoch + 65536 * epochOf x.sender d)

/-- A word of the mailbox status region (Table 13.3). -/
def mbxStatusReg (off : Nat) (d : Dev) : Nat :=
  let m := d.mbx
  let posted (l : List Mbox) : Nat := packBits (l.map (·.posted))
  match off with
  | 0x00 => posted m.h2d + 256 * posted m.d2h + 65536 * packBits (m.d2h.map (·.tmo))
  | 0x04 => m.h2dEmptied + 256 * m.d2hArrived
  | 0x08 => m.emptyVec + 256 * m.arriveVec + 32768 * b2n m.evtEn
  | 0x0C => m.mbxTmo
  | 0x14 => at' m.cpyEpoch 0 0 + 65536 * at' m.cpyEpoch 1 0
  | 0x18 => at' m.cpyEpoch 2 0 + 65536 * at' m.cpyEpoch 3 0
  | 0x1C => m.secEpoch
  | 0x20 => m.tmoCount + 65536 * m.overrunCount
  | _ => 0

/-- A word of ring n's block (Table 12.2). -/
def ringReg (n off : Nat) (d : Dev) : Nat :=
  let r := ringAt n d
  match off with
  | 0x00 => r.rbLo
  | 0x04 => r.rbHi
  | 0x08 => r.sizeLog2 + 16 * r.batchLog2 + 256 * r.queue + 65536 * r.cq + 2147483648 * b2n r.en
  | 0x0C => r.prod
  | 0x10 => r.cons
  | 0x14 => r.confLo
  | 0x18 => r.confHi
  | 0x1C => r.rsLo
  | 0x20 => r.rsHi
  | 0x28 => b2n r.running + 2 * b2n r.stall + 4 * b2n r.noSession + 8 * b2n r.cfgErr + 16 * b2n r.resend.isSome
  | 0x2C => r.dlv.getD 0 % 4294967296
  | 0x30 => r.dlv.getD 0 / 4294967296
  | 0x34 => r.idleFlush
  | 0x38 => r.descErr + 65536 * r.rsDrop
  | _ => 0

/-- A word of completion queue q's block (Table 12.4). -/
def cqReg (q off : Nat) (d : Dev) : Nat :=
  let x := cqAt q d
  match off with
  | 0x00 => x.cbLo
  | 0x04 => x.cbHi
  | 0x08 => x.sizeLog2 + 256 * x.vector + 2147483648 * b2n x.en
  | 0x0C => x.head
  | 0x10 => x.tail
  | 0x14 => x.modCount + 65536 * x.modTime
  | 0x18 => b2n x.full + 2 * b2n x.cfgErr + 256 * x.pending
  | _ => 0

/-- A word of the device status region (Table 12.8). -/
def statusReg (off : Nat) (d : Dev) : Nat :=
  match off with
  | 0x00 => d.pwr.mode.code + 256 * b2n d.mnr.open_
  | 0x04 => packBits ((List.range 16).map fun n => d.pwr.faults.any fun f => f.domain == n)
  | 0x08 => d.hs.devEpoch + 65536 * d.hs.hostEpoch
  | 0x0C => d.spn.lastLine % 4294967296
  | 0x10 => d.spn.lastLine / 4294967296 % 65536
  | _ => 0

/-- A word of entry v of the MSI-X table. -/
def msixReg (v w : Nat) (d : Dev) : Nat :=
  let e := at' d.hs.msix v {}
  match w with
  | 0 => e.addr % 4294967296
  | 1 => e.addr / 4294967296
  | 2 => e.data
  | _ => b2n e.mask

/-- The word that BAR0 holds at an aligned offset (Table 12.7); what lies in the HOST domain reads 0 while that domain does not run. -/
def bar0Reg (off : Nat) (d : Dev) : Nat :=
  let host (v : Nat) : Nat := if d.on 6 then v else 0
  if off < 0x800 then h2dReg (off / 256) (off % 256) d
  else if off < 0x1000 then d2hReg (off / 256 - 8) (off % 256) d
  else if off < 0x1100 then mbxStatusReg (off % 256) d
  else if 0x10000 ≤ off ∧ off < 0x11000 then host (ringReg ((off - 0x10000) / 64) (off % 64) d)
  else if 0x20000 ≤ off ∧ off < 0x20200 then host (cqReg ((off - 0x20000) / 64) (off % 64) d)
  else if 0x30000 ≤ off ∧ off < 0x30040 then statusReg (off % 64) d
  else if 0x100000 ≤ off ∧ off < 0x100400 then host (msixReg ((off - 0x100000) / 16) (off % 16 / 4) d)
  else if off = 0x108000 then host (d.hs.pba % 4294967296)
  else if off = 0x108004 then host (d.hs.pba / 4294967296)
  else 0

/-- What a read of the word at an offset of BAR0 clears: DISCARDED and OVERRUN of an H2D mailbox (Table 13.1). -/
def bar0Clears (off : Nat) (d : Dev) : Dev :=
  if off < 0x800 ∧ off % 256 = 0x44 then updH2d (off / 256) (fun x => { x with discarded := false, overrun := false }) d else d

/-- The words that a register read returned. -/
def returned (ws : List Nat) (d : Dev) : Dev := d.uHs fun h => { h with readData := ws.map (BitVec.ofNat 32), claimRead := none }

/-- A read of BAR0 by the host: one aligned 32-bit word, or the two of an aligned 64-bit read; any other access reads 0 (R299). -/
def bar0Read (off : Nat) (wide : Bool) (d : Dev) : Dev :=
  hostWrite (fun d =>
    if wide then
      if off % 8 = 0 then returned [bar0Reg off d, bar0Reg (off + 4) d] (bar0Clears (off + 4) (bar0Clears off d)) else returned [0, 0] d
    else if off % 4 = 0 then returned [bar0Reg off d] (bar0Clears off d)
    else returned [0] d) d

/-- A word of the internal map that endpoint t reads in the mailbox block (R317, R318); the event registers of another endpoint read 0. -/
def mbiBlockReg (t off : Nat) (d : Dev) : Nat :=
  if off < 0x1000 then mbiReg (off / 256) (off % 256) d
  else if off = 0x1000 + 8 * t then at' d.mbx.mbiArrived t 0
  else if off = 0x1004 + 8 * t then at' d.mbx.mbiEmptied t 0
  else 0

/-- IC_STATE[n] (Table 18.3). -/
def icStateReg (n : Nat) (d : Dev) : Nat :=
  let x := d.ic.src n
  b2n x.pending + 2 * b2n x.active + 4 * b2n x.input + 256 * x.claimant + 65536 * x.arrivals

/-- IC_TSTAT_t (Table 18.3): the output, and the ID that a claim would return. -/
def icTstatReg (t : Nat) (d : Dev) : Nat :=
  let id := match d.ic.best t with | some n => n | none => if d.ic.evAt = d.now ∧ d.ic.evs ≠ [] ∧ bit d.ic.base.out t = true then 1023 else 0
  b2n (d.ic.best t).isSome + 65536 * id

/-- A Taproot register (Table 18.5). -/
def tapReg (off : Nat) (d : Dev) : Nat :=
  match off with
  | 0x00 => d.tap.watch ||| 1
  | 0x04 => d.tap.sense0
  | 0x08 => d.tap.sense1
  | 0x0C => d.tap.event
  | 0x10 => d.tap.first
  | 0x18 => d.tap.firstTime % 4294967296
  | 0x1C => d.tap.firstTime / 4294967296 % 4294967296
  | 0x20 => d.tap.timer
  | _ => 0

/-- A word that endpoint t reads in the block of the interrupt controller and of Taproot (R417, R426, R427, R430); the target blocks of others
read 0. -/
def icBlockReg (t off : Nat) (d : Dev) : Nat :=
  if off < 0x800 then (if off = 0 then 0 else d.ic.cfgOf (off / 4))
  else if off < 0x1000 then icStateReg ((off - 0x800) / 4) d
  else if off = 0x1008 + 0x40 * t then icTstatReg t d
  else if off = 0x1400 then b2n d.ic.deliver + 2 * b2n d.ic.slpKind
  else if off = 0x1404 then d.ic.badComplete
  else if off = 0x1408 then d.ic.slpResult
  else if 0x1800 ≤ off ∧ off < 0x1824 then tapReg (off - 0x1800) d
  else 0

/-- A read by endpoint t of an address of its map. A read of IC_CLAIM_t claims (R421); the fields of access RC are cleared. What the security
map does not grant core 3, which is every register outside these blocks (the manual gives them no address), reads 0 and is counted (R484). -/
def coreRead (t addr : Nat) (d : Dev) : Dev :=
  if !endpointRuns t d then d
  else if addr % 4 ≠ 0 then returned [0] d
  else if 0x08000000 ≤ addr ∧ addr < 0x08002000 then
    let off := addr - 0x08000000
    let d := returned [mbiBlockReg t off d] d
    if off < 0x1000 ∧ off % 256 = 0x44 then updMbi (off / 256) (fun x => { x with discarded := false, overrun := false }) d else d
  else if 0x09000000 ≤ addr ∧ addr < 0x09002000 then
    let off := addr - 0x09000000
    if off = 0x1000 + 0x40 * t then
      (icClaim t d).uHs fun h => { h with readData := [], claimRead := some t }
    else if t = 3 ∧ 0x1800 ≤ off then secViolation (returned [0] d)
    else
      let d := returned [icBlockReg t off d] d
      if off = 0x1404 then icDo .clearBad d else d
  else if t = 3 then secViolation (returned [0] d)
  else returned [0] d

end Sys2Proof.Machine
end

