-- ==== Sys2Proof/Machine/Registers.lean ====
section
/-! DEFINITION. Register accesses: BAR0 (Table 12.7), and the maps of the Canopy cores and of Distaff (chapters 13 and 18), with the security
map's refusals (R484, R493). -/

namespace Sys2Proof.Machine

/-- The domain is powered and clocked, be it in reset or not: the reference wait and a temperature measurement go on in a reset of ACQ and of SHU
(R359, R479). -/
def acqClocked (d : Dev) : Bool := !d.inMode [.reset, .sleep]
def shuClocked (d : Dev) : Bool := !d.inMode [.reset, .sleep]

/-- A host write of the 32-bit word at an offset of BAR0 (R299, Table 12.7); other offsets ignore it. -/
def bar0Word (off v : Nat) (d : Dev) : Dev :=
  let o := off % 256
  if off % 4 ≠ 0 then d
  else if off < 0x800 then
    if o < 0x40 then h2dWord (off / 256) (o / 4) v d
    else if o = 0x40 ∧ bit v 0 then h2dGo (off / 256) d
    else d
  else if off < 0x1000 then if o = 0x40 ∧ bit v 0 then d2hDone (off / 256 - 8) d else d
  else if off < 0x1100 then mbxStatusWrite o v d
  else if 0x10000 ≤ off ∧ off < 0x11000 then if d.on 6 then ringWrite ((off - 0x10000) / 64) (off % 64) v d else d
  else if 0x20000 ≤ off ∧ off < 0x20200 then if d.on 6 then cqWrite ((off - 0x20000) / 64) (off % 64) v d else d
  else if 0x100000 ≤ off ∧ off < 0x100400 then if d.on 6 then msixWrite ((off - 0x100000) / 16) (off % 16 / 4) v d else d
  else d

/-- A host write to BAR0: one aligned 32-bit word, or an aligned 64-bit write as its two words, the lower first; any other is ignored (R299). -/
def bar0Write (off v : Nat) (high : Option Nat) (d : Dev) : Dev :=
  hostWrite (fun d => match high with
    | none => bar0Word off v d
    | some h => if off % 8 = 0 then bar0Word (off + 4) h (bar0Word off v d) else d) d

/-- A write of the SENDER and RECEIVER of an internal mailbox, which the lock ends with BOOT (Table 13.7). -/
def mbiRouteWrite (i v t : Nat) (d : Dev) : Dev :=
  let x := mbiAt i d
  let s := bits v 10 8
  let r := bits v 14 12
  if (x.sender = t ∨ x.receiver = t) ∧ d.pwr.mode = .boot ∧ s < 5 ∧ r < 5 ∧ s ≠ r then
    updMbi i (fun x => { x with sender := s, receiver := r }) d
  else d

/-- A write by endpoint t in the mailbox block of the internal map (R315, R317, R318). -/
def mbiBlockWrite (off v t : Nat) (d : Dev) : Dev :=
  if off < 0x1000 then
    let i := off / 256
    let o := off % 256
    if o = 0x40 then
      let d := if bit v 0 then mbiGo i t d else d
      if bit v 1 then mbiDone i t d else d
    else if o = 0x44 then mbiRouteWrite i v t d
    else mbiWrite i o v t d
  else if off = 0x1000 + 8 * t then mbiEventClear t false v d
  else if off = 0x1004 + 8 * t then mbiEventClear t true v d
  else if off = 0x1040 then mbxRouteWrite t v d
  else d

/-- A write by endpoint t in the interrupt controller's and Taproot's block (R417, R426, R427, R430). -/
def icBlockWrite (off v t : Nat) (d : Dev) : Dev :=
  if off < 0x800 then icCfgWrite t (off / 4) v d
  else if off = 0x1004 + 0x40 * t then icComplete t (v % 1024) d
  else if off = 0x1400 then icGctlWrite t v d
  else if 0x1800 ≤ off ∧ off < 0x1824 then if t = 4 then tapWrite (off - 0x1800) v d else if t = 3 then secViolation d else d
  else d

/-- A write by endpoint t to an address of its map. Core 3 writes no block register (R493): such a write is ignored and counted (R484). -/
def coreWrite (t addr v : Nat) (d : Dev) : Dev :=
  let mbi : Bool := decide (0x08000000 ≤ addr) && decide (addr < 0x08002000)
  if addr % 4 != 0 || !(if mbi then endpointActs t d.now d else endpointRuns t d) then d
  else if mbi then mbiBlockWrite (addr - 0x08000000) v t d
  else if 0x09000000 ≤ addr ∧ addr < 0x09002000 then icBlockWrite (addr - 0x09000000) v t d
  else if t = 3 then secViolation d
  else d

/-- The access that a row stands for: of 64 bits where wide, a write of v or, with none, a read (R2, R299). -/
def accessOf (v : Option (BitVec 64)) (wide : Bool) : RegAccess :=
  match v with
  | some x => .write (x.extractLsb' 0 32) (if wide then some (x.extractLsb' 32 32) else none)
  | none => .read wide

/-- An access of a register (R2): by the host in BAR0, or by a core (0 to 3) or Distaff (4). A write carries the upper word of a 64-bit one. -/
def registerAccess (who : Option (Fin 5)) (addr : Nat) (a : RegAccess) (d : Dev) : Dev :=
  match who, a with
  | none, .write v high => if powered d then bar0Write addr v.toNat (high.map BitVec.toNat) d else d
  | none, .read wide => if powered d then bar0Read addr wide d else d
  | some t, .write v _ => coreWrite t.val addr v.toNat d
  | some t, .read _ => coreRead t.val addr d

end Sys2Proof.Machine
end

