-- ==== Sys2Proof/Machine/State.lean ====
section
/-! DEFINITION. The state of the block, the reasons a step can stop, and the state after reset. -/

namespace Sys2Proof.Machine

/-- The reasons for which a command could stop the machine. There is none: the manual gives every command an effect, and where a value is
left open a free value takes its place (assumption log 3). -/
inductive Fault where
deriving DecidableEq, Repr

/-- The reasons for which a command could be refused. -/
inductive Refusal where
  /-- The command has no meaning in the model. Raised by an arm of exec that has no meaning yet; none remains. Safe: the machine stops. -/
  | notModelled (mnemonic : String)
deriving DecidableEq, Repr

/-- The state: the device, and the commands that wait, first in, first out. -/
structure State where
  dev : Dev := {}
  pending : List Instr := []
deriving DecidableEq, Repr

/-- The machine right after reset: the device in RESET with every field at its reset value, and no command waiting. -/
def State.reset : State := { dev := {}, pending := [] }

end Sys2Proof.Machine
end

