-- ==== Sys2Proof/Machine/Act.lean ====
section
/-! DEFINITION. How a command acts: its effect on the device where the blocks it needs are powered and run, and nothing otherwise. -/

namespace Sys2Proof.Machine

/-- No condition. -/
def always (_ : Dev) : Bool := true

/-- The firmware behind H2D mailbox m takes messages at instant t (R307, R309, R316; assumption log 43). -/
def h2dTakes (m t : Nat) (d : Dev) : Bool :=
  let e := (h2dAt m d).receiver
  endpointActs e t d && (e == 4 || coresRun d)

/-- A command has effect f on the device where g holds; elsewhere it cannot arise, and nothing changes (assumption log 5). -/
def act (g : Dev → Bool) (f : Dev → Dev) (s : State) : Host.Outcome State Fault Refusal :=
  .next { s with dev := guardD (g s.dev) f s.dev }

/-- An event at instant t: time moves on to t (it stands in RESET), and the event has effect f. -/
def event (g : Dev → Bool) (t : Nat) (f : Dev → Dev) (s : State) : Host.Outcome State Fault Refusal :=
  act g (fun d => f (if d.pwr.mode = .reset then d else d.at_ t)) s

/-- Another access of queue q in the Skein cycle of instant t waits among the commands (R238; 1.6 GHz, ten steps of 62.5 ps). -/
def cycleGoesOn (q : Fin 32) (t : Nat) (pending : List Instr) : Bool :=
  pending.any fun c => match c with
    | .skeinPush q' ⟨_, t'⟩ | .skeinPop q' _ ⟨_, t'⟩ | .reelHeaderPop q' _ t' => q' == q && t' / 10 == t / 10
    | _ => false

end Sys2Proof.Machine
end

