-- ==== Sys2Proof/Machine/CmdHeddle.lean ====
section
/-! DEFINITION. The meanings of the commands of Heddle, packing and statistics (chapters 7 to 9). -/

namespace Sys2Proof.Machine

/-- HEDDLE_SAMPLE. The oldest sample on its way arrives at Heddle (R144); err, what its table reads find (R163). -/
def execHeddleSample (err : TableErr) (t : Nat) (s : State) : Host.Outcome State Fault Refusal :=
  event (Dev.on 10) t (heddleSample err) s

/-- HEDDLE_LINE_DONE. The next line in index order leaves step 5 (R149). -/
def execHeddleLineDone (t : Nat) (s : State) : Host.Outcome State Fault Refusal :=
  event (Dev.on 10) t lineDone s

/-- HDL_SWAP_COPY. HDL_SWAP with ACTION COPY (R165). -/
def execHdlSwapCopy (c : MnrCmd) (s : State) : Host.Outcome State Fault Refusal :=
  act coresRun (swapWrite 1 c) s

/-- HDL_COPY_DONE. The bank copy ends (R165). -/
def execHdlCopyDone (t : Nat) (s : State) : Host.Outcome State Fault Refusal :=
  event (Dev.on 10) t hdlCopyDone s

/-- HDL_SWAP_STAGE. HDL_SWAP with ACTION STAGE (R166). -/
def execHdlSwapStage (c : MnrCmd) (s : State) : Host.Outcome State Fault Refusal :=
  act coresRun (swapWrite 2 c) s

/-- HDL_SWAP_CANCEL. HDL_SWAP with ACTION CANCEL (R166). -/
def execHdlSwapCancel (c : MnrCmd) (s : State) : Host.Outcome State Fault Refusal :=
  act coresRun (swapWrite 3 c) s

/-- HDL_DEF_ADD. A write of HDL_DEF_ADD (R161). -/
def execHdlDefAdd (c : MnrCmd) (s : State) : Host.Outcome State Fault Refusal :=
  act coresRun (namedWrite 0x1506 c) s

/-- HDL_DEF_LOG_READ. A read of HDL_DEF_LOG (R181). -/
def execHdlDefLogRead (c : MnrCmd) (s : State) : Host.Outcome State Fault Refusal :=
  act coresRun (namedRead 0x150A c) s

/-- PACK_LINE. The next output line is packed and pushed into Skein (R170). -/
def execPackLine (t : Nat) (s : State) : Host.Outcome State Fault Refusal :=
  event (Dev.on 10) t packLine s

/-- STAT_SHADE_UPDATE. After 2^UPD committed lines of table phase tp (R216). -/
def execStatShadeUpdate (tp : Fin 8) (t : Nat) (s : State) : Host.Outcome State Fault Refusal :=
  event (Dev.on 10) t (statShadeUpdate tp.val) s

/-- HIST_SNAPSHOT. Histogram engine k has counted LINES lines (R220). -/
def execHistSnapshot (k : Fin 4) (t : Nat) (s : State) : Host.Outcome State Fault Refusal :=
  event (Dev.on 10) t (histSnapshot k.val) s

end Sys2Proof.Machine
end

