-- ==== Sys2Proof/Machine/CmdHost.lean ====
section
/-! DEFINITION. The meanings of the commands of the host stream, mailboxes and register writes (chapters 12 and 13). -/

namespace Sys2Proof.Machine

/-- RING_ENABLE. A write of the control word of ring n (R286). -/
def execRingEnable (n : Fin 64) (v : Word) (t : Nat) (s : State) : Host.Outcome State Fault Refusal :=
  event (Dev.on 6) t (hostWrite (ringEnable n.val v.toNat)) s

/-- RING_PROD_WRITE. A write of PROD of ring n (R287). -/
def execRingProdWrite (n : Fin 64) (v : Word) (t : Nat) (s : State) : Host.Outcome State Fault Refusal :=
  event (Dev.on 6) t (hostWrite (ringProdWrite n.val v.toNat)) s

/-- RING_DESC_FETCH. The device reads the next posted descriptor of ring n, whose words are ws (R287). -/
def execRingDescFetch (n : Fin 64) (ws : List Word) (t : Nat) (s : State) : Host.Outcome State Fault Refusal :=
  event (Dev.on 6) t (ringDescFetch n.val ws) s

/-- RING_DELIVER_RECORD. The next record of queue q's group is delivered; ue, the words that a re-send reads as uncorrectable (R285, R295). -/
def execRingDeliverRecord (q : Fin 32) (ue : List Nat) (t : Nat) (s : State) : Host.Outcome State Fault Refusal :=
  event (Dev.on 6) t (ringDeliver q.val ue) s

/-- RING_IDLE_FLUSH. IDLE_FLUSH of ring n expires (R288). -/
def execRingIdleFlush (n : Fin 64) (t : Nat) (s : State) : Host.Outcome State Fault Refusal :=
  event (Dev.on 6) t (ringIdleFlush n.val) s

/-- RING_CONF_WRITE. A write of CONF_HI of ring n (R293). -/
def execRingConfWrite (n : Fin 64) (v : Word) (t : Nat) (s : State) : Host.Outcome State Fault Refusal :=
  event (Dev.on 6) t (hostWrite (ringConfWrite n.val v.toNat)) s

/-- RING_RESEND_REQUEST. A write of RS_CNT of ring n (R294). -/
def execRingResendRequest (n : Fin 64) (v : Word) (t : Nat) (s : State) : Host.Outcome State Fault Refusal :=
  event (Dev.on 6) t (hostWrite (ringResendRequest n.val v.toNat)) s

/-- CQ_ENABLE. A write of the control word of completion queue q (R289). -/
def execCqEnable (q : Fin 8) (v : Word) (t : Nat) (s : State) : Host.Outcome State Fault Refusal :=
  event (Dev.on 6) t (hostWrite (cqEnable q.val v.toNat)) s

/-- CQ_HEAD_WRITE. A write of HEAD of completion queue q (R290). -/
def execCqHeadWrite (q : Fin 8) (v : Word) (t : Nat) (s : State) : Host.Outcome State Fault Refusal :=
  event (Dev.on 6) t (hostWrite (cqHeadWrite q.val v.toNat)) s

/-- MSIX_MODERATION_TIMER. The moderation timer of completion queue q expires (R291). -/
def execMsixModerationTimer (q : Fin 8) (t : Nat) (s : State) : Host.Outcome State Fault Refusal :=
  event (Dev.on 6) t (moderationTimer q.val) s

/-- LINK_POWER_STATE_CHANGE. The PCIe link takes a power state (R292). -/
def execLinkPowerStateChange (st : LinkPower) (speed width : Fin 64) (mps : Fin 8) (t : Nat) (s : State) : Host.Outcome State Fault Refusal :=
  event powered t (linkPowerChange st speed.val width.val mps.val) s

/-- FUNC_POWER_STATE_CHANGE. The function takes a power state; c, what the host has set in its configuration space (R292, R296). -/
def execFuncPowerStateChange (st : FuncPower) (c : FuncCfg) (t : Nat) (s : State) : Host.Outcome State Fault Refusal :=
  event powered t (funcPowerChange st c) s

/-- PCIE_LINK_RESET. A function level reset, hot reset, link down or PERST_L (R480). -/
def execPcieLinkReset (t : Nat) (s : State) : Host.Outcome State Fault Refusal :=
  event always t pcieLinkReset s

/-- PCIE_AER_ERROR. The function logs an AER error (R297). -/
def execPcieAerError (ue : Bool) (t : Nat) (s : State) : Host.Outcome State Fault Refusal :=
  event (Dev.on 6) t (pcieAerError ue) s

/-- H2D_GO. The host posts H2D mailbox m (R306). -/
def execH2dGo (m : Fin 8) (t : Nat) (s : State) : Host.Outcome State Fault Refusal :=
  event powered t (sleepTest (h2dGo m.val)) s

/-- H2D_DONE. The receiver takes the message of H2D mailbox m (R307). -/
def execH2dDone (m : Fin 8) (t : Nat) (s : State) : Host.Outcome State Fault Refusal :=
  event (h2dTakes m.val t) t (h2dDone m.val) s

/-- D2H_GO. Firmware posts the next message of D2H mailbox m (R306, R322). -/
def execD2hGo (m : Fin 8) (t : Nat) (s : State) : Host.Outcome State Fault Refusal :=
  event coresRun t (d2hGo m.val) s

/-- D2H_DONE. The host takes the message of D2H mailbox m (R307). -/
def execD2hDone (m : Fin 8) (t : Nat) (s : State) : Host.Outcome State Fault Refusal :=
  event powered t (d2hDone m.val) s

/-- D2H_TIMEOUT. A post to D2H mailbox m stays posted beyond MBX_TMO (R310). -/
def execD2hTimeout (m : Fin 8) (t : Nat) (s : State) : Host.Outcome State Fault Refusal :=
  event powered t (d2hTimeout m.val) s

/-- MBX_EVENT_W1C. The host clears H2D_EMPTIED and D2H_ARRIVED bits (R308). -/
def execMbxEventW1c (v : Word) (t : Nat) (s : State) : Host.Outcome State Fault Refusal :=
  event powered t (mbxEventClear v.toNat) s

/-- HOST_DB_WRITE. The host writes HOST_DB (R308). -/
def execHostDbWrite (v : Fin 65536) (t : Nat) (s : State) : Host.Outcome State Fault Refusal :=
  event powered t (hostDbWrite v.val) s

/-- MBI_GO. Endpoint e posts internal mailbox i (R306, R317). -/
def execMbiGo (i : Fin 16) (e : Fin 5) (t : Nat) (s : State) : Host.Outcome State Fault Refusal :=
  event (endpointActs e.val t) t (sleepTest (mbiGo i.val e.val)) s

/-- MBI_DONE. Endpoint e takes internal mailbox i (R307, R317). -/
def execMbiDone (i : Fin 16) (e : Fin 5) (t : Nat) (s : State) : Host.Outcome State Fault Refusal :=
  event (endpointActs e.val t) t (mbiDone i.val e.val) s

/-- MBI_TIMEOUT. A post to internal mailbox i exceeds TMO_US (R310). -/
def execMbiTimeout (i : Fin 16) (t : Nat) (s : State) : Host.Outcome State Fault Refusal :=
  event powered t (mbiTimeout i.val) s

/-- MBI_EVENT_W1C. Endpoint e clears bits of MBI_ARRIVED or MBI_EMPTIED (R318). -/
def execMbiEventW1c (e : Fin 5) (emptied : Bool) (v : Word) (t : Nat) (s : State) : Host.Outcome State Fault Refusal :=
  event (endpointRuns e.val) t (mbiEventClear e.val emptied v.toNat) s

/-- MBX_ROUTE_WRITE. Endpoint e writes MBX_ROUTE (R315). -/
def execMbxRouteWrite (e : Fin 5) (v : Word) (t : Nat) (s : State) : Host.Outcome State Fault Refusal :=
  event (endpointRuns e.val) t (mbxRouteWrite e.val v.toNat) s

/-- REGISTER_WRITE. An access of a register by the host (none) or an endpoint, of 64 bits where wide: the row's write of v, or (none) a read, which has no row of its own (R2, R299, R484; assumption log 7). -/
def execRegisterWrite (who : Option (Fin 5)) (addr : Word) (v : Option (BitVec 64)) (wide : Bool) (t : Nat) (s : State) : Host.Outcome State Fault Refusal :=
  event always t (sleepTest (registerAccess who addr.toNat (accessOf v wide))) s

end Sys2Proof.Machine
end

