-- ==== Sys2Proof/Machine/CmdIrq.lean ====
section
/-! DEFINITION. The meanings of the commands of the interrupt controller, Taproot and sleep (chapter 18). -/

namespace Sys2Proof.Machine

/-- IC_ARRIVAL. The input of source n qualifies under SENSE (R418). -/
def execIcArrival (n : Fin 512) (t : Nat) (s : State) : Host.Outcome State Fault Refusal :=
  event powered t (sleepTest (icArrival n.val)) s

/-- IC_CLAIM. Target e reads IC_CLAIM (R421). -/
def execIcClaim (e : Fin 5) (t : Nat) (s : State) : Host.Outcome State Fault Refusal :=
  event (endpointRuns e.val) t (icClaim e.val) s

/-- IC_COMPLETE. Target e writes IC_COMPLETE (R422). -/
def execIcComplete (e : Fin 5) (n : Fin 1024) (t : Nat) (s : State) : Host.Outcome State Fault Refusal :=
  event (endpointRuns e.val) t (icComplete e.val n.val) s

/-- IC_CFG_WRITE. Target e writes IC_CFG[n] (R417, R427). -/
def execIcCfgWrite (e : Fin 5) (n : Fin 512) (v : Word) (t : Nat) (s : State) : Host.Outcome State Fault Refusal :=
  event (endpointRuns e.val) t (icCfgWrite e.val n.val v.toNat) s

/-- IC_GCTL_WRITE. Endpoint e writes IC_GCTL (R423, R427). -/
def execIcGctlWrite (e : Fin 5) (v : Word) (t : Nat) (s : State) : Host.Outcome State Fault Refusal :=
  event (endpointRuns e.val) t (icGctlWrite e.val v.toNat) s

/-- TAPROOT_INPUT. Taproot input i takes level v (R429). -/
def execTaprootInput (i : Fin 32) (v : Bool) (t : Nat) (s : State) : Host.Outcome State Fault Refusal :=
  event always t (sleepTest (tapInput i.val v)) s

/-- TAP_EVENT_W1C. Distaff clears bits of TAP_EVENT (R430). -/
def execTapEventW1c (v : Word) (t : Nat) (s : State) : Host.Outcome State Fault Refusal :=
  event (endpointRuns 4) t (tapEventClear v.toNat) s

/-- TAP_TIMER_EXPIRY. The wake timer expires (R430). -/
def execTapTimerExpiry (t : Nat) (s : State) : Host.Outcome State Fault Refusal :=
  event always t (sleepTest tapTimerExpiry) s

/-- SLEEP_COMMIT. The save ends at the commit point (R431, R476). -/
def execSleepCommit (t : Nat) (s : State) : Host.Outcome State Fault Refusal :=
  event always t sleepCommit s

/-- SLEEP_WAKE. A wake source after the commit point (R433). -/
def execSleepWake (t : Nat) (s : State) : Host.Outcome State Fault Refusal :=
  event always t sleepWake s

/-- IC_LEVEL_DEASSERT. The input of source n falls to 0 (R419). -/
def execIcLevelDeassert (n : Fin 512) (t : Nat) (s : State) : Host.Outcome State Fault Refusal :=
  event powered t (icLevelDeassert n.val) s

end Sys2Proof.Machine
end

