-- ==== Sys2Proof/Machine/CmdKarum.lean ====
section
/-! DEFINITION. The meanings of the commands of Karum (chapter 19). -/

namespace Sys2Proof.Machine

/-- KRM_DATA_BLOCK. A DATA block for queue q with the payload ws (R437, R440). -/
def execKrmDataBlock (h : KHdr) (q : Fin 32) (ws : List Word) (end_ abort : Bool) (t : Nat) (s : State) : Host.Outcome State Fault Refusal :=
  event (Dev.on 15) t (krmDataBlock { h with pay := ws } q.val end_ abort) s

/-- KRM_ACK_BLOCK. An ACK block up to SEQ a (R439). -/
def execKrmAckBlock (h : KHdr) (a : Fin 4096) (t : Nat) (s : State) : Host.Outcome State Fault Refusal :=
  event (Dev.on 15) t (krmAckBlock h a.val) s

/-- KRM_NAK_BLOCK. A NAK block that expects SEQ e (R439). -/
def execKrmNakBlock (h : KHdr) (e : Fin 4096) (t : Nat) (s : State) : Host.Outcome State Fault Refusal :=
  event (Dev.on 15) t (krmNakBlock h e.val) s

/-- KRM_CREDIT_BLOCK. A CREDIT block that grants n units for queue q (R440). -/
def execKrmCreditBlock (h : KHdr) (q : Fin 32) (n : Nat) (t : Nat) (s : State) : Host.Outcome State Fault Refusal :=
  event (Dev.on 15) t (krmCreditBlock h q.val n) s

/-- KRM_TIME_BLOCK. A TIME block (R447). -/
def execKrmTimeBlock (h : KHdr) (reply : Bool) (path : Nat) (t : Nat) (s : State) : Host.Outcome State Fault Refusal :=
  event (Dev.on 15) t (krmTimeBlock h reply path) s

/-- KRM_LINE_BLOCK. A LINE block (R450, R452). -/
def execKrmLineBlock (h : KHdr) (b : LineBlk) (t : Nat) (s : State) : Host.Outcome State Fault Refusal :=
  event (Dev.on 15) t (krmLineBlock h b t) s

/-- KRM_PACE_BLOCK. A PACE block (R454). -/
def execKrmPaceBlock (h : KHdr) (vd : Nat) (xoff : Bool) (restart : Option Nat) (t : Nat) (s : State) : Host.Outcome State Fault Refusal :=
  event (Dev.on 15) t (krmPaceBlock h vd xoff restart) s

/-- KRM_DISC_BLOCK. A DISC block (R442). -/
def execKrmDiscBlock (h : KHdr) (uid addr port : Nat) (reply : Bool) (t : Nat) (s : State) : Host.Outcome State Fault Refusal :=
  event (Dev.on 15) t (krmDiscBlock h uid addr port reply) s

/-- KRM_CONFIRM_BLOCK. A CONFIRM block (R455, R458). -/
def execKrmConfirmBlock (h : KHdr) (k : Nat) (again : Bool) (t : Nat) (s : State) : Host.Outcome State Fault Refusal :=
  event (Dev.on 15) t (krmConfirmBlock h k again) s

/-- KRM_GROUP_BLOCK. A GROUP block (R445, R446, R459). -/
def execKrmGroupBlock (h : KHdr) (m : GroupMsg) (t : Nat) (s : State) : Host.Outcome State Fault Refusal :=
  event (Dev.on 15) t (krmGroupBlock h m) s

/-- STITCH_TILE_TIMEOUT. A tile is still missing after TILE_TMO (R456). -/
def execStitchTileTimeout (t : Nat) (s : State) : Host.Outcome State Fault Refusal :=
  event (Dev.on 15) t stitchTileTimeout s

/-- KRM_LANE_FAIL. Lane l of port p fails (R435, R436). -/
def execKrmLaneFail (p : Fin 4) (l : Fin 5) (t : Nat) (s : State) : Host.Outcome State Fault Refusal :=
  event (Dev.on 15) t (krmLaneFail p.val l.val) s

/-- KRM_REPLAY_TIMEOUT. 4 µs without an acknowledgement on port p (R439). -/
def execKrmReplayTimeout (p : Fin 4) (t : Nat) (s : State) : Host.Outcome State Fault Refusal :=
  event (Dev.on 15) t (krmReplayTimeout p.val) s

/-- KRM_ACK_TIMER. The receiver of port p acknowledges (R439). -/
def execKrmAckTimer (p : Fin 4) (t : Nat) (s : State) : Host.Outcome State Fault Refusal :=
  event (Dev.on 15) t (krmAckTimer p.val) s

/-- KRM_SIGNAL_DETECT. Signal appears on port p (R434). -/
def execKrmSignalDetect (p : Fin 4) (t : Nat) (s : State) : Host.Outcome State Fault Refusal :=
  event powered t (sleepTest (krmSignalDetect p.val)) s

/-- KRM_HEARTBEAT. The 100 µs heartbeat (R446). -/
def execKrmHeartbeat (t : Nat) (s : State) : Host.Outcome State Fault Refusal :=
  event (Dev.on 15) t krmHeartbeat s

/-- KRM_MEMBER_SILENT. Member a has been silent for 1 ms (R446). -/
def execKrmMemberSilent (a : Fin 4096) (t : Nat) (s : State) : Host.Outcome State Fault Refusal :=
  event (Dev.on 15) t (krmMemberSilent a.val) s

/-- KRM_TIME_EXCHANGE. A time exchange with its four instants (R447). -/
def execKrmTimeExchange (t1 t2 t3 t4 : Nat) (s : State) : Host.Outcome State Fault Refusal :=
  act (Dev.on 15) (krmTimeExchange t1 t2 t3 t4) s

/-- KRM_TIME_LOCK_LOST. No exchange succeeds for 100 µs (R448). -/
def execKrmTimeLockLost (t : Nat) (s : State) : Host.Outcome State Fault Refusal :=
  event (Dev.on 15) t krmTimeLockLost s

/-- KRM_MASTER_LOST. No LINE block 1 µs after one expected (R459). -/
def execKrmMasterLost (t : Nat) (s : State) : Host.Outcome State Fault Refusal :=
  event (Dev.on 15) t krmMasterLost s

/-- GROUP_JOIN_TIMEOUT. No master answers a join within 50 ms (R445). -/
def execGroupJoinTimeout (t : Nat) (s : State) : Host.Outcome State Fault Refusal :=
  event (Dev.on 15) t groupJoinTimeout s

/-- KRM_LINK_UP. Training of port p completes (R458). -/
def execKrmLinkUp (p : Fin 4) (t : Nat) (s : State) : Host.Outcome State Fault Refusal :=
  event (Dev.on 15) t (krmLinkUp p.val) s

end Sys2Proof.Machine
end

