-- ==== Sys2Proof/Machine/CmdLamps.lean ====
section
/-! DEFINITION. The meanings of the commands of illumination and the auxiliary converters (chapters 16 and 17). -/

namespace Sys2Proof.Machine

/-- LAMP_BLANK_END. Blanking of string str ends (R371). -/
def execLampBlankEnd (str : Fin 8) (t : Nat) (s : State) : Host.Outcome State Fault Refusal :=
  event (Dev.on 13) t (lampBlankEnd str.val) s

/-- LAMP_MOD_PERIOD. An on-time or a modulation period of string str elapses (R369). -/
def execLampModPeriod (str : Fin 8) (t : Nat) (s : State) : Host.Outcome State Fault Refusal :=
  event (Dev.on 13) t (lampModPeriod str.val t) s

/-- LAMP_VOLTAGE_READ. Lamp l of string str reads mv (R374, R376, R379). -/
def execLampVoltageRead (str : Fin 8) (l : Fin 16) (mv : Nat) (t : Nat) (s : State) : Host.Outcome State Fault Refusal :=
  event (Dev.on 13) t (lampVoltageRead str.val l.val mv) s

/-- ILM_TEMP_READ. The temperature of string str is read (R373). -/
def execIlmTempRead (str : Fin 8) (t : Nat) (s : State) : Host.Outcome State Fault Refusal :=
  event (Dev.on 13) t (ilmTempRead str.val) s

/-- ILM_TEMP_LOST. No valid temperature of string str for 100 ms (R373). -/
def execIlmTempLost (str : Fin 8) (t : Nat) (s : State) : Host.Outcome State Fault Refusal :=
  event (Dev.on 13) t (ilmTempLost str.val) s

/-- LAMP_HEADROOM_FAULT. The sink headroom of string str, or VLED, leaves its range (R372). -/
def execLampHeadroomFault (str : Fin 8) (vled : Nat) (t : Nat) (s : State) : Host.Outcome State Fault Refusal :=
  event (Dev.on 13) t (lampHeadroomFault str.val vled) s

/-- LAMP_FORCE_END. The forced duration of string str ends (R381). -/
def execLampForceEnd (str : Fin 8) (t : Nat) (s : State) : Host.Outcome State Fault Refusal :=
  event (Dev.on 13) t (lampForceEnd str.val) s

/-- ILM_CHAIN_WRITE. A write of ILM_CHAIN (R386). -/
def execIlmChainWrite (c : MnrCmd) (s : State) : Host.Outcome State Fault Refusal :=
  act coresRun (namedWrite 0x1C10 c) s

/-- CHAIN_SHIFT_DONE. The second pass of the chain ends; ret, what LXP_RET returned (R386). -/
def execChainShiftDone (ret : List Word) (t : Nat) (s : State) : Host.Outcome State Fault Refusal :=
  event (Dev.on 13) t (chainShiftDone ret t) s

/-- AUX_WORD. An auxiliary conversion word ends (R396 to R405). -/
def execAuxWord (v ref vc refc : Int) (comp : Bool) (t : Nat) (s : State) : Host.Outcome State Fault Refusal :=
  event (Dev.on 14) t (auxWord t v ref vc refc comp) s

/-- AUX_ARBITRATION. Both auxiliary converters are tested (R404). -/
def execAuxArbitration (prim chk : ArbRes) (t : Nat) (s : State) : Host.Outcome State Fault Refusal :=
  event (Dev.on 14) t (auxArbitration prim chk) s

/-- AUX_STALE. Slot slot forms no result for 100 ms (R401). -/
def execAuxStale (slot : Fin 32) (t : Nat) (s : State) : Host.Outcome State Fault Refusal :=
  event (Dev.on 14) t (auxStale slot.val) s

/-- AMON_STALE. Pin AMONa has no valid result for STALE_MS (R406). -/
def execAmonStale (a : Fin 4) (t : Nat) (s : State) : Host.Outcome State Fault Refusal :=
  event powered t (amonStale a.val) s

/-- AUX_READ_TIMEOUT. The oldest fresh AUX_READ has waited for more than 1 s (R407). -/
def execAuxReadTimeout (t : Nat) (s : State) : Host.Outcome State Fault Refusal :=
  event coresRun t auxReadTimeout s

end Sys2Proof.Machine
end

