-- ==== Sys2Proof/Machine/CmdLinks.lean ====
section
/-! DEFINITION. The meanings of the commands of the converter links and raw lanes (chapter 6). -/

namespace Sys2Proof.Machine

/-- SYSREF_EDGE. A sampled SYSREF edge (R128). -/
def execSysrefEdge (t : Nat) (s : State) : Host.Outcome State Fault Refusal :=
  event (Dev.on 9) t (sysrefEdge t) s

/-- LINK_SYNC_LOCK. Link l reaches sync with a transmitter of kbps per lane (R125, R130). -/
def execLinkSyncLock (l : Fin 8) (kbps : Timed Nat) (s : State) : Host.Outcome State Fault Refusal :=
  event (Dev.on 9) kbps.t (linkSyncLock l.val kbps.x) s

/-- ILAS_RECEIVED. The ILAS, or the lock, of link l completes: a, the arrivals of its lanes and the latency (R129, R130). -/
def execIlasReceived (l : Fin 8) (i : Ilas) (a : Arrival) (t : Nat) (s : State) : Host.Outcome State Fault Refusal :=
  event (Dev.on 9) t (ilasReceived l i a.lanes a.lat) s

/-- LINK_DESKEW_FAULT. The lanes of link l arrive too late, in octets after the LMFC boundary (R129). -/
def execLinkDeskewFault (l : Fin 8) (arrive : Timed (List Nat)) (s : State) : Host.Outcome State Fault Refusal :=
  event (Dev.on 9) arrive.t (linkDeskewFault l arrive.x) s

/-- LINK_FRAME. A frame of octets by physical lane, or words of a raw lane, with the lane of every error in it (R127, R131). -/
def execLinkFrame (src : LinkSrc) (data : List (List Nat)) (errs : List (Fin 32)) (t : Nat) (s : State) : Host.Outcome State Fault Refusal :=
  event (Dev.on 9) t (linkFrame src data errs t) s

/-- LINK_REINIT. Link l re-initialises; lost, the lanes without CDR lock (R132). -/
def execLinkReinit (l : Fin 8) (lost : Nat) (t : Nat) (s : State) : Host.Outcome State Fault Refusal :=
  event (Dev.on 9) t (linkReinit l lost) s

/-- LINK_WINDOW_OPEN. What opens a link or raw capture window: control bits of a frame, or words up to a mark (R133). -/
def execLinkWindowOpen (src : LinkSrc) (mark : Timed (List Nat)) (s : State) : Host.Outcome State Fault Refusal :=
  event (Dev.on 9) mark.t (linkWindowOpen src mark.x mark.t) s

/-- RAW_ALIGN. Raw lane p aligns on a word that repeats a number of times (R136). -/
def execRawAlign (p : Fin 32) (train : Timed (Nat × Nat)) (s : State) : Host.Outcome State Fault Refusal :=
  event (Dev.on 9) train.t (rawAlign p.val train.x.1 train.x.2) s

/-- RAW_ALIGN_LOST. Raw lane p loses alignment (R136). -/
def execRawAlignLost (p : Fin 32) (t : Nat) (s : State) : Host.Outcome State Fault Refusal :=
  event (Dev.on 9) t (rawAlignLost p) s

end Sys2Proof.Machine
end

