-- ==== Sys2Proof/Machine/CmdMeoner.lean ====
section
/-! DEFINITION. The meanings of the commands of the Meoner commands without a family of their own (chapter 14). -/

namespace Sys2Proof.Machine

/-- PING. PING (R329). -/
def execPing (c : MnrCmd) (s : State) : Host.Outcome State Fault Refusal :=
  act coresRun (ping c) s

/-- SESSION_OPEN. SESSION_OPEN (R323). -/
def execSessionOpen (c : MnrCmd) (s : State) : Host.Outcome State Fault Refusal :=
  act coresRun (sessionOpen c) s

/-- SESSION_CLOSE. SESSION_CLOSE (R323). -/
def execSessionClose (c : MnrCmd) (s : State) : Host.Outcome State Fault Refusal :=
  act coresRun (sessionClose c) s

/-- DEV_INFO. DEV_INFO (R501). -/
def execDevInfo (c : MnrCmd) (s : State) : Host.Outcome State Fault Refusal :=
  act coresRun (devInfo c) s

/-- OBJ_READ. OBJ_READ (R330, R331). -/
def execObjRead (c : MnrCmd) (s : State) : Host.Outcome State Fault Refusal :=
  act coresRun (objRead c) s

/-- OBJ_WRITE. OBJ_WRITE (R4, R5, R330, R331). -/
def execObjWrite (c : MnrCmd) (s : State) : Host.Outcome State Fault Refusal :=
  act coresRun (objWrite c) s

/-- OBJ_INFO. OBJ_INFO (R329). -/
def execObjInfo (c : MnrCmd) (s : State) : Host.Outcome State Fault Refusal :=
  act coresRun (objInfo c) s

/-- MODE_SET. MODE_SET (R472, R527). -/
def execModeSet (c : MnrCmd) (s : State) : Host.Outcome State Fault Refusal :=
  act coresRun (modeSet c) s

/-- CAL_LAMP. CAL_LAMP; mv, the voltages read (R380). -/
def execCalLamp (c : MnrCmd) (mv : List Nat) (s : State) : Host.Outcome State Fault Refusal :=
  act coresRun (calLamp c mv) s

/-- CAL_DELAY. CAL_DELAY; delays, the measured delays of the ports (R448). -/
def execCalDelay (c : MnrCmd) (delays : List Nat) (s : State) : Host.Outcome State Fault Refusal :=
  act coresRun (calDelay c delays) s

/-- MOVE_APPEND. MOVE_APPEND (R341). -/
def execMoveAppend (c : MnrCmd) (s : State) : Host.Outcome State Fault Refusal :=
  act coresRun (moveAppend c) s

/-- MOVE_REPLACE. MOVE_REPLACE (R346). -/
def execMoveReplace (c : MnrCmd) (s : State) : Host.Outcome State Fault Refusal :=
  act coresRun (moveReplace c) s

/-- AXIS_STOP. AXIS_STOP (R349). -/
def execAxisStop (c : MnrCmd) (s : State) : Host.Outcome State Fault Refusal :=
  act coresRun (axisStop c) s

/-- MOVE_LINEAR. MOVE_LINEAR (R352). -/
def execMoveLinear (c : MnrCmd) (s : State) : Host.Outcome State Fault Refusal :=
  act coresRun (moveLinear c) s

/-- LAMP_FORCE. LAMP_FORCE (R381). -/
def execLampForce (c : MnrCmd) (s : State) : Host.Outcome State Fault Refusal :=
  act coresRun (lampForce c) s

/-- LAMP_SPARE. LAMP_SPARE; mv, the voltage read (R382). -/
def execLampSpare (c : MnrCmd) (mv : Nat) (s : State) : Host.Outcome State Fault Refusal :=
  act coresRun (lampSpareCmd c mv) s

/-- FAB_DISCOVER. FAB_DISCOVER; up, the ports that train; nb, what the neighbours answer (R442). -/
def execFabDiscover (c : MnrCmd) (up : Nat) (nb : List (Fin 4 × Nat × Nat × Fin 4)) (s : State) : Host.Outcome State Fault Refusal :=
  act coresRun (fabDiscover c up nb) s

/-- GROUP_JOIN. GROUP_JOIN (R445). -/
def execGroupJoin (c : MnrCmd) (s : State) : Host.Outcome State Fault Refusal :=
  act coresRun (groupJoin c) s

/-- GROUP_LEAVE. GROUP_LEAVE (R459). -/
def execGroupLeave (c : MnrCmd) (s : State) : Host.Outcome State Fault Refusal :=
  act coresRun (groupLeave c) s

/-- IMAGE_LOAD. IMAGE_LOAD; sig, the verdict of the signature and hash checks (R494). -/
def execImageLoad (c : MnrCmd) (sig : Bool) (s : State) : Host.Outcome State Fault Refusal :=
  act coresRun (imageLoad c sig) s

/-- IMAGE_ACTIVATE. IMAGE_ACTIVATE (R495 to R497). -/
def execImageActivate (c : MnrCmd) (s : State) : Host.Outcome State Fault Refusal :=
  act coresRun (imageActivate c) s

/-- DOMAIN_RESET. DOMAIN_RESET (R478, R479). -/
def execDomainReset (c : MnrCmd) (s : State) : Host.Outcome State Fault Refusal :=
  act coresRun (domainReset c) s

/-- KEY_PROVISION. KEY_PROVISION (R490). -/
def execKeyProvision (c : MnrCmd) (s : State) : Host.Outcome State Fault Refusal :=
  act coresRun (keyProvision c) s

/-- EXT_CMD. Opcode 0x08F0 + n, with the extension firmware's answer (R329). -/
def execExtCmd (c : MnrCmd) (n : Fin 16) (status : Fin 16) (detail : Nat) (res : List Word) (s : State) : Host.Outcome State Fault Refusal :=
  act coresRun (extCmd n.val status.val detail res c) s

/-- AUX_READ. AUX_READ (R407). -/
def execAuxRead (c : MnrCmd) (s : State) : Host.Outcome State Fault Refusal :=
  act coresRun (auxRead c) s

/-- FAULT_LIST. FAULT_LIST (R483). -/
def execFaultList (c : MnrCmd) (s : State) : Host.Outcome State Fault Refusal :=
  act coresRun (faultList c) s

end Sys2Proof.Machine
end

