-- ==== Sys2Proof/Machine/CmdMotion.lean ====
section
/-! DEFINITION. The meanings of the commands of Shuttle (chapter 15). -/

namespace Sys2Proof.Machine

/-- SHU_GEN_UPDATE. The motion generator's update of every axis (R343). -/
def execShuGenUpdate (t : Nat) (s : State) : Host.Outcome State Fault Refusal :=
  event (Dev.on 12) t (shuGenUpdate t) s

/-- LIMIT_INPUT. A limit input of axis n is asserted (R350). -/
def execLimitInput (n : Fin 4) (pos : Bool) (t : Nat) (s : State) : Host.Outcome State Fault Refusal :=
  event always t (sleepTest (limitInput n.val pos)) s

/-- STEP_INPUT_EDGE. A rising edge of SIN_STEPn with its direction (R354). -/
def execStepInputEdge (n : Fin 4) (up : Bool) (t : Nat) (s : State) : Host.Outcome State Fault Refusal :=
  event (Dev.on 12) t (stepInputEdge n.val t up) s

/-- HOLD_CURRENT_REDUCE. HOLD_DELAY of axis n expires (R357). -/
def execHoldCurrentReduce (n : Fin 4) (t : Nat) (s : State) : Host.Outcome State Fault Refusal :=
  event (Dev.on 12) t (holdCurrentReduce n.val) s

/-- SHU_POS_WRITE. A write of SHU_POS (R365). -/
def execShuPosWrite (c : MnrCmd) (s : State) : Host.Outcome State Fault Refusal :=
  act coresRun (namedWrite 0x1B05 c) s

/-- STAGE_OVERCURRENT. A bridge leg of axis n exceeds 6 A (R358). -/
def execStageOvercurrent (n : Fin 4) (t : Nat) (s : State) : Host.Outcome State Fault Refusal :=
  event (Dev.on 12) t (stageOvercurrent n.val) s

/-- STAGE_OVERTEMP_WARN. The stage of axis n exceeds 105 °C (R358). -/
def execStageOvertempWarn (n : Fin 4) (t : Nat) (s : State) : Host.Outcome State Fault Refusal :=
  event (Dev.on 12) t (stageOvertempWarn n.val) s

/-- STAGE_OVERTEMP. The stage of axis n exceeds 125 °C (R358). -/
def execStageOvertemp (n : Fin 4) (t : Nat) (s : State) : Host.Outcome State Fault Refusal :=
  event (Dev.on 12) t (stageOvertemp n.val) s

/-- STAGE_VIN_LOW. VIN stays below 4.3 V (R358). -/
def execStageVinLow (t : Nat) (s : State) : Host.Outcome State Fault Refusal :=
  event (Dev.on 12) t stageVinLow s

/-- STAGE_OPEN_COIL. The phase current of axis n stays below I/8 (R358). -/
def execStageOpenCoil (n : Fin 4) (t : Nat) (s : State) : Host.Outcome State Fault Refusal :=
  event (Dev.on 12) t (stageOpenCoil n.val) s

/-- EXT_DRIVER_FAULT. FLTn_L stays low (R358). -/
def execExtDriverFault (n : Fin 4) (t : Nat) (s : State) : Host.Outcome State Fault Refusal :=
  event always t (sleepTest (extDriverFault n.val)) s

/-- LIMIT_INPUT_RELEASE. A limit input of axis n is released (R350). -/
def execLimitInputRelease (n : Fin 4) (pos : Bool) (t : Nat) (s : State) : Host.Outcome State Fault Refusal :=
  event always t (sleepTest (limitInputRelease n.val pos)) s

/-- EXT_DRIVER_FAULT_RELEASE. FLTn_L is high again (R358). -/
def execExtDriverFaultRelease (n : Fin 4) (t : Nat) (s : State) : Host.Outcome State Fault Refusal :=
  event always t (sleepTest (extDriverFaultRelease n.val)) s

/-- SHU_TEMP_MEASURE. The stage temperature of axis n, in 1/16 °C (R366). -/
def execShuTempMeasure (n : Fin 4) (temp : Int) (t : Nat) (s : State) : Host.Outcome State Fault Refusal :=
  event shuClocked t (shuTempMeasure n.val temp) s

/-- STAGE_PWM_PERIOD. A PWM period of axis n: VIN in mV and the current in mA (R356). -/
def execStagePwmPeriod (n : Fin 4) (vin cur : Nat) (t : Nat) (s : State) : Host.Outcome State Fault Refusal :=
  event (Dev.on 12) t (stagePwmPeriod n.val vin cur) s

end Sys2Proof.Machine
end

