-- ==== Sys2Proof/Machine/CmdPower.lean ====
section
/-! DEFINITION. The meanings of the commands of power, modes, resets, images, keys and debug (chapters 20 and 21). -/

namespace Sys2Proof.Machine

/-- POWER_ON_RELEASE. VIN has been above V_POR for 10 ms (R468). -/
def execPowerOnRelease (s : State) : Host.Outcome State Fault Refusal :=
  act always powerOnRelease s

/-- VIN_WARN. VIN falls below V_WARN (R470). -/
def execVinWarn (t : Nat) (s : State) : Host.Outcome State Fault Refusal :=
  event always t vinWarn s

/-- VIN_POR_FALL. VIN falls below 4.00 V (R469). -/
def execVinPorFall (s : State) : Host.Outcome State Fault Refusal :=
  act always vinPorFall s

/-- VIN_RESTORED. VIN is above V_WARN + 200 mV for 1 ms (R469). -/
def execVinRestored (t : Nat) (s : State) : Host.Outcome State Fault Refusal :=
  event always t (sleepTest vinRestored) s

/-- SYS_RESET. SYS_RESET_L goes low (R472). -/
def execSysReset (s : State) : Host.Outcome State Fault Refusal :=
  act always sysReset s

/-- PWR_MONITOR_TICK. VIN in mV and the die temperature in 1/16 °C are read (R477). -/
def execPwrMonitorTick (vin : Nat) (temp : Int) (t : Nat) (s : State) : Host.Outcome State Fault Refusal :=
  event always t (sleepTest (pwrMonitorTick vin temp)) s

/-- BOOT_END. Distaff has checked and started the images; map, the body of the map image (R491, R492). -/
def execBootEnd (map : List Word) (t : Nat) (s : State) : Host.Outcome State Fault Refusal :=
  event always t (bootEnd map) s

/-- CALIBRATE_END. The calibration sequence ends (R474). -/
def execCalibrateEnd (delays mv : List Nat) (t : Nat) (s : State) : Host.Outcome State Fault Refusal :=
  event always t (calibrateEnd delays mv) s

/-- SAFE_ENTRY_DONE. Every axis is at rest and every table has ended (R473). -/
def execSafeEntryDone (t : Nat) (s : State) : Host.Outcome State Fault Refusal :=
  event always t safeEntryDone s

/-- READY_ENTRY_DONE. The axis is at rest and the TDI flush is done (R527). -/
def execReadyEntryDone (t : Nat) (s : State) : Host.Outcome State Fault Refusal :=
  event always t readyEntryDone s

/-- DOMAIN_RESET_DONE. Domain n runs again (R478). -/
def execDomainResetDone (n : Fin 16) (t : Nat) (s : State) : Host.Outcome State Fault Refusal :=
  event powered t (domainResetDone n.val) s

/-- CORE_READY. The new core image reports ready (R496). -/
def execCoreReady (t : Nat) (s : State) : Host.Outcome State Fault Refusal :=
  event (Dev.on 1) t coreReady s

/-- LIVE_UPDATE_TIMEOUT. The new image is not ready within 50 ms (R496). -/
def execLiveUpdateTimeout (t : Nat) (s : State) : Host.Outcome State Fault Refusal :=
  event (Dev.on 1) t liveUpdateTimeout s

/-- IMAGE_LOAD_DONE. The image write ends; ok, whether programming succeeded (R494). -/
def execImageLoadDone (ok : Bool) (t : Nat) (s : State) : Host.Outcome State Fault Refusal :=
  event (Dev.on 1) t (imageLoadDone ok) s

/-- KEY_PROVISION_DONE. The fuses are programmed (R490). -/
def execKeyProvisionDone (t : Nat) (s : State) : Host.Outcome State Fault Refusal :=
  event (Dev.on 1) t keyProvisionDone s

/-- DEBUG_ATTACH. A debug attach request (R498). -/
def execDebugAttach (t : Nat) (s : State) : Host.Outcome State Fault Refusal :=
  event always t (sleepTest debugAttach) s

/-- DEBUG_RESPONSE. A response for a debug scope; sig, whether its signature verifies (R498). -/
def execDebugResponse (scope : Fin 2) (sig : Bool) (t : Nat) (s : State) : Host.Outcome State Fault Refusal :=
  event (Dev.on 1) t (debugResponse scope.val sig) s

/-- JTAG_INSTRUCTION. A boundary-scan instruction is loaded; drives, whether it drives balls (R499). -/
def execJtagInstruction (ir : Nat) (drives : Bool) (t : Nat) (s : State) : Host.Outcome State Fault Refusal :=
  event always t (jtagInstruction ir drives) s

/-- SYS_RESET_RELEASE. SYS_RESET_L rises (R472). -/
def execSysResetRelease (s : State) : Host.Outcome State Fault Refusal :=
  act always sysResetRelease s

end Sys2Proof.Machine
end

