-- ==== Sys2Proof/Machine/CmdSensor.lean ====
section
/-! DEFINITION. The meanings of the commands of sensor drive, capture and calibration (chapters 3 to 5). -/

namespace Sys2Proof.Machine

/-- WAVE_ENTRY_PIN. The next entry of the table on engine e acts at its instant: a PIN entry sets an output level (R45). -/
def execWaveEntryPin (e : Fin 8) (t : Nat) (s : State) : Host.Outcome State Fault Refusal :=
  event (Dev.on 8) t (waveEntryPin e.val) s

/-- WAVE_ENTRY_SHR. The next entry of the table on engine e acts at its instant: an SHR entry samples the reset level (R50). -/
def execWaveEntryShr (e : Fin 8) (t : Nat) (s : State) : Host.Outcome State Fault Refusal :=
  event (Dev.on 8) t (waveEntryShr e.val) s

/-- WAVE_ENTRY_SHD. The next entry of the table on engine e acts at its instant: an SHD entry samples the data level (R50). -/
def execWaveEntryShd (e : Fin 8) (t : Nat) (s : State) : Host.Outcome State Fault Refusal :=
  event (Dev.on 8) t (waveEntryShd e.val) s

/-- WAVE_ENTRY_EXPOSE. The next entry of the table on engine e acts at its instant: an EXPOSE entry opens or closes an exposure group (R51). -/
def execWaveEntryExpose (e : Fin 8) (t : Nat) (s : State) : Host.Outcome State Fault Refusal :=
  event (Dev.on 8) t (waveEntryExpose e.val) s

/-- IDLE_PLAYBACK. IDLE_PERIOD expires (R56). -/
def execIdlePlayback (t : Nat) (s : State) : Host.Outcome State Fault Refusal :=
  event (Dev.on 8) t (idlePlayback t) s

/-- BANK_SUPPLY_FAULT. The supply of bank b leaves its range and reads v (R43). -/
def execBankSupplyFault (b : Fin 6) (v : Fin 4) (t : Nat) (s : State) : Host.Outcome State Fault Refusal :=
  event always t (bankSupplyFault b.val v.val) s

/-- SDRV_TABLE_WRITE. A write of SDRV_TABLE tbl (R46, R58, R64). -/
def execSdrvTableWrite (tbl : Fin 64) (c : MnrCmd) (s : State) : Host.Outcome State Fault Refusal :=
  act coresRun (namedWrite (0x1140 + tbl.val) c) s

/-- WINDOW_OPEN. The armed window of descriptor i opens (R67). -/
def execWindowOpen (i : Fin 256) (t : Nat) (s : State) : Host.Outcome State Fault Refusal :=
  event (Dev.on 8) t (windowOpen i.val) s

/-- CONVERSION. Channel ch converts in its open window (R68): lvl, the input level; chk, the level its checker sees. -/
def execConversion (ch : Fin 64) (lvl : Option Int) (chk : Int) (t : Nat) (s : State) : Host.Outcome State Fault Refusal :=
  event (Dev.on 8) t (conversion ch.val lvl chk) s

/-- CHECKER_ARBITRATION. Checker k and its converter are tested (R85). -/
def execCheckerArbitration (k : Fin 4) (conv chk : ArbRes) (t : Nat) (s : State) : Host.Outcome State Fault Refusal :=
  event (Dev.on 8) t (checkerArbitration k.val t conv chk) s

/-- CONV_LINK_CRC_FAIL. A sample block of converter i fails its CRC (R86). -/
def execConvLinkCrcFail (i : Fin 68) (t : Nat) (s : State) : Host.Outcome State Fault Refusal :=
  event (Dev.on 8) t (convLinkCrcFail i.val) s

/-- CONVERTER_FAIL. Converter i, or checker i - 64, is found failed (R86 to R88). -/
def execConverterFail (i : Fin 68) (t : Nat) (s : State) : Host.Outcome State Fault Refusal :=
  event (Dev.on 8) t (converterFail i.val) s

/-- INJ_SERVE. The oldest injected request is served; lvl, the level converted (R75). -/
def execInjServe (lvl : Int) (t : Nat) (s : State) : Host.Outcome State Fault Refusal :=
  event (Dev.on 8) t (injServe t lvl) s

/-- INJ_TIMEOUT. A request has waited INJ_TMO line starts (R75). -/
def execInjTimeout (t : Nat) (s : State) : Host.Outcome State Fault Refusal :=
  event (Dev.on 8) t injTimeout s

/-- ACQ_INJ_WRITE. A write of ACQ_INJ (R74, R96). -/
def execAcqInjWrite (c : MnrCmd) (s : State) : Host.Outcome State Fault Refusal :=
  act coresRun (namedWrite 0x1204 c) s

/-- ACQ_INJ_RESULT_READ. A read of ACQ_INJ_RESULT (R76, R97). -/
def execAcqInjResultRead (c : MnrCmd) (s : State) : Host.Outcome State Fault Refusal :=
  act coresRun (namedRead 0x1205 c) s

/-- ACQ_CH_WRITE. A write of ACQ_CH (R93, R108). -/
def execAcqChWrite (c : MnrCmd) (s : State) : Host.Outcome State Fault Refusal :=
  act coresRun (namedWrite 0x1201 c) s

/-- REF_READY_SET. 2 ms after REF_EN rose (R77). -/
def execRefReadySet (t : Nat) (s : State) : Host.Outcome State Fault Refusal :=
  event acqClocked t refReadySet s

/-- REF_FAULT. The converter reference leaves its tolerance (R78). -/
def execRefFault (t : Nat) (s : State) : Host.Outcome State Fault Refusal :=
  event (Dev.on 8) t refFault s

/-- CAL_RUN. CAL_RUN (R102, R109). -/
def execCalRun (c : MnrCmd) (s : State) : Host.Outcome State Fault Refusal :=
  act coresRun (calRun c) s

/-- CAL_RUN_DEFERRED_START. The deferred self-calibration starts (R109). -/
def execCalRunDeferredStart (t : Nat) (s : State) : Host.Outcome State Fault Refusal :=
  event (Dev.on 8) t calRunDeferredStart s

/-- CAL_PASS_END. A pair of calibration runs ends with results res (R104 to R107). -/
def execCalPassEnd (res : List (CalItem × Trim × Trim)) (t : Nat) (s : State) : Host.Outcome State Fault Refusal :=
  event (Dev.on 8) t (calPassEnd res) s

/-- CAL_SAVE. CAL_SAVE (R119). -/
def execCalSave (c : MnrCmd) (s : State) : Host.Outcome State Fault Refusal :=
  act coresRun (calSave c) s

/-- CAL_STORE_WRITE_DONE. A store write commits its header (R116). -/
def execCalStoreWriteDone (t : Nat) (s : State) : Host.Outcome State Fault Refusal :=
  event (Dev.on 1) t calStoreWriteDone s

/-- BANK_SUPPLY_RETURN. The supply of bank b is in range again and reads v (R43). -/
def execBankSupplyReturn (b : Fin 6) (v : Fin 4) (t : Nat) (s : State) : Host.Outcome State Fault Refusal :=
  event always t (bankSupplyReturn b.val v.val) s

/-- REF_RESTORED. The converter reference is back within tolerance (R78). -/
def execRefRestored (t : Nat) (s : State) : Host.Outcome State Fault Refusal :=
  event (Dev.on 8) t refRestored s

end Sys2Proof.Machine
end

