-- ==== Sys2Proof/Machine/CmdSpindle.lean ====
section
/-! DEFINITION. The meanings of the commands of Spindle and the template events (chapter 2). -/

namespace Sys2Proof.Machine

/-- ENC_EDGE. The quadrature pair of port n takes the levels (A, B) (R13, R32). -/
def execEncEdge (n : Fin 4) (ab : Bool × Bool) (t : Nat) (s : State) : Host.Outcome State Fault Refusal :=
  event always t (sleepTest (encEdge n.val ab.1 ab.2 t)) s

/-- ENC_PAIR_STUCK. A pair of port n stays at equal levels (R32). -/
def execEncPairStuck (n : Fin 4) (t : Nat) (s : State) : Host.Outcome State Fault Refusal :=
  event (Dev.on 7) t (encPairStuck n.val) s

/-- SSI_FRAME. A complete SSI frame of port n with data raw (R14, R32). -/
def execSsiFrame (n : Fin 4) (raw : Fin (2 ^ 40)) (t : Nat) (s : State) : Host.Outcome State Fault Refusal :=
  event (Dev.on 7) t (ssiFrame n.val raw.val t) s

/-- Z_PULSE. A Z pulse on port n (R33). -/
def execZPulse (n : Fin 4) (t : Nat) (s : State) : Host.Outcome State Fault Refusal :=
  event (Dev.on 7) t (zPulse n.val t) s

/-- Z_MISSING. No Z pulse by Z_PERIOD + Z_TOL counts after the last (R33). -/
def execZMissing (n : Fin 4) (t : Nat) (s : State) : Host.Outcome State Fault Refusal :=
  event (Dev.on 7) t (zMissing n.val) s

/-- LINE_START. The position reaches the next line start (R18), or T_k arrives on a follower (R450). -/
def execLineStart (t : Nat) (s : State) : Host.Outcome State Fault Refusal :=
  event (Dev.on 7) t (lineStart t) s

/-- SPN_TEMPLATE_WRITE. A write of SPN_TEMPLATE (R23, R30). -/
def execSpnTemplateWrite (c : MnrCmd) (s : State) : Host.Outcome State Fault Refusal :=
  act coresRun (namedWrite 0x1010 c) s

/-- SDRV_WAVE. Entry i of the line's template acts: SDRV_WAVE starts a waveform table (R45). -/
def execSdrvWave (i : Fin 4096) (t : Nat) (s : State) : Host.Outcome State Fault Refusal :=
  event (Dev.on 7) t (templateEvent 1 t i.val) s

/-- CONV_WINDOW. Entry i of the line's template acts: CONV_WINDOW arms a window descriptor (R67). -/
def execConvWindow (i : Fin 4096) (t : Nat) (s : State) : Host.Outcome State Fault Refusal :=
  event (Dev.on 7) t (templateEvent 2 t i.val) s

/-- INJECT. Entry i of the line's template acts: INJECT requests an injected conversion (R74). -/
def execInject (i : Fin 4096) (t : Nat) (s : State) : Host.Outcome State Fault Refusal :=
  event (Dev.on 7) t (templateEvent 3 t i.val) s

/-- LAMP_ON. Entry i of the line's template acts: LAMP_ON strobes the named strings (R370). -/
def execLampOn (i : Fin 4096) (t : Nat) (s : State) : Host.Outcome State Fault Refusal :=
  event (Dev.on 7) t (templateEvent 4 t i.val) s

/-- LAMP_OFF. Entry i of the line's template acts: LAMP_OFF ends the strobe of the named strings (R370). -/
def execLampOff (i : Fin 4096) (t : Nat) (s : State) : Host.Outcome State Fault Refusal :=
  event (Dev.on 7) t (templateEvent 5 t i.val) s

/-- LAMP_DIAG_SLOT. Entry i of the line's template acts: a diagnostic slot is granted or refused (R53, R375). -/
def execLampDiagSlot (i : Fin 4096) (t : Nat) (s : State) : Host.Outcome State Fault Refusal :=
  event (Dev.on 7) t (templateEvent 6 t i.val) s

/-- TDI_ROW. Entry i of the line's template acts: TDI_ROW latches a row position (R184). -/
def execTdiRow (i : Fin 4096) (t : Nat) (s : State) : Host.Outcome State Fault Refusal :=
  event (Dev.on 7) t (templateEvent 7 t i.val) s

/-- TRIG_OUT. Entry i of the line's template acts: TRIG_OUT pulses pins (R24). -/
def execTrigOut (i : Fin 4096) (t : Nat) (s : State) : Host.Outcome State Fault Refusal :=
  event (Dev.on 7) t (templateEvent 8 t i.val) s

/-- FC_PULSE. Entry i of the line's template acts: FC_PULSE pulses the pins that Spindle owns (R24, R261). -/
def execFcPulse (i : Fin 4096) (t : Nat) (s : State) : Host.Outcome State Fault Refusal :=
  event (Dev.on 7) t (templateEvent 9 t i.val) s

/-- STB_L_FALL. STB_L falls (R27). -/
def execStbLFall (t : Nat) (s : State) : Host.Outcome State Fault Refusal :=
  event always t (sleepTest (stbFall t)) s

/-- STB_L_RISE. STB_L rises (R27). -/
def execStbLRise (t : Nat) (s : State) : Host.Outcome State Fault Refusal :=
  event always t (sleepTest stbRise) s

/-- STB_CLK_EDGE. STB_CLK rises while STB_L is low (R27). -/
def execStbClkEdge (t : Nat) (s : State) : Host.Outcome State Fault Refusal :=
  event (Dev.on 7) t stbClk s

end Sys2Proof.Machine
end

