-- ==== Sys2Proof/Machine/CmdStream.lean ====
section
/-! DEFINITION. The meanings of the commands of Skein, Reel and pacing (chapters 10 and 11). -/

namespace Sys2Proof.Machine

/-- SKEIN_PUSH. The producer of queue q pushes a word; ue, the words of a record that the Reel reader takes now that read as uncorrectable (R237, R246). -/
def execSkeinPush (q : Fin 32) (ue : Timed (List Nat)) (s : State) : Host.Outcome State Fault Refusal :=
  event (Dev.on 11) ue.t (inCycle (cycleGoesOn q ue.t s.pending) q.val (skeinPush q.val ue.x)) s

/-- SKEIN_POP. The consumer of queue q pops a word; flip, the data bits upset in the SRAM; ue, a word read again from Reel is uncorrectable (R237, R239). -/
def execSkeinPop (q : Fin 32) (flip : Nat) (ue : Timed Bool) (s : State) : Host.Outcome State Fault Refusal :=
  event (Dev.on 11) ue.t (inCycle (cycleGoesOn q ue.t s.pending) q.val (skeinPop q.val flip ue.x)) s

/-- REEL_HEADER_POP. The Reel writer pops the header of the packet at the head of queue q (R252). -/
def execReelHeaderPop (q : Fin 32) (flip : Nat) (t : Nat) (s : State) : Host.Outcome State Fault Refusal :=
  event (Dev.on 11) t (inCycle (cycleGoesOn q t s.pending) q.val (reelHeaderPop q.val flip)) s

/-- REEL_COMMIT. Store st commits its record (R245). -/
def execReelCommit (st : Fin 4) (t : Nat) (s : State) : Host.Outcome State Fault Refusal :=
  event (Dev.on 11) t (reelCommit st.val) s

/-- REEL_SCRUB. Scrubbing and refresh; n, the corrections reported (R246). -/
def execReelScrub (n : Nat) (t : Nat) (s : State) : Host.Outcome State Fault Refusal :=
  event (Dev.on 11) t (reelScrub n) s

/-- SKN_QUEUE_WRITE. A write of SKN_QUEUE (R232). -/
def execSknQueueWrite (c : MnrCmd) (s : State) : Host.Outcome State Fault Refusal :=
  act coresRun (namedWrite 0x1800 c) s

/-- REEL_LS_WRITE. A write of REEL_LS (R243). -/
def execReelLsWrite (c : MnrCmd) (s : State) : Host.Outcome State Fault Refusal :=
  act coresRun (namedWrite 0x1801 c) s

/-- STORE_DISCARD. STORE_DISCARD (R332). -/
def execStoreDiscard (c : MnrCmd) (s : State) : Host.Outcome State Fault Refusal :=
  act coresRun (storeDiscard c) s

/-- PACE_TICK. The pacing unit's 10 µs tick (R258 to R262, R454). -/
def execPaceTick (t : Nat) (s : State) : Host.Outcome State Fault Refusal :=
  event (Dev.on 0) t paceTickGroup s

/-- FC_MIN_ASSERT_END. MIN_ASSERT of pin p expires (R261). -/
def execFcMinAssertEnd (p : Fin 4) (t : Nat) (s : State) : Host.Outcome State Fault Refusal :=
  event (Dev.on 0) t (fcMinAssertEnd p.val) s

/-- PACE_AXIS_AT_REST. The braking axis is at rest (R265). -/
def execPaceAxisAtRest (t : Nat) (s : State) : Host.Outcome State Fault Refusal :=
  event (Dev.on 0) t paceAxisAtRest s

/-- PACE_PARK_REACHED. The axis reaches d_park (R266). -/
def execPaceParkReached (t : Nat) (s : State) : Host.Outcome State Fault Refusal :=
  event (Dev.on 0) t paceParkReached s

/-- PACE_RESUME. The resume condition holds (R268). -/
def execPaceResume (t : Nat) (s : State) : Host.Outcome State Fault Refusal :=
  event (Dev.on 0) t paceResume s

end Sys2Proof.Machine
end

