-- ==== Sys2Proof/Machine/Dispatch.lean ====
section
/-! DEFINITION. The one match from a command to its meaning. -/

namespace Sys2Proof.Machine

def exec (i : Instr) (s : State) : Host.Outcome State Fault Refusal :=
  match i with
  | .encEdge n ab t => Sys2Proof.Machine.execEncEdge n ab t s
  | .encPairStuck n t => Sys2Proof.Machine.execEncPairStuck n t s
  | .ssiFrame n raw t => Sys2Proof.Machine.execSsiFrame n raw t s
  | .zPulse n t => Sys2Proof.Machine.execZPulse n t s
  | .zMissing n t => Sys2Proof.Machine.execZMissing n t s
  | .lineStart t => Sys2Proof.Machine.execLineStart t s
  | .spnTemplateWrite c => Sys2Proof.Machine.execSpnTemplateWrite c s
  | .sdrvWave ix t => Sys2Proof.Machine.execSdrvWave ix t s
  | .convWindow ix t => Sys2Proof.Machine.execConvWindow ix t s
  | .inject ix t => Sys2Proof.Machine.execInject ix t s
  | .lampOn ix t => Sys2Proof.Machine.execLampOn ix t s
  | .lampOff ix t => Sys2Proof.Machine.execLampOff ix t s
  | .lampDiagSlot ix t => Sys2Proof.Machine.execLampDiagSlot ix t s
  | .tdiRow ix t => Sys2Proof.Machine.execTdiRow ix t s
  | .trigOut ix t => Sys2Proof.Machine.execTrigOut ix t s
  | .fcPulse ix t => Sys2Proof.Machine.execFcPulse ix t s
  | .stbLFall t => Sys2Proof.Machine.execStbLFall t s
  | .stbLRise t => Sys2Proof.Machine.execStbLRise t s
  | .waveEntryPin e t => Sys2Proof.Machine.execWaveEntryPin e t s
  | .waveEntryShr e t => Sys2Proof.Machine.execWaveEntryShr e t s
  | .waveEntryShd e t => Sys2Proof.Machine.execWaveEntryShd e t s
  | .waveEntryExpose e t => Sys2Proof.Machine.execWaveEntryExpose e t s
  | .idlePlayback t => Sys2Proof.Machine.execIdlePlayback t s
  | .bankSupplyFault b v t => Sys2Proof.Machine.execBankSupplyFault b v t s
  | .sdrvTableWrite tbl c => Sys2Proof.Machine.execSdrvTableWrite tbl c s
  | .windowOpen ix t => Sys2Proof.Machine.execWindowOpen ix t s
  | .conversion ch lvl chk t => Sys2Proof.Machine.execConversion ch lvl chk t s
  | .checkerArbitration k conv chk t => Sys2Proof.Machine.execCheckerArbitration k conv chk t s
  | .convLinkCrcFail ix t => Sys2Proof.Machine.execConvLinkCrcFail ix t s
  | .converterFail ix t => Sys2Proof.Machine.execConverterFail ix t s
  | .injServe lvl t => Sys2Proof.Machine.execInjServe lvl t s
  | .injTimeout t => Sys2Proof.Machine.execInjTimeout t s
  | .acqInjWrite c => Sys2Proof.Machine.execAcqInjWrite c s
  | .acqInjResultRead c => Sys2Proof.Machine.execAcqInjResultRead c s
  | .acqChWrite c => Sys2Proof.Machine.execAcqChWrite c s
  | .refReadySet t => Sys2Proof.Machine.execRefReadySet t s
  | .refFault t => Sys2Proof.Machine.execRefFault t s
  | .calRun c => Sys2Proof.Machine.execCalRun c s
  | .calRunDeferredStart t => Sys2Proof.Machine.execCalRunDeferredStart t s
  | .calPassEnd res t => Sys2Proof.Machine.execCalPassEnd res t s
  | .calSave c => Sys2Proof.Machine.execCalSave c s
  | .calStoreWriteDone t => Sys2Proof.Machine.execCalStoreWriteDone t s
  | .sysrefEdge t => Sys2Proof.Machine.execSysrefEdge t s
  | .linkSyncLock l kbps => Sys2Proof.Machine.execLinkSyncLock l kbps s
  | .ilasReceived l ix a t => Sys2Proof.Machine.execIlasReceived l ix a t s
  | .linkDeskewFault l arrive => Sys2Proof.Machine.execLinkDeskewFault l arrive s
  | .linkFrame src data errs t => Sys2Proof.Machine.execLinkFrame src data errs t s
  | .linkReinit l lost t => Sys2Proof.Machine.execLinkReinit l lost t s
  | .linkWindowOpen src mark => Sys2Proof.Machine.execLinkWindowOpen src mark s
  | .rawAlign p train => Sys2Proof.Machine.execRawAlign p train s
  | .rawAlignLost p t => Sys2Proof.Machine.execRawAlignLost p t s
  | .heddleSample err t => Sys2Proof.Machine.execHeddleSample err t s
  | .heddleLineDone t => Sys2Proof.Machine.execHeddleLineDone t s
  | .hdlSwapCopy c => Sys2Proof.Machine.execHdlSwapCopy c s
  | .hdlCopyDone t => Sys2Proof.Machine.execHdlCopyDone t s
  | .hdlSwapStage c => Sys2Proof.Machine.execHdlSwapStage c s
  | .hdlSwapCancel c => Sys2Proof.Machine.execHdlSwapCancel c s
  | .hdlDefAdd c => Sys2Proof.Machine.execHdlDefAdd c s
  | .hdlDefLogRead c => Sys2Proof.Machine.execHdlDefLogRead c s
  | .packLine t => Sys2Proof.Machine.execPackLine t s
  | .statShadeUpdate tp t => Sys2Proof.Machine.execStatShadeUpdate tp t s
  | .histSnapshot k t => Sys2Proof.Machine.execHistSnapshot k t s
  | .skeinPush q ue => Sys2Proof.Machine.execSkeinPush q ue s
  | .skeinPop q flip ue => Sys2Proof.Machine.execSkeinPop q flip ue s
  | .reelHeaderPop q flip t => Sys2Proof.Machine.execReelHeaderPop q flip t s
  | .reelCommit st t => Sys2Proof.Machine.execReelCommit st t s
  | .reelScrub n t => Sys2Proof.Machine.execReelScrub n t s
  | .sknQueueWrite c => Sys2Proof.Machine.execSknQueueWrite c s
  | .reelLsWrite c => Sys2Proof.Machine.execReelLsWrite c s
  | .storeDiscard c => Sys2Proof.Machine.execStoreDiscard c s
  | .paceTick t => Sys2Proof.Machine.execPaceTick t s
  | .fcMinAssertEnd p t => Sys2Proof.Machine.execFcMinAssertEnd p t s
  | .paceAxisAtRest t => Sys2Proof.Machine.execPaceAxisAtRest t s
  | .paceParkReached t => Sys2Proof.Machine.execPaceParkReached t s
  | .paceResume t => Sys2Proof.Machine.execPaceResume t s
  | .ringEnable n v t => Sys2Proof.Machine.execRingEnable n v t s
  | .ringProdWrite n v t => Sys2Proof.Machine.execRingProdWrite n v t s
  | .ringDescFetch n ws t => Sys2Proof.Machine.execRingDescFetch n ws t s
  | .ringDeliverRecord q ue t => Sys2Proof.Machine.execRingDeliverRecord q ue t s
  | .ringIdleFlush n t => Sys2Proof.Machine.execRingIdleFlush n t s
  | .ringConfWrite n v t => Sys2Proof.Machine.execRingConfWrite n v t s
  | .ringResendRequest n v t => Sys2Proof.Machine.execRingResendRequest n v t s
  | .cqEnable q v t => Sys2Proof.Machine.execCqEnable q v t s
  | .cqHeadWrite q v t => Sys2Proof.Machine.execCqHeadWrite q v t s
  | .msixModerationTimer q t => Sys2Proof.Machine.execMsixModerationTimer q t s
  | .linkPowerStateChange st speed width mps t => Sys2Proof.Machine.execLinkPowerStateChange st speed width mps t s
  | .funcPowerStateChange st c t => Sys2Proof.Machine.execFuncPowerStateChange st c t s
  | .pcieLinkReset t => Sys2Proof.Machine.execPcieLinkReset t s
  | .pcieAerError ue t => Sys2Proof.Machine.execPcieAerError ue t s
  | .h2dGo m t => Sys2Proof.Machine.execH2dGo m t s
  | .h2dDone m t => Sys2Proof.Machine.execH2dDone m t s
  | .d2hGo m t => Sys2Proof.Machine.execD2hGo m t s
  | .d2hDone m t => Sys2Proof.Machine.execD2hDone m t s
  | .d2hTimeout m t => Sys2Proof.Machine.execD2hTimeout m t s
  | .mbxEventW1c v t => Sys2Proof.Machine.execMbxEventW1c v t s
  | .hostDbWrite v t => Sys2Proof.Machine.execHostDbWrite v t s
  | .mbiGo ix e t => Sys2Proof.Machine.execMbiGo ix e t s
  | .mbiDone ix e t => Sys2Proof.Machine.execMbiDone ix e t s
  | .mbiTimeout ix t => Sys2Proof.Machine.execMbiTimeout ix t s
  | .mbiEventW1c e emptied v t => Sys2Proof.Machine.execMbiEventW1c e emptied v t s
  | .mbxRouteWrite e v t => Sys2Proof.Machine.execMbxRouteWrite e v t s
  | .ping c => Sys2Proof.Machine.execPing c s
  | .sessionOpen c => Sys2Proof.Machine.execSessionOpen c s
  | .sessionClose c => Sys2Proof.Machine.execSessionClose c s
  | .devInfo c => Sys2Proof.Machine.execDevInfo c s
  | .objRead c => Sys2Proof.Machine.execObjRead c s
  | .objWrite c => Sys2Proof.Machine.execObjWrite c s
  | .objInfo c => Sys2Proof.Machine.execObjInfo c s
  | .modeSet c => Sys2Proof.Machine.execModeSet c s
  | .calLamp c mv => Sys2Proof.Machine.execCalLamp c mv s
  | .calDelay c delays => Sys2Proof.Machine.execCalDelay c delays s
  | .moveAppend c => Sys2Proof.Machine.execMoveAppend c s
  | .moveReplace c => Sys2Proof.Machine.execMoveReplace c s
  | .axisStop c => Sys2Proof.Machine.execAxisStop c s
  | .moveLinear c => Sys2Proof.Machine.execMoveLinear c s
  | .lampForce c => Sys2Proof.Machine.execLampForce c s
  | .lampSpare c mv => Sys2Proof.Machine.execLampSpare c mv s
  | .fabDiscover c up nb => Sys2Proof.Machine.execFabDiscover c up nb s
  | .groupJoin c => Sys2Proof.Machine.execGroupJoin c s
  | .groupLeave c => Sys2Proof.Machine.execGroupLeave c s
  | .imageLoad c sig => Sys2Proof.Machine.execImageLoad c sig s
  | .imageActivate c => Sys2Proof.Machine.execImageActivate c s
  | .domainReset c => Sys2Proof.Machine.execDomainReset c s
  | .keyProvision c => Sys2Proof.Machine.execKeyProvision c s
  | .extCmd c n status detail res => Sys2Proof.Machine.execExtCmd c n status detail res s
  | .auxRead c => Sys2Proof.Machine.execAuxRead c s
  | .faultList c => Sys2Proof.Machine.execFaultList c s
  | .shuGenUpdate t => Sys2Proof.Machine.execShuGenUpdate t s
  | .limitInput n pos t => Sys2Proof.Machine.execLimitInput n pos t s
  | .stepInputEdge n up t => Sys2Proof.Machine.execStepInputEdge n up t s
  | .holdCurrentReduce n t => Sys2Proof.Machine.execHoldCurrentReduce n t s
  | .shuPosWrite c => Sys2Proof.Machine.execShuPosWrite c s
  | .stageOvercurrent n t => Sys2Proof.Machine.execStageOvercurrent n t s
  | .stageOvertempWarn n t => Sys2Proof.Machine.execStageOvertempWarn n t s
  | .stageOvertemp n t => Sys2Proof.Machine.execStageOvertemp n t s
  | .stageVinLow t => Sys2Proof.Machine.execStageVinLow t s
  | .stageOpenCoil n t => Sys2Proof.Machine.execStageOpenCoil n t s
  | .extDriverFault n t => Sys2Proof.Machine.execExtDriverFault n t s
  | .lampBlankEnd str t => Sys2Proof.Machine.execLampBlankEnd str t s
  | .lampModPeriod str t => Sys2Proof.Machine.execLampModPeriod str t s
  | .lampVoltageRead str l mv t => Sys2Proof.Machine.execLampVoltageRead str l mv t s
  | .ilmTempRead str t => Sys2Proof.Machine.execIlmTempRead str t s
  | .ilmTempLost str t => Sys2Proof.Machine.execIlmTempLost str t s
  | .lampHeadroomFault str vled t => Sys2Proof.Machine.execLampHeadroomFault str vled t s
  | .lampForceEnd str t => Sys2Proof.Machine.execLampForceEnd str t s
  | .ilmChainWrite c => Sys2Proof.Machine.execIlmChainWrite c s
  | .chainShiftDone ret t => Sys2Proof.Machine.execChainShiftDone ret t s
  | .auxWord v ref vc refc comp t => Sys2Proof.Machine.execAuxWord v ref vc refc comp t s
  | .auxArbitration prim chk t => Sys2Proof.Machine.execAuxArbitration prim chk t s
  | .auxStale slot t => Sys2Proof.Machine.execAuxStale slot t s
  | .amonStale a t => Sys2Proof.Machine.execAmonStale a t s
  | .auxReadTimeout t => Sys2Proof.Machine.execAuxReadTimeout t s
  | .icArrival n t => Sys2Proof.Machine.execIcArrival n t s
  | .icClaim e t => Sys2Proof.Machine.execIcClaim e t s
  | .icComplete e n t => Sys2Proof.Machine.execIcComplete e n t s
  | .icCfgWrite e n v t => Sys2Proof.Machine.execIcCfgWrite e n v t s
  | .icGctlWrite e v t => Sys2Proof.Machine.execIcGctlWrite e v t s
  | .taprootInput ix v t => Sys2Proof.Machine.execTaprootInput ix v t s
  | .tapEventW1c v t => Sys2Proof.Machine.execTapEventW1c v t s
  | .tapTimerExpiry t => Sys2Proof.Machine.execTapTimerExpiry t s
  | .sleepCommit t => Sys2Proof.Machine.execSleepCommit t s
  | .sleepWake t => Sys2Proof.Machine.execSleepWake t s
  | .krmDataBlock h q ws end_ abort t => Sys2Proof.Machine.execKrmDataBlock h q ws end_ abort t s
  | .krmAckBlock h a t => Sys2Proof.Machine.execKrmAckBlock h a t s
  | .krmNakBlock h e t => Sys2Proof.Machine.execKrmNakBlock h e t s
  | .krmCreditBlock h q n t => Sys2Proof.Machine.execKrmCreditBlock h q n t s
  | .krmTimeBlock h reply path t => Sys2Proof.Machine.execKrmTimeBlock h reply path t s
  | .krmLineBlock h b t => Sys2Proof.Machine.execKrmLineBlock h b t s
  | .krmPaceBlock h vd xoff restart t => Sys2Proof.Machine.execKrmPaceBlock h vd xoff restart t s
  | .krmDiscBlock h uid addr port reply t => Sys2Proof.Machine.execKrmDiscBlock h uid addr port reply t s
  | .krmConfirmBlock h k again t => Sys2Proof.Machine.execKrmConfirmBlock h k again t s
  | .krmGroupBlock h m t => Sys2Proof.Machine.execKrmGroupBlock h m t s
  | .stitchTileTimeout t => Sys2Proof.Machine.execStitchTileTimeout t s
  | .krmLaneFail p l t => Sys2Proof.Machine.execKrmLaneFail p l t s
  | .krmReplayTimeout p t => Sys2Proof.Machine.execKrmReplayTimeout p t s
  | .krmAckTimer p t => Sys2Proof.Machine.execKrmAckTimer p t s
  | .krmSignalDetect p t => Sys2Proof.Machine.execKrmSignalDetect p t s
  | .krmHeartbeat t => Sys2Proof.Machine.execKrmHeartbeat t s
  | .krmMemberSilent a t => Sys2Proof.Machine.execKrmMemberSilent a t s
  | .krmTimeExchange t1 t2 t3 t4 => Sys2Proof.Machine.execKrmTimeExchange t1 t2 t3 t4 s
  | .krmTimeLockLost t => Sys2Proof.Machine.execKrmTimeLockLost t s
  | .krmMasterLost t => Sys2Proof.Machine.execKrmMasterLost t s
  | .groupJoinTimeout t => Sys2Proof.Machine.execGroupJoinTimeout t s
  | .powerOnRelease => Sys2Proof.Machine.execPowerOnRelease s
  | .vinWarn t => Sys2Proof.Machine.execVinWarn t s
  | .vinPorFall => Sys2Proof.Machine.execVinPorFall s
  | .vinRestored t => Sys2Proof.Machine.execVinRestored t s
  | .sysReset => Sys2Proof.Machine.execSysReset s
  | .pwrMonitorTick vin temp t => Sys2Proof.Machine.execPwrMonitorTick vin temp t s
  | .bootEnd map t => Sys2Proof.Machine.execBootEnd map t s
  | .calibrateEnd delays mv t => Sys2Proof.Machine.execCalibrateEnd delays mv t s
  | .safeEntryDone t => Sys2Proof.Machine.execSafeEntryDone t s
  | .readyEntryDone t => Sys2Proof.Machine.execReadyEntryDone t s
  | .domainResetDone n t => Sys2Proof.Machine.execDomainResetDone n t s
  | .coreReady t => Sys2Proof.Machine.execCoreReady t s
  | .liveUpdateTimeout t => Sys2Proof.Machine.execLiveUpdateTimeout t s
  | .imageLoadDone ok t => Sys2Proof.Machine.execImageLoadDone ok t s
  | .keyProvisionDone t => Sys2Proof.Machine.execKeyProvisionDone t s
  | .debugAttach t => Sys2Proof.Machine.execDebugAttach t s
  | .debugResponse scope sig t => Sys2Proof.Machine.execDebugResponse scope sig t s
  | .jtagInstruction ir drives t => Sys2Proof.Machine.execJtagInstruction ir drives t s
  | .registerWrite who addr v wide t => Sys2Proof.Machine.execRegisterWrite who addr v wide t s
  | .stbClkEdge t => Sys2Proof.Machine.execStbClkEdge t s
  | .bankSupplyReturn b v t => Sys2Proof.Machine.execBankSupplyReturn b v t s
  | .refRestored t => Sys2Proof.Machine.execRefRestored t s
  | .krmLinkUp p t => Sys2Proof.Machine.execKrmLinkUp p t s
  | .sysResetRelease => Sys2Proof.Machine.execSysResetRelease s
  | .icLevelDeassert n t => Sys2Proof.Machine.execIcLevelDeassert n t s
  | .limitInputRelease n pos t => Sys2Proof.Machine.execLimitInputRelease n pos t s
  | .extDriverFaultRelease n t => Sys2Proof.Machine.execExtDriverFaultRelease n t s
  | .shuTempMeasure n temp t => Sys2Proof.Machine.execShuTempMeasure n temp t s
  | .stagePwmPeriod n vin cur t => Sys2Proof.Machine.execStagePwmPeriod n vin cur t s

end Sys2Proof.Machine
end

