-- ==== Sys2Proof/Safety.lean ====
section
/-! DEFINITION. What the statements call safe: the changes of mode that Table 20.4 gives, the state of the memory the device writes, and a run
that no command ends. -/

namespace Sys2Proof.Machine

/-- The changes of the mode that Table 20.4 gives (R472). -/
def legalMove (m n : Mode) : Bool :=
  match m, n with
  | _, .reset => true
  | .reset, .boot => true
  | .boot, .calibrate => true
  | .calibrate, .ready => true
  | .ready, .scan => true
  | .scan, .hold => true
  | .hold, .scan => true
  | .scan, .ready | .hold, .ready => true
  | .calibrate, .safe | .ready, .safe | .scan, .safe | .hold, .safe => true
  | .safe, .ready | .safe, .calibrate => true
  | .ready, .sleep => true
  | .sleep, .ready | .sleep, .boot => true
  | _, _ => false

/-- The changes of the mode that the blocks cause of themselves: pacing moves between SCAN and HOLD, and a fault or V_WARN enters SAFE. -/
def runMove (m n : Mode) : Bool :=
  m == n || ((m == .scan || m == .hold) && (n == .scan || n == .hold)) ||
    ((m == .calibrate || m == .ready || m == .scan || m == .hold) && n == .safe)

/-- Host memory is in its canonical form. -/
def hostMemOk (s : State) : Prop := Memory.wf s.dev.hostMem = true

/-- The firmware on device e takes the command that the words of H2D mailbox m of device d hold (Table 14.1). -/
def commandOf (m : Nat) (d e : Dev) : Dev :=
  let x := h2dAt m d
  let w0 := (x.words.getD 0 0).toNat
  takeCommand m (bits w0 31 30) (bits w0 25 16) (bits w0 15 0) (bits w0 29 26) (x.words.getD 1 0).toNat ((x.words.drop 2).take (bits w0 29 26)) x.postEpoch e

/-! Cycles of the interrupt controller (R424; assumption log 60). -/

/-- An event of instant t is the first of its controller cycle, which is one of 750 MHz (R418, R424). -/
abbrev newCycle (t : Nat) (d : Dev) : Prop := cycle750 d.ic.evAt ≠ cycle750 (max d.now t) ∨ d.ic.evs = []

/-- Device d at instant t, as a controller cycle begins with event e. -/
def freshCycle (t : Nat) (e : IcEv) (d : Dev) : Dev := (d.at_ t).uIc fun c => { c with evAt := (d.at_ t).now, evs := [e], base := c.snap }

/-- What an earlier read of IC_CLAIM by endpoint e returned stands, as e claims again. -/
def claimStands (e : Nat) (d : Dev) : Dev :=
  if d.hs.claimRead = some e then d.uHs fun h => { h with readData := [BitVec.ofNat 32 (at' d.ic.lastClaim e 0)], claimRead := none } else d

/-! Actions of mailboxes that meet in one instant (Table 13.6; assumption log 2). -/

/-- No other action of instant n has met the mailbox. -/
def Mbox.quiet (n : Nat) (x : Mbox) : Bool := x.doneAt != some n && x.lostAt != some n && x.tmoAt.map Prod.fst != some n

/-- No endpoint's domain was reset at instant n. -/
def noReset (n : Nat) (d : Dev) : Bool := d.mbx.resetAt.all fun r => r != some n

/-! Commands of Meoner (assumption log 9). -/

/-- The device once the firmware has taken and begun a command of opcode op. -/
def begun (op : Nat) (c : MnrCmd) (d : Dev) : Dev := (beginCommand op c (cmdAt c d)).1

/-- On device d the core firmware runs, begins the command c of opcode op as t, and is in a mode in which it accepts op. -/
abbrev Starts (op : Nat) (c : MnrCmd) (d : Dev) (t : Taken) : Prop :=
  coresRun d = true ∧ (beginCommand op c (cmdAt c d)).2 = some t ∧ (opModes op).contains (begun op c d).pwr.mode = true

/-- The command c posted on device d as W0 to W15 of its mailbox give it: the tag record of the command taken. -/
def takenOf (op : Nat) (c : MnrCmd) (d : Dev) : Taken :=
  { who := { mbx := c.mbx.val, tag := c.tag.val, op, sess := d.mnr.sess }, arg := c.arg.toNat, len := c.len.val, pay := c.pay.take c.len.val
    at_ := (cmdAt c d).now }

/-! Writes and reads of objects (R330, R331). -/

/-- An OBJ_WRITE that nothing rejects: its form, its fields, its mode and its owner's check are right, and no access of the object is refused. -/
def writeAccepted (c : MnrCmd) (t : Taken) (d : Dev) : Bool :=
  decide (t.arg < 131072) && !objInProgress (t.arg % 65536) d &&
    match objDef (t.arg % 65536) d with
    | none => false
    | some o =>
      let ws := writeWords' c t
      (domainBusy (t.arg % 65536) d).isNone && !o.ro && (writeForm o c t ws).isNone && !fieldsBad o.fields (padTo (o.size ws) ws) &&
        o.modes.contains d.pwr.mode && (o.check (padTo (o.size ws) ws) d).isNone

/-- The contents that an OBJ_WRITE gives its object: what it carries, with the fields that a write does not set as they stand. -/
def writtenWords (c : MnrCmd) (t : Taken) (d : Dev) : List Word :=
  match objDef (t.arg % 65536) d with
  | none => []
  | some o => keepRo o.fields (o.read d) (padTo (o.size (writeWords' c t)) (writeWords' c t))

/-- What the owner of the object does with an accepted write. -/
def writeEffect (c : MnrCmd) (t : Taken) (d : Dev) : Dev :=
  match objDef (t.arg % 65536) d with
  | none => d
  | some o => o.apply t (writtenWords c t d) d

/-- The words that a read of an object returns. -/
def readWords (id : Nat) (d : Dev) : List Word :=
  match objDef id d with
  | none => []
  | some o => o.read d

/-- What a successful read of an object that device d has clears on device e. -/
def readClears (id : Nat) (d e : Dev) : Dev :=
  match objDef id d with
  | none => e
  | some o => o.clear e

/-- The command with an ACTION of HDL_SWAP set in its first payload word (R165, R166). -/
def withAction (a : Nat) (c : MnrCmd) : MnrCmd :=
  let set (l : List Word) : List Word := match l with
    | [] => []
    | w :: ws => BitVec.ofNat 32 (w.toNat / 4 * 4 + a) :: ws
  { c with pay := set c.pay, buf := set c.buf }

/-- A command of the same mailbox and tag was taken with another ACTION of HDL_SWAP. -/
def otherAction (a : Nat) (c : MnrCmd) (d : Dev) : Bool :=
  d.mnr.taken.any fun t => t.who.mbx == c.mbx.val && t.who.tag == c.tag.val && !bit t.arg 16 && swapAction t.pay != a

/-- A read of an object needs the buffer. -/
def readByBuffer (id : Nat) (d : Dev) : Bool :=
  match objDef id d with
  | none => false
  | some o => o.buf || o.readBuf || decide (13 < (o.read d).length)

/-- An object that exists and to which no access is refused. -/
def readable (id : Nat) (d : Dev) : Bool := (objDef id d).isSome && (domainBusy id d).isNone && !objInProgress id d

/-! What whole families of commands leave alone. -/

/-- The commands that can write host memory: deliveries, completion entries and messages of the host stream, buffers of reads, and the resets,
power changes and register writes that let waiting entries and messages go (R285, R289, R291, R296, R331). -/
def mayWriteHost : Instr → Bool
  | .acqInjResultRead .. | .hdlDefLogRead .. | .objRead .. | .cqEnable .. | .cqHeadWrite .. | .d2hGo .. | .h2dDone ..
  | .domainReset .. | .faultList .. | .funcPowerStateChange .. | .h2dGo .. | .imageActivate .. | .linkPowerStateChange ..
  | .liveUpdateTimeout .. | .msixModerationTimer .. | .pcieLinkReset .. | .registerWrite .. | .ringDeliverRecord ..
  | .ringDescFetch .. | .ringEnable .. | .ringIdleFlush .. | .ringResendRequest .. | .sessionClose .. | .sleepWake .. => true
  | _ => false

/-- The commands that can change the state of security: boot and resets, the loading and swapping of images, keys, debug and boundary scan, and
the register writes that can be violations (chapter 21). -/
def mayChangeSecurity : Instr → Bool
  | .bootEnd .. | .coreReady .. | .debugAttach .. | .debugResponse .. | .domainReset .. | .domainResetDone .. | .icCfgWrite ..
  | .icGctlWrite .. | .imageActivate .. | .imageLoad .. | .imageLoadDone .. | .jtagInstruction .. | .keyProvision ..
  | .keyProvisionDone .. | .liveUpdateTimeout .. | .pwrMonitorTick .. | .registerWrite .. | .sleepCommit .. | .sysReset
  | .vinPorFall | .vinWarn .. => true
  | _ => false

/-- Of the fuses of device d no bit has returned to 0 on device e, and no fuse of SVN counts less (R489). -/
def fusesKept (d e : Dev) : Prop :=
  e.sec.vendorHash = d.sec.vendorHash ∧ e.sec.custHash &&& d.sec.custHash = d.sec.custHash ∧ e.sec.custAes &&& d.sec.custAes = d.sec.custAes ∧
    (d.sec.custProv = true → e.sec.custProv = true) ∧ (d.sec.permLock = true → e.sec.permLock = true) ∧
    ∀ k, at' d.sec.svnFuse k 0 ≤ at' e.sec.svnFuse k 0

/-! Encoder ports and template entries (R13, R24, R32). -/

/-- No conductor of the pair of port n has changed within FILTER of instant t. -/
def farFrom (n t : Nat) (d : Dev) : Bool :=
  let u := at' d.spn.pinAt n (none, none)
  !withinFilter n u.1 t d && !withinFilter n u.2 t d

/-- The pair of port n takes levels a and b at instant t; the instant of each change is kept. -/
def pinsTake (n : Nat) (a b : Bool) (t : Nat) (d : Dev) : Dev :=
  d.uSpn fun x => { x with
    pins := put x.pins n (a, b)
    pinAt := put x.pinAt n (if (at' x.pins n (false, false)).1 != a then some t else (at' x.pinAt n (none, none)).1,
                            if (at' x.pins n (false, false)).2 != b then some t else (at' x.pinAt n (none, none)).2) }

/-- A fault of an encoder port that is not the scan source: its ENC_FAULT bit and interrupt 64 + n; its count of good frames starts again. -/
def portFault (n : Nat) (d : Dev) : Dev :=
  raise (64 + n) (d.uSpn fun s => { s with encFault := setBit s.encFault n true, ssiGood := put s.ssiGood n 0 })

/-- The oldest line with entries still to act whose next entry is i, one of the target whose instant has come by t, and that instant (R24). -/
def entryComes (target t i : Nat) (d : Dev) : Option (LineProg × Nat) :=
  (openEntries d).findSome? fun l => (entryActs target t i d l).map fun u => (l, u)

/-! Arbitration (R85). -/

/-- The device after the test of checker k and of its channel's converter, with what each of them failed. -/
def arbOutcome (k : Nat) (convFails chkFails : Bool) (d : Dev) : Dev :=
  match convFails, chkFails with
  | true, false => failConverter (chkCh k d) d
  | false, true => failChecker k d
  | true, true => failConverter (chkCh k d) (failChecker k d)
  | false, false => d

/-! Linear moves (R352). -/

/-- The target of axis n of a MOVE_LINEAR, its distance from where the axis's queue ends, and the axis that leads. -/
def linTarget (t : Taken) (d : Dev) (n : Nat) : Int :=
  let pos := toS 64 (t.w (5 + 2 * n) + 4294967296 * t.w (6 + 2 * n))
  if bit (t.w 0) 0 then pos else appendBase n d + pos
def linDist (t : Taken) (d : Dev) (n : Nat) : Nat := (linTarget t d n - appendBase n d).natAbs
def linLead (t : Taken) (d : Dev) : Nat := leadAxis (linDist t d) (maskIx t.arg 4)

/-- The profile factor of a MOVE_LINEAR, and the move of axis n under it. -/
def linFactor (t : Taken) (d : Dev) : Rat := fitFactor (maskIx t.arg 4) (linDist t d) (linDist t d (linLead t d)) (t.w 1) (t.w 2) (t.w 3) d
def linMove (t : Taken) (d : Dev) (n : Nat) : Move :=
  ({ start := appendBase n d, target := linTarget t d n, scurve := bit (t.w 0) 1, vMax := 0, acc := 0, dec := 0, who := none, lin := some d.shu.linNo
     given := [t.w 1, t.w 2, t.w 3, t.w 4] } : Move).scaled (linFactor t d) (linDist t d n) (linDist t d (linLead t d))

/-- Nothing rejects a MOVE_LINEAR: its form and profile, its axes' modes, faults, targets, limits and queues are right. -/
def linAccepted (t : Taken) (d : Dev) : Bool :=
  let ns := maskIx t.arg 4
  decide (t.arg < 16) && decide (2 ≤ ns.length) && t.len == 13 && !bit (t.w 0) 2 &&
    ((List.range 4).all fun n => ns.contains n || (t.w (5 + 2 * n) == 0 && t.w (6 + 2 * n) == 0)) &&
    !badProfile (linLead t d) (t.w 0) (t.w 1) (t.w 2) (t.w 3) (t.w 4) d && !((paceAxis d).any fun n => d.inMode [.scan, .hold] && ns.contains n) &&
    ns.all fun n => axMode n d == 1 && (axisAt n d).fault == 0 && inSoft n (linTarget t d n) d &&
      !limited n (linTarget t d n - appendBase n d) d && (linDist t d (linLead t d) == 0 || decide ((axisAt n d).q.length < 32))

/-! Karum blocks (R437, R439). -/

/-- A block's port is up, its CRC right, its SEQ the expected one and its type known; b: its type, class and DATA fields. -/
def inOrder (h : KHdr) (b : KBlock) (d : Dev) : Bool :=
  portUp h.port.val d && d.runs 15 && crcRight h b && h.seq.val == (kport h.port.val d).rxExpected && h.badType.isNone

/-- An in-order block for this node, which has an address. -/
def forUs (h : KHdr) (b : KBlock) (d : Dev) : Bool := inOrder h b d && nodeAddr d != 0 && h.dest.val == nodeAddr d

/-- The device once an in-order block is counted and its acknowledgement taken; without an address only a DISC block brings one (R441). -/
def countedAs (disc : Bool) (h : KHdr) (d : Dev) : Dev :=
  let d := updPort h.port.val (fun x => { x with rxExpected := (x.rxExpected + 1) % 4096, ackDue := true, nakDue := none }) d
  match h.ack with
  | some a => if nodeAddr d = 0 ∧ disc = false then d else ackUpTo h.port.val a.val d
  | none => d
def counted (h : KHdr) (d : Dev) : Dev := countedAs false h d

end Sys2Proof.Machine
end

