-- ==== Sys2Proof/WellFormed.lean ====
section
/-! DEFINITION. Which commands are well-formed: the bounds that their operands' widths on the device set and that the operand types do not
already say. The machine is total: an ill-formed command has a meaning too, and no statement about the machine leans on these checks. -/

namespace Sys2Proof

open Sys2Proof.Machine

/-- No element stands in the list twice. -/
def noRepeat {α : Type} [DecidableEq α] : List α → Bool
  | [] => true
  | a :: l => !l.contains a && noRepeat l

/-- A Meoner command carries as many payload words as LEN says, at most the 14 of a mailbox's payload (Table 14.1, R331). -/
def wfCmd (c : MnrCmd) : Bool := c.pay.length == min 14 c.len.val

/-- A calibration item is one of 68 converter parts or 64 front-end parts (R104, R106). -/
def wfItem : CalItem → Bool
  | .conv i => i < 68
  | .fe c => c < 64

/-- A Karum block: at most 16 units, and a TYPE that R437 drops where it has another than its row's. -/
def wfHdr (h : KHdr) : Bool :=
  h.pay.length ≤ 128 && h.pay.length % 8 == 0 && (match h.badType with | some t => t.val == 0 || decide (11 ≤ t.val) | none => true)

/-- Words of a record: a line store has room for 2^30 of them. -/
def wfUe (ue : List Nat) : Bool := ue.all fun i => decide (i < 2 ^ 30)

/-- Measured corrections fit signed 16-bit fields. -/
def wfTrim (x : Trim) : Bool := [x.ofs, x.gain, x.skew].all fun v => decide (-32768 ≤ v) && decide (v < 32768)

/-- A temperature in 1/16 °C fits a signed 16-bit field (R366, R477). -/
def wfTemp (v : Int) : Bool := decide (-32768 ≤ v) && decide (v < 32768)

/-- The ILAS parameters fit the octets that carry them (R130). -/
def wfIlas (i : Ilas) : Bool :=
  [i.l, i.m, i.f, i.s, i.n, i.np, i.cs, i.k].all (· < 256) && i.hd < 2 && i.scr < 2

/-- A LINE block names a template phase, and instants of the 64-bit time counter (R450). -/
def wfLine (b : LineBlk) : Bool := b.k < 2 ^ 64 && b.tk < 2 ^ 64 && b.phase < 8

/-- Whether a command is well-formed. -/
def Instr.wf : Instr → Bool
  | .encEdge _ _ _ => true
  | .encPairStuck _ _ => true
  | .ssiFrame _ _ _ => true
  | .zPulse _ _ => true
  | .zMissing _ _ => true
  | .lineStart _ => true
  | .spnTemplateWrite c => wfCmd c
  | .sdrvWave _ _ => true
  | .convWindow _ _ => true
  | .inject _ _ => true
  | .lampOn _ _ => true
  | .lampOff _ _ => true
  | .lampDiagSlot _ _ => true
  | .tdiRow _ _ => true
  | .trigOut _ _ => true
  | .fcPulse _ _ => true
  | .stbLFall _ => true
  | .stbLRise _ => true
  | .waveEntryPin _ _ => true
  | .waveEntryShr _ _ => true
  | .waveEntryShd _ _ => true
  | .waveEntryExpose _ _ => true
  | .idlePlayback _ => true
  | .bankSupplyFault _ _ _ => true
  | .sdrvTableWrite _ c => wfCmd c
  | .windowOpen _ _ => true
  | .conversion _ _ _ _ => true
  | .checkerArbitration _ _ _ _ => true
  | .convLinkCrcFail _ _ => true
  | .converterFail _ _ => true
  | .injServe _ _ => true
  | .injTimeout _ => true
  | .acqInjWrite c => wfCmd c
  | .acqInjResultRead c => wfCmd c
  | .acqChWrite c => wfCmd c
  | .refReadySet _ => true
  | .refFault _ => true
  | .calRun c => wfCmd c
  | .calRunDeferredStart _ => true
  | .calPassEnd res _ => res.all (fun r => wfItem r.1 && wfTrim r.2.1 && wfTrim r.2.2) && noRepeat (res.map (·.1))
  | .calSave c => wfCmd c
  | .calStoreWriteDone _ => true
  | .sysrefEdge _ => true
  | .linkSyncLock _ _ => true
  | .ilasReceived _ i _ _ => wfIlas i
  | .linkDeskewFault _ _ => true
  | .linkFrame _ data _ _ => data.all (fun l => l.all (· < 65536))
  | .linkReinit _ lost _ => lost < 4294967296
  | .linkWindowOpen _ mark => mark.x.all (· < 65536)
  | .rawAlign _ _ => true
  | .rawAlignLost _ _ => true
  | .heddleSample err _ => match err with | .poisoned _ a => a < 65536 | _ => true
  | .heddleLineDone _ => true
  | .hdlSwapCopy c => wfCmd c
  | .hdlCopyDone _ => true
  | .hdlSwapStage c => wfCmd c
  | .hdlSwapCancel c => wfCmd c
  | .hdlDefAdd c => wfCmd c
  | .hdlDefLogRead c => wfCmd c
  | .packLine _ => true
  | .statShadeUpdate _ _ => true
  | .histSnapshot _ _ => true
  | .skeinPush _ ue => wfUe ue.x
  | .skeinPop _ flip _ => flip < 2 ^ 72
  | .reelHeaderPop _ flip _ => flip < 2 ^ 72
  | .reelCommit _ _ => true
  | .reelScrub n _ => n < 2 ^ 32
  | .sknQueueWrite c => wfCmd c
  | .reelLsWrite c => wfCmd c
  | .storeDiscard c => wfCmd c
  | .paceTick _ => true
  | .fcMinAssertEnd _ _ => true
  | .paceAxisAtRest _ => true
  | .paceParkReached _ => true
  | .paceResume _ => true
  | .ringEnable _ _ _ => true
  | .ringProdWrite _ _ _ => true
  | .ringDescFetch _ ws _ => ws.length == 8
  | .ringDeliverRecord _ ue _ => wfUe ue
  | .ringIdleFlush _ _ => true
  | .ringConfWrite _ _ _ => true
  | .ringResendRequest _ _ _ => true
  | .cqEnable _ _ _ => true
  | .cqHeadWrite _ _ _ => true
  | .msixModerationTimer _ _ => true
  | .linkPowerStateChange _ _ _ _ _ => true
  | .funcPowerStateChange _ _ _ => true
  | .pcieLinkReset _ => true
  | .pcieAerError _ _ => true
  | .h2dGo _ _ => true
  | .h2dDone _ _ => true
  | .d2hGo _ _ => true
  | .d2hDone _ _ => true
  | .d2hTimeout _ _ => true
  | .mbxEventW1c _ _ => true
  | .hostDbWrite _ _ => true
  | .mbiGo _ _ _ => true
  | .mbiDone _ _ _ => true
  | .mbiTimeout _ _ => true
  | .mbiEventW1c _ _ _ _ => true
  | .mbxRouteWrite _ _ _ => true
  | .ping c => wfCmd c
  | .sessionOpen c => wfCmd c
  | .sessionClose c => wfCmd c
  | .devInfo c => wfCmd c
  | .objRead c => wfCmd c
  | .objWrite c => wfCmd c
  | .objInfo c => wfCmd c
  | .modeSet c => wfCmd c
  | .calLamp c mv => wfCmd c && mv.length ≤ 128 && mv.all (· < 65536)
  | .calDelay c delays => wfCmd c && delays.length ≤ 4
  | .moveAppend c => wfCmd c
  | .moveReplace c => wfCmd c
  | .axisStop c => wfCmd c
  | .moveLinear c => wfCmd c
  | .lampForce c => wfCmd c
  | .lampSpare c mv => wfCmd c && mv < 65536
  | .fabDiscover c up nb => wfCmd c && up < 16 && noRepeat (nb.map (·.1)) && nb.all (fun x => x.2.2.1 < 4096)
  | .groupJoin c => wfCmd c
  | .groupLeave c => wfCmd c
  | .imageLoad c _ => wfCmd c
  | .imageActivate c => wfCmd c
  | .domainReset c => wfCmd c
  | .keyProvision c => wfCmd c
  | .extCmd c _ _ detail res => wfCmd c && detail < 2 ^ 32 && res.length ≤ 13
  | .auxRead c => wfCmd c
  | .faultList c => wfCmd c
  | .shuGenUpdate _ => true
  | .limitInput _ _ _ => true
  | .stepInputEdge _ _ _ => true
  | .holdCurrentReduce _ _ => true
  | .shuPosWrite c => wfCmd c
  | .stageOvercurrent _ _ => true
  | .stageOvertempWarn _ _ => true
  | .stageOvertemp _ _ => true
  | .stageVinLow _ => true
  | .stageOpenCoil _ _ => true
  | .extDriverFault _ _ => true
  | .lampBlankEnd _ _ => true
  | .lampModPeriod _ _ => true
  | .lampVoltageRead _ _ mv _ => mv < 65536
  | .ilmTempRead _ _ => true
  | .ilmTempLost _ _ => true
  | .lampHeadroomFault _ vled _ => vled < 65536
  | .lampForceEnd _ _ => true
  | .ilmChainWrite c => wfCmd c
  | .chainShiftDone ret _ => ret.length ≤ 144
  | .auxWord _ _ _ _ _ _ => true
  | .auxArbitration _ _ _ => true
  | .auxStale _ _ => true
  | .amonStale _ _ => true
  | .auxReadTimeout _ => true
  | .icArrival _ _ => true
  | .icClaim _ _ => true
  | .icComplete _ _ _ => true
  | .icCfgWrite _ _ _ _ => true
  | .icGctlWrite _ _ _ => true
  | .taprootInput _ _ _ => true
  | .tapEventW1c _ _ => true
  | .tapTimerExpiry _ => true
  | .sleepCommit _ => true
  | .sleepWake _ => true
  | .krmDataBlock h _ ws _ _ _ => h.pay.isEmpty && wfHdr { h with pay := ws }
  | .krmAckBlock h _ _ => wfHdr h
  | .krmNakBlock h _ _ => wfHdr h
  | .krmCreditBlock h _ n _ => wfHdr h && n < 65536
  | .krmTimeBlock h _ path _ => wfHdr h && path < 2 ^ 64
  | .krmLineBlock h b _ => wfHdr h && wfLine b
  | .krmPaceBlock h vd _ _ _ => wfHdr h && vd < 2 ^ 64
  | .krmDiscBlock h _ addr port _ _ => wfHdr h && addr < 4096 && port < 4
  | .krmConfirmBlock h k _ _ => wfHdr h && k < 2 ^ 64
  | .krmGroupBlock h m _ => wfHdr h && match m with | .join uid tile group => uid < 2 ^ 64 && tile < 64 && group < 256 | .answer st d => st < 256 && d < 2 ^ 32 | .members l _ => noRepeat (l.map (·.addr)) | _ => true
  | .stitchTileTimeout _ => true
  | .krmLaneFail _ _ _ => true
  | .krmReplayTimeout _ _ => true
  | .krmAckTimer _ _ => true
  | .krmSignalDetect _ _ => true
  | .krmHeartbeat _ => true
  | .krmMemberSilent _ _ => true
  | .krmTimeExchange t1 t2 t3 t4 => t1 ≤ t4 && t2 ≤ t3
  | .krmTimeLockLost _ => true
  | .krmMasterLost _ => true
  | .groupJoinTimeout _ => true
  | .powerOnRelease  => true
  | .vinWarn _ => true
  | .vinPorFall  => true
  | .vinRestored _ => true
  | .sysReset  => true
  | .pwrMonitorTick vin temp _ => vin < 65536 && wfTemp temp
  | .bootEnd map _ => map.length ≤ 65536
  | .calibrateEnd delays mv _ => delays.length ≤ 4 && mv.length ≤ 128 && mv.all (· < 65536)
  | .safeEntryDone _ => true
  | .readyEntryDone _ => true
  | .domainResetDone _ _ => true
  | .coreReady _ => true
  | .liveUpdateTimeout _ => true
  | .imageLoadDone _ _ => true
  | .keyProvisionDone _ => true
  | .debugAttach _ => true
  | .debugResponse _ _ _ => true
  | .jtagInstruction ir _ _ => ir < 65536
  | .registerWrite who _ v wide _ => (wide || v.all fun w => w.toNat < 2 ^ 32) && (who.isNone || !wide)
  | .stbClkEdge _ => true
  | .bankSupplyReturn _ _ _ => true
  | .refRestored _ => true
  | .krmLinkUp _ _ => true
  | .sysResetRelease  => true
  | .icLevelDeassert _ _ => true
  | .limitInputRelease _ _ _ => true
  | .extDriverFaultRelease _ _ => true
  | .shuTempMeasure _ temp _ => wfTemp temp
  | .stagePwmPeriod _ vin cur _ => vin < 65536 && cur < 65536

end Sys2Proof
end

