-- ==== Sys2Proof/Certificates/Slice0/Obligations.lean ====
section
/-! DEFINITION. The statements about the model, each one a proposition. -/

open Sys2Proof Sys2Proof.Machine

/-- For every command c and state s, a step of s with c at the front of its queue is exec of c on s with the rest of the queue; a step on an empty queue
leaves the state as it is. That the queue is first in, first out and that the block idles on an empty one are the model's choices (assumption log
2). For every command and every state, exec answers a next state with the same waiting commands: there is no command on which the block stops. A
command that cannot arise in a state changes nothing (the model's choice, assumption log 5). -/
def Obligations.StepTakesFront : Prop :=
  (∀ (s : State) (c : Instr) (q : List Instr), step { s with pending := c :: q } = exec c { s with pending := q }) ∧
  (∀ (s : State), s.pending = [] → step s = .next s) ∧
  (∀ (i : Instr) (s : State), ∃ t, exec i s = .next t ∧ t.pending = s.pending)

/-- For every state s, not only those that runs reach: if a step answers next t, the mode of t is that of s or one that Table 20.4 allows from it. No
command, whoever sends it and whatever its operands, makes another change of mode. -/
def Obligations.ModeFollowsTable : Prop :=
  ∀ (s t : State), step s = .next t → t.dev.pwr.mode = s.dev.pwr.mode ∨ legalMove s.dev.pwr.mode t.dev.pwr.mode = true

/-- For every state whose record of host memory is in canonical form (addresses strictly rising, no byte listed that holds the value of an unlisted
one): if a step answers next t, the record of t is in canonical form, so that equal memories are equal data. That an unlisted byte reads 0 is the
model's choice (assumption log 10). -/
def Obligations.HostMemoryCanonical : Prop :=
  ∀ (s t : State), hostMemOk s ∧ step s = .next t → hostMemOk t

/-- For every state s: if a step answers next t, every bit of the key hashes and of CUST_AES that is programmed in s is programmed in t, CUST_PROV and
DBG_PERM_LOCK stay set once they are set, and no count of SVN_FUSE goes down; resets, cuts of power and live updates included. If the map is locked
in s and a step answers next t, the map is locked in t, or t is in RESET, BOOT or SLEEP; so no command of READY, SCAN, HOLD, CALIBRATE or SAFE opens
it. -/
def Obligations.SecurityInvariants : Prop :=
  (∀ (s t : State), step s = .next t → fusesKept s.dev t.dev) ∧
  (∀ (s t : State), s.dev.sec.mapLocked = true ∧ step s = .next t → t.dev.sec.mapLocked = true ∨ t.dev.pwr.mode = .reset ∨ t.dev.pwr.mode = .boot ∨ t.dev.pwr.mode = .sleep)

/-- A command that is none of those that mayWriteHost names (deliveries and completion entries, messages, reads with a buffer, and what lets waiting
entries and messages go) leaves every byte of host memory as it was, in every state. A command that is none of those that mayChangeSecurity names
leaves the slots, the fuses, the lock of the map, the debug scopes, VIOLATIONS and all other state of security as they were, in every state. -/
def Obligations.WholeFamiliesLeaveAlone : Prop :=
  (∀ (i : Instr) (s t : State), mayWriteHost i = false ∧ exec i s = .next t → t.dev.hostMem = s.dev.hostMem) ∧
  (∀ (i : Instr) (s t : State), mayChangeSecurity i = false ∧ exec i s = .next t → t.dev.sec = s.dev.sec)

/-- State.reset is in RESET with no command waiting; no session is open, no tag outstanding and no event held; no line is in progress and none on its
way; every Meoner object holds its reset words; the interrupt controller delivers nothing and no source is pending; Taproot watches input 0 with
every SENSE at 1; MBX_TMO is 1000 and internal mailbox 8 leads from core 0 to core 3 (Table 13.8); no stream ring and no completion queue is
enabled; the axes have no move and their bridges are off. Where the spec gives no value it is the model's (assumption log 6, 67). State.reset lists
no byte of host memory, so its record is in canonical form, and every address reads 0 (assumption log 10). -/
def Obligations.ResetState : Prop :=
  (State.reset.pending = [] ∧ State.reset.dev.pwr.mode = .reset ∧ State.reset.dev.mnr.open_ = false ∧ State.reset.dev.mnr.tags = [] ∧ State.reset.dev.mnr.events = [] ∧ State.reset.dev.spn.line = none ∧ State.reset.dev.lines = [] ∧ State.reset.dev.objs = [] ∧ State.reset.dev.ic.deliver = false ∧ (∀ n, (State.reset.dev.ic.src n).pending = false) ∧ State.reset.dev.tap.watch = 1 ∧ (∀ i, i < 32 → tapSense i State.reset.dev = 1) ∧ State.reset.dev.mbx.mbxTmo = 1000 ∧ (mbiAt 8 State.reset.dev).sender = 0 ∧ (mbiAt 8 State.reset.dev).receiver = 3 ∧ State.reset.dev.hs.ring.all (fun r => !r.en) = true ∧ State.reset.dev.hs.cq.all (fun q => !q.en) = true ∧ State.reset.dev.shu.ax.all (fun a => a.q.isEmpty && !a.bridge) = true) ∧
  (hostMemOk State.reset ∧ ∀ a, Memory.read State.reset.dev.hostMem a = 0)

/-- The source that a claim of a target returns is offered to that target (R420), no offered source has a higher PRIO, and among those of its PRIO it
has the lowest ID (R421); and a claim returns none only when no source is offered. The premise is the canonical form of the controller's table of
source states, which every write of a sparse map keeps. -/
def Obligations.ClaimTakesBestOffered : Prop :=
  (∀ (c : Ic) (e n : Nat), Sparse.wf {} c.st = true → c.best e = some n → c.offered e n = true ∧ ∀ m, c.offered e m = true → c.prio m < c.prio n ∨ (c.prio m = c.prio n ∧ n ≤ m)) ∧
  (∀ (c : Ic) (e : Nat), c.best e = none → ∀ m, c.offered e m = false)

/-- Where endpoint e executes, IC_CLAIM with an offered source n makes n ACTIVE for e, clears its PENDING and ARRIVALS, and returns n with its ARRIVALS
in [19:16]; with none offered it returns 1023 if the output of e was asserted in the cycle before, else 0. IC_COMPLETE of a source that is ACTIVE
with CLAIMANT e releases it; any other write counts in BAD_COMPLETE. Nothing but the controller changes, save that what an earlier read of IC_CLAIM
by e returned stands from then on. Two events of one cycle of 750 MHz act in the order of R424, from what stood before the cycle. Rows: icClaim,
icComplete. -/
def Obligations.InterruptClaimComplete : Prop :=
  (∀ (s : State) (e : Fin 5) (t n : Nat), endpointRuns e.val s.dev = true → s.dev.ic.best e.val = some n → newCycle t s.dev → exec (.icClaim e t) s = .next { s with dev := (freshCycle t (.claim e.val) (claimStands e.val s.dev)).uIc fun c => { c.setSrc n { c.src n with active := true, claimant := e.val, arrivals := 0, pending := false } with lastClaim := put c.lastClaim e.val (n + 65536 * (c.src n).arrivals) } }) ∧
  (∀ (s : State) (e : Fin 5) (t : Nat), endpointRuns e.val s.dev = true → s.dev.ic.best e.val = none → newCycle t s.dev → exec (.icClaim e t) s = .next { s with dev := (freshCycle t (.claim e.val) (claimStands e.val s.dev)).uIc fun c => { c with lastClaim := put c.lastClaim e.val (if bit s.dev.ic.outputs e.val then 1023 else 0) } }) ∧
  (∀ (s : State) (e : Fin 5) (n : Fin 1024) (t : Nat), endpointRuns e.val s.dev = true → 1 ≤ n.val ∧ n.val < 512 ∧ (s.dev.ic.src n.val).active = true ∧ (s.dev.ic.src n.val).claimant = e.val → newCycle t s.dev → exec (.icComplete e n t) s = .next { s with dev := (freshCycle t (.complete e.val n.val) s.dev).uIc fun c => c.setSrc n.val { c.src n.val with active := false, pending := if c.sense n.val = 0 then (c.src n.val).input else (c.src n.val).pending } }) ∧
  (∀ (s : State) (e : Fin 5) (n : Fin 1024) (t : Nat), endpointRuns e.val s.dev = true → ¬(1 ≤ n.val ∧ n.val < 512 ∧ (s.dev.ic.src n.val).active = true ∧ (s.dev.ic.src n.val).claimant = e.val) → newCycle t s.dev → exec (.icComplete e n t) s = .next { s with dev := (freshCycle t (.complete e.val n.val) s.dev).uIc fun c => { c with badComplete := sat16 c.badComplete } }) ∧
  (∀ (c : Ic) (n m : Nat) (e f : IcEv), cycle750 n = cycle750 m ∧ (cycle750 c.evAt ≠ cycle750 n ∨ c.evs = []) → (c.cycle n e).cycle m f = c.replay c.snap m (if e.rank ≤ f.rank then [e, f] else [f, e]))

/-- Where endpoint e executes, a write of IC_CFG[n] by an endpoint that holds source n stores the word's defined bits [4:0], [9:8], [14:12] and [16] in
IC_CFG[n] (n of 1 to 511); by core 3 without the grant it changes no configuration word and is a violation. A write of IC_GCTL by Distaff sets
DELIVER and SLP_KIND; by cores 0 to 2 it is ignored. No PENDING, ACTIVE or ARRIVALS changes where SENSE stays. For a source that a block drives (not
Taproot's 1 to 26 nor the mailboxes' 32 to 57), of SENSE 0 or 1 and input low, IC_ARRIVAL raises the input, counts one in ARRIVALS up to 15 and sets
PENDING (for a level source that is ACTIVE, PENDING stays 0); IC_LEVEL_DEASSERT lowers the input, and a level source is no longer PENDING; for a
source of 1 to 26 it is its Taproot input going low, and for a reserved source or one that follows the mailboxes (27 to 39, 48 to 57) it changes
nothing; for one of 40 to 47 it also takes back the acknowledgement. An interrupt that a chapter does not define never asserts. Nothing else
changes. Rows: icCfgWrite, icGctlWrite, icArrival, icLevelDeassert, taprootInput. -/
def Obligations.InterruptConfigurationAndInputs : Prop :=
  (∀ (s : State) (e : Fin 5) (n : Fin 512) (v : Word) (t : Nat), endpointRuns e.val s.dev = true → n.val ≠ 0 ∧ icGranted e.val n.val (secMap Obj.SEC_MAP.EXT_IRQ s.dev) = true ∧ bits (v.toNat &&& 0x1731F) 9 8 = s.dev.ic.sense n.val → newCycle t s.dev → exec (.icCfgWrite e n v t) s = .next { s with dev := (freshCycle t (.cfg n.val v.toNat) s.dev).uIc fun c => { c with cfg := Sparse.set 0 c.cfg n.val (v.toNat &&& 0x1731F) } }) ∧
  (∀ (s : State) (n : Fin 512) (v : Word) (t : Nat), endpointRuns 3 s.dev = true → icGranted 3 n.val (secMap Obj.SEC_MAP.EXT_IRQ s.dev) = false → newCycle t s.dev → ∃ d, exec (.icCfgWrite 3 n v t) s = .next { s with dev := d } ∧ d.ic.cfg = s.dev.ic.cfg ∧ d.sec.violations = sat16 s.dev.sec.violations) ∧
  (∀ (s : State) (v : Word) (t : Nat), endpointRuns 4 s.dev = true → s.dev.ic.fromTap = false → newCycle t s.dev → exec (.icGctlWrite 4 v t) s = .next { s with dev := (freshCycle t (.gctl v.toNat s.dev.tap.event) s.dev).uIc fun c => { c with deliver := bit v.toNat 0, slpKind := bit v.toNat 1 } }) ∧
  (∀ (s : State) (e : Fin 5) (v : Word) (t : Nat), endpointRuns e.val s.dev = true → e.val < 3 → exec (.icGctlWrite e v t) s = .next { s with dev := (s.dev.at_ t) }) ∧
  (∀ (s : State) (n : Fin 512) (t : Nat), s.dev.tap.phase = .awake → powered s.dev = true ∧ s.dev.pwr.mode ≠ .sleep → 57 < n.val ∧ definedSource n.val = true ∧ s.dev.ic.sense n.val ≤ 1 ∧ (s.dev.ic.src n.val).input = false → newCycle t s.dev → exec (.icArrival n t) s = .next { s with dev := (freshCycle t (.input n.val true) s.dev).uIc fun c => c.setSrc n.val { c.src n.val with input := true, arrivals := min 15 ((c.src n.val).arrivals + 1), pending := if c.sense n.val = 0 then !(c.src n.val).active else true } }) ∧
  (∀ (s : State) (n : Fin 512) (t : Nat), s.dev.tap.phase ≠ .saving → powered s.dev = true → 57 < n.val ∧ definedSource n.val = false → exec (.icArrival n t) s = .next { s with dev := (s.dev.at_ t) }) ∧
  (∀ (s : State) (n : Fin 512) (t : Nat), powered s.dev = true ∧ s.dev.tap.phase = .awake → 57 < n.val ∧ s.dev.ic.sense n.val ≤ 1 → newCycle t s.dev → exec (.icLevelDeassert n t) s = .next { s with dev := (freshCycle t (.input n.val false) s.dev).uIc fun c => c.setSrc n.val { c.src n.val with input := false, pending := if c.sense n.val = 0 then false else (c.src n.val).pending } }) ∧
  (∀ (s : State) (n : Fin 512) (i : Fin 32) (t : Nat), powered s.dev = true ∧ s.dev.tap.phase ≠ .saving → n.val = i.val ∧ 1 ≤ i.val ∧ i.val ≤ 26 → exec (.icLevelDeassert n t) s = exec (.taprootInput i false t) s) ∧
  (∀ (s : State) (n : Fin 512) (t : Nat), powered s.dev = true ∧ s.dev.tap.phase = .awake → 40 ≤ n.val ∧ n.val ≤ 47 → exec (.icLevelDeassert n t) s = .next { s with dev := icDo (.input n.val false) ((s.dev.at_ t).uMbx fun m => { m with d2hAck := setBit m.d2hAck (n.val - 40) false }) }) ∧
  (∀ (s : State) (n : Fin 512) (t : Nat), powered s.dev = true → n.val = 0 ∨ (27 ≤ n.val ∧ n.val < 40) ∨ (48 ≤ n.val ∧ n.val ≤ 57) → exec (.icLevelDeassert n t) s = .next { s with dev := (s.dev.at_ t) })

/-- In Taproot-only SLEEP with Taproot armed, a rising edge of an input i of 1 to 26 that is low, watched, of SENSE 1 and has not fired sets its EVENT
bit, and for the first input to fire FIRST and its time; inputs 27 to 31 are reserved and change nothing; where Taproot is not armed and the
controller is on, an input change moves that source's input in the controller only. TAP_EVENT_W1C clears the bits written with 1. The timer's expiry
clears TAP_TIMER and makes input 22 go high and low. Nothing else changes. A save that ends in READY with no wake source pending takes the device to
SLEEP, with its security state and host memory as they were; with one pending, the device stays in READY and SLP_RESULT reads 2. A wake source that
is pending after the commit point of a retention sleep takes it back to READY; an event latched in Taproot-only SLEEP takes it to BOOT. Rows:
taprootInput, tapEventW1c, tapTimerExpiry, sleepCommit, sleepWake. -/
def Obligations.TaprootAndSleep : Prop :=
  (∀ (s : State) (i : Fin 32) (t : Nat), s.dev.tap.phase ≠ .saving → tapOnly s.dev = true → i.val ≠ 0 ∧ i.val < 27 ∧ s.dev.tap.armed = true ∧ bit s.dev.tap.watch i.val = true ∧ bit s.dev.tap.event i.val = false ∧ bit s.dev.tap.input i.val = false ∧ tapSense i.val s.dev = 1 → exec (.taprootInput i true t) s = .next { s with dev := (s.dev.at_ t).uTap fun x => { x with input := setBit x.input i.val true, event := setBit x.event i.val true, fired := true, first := if x.fired then x.first else i.val, firstTime := if x.fired then x.firstTime else (s.dev.at_ t).ns } }) ∧
  (∀ (s : State) (i : Fin 32) (v : Bool) (t : Nat), s.dev.tap.phase = .awake → s.dev.pwr.mode ≠ .reset → i.val ≠ 0 ∧ i.val < 27 ∧ tapOnly s.dev = false ∧ s.dev.tap.armed = false → newCycle t s.dev → exec (.taprootInput i v t) s = .next { s with dev := (freshCycle t (.input i.val v) (s.dev.uTap fun x => { x with input := setBit x.input i.val v })).uIc fun c => c.setInput i.val v }) ∧
  (∀ (s : State) (i : Fin 32) (v : Bool) (t : Nat), s.dev.tap.phase ≠ .saving ∧ s.dev.pwr.mode ≠ .reset ∧ 27 ≤ i.val → exec (.taprootInput i v t) s = .next { s with dev := s.dev.at_ t }) ∧
  (∀ (s : State) (v : Word) (t : Nat), endpointRuns 4 s.dev = true → exec (.tapEventW1c v t) s = .next { s with dev := (s.dev.at_ t).uTap fun x => { x with event := x.event - (x.event &&& v.toNat) } }) ∧
  (∀ (s : State) (t : Nat), s.dev.tap.phase ≠ .saving → s.dev.pwr.mode ≠ .reset → s.dev.tap.timer ≠ 0 → exec (.tapTimerExpiry t) s = .next { s with dev := taprootInput 22 false (taprootInput 22 true ((s.dev.at_ t).uTap fun x => { x with timer := 0 })) }) ∧
  (∀ (s : State) (t : Nat), s.dev.pwr.mode = .ready ∧ s.dev.tap.phase = .saving ∧ wakePending s.dev = false → ∃ d, exec (.sleepCommit t) s = .next { s with dev := d } ∧ d.pwr.mode = .sleep ∧ d.hostMem = s.dev.hostMem) ∧
  (∀ (s : State) (t : Nat), s.dev.pwr.mode = .ready ∧ s.dev.tap.phase = .saving ∧ wakePending s.dev = true → ∃ d, exec (.sleepCommit t) s = .next { s with dev := d } ∧ d.pwr.mode = .ready ∧ d.ic.slpResult = 2 ∧ d.tap.phase = .awake ∧ d.tap.armed = false ∧ d.hostMem = s.dev.hostMem) ∧
  (∀ (s : State) (t : Nat), s.dev.pwr.mode = .sleep ∧ s.dev.tap.phase = .committed ∧ s.dev.ic.slpKind = false ∧ wakePending s.dev = true ∧ s.dev.pwr.linkResetDue = false → ∃ d, exec (.sleepWake t) s = .next { s with dev := d } ∧ d.pwr.mode = .ready ∧ d.hostMem = s.dev.hostMem) ∧
  (∀ (s : State) (t : Nat), s.dev.pwr.mode = .sleep ∧ s.dev.tap.phase = .committed ∧ s.dev.ic.slpKind = true ∧ s.dev.tap.event &&& s.dev.tap.watch ≠ 0 → ∃ d, exec (.sleepWake t) s = .next { s with dev := d } ∧ d.pwr.mode = .boot ∧ d.hostMem = s.dev.hostMem)

/-- Where the host reaches the device and no other action of the instant meets the mailbox, H2D_GO of an empty mailbox m sets POSTED and latches the
host's epoch in POST_EPOCH, its words unchanged, and the level sources of the mailboxes follow; of a posted mailbox, or of one that a DONE empties
at the same instant, it changes nothing but OVERRUN and its count (Table 13.6). D2H_DONE of a posted mailbox clears POSTED and TIMEOUT and raises
the posting core's acknowledgement; of one that is not posted it changes nothing. Rows: h2dGo, d2hDone. -/
def Obligations.HostMailboxPost : Prop :=
  (∀ (s : State) (m : Fin 8) (t : Nat), powered s.dev = true ∧ hostReach s.dev = true → (h2dAt m.val s.dev).posted = false ∧ (h2dAt m.val s.dev).doneAt ≠ some (max s.dev.now t) ∧ noReset (max s.dev.now t) s.dev = true ∧ s.dev.tap.phase ≠ .saving → exec (.h2dGo m t) s = .next { s with dev := mbxLevels (updH2d m.val (fun x => { x with posted := true, tmo := false, tmoSpent := false, postEpoch := s.dev.hs.hostEpoch, goAt := max s.dev.now t, doneAt := none, lostAt := none, tmoAt := none }) (s.dev.at_ t)) }) ∧
  (∀ (s : State) (m : Fin 8) (t : Nat), powered s.dev = true ∧ hostReach s.dev = true → ((h2dAt m.val s.dev).posted = true ∨ (h2dAt m.val s.dev).doneAt = some (max s.dev.now t)) ∧ s.dev.tap.phase ≠ .saving → exec (.h2dGo m t) s = .next { s with dev := (updH2d m.val (fun x => { x with overrun := true }) (s.dev.at_ t)).uMbx fun x => { x with overrunCount := sat16 x.overrunCount } }) ∧
  (∀ (s : State) (m : Fin 8) (t : Nat), powered s.dev = true ∧ hostReach s.dev = true → (d2hAt m.val s.dev).posted = true ∧ (d2hAt m.val s.dev).quiet (max s.dev.now t) = true → exec (.d2hDone m t) s = .next { s with dev := mbxLevels ((updD2h m.val (fun x => { x with posted := false, tmo := false, doneAt := some (max s.dev.now t), tmoAt := none }) (s.dev.at_ t)).uMbx fun x => { x with d2hAck := setBit x.d2hAck m.val true }) }) ∧
  (∀ (s : State) (m : Fin 8) (t : Nat), powered s.dev = true ∧ hostReach s.dev = true → (d2hAt m.val s.dev).posted = false ∧ (d2hAt m.val s.dev).quiet (max s.dev.now t) = true → exec (.d2hDone m t) s = .next { s with dev := (s.dev.at_ t) })

/-- Where the receiver of a posted H2D mailbox executes, H2D_DONE clears POSTED, sets the mailbox's H2D_EMPTIED bit, and hands the command in its words
(OPCODE [15:0], TAG [25:16], LEN [29:26], [31:30], ARG, payload) with its POST_EPOCH to the firmware; the words stay. Commands are taken in the
order of their GO, the lower mailbox first where they were posted at one instant. A DONE on a mailbox that is not posted, or whose turn it is not,
is ignored. Rows: h2dDone. -/
def Obligations.CommandTaken : Prop :=
  (∀ (s : State) (m : Fin 8) (t : Nat), h2dTakes m.val t s.dev = true ∧ s.dev.pwr.mode ≠ .reset → (h2dAt m.val s.dev).posted = true ∧ (h2dAt m.val s.dev).receiver < 3 ∧ nextTaken m.val s.dev = true → exec (.h2dDone m t) s = .next { s with dev := commandOf m.val s.dev (mbxLevels (emptiedBit m.val (updH2d m.val (fun x => { x with posted := false, tmo := false, doneAt := some (max s.dev.now t), tmoAt := none }) (s.dev.at_ t)))) }) ∧
  (∀ (s : State) (m : Fin 8) (t : Nat), h2dTakes m.val t s.dev = true ∧ s.dev.pwr.mode ≠ .reset → ((h2dAt m.val s.dev).posted = false ∧ (h2dAt m.val s.dev).lostAt ≠ some (max s.dev.now t)) ∨ ((h2dAt m.val s.dev).posted = true ∧ (h2dAt m.val s.dev).receiver < 3 ∧ nextTaken m.val s.dev = false) → exec (.h2dDone m t) s = .next { s with dev := (s.dev.at_ t) })

/-- Where the core firmware runs, D2H_GO of an empty mailbox m posts the oldest completion that waits for m and takes it from the queue; with none and m
the session's EVENT_MBX, it posts the oldest event with the count of events lost since the last one, and clears that count; a post stores its words,
sets POSTED, clears TIMEOUT and latches MBX_TMO and the core's epoch. D2H_TIMEOUT of a post that has not timed out yet sets TIMEOUT, counts and
raises the core's acknowledgement, once. Rows: d2hGo, d2hTimeout. -/
def Obligations.DevicePosts : Prop :=
  (∀ (s : State) (m : Fin 8) (ws : List Word) (se : Option Nat) (rest : List (Nat × List Word × Option Nat)) (t : Nat), coresRun s.dev = true ∧ (d2hAt m.val s.dev).posted = false ∧ (d2hAt m.val s.dev).doneAt ≠ some (max s.dev.now t) → s.dev.mnr.out = (m.val, ws, se) :: rest → exec (.d2hGo m t) s = .next { s with dev := d2hPost m.val ws se ((s.dev.at_ t).uMnr fun x => { x with out := rest }) }) ∧
  (∀ (s : State) (m : Fin 8) (e : Evt) (rest : List Evt) (t : Nat), coresRun s.dev = true ∧ (d2hAt m.val s.dev).posted = false ∧ (d2hAt m.val s.dev).doneAt ≠ some (max s.dev.now t) → s.dev.mnr.out = [] ∧ s.dev.mnr.events = e :: rest ∧ s.dev.mnr.open_ = true ∧ s.dev.mnr.eventMbx = m.val → exec (.d2hGo m t) s = .next { s with dev := d2hPost m.val (eventWords e s.dev.mnr.lostSince) none ((s.dev.at_ t).uMnr fun x => { x with events := rest, lostSince := 0 }) }) ∧
  (∀ (s : State) (m : Fin 8) (t : Nat), powered s.dev = true → (d2hAt m.val s.dev).posted = true ∧ (d2hAt m.val s.dev).tmoSpent = false → exec (.d2hTimeout m t) s = .next { s with dev := mbxLevels ((updD2h m.val (fun x => { x with tmo := true, tmoSpent := true, tmoAt := some (max s.dev.now t, s.dev.mbx.tmoCount) }) ((s.dev.at_ t).uMbx fun x => { x with tmoCount := sat16 x.tmoCount })).uMbx fun x => { x with d2hAck := setBit x.d2hAck m.val true }) }) ∧
  (∀ (s : State) (m : Nat) (ws : List Word) (se : Option Nat), noReset s.dev.now s.dev = true → ∃ d, d2hPost m ws se s.dev = mbxLevels d ∧ d.mbx.d2h = upd s.dev.mbx.d2h m (fun x => { x with words := ws ++ x.words.drop ws.length, posted := true, tmo := false, tmoSpent := false, tmoLimit := s.dev.mbx.mbxTmo, postEpoch := epochOf (d2hAt m s.dev).sender s.dev, goAt := s.dev.now, doneAt := none, lostAt := none, tmoAt := none, sess := se }))

/-- Where endpoint e executes: MBI_GO of an empty internal mailbox by its SENDER sets POSTED, latches TMO_US and the sender's epoch and sets the
receiver's arrived bit, while by any other endpoint it changes nothing; MBI_DONE by the RECEIVER of a posted one clears POSTED and sets the sender's
emptied bit; a time-out sets TIMEOUT and the sender's bit 16 + i, once per post; MBI_EVENT_W1C clears the bits written with 1 of the endpoint's own
register. The level sources follow. Where the host reaches the device, MBX_EVENT_W1C clears the bits written with 1 of H2D_EMPTIED ([7:0]) and
D2H_ARRIVED ([15:8]), and HOST_DB_WRITE raises source 496 + i for each doorbell bit i that the map grants, ascending. Where endpoint e executes,
MBX_ROUTE_WRITE by Distaff moves the named end, by any other endpoint changes nothing. REGISTER_WRITE by core 3 to an address outside its two blocks
is ignored and counted; by the host it acts as a BAR0 write. A read by the host of an aligned word returns the word of Table 12.7, and a read of the
status of an H2D or an internal mailbox clears its DISCARDED and OVERRUN (access RC). That a read is an access of the row REGISTER_WRITE is the
model's choice (assumption log 7). Rows: mbiGo, mbiDone, mbiTimeout, mbiEventW1c, mbxEventW1c, hostDbWrite, mbxRouteWrite, registerWrite, h2dGo. -/
def Obligations.InternalMailboxesAndRegisters : Prop :=
  (∀ (s : State) (i : Fin 16) (e : Fin 5) (t : Nat), endpointRuns e.val s.dev = true → (mbiAt i.val s.dev).sender = e.val ∧ (mbiAt i.val s.dev).posted = false ∧ (mbiAt i.val s.dev).doneAt ≠ some (max s.dev.now t) ∧ noReset (max s.dev.now t) s.dev = true ∧ s.dev.tap.phase ≠ .saving → exec (.mbiGo i e t) s = .next { s with dev := mbxLevels (mbiArrive (mbiAt i.val s.dev).receiver i.val (updMbi i.val (fun x => { x with posted := true, tmo := false, tmoSpent := false, tmoLimit := x.tmoUs, postEpoch := epochOf e.val (s.dev.at_ t), goAt := max s.dev.now t, doneAt := none, lostAt := none, tmoAt := none }) (s.dev.at_ t))) }) ∧
  (∀ (s : State) (i : Fin 16) (e : Fin 5) (t : Nat), endpointRuns e.val s.dev = true → (mbiAt i.val s.dev).sender ≠ e.val ∧ s.dev.tap.phase ≠ .saving → exec (.mbiGo i e t) s = .next { s with dev := s.dev.at_ t }) ∧
  (∀ (s : State) (i : Fin 16) (e : Fin 5) (t : Nat), endpointRuns e.val s.dev = true → (mbiAt i.val s.dev).receiver = e.val ∧ (mbiAt i.val s.dev).posted = true ∧ (mbiAt i.val s.dev).quiet (max s.dev.now t) = true → exec (.mbiDone i e t) s = .next { s with dev := mbxLevels (mbiEmpty (mbiAt i.val s.dev).sender i.val (updMbi i.val (fun x => { x with posted := false, tmo := false, doneAt := some (max s.dev.now t), tmoAt := none }) (s.dev.at_ t))) }) ∧
  (∀ (s : State) (i : Fin 16) (t : Nat), powered s.dev = true → (mbiAt i.val s.dev).posted = true ∧ (mbiAt i.val s.dev).tmoSpent = false → exec (.mbiTimeout i t) s = .next { s with dev := mbxLevels (mbiEmpty (mbiAt i.val s.dev).sender (16 + i.val) (updMbi i.val (fun x => { x with tmo := true, tmoSpent := true, tmoAt := some (max s.dev.now t, 0) }) (s.dev.at_ t))) }) ∧
  (∀ (s : State) (e : Fin 5) (v : Word) (t : Nat), endpointRuns e.val s.dev = true ∧ s.dev.mbx.fresh.1 ≠ max s.dev.now t → exec (.mbiEventW1c e true v t) s = .next { s with dev := mbxLevels ((s.dev.at_ t).uMbx fun x => { x with mbiEmptied := upd x.mbiEmptied e.val fun y => y - (y &&& v.toNat) }) } ∧ exec (.mbiEventW1c e false v t) s = .next { s with dev := mbxLevels ((s.dev.at_ t).uMbx fun x => { x with mbiArrived := upd x.mbiArrived e.val fun y => y - (y &&& (v.toNat % 65536)) }) }) ∧
  (∀ (s : State) (v : Word) (t : Nat), powered s.dev = true ∧ hostReach s.dev = true ∧ s.dev.mbx.fresh.1 ≠ max s.dev.now t → exec (.mbxEventW1c v t) s = .next { s with dev := (s.dev.at_ t).uMbx fun x => { x with h2dEmptied := x.h2dEmptied - (x.h2dEmptied &&& bits v.toNat 7 0), d2hArrived := x.d2hArrived - (x.d2hArrived &&& bits v.toNat 15 8) } }) ∧
  (∀ (s : State) (v : Fin 65536) (t : Nat), powered s.dev = true ∧ hostReach s.dev = true → exec (.hostDbWrite v t) s = .next { s with dev := (maskIx (v.val &&& secMap Obj.SEC_MAP.HOST_DB s.dev) 16).foldl (fun d i => raise (496 + i) d) (s.dev.at_ t) }) ∧
  (∀ (s : State) (v : Word) (t : Nat), endpointRuns 4 s.dev = true → bits v.toNat 4 0 < 8 ∧ bits v.toNat 10 8 < 5 ∧ (h2dAt (bits v.toNat 4 0) s.dev).lostAt ≠ some (max s.dev.now t) → exec (.mbxRouteWrite 4 v t) s = .next { s with dev := mbxLevels (updH2d (bits v.toNat 4 0) (fun x => { x with receiver := bits v.toNat 10 8 }) (s.dev.at_ t)) }) ∧
  (∀ (s : State) (e : Fin 5) (v : Word) (t : Nat), endpointRuns e.val s.dev = true ∧ e.val ≠ 4 → exec (.mbxRouteWrite e v t) s = .next { s with dev := s.dev.at_ t }) ∧
  (∀ (s : State) (addr : Word) (v : BitVec 64) (t : Nat), endpointRuns 3 s.dev = true → addr.toNat % 4 = 0 ∧ (addr.toNat < 0x08000000 ∨ 0x09002000 ≤ addr.toNat) ∧ s.dev.tap.phase ≠ .saving → exec (.registerWrite (some 3) addr (some v) false t) s = .next { s with dev := secViolation (s.dev.at_ t) }) ∧
  (∀ (s : State) (off : Word) (t : Nat), powered s.dev = true ∧ hostReach s.dev = true → off.toNat = 0x40 → exec (.registerWrite none off (some 1) false t) s = exec (.h2dGo 0 t) s) ∧
  (∀ (s : State) (off : Word) (t : Nat), powered s.dev = true ∧ hostReach s.dev = true ∧ s.dev.tap.phase ≠ .saving → off.toNat % 4 = 0 ∧ (0x800 ≤ off.toNat ∨ off.toNat % 256 ≠ 0x44) → exec (.registerWrite none off none false t) s = .next { s with dev := (s.dev.at_ t).uHs fun h => { h with readData := [BitVec.ofNat 32 (bar0Reg off.toNat (s.dev.at_ t))], claimRead := none } }) ∧
  (∀ (s : State) (m : Fin 8) (off : Word) (t : Nat), powered s.dev = true ∧ hostReach s.dev = true ∧ s.dev.tap.phase ≠ .saving → off.toNat = 256 * m.val + 0x44 → exec (.registerWrite none off none false t) s = .next { s with dev := (updH2d m.val (fun x => { x with discarded := false, overrun := false }) (s.dev.at_ t)).uHs fun h => { h with readData := [BitVec.ofNat 32 (h2dReg m.val 0x44 (s.dev.at_ t))], claimRead := none } }) ∧
  (∀ (s : State) (e : Fin 5) (i : Fin 16) (addr : Word) (t : Nat), endpointRuns e.val s.dev = true ∧ s.dev.tap.phase ≠ .saving → addr.toNat = 0x08000044 + 256 * i.val → exec (.registerWrite (some e) addr none false t) s = .next { s with dev := updMbi i.val (fun x => { x with discarded := false, overrun := false }) ((s.dev.at_ t).uHs fun h => { h with readData := [BitVec.ofNat 32 (mbiReg i.val 0x44 (s.dev.at_ t))], claimRead := none }) })

/-- Once the mailbox levels have been brought up to date, the input of every source 32 to 57 of the controller is the condition of Table 13.9: 32 + m
while H2D mailbox m is posted, 40 + m while the acknowledgement of D2H mailbox m stands, 48 + t while MBI_ARRIVED of t is not zero, 53 + t while
MBI_EMPTIED of t is not zero; and the mailboxes themselves do not change. -/
def Obligations.MailboxSourcesFollow : Prop :=
  ∀ (d : Dev), (∀ n, 32 ≤ n → n < 58 → ((mbxLevels d).ic.src n).input = mbxLevel n d) ∧ (mbxLevels d).mbx = d.mbx

/-- Posted with the present HOST_EPOCH, with W0[31:30] 0, a LEN other than 15, an opcode of Table 14.5 that the map grants, a free tag, an open session
(not needed by PING, SESSION_OPEN and DEV_INFO), nothing waiting to start and, for a barrier, every outstanding command answered with DEFERRED, a
command starts in each mode that accepts its opcode, and taking it does nothing but record its tag. That the row of a command posts, takes and
starts it at once is the model's choice (assumption log 9). -/
def Obligations.CommandStarts : Prop :=
  ∀ (s : State) (op : Nat) (c : MnrCmd), coresRun s.dev = true ∧ (opModes op).contains s.dev.pwr.mode = true → c.hi = 0 ∧ c.len ≠ 15 ∧ knownOpcode op = true ∧ opcodeGranted op s.dev = true → s.dev.mnr.open_ = true ∨ op = Op.PING ∨ op = Op.SESSION_OPEN ∨ op = Op.DEV_INFO → s.dev.mnr.tags.any (fun r => r.who.tag == c.tag.val) = false → s.dev.mnr.taken = [] ∧ (isBarrier op = true → s.dev.mnr.tags.all (fun r => r.deferred) = true) → Starts op c s.dev (takenOf op c s.dev) ∧ begun op c s.dev = (cmdAt c s.dev).uMnr fun x => { x with tags := x.tags ++ [{ who := (takenOf op c s.dev).who }] }

/-- A Meoner command that begins in a mode in which Table 14.5 does not accept its opcode completes with WRONG_MODE and has no other effect, whatever
its body. -/
def Obligations.CommandAnsweredAtOnce : Prop :=
  ∀ (op : Nat) (c : MnrCmd) (t : Taken) (body : Taken → Dev → Dev) (d : Dev), (beginCommand op c (cmdAt c d)).2 = some t → (opModes op).contains (begun op c d).pwr.mode = false → command op c body d = finish t.who St.WRONG_MODE 0 [] (begun op c d)

/-- A command posted in an earlier HOST_EPOCH is recorded as DISCARDED and not executed; one whose tag is outstanding is answered at once with BUSY and
DUP_TAG, and counted; otherwise LEN = 15 or W0[31:30] other than 0 gives BAD_FIELD, an opcode outside Table 14.5 BAD_OPCODE, and one not granted or
without a session DENIED, each under its tag, which is free again. -/
def Obligations.CommandRejections : Prop :=
  (∀ (m hi tag op len arg pe : Nat) (pay : List Word) (d : Dev), pe ≠ d.hs.hostEpoch → takeCommand m hi tag op len arg pay pe d = d.uMnr fun x => { x with log := Sparse.set 0xFF x.log tag St.DISCARDED }) ∧
  (∀ (m hi tag op len arg : Nat) (pay : List Word) (d : Dev), d.mnr.tags.any (fun r => r.who.tag == tag) = true → takeCommand m hi tag op len arg pay d.hs.hostEpoch d = pushOut m [BitVec.ofNat 32 (op + 65536 * tag + 67108864), 0, BitVec.ofNat 32 (St.BUSY + 256)] (d.uMnr fun x => { x with dupTags := min 65535 (x.dupTags + 1) })) ∧
  (∀ (m hi tag op len arg : Nat) (pay : List Word) (d : Dev), d.mnr.tags.any (fun r => r.who.tag == tag) = false → len = 15 ∨ hi ≠ 0 ∨ knownOpcode op = false ∨ opcodeGranted op d = false ∨ (d.mnr.open_ = false ∧ op ≠ Op.PING ∧ op ≠ Op.SESSION_OPEN ∧ op ≠ Op.DEV_INFO) → takeCommand m hi tag op len arg pay d.hs.hostEpoch d = d.uMnr fun x => { x with out := x.out ++ [(m, [BitVec.ofNat 32 (op + 65536 * tag + 67108864), 0, BitVec.ofNat 32 (if len = 15 ∨ hi ≠ 0 then St.BAD_FIELD else if knownOpcode op = false then St.BAD_OPCODE else St.DENIED)], if x.open_ then some x.sess else none)] })

/-- A command of the session that is in force ends by one completion for the mailbox that carried it, behind those that wait, with the layout of Table
14.2, and its tag is no longer outstanding; one of the session that the log is about records its status in MNR_LOG under its tag, and sends nothing.
DEFERRED keeps the tag. -/
def Obligations.CompletionAndLog : Prop :=
  (∀ (w : Who) (st x : Nat) (res : List Word) (d : Dev), w.sess = d.mnr.sess → finish w st x res d = d.uMnr fun m => { m with out := m.out ++ [(w.mbx, [BitVec.ofNat 32 (w.op + 65536 * w.tag + 67108864 * (1 + res.length)), BitVec.ofNat 32 x, BitVec.ofNat 32 st] ++ res, if m.open_ then some m.sess else none)], tags := m.tags.filter fun r => r.who != w }) ∧
  (∀ (w : Who) (st x : Nat) (res : List Word) (d : Dev), w.sess ≠ d.mnr.sess ∧ d.mnr.logged = true ∧ w.sess = d.mnr.logSess → finish w st x res d = d.uMnr fun m => { m with log := Sparse.set 0xFF m.log w.tag st }) ∧
  (∀ (w : Who) (x : Nat) (d : Dev), w.sess = d.mnr.sess → (defer w x d).mnr.out = d.mnr.out ++ [(w.mbx, [BitVec.ofNat 32 (w.op + 65536 * w.tag + 67108864), BitVec.ofNat 32 x, 1], if d.mnr.open_ then some d.mnr.sess else none)] ∧ (defer w x d).mnr.tags.map TagRec.who = d.mnr.tags.map TagRec.who)

/-- When an event arrives while fewer than 256 are held it joins them as the newest; with 256 held, the oldest is dropped and EVT_LOST increments up to
65535. Never are more than 256 held. -/
def Obligations.EventsHeld : Prop :=
  ∀ (code dom st src : Nat) (line : Option Nat) (detail : List Nat) (d : Dev), d.mnr.events.length ≤ 256 → (postEvent code dom st src line detail d).mnr.events.length ≤ 256 ∧ (postEvent code dom st src line detail d).mnr.events.getLast? = some { code, domain := dom, status := st, seq := d.mnr.seq, source := src, line, detail } ∧ (d.mnr.events.length = 256 → (postEvent code dom st src line detail d).mnr.evtLost = min 65535 (d.mnr.evtLost + 1) ∧ (postEvent code dom st src line detail d).mnr.events.dropLast = d.mnr.events.drop 1)

/-- A PING that starts completes with OK and its ARG in DETAIL, whatever its ARG. A SESSION_OPEN of major version 1 with no session open opens the
session, with its EVENT_MBX and the present HOST_EPOCH, and completes with OK, 0x0100 and HOST_EPOCH; with one open it is rejected with BUSY. A
SESSION_CLOSE with no other tag outstanding completes with OK, and the session is over. A DEV_INFO with ARG 0 completes with the silicon revision
0xB1 and the image versions. An opcode 0x08F0 + n that starts while an extension image runs and internal mailbox 8 is empty is relayed through that
mailbox and completes with the answer's status, DETAIL and at most 13 result words; where the extension answers DEFERRED, the tag stays outstanding
and a later answer for it is its final completion (R326); an answer under a tag that a command of the ended session left with DEFERRED ends that
command (R327; which command an answer belongs to is the model's choice, assumption log 73); with no extension image running a command is rejected
with BAD_OPCODE. Rows: ping, sessionOpen, sessionClose, devInfo, extCmd. -/
def Obligations.SessionAndExtension : Prop :=
  (∀ (s : State) (c : MnrCmd) (t : Taken), Starts Op.PING c s.dev t → exec (.ping c) s = .next { s with dev := finish t.who St.OK t.arg [] (begun Op.PING c s.dev) }) ∧
  (∀ (s : State) (c : MnrCmd) (t : Taken), Starts Op.SESSION_OPEN c s.dev t → t.arg < 524288 ∧ bits t.arg 15 8 = 1 ∧ (begun Op.SESSION_OPEN c s.dev).mnr.open_ = false → exec (.sessionOpen c) s = .next { s with dev := finish t.who St.OK 0x0100 [BitVec.ofNat 32 (begun Op.SESSION_OPEN c s.dev).hs.hostEpoch] (groupsStart ((begun Op.SESSION_OPEN c s.dev).uMnr fun x => { x with open_ := true, eventMbx := bits t.arg 18 16, openEpoch := (begun Op.SESSION_OPEN c s.dev).hs.hostEpoch })) }) ∧
  (∀ (s : State) (c : MnrCmd) (t : Taken), Starts Op.SESSION_OPEN c s.dev t → t.arg < 524288 ∧ bits t.arg 15 8 = 1 ∧ (begun Op.SESSION_OPEN c s.dev).mnr.open_ = true → exec (.sessionOpen c) s = .next { s with dev := finish t.who St.BUSY 0 [] (begun Op.SESSION_OPEN c s.dev) }) ∧
  (∀ (s : State) (c : MnrCmd) (t : Taken), Starts Op.SESSION_CLOSE c s.dev t → t.arg = 0 ∧ (begun Op.SESSION_CLOSE c s.dev).mnr.tags = [{ who := t.who }] → ∃ d, exec (.sessionClose c) s = .next { s with dev := d } ∧ d.mnr.open_ = false ∧ d.mnr.tags = [] ∧ d.mnr.log = [] ∧ d.pwr.mode = s.dev.pwr.mode ∧ d.objs = s.dev.objs) ∧
  (∀ (s : State) (c : MnrCmd) (t : Taken), Starts Op.DEV_INFO c s.dev t → t.arg = 0 → exec (.devInfo c) s = .next { s with dev := finish t.who St.OK 0 (0xB1 :: (begun Op.DEV_INFO c s.dev).sec.version.map (BitVec.ofNat 32)) (begun Op.DEV_INFO c s.dev) }) ∧
  (∀ (s : State) (c : MnrCmd) (n st : Fin 16) (x : Nat) (res : List Word) (t : Taken), Starts (0x08F0 + n.val) c s.dev t ∧ (∀ g ∈ s.dev.mnr.tags, g.deferred = false) ∧ s.dev.mnr.extOld = [] → (begun (0x08F0 + n.val) c s.dev).sec.extRunning = true ∧ (mbiAt 8 (begun (0x08F0 + n.val) c s.dev)).posted = false ∧ st.val ≠ St.DEFERRED → ∃ d, exec (.extCmd c n st x res) s = .next { s with dev := finish t.who st.val x (res.take 13) d } ∧ d.mnr = (begun (0x08F0 + n.val) c s.dev).mnr ∧ d.pwr = s.dev.pwr) ∧
  (∀ (s : State) (c : MnrCmd) (n : Fin 16) (x : Nat) (res : List Word) (t : Taken), Starts (0x08F0 + n.val) c s.dev t ∧ (∀ g ∈ s.dev.mnr.tags, g.deferred = false) ∧ s.dev.mnr.extOld = [] → (begun (0x08F0 + n.val) c s.dev).sec.extRunning = true ∧ (mbiAt 8 (begun (0x08F0 + n.val) c s.dev)).posted = false → ∃ d, exec (.extCmd c n 1 x res) s = .next { s with dev := defer t.who x d } ∧ d.mnr = (begun (0x08F0 + n.val) c s.dev).mnr ∧ d.pwr = s.dev.pwr) ∧
  (∀ (s : State) (c : MnrCmd) (n st : Fin 16) (x : Nat) (res : List Word) (g : TagRec), coresRun s.dev = true ∧ s.dev.sec.extRunning = true ∧ st.val ≠ St.DEFERRED → s.dev.mnr.tags.find? (fun g => g.deferred && g.who.mbx == c.mbx.val && g.who.tag == c.tag.val && g.who.op == 0x08F0 + n.val) = some g → exec (.extCmd c n st x res) s = .next { s with dev := finish g.who st.val x (res.take 13) (cmdAt c s.dev) }) ∧
  (∀ (s : State) (c : MnrCmd) (n st : Fin 16) (x : Nat) (res : List Word) (t : Taken), Starts (0x08F0 + n.val) c s.dev t ∧ (∀ g ∈ s.dev.mnr.tags, g.deferred = false) ∧ s.dev.mnr.extOld = [] → (begun (0x08F0 + n.val) c s.dev).sec.extRunning = false → exec (.extCmd c n st x res) s = .next { s with dev := finish t.who St.BAD_OPCODE 0 [] (begun (0x08F0 + n.val) c s.dev) }) ∧
  (∀ (s : State) (c : MnrCmd) (n st : Fin 16) (x : Nat) (res : List Word) (w : Who), coresRun s.dev = true ∧ s.dev.sec.extRunning = true ∧ st.val ≠ St.DEFERRED ∧ (∀ g ∈ s.dev.mnr.tags, g.deferred = false) → s.dev.mnr.extOld.find? (fun w => w.mbx == c.mbx.val && w.tag == c.tag.val && w.op == 0x08F0 + n.val) = some w → exec (.extCmd c n st x res) s = .next { s with dev := finish w st.val x [] ((cmdAt c s.dev).uMnr fun x => { x with extOld := x.extOld.filter fun v => v != w }) })

/-- An OBJ_WRITE that starts and that no check rejects has exactly the effect of the object's owner. An OBJ_READ of an object that exists, in a domain
that runs, without the buffer and not needing it, completes with its words and clears what a read clears; with the buffer it writes the words to
host memory at ADDR and nowhere else. OBJ_INFO returns the size in bytes. Which of several failing checks answers is the model's order (assumption
log 46). Rows: objWrite, objRead, objInfo. -/
def Obligations.ObjectReadAndWrite : Prop :=
  (∀ (s : State) (c : MnrCmd) (t : Taken), Starts Op.OBJ_WRITE c s.dev t → writeAccepted c t (begun Op.OBJ_WRITE c s.dev) = true → exec (.objWrite c) s = .next { s with dev := writeEffect c t (begun Op.OBJ_WRITE c s.dev) }) ∧
  (∀ (s : State) (c : MnrCmd) (t : Taken), Starts Op.OBJ_READ c s.dev t → t.arg < 65536 ∧ readable t.arg (begun Op.OBJ_READ c s.dev) = true ∧ readByBuffer t.arg (begun Op.OBJ_READ c s.dev) = false → exec (.objRead c) s = .next { s with dev := finish t.who St.OK t.arg (readWords t.arg (begun Op.OBJ_READ c s.dev)) (readClears t.arg (begun Op.OBJ_READ c s.dev) (begun Op.OBJ_READ c s.dev)) }) ∧
  (∀ (s : State) (c : MnrCmd) (t : Taken) (id : Nat), Starts Op.OBJ_READ c s.dev t → t.arg = 65536 + id ∧ id < 65536 ∧ readable id (begun Op.OBJ_READ c s.dev) = true ∧ t.len = 3 ∧ t.w 0 % 4 = 0 ∧ 0 < t.w 2 ∧ c.hostOk = true ∧ 4 * (readWords id (begun Op.OBJ_READ c s.dev)).length ≤ t.w 2 → exec (.objRead c) s = .next { s with dev := finish t.who St.OK (4 * (readWords id (begun Op.OBJ_READ c s.dev)).length) [] (readClears id (begun Op.OBJ_READ c s.dev) (writeWords (bufAddr t) (readWords id (begun Op.OBJ_READ c s.dev)) (begun Op.OBJ_READ c s.dev))) }) ∧
  (∀ (s : State) (c : MnrCmd) (t : Taken), Starts Op.OBJ_INFO c s.dev t → t.arg < 65536 ∧ readable t.arg (begun Op.OBJ_INFO c s.dev) = true → exec (.objInfo c) s = .next { s with dev := finish t.who St.OK 0 [BitVec.ofNat 32 (4 * (readWords t.arg (begun Op.OBJ_INFO c s.dev)).length), BitVec.ofNat 32 (b2n (readByBuffer t.arg (begun Op.OBJ_INFO c s.dev)))] (begun Op.OBJ_INFO c s.dev) })

/-- Whatever an OBJ_READ answers, the device mode, the security state and every object's contents stay as they were, and every byte of host memory
outside the 4 times n bytes from the buffer's ADDR on, n being the number of the object's words, reads as before. Without the buffer, every byte of
host memory does. Rows: objRead. -/
def Obligations.ReadLeavesOtherMemory : Prop :=
  ∀ (s : State) (c : MnrCmd) (t : Taken), Starts Op.OBJ_READ c s.dev t → ∃ d, exec (.objRead c) s = .next { s with dev := d } ∧ d.pwr.mode = s.dev.pwr.mode ∧ d.sec = s.dev.sec ∧ d.objs = s.dev.objs ∧ ∀ a, (a < bufAddr t ∨ bufAddr t + 4 * (readWords (t.arg % 65536) (begun Op.OBJ_READ c s.dev)).length ≤ a ∨ t.arg < 65536) → Memory.read d.hostMem a = Memory.read s.dev.hostMem a

/-- A fall of VIN below V_POR and SYS_RESET_L take the device from any mode to RESET with their cause, every object at its reset contents, and host
memory as it was; the release of the last cause (VIN for 10 ms, SYS_RESET_L, the die temperature) takes it to BOOT and advances DEV_EPOCH. A fall of
VIN below V_WARN in CALIBRATE, READY, SCAN or HOLD takes the device to SAFE and leaves host memory as it was; its end clears the warning and leaves
the mode. A reading of a die temperature above 125 °C outside RESET takes the device to RESET with cause 3; one at or below TEMP_ALARM records
VIN_MV and DIE_TEMP, ends a standing fault of class 13 and leaves the mode. Overcurrent, overtemperature and a low VIN of a stage turn its bridge
off and stop its moves with HW_FAULT; an overtemperature warning and an open coil stop the axis; each fault is kept, raises 356 + n and is a fault
of class 7, once. A stage temperature is kept and ends the causes that it refutes. Rows: vinPorFall, sysReset, powerOnRelease, sysResetRelease,
vinWarn, vinRestored, pwrMonitorTick, stageOvercurrent, stageOvertemp, stageOvertempWarn, stageOpenCoil, stageVinLow, shuTempMeasure. -/
def Obligations.ResetsAndSupply : Prop :=
  (∀ (s : State), ∃ d, exec .vinPorFall s = .next { s with dev := d } ∧ d.pwr.mode = .reset ∧ d.pwr.resetCause = 1 ∧ d.pwr.vinPor = true ∧ d.objs = [] ∧ d.liveOld = [] ∧ d.hostMem = s.dev.hostMem) ∧
  (∀ (s : State), ∃ d, exec .sysReset s = .next { s with dev := d } ∧ d.pwr.mode = .reset ∧ d.pwr.resetCause = 2 ∧ d.pwr.sysResetL = false ∧ d.objs = [] ∧ d.liveOld = [] ∧ d.hostMem = s.dev.hostMem) ∧
  (∀ (s : State), s.dev.pwr.mode = .reset ∧ s.dev.pwr.sysResetL = true ∧ s.dev.pwr.dieTemp ≤ 2000 → ∃ d, exec .powerOnRelease s = .next { s with dev := d } ∧ d.pwr.mode = .boot ∧ d.hs.devEpoch = (s.dev.hs.devEpoch + 1) % 65536 ∧ d.objs = s.dev.objs ∧ d.hostMem = s.dev.hostMem) ∧
  (∀ (s : State), s.dev.pwr.mode = .reset ∧ s.dev.pwr.vinPor = false ∧ s.dev.pwr.dieTemp ≤ 2000 → ∃ d, exec .sysResetRelease s = .next { s with dev := d } ∧ d.pwr.mode = .boot ∧ d.hs.devEpoch = (s.dev.hs.devEpoch + 1) % 65536 ∧ d.objs = s.dev.objs ∧ d.hostMem = s.dev.hostMem) ∧
  (∀ (s : State), s.dev.pwr.mode = .reset ∧ s.dev.pwr.sysResetL = false → exec .powerOnRelease s = .next { s with dev := s.dev.uPwr fun p => { p with vinPor := false } }) ∧
  (∀ (s : State) (t : Nat), s.dev.pwr.vinWarn = false ∧ (s.dev.pwr.mode = .calibrate ∨ s.dev.pwr.mode = .ready ∨ s.dev.pwr.mode = .scan ∨ s.dev.pwr.mode = .hold) → ∃ d, exec (.vinWarn t) s = .next { s with dev := d } ∧ d.pwr.mode = .safe ∧ d.hostMem = s.dev.hostMem) ∧
  (∀ (s : State) (t : Nat), s.dev.pwr.vinWarn = true ∧ s.dev.pwr.mode ≠ .reset → ∃ d, exec (.vinRestored t) s = .next { s with dev := d } ∧ d.pwr.vinWarn = false ∧ d.pwr.mode = s.dev.pwr.mode ∧ d.objs = s.dev.objs) ∧
  (∀ (s : State) (vin : Nat) (temp : Int) (t : Nat), s.dev.pwr.mode ≠ .reset ∧ 2000 < temp → ∃ d, exec (.pwrMonitorTick vin temp t) s = .next { s with dev := d } ∧ d.pwr.mode = .reset ∧ d.pwr.resetCause = 3 ∧ d.pwr.dieTemp = temp ∧ d.pwr.vinMv = vin) ∧
  (∀ (s : State) (vin : Nat) (temp : Int) (t : Nat), s.dev.pwr.mode ≠ .reset ∧ temp ≤ 2000 ∧ s.dev.tap.phase ≠ .saving ∧ temp ≤ ((16 * cfg Obj.PWR_CTL.TEMP_ALARM s.dev : Nat) : Int) → exec (.pwrMonitorTick vin temp t) s = .next { s with dev := faultClear 13 (taprootInput 21 false ((s.dev.at_ t).uPwr fun p => { p with vinMv := vin, dieTemp := temp })) }) ∧
  (∀ (s : State) (n : Fin 4) (t : Nat), s.dev.on 12 = true → exec (.stageOvercurrent n t) s = .next { s with dev := if n.val < 2 ∧ (axisAt n.val s.dev).bridge = true then stageFault n.val 0 true (s.dev.at_ t) else (s.dev.at_ t) } ∧ exec (.stageOvertemp n t) s = .next { s with dev := if n.val < 2 then stageFault n.val 2 true (updAxis n.val (fun a => { a with cause := setBit a.cause 2 true }) (s.dev.at_ t)) else (s.dev.at_ t) } ∧ exec (.stageOvertempWarn n t) s = .next { s with dev := if n.val < 2 ∧ (axisAt n.val s.dev).fault.testBit 1 = false then holdCurrentAtRest n.val (stageFault n.val 1 false (raise 367 (updAxis n.val (fun a => { a with cause := setBit a.cause 1 true }) (s.dev.at_ t)))) else (s.dev.at_ t) } ∧ exec (.stageOpenCoil n t) s = .next { s with dev := if n.val < 2 ∧ (axisAt n.val s.dev).bridge = true ∧ 200 ≤ (axisAt n.val s.dev).cur then stageFault n.val 4 false (s.dev.at_ t) else (s.dev.at_ t) }) ∧
  (∀ (s : State) (t : Nat), s.dev.on 12 = true → exec (.stageVinLow t) s = .next { s with dev := each [0, 1] (fun n d => if (axisAt n d).bridge then stageFault n 3 true (updAxis n (fun a => { a with cause := setBit a.cause 3 true }) d) else d) (s.dev.at_ t) }) ∧
  (∀ (d : Dev) (n b : Nat), (axisAt n d).fault.testBit b = false ∧ n < d.shu.ax.length → (∃ e : Dev, e = raise (356 + n) (updAxis n (fun a => { a with fault := setBit a.fault b true }) d) ∧ stageFault n b true d = stopsDone (faultRaise 7 (356 + n) none St.HW_FAULT (halted n (axisAt n e) (dropMoves n St.HW_FAULT false (faultBridgeOff n e)))) ∧ stageFault n b false d = stopsDone (faultRaise 7 (356 + n) none St.HW_FAULT (stopAxis n St.HW_FAULT e))) ∧ (b = 0 ∨ b = 2 ∨ b = 3 → (axisAt n (stageFault n b true d)).bridge = false ∧ (axisAt n (stageFault n b true d)).q = [])) ∧
  (∀ (s : State) (n : Fin 4) (v : Int) (t : Nat), shuClocked s.dev = true → exec (.shuTempMeasure n v t) s = .next { s with dev := if n.val < 2 then updAxis n.val (fun a => { a with temp := v, tempDue := false, cause := setBit (setBit a.cause 1 (decide (1680 < v) && a.cause.testBit 1)) 2 (decide (2000 < v) && a.cause.testBit 2) }) (s.dev.at_ t) else (s.dev.at_ t) })

/-- When Distaff and cores 0 to 2 have valid images, the end of BOOT locks the security map and takes the device to CALIBRATE; without them the device
stays in BOOT. The end of the sequence of CALIBRATE, for a device outside a group with no lamp string enabled, takes it to READY. With every axis at
rest and no table running, SAFE_ENTRY_DONE ends the entry into SAFE, and its MODE_SET completes with OK. In SCAN or HOLD, with the paced axis at
rest and no line open, READY_ENTRY_DONE takes the device to READY; with the axis still moving it changes nothing. Rows: bootEnd, calibrateEnd,
safeEntryDone, readyEntryDone. -/
def Obligations.BootCalibrateAndMoves : Prop :=
  (∀ (s : State) (map : List Word) (t : Nat), s.dev.pwr.mode = .boot ∧ (bootImages map s.dev).isSome = true → ∃ d, exec (.bootEnd map t) s = .next { s with dev := d } ∧ d.pwr.mode = .calibrate ∧ d.hostMem = s.dev.hostMem) ∧
  (∀ (s : State) (map : List Word) (t : Nat), s.dev.pwr.mode = .boot ∧ bootImages map (s.dev.at_ t) = none → exec (.bootEnd map t) s = .next { s with dev := s.dev.at_ t }) ∧
  (∀ (s : State) (delays mv : List Nat) (t : Nat), s.dev.pwr.mode = .calibrate ∧ s.dev.pwr.calStep = 3 ∧ s.dev.cal.run = none ∧ s.dev.krm.member = false ∧ ((List.range 8).any fun n => strEn n s.dev) = false → ∃ d, exec (.calibrateEnd delays mv t) s = .next { s with dev := d } ∧ d.pwr.mode = .ready ∧ d.hostMem = s.dev.hostMem) ∧
  (∀ (s : State) (who : Option Who) (t : Nat), s.dev.pwr.mode ≠ .reset ∧ s.dev.pwr.trans = .toSafe who ∧ safeQuiet s.dev = true → exec (.safeEntryDone t) s = .next { s with dev := finish? who St.OK 0 [] ((s.dev.at_ t).uPwr fun p => { p with trans := .none }) }) ∧
  (∀ (s : State) (who : Option Who) (done : Bool) (t : Nat), (s.dev.pwr.mode = .scan ∨ s.dev.pwr.mode = .hold) ∧ s.dev.pwr.trans = .toReady who done → openLines s.dev = [] ∧ (∀ n, paceAxis s.dev = some n → (axisAt n s.dev).atRest = true) → ∃ d, exec (.readyEntryDone t) s = .next { s with dev := d } ∧ d.pwr.mode = .ready ∧ d.pwr.trans = .none ∧ d.hostMem = s.dev.hostMem) ∧
  (∀ (s : State) (who : Option Who) (done : Bool) (n t : Nat), s.dev.pwr.mode ≠ .reset ∧ s.dev.pwr.trans = .toReady who done → paceAxis s.dev = some n ∧ (axisAt n s.dev).atRest = false → exec (.readyEntryDone t) s = .next { s with dev := s.dev.at_ t })

/-- A MODE_SET that starts with right fields: to the mode the device is in (READY, SCAN, SAFE) completes with OK and changes nothing else; from READY to
SCAN, when the whole configuration is admitted, enters SCAN; from SCAN to HOLD enters HOLD; from CALIBRATE, READY, SCAN or HOLD to SAFE enters SAFE;
and a target of 0 to 2, or a reserved bit, is rejected with BAD_FIELD. Rows: modeSet. -/
def Obligations.ModeSetMoves : Prop :=
  (∀ (s : State) (c : MnrCmd) (t : Taken), Starts Op.MODE_SET c s.dev t → t.len = 0 ∧ t.pay = [] ∧ ((t.arg = 3 ∧ (begun Op.MODE_SET c s.dev).pwr.mode = .ready) ∨ (t.arg = 4 ∧ (begun Op.MODE_SET c s.dev).pwr.mode = .scan) ∨ (t.arg = 6 ∧ (begun Op.MODE_SET c s.dev).pwr.mode = .safe)) → exec (.modeSet c) s = .next { s with dev := finish t.who St.OK 0 [] (begun Op.MODE_SET c s.dev) }) ∧
  (∀ (s : State) (c : MnrCmd) (t : Taken), Starts Op.MODE_SET c s.dev t → t.arg = 4 ∧ (t.len = 0 ∧ t.pay = [] ∨ t.len = 2 ∧ t.w 1 < 65536) ∧ (begun Op.MODE_SET c s.dev).pwr.mode = .ready ∧ admission (begun Op.MODE_SET c s.dev) = none → ∃ d, exec (.modeSet c) s = .next { s with dev := d } ∧ d.pwr.mode = .scan ∧ d.hostMem = s.dev.hostMem ∧ d.objs = s.dev.objs ∧ d.sec = s.dev.sec) ∧
  (∀ (s : State) (c : MnrCmd) (t : Taken), Starts Op.MODE_SET c s.dev t → t.arg = 5 ∧ t.len = 0 ∧ t.pay = [] ∧ (begun Op.MODE_SET c s.dev).pwr.mode = .scan → ∃ d, exec (.modeSet c) s = .next { s with dev := d } ∧ d.pwr.mode = .hold ∧ d.hostMem = s.dev.hostMem) ∧
  (∀ (s : State) (c : MnrCmd) (t : Taken), Starts Op.MODE_SET c s.dev t → t.arg = 6 ∧ t.len = 0 ∧ t.pay = [] ∧ ((begun Op.MODE_SET c s.dev).pwr.mode = .calibrate ∨ (begun Op.MODE_SET c s.dev).pwr.mode = .ready ∨ (begun Op.MODE_SET c s.dev).pwr.mode = .scan ∨ (begun Op.MODE_SET c s.dev).pwr.mode = .hold) → ∃ d, exec (.modeSet c) s = .next { s with dev := d } ∧ d.pwr.mode = .safe ∧ d.hostMem = s.dev.hostMem) ∧
  (∀ (s : State) (c : MnrCmd) (t : Taken), Starts Op.MODE_SET c s.dev t → t.arg ≤ 2 ∨ 8 ≤ t.arg → exec (.modeSet c) s = .next { s with dev := finish t.who St.BAD_FIELD 0 [] (begun Op.MODE_SET c s.dev) })

/-- A DOMAIN_RESET that names none of domains 0, 1 and 6 and only domains that run is answered with DEFERRED, takes what Table 20.7 gives from each
(stated here for the illumination domain), and is rejected with DENIED where it names domain 0 or 1; a domain in reset that no measurement delays
runs again at DOMAIN_RESET_DONE, with interrupt 469 (domain 11 asks its neighbours again, domain 14 brings its analog monitors up to date); one that
runs already stays as it is. A FAULT_LIST that starts with ARG 0 and a buffer that is long enough writes the count and 5 words for each standing
fault to host memory at ADDR, and completes with OK and the count. A function level reset, hot reset or link-down event in retention SLEEP it is
held back, and in the modes that run it advances HOST_EPOCH, ends the session with no tag outstanding, and leaves the security state. The link takes
a power state with its speed, width and maximum payload, and when it goes down the device resets its HOST domain. Rows: domainReset,
domainResetDone, faultList, pcieLinkReset, linkPowerStateChange. -/
def Obligations.DomainResetsAndFaults : Prop :=
  (∀ (s : State) (c : MnrCmd) (t : Taken), Starts Op.DOMAIN_RESET c s.dev t → t.arg = 0x2000 ∧ (begun Op.DOMAIN_RESET c s.dev).runs 13 = true → exec (.domainReset c) s = .next { s with dev := loseDomain 13 (setDomain 13 1 ((defer t.who 0 (begun Op.DOMAIN_RESET c s.dev)).uPwr fun p => { p with resets := p.resets ++ [{ left := [13], who := some t.who }] })) }) ∧
  (∀ (s : State) (c : MnrCmd) (t : Taken), Starts Op.DOMAIN_RESET c s.dev t → t.arg < 65536 ∧ (bit t.arg 0 = true ∨ bit t.arg 1 = true) → exec (.domainReset c) s = .next { s with dev := finish t.who St.DENIED 0 [] (begun Op.DOMAIN_RESET c s.dev) }) ∧
  (∀ (s : State) (n : Fin 16) (t : Nat), powered s.dev = true ∧ s.dev.pwr.domState.getD n.val 0 = 1 ∧ s.dev.pwr.resets = [] ∧ s.dev.acq.refAt = none ∧ (s.dev.shu.ax.any fun a => a.tempDue) = false ∧ 6 ≤ n.val ∧ n.val ≠ 8 → ∃ e : Dev, e = (s.dev.at_ t).uPwr (fun p => { p with domState := put p.domState n.val 0 }) ∧ exec (.domainResetDone n t) s = .next { s with dev := raise 469 (if n.val = 11 then askAgain e else if n.val = 14 then refreshAmon e else e) }) ∧
  (∀ (s : State) (n : Fin 16) (t : Nat), powered s.dev = true ∧ s.dev.pwr.domState.getD n.val 0 = 0 → exec (.domainResetDone n t) s = .next { s with dev := s.dev.at_ t }) ∧
  (∀ (s : State) (c : MnrCmd) (t : Taken), Starts Op.FAULT_LIST c s.dev t → t.arg = 0 ∧ t.len = 3 ∧ t.w 0 % 4 = 0 ∧ 0 < t.w 2 ∧ 4 + 20 * (begun Op.FAULT_LIST c s.dev).pwr.faults.length ≤ t.w 2 ∧ c.hostOk = true → exec (.faultList c) s = .next { s with dev := finish t.who St.OK (begun Op.FAULT_LIST c s.dev).pwr.faults.length [] (writeWords (bufAddr t) (BitVec.ofNat 32 (begun Op.FAULT_LIST c s.dev).pwr.faults.length :: (begun Op.FAULT_LIST c s.dev).pwr.faults.flatMap faultWords) (begun Op.FAULT_LIST c s.dev)) }) ∧
  (∀ (s : State) (t : Nat), s.dev.pwr.mode ≠ .reset ∧ s.dev.pwr.mode ≠ .sleep → ∃ d, exec (.pcieLinkReset t) s = .next { s with dev := d } ∧ d.hs.hostEpoch = (s.dev.hs.hostEpoch + 1) % 65536 ∧ d.mnr.open_ = false ∧ d.mnr.tags = [] ∧ d.sec = s.dev.sec) ∧
  (∀ (s : State) (t : Nat), s.dev.pwr.mode = .sleep ∧ s.dev.ic.slpKind = false → exec (.pcieLinkReset t) s = .next { s with dev := (s.dev.at_ t).uPwr fun p => { p with linkResetDue := true } }) ∧
  (∀ (s : State) (st : LinkPower) (speed width : Fin 64) (mps : Fin 8) (t : Nat), powered s.dev = true ∧ st ≠ .down → ∃ d, exec (.linkPowerStateChange st speed width mps t) s = .next { s with dev := d } ∧ d.hs.link = st ∧ d.hs.speed = speed.val ∧ d.hs.width = width.val ∧ d.hs.mps = mps.val ∧ d.hs.func = s.dev.hs.func ∧ d.objs = s.dev.objs ∧ d.sec = s.dev.sec ∧ d.skn = s.dev.skn) ∧
  (∀ (s : State) (speed width : Fin 64) (mps : Fin 8) (t : Nat), powered s.dev = true → exec (.linkPowerStateChange .down speed width mps t) s = .next { s with dev := if s.dev.hs.link = .down then linkState .down 0 0 mps.val (s.dev.at_ t) else pcieLinkReset (linkState .down 0 0 mps.val (s.dev.at_ t)) })

/-- An IMAGE_LOAD that starts, with a right buffer, a header of Table 21.2 and an image that R488 finds valid, while no load or activation is in
progress, empties the non-active slot, records the load and is answered with DEFERRED; one whose image is not valid is rejected with DENIED and
interrupt 481, and no slot changes. When the write ends well the slot holds the image with its version and SVN, interrupt 480 is raised and the
command completes with OK; when programming fails it completes with HW_FAULT. Rows: imageLoad, imageLoadDone. -/
def Obligations.ImageLoading : Prop :=
  (∀ (s : State) (c : MnrCmd) (sig : Bool) (t : Taken), Starts Op.IMAGE_LOAD c s.dev t → t.arg < 6 ∧ bufBad t = false ∧ (begun Op.IMAGE_LOAD c s.dev).sec.load = none ∧ (begun Op.IMAGE_LOAD c s.dev).sec.act = none ∧ c.hostOk = true ∧ Img.ok c.buf = true ∧ t.w 2 = 512 + Img.bodyLen c.buf ∧ imageValid t.arg c.buf sig (begun Op.IMAGE_LOAD c s.dev) = true → exec (.imageLoad c sig) s = .next { s with dev := defer t.who 0 ((putSlot' t.arg (loadSlot t.arg (begun Op.IMAGE_LOAD c s.dev)) {} (begun Op.IMAGE_LOAD c s.dev)).uSec fun x => { x with load := some { target := t.arg, slot := loadSlot t.arg (begun Op.IMAGE_LOAD c s.dev), version := Img.version c.buf, svn := Img.svn c.buf, cust := Img.cust c.buf, who := some t.who } }) }) ∧
  (∀ (s : State) (c : MnrCmd) (sig : Bool) (t : Taken), Starts Op.IMAGE_LOAD c s.dev t → t.arg < 6 ∧ bufBad t = false ∧ (begun Op.IMAGE_LOAD c s.dev).sec.load = none ∧ (begun Op.IMAGE_LOAD c s.dev).sec.act = none ∧ c.hostOk = true ∧ Img.ok c.buf = true ∧ t.w 2 = 512 + Img.bodyLen c.buf ∧ imageValid t.arg c.buf sig (begun Op.IMAGE_LOAD c s.dev) = false → exec (.imageLoad c sig) s = .next { s with dev := finish t.who St.DENIED 0 [] (raise 481 (begun Op.IMAGE_LOAD c s.dev)) }) ∧
  (∀ (s : State) (l : ImgLoad) (t : Nat), s.dev.on 1 = true ∧ s.dev.sec.load = some l → exec (.imageLoadDone true t) s = .next { s with dev := finish? l.who St.OK 0 [] (raise 480 (putSlot' l.target l.slot { valid := true, version := l.version, svn := l.svn, cust := l.cust } ((s.dev.at_ t).uSec fun x => { x with load := none }))) } ∧ exec (.imageLoadDone false t) s = .next { s with dev := finish? l.who St.HW_FAULT 0 [] ((s.dev.at_ t).uSec fun x => { x with load := none }) })

/-- An IMAGE_ACTIVATE that starts on the slot that is active and running completes with OK; on a valid slot of the map target it makes that slot active
and completes with OK; on a valid slot of a core that runs it records the activation. CORE_READY commits the new slot, raises the fuse to at least
its SVN and completes the command with OK and its version; a time-out leaves the slot record as it was, sets the target's FALLBACK bit and completes
with ABORTED. Rows: imageActivate, coreReady, liveUpdateTimeout. -/
def Obligations.LiveUpdate : Prop :=
  (∀ (s : State) (c : MnrCmd) (t : Taken), Starts Op.IMAGE_ACTIVATE c s.dev t → t.arg < 32 ∧ t.arg % 16 < 6 ∧ at' (begun Op.IMAGE_ACTIVATE c s.dev).sec.active (t.arg % 16) 0 = t.arg / 16 ∧ at' (begun Op.IMAGE_ACTIVATE c s.dev).sec.running (t.arg % 16) 3 = t.arg / 16 → exec (.imageActivate c) s = .next { s with dev := finish t.who St.OK 0 [] (begun Op.IMAGE_ACTIVATE c s.dev) }) ∧
  (∀ (s : State) (c : MnrCmd) (t : Taken), Starts Op.IMAGE_ACTIVATE c s.dev t → (t.arg = 5 ∨ t.arg = 21) ∧ at' (begun Op.IMAGE_ACTIVATE c s.dev).sec.active 5 0 ≠ t.arg / 16 ∧ slotValid 5 (t.arg / 16) (begun Op.IMAGE_ACTIVATE c s.dev) = true ∧ (begun Op.IMAGE_ACTIVATE c s.dev).sec.load = none ∧ (begun Op.IMAGE_ACTIVATE c s.dev).sec.act = none → exec (.imageActivate c) s = .next { s with dev := finish t.who St.OK 0 [] ((begun Op.IMAGE_ACTIVATE c s.dev).uSec fun x => commitActive (put x.active 5 (t.arg / 16)) x) }) ∧
  (∀ (s : State) (c : MnrCmd) (t : Taken), Starts Op.IMAGE_ACTIVATE c s.dev t → t.arg < 32 ∧ 1 ≤ t.arg % 16 ∧ t.arg % 16 ≤ 4 ∧ at' (begun Op.IMAGE_ACTIVATE c s.dev).sec.active (t.arg % 16) 0 ≠ t.arg / 16 ∧ slotValid (t.arg % 16) (t.arg / 16) (begun Op.IMAGE_ACTIVATE c s.dev) = true ∧ (begun Op.IMAGE_ACTIVATE c s.dev).sec.load = none ∧ (begun Op.IMAGE_ACTIVATE c s.dev).sec.act = none ∧ (begun Op.IMAGE_ACTIVATE c s.dev).runs (1 + t.arg % 16) = true → ∃ d, exec (.imageActivate c) s = .next { s with dev := d } ∧ d.sec.act = some { target := t.arg % 16, slot := t.arg / 16, who := some t.who } ∧ d.sec.active = s.dev.sec.active ∧ d.pwr.mode = s.dev.pwr.mode) ∧
  (∀ (s : State) (a : Activation) (t : Nat), s.dev.on 1 = true ∧ s.dev.sec.act = some a ∧ s.dev.pwr.domState.getD (1 + a.target) 0 = 2 ∧ a.target ≠ 0 → ∃ d, exec (.coreReady t) s = .next { s with dev := d } ∧ d.sec.act = none ∧ d.sec.active = put s.dev.sec.active a.target a.slot ∧ d.sec.running = put s.dev.sec.running a.target a.slot ∧ d.sec.svnFuse = upd s.dev.sec.svnFuse a.target (max (slotAt a.target a.slot s.dev).svn) ∧ d.pwr.mode = s.dev.pwr.mode) ∧
  (∀ (s : State) (a : Activation) (t : Nat), s.dev.on 1 = true ∧ s.dev.sec.act = some a → ∃ d, exec (.liveUpdateTimeout t) s = .next { s with dev := d } ∧ d.sec.act = none ∧ d.sec.fallback = setBit s.dev.sec.fallback a.target true ∧ d.sec.active = s.dev.sec.active ∧ d.sec.svnFuse = s.dev.sec.svnFuse ∧ d.pwr.mode = s.dev.pwr.mode)

/-- A KEY_PROVISION that starts with a right buffer on a device without customer keys is answered with DEFERRED; when the fuses are programmed,
CUST_PROV is set, fuse bits join those set before, interrupt 487 is raised and the command completes with OK. A debug attach in BOOT waits; in the
later modes it yields a nonce. A response to a nonce opens its scope when its signature verifies, debugging is not locked for good, and the scope is
the vendor's or, for the customer's, customer keys exist, with interrupt 485; else it opens nothing, with 486. A boundary-scan instruction that
drives balls acts as BYPASS unless SYS_RESET_L is low. Rows: keyProvision, keyProvisionDone, debugAttach, debugResponse, jtagInstruction. -/
def Obligations.KeysAndDebug : Prop :=
  (∀ (s : State) (c : MnrCmd) (t : Taken), Starts Op.KEY_PROVISION c s.dev t → t.arg = 0 ∧ bufBad t = false ∧ t.w 2 = 96 ∧ (begun Op.KEY_PROVISION c s.dev).sec.custProv = false ∧ (begun Op.KEY_PROVISION c s.dev).sec.keyProv = none ∧ c.hostOk = true ∧ (natOfWords c.buf >>> 640) % 2 ^ 128 < 2 → exec (.keyProvision c) s = .next { s with dev := defer t.who 0 ((begun Op.KEY_PROVISION c s.dev).uSec fun x => { x with keyProv := some { hash := natOfWords c.buf % 2 ^ 384, aes := (natOfWords c.buf >>> 384) % 2 ^ 256, permLock := bit (natOfWords c.buf) 640, who := some t.who } }) }) ∧
  (∀ (s : State) (k : KeyProv) (t : Nat), s.dev.on 1 = true ∧ s.dev.sec.keyProv = some k → exec (.keyProvisionDone t) s = .next { s with dev := finish? k.who St.OK 0 [] (raise 487 ((s.dev.at_ t).uSec fun x => { x with keyProv := none, custProv := true, permLock := x.permLock || k.permLock, custHash := x.custHash ||| k.hash, custAes := x.custAes ||| k.aes })) }) ∧
  (∀ (s : State) (t : Nat), s.dev.pwr.mode ≠ .reset → ∃ d, exec (.debugAttach t) s = .next { s with dev := d } ∧ (if s.dev.pwr.mode = .boot then d.sec.attachWait = true else d.sec.nonce ≠ none ∧ d.sec.attachWait = false) ∧ d.sec.dbgOpen = s.dev.sec.dbgOpen ∧ d.pwr.mode = s.dev.pwr.mode) ∧
  (∀ (s : State) (scope : Fin 2) (sig : Bool) (n t : Nat), s.dev.on 1 = true ∧ s.dev.sec.nonce = some n → exec (.debugResponse scope sig t) s = .next { s with dev := if sig = true ∧ s.dev.sec.permLock = false ∧ (scope = 1 ∨ s.dev.sec.custProv = true) then raise 485 ((s.dev.at_ t).uSec fun x => { x with nonce := none, dbgOpen := setBit x.dbgOpen scope.val true }) else raise 486 ((s.dev.at_ t).uSec fun x => { x with nonce := none }) }) ∧
  (∀ (s : State) (ir : Nat) (drives : Bool) (t : Nat), s.dev.pwr.mode ≠ .reset → exec (.jtagInstruction ir drives t) s = .next { s with dev := (s.dev.at_ t).uSec fun x => { x with jtagIr := ir, jtagBypass := drives && s.dev.pwr.sysResetL } })

/-- Outside the save of a sleep: an edge of the pair of a running incremental port, of one conductor alone and not within FILTER of that port's last
changes, moves the port's count by one, up where A leads B (the model's choice of log entry 86) and down otherwise; Taproot sees the activity, the
levels and the instant are kept, and a port that is not the scan source changes nothing else. On the scan source P becomes 256 times the count with
the port's homing offset. A change within FILTER of the last one of the same conductor cannot have passed the filter and counts nothing (the model's
choice of log entry 105). A change of both conductors, or of one within FILTER of the other, and a stuck pair set the port's ENC_FAULT bit and raise
interrupt 64 + n; on the scan source POS_VALID clears and no line starts any more. On a port of another type an edge counts nothing. An SSI frame of
a port other than the scan source sets its count to the frame's value the first time and moves it by the change of the value afterwards, a change of
more than half the range being a wrap; the value is decoded from Gray code where SSI_CODE says so. A Z pulse with Z_MODE 2 on a port not yet homed
sets the port's offset so that its position is HOME; one that is checked and lies within Z_TOL of Z_PERIOD counts from the last is only noted, and
one outside sets Z_FAULT and raises interrupt 68 + n, as a missing one does. Rows: encEdge, encPairStuck, ssiFrame, zPulse, zMissing. -/
def Obligations.EncoderAndAbsolutePorts : Prop :=
  (∀ (s : State) (n : Fin 4) (t : Nat) (e : Dev), portRuns n.val 1 s.dev = true ∧ e = s.dev.at_ t →
    ((∀ (a b : Bool) (k : Int), s.dev.tap.phase ≠ .saving ∧ srcPort s.dev ≠ some n.val ∧ quadStep (at' s.dev.spn.pins n.val (false, false)) (a, b) = some k ∧ k ≠ 0 ∧ farFrom n.val t s.dev = true → exec (.encEdge n (a, b) t) s = .next { s with dev := (pinsTake n.val a b t (tapPulse (6 + n.val) e)).uSpn fun x => { x with cnt := put x.cnt n.val (cntOf n.val s.dev + k) } }) ∧
    (∀ (a b : Bool) (k : Int), s.dev.tap.phase ≠ .saving ∧ srcPort s.dev = some n.val ∧ quadStep (at' s.dev.spn.pins n.val (false, false)) (a, b) = some k ∧ k ≠ 0 ∧ farFrom n.val t s.dev = true → ∃ d, exec (.encEdge n (a, b) t) s = .next { s with dev := d } ∧ cntOf n.val d = (if n.val < s.dev.spn.cnt.length then cntOf n.val s.dev + k else 0) ∧ d.spn.p = 256 * (cntOf n.val s.dev + k) + zOfsOf n.val s.dev ∧ d.hostMem = s.dev.hostMem ∧ d.sec = s.dev.sec) ∧
    (∀ (a b : Bool), s.dev.tap.phase ≠ .saving ∧ cannotPass n.val ((at' s.dev.spn.pins n.val (false, false)).1 != a) ((at' s.dev.spn.pins n.val (false, false)).2 != b) t s.dev = true → exec (.encEdge n (a, b) t) s = .next { s with dev := tapPulse (6 + n.val) e }) ∧
    (∀ (a b : Bool) (u : Nat), s.dev.tap.phase ≠ .saving ∧ srcPort s.dev ≠ some n.val ∧ t < u + 16 * cfg (Obj.SPN_PORT.FILTER n.val) s.dev → (quadStep (at' s.dev.spn.pins n.val (false, false)) (a, b) = none ∧ farFrom n.val t s.dev = true) ∨ ((at' s.dev.spn.pins n.val (false, false)).1 ≠ a ∧ (at' s.dev.spn.pins n.val (false, false)).2 = b ∧ at' s.dev.spn.pinAt n.val (none, none) = (none, some u)) ∨ ((at' s.dev.spn.pins n.val (false, false)).1 = a ∧ (at' s.dev.spn.pins n.val (false, false)).2 ≠ b ∧ at' s.dev.spn.pinAt n.val (none, none) = (some u, none)) → exec (.encEdge n (a, b) t) s = .next { s with dev := portFault n.val (pinsTake n.val a b t (tapPulse (6 + n.val) e)) } ∧ exec (.encPairStuck n t) s = .next { s with dev := portFault n.val e }) ∧
    (srcPort s.dev ≠ some n.val ∧ cfg (Obj.SPN_PORT.Z_MODE n.val) s.dev = 2 ∧ at' s.dev.spn.zHomed n.val false = false → exec (.zPulse n t) s = .next { s with dev := e.uSpn fun x => { x with zHomed := put x.zHomed n.val true, zOfs := put x.zOfs n.val (cfgS (Obj.SPN_PORT.HOME n.val) s.dev - 256 * cntOf n.val s.dev), zLast := put x.zLast n.val (some (cntOf n.val s.dev)), zMissed := put x.zMissed n.val false } }) ∧
    (∀ (z : Int), cfg (Obj.SPN_PORT.Z_MODE n.val) s.dev = 1 ∧ at' s.dev.spn.zLast n.val none = some z → exec (.zPulse n t) s = .next { s with dev := ((if (((cntOf n.val s.dev - z).natAbs : Nat) : Int) < (cfg (Obj.SPN_PORT.Z_PERIOD n.val) s.dev : Int) - (cfg (Obj.SPN_PORT.Z_TOL n.val) s.dev : Int) ∨ (cfg (Obj.SPN_PORT.Z_PERIOD n.val) s.dev : Int) + (cfg (Obj.SPN_PORT.Z_TOL n.val) s.dev : Int) < (((cntOf n.val s.dev - z).natAbs : Nat) : Int) then raise (68 + n.val) (e.uSpn fun x => { x with zFault := setBit x.zFault n.val true }) else s.dev.at_ t)).uSpn fun x => { x with zLast := put x.zLast n.val (some (cntOf n.val s.dev)), zMissed := put x.zMissed n.val false } }) ∧
    (∀ (z : Int), zChecks n.val s.dev = true ∧ at' s.dev.spn.zLast n.val none = some z ∧ at' s.dev.spn.zMissed n.val false = false ∧ cfg (Obj.SPN_PORT.Z_PERIOD n.val) s.dev + cfg (Obj.SPN_PORT.Z_TOL n.val) s.dev ≤ (cntOf n.val s.dev - z).natAbs → exec (.zMissing n t) s = .next { s with dev := raise (68 + n.val) (e.uSpn fun x => { x with zMissed := put x.zMissed n.val true, zFault := setBit x.zFault n.val true }) }))) ∧
  (∀ (s : State) (n : Fin 4) (t : Nat), (portRuns n.val 1 s.dev = true ∨ portRuns n.val 2 s.dev = true) ∧ srcPort s.dev = some n.val ∧ s.dev.spn.srcFault = false →
    ∃ d, exec (.encPairStuck n t) s = .next { s with dev := d } ∧ d.spn.encFault = setBit s.dev.spn.encFault n.val true ∧ d.spn.posValid = false ∧ d.spn.srcFault = true ∧ d.spn.p = s.dev.spn.p ∧ d.hostMem = s.dev.hostMem ∧ d.sec = s.dev.sec) ∧
  (∀ (s : State) (n : Fin 4) (t : Nat), s.dev.pwr.mode ≠ .reset ∧ s.dev.tap.phase ≠ .saving ∧ portRuns n.val 1 s.dev = false →
    ∀ (a b : Bool), exec (.encEdge n (a, b) t) s = .next { s with dev := pinsTake n.val a b t (tapPulse (6 + n.val) (s.dev.at_ t)) }) ∧
  (∀ (s : State) (n : Fin 4) (t : Nat), portRuns n.val 2 s.dev = true ∧ srcPort s.dev ≠ some n.val →
    ∀ (raw : Fin (2 ^ 40)) (nb : Nat), nb = cfg (Obj.SPN_PORT.SSI_BITS n.val) s.dev ∧ raw.val % 2 ^ nb ≠ 0 ∧ raw.val % 2 ^ nb ≠ 2 ^ nb - 1 → ∃ v : Nat, v = (if cfgB (Obj.SPN_PORT.SSI_CODE n.val) s.dev then grayFrom nb (raw.val % 2 ^ nb) else raw.val % 2 ^ nb) ∧ exec (.ssiFrame n raw t) s = .next { s with dev := (s.dev.at_ t).uSpn fun x => { x with ssiRaw := put x.ssiRaw n.val (some v), ssiAt := put x.ssiAt n.val t, ssiSame := put x.ssiSame n.val 0, ssiGood := put x.ssiGood n.val (at' x.ssiGood n.val 0 + 1), cnt := put x.cnt n.val (match at' x.ssiRaw n.val none with | none => (v : Int) | some o => cntOf n.val s.dev + ssiDelta nb o v) } })

/-- When Spindle may start lines and the position has reached the start of the next line k, LINE_START makes k the line in progress with the entries of
its phase in its template, makes k + 1 the next line, and adds the record of line k with its phase, position and time; host memory and the state of
security stay as they were. The line starts at the instant that the position's rate predicts for it on the grid, an LS_FAST line at the row's. When
no line may start, none is reached or that instant is still to come, only time moves on. A follower starts the line that the master's LINE block
schedules, with its position. Rows: lineStart. -/
def Obligations.LineStarts : Prop :=
  (∀ (s : State) (t k u : Nat), s.dev.on 7 = true ∧ follower s.dev = false ∧ startsLines s.dev = true ∧ reachedLine (distAt (t + 1) (s.dev.at_ t)) (s.dev.at_ t) = some k ∧ k = s.dev.spn.next ∧ u = lineInstant k t (s.dev.at_ t) ∧ u ≤ t → ∃ d, exec (.lineStart t) s = .next { s with dev := d } ∧ d.spn.next = k + 1 ∧ d.spn.lastLine = k ∧ d.spn.line = some { k, phase := k % phasesOf d, p0 := if cfgB Obj.SPN_CTL.LS_FAST s.dev && !timeMode s.dev then posOf (lineAt k s.dev) s.dev else phatAt u (s.dev.at_ t), left := Tpl.ofPhase (templateOf k d) (k % phasesOf d) } ∧ (d.lines.any fun r => r.k == k && r.phase == k % phasesOf d && r.ts == (s.dev.at_ t).ns) = true ∧ d.hostMem = s.dev.hostMem ∧ d.sec = s.dev.sec) ∧
  (∀ (s : State) (t : Nat), s.dev.on 7 = true ∧ follower s.dev = false ∧ (startsLines s.dev = false ∨ ((reachedLine (distAt (t + 1) (s.dev.at_ t)) (s.dev.at_ t)).all fun k => decide (t < lineInstant k t (s.dev.at_ t))) = true) → exec (.lineStart t) s = .next { s with dev := s.dev.at_ t }) ∧
  (∀ (s : State) (t : Nat) (b : LineBlk) (l : List LineBlk), s.dev.on 7 = true ∧ follower s.dev = true ∧ startsLines s.dev = true ∧ s.dev.krm.sched = b :: l ∧ b.k = s.dev.spn.next ∧ b.tk ≤ groupStep (t + 1) (s.dev.at_ t) ∧ s.dev.pwr.linesLast = none → ∃ d, exec (.lineStart t) s = .next { s with dev := d } ∧ d.spn.next = b.k + 1 ∧ d.spn.lastLine = b.k ∧ d.krm.sched = l ∧ d.spn.line = some { k := b.k, phase := b.k % phasesOf d, p0 := b.pos, left := Tpl.ofPhase (templateOf b.k d) (b.k % phasesOf d) } ∧ (d.lines.any fun r => r.k == b.k && r.pos == b.pos && r.ts == b.tk / 16) = true ∧ d.hostMem = s.dev.hostMem ∧ d.sec = s.dev.sec)

/-- For each target, the row that names the next entry i of the oldest line with entries still to act that waits for such an entry, and whose instant u
has come by t, acts at u as the target's chapter says with the entry's argument, and takes the entry from those left; a row whose entry is not the
next one to act, or whose instant has not come, changes nothing but the time. TRIG_OUT pulses the pins of ARG[3:0] for 4 ns times ARG[11:4];
FC_PULSE pulses those of them whose OWNER is Spindle. A target whose domain is in reset does not act. A write of the template becomes the staged
one, or the live one outside SCAN and HOLD. Rows: sdrvWave, convWindow, inject, lampOn, lampOff, lampDiagSlot, tdiRow, trigOut, fcPulse,
spnTemplateWrite. -/
def Obligations.TemplateEntriesFire : Prop :=
  (∀ (s : State) (i : Fin 4096) (t u : Nat) (l : LineProg), s.dev.on 7 = true ∧ entryComes 1 t i.val (s.dev.at_ t) = some (l, u) → ∃ d : Dev, d = entryDone l.k (s.dev.at_ t) ∧ exec (.sdrvWave i t) s = .next { s with dev := if tableStarts (Tpl.arg (templateOf l.k s.dev) i.val) d then armLinks 1 (Tpl.arg (templateOf l.k s.dev) i.val) l.k u (Machine.sdrvWave (Tpl.arg (templateOf l.k s.dev) i.val) l.k u d) else Machine.sdrvWave (Tpl.arg (templateOf l.k s.dev) i.val) l.k u d }) ∧
  (∀ (s : State) (i : Fin 4096) (t u : Nat) (l : LineProg), s.dev.on 7 = true ∧ entryComes 2 t i.val (s.dev.at_ t) = some (l, u) → ∃ d : Dev, d = entryDone l.k (s.dev.at_ t) ∧ exec (.convWindow i t) s = .next { s with dev := armWindow (Tpl.arg (templateOf l.k s.dev) i.val) l.k u d }) ∧
  (∀ (s : State) (i : Fin 4096) (t u : Nat) (l : LineProg), s.dev.on 7 = true ∧ entryComes 3 t i.val (s.dev.at_ t) = some (l, u) → ∃ d : Dev, d = entryDone l.k (s.dev.at_ t) ∧ exec (.inject i t) s = .next { s with dev := if d.runs 8 then injectEvent (Tpl.arg (templateOf l.k s.dev) i.val) u d else d }) ∧
  (∀ (s : State) (i : Fin 4096) (t u : Nat) (l : LineProg), s.dev.on 7 = true ∧ entryComes 4 t i.val (s.dev.at_ t) = some (l, u) → ∃ d : Dev, d = entryDone l.k (s.dev.at_ t) ∧ exec (.lampOn i t) s = .next { s with dev := if d.runs 13 then Machine.lampOn (Tpl.arg (templateOf l.k s.dev) i.val) (offWith (templateOf l.k s.dev) i.val l.phase) l.k u d else d }) ∧
  (∀ (s : State) (i : Fin 4096) (t u : Nat) (l : LineProg), s.dev.on 7 = true ∧ entryComes 5 t i.val (s.dev.at_ t) = some (l, u) → ∃ d : Dev, d = entryDone l.k (s.dev.at_ t) ∧ exec (.lampOff i t) s = .next { s with dev := if d.runs 13 then Machine.lampOff (Tpl.arg (templateOf l.k s.dev) i.val) u d else d }) ∧
  (∀ (s : State) (i : Fin 4096) (t u : Nat) (l : LineProg), s.dev.on 7 = true ∧ entryComes 6 t i.val (s.dev.at_ t) = some (l, u) → ∃ d : Dev, d = entryDone l.k (s.dev.at_ t) ∧ exec (.lampDiagSlot i t) s = .next { s with dev := if d.runs 13 then Machine.lampDiagSlot (Tpl.arg (templateOf l.k s.dev) i.val) u d else d }) ∧
  (∀ (s : State) (i : Fin 4096) (t u : Nat) (l : LineProg), s.dev.on 7 = true ∧ entryComes 7 t i.val (s.dev.at_ t) = some (l, u) → ∃ d : Dev, d = entryDone l.k (s.dev.at_ t) ∧ exec (.tdiRow i t) s = .next { s with dev := if d.runs 10 then Machine.tdiRow l.k u d else d }) ∧
  (∀ (s : State) (i : Fin 4096) (t u : Nat) (l : LineProg), s.dev.on 7 = true ∧ entryComes 8 t i.val (s.dev.at_ t) = some (l, u) → ∃ d : Dev, d = entryDone l.k (s.dev.at_ t) ∧ exec (.trigOut i t) s = .next { s with dev := (d.at_ u).uSpn fun x => { x with trig := pulsePins ((Tpl.arg (templateOf l.k s.dev) i.val) % 16) u (4 * ((Tpl.arg (templateOf l.k s.dev) i.val) / 16)) x.trig } }) ∧
  (∀ (s : State) (i : Fin 4096) (t u : Nat) (l : LineProg), s.dev.on 7 = true ∧ entryComes 9 t i.val (s.dev.at_ t) = some (l, u) → ∃ d : Dev, d = entryDone l.k (s.dev.at_ t) ∧ exec (.fcPulse i t) s = .next { s with dev := (d.at_ u).uSpn fun x => { x with fcPulse := pulsePins (((Tpl.arg (templateOf l.k s.dev) i.val) % 16) &&& packBits ((List.range 4).map fun p => cfg (Obj.PACE_FC.OWNER p) s.dev == 3)) u (4 * ((Tpl.arg (templateOf l.k s.dev) i.val) / 16)) x.fcPulse } }) ∧
  (∀ (s : State) (i : Fin 4096) (t : Nat), s.dev.on 7 = true ∧ (List.range 10).all (fun n => (entryComes n t i.val (s.dev.at_ t)).isNone) = true → exec (.sdrvWave i t) s = .next { s with dev := s.dev.at_ t } ∧ exec (.convWindow i t) s = .next { s with dev := s.dev.at_ t } ∧ exec (.inject i t) s = .next { s with dev := s.dev.at_ t } ∧ exec (.lampOn i t) s = .next { s with dev := s.dev.at_ t } ∧ exec (.lampOff i t) s = .next { s with dev := s.dev.at_ t } ∧ exec (.lampDiagSlot i t) s = .next { s with dev := s.dev.at_ t } ∧ exec (.tdiRow i t) s = .next { s with dev := s.dev.at_ t } ∧ exec (.trigOut i t) s = .next { s with dev := s.dev.at_ t } ∧ exec (.fcPulse i t) s = .next { s with dev := s.dev.at_ t }) ∧
  (∀ (s : State) (c : MnrCmd) (t : Taken), otherTaken 0x1010 c s.dev = false ∧ t.arg % 65536 = 0x1010 → Starts Op.OBJ_WRITE (withObj 0x1010 c) s.dev t → writeAccepted (withObj 0x1010 c) t (begun Op.OBJ_WRITE (withObj 0x1010 c) s.dev) = true → exec (.spnTemplateWrite c) s = .next { s with dev := finish t.who St.OK 0x1010 [] (stageOrSet 0x1010 [0, 0] (writtenWords (withObj 0x1010 c) t (begun Op.OBJ_WRITE (withObj 0x1010 c) s.dev)) (begun Op.OBJ_WRITE (withObj 0x1010 c) s.dev)) })

/-- A fall of STB_L latches the position estimate, counts in STB_COUNT, raises interrupt 76 and drives byte 0 of the ten: the position's eight bytes
from the lowest, the status byte and the CRC of the nine. Each rising edge of STB_CLK while STB_L is low drives the next byte, and 0x00 after the
last; a rise of STB_L ends the cycle. Taproot's input 10 follows STB_L. Rows: stbLFall, stbClkEdge, stbLRise. -/
def Obligations.StrobePort : Prop :=
  (∀ (s : State) (t : Nat), s.dev.on 7 = true ∧ s.dev.tap.phase ≠ .saving ∧ s.dev.spn.stbLow = false → ∃ d, exec (.stbLFall t) s = .next { s with dev := d } ∧ d.spn.stbPos = phatAt t (s.dev.at_ t) ∧ d.spn.stbCount = (s.dev.spn.stbCount + 1) % 2 ^ 32 ∧ d.spn.stbLow = true ∧ d.spn.stbIdx = 0 ∧ d.spn.stbBytes = d.spn.stbBytes.take 9 ++ [crc8 (d.spn.stbBytes.take 9)] ∧ d.spn.stbBytes.take 9 = ((List.range 8).map fun i => (ofS 64 (phatAt t (s.dev.at_ t)) >>> (8 * i)) % 256) ++ [b2n (posValid s.dev) + 2 * b2n (s.dev.spn.falling && !timeMode s.dev) + 4 * b2n s.dev.spn.overSticky + 8 * b2n s.dev.spn.srcFault + 16 * scanSrc s.dev] ∧ d.spn.stbOut = some (ofS 64 (phatAt t (s.dev.at_ t)) % 256) ∧ bit d.tap.input 10 = true ∧ d.objs = s.dev.objs ∧ d.hostMem = s.dev.hostMem) ∧
  (∀ (s : State) (t : Nat), s.dev.on 7 = true ∧ s.dev.tap.phase ≠ .saving ∧ s.dev.spn.stbLow = true → exec (.stbClkEdge t) s = .next { s with dev := (s.dev.at_ t).uSpn fun x => { x with stbIdx := min 10 (x.stbIdx + 1), stbOut := some (at' x.stbBytes (min 10 (x.stbIdx + 1)) 0) } } ∧ exec (.stbLRise t) s = .next { s with dev := (taprootInput 10 false (s.dev.at_ t)).uSpn fun x => { x with stbLow := false, stbOut := none } })

/-- When the next entry of engine e is of the row's kind, a PIN entry drives its output at its level, and on an LVDS pair the odd output at the
complement, while an output with MODE 0 stays off; an SHR entry marks the reset level as sampled for its group and on every CDS channel of it; an
SHD entry after an SHR completes the pair at the entry's instant on those channels, and one without an SHR pairs with nothing; an EXPOSE entry opens
a closed group, closes an open one, and counts an overrun with interrupt 129 when it opens an open one. The engine then moves past the entry. A row
whose kind is not that of the next entry changes nothing but the time. Rows: waveEntryPin, waveEntryShr, waveEntryShd, waveEntryExpose. -/
def Obligations.WaveformEntries : Prop :=
  (∀ (s : State) (e : Fin 8) (t : Nat) (a : EntryAct), s.dev.on 8 = true ∧ nextEntry e.val s.dev = some a ∧ a.kind = 0 → exec (.waveEntryPin e t) s = .next { s with dev := passEntry e.val (((s.dev.at_ t).at_ a.t).uSdrv fun x => { x with out := if cfg (Obj.SDRV_PIN.MODE a.tgt) s.dev = 0 then x.out else if cfg (Obj.SDRV_PIN.MODE a.tgt) s.dev = 2 then put (put x.out a.tgt (.drive a.level)) (a.tgt + 1) (.drive (!a.level)) else put x.out a.tgt (.drive a.level) }) }) ∧
  (∀ (s : State) (e : Fin 8) (t : Nat) (a : EntryAct), s.dev.on 8 = true ∧ nextEntry e.val s.dev = some a ∧ a.kind = 1 → exec (.waveEntryShr e t) s = .next { s with dev := passEntry e.val (each (cdsChannels a.tgt s.dev) (fun c d => d.uAcq fun x => { x with ch := upd x.ch c fun y => { y with shr := true } }) (((s.dev.at_ t).at_ a.t).uSdrv fun x => { x with shr := put x.shr a.tgt true })) }) ∧
  (∀ (s : State) (e : Fin 8) (t : Nat) (a : EntryAct), s.dev.on 8 = true ∧ nextEntry e.val s.dev = some a ∧ a.kind = 2 ∧ at' s.dev.sdrv.shr a.tgt false = true → exec (.waveEntryShd e t) s = .next { s with dev := passEntry e.val (each (cdsChannels a.tgt s.dev) (fun c d => d.uAcq fun x => { x with ch := upd x.ch c fun y => if y.shr then { y with shr := false, cds := if x.windows.any fun w => w.open_ && w.cds && w.wants c then some a.t else none } else y }) (((s.dev.at_ t).at_ a.t).uSdrv fun x => { x with shr := put x.shr a.tgt false })) }) ∧
  (∀ (s : State) (e : Fin 8) (t : Nat) (a : EntryAct), s.dev.on 8 = true ∧ nextEntry e.val s.dev = some a ∧ a.kind = 2 ∧ at' s.dev.sdrv.shr a.tgt false = false → exec (.waveEntryShd e t) s = .next { s with dev := passEntry e.val ((s.dev.at_ t).at_ a.t) }) ∧
  (∀ (s : State) (e : Fin 8) (t : Nat) (a : EntryAct), s.dev.on 8 = true ∧ nextEntry e.val s.dev = some a ∧ a.kind = 3 ∧ a.level = true → exec (.waveEntryExpose e t) s = .next { s with dev := passEntry e.val (refreshGroup a.tgt a.t (if (at' s.dev.sdrv.expo a.tgt {}).open_ then raise 129 ((openGroup a.tgt a.t (closeGroup a.tgt a.t ((s.dev.at_ t).at_ a.t))).uSdrv fun x => { x with overrun := sat16 x.overrun }) else openGroup a.tgt a.t ((s.dev.at_ t).at_ a.t))) }) ∧
  (∀ (s : State) (e : Fin 8) (t : Nat) (a : EntryAct), s.dev.on 8 = true ∧ nextEntry e.val s.dev = some a ∧ a.kind = 3 ∧ a.level = false → exec (.waveEntryExpose e t) s = .next { s with dev := passEntry e.val (if (at' s.dev.sdrv.expo a.tgt {}).open_ then refreshGroup a.tgt a.t (closeGroup a.tgt a.t ((s.dev.at_ t).at_ a.t)) else (s.dev.at_ t).at_ a.t) }) ∧
  (∀ (s : State) (e : Fin 8) (t : Nat), s.dev.on 8 = true ∧ nextEntry e.val s.dev = none → exec (.waveEntryPin e t) s = .next { s with dev := s.dev.at_ t } ∧ exec (.waveEntryShr e t) s = .next { s with dev := s.dev.at_ t } ∧ exec (.waveEntryShd e t) s = .next { s with dev := s.dev.at_ t } ∧ exec (.waveEntryExpose e t) s = .next { s with dev := s.dev.at_ t })

/-- When IDLE_PERIOD has expired by t in READY or HOLD with IDLE_EN, no engine runs and no self-calibration measures, the idle table starts on a free
engine at the instant of the expiry with its contents in force, and the next period counts from there. A bank supply that leaves its range in SCAN
or HOLD sets its BANK_FAULT bit, raises interrupt 132 and a fault of class 1; outside them only BANK_V changes. When the last bad bank is back in
range the fault of class 1 ends. An accepted write of SDRV_TABLE replaces the table at once, or is staged in SCAN and HOLD, and completes with OK.
Rows: idlePlayback, bankSupplyFault, bankSupplyReturn, sdrvTableWrite. -/
def Obligations.SensorSuppliesAndTables : Prop :=
  (∀ (s : State) (t i : Nat), s.dev.on 8 = true ∧ (s.dev.pwr.mode = .ready ∨ s.dev.pwr.mode = .hold) ∧ cfgB Obj.SDRV_CTL.IDLE_EN s.dev = true ∧ enginesRunning s.dev = [] ∧ Tbl.entries (tableWords (cfg Obj.SDRV_CTL.IDLE_TABLE s.dev) s.dev) ≠ 0 ∧ s.dev.sdrv.engines.findIdx? (fun e => e.isNone) = some i ∧ calMeasuring s.dev = false ∧ s.dev.sdrv.pendingCtl = [] ∧ s.dev.sdrv.idleFrom + 16 * cfg Obj.SDRV_CTL.IDLE_PERIOD s.dev ≤ t → exec (.idlePlayback t) s = .next { s with dev := (s.dev.at_ t).uSdrv fun x => { x with engines := put x.engines i (some { tbl := cfg Obj.SDRV_CTL.IDLE_TABLE s.dev, ws := tableWords (cfg Obj.SDRV_CTL.IDLE_TABLE s.dev) s.dev, t0 := x.idleFrom + 16 * cfg Obj.SDRV_CTL.IDLE_PERIOD s.dev, order := x.order, line := none }), order := x.order + 1, idleFrom := x.idleFrom + 16 * cfg Obj.SDRV_CTL.IDLE_PERIOD s.dev } }) ∧
  (∀ (s : State) (b : Fin 6) (v : Fin 4) (t : Nat), s.dev.pwr.mode = .scan ∨ s.dev.pwr.mode = .hold → exec (.bankSupplyFault b v t) s = .next { s with dev := faultRaise 1 132 (curLine s.dev) St.HW_FAULT (raise 132 ((s.dev.at_ t).uSdrv fun x => { x with bankV := put x.bankV b.val v.val, bankFault := setBit x.bankFault b.val true, bankBad := setBit x.bankBad b.val true })) }) ∧
  (∀ (s : State) (b : Fin 6) (v : Fin 4) (t : Nat), s.dev.pwr.mode = .ready ∨ s.dev.pwr.mode = .calibrate ∨ s.dev.pwr.mode = .safe → exec (.bankSupplyFault b v t) s = .next { s with dev := (s.dev.at_ t).uSdrv fun x => { x with bankV := put x.bankV b.val v.val } }) ∧
  (∀ (s : State) (b : Fin 6) (v : Fin 4) (t : Nat), s.dev.pwr.mode ≠ .reset → exec (.bankSupplyReturn b v t) s = .next { s with dev := if setBit s.dev.sdrv.bankBad b.val false = 0 then faultClear 1 ((s.dev.at_ t).uSdrv fun x => { x with bankV := put x.bankV b.val v.val, bankBad := setBit x.bankBad b.val false }) else (s.dev.at_ t).uSdrv fun x => { x with bankV := put x.bankV b.val v.val, bankBad := setBit x.bankBad b.val false } }) ∧
  (∀ (s : State) (tbl : Fin 64) (c : MnrCmd) (t : Taken), otherTaken (0x1140 + tbl.val) c s.dev = false ∧ t.arg % 65536 = 0x1140 + tbl.val → Starts Op.OBJ_WRITE (withObj (0x1140 + tbl.val) c) s.dev t → writeAccepted (withObj (0x1140 + tbl.val) c) t (begun Op.OBJ_WRITE (withObj (0x1140 + tbl.val) c) s.dev) = true → exec (.sdrvTableWrite tbl c) s = .next { s with dev := finish t.who St.OK (0x1140 + tbl.val) [] (stageOrSet (0x1140 + tbl.val) (List.replicate 5 0) (writtenWords (withObj (0x1140 + tbl.val) c) t (begun Op.OBJ_WRITE (withObj (0x1140 + tbl.val) c) s.dev)) (begun Op.OBJ_WRITE (withObj (0x1140 + tbl.val) c) s.dev)) })

/-- With REF_READY and no self-calibration measuring an armed window whose instant is known opens at it; windows open on one of its channels are cut
first, in their order, and pairs sampled before it are dropped. Otherwise its samples are substituted and its line is DEGRADED. A conversion of a
channel with no overload, no failure and no pair, at a level whose trimmed code is in range, appends one sample to Heddle's input, with the code of
R65 and of Table 5.1's trims, the owning line, its number after SKIP and the instant of the grid DELAY + n times PERIOD delayed by the skew trim,
and the window counts it and closes after its last one. Rows: windowOpen, conversion. -/
def Obligations.WindowsAndConversions : Prop :=
  (∀ (s : State) (i : Fin 256) (t : Nat) (w : Window), s.dev.on 8 = true ∧ (s.dev.acq.windows.find? fun w => w.desc == i.val && !w.open_ && w.due.isSome) = some w ∧ converting s.dev = true → exec (.windowOpen i t) s = .next { s with dev := (each (s.dev.acq.windows.filter fun x => x.open_ && decide (x.mask &&& w.mask ≠ 0)) cutWindow ((s.dev.at_ t).at_ (w.due.getD 0))).uAcq fun a => { a with windows := a.windows.map fun x => if x = w then { x with open_ := true, due := some (w.due.getD 0) } else x, ch := mapIx (fun c x => if w.mask.testBit c then { x with cds := none } else x) a.ch } }) ∧
  (∀ (s : State) (i : Fin 256) (t : Nat) (w : Window), s.dev.on 8 = true ∧ (s.dev.acq.windows.find? fun w => w.desc == i.val && !w.open_ && w.due.isSome) = some w ∧ converting s.dev = false → exec (.windowOpen i t) s = .next { s with dev := markLine? w.owner FL.DEGRADED (dropWindow w (substAll w ((s.dev.at_ t).at_ (w.due.getD 0)))) }) ∧
  (∀ (s : State) (ch : Fin 64) (l chk : Int) (t : Nat) (w : Window) (k n code : Nat), s.dev.on 8 = true ∧ s.dev.runs 10 = true ∧ converting s.dev = true ∧ (s.dev.acq.windows.find? fun w => w.open_ && w.wants ch.val && (!w.cds || (acqCh ch.val s.dev).cds.isSome)) = some w → w.cds = false ∧ w.owner = some k ∧ n = w.made ch.val ∧ w.skip ≤ n ∧ ilvHead ch.val s.dev = false ∧ checkerFor ch.val s.dev = none ∧ noConverter ch.val ch.val s.dev = false ∧ s.dev.cal.feFailed.testBit ch.val = false ∧ (acqCh ch.val s.dev).open_ = false ∧ (acqCh ch.val s.dev).lastOver = none ∧ (acqCh ch.val s.dev).recL = 0 ∧ (acqCh ch.val s.dev).recR = 0 ∧ codeOf ch.val ch.val l s.dev = (code, 0) → ∃ d, exec (.conversion ch (some l) chk t) s = .next { s with dev := d } ∧ d.hdl.inq = s.dev.hdl.inq ++ [{ stream := ch.val, j := n - w.skip, line := k, code, rng := 0, subst := false, at_ := skewed (w.due.getD 0 + n * w.period) (trimApplied ch.val s.dev).skew }] ∧ d.acq.windows = (if ({ w with done := Sparse.set 0 w.done ch.val (n + 1) } : Window).complete then (s.dev.acq.windows.map fun v => if v = w then { w with done := Sparse.set 0 w.done ch.val (n + 1) } else v).filter fun v => v != { w with done := Sparse.set 0 w.done ch.val (n + 1) } else s.dev.acq.windows.map fun v => if v = w then { w with done := Sparse.set 0 w.done ch.val (n + 1) } else v) ∧ d.hostMem = s.dev.hostMem ∧ d.objs = s.dev.objs ∧ d.sec = s.dev.sec)

/-- A channel converter found failed while no line of its channel's conversions is in Heddle is marked, the background changes of its pair end where it
is an odd half, and the first free checker in the order of R86 stands in for it, at once where it shadows the channel and otherwise from the next
line start, with interrupt 140; with no free checker interrupt 141 and a fault of class 3 follow. A checker found failed leaves the converter it
stands in for to another one. Three CRC failures in a row are counted with interrupt 145 and the fourth fails the converter. Arbitration tests
converter and checker after FAIL_LINES marked lines: the one outside ARB_TOL fails, both when both are, and interrupt 139 is raised; the count of
marked lines starts again, which is the model's choice (assumption log 118). Lanes of a link that arrive 512 octets apart stop it in state 5. A raw
lane that receives its training word 64 times, or a comma where it is coded, aligns, and ends the fault of its group when it was the last; one that
loses alignment faults its group with interrupt 212 + g. In other states only the time changes. Rows: converterFail, convLinkCrcFail,
checkerArbitration, linkDeskewFault, rawAlign, rawAlignLost. -/
def Obligations.ConvertersFail : Prop :=
  (∀ (s : State) (i : Fin 68) (t k : Nat), s.dev.on 8 = true ∧ i.val < 64 ∧ (acqCh i.val s.dev).failed = false ∧ failLine i.val s.dev = none ∧ pickChecker i.val s.dev = some k → exec (.converterFail i t) s = .next { s with dev := refreshTrimSat (raise 140 (updChk k (fun x => { x with sub := some i.val, takeover := !(shadows k s.dev && chkCh k s.dev == i.val), marked := 0, markedAt := none }) (if i.val % 2 = 1 then dropBg (i.val / 2) (updCh i.val (fun x => { x with failed := true }) (s.dev.at_ t)) else updCh i.val (fun x => { x with failed := true }) (s.dev.at_ t)))) }) ∧
  (∀ (s : State) (i : Fin 68) (t : Nat), s.dev.on 8 = true ∧ i.val < 64 ∧ (acqCh i.val s.dev).failed = false ∧ failLine i.val s.dev = none ∧ pickChecker i.val s.dev = none → exec (.converterFail i t) s = .next { s with dev := faultRaise 3 141 (curLine s.dev) St.SPARES_EXHAUSTED (raise 141 ((if i.val % 2 = 1 then dropBg (i.val / 2) (updCh i.val (fun x => { x with failed := true }) (s.dev.at_ t)) else updCh i.val (fun x => { x with failed := true }) (s.dev.at_ t)).uAcq fun a => { a with sparesOut := true })) }) ∧
  (∀ (s : State) (i : Fin 68) (t : Nat), s.dev.on 8 = true ∧ 64 ≤ i.val ∧ (chkAt (i.val - 64) s.dev).failed = false ∧ (chkAt (i.val - 64) s.dev).sub = none → exec (.converterFail i t) s = .next { s with dev := refreshTrimSat (holdSkew (updChk (i.val - 64) (fun x => { x with failed := true, sub := none, takeover := false, marked := 0, markedAt := none }) (s.dev.at_ t))) }) ∧
  (∀ (s : State) (i : Fin 68) (t : Nat), s.dev.on 8 = true ∧ at' s.dev.acq.crc i.val 0 < 3 → exec (.convLinkCrcFail i t) s = .next { s with dev := raise 145 ((s.dev.at_ t).uAcq fun a => { a with crc := put a.crc i.val (at' a.crc i.val 0 + 1) }) }) ∧
  (∀ (s : State) (i : Fin 68) (t : Nat), s.dev.on 8 = true ∧ 3 ≤ at' s.dev.acq.crc i.val 0 → exec (.convLinkCrcFail i t) s = .next { s with dev := Machine.converterFail i.val (raise 145 ((s.dev.at_ t).uAcq fun a => { a with crc := put a.crc i.val 0 })) }) ∧
  (∀ (s : State) (k : Fin 4) (conv chk : ArbRes) (t : Nat) (x : Dev), s.dev.on 8 = true ∧ shadowOf (chkCh k.val s.dev) s.dev = some k.val ∧ cfg (Obj.ACQ_CHK.FAIL_LINES k.val) s.dev ≤ (chkAt k.val s.dev).marked ∧ converting s.dev = true ∧ windowSoon (chkCh k.val s.dev) t 1024 s.dev = false ∧ x = updChk k.val (fun x => { x with marked := 0, markedAt := none }) (s.dev.at_ t) → exec (.checkerArbitration k conv chk t) s = .next { s with dev := raise 139 (arbOutcome k.val (arbFails (cfg (Obj.ACQ_CHK.ARB_TOL k.val) s.dev) conv) (arbFails (cfg (Obj.ACQ_CHK.ARB_TOL k.val) s.dev) chk) x) }) ∧
  (∀ (s : State) (l : Fin 8) (arrive : List Nat) (t : Nat), s.dev.on 9 = true ∧ ((linkAt l.val s.dev).state = 3 ∨ (linkAt l.val s.dev).state = 4) ∧ deskewBad l.val arrive s.dev = true → exec (.linkDeskewFault l ⟨arrive, t⟩) s = .next { s with dev := raise (192 + l.val) ((cutOpened (.link l) (updLink l.val (fun y => { y with state := 5 }) (s.dev.at_ t))).uJlk fun j => { j with deskew := true }) }) ∧
  (∀ (s : State) (l : Fin 8) (arrive : List Nat) (t : Nat), s.dev.on 9 = true ∧ (((linkAt l.val s.dev).state ≠ 3 ∧ (linkAt l.val s.dev).state ≠ 4) ∨ deskewBad l.val arrive s.dev = false) → exec (.linkDeskewFault l ⟨arrive, t⟩) s = .next { s with dev := (s.dev.at_ t) }) ∧
  (∀ (s : State) (p : Fin 32) (word n g t : Nat), s.dev.on 9 = true ∧ groupOfLane p.val s.dev = some g ∧ alignsOn g word n s.dev = true → ∃ e : Dev, e = updLane p.val (fun x => { x with aligned := true, missed := 0, hist := [], hi := none, errAt := [] }) ((s.dev.at_ t).uJlk fun j => { j with cdrLock := setBit j.cdrLock p.val true }) ∧ exec (.rawAlign p ⟨(word, n), t⟩) s = .next { s with dev := if (maskIx (cfg (Obj.JLK_RAW.LANE_MASK g) s.dev) 32).all (fun q => (laneAt q e).aligned) then e.uJlk fun j => { j with rawFault := put j.rawFault g false } else e }) ∧
  (∀ (s : State) (p : Fin 32) (word n t : Nat), s.dev.on 9 = true ∧ ((groupOfLane p.val s.dev).all fun g => !alignsOn g word n s.dev) = true → exec (.rawAlign p ⟨(word, n), t⟩) s = .next { s with dev := (s.dev.at_ t) }) ∧
  (∀ (s : State) (p : Fin 32) (g t : Nat), s.dev.on 9 = true ∧ (laneAt p.val s.dev).aligned = true ∧ groupOfLane p.val s.dev = some g → exec (.rawAlignLost p t) s = .next { s with dev := raise (212 + g) ((updLane p.val (fun x => { x with aligned := false, missed := 0, hist := [], hi := none, errAt := [] }) (cutOpened (.lane p) (s.dev.at_ t))).uJlk fun j => { j with rawFault := put j.rawFault g true }) }) ∧
  (∀ (s : State) (p : Fin 32) (t : Nat), s.dev.on 9 = true ∧ (laneAt p.val s.dev).aligned = false → exec (.rawAlignLost p t) s = .next { s with dev := (s.dev.at_ t) })

/-- An accepted write of ACQ_INJ appends its request. The oldest request is served when no window of its channel is open or opens within 16 ns, no
sampled reset level waits there, its channel is on, REF_READY stands, no self-calibration runs (or the request is the one in service when it came)
and it has waited fewer than INJ_TMO line starts: its result, with code, RANGE, time and position, enters the results queue with interrupt 143. A
request that has waited INJ_TMO line starts leaves with TIMEOUT and interrupt 144. A read of ACQ_INJ_RESULT returns the oldest result and removes
it. Rows: acqInjWrite, injServe, injTimeout, acqInjResultRead. -/
def Obligations.InjectedConversions : Prop :=
  (∀ (s : State) (c : MnrCmd) (t : Taken), otherTaken 0x1204 c s.dev = false ∧ t.arg % 65536 = 0x1204 → Starts Op.OBJ_WRITE (withObj 0x1204 c) s.dev t → writeAccepted (withObj 0x1204 c) t (begun Op.OBJ_WRITE (withObj 0x1204 c) s.dev) = true → exec (.acqInjWrite c) s = .next { s with dev := finish t.who St.OK 0x1204 [] ((begun Op.OBJ_WRITE (withObj 0x1204 c) s.dev).uAcq fun a => { a with inj := a.inj ++ [{ ch := fieldOf (writtenWords (withObj 0x1204 c) t (begun Op.OBJ_WRITE (withObj 0x1204 c) s.dev)) Obj.ACQ_INJ.CHANNEL, tag := fieldOf (writtenWords (withObj 0x1204 c) t (begun Op.OBJ_WRITE (withObj 0x1204 c) s.dev)) Obj.ACQ_INJ.TAG, event := false }] }) }) ∧
  (∀ (s : State) (lvl : Int) (t i : Nat) (r : InjReq) (rest : List InjReq), s.dev.on 8 = true ∧ s.dev.acq.inj = r :: rest ∧ windowSoon r.ch t 256 s.dev = false ∧ (acqCh r.ch s.dev).shr = false ∧ s.dev.acq.refReady = true ∧ chMode r.ch s.dev ≠ 0 ∧ r.waited < cfg Obj.ACQ_CTL.INJ_TMO s.dev ∧ injOpen s.dev = true ∧ i = (match checkerFor r.ch s.dev with | some k => 64 + k | none => r.ch) → exec (.injServe lvl t) s = .next { s with dev := raise 143 (pushResult { ch := r.ch, status := St.OK, tag := r.tag, code := (codeOf r.ch i lvl s.dev).1, rng := (codeOf r.ch i lvl s.dev).2, ts := (s.dev.at_ t).ns, pos := phatAt t s.dev } (((goodBlock i (s.dev.at_ t)).uCal fun c => { c with run := c.run.map fun x => { x with serving := false } }).uAcq fun a => { a with inj := rest })) }) ∧
  (∀ (s : State) (t : Nat) (l rest : List InjReq) (r : InjReq), s.dev.on 8 = true ∧ splitAt? (fun r : InjReq => decide (cfg Obj.ACQ_CTL.INJ_TMO s.dev ≤ r.waited)) s.dev.acq.inj = some (l, r, rest) → exec (.injTimeout t) s = .next { s with dev := raise 144 (pushResult { ch := r.ch, status := St.TIMEOUT, tag := r.tag } ((s.dev.at_ t).uAcq fun a => { a with inj := l ++ rest })) }) ∧
  (∀ (s : State) (c : MnrCmd) (t : Taken), otherTaken 0x1205 c s.dev = false ∧ t.arg = 0x1205 → Starts Op.OBJ_READ (withObj 0x1205 c) s.dev t → (begun Op.OBJ_READ (withObj 0x1205 c) s.dev).runs 8 = true → exec (.acqInjResultRead c) s = .next { s with dev := finish t.who St.OK 0x1205 (injResultWords (begun Op.OBJ_READ (withObj 0x1205 c) s.dev)) ((begun Op.OBJ_READ (withObj 0x1205 c) s.dev).uAcq fun a => { a with res := a.res.drop 1 }) })

/-- An accepted write of ACQ_CH sets FE_STALE for every channel in use whose mode, gain or termination changes, clears it for one turned off, holds at 0
the skew trims of converters that serve no odd half of a pair, and completes with OK. 2 ms after REF_EN rose REF_READY is set with interrupt 136,
and a self-calibration that waits for it begins. A reference that leaves its tolerance with REF_EN = 1 sets REF_FAULT and raises interrupt 137 and a
fault of class 2, which ends when it is back. Rows: acqChWrite, refReadySet, refFault, refRestored. -/
def Obligations.CaptureSettings : Prop :=
  (∀ (s : State) (c : MnrCmd) (t : Taken), otherTaken 0x1201 c s.dev = false ∧ t.arg % 65536 = 0x1201 → Starts Op.OBJ_WRITE (withObj 0x1201 c) s.dev t → writeAccepted (withObj 0x1201 c) t (begun Op.OBJ_WRITE (withObj 0x1201 c) s.dev) = true → exec (.acqChWrite c) s = .next { s with dev := finish t.who St.OK 0x1201 [] (refreshTrimSat (holdSkew (setObj 0x1201 (writtenWords (withObj 0x1201 c) t (begun Op.OBJ_WRITE (withObj 0x1201 c) s.dev)) ((begun Op.OBJ_WRITE (withObj 0x1201 c) s.dev).uCal fun x => { x with feStale := packBits ((List.range 64).map fun m => if fieldOf (writtenWords (withObj 0x1201 c) t (begun Op.OBJ_WRITE (withObj 0x1201 c) s.dev)) (Obj.ACQ_CH.MODE m) = 0 then false else (begun Op.OBJ_WRITE (withObj 0x1201 c) s.dev).cal.feStale.testBit m || (fieldOf (writtenWords (withObj 0x1201 c) t (begun Op.OBJ_WRITE (withObj 0x1201 c) s.dev)) (Obj.ACQ_CH.MODE m) != chMode m (begun Op.OBJ_WRITE (withObj 0x1201 c) s.dev) || fieldOf (writtenWords (withObj 0x1201 c) t (begun Op.OBJ_WRITE (withObj 0x1201 c) s.dev)) (Obj.ACQ_CH.PGA m) != cfg (Obj.ACQ_CH.PGA m) (begun Op.OBJ_WRITE (withObj 0x1201 c) s.dev) || fieldOf (writtenWords (withObj 0x1201 c) t (begun Op.OBJ_WRITE (withObj 0x1201 c) s.dev)) (Obj.ACQ_CH.TERM m) != cfg (Obj.ACQ_CH.TERM m) (begun Op.OBJ_WRITE (withObj 0x1201 c) s.dev))) })))) }) ∧
  (∀ (s : State) (t u : Nat), s.dev.pwr.mode ≠ .reset ∧ s.dev.pwr.mode ≠ .sleep ∧ s.dev.acq.refAt = some u ∧ s.dev.cal.run = none → exec (.refReadySet t) s = .next { s with dev := raise 136 (((s.dev.at_ t).at_ u).uAcq fun a => { a with refReady := true, refAt := none }) }) ∧
  (∀ (s : State) (t : Nat), s.dev.on 8 = true ∧ cfgB Obj.ACQ_CTL.REF_EN s.dev = true ∧ s.dev.acq.refBad = false → exec (.refFault t) s = .next { s with dev := faultRaise 2 137 (curLine s.dev) St.HW_FAULT (raise 137 ((s.dev.at_ t).uAcq fun a => { a with refFault := true, refBad := true })) }) ∧
  (∀ (s : State) (t : Nat), s.dev.on 8 = true → exec (.refRestored t) s = .next { s with dev := if s.dev.acq.refBad then faultClear 2 ((s.dev.at_ t).uAcq fun a => { a with refBad := false }) else s.dev.at_ t })

/-- A CAL_RUN that starts with SCOPE 0 or 1 while none runs and CALIBRATE's own has ended begins at once; with injected requests pending it is answered
DEFERRED, waits while the oldest of them is in service, and starts when that has ended. A pass whose results all agree and lie in range ends the
calibration; items that disagree count in DISAGREE with interrupt 161 each and are measured again, up to three times, after which they fail. A
CAL_SAVE that starts with ARG 0 while no store write is in progress takes the trims in force for the slot that does not hold the newest valid record
and erases that slot; in SCAN it waits for the next line start instead. While a supply failure is signalled the write stops and the command
completes with ABORTED. Where the body reads back with its CRC the header is programmed: the record is valid with its sequence number, interrupt 168
is raised, and the command completes with OK; the other slot is as it was. With a supply failure no header is programmed, and a body that does not
read back leaves the slot erased, which is the model's choice (assumption log 111). Rows: calRun, calRunDeferredStart, calPassEnd, calSave,
calStoreWriteDone. -/
def Obligations.CalibrationRuns : Prop :=
  (∀ (s : State) (c : MnrCmd) (t : Taken), Starts Op.CAL_RUN c s.dev t → t.arg ≤ 1 ∧ (begun Op.CAL_RUN c s.dev).cal.run = none ∧ ((begun Op.CAL_RUN c s.dev).pwr.mode = .calibrate → 3 ≤ (begun Op.CAL_RUN c s.dev).pwr.calStep) ∧ (begun Op.CAL_RUN c s.dev).acq.inj ≠ [] ∧ injReady (begun Op.CAL_RUN c s.dev).now (begun Op.CAL_RUN c s.dev) = true → exec (.calRun c) s = .next { s with dev := (defer t.who 0 ((begun Op.CAL_RUN c s.dev).uCal fun x => { x with run := some { state := 1, full := t.arg == 0, auto := false, mbx := t.who.mbx, tag := t.who.tag, sess := t.who.sess, items := [] } })).uCal fun x => { x with run := some { state := 1, full := t.arg == 0, auto := false, mbx := t.who.mbx, tag := t.who.tag, sess := t.who.sess, items := [] , serving := true } } }) ∧
  (∀ (s : State) (c : MnrCmd) (t : Taken), Starts Op.CAL_RUN c s.dev t → t.arg ≤ 1 ∧ (begun Op.CAL_RUN c s.dev).cal.run = none ∧ ((begun Op.CAL_RUN c s.dev).pwr.mode = .calibrate → 3 ≤ (begun Op.CAL_RUN c s.dev).pwr.calStep) ∧ (begun Op.CAL_RUN c s.dev).acq.inj ≠ [] ∧ injReady (begun Op.CAL_RUN c s.dev).now (begun Op.CAL_RUN c s.dev) = false → exec (.calRun c) s = .next { s with dev := calBegin (defer t.who 0 ((begun Op.CAL_RUN c s.dev).uCal fun x => { x with run := some { state := 1, full := t.arg == 0, auto := false, mbx := t.who.mbx, tag := t.who.tag, sess := t.who.sess, items := [] } })) }) ∧
  (∀ (s : State) (c : MnrCmd) (t : Taken), Starts Op.CAL_RUN c s.dev t → t.arg ≤ 1 ∧ (begun Op.CAL_RUN c s.dev).cal.run = none ∧ ((begun Op.CAL_RUN c s.dev).pwr.mode = .calibrate → 3 ≤ (begun Op.CAL_RUN c s.dev).pwr.calStep) ∧ (begun Op.CAL_RUN c s.dev).acq.inj = [] → exec (.calRun c) s = .next { s with dev := calBegin ((begun Op.CAL_RUN c s.dev).uCal fun x => { x with run := some { state := 1, full := t.arg == 0, auto := false, mbx := t.who.mbx, tag := t.who.tag, sess := t.who.sess, items := [] } }) }) ∧
  (∀ (s : State) (t : Nat) (r : CalRun), s.dev.on 8 = true ∧ s.dev.cal.run = some r ∧ r.state = 1 ∧ (r.serving = false ∨ injReady (s.dev.at_ t).now (s.dev.at_ t) = false) → exec (.calRunDeferredStart t) s = .next { s with dev := calBegin (s.dev.at_ t) } ∧ (calBegin (s.dev.at_ t)).cal.run.map (fun x => (x.state, x.items, x.full)) = some (if s.dev.acq.refReady then 2 else 6, calItems r.full s.dev, r.full)) ∧
  (∀ (s : State) (res : List (CalItem × Trim × Trim)) (t : Nat) (r : CalRun), s.dev.on 8 = true ∧ s.dev.acq.refReady = true ∧ s.dev.cal.run = some r ∧ 2 ≤ r.state ∧ r.state ≤ 5 ∧ r.items = res.map (·.1) ∧ noRepeat r.items = true → res.all (fun x => trimInRange (calResult x.1 x.2.1 s.dev) && trimInRange (calResult x.1 x.2.2 s.dev) && trimsAgree (calResult x.1 x.2.1 s.dev) (calResult x.1 x.2.2 s.dev)) = true → exec (.calPassEnd res t) s = .next { s with dev := calEnd { r with good := r.good ++ res.map fun x => (x.1, trimMean (calResult x.1 x.2.1 s.dev) (calResult x.1 x.2.2 s.dev)) } (s.dev.at_ t) }) ∧
  (∀ (s : State) (i : CalItem) (a b : Trim) (t : Nat) (r : CalRun), s.dev.on 8 = true ∧ s.dev.acq.refReady = true ∧ s.dev.cal.run = some r ∧ 2 ≤ r.state ∧ r.state ≤ 4 ∧ r.items = [i] ∧ trimInRange (calResult i a s.dev) = true ∧ trimInRange (calResult i b s.dev) = true ∧ trimsAgree (calResult i a s.dev) (calResult i b s.dev) = false → exec (.calPassEnd [(i, a, b)] t) s = .next { s with dev := (raise 161 ((s.dev.at_ t).uCal fun x => { x with disagree := sat16 x.disagree })).uCal fun x => { x with run := some { r with state := r.state + 1 } } }) ∧
  (∀ (s : State) (c : MnrCmd) (t : Taken), Starts Op.CAL_SAVE c s.dev t → t.arg = 0 ∧ (begun Op.CAL_SAVE c s.dev).cal.write = .idle ∧ s.dev.pwr.vinWarn = false → exec (.calSave c) s = .next { s with dev := (begun Op.CAL_SAVE c s.dev).uCal fun x => if (begun Op.CAL_SAVE c s.dev).pwr.mode = .scan then { x with saveMbx := some (t.who.mbx, t.who.tag, t.who.sess), write := .waitLine } else beginStoreWrite { x with saveMbx := some (t.who.mbx, t.who.tag, t.who.sess) } }) ∧
  (∀ (s : State) (c : MnrCmd) (t : Taken), Starts Op.CAL_SAVE c s.dev t → t.arg = 0 ∧ (begun Op.CAL_SAVE c s.dev).cal.write = .idle ∧ s.dev.pwr.vinWarn = true → exec (.calSave c) s = .next { s with dev := stopStore ((begun Op.CAL_SAVE c s.dev).uCal fun x => { x with saveMbx := some (t.who.mbx, t.who.tag, t.who.sess) }) }) ∧
  (∀ (s : State) (t slot : Nat) (r : CalRec), s.dev.on 1 = true ∧ s.dev.cal.write = .writing slot r ∧ s.dev.pwr.vinWarn = false ∧ readsBack slot r (programBody slot r s.dev.cal) = true → exec (.calStoreWriteDone t) s = .next { s with dev := finish? (saveWho s.dev) St.OK 0 [] (raise 168 ((s.dev.at_ t).uCal fun x => { putSlot x slot r with write := .idle, saveMbx := none })) }) ∧
  (∀ (s : State) (t slot : Nat) (r : CalRec), s.dev.on 1 = true ∧ s.dev.cal.write = .writing slot r ∧ (s.dev.pwr.vinWarn || !readsBack slot r (programBody slot r s.dev.cal)) = true → exec (.calStoreWriteDone t) s = .next { s with dev := if s.dev.pwr.vinWarn then stopStore (s.dev.at_ t) else (s.dev.at_ t).uCal fun x => putSlot x slot {} }) ∧
  (∀ (c : Cal), newestSlot c = some 0 → (beginStoreWrite c).slotA = c.slotA ∧ (beginStoreWrite c).slotB = {} ∧ (beginStoreWrite c).write = .writing 1 (calRecord ((c.slotA.seq + 1) % 4294967296) c))

/-- A SYSREF edge aligns the LMFC of every link that waits for it (state 1, not enabled in the same JCLK cycle) and takes it to state 2; on the other
aligned links it sets SYSREF_FAULT with interrupt 208 when SYSREF_MODE is 1 and the edge is off the period by more than SYSREF_TOL. Sync with a
transmitter within 300 ppm of LANE_RATE takes state 2 to 3 and sets CDR_LOCK of the link's lanes. A completed ILAS in state 3 that does not carry
the parameters of JLK_LINK faults the link (state 5, ILAS_MISMATCH, 209); otherwise the link enters DATA with its latency and interrupt 200 + l, and
a latency that moved by more than one JCLK period from the value before the re-initialisation sets LAT_SHIFT with interrupt 210 and a fault of class
4. Lanes that arrive beyond the release point or 512 octets apart in state 3 or 4 stop the link in state 5 with interrupt 192 + l; a re-
initialisation in state 2 to 4 returns it to state 2, counts it, drops CDR_LOCK of the lost lanes and raises 192 + l with a fault of class 4. In
other states nothing but the time changes. Rows: sysrefEdge, linkSyncLock, ilasReceived, linkReinit. -/
def Obligations.LinkBringUp : Prop :=
  (∀ (s : State) (t : Nat), s.dev.on 9 = true → exec (.sysrefEdge t) s = .next { s with dev := each (List.range 8) (fun l d => if (linkAt l d).state = 1 then (if jclkCycle t s.dev = (linkAt l d).enabledAt then d else updLink l (fun y => { y with lmfc := some (jclkCycle t s.dev), state := 2 }) d) else match (linkAt l d).lmfc with | some c0 => (if cfg Obj.JLK_CTL.SYSREF_MODE d = 1 ∧ cfg Obj.JLK_CTL.SYSREF_TOL d < min (((jclkCycle t s.dev : Int) - c0).natAbs % lmfcPeriod l d) (lmfcPeriod l d - ((jclkCycle t s.dev : Int) - c0).natAbs % lmfcPeriod l d) then raise 208 (d.uJlk fun j => { j with sysrefFault := true }) else d) | none => d) (s.dev.at_ t) }) ∧
  (∀ (s : State) (l : Fin 8) (kbps t : Nat), s.dev.on 9 = true ∧ (linkAt l.val s.dev).state = 2 ∧ rateOk l.val kbps s.dev = true → exec (.linkSyncLock l ⟨kbps, t⟩) s = .next { s with dev := updLink l.val (fun x => { x with state := 3 }) ((s.dev.at_ t).uJlk fun j => { j with cdrLock := j.cdrLock ||| laneMaskOf l.val s.dev }) }) ∧
  (∀ (s : State) (l : Fin 8) (kbps t : Nat), s.dev.on 9 = true ∧ ((linkAt l.val s.dev).state ≠ 2 ∨ rateOk l.val kbps s.dev = false) → exec (.linkSyncLock l ⟨kbps, t⟩) s = .next { s with dev := (s.dev.at_ t) }) ∧
  (∀ (s : State) (l : Fin 8) (i : Ilas) (arrive : List Nat) (lat t : Nat), s.dev.on 9 = true ∧ (linkAt l.val s.dev).state = 3 ∧ cfg (Obj.JLK_LINK.STD l.val) s.dev = 0 ∧ ilasMatches l.val i s.dev = false → exec (.ilasReceived l i ⟨arrive, lat⟩ t) s = .next { s with dev := raise 209 (updLink l.val (fun x => { x with state := 5 }) ((s.dev.at_ t).uJlk fun j => { j with ilas := setBit j.ilas l.val true })) }) ∧
  (∀ (s : State) (l : Fin 8) (i : Ilas) (arrive : List Nat) (lat t : Nat), s.dev.on 9 = true ∧ (linkAt l.val s.dev).state = 3 ∧ (cfg (Obj.JLK_LINK.STD l.val) s.dev = 1 ∨ ilasMatches l.val i s.dev = true) ∧ deskewBad l.val arrive s.dev = false → ((linkAt l.val s.dev).latBefore.all fun b => decide (((lat : Int) - b).natAbs * cfg Obj.JLK_CTL.JCLK_KHZ s.dev ≤ 1000000000)) = true → exec (.ilasReceived l i ⟨arrive, lat⟩ t) s = .next { s with dev := faultClearSrc 4 (192 + l.val) (raise (200 + l.val) (updLink l.val (fun x => { x with state := 4, lat := lat, latBefore := none, errAt := [], frame := 0, errTo := none, closed := [] }) (s.dev.at_ t))) }) ∧
  (∀ (s : State) (l : Fin 8) (i : Ilas) (arrive : List Nat) (lat t b : Nat), s.dev.on 9 = true ∧ (linkAt l.val s.dev).state = 3 ∧ (cfg (Obj.JLK_LINK.STD l.val) s.dev = 1 ∨ ilasMatches l.val i s.dev = true) ∧ deskewBad l.val arrive s.dev = false → (linkAt l.val s.dev).latBefore = some b ∧ 1000000000 < ((lat : Int) - b).natAbs * cfg Obj.JLK_CTL.JCLK_KHZ s.dev → ∃ e : Dev, e = faultClearSrc 4 (192 + l.val) (raise (200 + l.val) (updLink l.val (fun x => { x with state := 4, lat := lat, latBefore := none, latShift := true, errAt := [], frame := 0, errTo := none, closed := [] }) (s.dev.at_ t))) ∧ exec (.ilasReceived l i ⟨arrive, lat⟩ t) s = .next { s with dev := faultRaise 4 210 (curLine e) St.HW_FAULT (raise 210 (e.uJlk fun j => { j with latShift := setBit j.latShift l.val true })) }) ∧
  (∀ (s : State) (l : Fin 8) (i : Ilas) (arrive : List Nat) (lat t : Nat), s.dev.on 9 = true ∧ (linkAt l.val s.dev).state = 3 ∧ (cfg (Obj.JLK_LINK.STD l.val) s.dev = 1 ∨ ilasMatches l.val i s.dev = true) ∧ deskewBad l.val arrive s.dev = true → exec (.ilasReceived l i ⟨arrive, lat⟩ t) s = .next { s with dev := raise (192 + l.val) ((cutOpened (.link l) (updLink l.val (fun y => { y with state := 5 }) (s.dev.at_ t))).uJlk fun j => { j with deskew := true }) }) ∧
  (∀ (s : State) (l : Fin 8) (i : Ilas) (arrive : List Nat) (lat t : Nat), s.dev.on 9 = true ∧ (linkAt l.val s.dev).state ≠ 3 → exec (.ilasReceived l i ⟨arrive, lat⟩ t) s = .next { s with dev := (s.dev.at_ t) }) ∧
  (∀ (s : State) (l : Fin 8) (lost t : Nat), s.dev.on 9 = true ∧ (linkAt l.val s.dev).state = 4 → ∃ e : Dev, e = (cutOpened (.link l) (updLink l.val (fun y => { y with state := 2, latBefore := some y.lat, reinits := sat8 y.reinits, errAt := [], errTo := none, closed := [], frame := 0 }) (s.dev.at_ t))).uJlk (fun j => { j with cdrLock := maskAndNot j.cdrLock lost }) ∧ exec (.linkReinit l lost t) s = .next { s with dev := faultRaise 4 (192 + l.val) (curLine e) St.HW_FAULT (raise (192 + l.val) e) }) ∧
  (∀ (s : State) (l : Fin 8) (lost t : Nat), s.dev.on 9 = true ∧ ((linkAt l.val s.dev).state = 2 ∨ (linkAt l.val s.dev).state = 3) → ∃ e : Dev, e = (cutOpened (.link l) (updLink l.val (fun y => { y with state := 2, reinits := sat8 y.reinits, errAt := [], errTo := none, closed := [], frame := 0 }) (s.dev.at_ t))).uJlk (fun j => { j with cdrLock := maskAndNot j.cdrLock lost }) ∧ exec (.linkReinit l lost t) s = .next { s with dev := faultRaise 4 (192 + l.val) (curLine e) St.HW_FAULT (raise (192 + l.val) e) })

/-- At its mark, the control bits of a frame or the mark of a raw lane, at or after the armed window's instant, a source that is up cuts a window still
open, opens the armed one with nothing taken, and a raw lane's count of missed windows returns to 0. A frame of a link in DATA sets LANE_ERR; on a
JESD204B link with an open window of a known line it delivers, for every converter stream and each of its samples inside SKIP and COUNT, the sample
left-justified to 16 bits with its index, or a substitute where a lane was in error, which also marks the line DEGRADED; the window then counts the
samples and closes after SKIP + COUNT, and ERR_LIMIT errors within 1 ms re-initialise the link. A JESD204C link counts its frames in the extended
multiblock, and a word of an aligned raw lane that is not coded is one sample of its open window. A source that is not up delivers nothing and
changes only the time. Rows: linkWindowOpen, linkFrame. -/
def Obligations.LinkWindowsAndFrames : Prop :=
  (∀ (s : State) (src : LinkSrc) (t : Nat), s.dev.on 9 = true →
    ((∀ (mark : List Nat) (w : LinkWin), armedOf src s.dev = some w ∧ windowDue src t s.dev = true ∧ (match src with | .link l => solFrame l.val (mark.headD 0) s.dev | .lane p => solMark p.val mark s.dev) = true → ∃ e : Dev, e = (match src with | .lane p => updLane p.val (fun x => { x with missed := 0 }) (cutOpened src ((s.dev.at_ t).at_ t)) | .link _ => cutOpened src ((s.dev.at_ t).at_ t)) ∧ exec (.linkWindowOpen src ⟨mark, t⟩) s = .next { s with dev := setArmed src none (setOpened src (some { w with taken := 0 }) e) }) ∧
    (∀ (mark : List Nat), (windowDue src t s.dev = false ∨ (match src with | .link l => solFrame l.val (mark.headD 0) s.dev | .lane p => solMark p.val mark s.dev) = false) → exec (.linkWindowOpen src ⟨mark, t⟩) s = .next { s with dev := (s.dev.at_ t) }) ∧
    (∀ (data : List (List Nat)) (errs : List (Fin 32)), srcUp src s.dev = false → exec (.linkFrame src data errs t) s = .next { s with dev := (s.dev.at_ t) }))) ∧
  (∀ (s : State) (l : Fin 8) (t r : Nat) (z : Link), s.dev.on 9 = true ∧ srcUp (.link l) s.dev = true ∧ r = cfg (Obj.JLK_LINK.S l.val) s.dev ∧ z = linkAt l.val s.dev →
    ((∀ (data : List (List Nat)) (errs : List (Fin 32)), cfg (Obj.JLK_LINK.STD l.val) s.dev = 0 ∧ armedOf (.link l) s.dev = none ∧ openedOf (.link l) s.dev = none ∧ (errs = [] ∨ (recentErrs z.errAt errs.length t).length < cfg (Obj.JLK_LINK.ERR_LIMIT l.val) s.dev) → exec (.linkFrame (.link l) data errs t) s = .next { s with dev := updLink l.val (fun y => { y with errAt := recentErrs y.errAt errs.length t, frame := 0, errTo := none, closed := [] }) (((s.dev.at_ t).at_ t).uJlk fun j => { j with laneErr := j.laneErr ||| errs.foldl (fun m p => m ||| 2 ^ p.val) 0 }) }) ∧
    (∀ (data : List (List Nat)) (w : LinkWin) (k : Nat), cfg (Obj.JLK_LINK.STD l.val) s.dev = 0 ∧ armedOf (.link l) s.dev = none ∧ openedOf (.link l) s.dev = some w ∧ w.owner = some k ∧ z.errTo = none → exec (.linkFrame (.link l) data [] t) s = .next { s with dev := updLink l.val (fun y => { y with errAt := recentErrs y.errAt 0 t, frame := 0, errTo := none, closed := [] }) (setOpened (.link l) (if w.skip + w.count ≤ w.taken + cfg (Obj.JLK_LINK.S l.val) s.dev then none else some { w with taken := w.taken + cfg (Obj.JLK_LINK.S l.val) s.dev }) (each (mapIx (fun m st => (m, st)) (srcStreams (.link l) s.dev)) (fun x d => each ((List.range r).filter fun i => decide (w.skip ≤ w.taken + i) && decide (w.taken + i < w.skip + w.count)) (fun i d => toHeddle { stream := x.2, j := w.taken + i - w.skip, line := k, code := frameSample l.val x.1 i data s.dev * 2 ^ (16 - cfg (Obj.JLK_LINK.N l.val) s.dev), rng := 0, subst := false, at_ := t } d) d) ((s.dev.at_ t).at_ t))) }) ∧
    (∀ (data : List (List Nat)) (w : LinkWin) (errs : List (Fin 32)) (k : Nat), cfg (Obj.JLK_LINK.STD l.val) s.dev = 0 ∧ armedOf (.link l) s.dev = none ∧ openedOf (.link l) s.dev = some w ∧ w.owner = some k ∧ errs ≠ [] → ∃ e : Dev, e = updLink l.val (fun y => { y with errAt := recentErrs y.errAt errs.length t, frame := 0, errTo := none, closed := [] }) (setOpened (.link l) (if w.skip + w.count ≤ w.taken + cfg (Obj.JLK_LINK.S l.val) s.dev then none else some { w with taken := w.taken + cfg (Obj.JLK_LINK.S l.val) s.dev }) (each (mapIx (fun m st => (m, st)) (srcStreams (.link l) s.dev)) (fun x d => each ((List.range r).filter fun i => decide (w.skip ≤ w.taken + i) && decide (w.taken + i < w.skip + w.count)) (fun i d => toHeddle { stream := x.2, j := w.taken + i - w.skip, line := k, code := 0, rng := 0, subst := true, at_ := t } d) d) (if (List.range r).any (fun i => decide (w.skip ≤ w.taken + i) && decide (w.taken + i < w.skip + w.count)) then markLine k FL.DEGRADED (((s.dev.at_ t).at_ t).uJlk fun j => { j with laneErr := j.laneErr ||| errs.foldl (fun m p => m ||| 2 ^ p.val) 0 }) else (((s.dev.at_ t).at_ t).uJlk fun j => { j with laneErr := j.laneErr ||| errs.foldl (fun m p => m ||| 2 ^ p.val) 0 })))) ∧ exec (.linkFrame (.link l) data errs t) s = .next { s with dev := if (recentErrs z.errAt errs.length t).length < cfg (Obj.JLK_LINK.ERR_LIMIT l.val) s.dev then e else linkReinit l 0 e }) ∧
    (∀ (data : List (List Nat)), cfg (Obj.JLK_LINK.STD l.val) s.dev = 1 ∧ armedOf (.link l) s.dev = none ∧ openedOf (.link l) s.dev = none → ∃ d, exec (.linkFrame (.link l) data [] t) s = .next { s with dev := d } ∧ (linkAt l.val d).frame = (if l.val < s.dev.jlk.link.length then (z.frame + 1) % max 1 (256 * cfg (Obj.JLK_LINK.E l.val) s.dev / max 1 (cfg (Obj.JLK_LINK.F l.val) s.dev)) else 0) ∧ d.hdl = s.dev.hdl ∧ d.objs = s.dev.objs ∧ d.hostMem = s.dev.hostMem ∧ d.sec = s.dev.sec))) ∧
  (∀ (s : State) (p : Fin 32) (t : Nat), s.dev.on 9 = true ∧ srcUp (.lane p) s.dev = true ∧ armedOf (.lane p) s.dev = none →
    ∀ (v g : Nat), groupOfLane p.val s.dev = some g ∧ cfg (Obj.JLK_RAW.CODING g) s.dev = 0 → exec (.linkFrame (.lane p) [[v]] [] t) s = .next { s with dev := takeSamples (.lane p) 1 (fun _ _ => v % 2 ^ cfg (Obj.JLK_RAW.WIDTH g) s.dev * 2 ^ (16 - cfg (Obj.JLK_RAW.WIDTH g) s.dev)) false t (updLane p.val (fun y => { y with hist := (y.hist ++ [v]).drop (y.hist.length - 2) }) ((s.dev.at_ t).at_ t)) })

/-- The oldest sample on its way is discarded when its line primes or is to be acquired again, counts as unmapped when no segment of its line's bank
claims it, and otherwise becomes a pixel of its line: code less DARK, linearised, times the total gain of GAIN, SHADE and phase gain, with the
shading tap, its RANGE, and INVALID for a substituted sample; a pixel that saturates counts its line once in CLIP_GAIN. The complete line with the
lowest open index leaves step 5: it is passed, no longer held, and with one row enters the packing queue. The next output line is packed with the
header of its line into one packet that every packing target's queue takes. While packing is stalled, or with nothing to do, only the time changes.
Rows: heddleSample, heddleLineDone, packLine. -/
def Obligations.HeddleAndPacking : Prop :=
  (∀ (s : State) (t : Nat) (err : TableErr), s.dev.on 10 = true ∧ s.dev.hdl.inq = [] → exec (.heddleSample err t) s = .next { s with dev := (s.dev.at_ t) }) ∧
  (∀ (s : State) (t : Nat) (err : TableErr) (x : Sample) (rest : List Sample), s.dev.on 10 = true ∧ s.dev.hdl.inq = x :: rest ∧ (primes x.line s.dev = true ∨ (s.dev.hdl.discardFrom.map fun r => decide (r ≤ x.line)).getD false = true) → exec (.heddleSample err t) s = .next { s with dev := (s.dev.at_ t).uHdl fun h => { h with inq := rest } }) ∧
  (∀ (s : State) (t : Nat) (err : TableErr) (x : Sample) (rest : List Sample) (r : LineRec), s.dev.on 10 = true ∧ s.dev.hdl.inq = x :: rest ∧ primes x.line s.dev = false ∧ (s.dev.hdl.discardFrom.map fun r => decide (r ≤ x.line)).getD false = false → lineRec x.line s.dev = some r ∧ r.passed = false ∧ (bankSet (bankOfLine x.line s.dev) s.dev).segFor x.stream x.j = none → exec (.heddleSample err t) s = .next { s with dev := (histRaw x.stream x.line x.code ((s.dev.at_ t).uHdl fun h => { h with inq := rest })).uHdl fun h => { h with unmapped := sat16 h.unmapped } }) ∧
  (∀ (s : State) (t : Nat) (x : Sample) (rest : List Sample) (r : LineRec) (l : HLine) (si e pos : Nat) (seg : Seg) (b : HdlSet) (y3 : Int), s.dev.on 10 = true ∧ s.dev.hdl.inq = x :: rest ∧ primes x.line s.dev = false ∧ (s.dev.hdl.discardFrom.map fun r => decide (r ≤ x.line)).getD false = false → lineRec x.line s.dev = some r ∧ r.passed = false ∧ heldLine x.line s.dev = some l ∧ l.bank = bankOfLine x.line s.dev ∧ l.forced = false → b = bankSet l.bank s.dev ∧ b.segFor x.stream x.j = some (si, seg) ∧ seg.rchk = false ∧ b.poison = [] ∧ pos = (seg.place x.j).1 * b.width + (seg.place x.j).2.toNat ∧ Sparse.get none l.px pos = none → Sparse.get none b.tab (b.addr r.phase (seg.place x.j).1 (seg.place x.j).2.toNat) = some e ∧ y3 = gainStep (linearize b seg.lin ((x.code : Int) - (e % 65536 : Nat))) (totalGain (e / 65536) (Sparse.get 0x4000 l.shade (seg.place x.j).2.toNat) l.pg) → ∃ f : Dev, f = (histRaw x.stream x.line x.code ((s.dev.at_ t).uHdl fun h => { h with inq := rest })) ∧ exec (.heddleSample .none t) s = .next { s with dev := (if sat24 y3 != y3 && !l.clip then f.uHdl fun h => { h with clipGain := sat16 h.clipGain } else f).uHdl fun h => { h with lines := h.lines.map fun y => if y.k = l.k then { y with px := Sparse.set none y.px pos (some { y3 := sat24 y3, yu := sat24 (gainStep (linearize b seg.lin ((x.code : Int) - (e % 65536 : Nat))) (e / 65536)), rng := x.rng, invalid := x.subst }), clip := y.clip || (sat24 y3 != y3) } else y } }) ∧
  (∀ (s : State) (t : Nat), s.dev.on 10 = true ∧ (packStalled s.dev = true ∨ nextDone s.dev = none) → exec (.heddleLineDone t) s = .next { s with dev := (s.dev.at_ t) }) ∧
  (∀ (s : State) (t : Nat) (r : LineRec) (l : HLine), s.dev.on 10 = true ∧ packStalled s.dev = false ∧ nextDone s.dev = some (r, l) ∧ (bankSet l.bank s.dev).rows ≤ 1 ∧ (rowsOf s.dev ≤ 1 ∨ s.dev.hdl.packQ.length ≤ 1) → ∃ d, exec (.heddleLineDone t) s = .next { s with dev := d } ∧ (lineRec l.k d).map (·.passed) = some true ∧ heldLine l.k d = none ∧ d.hdl.lastPassed = some l.k ∧ d.hdl.packQ.map (·.k) = s.dev.hdl.packQ.map (·.k) ++ [l.k] ∧ d.hdl.inq = s.dev.hdl.inq ∧ d.objs = s.dev.objs ∧ d.hostMem = s.dev.hostMem ∧ d.sec = s.dev.sec) ∧
  (∀ (s : State) (t : Nat), s.dev.on 10 = true ∧ (s.dev.hdl.packQ = [] ∨ packStalled s.dev = true) → exec (.packLine t) s = .next { s with dev := (s.dev.at_ t) }) ∧
  (∀ (s : State) (t : Nat) (o : OutLine) (rest : List OutLine) (r : LineRec) (ws : List (List Word)) (px : List Int) (clip : Bool), s.dev.on 10 = true ∧ s.dev.hdl.packQ = o :: rest ∧ packStalled s.dev = false ∧ lineRec o.k s.dev = some r ∧ s.dev.pace.verify = none ∧ packRecord o r s.dev = (ws, px, clip) → ∃ e : Dev, e = (histOutput o.k r.phase px (outBits s.dev == 32) (if clip then ((s.dev.at_ t).uHdl fun h => { h with packQ := rest }).uHdl fun h => { h with clipPack := sat16 h.clipPack } else (s.dev.at_ t).uHdl fun h => { h with packQ := rest })).uPace (fun p => { p with recBytes := 32 * ws.length }) ∧ exec (.packLine t) s = .next { s with dev := each (packTargets s.dev) (fun q d => pushPacket q (packet ws) d) { e with lines := e.lines.filter fun l => !((l.passed || l.priming) && decide (l.k ≤ o.k)) } })

/-- An accepted HDL_SWAP with ACTION COPY sets LOAD_STATE 1 and is answered when the copy ends: the load bank then holds the live set, LOAD_STATE is 0,
interrupt 232 is raised and the command answers OK. STAGE while a scan runs or is held sets LOAD_STATE 2 with the point of HDL_CTL.SWAP_AT, for line
starts after this instant; elsewhere the set goes live at once. CANCEL takes a staged set back and answers OK. An accepted HDL_DEF_ADD adds its
entry to the live list, or reports that it is full, and answers; an entry that is not listed is listed afterwards where there is room. A read of
HDL_DEF_LOG that needs no buffer returns the log and empties it. Rows: hdlSwapCopy, hdlSwapStage, hdlSwapCancel, hdlCopyDone, hdlDefAdd,
hdlDefLogRead. -/
def Obligations.BankSwapAndDefects : Prop :=
  (∀ (s : State) (c : MnrCmd) (t : Taken), otherAction 1 c s.dev = false ∧ otherTaken 0x1505 (withAction 1 c) s.dev = false ∧ t.arg % 65536 = 0x1505 → Starts Op.OBJ_WRITE (withObj 0x1505 (withAction 1 c)) s.dev t → writeAccepted (withObj 0x1505 (withAction 1 c)) t (begun Op.OBJ_WRITE (withObj 0x1505 (withAction 1 c)) s.dev) = true ∧ swapAction (writtenWords (withObj 0x1505 (withAction 1 c)) t (begun Op.OBJ_WRITE (withObj 0x1505 (withAction 1 c)) s.dev)) = 1 → exec (.hdlSwapCopy c) s = .next { s with dev := (begun Op.OBJ_WRITE (withObj 0x1505 (withAction 1 c)) s.dev).uHdl fun h => { h with loadState := 1, copyMbx := some (t.who.mbx, t.who.tag, t.who.sess) } }) ∧
  (∀ (s : State) (c : MnrCmd) (t : Taken), otherAction 2 c s.dev = false ∧ otherTaken 0x1505 (withAction 2 c) s.dev = false ∧ t.arg % 65536 = 0x1505 → Starts Op.OBJ_WRITE (withObj 0x1505 (withAction 2 c)) s.dev t → writeAccepted (withObj 0x1505 (withAction 2 c)) t (begun Op.OBJ_WRITE (withObj 0x1505 (withAction 2 c)) s.dev) = true ∧ swapAction (writtenWords (withObj 0x1505 (withAction 2 c)) t (begun Op.OBJ_WRITE (withObj 0x1505 (withAction 2 c)) s.dev)) = 2 → exec (.hdlSwapStage c) s = .next { s with dev := finish t.who St.OK 0x1505 [] (if scanning (begun Op.OBJ_WRITE (withObj 0x1505 (withAction 2 c)) s.dev) then (((begun Op.OBJ_WRITE (withObj 0x1505 (withAction 2 c)) s.dev).uHdl fun h => { h with shadeReset := swapShade (writtenWords (withObj 0x1505 (withAction 2 c)) t (begun Op.OBJ_WRITE (withObj 0x1505 (withAction 2 c)) s.dev)) }).uSpn fun x => { x with stagedAt := Sparse.set 0 x.stagedAt 0x1505 ((begun Op.OBJ_WRITE (withObj 0x1505 (withAction 2 c)) s.dev).now + 1) }).uHdl fun h => { h with loadState := 2, atLine := cfgB Obj.HDL_CTL.SWAP_AT (begun Op.OBJ_WRITE (withObj 0x1505 (withAction 2 c)) s.dev) } else bankSwapNow ((begun Op.OBJ_WRITE (withObj 0x1505 (withAction 2 c)) s.dev).uHdl fun h => { h with shadeReset := swapShade (writtenWords (withObj 0x1505 (withAction 2 c)) t (begun Op.OBJ_WRITE (withObj 0x1505 (withAction 2 c)) s.dev)) })) }) ∧
  (∀ (s : State) (c : MnrCmd) (t : Taken), otherAction 3 c s.dev = false ∧ otherTaken 0x1505 (withAction 3 c) s.dev = false ∧ t.arg % 65536 = 0x1505 → Starts Op.OBJ_WRITE (withObj 0x1505 (withAction 3 c)) s.dev t → writeAccepted (withObj 0x1505 (withAction 3 c)) t (begun Op.OBJ_WRITE (withObj 0x1505 (withAction 3 c)) s.dev) = true ∧ swapAction (writtenWords (withObj 0x1505 (withAction 3 c)) t (begun Op.OBJ_WRITE (withObj 0x1505 (withAction 3 c)) s.dev)) = 3 → exec (.hdlSwapCancel c) s = .next { s with dev := finish t.who St.OK 0x1505 [] (if (begun Op.OBJ_WRITE (withObj 0x1505 (withAction 3 c)) s.dev).hdl.loadState = 2 then (begun Op.OBJ_WRITE (withObj 0x1505 (withAction 3 c)) s.dev).uHdl fun h => { h with loadState := 0, shadeReset := false } else (begun Op.OBJ_WRITE (withObj 0x1505 (withAction 3 c)) s.dev)) }) ∧
  (∀ (s : State) (t : Nat), s.dev.on 10 = true ∧ s.dev.hdl.loadState = 1 → exec (.hdlCopyDone t) s = .next { s with dev := finish? (s.dev.hdl.copyMbx.map fun x => { mbx := x.1, tag := x.2.1, op := Op.OBJ_WRITE, sess := x.2.2 }) St.OK 0x1505 [] (raise 232 (setBank (!s.dev.hdl.live) (liveSet s.dev) ((s.dev.at_ t).uHdl fun h => { h with loadState := 0, copyMbx := none }))) }) ∧
  (∀ (s : State) (t : Nat), s.dev.on 10 = true ∧ s.dev.hdl.loadState ≠ 1 → exec (.hdlCopyDone t) s = .next { s with dev := (s.dev.at_ t) }) ∧
  (∀ (s : State) (c : MnrCmd) (t : Taken), otherTaken 0x1506 c s.dev = false ∧ t.arg % 65536 = 0x1506 → Starts Op.OBJ_WRITE (withObj 0x1506 c) s.dev t → writeAccepted (withObj 0x1506 c) t (begun Op.OBJ_WRITE (withObj 0x1506 c) s.dev) = true → exec (.hdlDefAdd c) s = .next { s with dev := finish t.who (addDefect ((writtenWords (withObj 0x1506 c) t (begun Op.OBJ_WRITE (withObj 0x1506 c) s.dev)).headD 0).toNat (begun Op.OBJ_WRITE (withObj 0x1506 c) s.dev)).1 (if (addDefect ((writtenWords (withObj 0x1506 c) t (begun Op.OBJ_WRITE (withObj 0x1506 c) s.dev)).headD 0).toNat (begun Op.OBJ_WRITE (withObj 0x1506 c) s.dev)).1 = St.OK then 0x1506 else 0) [] (addDefect ((writtenWords (withObj 0x1506 c) t (begun Op.OBJ_WRITE (withObj 0x1506 c) s.dev)).headD 0).toNat (begun Op.OBJ_WRITE (withObj 0x1506 c) s.dev)).2 }) ∧
  (∀ (d : Dev) (e : Nat), (liveSet d).hasDefect e = false ∧ (liveSet d).defects.length < 8192 ∧ d.hdl.bank.length = 2 → (addDefect e d).1 = St.OK ∧ (liveSet (addDefect e d).2).hasDefect e = true ∧ (addDefect e d).2.hdl.defAdded = sat16 d.hdl.defAdded) ∧
  (∀ (s : State) (c : MnrCmd) (t : Taken), otherTaken 0x150A c s.dev = false ∧ t.arg = 0x150A ∧ s.dev.hdl.defLog.length < 13 → Starts Op.OBJ_READ (withObj 0x150A c) s.dev t → (begun Op.OBJ_READ (withObj 0x150A c) s.dev).runs 10 = true ∧ objInProgress 0x150A (begun Op.OBJ_READ (withObj 0x150A c) s.dev) = false ∧ (begun Op.OBJ_READ (withObj 0x150A c) s.dev).hdl.defLog.length < 13 → exec (.hdlDefLogRead c) s = .next { s with dev := finish t.who St.OK 0x150A (defLogWords (begun Op.OBJ_READ (withObj 0x150A c) s.dev)) ((begun Op.OBJ_READ (withObj 0x150A c) s.dev).uHdl fun h => { h with defLog := [] }) })

/-- With SHADE_EN and at least 2^UPD lines committed for a table phase, an update takes them off the count; where no column has MIN_N values nothing
more happens, and otherwise the phase's level is stored, every column with MIN_N values is staged a target, interrupt 260 tells of each target at a
limit, and entries that differ from their targets begin to move. With fewer lines, or without SHADE_EN, only the time changes. A histogram engine
whose first LINES lines have all been counted whole copies their sum, with the last line's index and the count of copies, raises interrupt 256 + k
and goes on with what later lines brought; before that only the time changes. Rows: statShadeUpdate, histSnapshot. -/
def Obligations.StatisticsUpdates : Prop :=
  (∀ (s : State) (tp : Fin 8) (t : Nat), s.dev.on 10 = true ∧ (cfgB Obj.STAT_CTL.SHADE_EN s.dev = false ∨ at' s.dev.stat.committed tp.val 0 < 2 ^ cfg Obj.STAT_CTL.UPD s.dev) → exec (.statShadeUpdate tp t) s = .next { s with dev := (s.dev.at_ t) }) ∧
  (∀ (s : State) (tp : Fin 8) (t : Nat), s.dev.on 10 = true ∧ cfgB Obj.STAT_CTL.SHADE_EN s.dev = true ∧ 2 ^ cfg Obj.STAT_CTL.UPD s.dev ≤ at' s.dev.stat.committed tp.val 0 ∧ phaseLevel tp.val s.dev = none → exec (.statShadeUpdate tp t) s = .next { s with dev := (s.dev.at_ t).uStat fun x => { x with committed := upd x.committed tp.val (· - 2 ^ cfg Obj.STAT_CTL.UPD s.dev) } }) ∧
  (∀ (s : State) (tp : Fin 8) (t : Nat) (lvl : Int), s.dev.on 10 = true ∧ cfgB Obj.STAT_CTL.SHADE_EN s.dev = true ∧ 2 ^ cfg Obj.STAT_CTL.UPD s.dev ≤ at' s.dev.stat.committed tp.val 0 ∧ phaseLevel tp.val s.dev = some lvl → ∃ e : Dev, e = ((((at' s.dev.stat.n tp.val []).filter fun x => decide (cfg Obj.STAT_CTL.MIN_N s.dev ≤ x.2)).map Prod.fst).foldl (stageTarget tp.val lvl) (((s.dev.at_ t).uStat fun x => { x with committed := upd x.committed tp.val (· - 2 ^ cfg Obj.STAT_CTL.UPD s.dev) }).uStat fun x => { x with level := put x.level tp.val (ofS 16 (lvl / 4096)), limitCols := 0 })) ∧ exec (.statShadeUpdate tp t) s = .next { s with dev := if 0 < settlingEntries e then e.uStat fun x => { x with moving := true } else shadeSettled e }) ∧
  (∀ (s : State) (k : Fin 4) (t n : Nat) (now : List (Nat × Sparse Nat)), s.dev.on 10 = true ∧ n = cfg (Obj.STAT_HIST_CFG.LINES k.val) s.dev ∧ cfg (Obj.STAT_HIST_CFG.SRC k.val) s.dev ≠ 0 ∧ n ≤ (at' s.dev.stat.hist k.val {}).lines.length ∧ now = (at' s.dev.stat.hist k.val {}).lines.take n ∧ now.all (fun x => histDone (cfg (Obj.STAT_HIST_CFG.SRC k.val) s.dev) x.1 s.dev) = true → exec (.histSnapshot k t) s = .next { s with dev := raise (256 + k.val) ((s.dev.at_ t).uStat fun x => { x with hist := put x.hist k.val { lines := (at' s.dev.stat.hist k.val {}).lines.drop n, snap := histSum now, snapLine := (now.getLast?.map Prod.fst).getD 0, snaps := wrap32 ((at' s.dev.stat.hist k.val {}).snaps + 1) } }) }) ∧
  (∀ (s : State) (k : Fin 4) (t : Nat), s.dev.on 10 = true ∧ (cfg (Obj.STAT_HIST_CFG.SRC k.val) s.dev = 0 ∨ (at' s.dev.stat.hist k.val {}).lines.length < cfg (Obj.STAT_HIST_CFG.LINES k.val) s.dev) → exec (.histSnapshot k t) s = .next { s with dev := (s.dev.at_ t) })

/-- A producer's next word enters its queue where there is room, and stalls on a full one; a pop that waits completes with it. The Reel reader of a
ring's queue takes the next record when the words of the one before are pushed. A pop of a writer's payload word moves it into the record being
written, poisoned where its parity fails, and one of a ring's queue into the record being assembled; one that finds no word waits. The watermark is
evaluated after each access that ends the Skein cycle. An accepted write of SKN_QUEUE empties every queue, a packet that is sent in part being
aborted, and starts the groups whose queues have come. Rows: skeinPush, skeinPop, sknQueueWrite. -/
def Obligations.SkeinPushAndPop : Prop :=
  (∀ (s : State) (q : Fin 32) (ue : List Nat) (t : Nat), s.dev.on 11 = true ∧ cycleGoesOn q t s.pending = false ∧ qRole q.val s.dev ≠ 3 ∧ qRole q.val s.dev ≠ 4 ∧ (queueAt q.val s.dev).wait = [] → exec (.skeinPush q ⟨ue, t⟩) s = .next { s with dev := (s.dev.at_ t) }) ∧
  (∀ (s : State) (q : Fin 32) (ue : List Nat) (t : Nat) (w : QWord) (ws : List QWord), s.dev.on 11 = true ∧ cycleGoesOn q t s.pending = false ∧ qRole q.val s.dev ≠ 3 ∧ qRole q.val s.dev ≠ 4 ∧ (queueAt q.val s.dev).wait = w :: ws ∧ hasRoom q.val s.dev = true ∧ (queueAt q.val s.dev).waitPop = none → exec (.skeinPush q ⟨ue, t⟩) s = .next { s with dev := evalQueue q.val (updQueue q.val (fun x => { x with wait := ws, stalled := false }) (pushWord q.val w (s.dev.at_ t))) }) ∧
  (∀ (s : State) (q : Fin 32) (ue : List Nat) (t flip : Nat) (w : QWord) (ws : List QWord) (header wue : Bool), s.dev.on 11 = true ∧ cycleGoesOn q t s.pending = false ∧ qRole q.val s.dev ≠ 3 ∧ qRole q.val s.dev ≠ 4 ∧ (queueAt q.val s.dev).wait = w :: ws ∧ hasRoom q.val s.dev = true ∧ (queueAt q.val s.dev).waitPop = some (header, flip, wue) → ∃ e : Dev, e = updQueue q.val (fun x => { x with waitPop := none }) (updQueue q.val (fun x => { x with wait := ws, stalled := false }) (pushWord q.val w (s.dev.at_ t))) ∧ exec (.skeinPush q ⟨ue, t⟩) s = .next { s with dev := evalQueue q.val (if header then reelHeaderPop q.val flip e else skeinPop q.val flip wue e) }) ∧
  (∀ (s : State) (q : Fin 32) (ue : List Nat) (t : Nat) (w : QWord) (ws : List QWord), s.dev.on 11 = true ∧ cycleGoesOn q t s.pending = false ∧ qRole q.val s.dev ≠ 3 ∧ qRole q.val s.dev ≠ 4 ∧ (queueAt q.val s.dev).wait = w :: ws ∧ hasRoom q.val s.dev = false → exec (.skeinPush q ⟨ue, t⟩) s = .next { s with dev := updQueue q.val (fun x => { x with stalled := true }) (s.dev.at_ t) }) ∧
  (∀ (s : State) (q : Fin 32) (t : Nat) (r : Record) (w : QWord) (ws : List QWord), s.dev.on 11 = true ∧ cycleGoesOn q t s.pending = false ∧ q.val < s.dev.skn.queue.length ∧ qRole q.val s.dev = 3 ∧ groupRunning q.val s.dev = true ∧ (queueAt q.val s.dev).wait = [] → nextRecord q.val s.dev = some r ∧ packet r.words = w :: ws ∧ hasRoom q.val s.dev = true → ∃ e : Dev, e = updQueue q.val (fun x => { x with wait := packet r.words, dir := x.dir ++ [{ k := r.k, len := r.words.length, ue := [] }] }) (updGroup q.val (fun g => { g with next := r.k + 1 }) (s.dev.at_ t)) ∧ exec (.skeinPush q ⟨[], t⟩) s = .next { s with dev := servePop q.val (updQueue q.val (fun x => { x with wait := ws, stalled := false }) (pushWord q.val w e)) }) ∧
  (∀ (s : State) (q : Fin 32) (ue : Bool) (t flip st : Nat), s.dev.on 11 = true ∧ cycleGoesOn q t s.pending = false ∧ qRole q.val s.dev ≠ 3 ∧ qRole q.val s.dev ≠ 4 ∧ writerStore q.val s.dev = some st ∧ midPacket q.val st s.dev = true ∧ (queueAt q.val s.dev).q = [] → exec (.skeinPop q flip ⟨ue, t⟩) s = .next { s with dev := updQueue q.val (fun x => { x with waitPop := some (false, flip, ue) }) (s.dev.at_ t) }) ∧
  (∀ (s : State) (q : Fin 32) (ue : Bool) (t flip : Nat), s.dev.on 11 = true ∧ cycleGoesOn q t s.pending = false ∧ qRole q.val s.dev ≠ 3 ∧ qRole q.val s.dev ≠ 4 ∧ ((writerStore q.val s.dev).all fun st => !midPacket q.val st s.dev) = true → exec (.skeinPop q flip ⟨ue, t⟩) s = .next { s with dev := (s.dev.at_ t) }) ∧
  (∀ (s : State) (q : Fin 32) (ue : Bool) (t flip st : Nat) (w : QWord) (ws : List QWord) (r : Writing), s.dev.on 11 = true ∧ cycleGoesOn q t s.pending = false ∧ qRole q.val s.dev ≠ 3 ∧ qRole q.val s.dev ≠ 4 ∧ writerStore q.val s.dev = some st ∧ stitching q.val s.dev = false → (storeAt st s.dev).writing = some r ∧ r.ended = false ∧ (queueAt q.val s.dev).q = w :: ws ∧ w.abort = false → ∃ e : Dev, e = evalQueue q.val (takeWord q.val (s.dev.at_ t)) ∧ exec (.skeinPop q flip ⟨ue, t⟩) s = .next { s with dev := evalStore st (updStore st (fun x => { x with writing := some { r with words := r.words ++ [if (readWord w flip).2 then List.replicate 8 0 else (readWord w flip).1], poison := r.poison || (readWord w flip).2, ended := w.end_ } }) (if (readWord w flip).2 then raise 290 (e.uSkn fun x => { x with parityPoison := sat16 x.parityPoison, poisonIndex := r.k }) else e)) }) ∧
  (∀ (s : State) (q : Fin 32) (ue : Bool) (t flip : Nat) (w : QWord) (ws : List QWord), s.dev.on 11 = true ∧ cycleGoesOn q t s.pending = false ∧ qRole q.val s.dev = 3 ∧ groupRunning q.val s.dev = true ∧ asmDone q.val s.dev = false ∧ (queueAt q.val s.dev).q = w :: ws ∧ (readWord w flip).2 = false → ∃ e : Dev, e = evalQueue q.val (takeWord q.val (s.dev.at_ t)) ∧ exec (.skeinPop q flip ⟨ue, t⟩) s = .next { s with dev := updQueue q.val (fun x => { x with got := x.got + 1 }) (updGroup q.val (fun g => { g with asm := g.asm ++ [(readWord w flip).1] }) e) }) ∧
  (∀ (s : State) (c : MnrCmd) (t : Taken), otherTaken 0x1800 c s.dev = false ∧ t.arg % 65536 = 0x1800 → Starts Op.OBJ_WRITE (withObj 0x1800 c) s.dev t → writeAccepted (withObj 0x1800 c) t (begun Op.OBJ_WRITE (withObj 0x1800 c) s.dev) = true → exec (.sknQueueWrite c) s = .next { s with dev := finish t.who St.OK 0x1800 [] (groupsStart (refreshPins (clearQueues (setObj 0x1800 (writtenWords (withObj 0x1800 c) t (begun Op.OBJ_WRITE (withObj 0x1800 c) s.dev)) (each (outboundQueues (begun Op.OBJ_WRITE (withObj 0x1800 c) s.dev)) abortOutbound (begun Op.OBJ_WRITE (withObj 0x1800 c) s.dev)))))) })

/-- A header pop takes the two header words, refuses the line after the last one where their parity fails, and otherwise begins the record with the
length of the header where the store admits the line, and drops the packet's remainder where it does not. One that finds no words waits. When the
record being written in a store has its END word, it is committed: it stands at WRITE_PTR, which moves past it, its index becomes LAST_INDEX, and a
poisoned one gets POISON and fresh CRCs. A record not at its end commits nothing. Scrubbing adds the corrections reported to REEL_CE, which stays at
its end. An accepted write of REEL_LS takes effect and empties the stores whose layout changes. STORE_DISCARD of an enabled store empties it and
answers OK. Rows: reelHeaderPop, reelCommit, reelScrub, reelLsWrite, storeDiscard. -/
def Obligations.ReelRecords : Prop :=
  (∀ (s : State) (q : Fin 32) (t flip : Nat), s.dev.on 11 = true ∧ cycleGoesOn q t s.pending = false ∧ writerStore q.val s.dev = none → exec (.reelHeaderPop q flip t) s = .next { s with dev := (s.dev.at_ t) }) ∧
  (∀ (s : State) (q : Fin 32) (t flip st : Nat), s.dev.on 11 = true ∧ cycleGoesOn q t s.pending = false ∧ writerStore q.val s.dev = some st ∧ stitching q.val s.dev = false ∧ (storeAt st s.dev).writing = none ∧ (queueAt q.val s.dev).q = [] → exec (.reelHeaderPop q flip t) s = .next { s with dev := updQueue q.val (fun x => { x with waitPop := some (true, flip, false) }) (s.dev.at_ t) }) ∧
  (∀ (s : State) (q : Fin 32) (t flip st : Nat) (w0 w1 : QWord) (ws : List QWord) (h : Hdr), s.dev.on 11 = true ∧ cycleGoesOn q t s.pending = false ∧ writerStore q.val s.dev = some st ∧ stitching q.val s.dev = false ∧ (storeAt st s.dev).writing = none ∧ (queueAt q.val s.dev).head = none → (queueAt q.val s.dev).q = w0 :: w1 :: ws ∧ w1.abort = false ∧ (readWord w0 (flip % 2 ^ 256)).2 = false ∧ (readWord w1 (flip >>> 256)).2 = false ∧ h = hdrOf ((readWord w0 (flip % 2 ^ 256)).1 ++ (readWord w1 (flip >>> 256)).1) → ∃ e : Dev, e = evalQueue q.val (updQueue q.val (fun x => { x with head := none }) (takeWord q.val (evalQueue q.val (updQueue q.val (fun x => { x with head := some (w0, flip % 2 ^ 256) }) (takeWord q.val (s.dev.at_ t)))))) ∧ exec (.reelHeaderPop q flip t) s = .next { s with dev := if (admitLine st h.k (2 + h.bytes / 32) e).1 then evalStore st (updStore st (fun x => { x with writing := some { k := h.k, words := [(readWord w0 (flip % 2 ^ 256)).1, (readWord w1 (flip >>> 256)).1], total := 2 + h.bytes / 32, ended := w1.end_ } }) (admitLine st h.k (2 + h.bytes / 32) e).2) else if w1.end_ then (admitLine st h.k (2 + h.bytes / 32) e).2 else dropRemainder q.val (admitLine st h.k (2 + h.bytes / 32) e).2 }) ∧
  (∀ (s : State) (q : Fin 32) (t flip st : Nat) (w0 w1 : QWord) (ws : List QWord), s.dev.on 11 = true ∧ cycleGoesOn q t s.pending = false ∧ writerStore q.val s.dev = some st ∧ stitching q.val s.dev = false ∧ (storeAt st s.dev).writing = none ∧ (queueAt q.val s.dev).head = none → (queueAt q.val s.dev).q = w0 :: w1 :: ws ∧ w1.abort = false ∧ ((readWord w0 (flip % 2 ^ 256)).2 = true ∨ (readWord w1 (flip >>> 256)).2 = true) → ∃ e : Dev, e = evalQueue q.val (updQueue q.val (fun x => { x with head := none }) (takeWord q.val (evalQueue q.val (updQueue q.val (fun x => { x with head := some (w0, flip % 2 ^ 256) }) (takeWord q.val (s.dev.at_ t)))))) ∧ exec (.reelHeaderPop q flip t) s = .next { s with dev := if w1.end_ then refuseLine st (afterLast st e) (raise 292 (e.uSkn fun x => { x with hdrParity := sat16 x.hdrParity })) else dropRemainder q.val (refuseLine st (afterLast st e) (raise 292 (e.uSkn fun x => { x with hdrParity := sat16 x.hdrParity }))) }) ∧
  (∀ (s : State) (st : Fin 4) (t : Nat) (w : Writing), s.dev.on 11 = true ∧ (storeAt st.val s.dev).writing = some w ∧ w.ended = true → ∃ ws : List (List Word), ws = (if w.poison then recordWords { recHdr w.words with flags := (recHdr w.words).flags ||| FL.POISON } (recPayload w.words) else w.words) ∧ exec (.reelCommit st t) s = .next { s with dev := linesDone w.k (evalStore st.val (updStore st.val (fun x => { x with recs := x.recs ++ [{ k := w.k, start := x.writePtr, words := ws }], writePtr := (x.writePtr + ws.length) % max 1 (storeSize st.val s.dev), lastIndex := w.k, recNone := false, writing := none }) (s.dev.at_ t))) }) ∧
  (∀ (s : State) (st : Fin 4) (t : Nat), s.dev.on 11 = true ∧ ((storeAt st.val s.dev).writing.all fun w => !w.ended) = true → exec (.reelCommit st t) s = .next { s with dev := (s.dev.at_ t) }) ∧
  (∀ (s : State) (n t : Nat), s.dev.on 11 = true → exec (.reelScrub n t) s = .next { s with dev := (s.dev.at_ t).uSkn fun x => { x with reelCe := satAdd 4294967295 x.reelCe n } }) ∧
  (∀ (s : State) (c : MnrCmd) (t : Taken), otherTaken 0x1801 c s.dev = false ∧ t.arg % 65536 = 0x1801 → Starts Op.OBJ_WRITE (withObj 0x1801 c) s.dev t → writeAccepted (withObj 0x1801 c) t (begun Op.OBJ_WRITE (withObj 0x1801 c) s.dev) = true → exec (.reelLsWrite c) s = .next { s with dev := finish t.who St.OK 0x1801 [] (refreshPins (each ((List.range 4).filter fun x => [Obj.REEL_LS.EN x, Obj.REEL_LS.FIRST x, Obj.REEL_LS.REGIONS x, Obj.REEL_LS.QUEUE_IN x, Obj.REEL_LS.FC_PIN x, Obj.REEL_LS.GUARD x, Obj.REEL_LS.WM_HIGH x, Obj.REEL_LS.WM_LOW x].any fun f => fieldOf (writtenWords (withObj 0x1801 c) t (begun Op.OBJ_WRITE (withObj 0x1801 c) s.dev)) f != cfg f (begun Op.OBJ_WRITE (withObj 0x1801 c) s.dev)) clearStore (setObj 0x1801 (writtenWords (withObj 0x1801 c) t (begun Op.OBJ_WRITE (withObj 0x1801 c) s.dev)) (each ((List.range 4).filter fun x => [Obj.REEL_LS.EN x, Obj.REEL_LS.FIRST x, Obj.REEL_LS.REGIONS x, Obj.REEL_LS.QUEUE_IN x, Obj.REEL_LS.FC_PIN x, Obj.REEL_LS.GUARD x, Obj.REEL_LS.WM_HIGH x, Obj.REEL_LS.WM_LOW x].any fun f => fieldOf (writtenWords (withObj 0x1801 c) t (begun Op.OBJ_WRITE (withObj 0x1801 c) s.dev)) f != cfg f (begun Op.OBJ_WRITE (withObj 0x1801 c) s.dev)) cutPackets (begun Op.OBJ_WRITE (withObj 0x1801 c) s.dev))))) }) ∧
  (∀ (s : State) (c : MnrCmd) (t : Taken), Starts Op.STORE_DISCARD c s.dev t → t.arg < 4 ∧ t.len = 0 ∧ storeEn t.arg (begun Op.STORE_DISCARD c s.dev) = true → exec (.storeDiscard c) s = .next { s with dev := finish t.who St.OK 0 [] (clearStore t.arg (begun Op.STORE_DISCARD c s.dev)) })

/-- With no group's XOFF, each 10 µs tick of a running scan under device-driven motion moves v_c towards v_d by at most A_PACE, with the state Slowing
where v_d or v_c is below V_SET and interrupt 382 where that begins; a braking axis lowers v_c by the deceleration in force; a run-up raises it by
A_PACE up to v_r; an idle, parked or rewinding unit only brings its pins up to date. At the end of MIN_ASSERT the pins are brought up to date. A
braking axis at rest in HOLD has K_r fixed and rewinds to the park; at the park Spindle takes d_park as its reversal reference and K_r less the
priming lines as next index, with SHORT_RUNUP and 381 where the travel ended short. When the fills, the cause and the position allow it, the parked
axis runs up at the lower of the taper and the braking curve, where its park was placed for that speed, and otherwise rewinds to the park of it, and
with external motion the scan goes on at once. Without its conditions a command changes only the time. Rows: paceTick, fcMinAssertEnd,
paceAxisAtRest, paceParkReached, paceResume. -/
def Obligations.PacingCommands : Prop :=
  (∀ (s : State) (t vd v : Nat) (e : Dev), s.dev.on 0 = true ∧ s.dev.krm.member = false ∧ s.dev.krm.paceVd = [] ∧ s.dev.pwr.mode = .scan ∧ s.dev.pwr.trans = .none ∧ (s.dev.pace.state = .running ∨ s.dev.pace.state = .slowing) → externalMotion s.dev = false ∧ demand (s.dev.at_ t) = (vd, e) ∧ vHold5 s.dev < vd ∧ v = (if vd < s.dev.pace.vc then max vd (s.dev.pace.vc - cfg Obj.PACE_CTL.A_PACE s.dev) else min vd (s.dev.pace.vc + cfg Obj.PACE_CTL.A_PACE s.dev)) → ∃ f : Dev, f = (setVc v (e.uPace fun p => { p with vd := vd })).uPace (fun p => { p with state := if vd < vSet5 s.dev ∨ v < vSet5 s.dev then .slowing else .running }) ∧ exec (.paceTick t) s = .next { s with dev := refreshPins (if vd < vSet5 s.dev ∧ s.dev.pace.state ≠ .slowing then raise 382 f else f) }) ∧
  (∀ (s : State) (t : Nat), s.dev.on 0 = true ∧ s.dev.krm.member = false ∧ s.dev.krm.paceVd = [] ∧ s.dev.inMode [.scan, .hold] = true ∧ s.dev.pace.state = .braking ∧ s.dev.pace.xoffStop = false → exec (.paceTick t) s = .next { s with dev := refreshPins (setVc (s.dev.pace.vc - if s.dev.pace.cause = 1 ∨ s.dev.pace.cause = 6 then cfg Obj.PACE_CTL.A_PACE s.dev else cfg Obj.PACE_CTL.A_STOP s.dev) (s.dev.at_ t)) }) ∧
  (∀ (s : State) (t : Nat), s.dev.on 0 = true ∧ s.dev.krm.member = false ∧ s.dev.krm.paceVd = [] ∧ s.dev.inMode [.scan, .hold] = true ∧ (s.dev.pace.state = .runUp ∨ s.dev.pace.state = .priming) → exec (.paceTick t) s = .next { s with dev := refreshPins (setVc (min s.dev.pace.vr (s.dev.pace.vc + cfg Obj.PACE_CTL.A_PACE s.dev)) (s.dev.at_ t)) }) ∧
  (∀ (s : State) (t : Nat), s.dev.on 0 = true ∧ s.dev.krm.member = false ∧ s.dev.krm.paceVd = [] ∧ (s.dev.pace.state = .idle ∨ s.dev.pace.state = .parked ∨ s.dev.pace.state = .rewinding) → exec (.paceTick t) s = .next { s with dev := refreshPins (s.dev.at_ t) }) ∧
  (∀ (s : State) (p : Fin 4) (t : Nat), s.dev.on 0 = true → exec (.fcMinAssertEnd p t) s = .next { s with dev := match (at' s.dev.pace.pins p.val {}).until_ with | some u => refreshPins ((s.dev.at_ t).at_ u) | none => (s.dev.at_ t) }) ∧
  (∀ (s : State) (t n : Nat), s.dev.on 0 = true ∧ paceAxis s.dev = some n ∧ s.dev.pwr.mode = .hold ∧ s.dev.pwr.trans = .none ∧ s.dev.pace.state = .braking ∧ (axisAt n s.dev).atRest = true → exec (.paceAxisAtRest t) s = .next { s with dev := beginRewind n (vSet5 s.dev) (updAxis n (fun x => { x with paceMove := none, stop := none }) (setVc 0 (fixRestart (s.dev.at_ t)))) }) ∧
  (∀ (s : State) (t : Nat), s.dev.on 0 = true ∧ (paceAxis s.dev = none ∨ s.dev.pwr.mode ≠ .hold ∨ s.dev.pwr.trans ≠ .none ∨ s.dev.pace.state ≠ .braking ∨ ((paceAxis s.dev).any fun n => (axisAt n s.dev).atRest) = false) → exec (.paceAxisAtRest t) s = .next { s with dev := (s.dev.at_ t) }) ∧
  (∀ (s : State) (t n : Nat), s.dev.on 0 = true ∧ paceAxis s.dev = some n ∧ s.dev.pace.state = .rewinding ∧ (axisAt n s.dev).atRest = true ∧ ((axisAt n s.dev).paceMove.all fun m => (axisAt n s.dev).p == m.target) = true → ∃ e : Dev, e = (if s.dev.pace.parkShort then raise 381 ((updAxis n (fun x => { x with paceMove := none }) (s.dev.at_ t)).uPace fun p => { p with shortRunup := true, parkShort := false }) else updAxis n (fun x => { x with paceMove := none }) (s.dev.at_ t)) ∧ exec (.paceParkReached t) s = .next { s with dev := (e.uSpn fun x => { x with dHigh := s.dev.pace.dPark, reversed := false, revArmed := true, abortedIdx := none, next := s.dev.pace.kr - cfg Obj.PACE_CTL.PRE_LINES s.dev, line := none, tail := [] }).uPace fun p => { p with state := .parked } }) ∧
  (∀ (s : State) (t : Nat), s.dev.on 0 = true ∧ (paceAxis s.dev = none ∨ s.dev.pace.state ≠ .rewinding ∨ ((paceAxis s.dev).any fun n => (axisAt n s.dev).atRest) = false) → exec (.paceParkReached t) s = .next { s with dev := (s.dev.at_ t) }) ∧
  (∀ (s : State) (t : Nat), s.dev.on 0 = true ∧ s.dev.pwr.mode = .hold ∧ s.dev.pwr.trans = .none ∧ mayResume s.dev = true ∧ externalMotion s.dev = true → exec (.paceResume t) s = .next { s with dev := resumeExternal (s.dev.at_ t) }) ∧
  (∀ (s : State) (t n vr : Nat) (vf : Int) (e : Dev), s.dev.on 0 = true ∧ s.dev.pwr.mode = .hold ∧ s.dev.pwr.trans = .none ∧ mayResume s.dev = true ∧ externalMotion s.dev = false ∧ paceAxis s.dev = some n ∧ s.dev.pace.state = .parked → fillTaper (s.dev.at_ t) = (vf, e) ∧ vr = (clampI 0 (min (vSet5 s.dev) (brakeCurve s.dev)) vf).toNat ∧ 0 < vr ∧ vr = s.dev.pace.vr → exec (.paceResume t) s = .next { s with dev := paceMoveTo n ((axisAt n s.dev).p + stepsOf (lineAt (s.dev.pace.kr + 1) s.dev + (256 * vr * vr / (2 * max 1 (cfg Obj.PACE_CTL.A_PACE s.dev) * spd * spd) : Nat) - dist e) e) vr (cfg Obj.PACE_CTL.A_PACE s.dev) (e.uPace fun p => { p with state := .runUp }) }) ∧
  (∀ (s : State) (t n vr : Nat) (vf : Int) (e : Dev), s.dev.on 0 = true ∧ s.dev.pwr.mode = .hold ∧ s.dev.pwr.trans = .none ∧ mayResume s.dev = true ∧ externalMotion s.dev = false ∧ paceAxis s.dev = some n ∧ s.dev.pace.state = .parked → fillTaper (s.dev.at_ t) = (vf, e) ∧ vr = (clampI 0 (min (vSet5 s.dev) (brakeCurve s.dev)) vf).toNat ∧ 0 < vr ∧ vr ≠ s.dev.pace.vr → exec (.paceResume t) s = .next { s with dev := beginRewind n vr e }) ∧
  (∀ (s : State) (t : Nat), s.dev.on 0 = true ∧ (s.dev.pwr.mode ≠ .hold ∨ s.dev.pwr.trans ≠ .none ∨ mayResume s.dev = false) → exec (.paceResume t) s = .next { s with dev := (s.dev.at_ t) })

/-- With DMA open, a write that enables a ring takes its configuration and starts every group whose conditions hold; one that disables a running ring
stops its group at the record boundary and starts every group whose conditions then hold. PROD takes a value that places no more than the ring
holds. A posted descriptor is read while the ring runs; a good one becomes the one to fill, a bad one completes with BAD_FIELD and interrupt 329.
The next record of a group is written where its member's descriptor has room, with the flags, count and highest index kept, a re-send first.
Otherwise only the time changes. Rows: ringEnable, ringProdWrite, ringConfWrite, ringResendRequest, ringDescFetch, ringDeliverRecord. -/
def Obligations.StreamRings : Prop :=
  (∀ (s : State) (n : Fin 64) (t : Nat) (y : Ring) (e : Dev), s.dev.on 6 = true ∧ y = ringAt n.val s.dev ∧ e = s.dev.at_ t →
    ((∀ (v : Word), dmaOpen s.dev = true ∧ n.val < s.dev.hs.ring.length ∧ y.en = false → exec (.ringEnable n v t) s = .next { s with dev := groupsStart (updRing n.val (fun r => { r with en := bit v.toNat 31, sizeLog2 := bits v.toNat 3 0, batchLog2 := bits v.toNat 7 4, queue := bits v.toNat 12 8, cq := bits v.toNat 18 16, named := true }) e) }) ∧
    (∀ (v : Word), dmaOpen s.dev = true ∧ n.val < s.dev.hs.ring.length ∧ y.en = true ∧ y.running = true ∧ bit v.toNat 31 = false → exec (.ringEnable n v t) s = .next { s with dev := groupsStart (groupStop y.queue (updRing n.val (fun r => { r with en := false }) e)) }) ∧
    (∀ (v : Word), dmaOpen s.dev = false → exec (.ringEnable n v t) s = .next { s with dev := e } ∧ exec (.ringProdWrite n v t) s = .next { s with dev := e } ∧ exec (.ringConfWrite n v t) s = .next { s with dev := e } ∧ exec (.ringResendRequest n v t) s = .next { s with dev := e }) ∧
    (∀ (v : Word), dmaOpen s.dev = true → exec (.ringProdWrite n v t) s = .next { s with dev := if 2 ^ y.sizeLog2 < (v.toNat % 65536 + 65536 - y.cons) % 65536 then e else updRing n.val (fun r => { r with prod := v.toNat % 65536, stall := r.stall && v.toNat % 65536 == r.cons }) e }) ∧
    (∀ (ws : List Word), (y.running = false ∨ dmaOpen s.dev = false ∨ y.posted ≤ y.fetched.length + b2n y.fill.isSome) → exec (.ringDescFetch n ws t) s = .next { s with dev := e }) ∧
    (∀ (ws : List Word), y.running = true ∧ dmaOpen s.dev = true ∧ 0 < y.posted ∧ y.fetched = [] ∧ y.fill = none ∧ y.entries = [] ∧ n.val < s.dev.hs.ring.length → (descOf ws).bad = false ∧ (descOf ws).len ≠ 0 → exec (.ringDescFetch n ws t) s = .next { s with dev := updRing n.val (fun r => { r with fill := some { desc := descOf ws, idx := r.cons } }) e }) ∧
    (∀ (ws : List Word), y.running = true ∧ dmaOpen s.dev = true ∧ 0 < y.posted ∧ y.fetched = [] ∧ y.fill = none ∧ y.entries = [] ∧ n.val < s.dev.hs.ring.length → (descOf ws).bad = true → exec (.ringDescFetch n ws t) s = .next { s with dev := takeDesc 16 n.val (pushEntry n.val { kind := 0, ring := n.val, status := St.BAD_FIELD, descIdx := y.cons, cookie := (descOf ws).cookie } (raise 329 (updRing n.val (fun r => { r with cons := wrap16 (r.cons + 1), descErr := sat16 r.descErr }) e))) }) ∧
    (∀ (ws : List Word) (x : Filling), y.running = true ∧ dmaOpen s.dev = true ∧ y.fetched.length < 16 ∧ y.fill = some x ∧ y.fetched.length + 1 < y.posted ∧ n.val < s.dev.hs.ring.length → exec (.ringDescFetch n ws t) s = .next { s with dev := updRing n.val (fun r => { r with fetched := r.fetched ++ [descOf ws] }) e }))) ∧
  (∀ (d : Dev) (q s : Nat), groupRunning q d = false ∧ ringsOf q d ≠ [] ∧ d.mnr.open_ = true ∧ ((ringsOf q d).any fun n => ringBad n d) = false ∧ (groupAt q d).stopped = false ∧ queueStore q d = some s ∧ d.hs.ring.length = 64 ∧ q < d.hs.group.length → groupRunning q (groupStart q d) = true ∧ groupAt q (groupStart q d) = { members := ringsOf q d, next := tailIndex s d, resentTo := at' d.hs.hiDlv s none } ∧ (groupStart q d).hostMem = d.hostMem) ∧
  (∀ (s : State) (q : Fin 32) (t : Nat), s.dev.on 6 = true →
    ((∀ (ue : List Nat), (queueStore q.val s.dev = none ∨ groupRunning q.val s.dev = false ∨ dmaOpen s.dev = false ∨ ((queueAt q.val s.dev).dir = [] ∧ s.dev.hs.ring.all (fun r => r.resend.isNone) = true)) → exec (.ringDeliverRecord q ue t) s = .next { s with dev := (s.dev.at_ t) }) ∧
    (∀ (ue : List Nat) (st n : Nat) (e : DirEntry) (words : List (List Word)) (d' : Dev), queueStore q.val s.dev = some st ∧ groupRunning q.val s.dev = true ∧ dmaOpen s.dev = true ∧ s.dev.hs.ring.all (fun r => r.resend.isNone) = true → headRecord q.val (s.dev.at_ t) = some (e, words, d') ∧ memberOf e.k q.val d' = some n ∧ (ringAt n d').entries = [] ∧ ((ringAt n d').fill.any fun x => decide (x.bytes + 4 * (sentWords words (((groupAt q.val d').resentTo).any fun v => decide (e.k ≤ v)) e.ue).length ≤ x.desc.len)) = true → ∃ r : Bool, r = (((groupAt q.val d').resentTo).any fun v => decide (e.k ≤ v)) ∧ exec (.ringDeliverRecord q ue t) s = .next { s with dev := (deliverTo n st e.k words r e.ue d').2 }) ∧
    (∀ (ue : List Nat) (st n : Nat) (r : Resend), queueStore q.val s.dev = some st ∧ groupRunning q.val s.dev = true ∧ dmaOpen s.dev = true ∧ (groupAt q.val s.dev).members.head? = some n ∧ (ringAt n s.dev).resend = some r ∧ r.sent = false → exec (.ringDeliverRecord q ue t) s = .next { s with dev := resendStep n st r ue (s.dev.at_ t) }))) ∧
  (∀ (d : Dev) (n st k : Nat) (words : List (List Word)) (r : Bool) (x : Filling), (ringAt n d).entries = [] ∧ (ringAt n d).fill = some x ∧ x.bytes + 4 * (sentWords words r []).length ≤ x.desc.len ∧ x.desc.maxLines = 0 ∧ x.desc.eof = false ∧ n < d.hs.ring.length → (deliverTo n st k words r [] d).1 = true ∧ (deliverTo n st k words r [] d).2.hostMem = (writeWords (x.desc.addr + x.bytes) (sentWords words r []) d).hostMem ∧ (ringAt n (deliverTo n st k words r [] d).2).fill = some { x with bytes := x.bytes + 4 * (sentWords words r []).length, lines := x.lines + 1, flagsOr := x.flagsOr ||| (at' (sentWords words r []) 8 0).toNat, first := if x.lines = 0 then k else x.first } ∧ (ringAt n (deliverTo n st k words r [] d).2).dlv = some (((ringAt n d).dlv.map (max · k)).getD k))

/-- With DMA open, a write of a completion queue's control word takes its configuration while it is off, and a write of HEAD moves it; rings that wait
for the queue go on. An entry for an enabled queue with room is written with its phase at TAIL. When the moderation timer of a queue with
completions expires, its message is sent on its vector, or held pending by the mask; with none the timer only stops. The function takes a power
state with the configuration the host has set. An AER error is counted with interrupt 332. A higher confirm index of a ring, no higher than the last
delivered, confirms in the store what every member has confirmed. A re-send of no indices is answered at once, one while another runs is dropped and
counted. After IDLE_FLUSH the descriptor that holds lines completes. Rows: cqEnable, cqHeadWrite, msixModerationTimer, funcPowerStateChange,
pcieAerError, ringConfWrite, ringResendRequest, ringIdleFlush. -/
def Obligations.StreamQueuesAndPower : Prop :=
  (∀ (s : State) (q : Fin 8) (t : Nat) (f : Dev), s.dev.on 6 = true ∧ f = s.dev.at_ t →
    ((∀ (v : Word), dmaOpen s.dev = true → exec (.cqEnable q v t) s = .next { s with dev := cqDrain q.val (updCq q.val (fun x => if x.en then { x with en := bit v.toNat 31 } else { x with en := bit v.toNat 31, sizeLog2 := bits v.toNat 3 0, vector := bits v.toNat 13 8 }) f) } ∧ exec (.cqHeadWrite q v t) s = .next { s with dev := cqDrain q.val (updCq q.val (fun x => { x with head := v.toNat % 65536 }) f) }) ∧
    (∀ (v : Word), dmaOpen s.dev = false → exec (.cqEnable q v t) s = .next { s with dev := f } ∧ exec (.cqHeadWrite q v t) s = .next { s with dev := f }) ∧
    ((cqAt q.val s.dev).timer = false → exec (.msixModerationTimer q t) s = .next { s with dev := f }) ∧
    ((cqAt q.val s.dev).timer = true ∧ (cqAt q.val s.dev).pending = 0 → exec (.msixModerationTimer q t) s = .next { s with dev := updCq q.val (fun x => { x with timer := false }) f }) ∧
    (∀ (e : MsixEntry), (cqAt q.val s.dev).timer = true ∧ 0 < (cqAt q.val s.dev).pending ∧ s.dev.hs.func = .d0 ∧ s.dev.hs.link = .l0 ∧ s.dev.hs.cfg.msixEn = true ∧ e = at' s.dev.hs.msix (cqAt q.val s.dev).vector {} → exec (.msixModerationTimer q t) s = .next { s with dev := if e.mask then (updCq q.val (fun x => { x with pending := 0, timer := false }) f).uHs fun h => { h with pba := setBit h.pba (cqAt q.val s.dev).vector true } else writeBytes e.addr (bytesOfNat 4 e.data) (updCq q.val (fun x => { x with pending := 0, timer := false }) f) }))) ∧
  (∀ (d : Dev) (n : Nat) (e : CqEntry) (x : Cq), (ringAt n d).entries = [] ∧ n < d.hs.ring.length ∧ x = cqAt (ringAt n d).cq d ∧ x.en = true ∧ cqBad x = false ∧ dmaOpen d = true ∧ cqRoom x = true ∧ x.pending + 1 < x.modCount ∧ e.ends = false ∧ (ringAt n d).cq < d.hs.cq.length → (pushEntry n e d).hostMem = (writeWords (x.cbLo + 4294967296 * x.cbHi + 32 * (x.tail % 2 ^ x.sizeLog2)) (entryWords { e with ring := n } ((x.tail >>> x.sizeLog2) % 2 == 0)) d).hostMem ∧ cqAt (ringAt n d).cq (pushEntry n e d) = { x with tail := wrap16 (x.tail + 1), pending := sat8 x.pending, timer := true } ∧ (ringAt n (pushEntry n e d)).entries = []) ∧
  (∀ (s : State) (t : Nat), powered s.dev = true →
    ∀ (st : FuncPower) (f : FuncCfg), ∃ d, exec (.funcPowerStateChange st f t) s = .next { s with dev := d } ∧ d.hs.func = st ∧ d.hs.cfg = f ∧ d.hs.link = s.dev.hs.link ∧ d.objs = s.dev.objs ∧ d.sec = s.dev.sec ∧ d.skn = s.dev.skn) ∧
  (∀ (s : State) (t : Nat), s.dev.on 6 = true →
    ∀ (ue : Bool), exec (.pcieAerError ue t) s = .next { s with dev := raise 332 ((s.dev.at_ t).uHs fun h => if ue then { h with aerUe := sat16 h.aerUe } else { h with aerCe := sat16 h.aerCe }) }) ∧
  (∀ (s : State) (n : Fin 64) (t : Nat) (y : Ring) (f : Dev), s.dev.on 6 = true ∧ y = ringAt n.val s.dev ∧ f = s.dev.at_ t →
    ((∀ (v : Word), dmaOpen s.dev = true ∧ n.val < s.dev.hs.ring.length ∧ (y.dlv.all fun a => y.conf.any fun o => decide (min (y.confLo + 4294967296 * (v.toNat % 65536)) a ≤ o)) = true → exec (.ringConfWrite n v t) s = .next { s with dev := updRing n.val (fun r => { r with confHi := v.toNat % 65536 }) f }) ∧
    (∀ (v : Word) (dlv c st u : Nat) (us : List Nat) (e : Dev), dmaOpen s.dev = true ∧ n.val < s.dev.hs.ring.length ∧ y.dlv = some dlv ∧ c = min (y.confLo + 4294967296 * (v.toNat % 65536)) dlv ∧ (y.conf.all fun o => decide (o < c)) = true → queueStore y.queue s.dev = some st ∧ (groupAt y.queue s.dev).members.contains n.val = true ∧ e = updRing n.val (fun r => { r with conf := some c }) (updRing n.val (fun r => { r with confHi := v.toNat % 65536 }) f) ∧ us = (List.range (groupAt y.queue s.dev).members.length).map (fun m => unconfirmedOf y.queue st m e) ∧ u = us.foldl min (us.headD 0) → exec (.ringConfWrite n v t) s = .next { s with dev := if u = 0 then e else storeConfirm st (u - 1) e }) ∧
    (∀ (v : Word), dmaOpen s.dev = true → ∃ a : Nat, a = y.rsLo + 4294967296 * y.rsHi ∧ exec (.ringResendRequest n v t) s = .next { s with dev := if y.resend.isSome then updRing n.val (fun r => { r with rsDrop := sat16 r.rsDrop }) f else if v.toNat % 65536 = 0 then pushEntry n.val { kind := 1, ring := n.val, status := St.BAD_FIELD, first := a } f else updRing n.val (fun r => { r with resend := some { first := a, count := v.toNat % 65536, next := a } }) f }) ∧
    (∀ (x : Filling), y.running = true ∧ y.idleFlush ≠ 0 ∧ y.fill = some x ∧ 0 < x.lines → exec (.ringIdleFlush n t) s = .next { s with dev := takeDesc 17 n.val (pushEntry n.val { kind := 0, ring := n.val, status := St.OK, descIdx := x.idx, lines := x.lines, bytes := x.bytes, flagsOr := x.flagsOr, first := x.first, readErr := x.readErr, cookie := x.desc.cookie } (updRing n.val (fun r => { r with fill := none, cons := wrap16 (r.cons + 1) }) f)) }) ∧
    ((y.running = false ∨ y.idleFlush = 0 ∨ (y.fill.all fun x => x.lines == 0) = true) → exec (.ringIdleFlush n t) s = .next { s with dev := f })))

/-- An accepted MOVE_APPEND ends at once where its target is where the queue ends, and otherwise joins the axis's queue and is DEFERRED. An accepted
MOVE_REPLACE to where the axis stands at rest ends at once; otherwise the moves of the queue end ABORTED and the new one stands alone, DEFERRED, the
axis first coming to rest where the target lies behind it or closer than it can stop; with the target of the active move a shorter distance is met
by a greater deceleration, CLAMPED; a stop in progress gives way to it, unless a limit input holds it. AXIS_STOP stops the named axes at STOP_DEC,
and answers OK at once where they all rest and DEFERRED otherwise. An accepted MOVE_LINEAR of distance 0 ends at once; otherwise each named axis
queues its move under the common profile scaled to its limits, and the command is DEFERRED. Any of them that a check fails is answered with that
check's status and changes nothing else. A write of SHU_POS to a resting axis sets its position and HOMED. Rows: moveAppend, moveReplace, axisStop,
moveLinear, shuPosWrite. -/
def Obligations.MotionCommands : Prop :=
  (∀ (s : State) (c : MnrCmd) (t : Taken) (e : Dev), Starts Op.MOVE_APPEND c s.dev t ∧ e = begun Op.MOVE_APPEND c s.dev →
    ((∀ (g : Int), t.arg < 4 → g = (if bit (t.w 2) 0 then movePos t else appendBase t.arg e + movePos t) ∧ firstFail (moveChecks t.arg t e) = none ∧ inSoft t.arg g e = true ∧ limited t.arg (g - appendBase t.arg e) e = false ∧ (g = appendBase t.arg e ∨ (axisAt t.arg e).q.length < 32) → exec (.moveAppend c) s = .next { s with dev := if g = appendBase t.arg e then finish t.who St.OK 0 (posWords (axisAt t.arg e).p) e else defer t.who 0 (updAxis t.arg (fun a => { a with q := a.q ++ [moveOf t (appendBase t.arg e) g], appended := a.appended + 1 }) e) }) ∧
    (∀ (x n : Nat), firstFail (moveChecks (t.arg % 4) t e) = some (x, n) → exec (.moveAppend c) s = .next { s with dev := finish t.who x n [] e }))) ∧
  (∀ (s : State) (c : MnrCmd) (t : Taken) (f : Dev), Starts Op.MOVE_REPLACE c s.dev t ∧ t.arg < 4 ∧ f = begun Op.MOVE_REPLACE c s.dev →
    ((∀ (g : Int), g = (if bit (t.w 2) 0 then movePos t else (axisAt t.arg f).p + movePos t) ∧ firstFail (moveChecks t.arg t f) = none ∧ paceOwned t.arg f = false ∧ inSoft t.arg g f = true ∧ g = (axisAt t.arg f).p ∧ ((axisAt t.arg f).atRest = true ∨ bit (t.w 2) 0 = false) → exec (.moveReplace c) s = .next { s with dev := finish t.who St.OK 0 (posWords g) f }) ∧
    (∀ (g : Int) (e : Dev) (a : Axis) (m : Move) (k r : Bool), e = begun Op.MOVE_REPLACE c s.dev ∧ a = axisAt t.arg e ∧ g = (if bit (t.w 2) 0 then movePos t else a.p + movePos t) ∧ m = moveOf t a.p g → firstFail (moveChecks t.arg t e) = none ∧ paceOwned t.arg e = false ∧ inSoft t.arg g e = true ∧ (bit (t.w 2) 0 = true ∨ movePos t ≠ 0) ∧ (g ≠ a.p ∨ a.atRest = false) ∧ limited t.arg (g - a.p) e = false ∧ sameTarget a g = none → k = (limited t.arg (sgn a.v) e && a.stop.isSome) ∧ r = (!k && mustRest a m) ∧ (r = false ∨ inSoft t.arg ((a.x + sgn a.v * overshoot a m + xUnit / 2) / xUnit) e = true) → exec (.moveReplace c) s = .next { s with dev := defer t.who 0 (updAxis t.arg (fun b => { b with q := [m], rest := r, restAt := ((a.x + sgn a.v * overshoot a m + xUnit / 2) / xUnit), stop := if k then b.stop else none, vsatMove := false, appended := 0, replaced := true }) (dropQueue t.arg St.ABORTED false e)) }) ∧
    (∀ (g : Int) (e : Dev) (a : Axis) (o m0 m : Move) (r : Bool), e = begun Op.MOVE_REPLACE c s.dev ∧ a = axisAt t.arg e ∧ g = (if bit (t.w 2) 0 then movePos t else a.p + movePos t) ∧ m0 = moveOf t a.p g → firstFail (moveChecks t.arg t e) = none ∧ paceOwned t.arg e = false ∧ inSoft t.arg g e = true ∧ (bit (t.w 2) 0 = true ∨ movePos t ≠ 0) ∧ limited t.arg (g - a.p) e = false ∧ sameTarget a g = some o → m = (if sgn a.v * (g * xUnit - a.x) < overshoot a m0 then { m0 with dec := max o.dec m0.dec, clamped := true } else m0) ∧ r = decide (sgn a.v * (g * xUnit - a.x) + xUnit < overshoot a m) ∧ (r = false ∨ inSoft t.arg ((a.x + sgn a.v * overshoot a m + xUnit / 2) / xUnit) e = true) → exec (.moveReplace c) s = .next { s with dev := defer t.who 0 (updAxis t.arg (fun b => { b with q := [m], rest := r, restAt := ((a.x + sgn a.v * overshoot a m + xUnit / 2) / xUnit), stop := none, vsatMove := false, appended := 0, replaced := true }) (dropQueue t.arg St.ABORTED false e)) }))) ∧
  (∀ (s : State) (c : MnrCmd) (t : Taken) (f : Dev), Starts Op.AXIS_STOP c s.dev t ∧ f = begun Op.AXIS_STOP c s.dev →
    ((0 < t.arg ∧ t.arg < 16 ∧ ((maskIx t.arg 4).any fun n => paceOwned n f) = false → ∃ e : Dev, e = each (maskIx t.arg 4) (fun n d => stopAxis n St.ABORTED d) f ∧ exec (.axisStop c) s = .next { s with dev := if ((maskIx t.arg 4).all fun n => (axisAt n e).atRest) = true then finish t.who St.OK 0 [] e else defer t.who 0 (e.uShu fun x => { x with stops := x.stops ++ [(t.who, t.arg)] }) }) ∧
    ((t.arg = 0 ∨ 16 ≤ t.arg) → exec (.axisStop c) s = .next { s with dev := finish t.who St.BAD_FIELD 0 [] f }))) ∧
  (∀ (s : State) (c : MnrCmd) (t : Taken) (e : Dev), Starts Op.MOVE_LINEAR c s.dev t ∧ e = begun Op.MOVE_LINEAR c s.dev →
    ((linAccepted t e = true → exec (.moveLinear c) s = .next { s with dev := if linDist t e (linLead t e) = 0 then finish t.who St.OK 0 [] e else defer t.who 0 ((each ((maskIx t.arg 4).map fun n => (n, linMove t e n)) (fun x d => updAxis x.1 (fun a => { a with q := a.q ++ [x.2] }) d) e).uShu fun x => { x with lins := x.lins ++ [(e.shu.linNo, t.arg, some t.who, decide (linFactor t e < 1))], linNo := e.shu.linNo + 1 }) }) ∧
    ((16 ≤ t.arg ∨ (maskIx t.arg 4).length < 2 ∨ t.len ≠ 13) → exec (.moveLinear c) s = .next { s with dev := finish t.who St.BAD_FIELD 0 [] e }))) ∧
  (∀ (s : State) (c : MnrCmd) (t : Taken) (e : Dev), otherTaken 0x1B05 c s.dev = false ∧ t.arg % 65536 = 0x1B05 ∧ e = begun Op.OBJ_WRITE (withObj 0x1B05 c) s.dev →
    Starts Op.OBJ_WRITE (withObj 0x1B05 c) s.dev t → writeAccepted (withObj 0x1B05 c) t e = true → exec (.shuPosWrite c) s = .next { s with dev := finish t.who St.OK 0x1B05 [] (shuPosApply (writtenWords (withObj 0x1B05 c) t e) e) })

/-- Every update moves each axis along its active move's profile, places the step pulses, and lets the scan position follow the axis that is the scan
source. A limit input that is asserted stops an axis that travels its way, sets LIMIT and raises 360 + n; a rising step input moves the input
position by its resolution. HOLD_DELAY without a microstep ramps the stage to its standstill current. A driver fault stops the axis and is kept
until it is cleared, and its release ends the cause. A PWM period keeps VIN and the current, and the current moves one step of its ramp. Where
nothing is to be done only the time changes. Rows: shuGenUpdate, limitInput, limitInputRelease, stepInputEdge, holdCurrentReduce, extDriverFault,
extDriverFaultRelease, stagePwmPeriod. -/
def Obligations.MotionEvents : Prop :=
  (∀ (s : State) (t : Nat), s.dev.on 12 = true ∧ s.dev.pwr.mode = .boot → exec (.shuGenUpdate t) s = .next { s with dev := (s.dev.at_ t) }) ∧
  (∀ (s : State) (t : Nat), s.dev.on 12 = true ∧ s.dev.pwr.mode ≠ .boot → ∃ e : Dev, e = each (List.range 4) (fun n d => stepOutput n t (axisAt n s.dev).p d) ((each (List.range 4) genAxis (each [2, 3] driverFault (s.dev.at_ t))).uShu fun x => { x with genAt := t }) ∧ exec (.shuGenUpdate t) s = .next { s with dev := if (srcAxis e).isSome then sourceMoved t (followShuttle t e) else e }) ∧
  (∀ (d : Dev) (n : Nat) (m : Move) (ms : List Move), axMode n d = 1 ∧ (axisAt n d).stop = none ∧ (axisAt n d).paceMove = none ∧ paceOwned n d = false ∧ (axisAt n d).q = m :: ms ∧ m.lin = none ∧ (axisAt n d).rest = false ∧ (axisAt n d).v ≠ 0 ∧ limited n (sgn (axisAt n d).v) d = false ∧ (axisAt n d).appended = 0 ∧ n < d.shu.ax.length → (genProfile n m (m :: ms) (pacedNow n d) d).2 = false → genAxis n d = updAxis n (fun _ => { (genProfile n m (m :: ms) (pacedNow n d) d).1 with replaced := false, appended := 0 }) d) ∧
  (∀ (s : State) (n : Fin 4) (pos : Bool) (t : Nat), s.dev.tap.phase ≠ .saving → ∃ f : Dev, f = updAxis n.val (fun a => { a with limIn := setBit a.limIn (if pos then 1 else 0) true }) (taprootInput (11 + n.val) true (if s.dev.pwr.mode = .reset then s.dev else (s.dev.at_ t))) ∧ exec (.limitInput n pos t) s = .next { s with dev := if travelDir n.val f = (if pos then 1 else -1) then limitStop n.val f else f }) ∧
  (∀ (d : Dev) (n : Nat), limited n (travelDir n d) d = true ∧ (axisAt n d).replaced = false ∧ n < d.shu.ax.length → (axisAt n (limitStop n d)).q = [] ∧ (axisAt n (limitStop n d)).limit = setBit (axisAt n d).limit (if travelDir n d < 0 then 0 else 1) true ∧ (limitStop n d).hostMem = d.hostMem ∧ (limitStop n d).objs = d.objs) ∧
  (∀ (s : State) (n : Fin 4) (pos : Bool) (t : Nat), s.dev.tap.phase ≠ .saving → ∃ f : Dev, f = updAxis n.val (fun a => { a with limIn := setBit a.limIn (if pos then 1 else 0) false }) (if s.dev.pwr.mode = .reset then s.dev else (s.dev.at_ t)) ∧ exec (.limitInputRelease n pos t) s = .next { s with dev := if (axisAt n.val f).limIn = 0 then taprootInput (11 + n.val) false f else f }) ∧
  (∀ (s : State) (n : Fin 4) (up : Bool) (t : Nat), s.dev.on 12 = true → exec (.stepInputEdge n up t) s = .next { s with dev := if n.val < 2 ∧ axMode n.val s.dev = 2 then updAxis n.val (fun a => { a with pIn := if up then a.pIn + 2 ^ (8 - cfg (Obj.SHU_AXIS.IN_RES n.val) s.dev) else a.pIn - 2 ^ (8 - cfg (Obj.SHU_AXIS.IN_RES n.val) s.dev), inT := (t :: a.inT).take 3 }) (s.dev.at_ t) else (s.dev.at_ t) }) ∧
  (∀ (s : State) (n : Fin 4) (t : Nat), s.dev.on 12 = true → exec (.holdCurrentReduce n t) s = .next { s with dev := if n.val < 2 ∧ (axisAt n.val s.dev).bridge = true ∧ (axisAt n.val s.dev).reduced = false ∧ cfg (Obj.SHU_AXIS.HOLD_PCT n.val) s.dev < 100 then updAxis n.val (fun b => { b with reduced := true, rampTo := cfg (Obj.SHU_AXIS.I_RUN n.val) s.dev * cfg (Obj.SHU_AXIS.HOLD_PCT n.val) s.dev / 100, rampLeft := 16 }) (s.dev.at_ t) else (s.dev.at_ t) }) ∧
  (∀ (s : State) (n : Fin 4) (t : Nat), n.val < 2 ∧ s.dev.tap.phase ≠ .saving → exec (.extDriverFault n t) s = .next { s with dev := if s.dev.pwr.mode = .reset then s.dev else (s.dev.at_ t) } ∧ exec (.extDriverFaultRelease n t) s = .next { s with dev := if s.dev.pwr.mode = .reset then s.dev else (s.dev.at_ t) }) ∧
  (∀ (s : State) (n : Fin 4) (t : Nat), 2 ≤ n.val ∧ s.dev.tap.phase ≠ .saving → ∃ f : Dev, f = updAxis n.val (fun a => { a with cause := setBit a.cause 5 true }) (taprootInput (13 + n.val) true (if s.dev.pwr.mode = .reset then s.dev else (s.dev.at_ t))) ∧ exec (.extDriverFault n t) s = .next { s with dev := if (f.runs 12 && !f.inMode [.reset, .boot, .sleep] && (axisAt n.val f).cause.testBit 5 && cfgB (Obj.SHU_AXIS.FLT_EN n.val) f && !(axisAt n.val f).fault.testBit 5) = true then halted n.val (axisAt n.val f) (stageFault n.val 5 false (updAxis n.val (fun a => { restHere (sgn a.v) a.x a with stop := none, rest := false, paceMove := none }) f)) else f }) ∧
  (∀ (s : State) (n : Fin 4) (t : Nat), 2 ≤ n.val ∧ s.dev.tap.phase ≠ .saving → exec (.extDriverFaultRelease n t) s = .next { s with dev := updAxis n.val (fun a => { a with cause := setBit a.cause 5 false }) (taprootInput (13 + n.val) false (if s.dev.pwr.mode = .reset then s.dev else (s.dev.at_ t))) }) ∧
  (∀ (s : State) (n : Fin 4) (vin cur t : Nat), s.dev.on 12 = true ∧ n.val < 2 ∧ n.val < s.dev.shu.ax.length → ∃ d, exec (.stagePwmPeriod n vin cur t) s = .next { s with dev := d } ∧ (axisAt n.val d).vin = vin ∧ (axisAt n.val d).curAct = min 8191 cur ∧ (axisAt n.val d).rampLeft = (axisAt n.val s.dev).rampLeft - 1 ∧ (axisAt n.val d).cur = (if (axisAt n.val s.dev).rampLeft = 0 then (axisAt n.val s.dev).cur else (((axisAt n.val s.dev).cur : Int) + (((axisAt n.val s.dev).rampTo : Int) - (axisAt n.val s.dev).cur) / (axisAt n.val s.dev).rampLeft).toNat) ∧ (axisAt n.val d).x = (axisAt n.val s.dev).x ∧ (axisAt n.val d).q = (axisAt n.val s.dev).q ∧ ((axisAt n.val s.dev).bridge = false → (axisAt n.val d).dutyA = 0 ∧ (axisAt n.val d).dutyB = 0) ∧ d.hostMem = s.dev.hostMem ∧ d.objs = s.dev.objs ∧ d.sec = s.dev.sec) ∧
  (∀ (s : State) (n : Fin 4) (vin cur t : Nat), s.dev.on 12 = true ∧ 2 ≤ n.val → exec (.stagePwmPeriod n vin cur t) s = .next { s with dev := (s.dev.at_ t) })

/-- CAL_LAMP tests the lamps of the named strings, fails those that read open or short, raises 407 and answers with their number, SPARES_EXHAUSTED where
a lamp of them is served by no spare. LAMP_FORCE lights the named lamps of a string at a current within its limit for a duration, or turns a forced
string off. LAMP_SPARE puts a failed lamp back when it reads good, and answers HW_FAULT when it does not. An accepted write of ILM_CHAIN starts the
shift, and at its end the boards hold the frame with 406 and OK where the returned words match, and otherwise CHAIN_FAULT is set with 405 and
HW_FAULT. A command that a check of its own fails answers that status. Rows: calLamp, lampForce, lampSpare, ilmChainWrite, chainShiftDone. -/
def Obligations.LampCommands : Prop :=
  (∀ (s : State) (c : MnrCmd) (mv : List Nat) (t : Taken) (n : Nat) (e : Dev), Starts Op.CAL_LAMP c s.dev t ∧ 0 < t.arg ∧ t.arg < 256 ∧ ((maskIx t.arg 8).any fun x => isForced x (begun Op.CAL_LAMP c s.dev)) = false ∧ lampCheck t.arg mv (begun Op.CAL_LAMP c s.dev) = (n, e) → exec (.calLamp c mv) s = .next { s with dev := finish t.who (if ((maskIx t.arg 8).any fun x => exhausted x e) = true then St.SPARES_EXHAUSTED else St.OK) n [] e }) ∧
  (∀ (d : Dev) (mask : Nat) (mv : List Nat), ((List.range 8).all fun x => (List.range 16).all fun l => (mv[16 * x + l]?).all fun v => !badReading x l v d) = true → lampCheck mask mv d = (0, raise 407 (d.uIlm fun i => { i with lampCheckDue := false, diagPulses := wrap16 (i.diagPulses + ((maskIx mask 8).filter fun x => strEn x d).length) }))) ∧
  (∀ (s : State) (c : MnrCmd) (mv : List Nat) (t : Taken), Starts Op.CAL_LAMP c s.dev t ∧ (t.arg = 0 ∨ 256 ≤ t.arg ∨ ((maskIx t.arg 8).any fun x => isForced x (begun Op.CAL_LAMP c s.dev)) = true) → exec (.calLamp c mv) s = .next { s with dev := finish t.who (if t.arg = 0 ∨ 256 ≤ t.arg then St.BAD_FIELD else St.BUSY) 0 [] (begun Op.CAL_LAMP c s.dev) }) ∧
  (∀ (s : State) (c : MnrCmd) (t : Taken) (x : Nat) (e : Dev), Starts Op.LAMP_FORCE c s.dev t ∧ t.arg < 16 ∧ bit t.arg 3 = true ∧ x = t.arg % 8 ∧ t.len = 3 ∧ e = (begun Op.LAMP_FORCE c s.dev) → 0 < t.w 0 ∧ t.w 0 ≤ (strAt x e).iLim ∧ t.w 1 < 65536 ∧ 0 < t.w 2 ∧ t.w 2 ≤ 1000000 → exec (.lampForce c) s = .next { s with dev := finish t.who St.OK 0 [] (refreshGate x e.now (updStr x (fun y => { y with lit := .forced (t.w 1) (t.w 0) (t.w 2), since := e.now, readMask := 0, struck := [] }) e)) }) ∧
  (∀ (s : State) (c : MnrCmd) (t : Taken), Starts Op.LAMP_FORCE c s.dev t ∧ t.arg < 8 ∧ t.len = 0 → exec (.lampForce c) s = .next { s with dev := finish t.who St.OK 0 [] (if isForced t.arg (begun Op.LAMP_FORCE c s.dev) = true then updStr t.arg (fun y => { y with lit := .off, gate := false, shunt := 0xFFFF, struck := [] }) (begun Op.LAMP_FORCE c s.dev) else (begun Op.LAMP_FORCE c s.dev)) }) ∧
  (∀ (s : State) (c : MnrCmd) (t : Taken), Starts Op.LAMP_FORCE c s.dev t ∧ (16 ≤ t.arg ∨ (bit t.arg 3 = true ∧ t.len ≠ 3) ∨ (bit t.arg 3 = false ∧ t.len ≠ 0) ∨ (bit t.arg 3 = true ∧ (t.w 0 = 0 ∨ (strAt (t.arg % 8) (begun Op.LAMP_FORCE c s.dev)).iLim < t.w 0 ∨ 65536 ≤ t.w 1 ∨ t.w 2 = 0 ∨ 1000000 < t.w 2))) → exec (.lampForce c) s = .next { s with dev := finish t.who St.BAD_FIELD 0 [] (begun Op.LAMP_FORCE c s.dev) }) ∧
  (∀ (s : State) (c : MnrCmd) (mv : Nat) (t : Taken), Starts Op.LAMP_SPARE c s.dev t ∧ (bit t.arg 3 = true ∨ 256 ≤ t.arg ∨ (strAt (t.arg % 8) (begun Op.LAMP_SPARE c s.dev)).failed.testBit (bits t.arg 7 4) = false) → exec (.lampSpare c mv) s = .next { s with dev := finish t.who St.BAD_FIELD 0 [] (begun Op.LAMP_SPARE c s.dev) }) ∧
  (∀ (s : State) (c : MnrCmd) (mv : Nat) (t : Taken) (x l : Nat) (e : Dev), Starts Op.LAMP_SPARE c s.dev t ∧ bit t.arg 3 = false ∧ t.arg < 256 ∧ x = t.arg % 8 ∧ l = bits t.arg 7 4 ∧ e = (begun Op.LAMP_SPARE c s.dev) ∧ (strAt x e).failed.testBit l = true → ∃ f : Dev, f = updStr x (fun y => { y with failed := setBit y.failed l false, spareLo := if y.spareLo = some l then none else y.spareLo, spareHi := if y.spareHi = some l then none else y.spareHi }) e ∧ exec (.lampSpare c mv) s = .next { s with dev := if badReading x l mv e = true then finish t.who St.HW_FAULT 0 [] e else finish t.who St.OK 0 [] (exhaustedChange none e (decideLamps (each (unserved x f) (takeSpare x) f))) }) ∧
  (∀ (s : State) (c : MnrCmd) (t : Taken), otherTaken 0x1C10 c s.dev = false ∧ t.arg % 65536 = 0x1C10 → Starts Op.OBJ_WRITE (withObj 0x1C10 c) s.dev t → writeAccepted (withObj 0x1C10 c) t (begun Op.OBJ_WRITE (withObj 0x1C10 c) s.dev) = true → exec (.ilmChainWrite c) s = .next { s with dev := (begun Op.OBJ_WRITE (withObj 0x1C10 c) s.dev).uIlm fun i => { i with shift := some { frame := (writtenWords (withObj 0x1C10 c) t (begun Op.OBJ_WRITE (withObj 0x1C10 c) s.dev)), who := some t.who } } }) ∧
  (∀ (s : State) (ret : List Word) (t : Nat), s.dev.on 13 = true ∧ s.dev.ilm.shift = none → exec (.chainShiftDone ret t) s = .next { s with dev := (s.dev.at_ t) }) ∧
  (∀ (s : State) (ret : List Word) (t : Nat) (x : ChainShift), s.dev.on 13 = true ∧ s.dev.ilm.shift = some x ∧ ret = chainFrame (cfg Obj.ILM_CTL.BOARDS s.dev) x.frame → exec (.chainShiftDone ret t) s = .next { s with dev := finish? x.who St.OK 0x1C10 [] (raise 406 (setObj 0x1C10 x.frame ((s.dev.at_ t).uIlm fun i => { i with shift := none, boards := x.frame, lxpLat := some { at_ := t + 640, ns := 100 } }))) }) ∧
  (∀ (s : State) (ret : List Word) (t : Nat) (x : ChainShift), s.dev.on 13 = true ∧ s.dev.ilm.shift = some x ∧ ret ≠ chainFrame (cfg Obj.ILM_CTL.BOARDS s.dev) x.frame → exec (.chainShiftDone ret t) s = .next { s with dev := finish? x.who St.HW_FAULT 0 [] (raise 405 ((s.dev.at_ t).uIlm fun i => { i with shift := none, chainFault := true })) })

/-- When blanking ends a delayed strobe starts in SCAN. At an instant of modulation the shunts follow the duties, and a diagnostic pulse ends 150 ns
after its start. A reading that is no open or short verdict is only noted; a verdict fails the lamp and marks its line LAMP_FAULT, DEGRADED too
where no spare serves it. A valid temperature is kept, and a limit that moves by 8 mA or more takes effect with 401; an invalid one, or none for 100
ms, sets TEMP_LOST, and input 402 is high while any string has it. A headroom fault during a strobe of an enabled string sets HEADROOM, marks the
line, raises 403 and is a fault of class 9. A forced string turns off at the end of its duration. Where nothing is to be done only the time changes.
Rows: lampBlankEnd, lampModPeriod, lampVoltageRead, ilmTempRead, ilmTempLost, lampHeadroomFault, lampForceEnd. -/
def Obligations.LampEvents : Prop :=
  (∀ (s : State) (x : Fin 8) (t : Nat), s.dev.on 13 = true → exec (.lampBlankEnd x t) s = .next { s with dev := match (strAt x.val s.dev).delayed with | some (k, p) => if s.dev.pwr.mode = .scan ∧ (strAt x.val s.dev).lit = .off then startStrobe x.val k p (strAt x.val s.dev).blankUntil ((s.dev.at_ t).at_ (strAt x.val s.dev).blankUntil) else (s.dev.at_ t) | none => (s.dev.at_ t) }) ∧
  (∀ (s : State) (x : Fin 8) (t : Nat), s.dev.on 13 = true ∧ (strAt x.val s.dev).lit = .off → exec (.lampModPeriod x t) s = .next { s with dev := (s.dev.at_ t) }) ∧
  (∀ (s : State) (x : Fin 8) (t k p : Nat), s.dev.on 13 = true ∧ (strAt x.val s.dev).lit = .strobe k p → exec (.lampModPeriod x t) s = .next { s with dev := refreshGate x.val t (s.dev.at_ t) }) ∧
  (∀ (s : State) (x : Fin 8) (t : Nat), s.dev.on 13 = true ∧ (strAt x.val s.dev).lit = .diag → exec (.lampModPeriod x t) s = .next { s with dev := if (strAt x.val s.dev).since + 2400 ≤ t then updStr x.val (fun y => { y with lit := .off, gate := false, shunt := 0xFFFF, struck := [], blankUntil := y.since + 2400 + 16 * cfg Obj.ILM_CTL.BLANK_NS s.dev }) (s.dev.at_ t) else (s.dev.at_ t) }) ∧
  (∀ (s : State) (x : Fin 8) (l : Fin 16) (mv t : Nat), s.dev.on 13 = true ∧ readsLamp x.val l.val s.dev = false → exec (.lampVoltageRead x l mv t) s = .next { s with dev := (s.dev.at_ t) }) ∧
  (∀ (s : State) (x : Fin 8) (l : Fin 16) (mv t : Nat) (line : Option Nat), s.dev.on 13 = true ∧ readsLamp x.val l.val s.dev = true ∧ line = (match (strAt x.val s.dev).lit with | .strobe k _ => some k | _ => none) → ∃ e : Dev, e = (if line.isSome then updStr x.val (fun y => { y with readMask := setBit y.readMask l.val true }) (s.dev.at_ t) else (s.dev.at_ t)) ∧ ∃ f : Dev, f = failVerdict x.val l.val line e ∧ exec (.lampVoltageRead x l mv t) s = .next { s with dev := if badReading x.val l.val mv s.dev = true then markLine? line (FL.LAMP_FAULT ||| (if (unserved x.val f).contains l.val then FL.DEGRADED else 0)) f else e }) ∧
  (∀ (s : State) (x : Fin 8) (t : Nat) (r : AuxRes), s.dev.on 13 = true ∧ r = at' s.dev.aux.res (cfg (Obj.ILM_STRING.TEMP_SRC x.val) s.dev) {} ∧ (cfgB (Obj.ILM_STRING.TEMP_EN x.val) s.dev = false ∨ r.formed = none ∨ r.stale = true) → exec (.ilmTempRead x t) s = .next { s with dev := (s.dev.at_ t) }) ∧
  (∀ (s : State) (x : Fin 8) (t : Nat) (r : AuxRes), s.dev.on 13 = true ∧ cfgB (Obj.ILM_STRING.TEMP_EN x.val) s.dev = true ∧ r = at' s.dev.aux.res (cfg (Obj.ILM_STRING.TEMP_SRC x.val) s.dev) {} ∧ r.formed.isSome = true ∧ r.stale = false ∧ (r.open_ = true ∨ r.settling = true) → exec (.ilmTempRead x t) s = .next { s with dev := tempInput (updStr x.val (fun y => { y with tempLost := true }) (s.dev.at_ t)) }) ∧
  (∀ (s : State) (x : Fin 8) (t lim : Nat) (r : AuxRes), s.dev.on 13 = true ∧ cfgB (Obj.ILM_STRING.TEMP_EN x.val) s.dev = true ∧ r = at' s.dev.aux.res (cfg (Obj.ILM_STRING.TEMP_SRC x.val) s.dev) {} ∧ r.formed.isSome = true ∧ r.stale = false ∧ r.open_ = false ∧ r.settling = false ∧ lim = limitAt x.val r.eng s.dev → ∃ e : Dev, e = tempInput (updStr x.val (fun y => { y with tempLost := false, temp := r.eng }) (s.dev.at_ t)) ∧ exec (.ilmTempRead x t) s = .next { s with dev := if 8 ≤ (lim - (strAt x.val s.dev).iLim) + ((strAt x.val s.dev).iLim - lim) then decideLamps (raise 401 (updStr x.val (fun y => { y with iLim := lim, derated := decide (lim < cfg (Obj.ILM_STRING.I_RATED x.val) s.dev) }) e)) else e }) ∧
  (∀ (s : State) (x : Fin 8) (t : Nat), s.dev.on 13 = true → exec (.ilmTempLost x t) s = .next { s with dev := if cfgB (Obj.ILM_STRING.TEMP_EN x.val) s.dev = true then tempInput (updStr x.val (fun y => { y with tempLost := true }) (s.dev.at_ t)) else (s.dev.at_ t) }) ∧
  (∀ (s : State) (x : Fin 8) (v t : Nat), s.dev.on 13 = true ∧ (strobing x.val s.dev = false ∨ strEn x.val s.dev = false) → exec (.lampHeadroomFault x v t) s = .next { s with dev := (s.dev.at_ t).uIlm fun i => { i with vledMv := v } }) ∧
  (∀ (s : State) (x : Fin 8) (v t k p : Nat), s.dev.on 13 = true ∧ (strAt x.val s.dev).lit = .strobe k p ∧ strEn x.val s.dev = true → exec (.lampHeadroomFault x v t) s = .next { s with dev := faultRaise 9 403 (some k) St.HW_FAULT (markLine k (FL.LAMP_FAULT ||| FL.DEGRADED) (raise 403 (updStr x.val (fun y => { y with headroom := true, headroomBad := true }) ((s.dev.at_ t).uIlm fun i => { i with vledMv := v })))) }) ∧
  (∀ (s : State) (x : Fin 8) (t : Nat), s.dev.on 13 = true → exec (.lampForceEnd x t) s = .next { s with dev := match (strAt x.val s.dev).lit with | .forced _ _ us => if (strAt x.val s.dev).since + 16000 * us ≤ max s.dev.now t then updStr x.val (fun y => { y with lit := .off, gate := false, shunt := 0xFFFF, struck := [] }) (s.dev.at_ t) else (s.dev.at_ t) | _ => (s.dev.at_ t) })

/-- While conversions run and no arbitration is due, or in the word that EN = 0 cuts short, a word counts in the dwell of the next enabled slot, joins
the valid words once the settling words are done, and with the last one the slot's result is formed and the next slot's dwell begins; a write that
changed the slot begins its dwell anew. Arbitration fails each converter that misses a test level by more than ARB_TOL, lets the checker take over
from a failed primary, and with both failed every result is marked MISMATCH, the AMON pins go to their fault levels, and it is a fault of class 10.
A slot without a result for 100 ms is stale, and an AMON pin without one for STALE_MS goes to its fault level. AUX_READ answers with the results of
one to six slots, or, FRESH, when each of them has been formed after the command was taken, and waits until then; the oldest that has waited for
more than 1 s is answered TIMEOUT. Otherwise only the time changes. Rows: auxWord, auxArbitration, auxStale, amonStale, auxReadTimeout, auxRead. -/
def Obligations.AuxiliaryCommands : Prop :=
  (∀ (s : State) (v ref vc refc : Int) (comp : Bool) (t : Nat), s.dev.on 14 = true ∧ (auxModes s.dev = false ∨ s.dev.aux.arbDue = true ∨ (auxEn s.dev = false ∧ s.dev.aux.active = none)) → exec (.auxWord v ref vc refc comp t) s = .next { s with dev := (s.dev.at_ t) }) ∧
  (∀ (s : State) (v ref vc refc : Int) (comp : Bool) (t : Nat), s.dev.on 14 = true ∧ auxRuns s.dev = true ∧ s.dev.aux.arbDue = false ∧ s.dev.aux.active = none ∧ nextSlot none s.dev = none → exec (.auxWord v ref vc refc comp t) s = .next { s with dev := beginDwell none (s.dev.at_ t) }) ∧
  (∀ (s : State) (v ref vc refc p q : Int) (comp : Bool) (t x : Nat) (e e1 e2 : Dev), s.dev.on 14 = true ∧ auxModes s.dev = true ∧ s.dev.aux.arbDue = false ∧ e = auxStart (s.dev.at_ t) ∧ e.aux.active = some x → auxCode (AuxSlot.gain e.aux.cfg) v (AuxSlot.vRef e.aux.cfg ref) e = (p, e1) ∧ auxCode (AuxSlot.gain e.aux.cfg) vc (AuxSlot.vRef e.aux.cfg refc) e1 = (q, e2) → ∃ f : Dev, f = e2.uAux (fun y => { y with word := y.word + 1, prim := if 3 ≤ y.word then y.prim ++ [if y.checkerPrimary then q else p] else y.prim, chk := if 3 ≤ y.word then y.chk ++ [q] else y.chk, comp := y.comp || (comp && AuxSlot.excMode y.cfg == 1) }) ∧ exec (.auxWord v ref vc refc comp t) s = .next { s with dev := if 3 + AuxSlot.valid f.aux.cfg ≤ f.aux.word then beginDwell (if auxEn (formResult x t f) then nextSlot (some x) (formResult x t f) else none) (formResult x t f) else if f.aux.dwellOld then beginDwell (if !auxEn f then none else if AuxSlot.en (auxSlot x f) then some x else nextSlot (some x) f) f else f }) ∧
  (∀ (s : State) (a b : ArbRes) (t : Nat), s.dev.on 14 = true ∧ (auxModes s.dev = false ∨ s.dev.aux.arbDue = false) → exec (.auxArbitration a b t) s = .next { s with dev := (s.dev.at_ t) }) ∧
  (∀ (s : State) (a b : ArbRes) (t : Nat) (pf cf : Bool), s.dev.on 14 = true ∧ auxModes s.dev = true ∧ s.dev.aux.arbDue = true → pf = ([a.lo1 - 2097152, a.lo2 - 2097152, a.hi1 - 6291456, a.hi2 - 6291456].any fun y => decide (cfg Obj.AUX_CTL.ARB_TOL s.dev < y.natAbs)) ∧ cf = ([b.lo1 - 2097152, b.lo2 - 2097152, b.hi1 - 6291456, b.hi2 - 6291456].any fun y => decide (cfg Obj.AUX_CTL.ARB_TOL s.dev < y.natAbs)) → ∃ e : Dev, e = raise 419 ((s.dev.at_ t).uAux fun y => { y with arbDue := false, run := 0, pFailed := y.pFailed || pf, cFailed := y.cFailed || cf, chkActive := y.chkActive && !pf && !cf, checkerPrimary := y.checkerPrimary || (pf && !cf) }) ∧ ∃ f : Dev, f = (if pf || cf then raise 420 e else e) ∧ ∃ g : Dev, g = (if f.aux.dwellOld then (match f.aux.active with | some x => restartDwell x f | none => f) else f) ∧ exec (.auxArbitration a b t) s = .next { s with dev := if pf && cf then faultRaise 10 420 none St.HW_FAULT (allMismatch g) else g }) ∧
  (∀ (s : State) (x : Fin 32) (t : Nat), s.dev.on 14 = true → exec (.auxStale x t) s = .next { s with dev := if AuxSlot.en (auxSlot x.val s.dev) = true then (s.dev.at_ t).uAux fun y => { y with res := upd y.res x.val fun r => { r with stale := true } } else (s.dev.at_ t) }) ∧
  (∀ (s : State) (a : Fin 4) (t : Nat), powered s.dev = true → ∃ e : Dev, e = updAmon a.val (fun y => { y with driven := true, fault := true, level := amonDac ((cfg (Obj.AUX_AMON.FAULT_LVL a.val) s.dev : Rat) / 100) }) (s.dev.at_ t) ∧ exec (.amonStale a t) s = .next { s with dev := if (cfgB (Obj.AUX_AMON.EN a.val) s.dev && !s.dev.inMode [.reset, .boot] && s.dev.runs 14) = true then (if (at' s.dev.aux.amon a.val {}).fault || s.dev.pwr.mode == .sleep then e else raise 422 e) else (s.dev.at_ t) }) ∧
  (∀ (s : State) (t : Nat), coresRun s.dev = true → exec (.auxReadTimeout t) s = .next { s with dev := match s.dev.aux.waits with | [] => (s.dev.at_ t) | w :: ws => finish w.who St.TIMEOUT 0 (auxReadWords w.mask (s.dev.at_ t)) ((s.dev.at_ t).uAux fun y => { y with waits := ws }) }) ∧
  (∀ (s : State) (c : MnrCmd) (t : Taken), Starts Op.AUX_READ c s.dev t ∧ 0 < (maskIx t.arg 32).length ∧ (maskIx t.arg 32).length ≤ 6 ∧ t.len ≤ 1 ∧ (t.len = 1 → t.w 0 < 2) → exec (.auxRead c) s = .next { s with dev := if t.len = 1 ∧ bit (t.w 0) 0 = true then auxAnswer ((begun Op.AUX_READ c s.dev).uAux fun x => { x with waits := x.waits ++ [{ mask := t.arg, left := (maskIx t.arg 32).foldl (fun m k => match (at' s.dev.aux.res k {}).formed with | some f => if t.at_ < f then setBit m k false else m | none => m) t.arg, who := t.who }] }) else finish t.who St.OK 0 (auxReadWords t.arg (begun Op.AUX_READ c s.dev)) (begun Op.AUX_READ c s.dev) }) ∧
  (∀ (s : State) (c : MnrCmd) (t : Taken), Starts Op.AUX_READ c s.dev t ∧ ((maskIx t.arg 32).length = 0 ∨ 6 < (maskIx t.arg 32).length ∨ 1 < t.len ∨ (t.len = 1 ∧ 2 ≤ t.w 0)) → exec (.auxRead c) s = .next { s with dev := finish t.who St.BAD_FIELD 0 [] (begun Op.AUX_READ c s.dev) })

/-- A block on a link that is down changes nothing. One with a wrong CRC, which is counted, or out of sequence is answered by a NAK; while one stands,
only the block that it asks for draws another, when it fails again. One in order counts in the sequence, and its acknowledgement is taken; an
unknown type is counted and dropped, a node without address sends no NAK and takes only DISC blocks and their acknowledgements, a broadcast is
accepted and forwarded, and a block for another node leaves on its route while hops are left. An ACK takes blocks out of the replay buffer, a NAK
replays those from its SEQ on, a CREDIT for this node grants words to a queue, DATA fills a queue of the port, and a TIME request is answered and a
reply keeps the path. The payload layouts of control blocks are the model's own (assumption log 101). Rows: krmDataBlock, krmAckBlock, krmNakBlock,
krmCreditBlock, krmTimeBlock, krmLineBlock, krmPaceBlock, krmDiscBlock, krmConfirmBlock, krmGroupBlock. -/
def Obligations.FabricBlocks : Prop :=
  (∀ (s : State) (h : KHdr) (q : Fin 32) (a : Fin 4096) (n t k : Nat) (x y : Bool) (r : Option Nat) (b : LineBlk) (m : GroupMsg) (u : List Word), s.dev.on 15 = true ∧ portUp h.port.val s.dev = false → exec (.krmDataBlock { h with pay := u } q h.pay x y t) s = .next { s with dev := (s.dev.at_ t) } ∧ exec (.krmAckBlock h a t) s = .next { s with dev := (s.dev.at_ t) } ∧ exec (.krmNakBlock h a t) s = .next { s with dev := (s.dev.at_ t) } ∧ exec (.krmCreditBlock h q n t) s = .next { s with dev := (s.dev.at_ t) } ∧ exec (.krmTimeBlock h x n t) s = .next { s with dev := (s.dev.at_ t) } ∧ exec (.krmLineBlock h b t) s = .next { s with dev := (s.dev.at_ t) } ∧ exec (.krmPaceBlock h n x r t) s = .next { s with dev := (s.dev.at_ t) } ∧ exec (.krmDiscBlock h n k a.val x t) s = .next { s with dev := (s.dev.at_ t) } ∧ exec (.krmConfirmBlock h k x t) s = .next { s with dev := (s.dev.at_ t) } ∧ exec (.krmGroupBlock h m t) s = .next { s with dev := (s.dev.at_ t) }) ∧
  (∀ (d : Dev) (h : KHdr) (l x : Bool) (b : KBlock) (f : Dev → Dev) (e : Dev), portUp h.port.val d = true ∧ d.runs 15 = true ∧ (crcRight h b = false ∨ h.seq.val ≠ (kport h.port.val d).rxExpected) ∧ e = (if crcRight h b then d else updPort h.port.val (fun y => { y with crcErr := sat32 y.crcErr }) d) → receive h l x b f d = if nodeAddr d = 0 ∨ ((kport h.port.val d).nakDue = some (kport h.port.val d).rxExpected ∧ h.seq.val ≠ (kport h.port.val d).rxExpected) then e else sendOn h.port.val { type := 3, cls := 1, dest := (kport h.port.val d).nbAddr, src := nodeAddr d, units := 1, payload := [BitVec.ofNat 32 (kport h.port.val d).rxExpected] } (updPort h.port.val (fun y => { y with nakDue := some y.rxExpected }) e)) ∧
  (∀ (d : Dev) (h : KHdr) (l x : Bool) (b : KBlock) (f : Dev → Dev), portUp h.port.val d = true ∧ d.runs 15 = true ∧ crcRight h b = true ∧ h.seq.val = (kport h.port.val d).rxExpected ∧ h.badType.isSome = true → receive h l x b f d = (countedAs x h d).uKrm fun k => { k with badBlocks := sat16 k.badBlocks }) ∧
  (∀ (d : Dev) (h : KHdr) (x : Bool) (b : KBlock) (f : Dev → Dev), inOrder h b d = true ∧ h.dest.val ≠ nodeAddr d ∨ inOrder h b d = true ∧ nodeAddr d = 0 → ∃ e : Dev, e = countedAs x h d ∧ receive h false x b f d = if nodeAddr d = 0 then (if x then f e else e) else if h.dest.val = 0xFFF then (if h.hops.val = 0 then f e else sendMask (setBit (cfg (Obj.KRM_CTL.BCAST_FWD h.port.val) (f e)) h.port.val false) { arrived h b with hops := h.hops.val - 1, ack := none } (f e)) else if h.hops.val = 0 then e.uKrm fun k => { k with noRoute := sat16 k.noRoute } else sendTo { arrived h b with hops := h.hops.val - 1, ack := none } e) ∧
  (∀ (s : State) (h : KHdr) (a : Fin 4096) (t : Nat), s.dev.on 15 = true ∧ inOrder h { type := 2, cls := 1, dest := 0, src := 0 } s.dev = true → exec (.krmAckBlock h a t) s = .next { s with dev := if nodeAddr s.dev = 0 then counted h (s.dev.at_ t) else ackUpTo h.port.val a.val (counted h (s.dev.at_ t)) }) ∧
  (∀ (s : State) (h : KHdr) (e : Fin 4096) (t : Nat), s.dev.on 15 = true ∧ inOrder h { type := 3, cls := 1, dest := 0, src := 0 } s.dev = true → ∃ f : Dev, f = ackUpTo h.port.val ((e.val + 4095) % 4096) (counted h (s.dev.at_ t)) ∧ exec (.krmNakBlock h e t) s = .next { s with dev := if nodeAddr s.dev = 0 then counted h (s.dev.at_ t) else if ((kport h.port.val f).replayBuf.any fun b => b.seq == e.val) = true then replay h.port.val f else f }) ∧
  (∀ (s : State) (h : KHdr) (q : Fin 32) (n t : Nat), s.dev.on 15 = true ∧ forUs h { type := 4, cls := 1, dest := 0, src := 0, queue := q.val } s.dev = true → exec (.krmCreditBlock h q n t) s = .next { s with dev := (counted h (s.dev.at_ t)).uKrm fun x => { x with credit := Sparse.set 0 x.credit q.val (Sparse.get 0 x.credit q.val + n) } }) ∧
  (∀ (s : State) (h : KHdr) (q : Fin 32) (x y : Bool) (t : Nat) (u : List Word), s.dev.on 15 = true ∧ forUs h { type := 1, cls := 2, dest := 0, src := 0, queue := q.val, end_ := x, abort := y } s.dev = true → ∃ e : Dev, e = pushPacket q.val (mapIx (fun i w => qword w (x && !y && i + 1 == (groups8 h.pay).length)) (groups8 h.pay)) (updPort h.port.val (fun z => { z with granted := Sparse.set 0 z.granted q.val (Sparse.get 0 z.granted q.val - (groups8 h.pay).length) }) (counted h (s.dev.at_ t))) ∧ exec (.krmDataBlock { h with pay := u } q h.pay x y t) s = .next { s with dev := if ((inboundQueues h.port.val (counted h (s.dev.at_ t))).contains q.val) = true then (if y then abortPacket q.val e else e) else counted h (s.dev.at_ t) }) ∧
  (∀ (s : State) (h : KHdr) (x : Bool) (n t : Nat), s.dev.on 15 = true ∧ inOrder h { type := 5, cls := 0, dest := 0, src := 0 } s.dev = true → ∃ e : Dev, e = counted h (s.dev.at_ t) ∧ exec (.krmTimeBlock h x n t) s = .next { s with dev := if nodeAddr e = 0 then e else if x then updPort h.port.val (fun y => { y with nbPath := n }) e else sendOn h.port.val { type := 5, cls := 0, dest := h.src.val, src := nodeAddr e, units := 1, payload := [BitVec.ofNat 32 e.krm.pathDelay] } e })

/-- A LINE block of the master gives a follower its speed and schedules a line that lies ahead, one that comes too late raises 78 and 454, and one with
the abort flag takes its line off the schedule; from any other sender it only counts. A PACE block reaches the driving member. A DISC block names
the neighbour and a request is answered. A CONFIRM block of the collector confirms the lines it holds, or starts delivery again and aborts what is
sent in part. A GROUP block carries heartbeats, member lists, joins, answers and departures: a master keeps its members by them, and a follower
joins, takes the list or leaves. The payload layouts of control blocks are the model's own (assumption log 101). Rows: krmLineBlock, krmPaceBlock,
krmDiscBlock, krmConfirmBlock, krmGroupBlock. -/
def Obligations.GroupBlocks : Prop :=
  (∀ (s : State) (h : KHdr) (b : LineBlk) (t : Nat), s.dev.on 15 = true ∧ forUs h { type := 6, cls := 0, dest := 0, src := 0 } s.dev = true ∧ (follower s.dev = false ∨ s.dev.krm.master ≠ h.src.val) → exec (.krmLineBlock h b t) s = .next { s with dev := counted h (s.dev.at_ t) }) ∧
  (∀ (s : State) (h : KHdr) (b : LineBlk) (t : Nat) (e : Dev), s.dev.on 15 = true ∧ forUs h { type := 6, cls := 0, dest := 0, src := 0 } s.dev = true ∧ e = followVhat b ((counted h (s.dev.at_ t)).at_ t) → follower s.dev = true ∧ s.dev.krm.master = h.src.val ∧ b.abort = false → exec (.krmLineBlock h b t) s = .next { s with dev := if b.k < e.spn.next ∨ startsLines e = false then e else if b.tk < groupStep t e + 1024 then (if (e.krm.sched.any fun x => x.k == b.k) = true then e else raise 454 (((raise 78 (linesMissing (min e.spn.next b.k) e)).uKrm fun k => { k with lateLines := sat16 k.lateLines }).uSpn fun x => { x with next := b.k + 1 })) else e.uKrm fun k => { k with sched := schedule b k.sched } }) ∧
  (∀ (s : State) (h : KHdr) (b : LineBlk) (t : Nat), s.dev.on 15 = true ∧ forUs h { type := 6, cls := 0, dest := 0, src := 0 } s.dev = true ∧ follower s.dev = true ∧ s.dev.krm.master = h.src.val ∧ b.abort = true ∧ (s.dev.spn.line.all fun l => l.k != b.k) = true → exec (.krmLineBlock h b t) s = .next { s with dev := (followVhat b ((counted h (s.dev.at_ t)).at_ t)).uKrm fun k => { k with sched := k.sched.filter fun x => x.k != b.k } }) ∧
  (∀ (s : State) (h : KHdr) (v : Nat) (x : Bool) (r : Option Nat) (t : Nat), s.dev.on 15 = true ∧ forUs h { type := 7, cls := 0, dest := 0, src := 0 } s.dev = true → exec (.krmPaceBlock h v x r t) s = .next { s with dev := if s.dev.krm.member = true ∧ (paceAxis s.dev).isSome = true then (counted h (s.dev.at_ t)).uKrm fun k => { k with paceVd := (k.paceVd.filter fun y => y.1 != h.src.val) ++ [(h.src.val, v, x, (r.map (· + 1)).getD 0)] } else counted h (s.dev.at_ t) }) ∧
  (∀ (s : State) (h : KHdr) (uid a p : Nat) (x : Bool) (t : Nat), s.dev.on 15 = true ∧ inOrder h { type := 8, cls := 1, dest := 0, src := 0 } s.dev = true → ∃ e : Dev, e = updPort h.port.val (fun y => { y with nbUid := uid, nbAddr := a, nbPort := p }) (countedAs true h (s.dev.at_ t)) ∧ exec (.krmDiscBlock h uid a p x t) s = .next { s with dev := if x then e else sendDisc h.port.val true e }) ∧
  (∀ (s : State) (h : KHdr) (k : Nat) (x : Bool) (t : Nat), s.dev.on 15 = true ∧ forUs h { type := 9, cls := 1, dest := 0, src := 0 } s.dev = true → exec (.krmConfirmBlock h k x t) s = .next { s with dev := if sending s.dev = true ∧ h.src.val = cfg Obj.KRM_CTL.COLLECTOR s.dev then each (outboundQueues (counted h (s.dev.at_ t))) (fun q d => if x then evalQueue q (updGroup q (fun g => { g with next := 0, asm := [] }) (updQueue q (fun y => { above := y.above }) (abortOutbound q d))) else storeConfirm (cfg (Obj.SKN_QUEUE.LS q) d) k d) (counted h (s.dev.at_ t)) else counted h (s.dev.at_ t) }) ∧
  (∀ (s : State) (h : KHdr) (lock : Bool) (fmt : Option Nat) (t : Nat), s.dev.on 15 = true ∧ forUs h { type := 10, cls := 1, dest := 0, src := 0 } s.dev = true → exec (.krmGroupBlock h (.heartbeat lock fmt) t) s = .next { s with dev := if s.dev.krm.role then (counted h (s.dev.at_ t)).uKrm fun k => { k with members := k.members.map fun x => if x.addr = h.src.val then { x with lock := lock, fmt := fmt } else x } else counted h (s.dev.at_ t) } ∧ exec (.krmGroupBlock h .leave t) s = .next { s with dev := if s.dev.krm.role then setMembers (s.dev.krm.members.filter fun x => x.addr != h.src.val) (counted h (s.dev.at_ t)) else counted h (s.dev.at_ t) }) ∧
  (∀ (s : State) (h : KHdr) (l : List Member) (mc : MasterCfg) (uid tile g t : Nat), s.dev.on 15 = true ∧ forUs h { type := 10, cls := 1, dest := 0, src := 0 } s.dev = true → exec (.krmGroupBlock h (.members l mc) t) s = .next { s with dev := if (follower s.dev && (s.dev.krm.master == h.src.val || s.dev.krm.master == 0)) = true then (if (l.any fun x => x.addr == nodeAddr s.dev) = true then setMembers (l.filter fun x => x.addr != nodeAddr s.dev) ((counted h (s.dev.at_ t)).uKrm fun k => { k with mcfg := some mc, master := h.src.val }) else leaveGroup (counted h (s.dev.at_ t))) else counted h (s.dev.at_ t) } ∧ exec (.krmGroupBlock h (.join uid tile g) t) s = .next { s with dev := if (s.dev.krm.role && s.dev.krm.groupId == g) = true then (counted h (s.dev.at_ t)).uKrm fun k => { k with joinReqs := insertUid (h.src.val, tile, uid) k.joinReqs } else counted h (s.dev.at_ t) }) ∧
  (∀ (s : State) (h : KHdr) (st n t : Nat) (w : Who) (gid tile : Nat), s.dev.on 15 = true ∧ forUs h { type := 10, cls := 1, dest := 0, src := 0 } s.dev = true ∧ s.dev.krm.joining = some (w, gid, tile) → exec (.krmGroupBlock h (.answer st n) t) s = .next { s with dev := if s.dev.krm.member then counted h (s.dev.at_ t) else if st = St.OK then (counted h (s.dev.at_ t)).uKrm fun k => { k with member := true, role := false, groupId := gid, tile := tile, master := h.src.val, members := [], timeLock := false, lockCount := 0 } else if st = St.BAD_FIELD ∨ st = St.BUSY then joinEnds st n (counted h (s.dev.at_ t)) else counted h (s.dev.at_ t) })

/-- Training of an enabled port with three working lanes or more brings its link up with 432 + p, on the spare or at three lanes as they are found,
grants credit and asks members to deliver again. Signal on a port whose link is down is an input of Taproot. A lane that fails is taken out once:
the spare replaces it with 440 + p, at three lanes the link narrows with 444 + p and a fault of class 11, below three it goes down. With no
acknowledgement the blocks in the replay buffer are sent again; the timer acknowledges what has come and grants credit. FAB_DISCOVER trains and asks
the named ports, keeps what the neighbours answer and answers with the ports that are up; CAL_DELAY keeps the delay of each port that is up; wrong
ARGs answer BAD_FIELD. Otherwise only the time changes. Rows: krmLinkUp, krmSignalDetect, krmLaneFail, krmReplayTimeout, krmAckTimer, fabDiscover,
calDelay. -/
def Obligations.FabricLinks : Prop :=
  (∀ (s : State) (p : Fin 4) (t : Nat), s.dev.on 15 = true → ∃ e : Dev, e = updPort p.val (fun x => { x with up := true, signal := true }) (s.dev.at_ t) ∧ ∃ f : Dev, f = (if workingLanes (kport p.val e) = 3 then (if (kport p.val e).width3 then e else useThree p.val e) else match (List.range 4).find? fun l => !(kport p.val e).lanes.testBit l with | some l => if (kport p.val e).spareUsed then e else useSpare p.val l e | none => e) ∧ exec (.krmLinkUp p t) s = .next { s with dev := if portEn p.val s.dev = true ∧ s.dev.runs 15 = true ∧ portUp p.val s.dev = false ∧ 3 ≤ workingLanes (kport p.val s.dev) then askAgain (grantCredits p.val (raise (432 + p.val) f)) else (s.dev.at_ t) }) ∧
  (∀ (s : State) (p : Fin 4) (t : Nat), powered s.dev = true ∧ s.dev.tap.phase ≠ .saving → exec (.krmSignalDetect p t) s = .next { s with dev := if portEn p.val s.dev = true ∧ portUp p.val s.dev = false then tapPulse (17 + p.val) (updPort p.val (fun x => { x with signal := true }) (s.dev.at_ t)) else (s.dev.at_ t) }) ∧
  (∀ (s : State) (p : Fin 4) (l : Fin 5) (t : Nat), s.dev.on 15 = true ∧ (kport p.val s.dev).lanes.testBit l.val = false → exec (.krmLaneFail p l t) s = .next { s with dev := (s.dev.at_ t) }) ∧
  (∀ (s : State) (p : Fin 4) (l : Fin 5) (t : Nat) (e : Dev), s.dev.on 15 = true ∧ (kport p.val s.dev).lanes.testBit l.val = true ∧ e = updPort p.val (fun x => { x with lanes := setBit x.lanes l.val false, laneFault := setBit x.laneFault l.val true }) (s.dev.at_ t) → exec (.krmLaneFail p l t) s = .next { s with dev := if portUp p.val s.dev = false then e else if workingLanes (kport p.val e) < 3 then linkDown p.val e else if workingLanes (kport p.val e) = 3 then (if (kport p.val e).width3 then e else faultRaise 11 (444 + p.val) none St.SPARES_EXHAUSTED (raise (444 + p.val) (updPort p.val (fun x => { x with width3 := true, spareUsed := x.spareUsed || x.lanes.testBit 4 }) e))) else if l.val = 4 then e else raise (440 + p.val) (updPort p.val (fun x => { x with spareUsed := true, onSpare := some l.val }) e) }) ∧
  (∀ (s : State) (p : Fin 4) (t : Nat), s.dev.on 15 = true → ∃ e : Dev, e = raise 448 (updPort p.val (fun x => { x with replays := sat32 x.replays, replayCount := x.replayCount + 1 }) (s.dev.at_ t)) ∧ exec (.krmReplayTimeout p t) s = .next { s with dev := if portUp p.val s.dev = true ∧ (kport p.val s.dev).replayBuf ≠ [] then (if 8 ≤ (kport p.val e).replayCount then linkDown p.val e else e) else (s.dev.at_ t) }) ∧
  (∀ (s : State) (p : Fin 4) (t : Nat), s.dev.on 15 = true → exec (.krmAckTimer p t) s = .next { s with dev := if portUp p.val s.dev = false then (s.dev.at_ t) else if (kport p.val s.dev).ackDue = true ∧ nodeAddr s.dev ≠ 0 then grantCredits p.val (sendOn p.val { type := 2, cls := 1, dest := (kport p.val s.dev).nbAddr, src := nodeAddr s.dev, units := 1, payload := [BitVec.ofNat 32 (((kport p.val s.dev).rxExpected + 4095) % 4096)] } (updPort p.val (fun x => { x with ackDue := false }) (s.dev.at_ t))) else grantCredits p.val (s.dev.at_ t) }) ∧
  (∀ (s : State) (c : MnrCmd) (up : Nat) (nb : List (Fin 4 × Nat × Nat × Fin 4)) (t : Taken), Starts Op.FAB_DISCOVER c s.dev t ∧ 0 < t.arg ∧ t.arg < 16 → ∃ e : Dev, e = each (maskIx t.arg 4) (fun p d => (fun d => if portUp p d = true then (match nb.find? fun x => x.1.val == p with | some x => setNeighbour p x.2.1 x.2.2.1 x.2.2.2.val (sendDisc p false d) | none => sendDisc p false d) else d) (if up.testBit p then krmLinkUp p d else d)) (begun Op.FAB_DISCOVER c s.dev) ∧ exec (.fabDiscover c up nb) s = .next { s with dev := finish t.who St.OK (packBits ((List.range 4).map fun p => portUp p e)) [] (raise 456 e) }) ∧
  (∀ (s : State) (c : MnrCmd) (up : Nat) (nb : List (Fin 4 × Nat × Nat × Fin 4)) (t : Taken), Starts Op.FAB_DISCOVER c s.dev t ∧ (t.arg = 0 ∨ 16 ≤ t.arg) → exec (.fabDiscover c up nb) s = .next { s with dev := finish t.who St.BAD_FIELD 0 [] (begun Op.FAB_DISCOVER c s.dev) }) ∧
  (∀ (s : State) (c : MnrCmd) (ds : List Nat) (t : Taken), Starts Op.CAL_DELAY c s.dev t → exec (.calDelay c ds) s = .next { s with dev := if t.arg ≠ 0 then finish t.who St.BAD_FIELD 0 [] (begun Op.CAL_DELAY c s.dev) else finish t.who St.OK 0 [] (each (List.range 4) (fun p d => if portUp p d then updPort p (fun x => { x with delayPs := at' ds p 0 }) d else d) (begun Op.CAL_DELAY c s.dev)) })

/-- GROUP_JOIN as master makes the device master of its group at once; as follower it sends its request and waits, TIMEOUT after 50 ms without an
answer; without an address it answers BAD_FIELD, in a group or joining BUSY. GROUP_LEAVE ends the membership. Every 100 µs a member sends its
heartbeat, and the master decides the joins by rising UID and sends the member list. The master drops a member that is silent; a follower without
LINE blocks has lost its master, a fault of its scan source. A time exchange gives the offset and the delay and corrects the time, by at most 1 ns
once locked or scanning; 16 of them within 100 ps lock it with 449, and without an exchange for 100 µs the lock is lost. The oldest stitched line
commits when its tiles time out. Otherwise only the time changes. Rows: groupJoin, groupLeave, groupJoinTimeout, krmHeartbeat, krmMemberSilent,
krmMasterLost, krmTimeLockLost, krmTimeExchange, stitchTileTimeout. -/
def Obligations.FabricGroups : Prop :=
  (∀ (s : State) (c : MnrCmd) (t : Taken), Starts Op.GROUP_JOIN c s.dev t ∧ t.arg < 32768 ∧ bit t.arg 8 = true ∧ nodeAddr (begun Op.GROUP_JOIN c s.dev) ≠ 0 ∧ (begun Op.GROUP_JOIN c s.dev).krm.member = false ∧ (begun Op.GROUP_JOIN c s.dev).krm.joining = none → exec (.groupJoin c) s = .next { s with dev := finish t.who St.OK 0 [] ((begun Op.GROUP_JOIN c s.dev).uKrm fun k => { k with member := true, role := true, groupId := t.arg % 256, tile := bits t.arg 14 9, master := nodeAddr (begun Op.GROUP_JOIN c s.dev), members := [], timeLock := true, offsetPs := 0, pathDelay := 0 }) }) ∧
  (∀ (s : State) (c : MnrCmd) (t : Taken), Starts Op.GROUP_JOIN c s.dev t ∧ t.arg < 32768 ∧ bit t.arg 8 = false ∧ nodeAddr (begun Op.GROUP_JOIN c s.dev) ≠ 0 ∧ (begun Op.GROUP_JOIN c s.dev).krm.member = false ∧ (begun Op.GROUP_JOIN c s.dev).krm.joining = none → exec (.groupJoin c) s = .next { s with dev := broadcast (groupBlock 0xFFF 1 (t.arg % 256) (bits t.arg 14 9) (begun Op.GROUP_JOIN c s.dev)) ((begun Op.GROUP_JOIN c s.dev).uKrm fun k => { k with joining := some (t.who, t.arg % 256, bits t.arg 14 9) }) }) ∧
  (∀ (s : State) (c : MnrCmd) (t : Taken), Starts Op.GROUP_JOIN c s.dev t ∧ (32768 ≤ t.arg ∨ nodeAddr (begun Op.GROUP_JOIN c s.dev) = 0 ∨ (begun Op.GROUP_JOIN c s.dev).krm.member = true ∨ (begun Op.GROUP_JOIN c s.dev).krm.joining.isSome = true) → exec (.groupJoin c) s = .next { s with dev := finish t.who (if 32768 ≤ t.arg ∨ nodeAddr (begun Op.GROUP_JOIN c s.dev) = 0 then St.BAD_FIELD else St.BUSY) 0 [] (begun Op.GROUP_JOIN c s.dev) }) ∧
  (∀ (s : State) (c : MnrCmd) (t : Taken), Starts Op.GROUP_LEAVE c s.dev t → exec (.groupLeave c) s = .next { s with dev := if t.arg ≠ 0 then finish t.who St.BAD_FIELD 0 [] (begun Op.GROUP_LEAVE c s.dev) else finish t.who St.OK 0 [] (leaveGroup (begun Op.GROUP_LEAVE c s.dev)) }) ∧
  (∀ (d : Dev), d.krm.member = true → (leaveGroup d).krm.member = false ∧ (leaveGroup d).krm.role = false ∧ (leaveGroup d).krm.groupId = 0 ∧ (leaveGroup d).krm.members = [] ∧ (leaveGroup d).krm.timeLock = false ∧ (leaveGroup d).krm.sched = [] ∧ (leaveGroup d).spn.srcFault = d.inMode [.scan, .hold] ∧ (leaveGroup d).objs = d.objs ∧ (leaveGroup d).hostMem = d.hostMem) ∧
  (∀ (s : State) (t : Nat), s.dev.on 15 = true → exec (.groupJoinTimeout t) s = .next { s with dev := match s.dev.krm.joining with | some (w, _, _) => if s.dev.krm.member then (s.dev.at_ t) else finish w St.TIMEOUT 0 [] ((s.dev.at_ t).uKrm fun k => { k with joining := none }) | none => (s.dev.at_ t) }) ∧
  (∀ (s : State) (t : Nat), s.dev.on 15 = true ∧ s.dev.krm.member = false → exec (.krmHeartbeat t) s = .next { s with dev := (s.dev.at_ t) }) ∧
  (∀ (s : State) (t : Nat) (e : Dev), s.dev.on 15 = true ∧ s.dev.krm.member = true ∧ s.dev.krm.role = true ∧ e = each s.dev.krm.joinReqs decideJoin ((s.dev.at_ t).uKrm fun k => { k with joinReqs := [] }) → exec (.krmHeartbeat t) s = .next { s with dev := broadcast (groupBlock 0xFFF 3 (e.krm.members.length + 1) 0 e) e }) ∧
  (∀ (s : State) (t : Nat), s.dev.on 15 = true ∧ s.dev.krm.member = true ∧ s.dev.krm.role = false → exec (.krmHeartbeat t) s = .next { s with dev := if s.dev.krm.master = 0 then (s.dev.at_ t) else sendTo (groupBlock s.dev.krm.master 0 (b2n s.dev.krm.timeLock) (match stitchFmt s.dev with | some f => f + 1 | none => 0) (s.dev.at_ t)) (s.dev.at_ t) }) ∧
  (∀ (s : State) (a : Fin 4096) (t : Nat), s.dev.on 15 = true → exec (.krmMemberSilent a t) s = .next { s with dev := if s.dev.krm.role = true ∧ (s.dev.krm.members.any fun m => m.addr == a.val) = true then setMembers (s.dev.krm.members.filter fun m => m.addr != a.val) (s.dev.at_ t) else (s.dev.at_ t) }) ∧
  (∀ (s : State) (t : Nat), s.dev.on 15 = true → exec (.krmMasterLost t) s = .next { s with dev := if follower s.dev = true ∧ s.dev.krm.master ≠ 0 then scanFault 450 ((timeUnlock (s.dev.at_ t)).uKrm fun k => { k with master := 0, sched := [], mcfg := none }) else (s.dev.at_ t) } ∧ exec (.krmTimeLockLost t) s = .next { s with dev := if follower s.dev = true then timeUnlock (s.dev.at_ t) else (s.dev.at_ t) }) ∧
  (∀ (s : State) (t1 t2 t3 t4 : Nat), s.dev.on 15 = true ∧ (follower s.dev = false ∨ s.dev.krm.master = 0 ∨ routePort s.dev.krm.master s.dev = none) → exec (.krmTimeExchange t1 t2 t3 t4) s = .next s) ∧
  (∀ (s : State) (t1 t2 t3 t4 p : Nat) (th dl h : Int), s.dev.on 15 = true ∧ follower s.dev = true ∧ s.dev.krm.master ≠ 0 ∧ routePort s.dev.krm.master s.dev = some p ∧ p < s.dev.krm.port.length ∧ dl = ((t4 : Int) - t1) - ((t3 : Int) - t2) ∧ th = ((t2 : Int) - t1) - ((t4 : Int) - t3) → h = (if s.dev.krm.timeLock = false ∧ s.dev.inMode [.ready, .calibrate] = true then th * 125 / 2 else clampI (-2000) 2000 (th * 125 / 2)) → ∃ d, exec (.krmTimeExchange t1 t2 t3 t4) s = .next { s with dev := d } ∧ d.krm.offsetPs = th * 125 / 4 ∧ (kport p d).delays = (dl * 125 / 4 :: (kport p s.dev).delays).take 16 ∧ d.krm.pathDelay = (kport p d).delayPs + (kport p s.dev).nbPath ∧ d.krm.ofsHalf = s.dev.krm.ofsHalf - h ∧ d.krm.timeLock = (if s.dev.krm.timeLock then decide ((th * 125 / 4).natAbs ≤ 1000) else decide ((th * 125 / 4).natAbs < 100 ∧ 15 ≤ s.dev.krm.lockCount)) ∧ d.objs = s.dev.objs ∧ d.sec = s.dev.sec) ∧
  (∀ (s : State) (t : Nat), s.dev.on 15 = true → exec (.stitchTileTimeout t) s = .next { s with dev := match s.dev.krm.stitch with | l :: _ => stitchFlush 4 (stitchCommit l ((s.dev.at_ t).at_ (l.openAt + 16000 * cfg Obj.KRM_CTL.TILE_TMO s.dev))) | [] => (s.dev.at_ t) })
end

