-- ==== Sys2Proof/Laws/Acts.lean ====
section
/-! SUPPORT. When a command acts: the conditions of its event, and what the device's state says where they hold. -/

namespace Sys2Proof.Laws

open Sys2Proof.Machine

/-- A command whose condition holds has its effect. -/
theorem act_runs {g : Dev → Bool} (f : Dev → Dev) {s : State} (hg : g s.dev = true) : act g f s = .next { s with dev := f s.dev } := by
  simp [act, guardD, hg]

/-- An event whose condition holds outside RESET has its effect at its instant. -/
theorem event_runs {g : Dev → Bool} (t : Nat) (f : Dev → Dev) {s : State} (hg : g s.dev = true) (hm : s.dev.pwr.mode ≠ .reset) :
    event g t f s = .next { s with dev := f (s.dev.at_ t) } := by
  simp [event, act, guardD, hg, hm]

/-- A domain that runs is not in RESET. -/
theorem on_awake {n : Nat} {d : Dev} (h : Dev.on n d = true) : d.pwr.mode ≠ .reset := by
  intro e; simp [Dev.on, Dev.inMode, e] at h

/-- A powered device is not in RESET. -/
theorem powered_awake {d : Dev} (h : powered d = true) : d.pwr.mode ≠ .reset := by
  intro e; simp [powered, e] at h

/-- An endpoint that executes is not in RESET. -/
theorem endpointRuns_awake {t : Nat} {d : Dev} (h : endpointRuns t d = true) : d.pwr.mode ≠ .reset := by
  intro e; unfold endpointRuns at h; split at h <;> simp [Dev.on, Dev.inMode, e] at h

theorem event_on {n : Nat} (t : Nat) (f : Dev → Dev) {s : State} (h : Dev.on n s.dev = true) :
    event (Dev.on n) t f s = .next { s with dev := f (s.dev.at_ t) } := event_runs t f h (on_awake h)

theorem event_powered (t : Nat) (f : Dev → Dev) {s : State} (h : powered s.dev = true) :
    event powered t f s = .next { s with dev := f (s.dev.at_ t) } := event_runs t f h (powered_awake h)

theorem event_endpoint {e : Nat} (t : Nat) (f : Dev → Dev) {s : State} (h : endpointRuns e s.dev = true) :
    event (endpointRuns e) t f s = .next { s with dev := f (s.dev.at_ t) } := event_runs t f h (endpointRuns_awake h)

theorem event_always (t : Nat) (f : Dev → Dev) {s : State} (h : s.dev.pwr.mode ≠ .reset) :
    event always t f s = .next { s with dev := f (s.dev.at_ t) } := event_runs t f rfl h

/-- The first event of a controller cycle acts on what stood before it, and is noted where it wakes a device that goes to sleep. -/
theorem icDo_first {t : Nat} {d : Dev} (e : IcEv) (h : newCycle t d) : icDo e (d.at_ t) = noteWake e ((freshCycle t e d).uIc fun c => c.run e) := by
  have h' : ¬ (cycle750 (d.at_ t).ic.evAt = cycle750 (d.at_ t).now ∧ (d.at_ t).ic.evs ≠ []) := by
    rintro ⟨a, b⟩
    exact h.elim (fun x => x a) (fun x => b x)
  unfold icDo Ic.cycle Dev.uIc
  simp only [if_neg h']
  rfl

/-- While no sleep is entered or stands, no event is noted. -/
theorem noteWake_awake {e : IcEv} {d : Dev} (h : d.tap.phase = .awake) : noteWake e d = d := by
  unfold noteWake
  split <;> simp [h]

/-- The first event of a controller cycle acts on what stood before it, while no sleep is entered or stands. -/
theorem icDo_fresh {t : Nat} {d : Dev} (e : IcEv) (h : newCycle t d) (ha : d.tap.phase = .awake) :
    icDo e (d.at_ t) = (freshCycle t e d).uIc fun c => c.run e := (icDo_first e h).trans (noteWake_awake ha)

/-- A Meoner command that starts runs its body on the device that has begun it. -/
theorem command_body {op : Nat} {c : MnrCmd} {d : Dev} {t : Taken} (body : Taken → Dev → Dev) (h : Starts op c d t) :
    command op c body d = body t (begun op c d) := by
  obtain ⟨_, h1, h2⟩ := h
  unfold command begun at *
  generalize beginCommand op c (cmdAt c d) = p at *
  obtain ⟨e, o⟩ := p
  simp only at h1 h2
  subst h1
  simp only [h2, if_true]

/-- A command whose meaning is a Meoner command that starts answers with its body's device. -/
theorem act_command {op : Nat} {c : MnrCmd} {s : State} {t : Taken} (body : Taken → Dev → Dev) (h : Starts op c s.dev t) :
    act coresRun (command op c body) s = .next { s with dev := body t (begun op c s.dev) } := by
  rw [act_runs _ h.1, command_body body h]

/-- An OBJ_WRITE that starts and is accepted has the effect of the object's owner. -/
theorem objWrite_accepted {c : MnrCmd} {d : Dev} {t : Taken} (hs : Starts Op.OBJ_WRITE c d t)
    (ha : writeAccepted c t (begun Op.OBJ_WRITE c d) = true) : objWrite c d = writeEffect c t (begun Op.OBJ_WRITE c d) := by
  unfold objWrite
  rw [command_body _ hs]
  clear hs
  generalize begun Op.OBJ_WRITE c d = e at *
  unfold writeAccepted at ha
  unfold writeEffect writtenWords
  simp only
  cases ho : objDef (t.arg % 65536) e with
  | none => simp [ho] at ha
  | some o =>
    simp only [ho, Bool.and_eq_true, decide_eq_true_eq, Bool.not_eq_true', Option.isNone_iff_eq_none, Bool.not_eq_eq_eq_not] at ha
    obtain ⟨⟨a, b⟩, ⟨⟨⟨⟨c1, c2⟩, c3⟩, c4⟩, c5⟩, c6⟩ := ha
    simp [Nat.not_le.mpr a, b, c1, c2, c3, c4, c6, firstSome, firstFail]
    simp at c4 c5
    simp [c4, c5]

/-- A row that writes one object has its owner's effect when the write starts and is accepted. -/
theorem namedWrite_accepted {id : Nat} {c : MnrCmd} {s : State} {t : Taken} (ho : otherTaken id c s.dev = false)
    (hs : Starts Op.OBJ_WRITE (withObj id c) s.dev t) (ha : writeAccepted (withObj id c) t (begun Op.OBJ_WRITE (withObj id c) s.dev) = true) :
    act coresRun (namedWrite id c) s = .next { s with dev := writeEffect (withObj id c) t (begun Op.OBJ_WRITE (withObj id c) s.dev) } := by
  rw [act_runs _ hs.1]
  simp only [namedWrite, ho, Bool.false_eq_true, if_false, objWrite_accepted hs ha]

end Sys2Proof.Laws
end

