-- ==== Sys2Proof/Laws/State.lean ====
section
/-! SUPPORT. What each updater of the device leaves in each field: one lemma per field per update, each true by rfl. -/

namespace Sys2Proof.Laws

open Sys2Proof.Machine

@[simp] theorem uSpn_now (f : Spn → Spn) (d : Dev) : (d.uSpn f).now = d.now := (rfl)
@[simp] theorem uSpn_seed (f : Spn → Spn) (d : Dev) : (d.uSpn f).seed = d.seed := (rfl)
@[simp] theorem uSpn_objs (f : Spn → Spn) (d : Dev) : (d.uSpn f).objs = d.objs := (rfl)
@[simp] theorem uSpn_liveOld (f : Spn → Spn) (d : Dev) : (d.uSpn f).liveOld = d.liveOld := (rfl)
@[simp] theorem uSpn_hostMem (f : Spn → Spn) (d : Dev) : (d.uSpn f).hostMem = d.hostMem := (rfl)
@[simp] theorem uSpn_lines (f : Spn → Spn) (d : Dev) : (d.uSpn f).lines = d.lines := (rfl)
@[simp] theorem uSpn_spn (f : Spn → Spn) (d : Dev) : (d.uSpn f).spn = f d.spn := (rfl)
@[simp] theorem uSpn_sdrv (f : Spn → Spn) (d : Dev) : (d.uSpn f).sdrv = d.sdrv := (rfl)
@[simp] theorem uSpn_acq (f : Spn → Spn) (d : Dev) : (d.uSpn f).acq = d.acq := (rfl)
@[simp] theorem uSpn_cal (f : Spn → Spn) (d : Dev) : (d.uSpn f).cal = d.cal := (rfl)
@[simp] theorem uSpn_jlk (f : Spn → Spn) (d : Dev) : (d.uSpn f).jlk = d.jlk := (rfl)
@[simp] theorem uSpn_hdl (f : Spn → Spn) (d : Dev) : (d.uSpn f).hdl = d.hdl := (rfl)
@[simp] theorem uSpn_tdi (f : Spn → Spn) (d : Dev) : (d.uSpn f).tdi = d.tdi := (rfl)
@[simp] theorem uSpn_stat (f : Spn → Spn) (d : Dev) : (d.uSpn f).stat = d.stat := (rfl)
@[simp] theorem uSpn_skn (f : Spn → Spn) (d : Dev) : (d.uSpn f).skn = d.skn := (rfl)
@[simp] theorem uSpn_pace (f : Spn → Spn) (d : Dev) : (d.uSpn f).pace = d.pace := (rfl)
@[simp] theorem uSpn_hs (f : Spn → Spn) (d : Dev) : (d.uSpn f).hs = d.hs := (rfl)
@[simp] theorem uSpn_mbx (f : Spn → Spn) (d : Dev) : (d.uSpn f).mbx = d.mbx := (rfl)
@[simp] theorem uSpn_mnr (f : Spn → Spn) (d : Dev) : (d.uSpn f).mnr = d.mnr := (rfl)
@[simp] theorem uSpn_ic (f : Spn → Spn) (d : Dev) : (d.uSpn f).ic = d.ic := (rfl)
@[simp] theorem uSpn_tap (f : Spn → Spn) (d : Dev) : (d.uSpn f).tap = d.tap := (rfl)
@[simp] theorem uSpn_shu (f : Spn → Spn) (d : Dev) : (d.uSpn f).shu = d.shu := (rfl)
@[simp] theorem uSpn_ilm (f : Spn → Spn) (d : Dev) : (d.uSpn f).ilm = d.ilm := (rfl)
@[simp] theorem uSpn_aux (f : Spn → Spn) (d : Dev) : (d.uSpn f).aux = d.aux := (rfl)
@[simp] theorem uSpn_krm (f : Spn → Spn) (d : Dev) : (d.uSpn f).krm = d.krm := (rfl)
@[simp] theorem uSpn_pwr (f : Spn → Spn) (d : Dev) : (d.uSpn f).pwr = d.pwr := (rfl)
@[simp] theorem uSpn_sec (f : Spn → Spn) (d : Dev) : (d.uSpn f).sec = d.sec := (rfl)
@[simp] theorem uSdrv_now (f : Sdrv → Sdrv) (d : Dev) : (d.uSdrv f).now = d.now := (rfl)
@[simp] theorem uSdrv_seed (f : Sdrv → Sdrv) (d : Dev) : (d.uSdrv f).seed = d.seed := (rfl)
@[simp] theorem uSdrv_objs (f : Sdrv → Sdrv) (d : Dev) : (d.uSdrv f).objs = d.objs := (rfl)
@[simp] theorem uSdrv_liveOld (f : Sdrv → Sdrv) (d : Dev) : (d.uSdrv f).liveOld = d.liveOld := (rfl)
@[simp] theorem uSdrv_hostMem (f : Sdrv → Sdrv) (d : Dev) : (d.uSdrv f).hostMem = d.hostMem := (rfl)
@[simp] theorem uSdrv_lines (f : Sdrv → Sdrv) (d : Dev) : (d.uSdrv f).lines = d.lines := (rfl)
@[simp] theorem uSdrv_spn (f : Sdrv → Sdrv) (d : Dev) : (d.uSdrv f).spn = d.spn := (rfl)
@[simp] theorem uSdrv_sdrv (f : Sdrv → Sdrv) (d : Dev) : (d.uSdrv f).sdrv = f d.sdrv := (rfl)
@[simp] theorem uSdrv_acq (f : Sdrv → Sdrv) (d : Dev) : (d.uSdrv f).acq = d.acq := (rfl)
@[simp] theorem uSdrv_cal (f : Sdrv → Sdrv) (d : Dev) : (d.uSdrv f).cal = d.cal := (rfl)
@[simp] theorem uSdrv_jlk (f : Sdrv → Sdrv) (d : Dev) : (d.uSdrv f).jlk = d.jlk := (rfl)
@[simp] theorem uSdrv_hdl (f : Sdrv → Sdrv) (d : Dev) : (d.uSdrv f).hdl = d.hdl := (rfl)
@[simp] theorem uSdrv_tdi (f : Sdrv → Sdrv) (d : Dev) : (d.uSdrv f).tdi = d.tdi := (rfl)
@[simp] theorem uSdrv_stat (f : Sdrv → Sdrv) (d : Dev) : (d.uSdrv f).stat = d.stat := (rfl)
@[simp] theorem uSdrv_skn (f : Sdrv → Sdrv) (d : Dev) : (d.uSdrv f).skn = d.skn := (rfl)
@[simp] theorem uSdrv_pace (f : Sdrv → Sdrv) (d : Dev) : (d.uSdrv f).pace = d.pace := (rfl)
@[simp] theorem uSdrv_hs (f : Sdrv → Sdrv) (d : Dev) : (d.uSdrv f).hs = d.hs := (rfl)
@[simp] theorem uSdrv_mbx (f : Sdrv → Sdrv) (d : Dev) : (d.uSdrv f).mbx = d.mbx := (rfl)
@[simp] theorem uSdrv_mnr (f : Sdrv → Sdrv) (d : Dev) : (d.uSdrv f).mnr = d.mnr := (rfl)
@[simp] theorem uSdrv_ic (f : Sdrv → Sdrv) (d : Dev) : (d.uSdrv f).ic = d.ic := (rfl)
@[simp] theorem uSdrv_tap (f : Sdrv → Sdrv) (d : Dev) : (d.uSdrv f).tap = d.tap := (rfl)
@[simp] theorem uSdrv_shu (f : Sdrv → Sdrv) (d : Dev) : (d.uSdrv f).shu = d.shu := (rfl)
@[simp] theorem uSdrv_ilm (f : Sdrv → Sdrv) (d : Dev) : (d.uSdrv f).ilm = d.ilm := (rfl)
@[simp] theorem uSdrv_aux (f : Sdrv → Sdrv) (d : Dev) : (d.uSdrv f).aux = d.aux := (rfl)
@[simp] theorem uSdrv_krm (f : Sdrv → Sdrv) (d : Dev) : (d.uSdrv f).krm = d.krm := (rfl)
@[simp] theorem uSdrv_pwr (f : Sdrv → Sdrv) (d : Dev) : (d.uSdrv f).pwr = d.pwr := (rfl)
@[simp] theorem uSdrv_sec (f : Sdrv → Sdrv) (d : Dev) : (d.uSdrv f).sec = d.sec := (rfl)
@[simp] theorem uAcq_now (f : Acq → Acq) (d : Dev) : (d.uAcq f).now = d.now := (rfl)
@[simp] theorem uAcq_seed (f : Acq → Acq) (d : Dev) : (d.uAcq f).seed = d.seed := (rfl)
@[simp] theorem uAcq_objs (f : Acq → Acq) (d : Dev) : (d.uAcq f).objs = d.objs := (rfl)
@[simp] theorem uAcq_liveOld (f : Acq → Acq) (d : Dev) : (d.uAcq f).liveOld = d.liveOld := (rfl)
@[simp] theorem uAcq_hostMem (f : Acq → Acq) (d : Dev) : (d.uAcq f).hostMem = d.hostMem := (rfl)
@[simp] theorem uAcq_lines (f : Acq → Acq) (d : Dev) : (d.uAcq f).lines = d.lines := (rfl)
@[simp] theorem uAcq_spn (f : Acq → Acq) (d : Dev) : (d.uAcq f).spn = d.spn := (rfl)
@[simp] theorem uAcq_sdrv (f : Acq → Acq) (d : Dev) : (d.uAcq f).sdrv = d.sdrv := (rfl)
@[simp] theorem uAcq_acq (f : Acq → Acq) (d : Dev) : (d.uAcq f).acq = f d.acq := (rfl)
@[simp] theorem uAcq_cal (f : Acq → Acq) (d : Dev) : (d.uAcq f).cal = d.cal := (rfl)
@[simp] theorem uAcq_jlk (f : Acq → Acq) (d : Dev) : (d.uAcq f).jlk = d.jlk := (rfl)
@[simp] theorem uAcq_hdl (f : Acq → Acq) (d : Dev) : (d.uAcq f).hdl = d.hdl := (rfl)
@[simp] theorem uAcq_tdi (f : Acq → Acq) (d : Dev) : (d.uAcq f).tdi = d.tdi := (rfl)
@[simp] theorem uAcq_stat (f : Acq → Acq) (d : Dev) : (d.uAcq f).stat = d.stat := (rfl)
@[simp] theorem uAcq_skn (f : Acq → Acq) (d : Dev) : (d.uAcq f).skn = d.skn := (rfl)
@[simp] theorem uAcq_pace (f : Acq → Acq) (d : Dev) : (d.uAcq f).pace = d.pace := (rfl)
@[simp] theorem uAcq_hs (f : Acq → Acq) (d : Dev) : (d.uAcq f).hs = d.hs := (rfl)
@[simp] theorem uAcq_mbx (f : Acq → Acq) (d : Dev) : (d.uAcq f).mbx = d.mbx := (rfl)
@[simp] theorem uAcq_mnr (f : Acq → Acq) (d : Dev) : (d.uAcq f).mnr = d.mnr := (rfl)
@[simp] theorem uAcq_ic (f : Acq → Acq) (d : Dev) : (d.uAcq f).ic = d.ic := (rfl)
@[simp] theorem uAcq_tap (f : Acq → Acq) (d : Dev) : (d.uAcq f).tap = d.tap := (rfl)
@[simp] theorem uAcq_shu (f : Acq → Acq) (d : Dev) : (d.uAcq f).shu = d.shu := (rfl)
@[simp] theorem uAcq_ilm (f : Acq → Acq) (d : Dev) : (d.uAcq f).ilm = d.ilm := (rfl)
@[simp] theorem uAcq_aux (f : Acq → Acq) (d : Dev) : (d.uAcq f).aux = d.aux := (rfl)
@[simp] theorem uAcq_krm (f : Acq → Acq) (d : Dev) : (d.uAcq f).krm = d.krm := (rfl)
@[simp] theorem uAcq_pwr (f : Acq → Acq) (d : Dev) : (d.uAcq f).pwr = d.pwr := (rfl)
@[simp] theorem uAcq_sec (f : Acq → Acq) (d : Dev) : (d.uAcq f).sec = d.sec := (rfl)
@[simp] theorem uCal_now (f : Cal → Cal) (d : Dev) : (d.uCal f).now = d.now := (rfl)
@[simp] theorem uCal_seed (f : Cal → Cal) (d : Dev) : (d.uCal f).seed = d.seed := (rfl)
@[simp] theorem uCal_objs (f : Cal → Cal) (d : Dev) : (d.uCal f).objs = d.objs := (rfl)
@[simp] theorem uCal_liveOld (f : Cal → Cal) (d : Dev) : (d.uCal f).liveOld = d.liveOld := (rfl)
@[simp] theorem uCal_hostMem (f : Cal → Cal) (d : Dev) : (d.uCal f).hostMem = d.hostMem := (rfl)
@[simp] theorem uCal_lines (f : Cal → Cal) (d : Dev) : (d.uCal f).lines = d.lines := (rfl)
@[simp] theorem uCal_spn (f : Cal → Cal) (d : Dev) : (d.uCal f).spn = d.spn := (rfl)
@[simp] theorem uCal_sdrv (f : Cal → Cal) (d : Dev) : (d.uCal f).sdrv = d.sdrv := (rfl)
@[simp] theorem uCal_acq (f : Cal → Cal) (d : Dev) : (d.uCal f).acq = d.acq := (rfl)
@[simp] theorem uCal_cal (f : Cal → Cal) (d : Dev) : (d.uCal f).cal = f d.cal := (rfl)
@[simp] theorem uCal_jlk (f : Cal → Cal) (d : Dev) : (d.uCal f).jlk = d.jlk := (rfl)
@[simp] theorem uCal_hdl (f : Cal → Cal) (d : Dev) : (d.uCal f).hdl = d.hdl := (rfl)
@[simp] theorem uCal_tdi (f : Cal → Cal) (d : Dev) : (d.uCal f).tdi = d.tdi := (rfl)
@[simp] theorem uCal_stat (f : Cal → Cal) (d : Dev) : (d.uCal f).stat = d.stat := (rfl)
@[simp] theorem uCal_skn (f : Cal → Cal) (d : Dev) : (d.uCal f).skn = d.skn := (rfl)
@[simp] theorem uCal_pace (f : Cal → Cal) (d : Dev) : (d.uCal f).pace = d.pace := (rfl)
@[simp] theorem uCal_hs (f : Cal → Cal) (d : Dev) : (d.uCal f).hs = d.hs := (rfl)
@[simp] theorem uCal_mbx (f : Cal → Cal) (d : Dev) : (d.uCal f).mbx = d.mbx := (rfl)
@[simp] theorem uCal_mnr (f : Cal → Cal) (d : Dev) : (d.uCal f).mnr = d.mnr := (rfl)
@[simp] theorem uCal_ic (f : Cal → Cal) (d : Dev) : (d.uCal f).ic = d.ic := (rfl)
@[simp] theorem uCal_tap (f : Cal → Cal) (d : Dev) : (d.uCal f).tap = d.tap := (rfl)
@[simp] theorem uCal_shu (f : Cal → Cal) (d : Dev) : (d.uCal f).shu = d.shu := (rfl)
@[simp] theorem uCal_ilm (f : Cal → Cal) (d : Dev) : (d.uCal f).ilm = d.ilm := (rfl)
@[simp] theorem uCal_aux (f : Cal → Cal) (d : Dev) : (d.uCal f).aux = d.aux := (rfl)
@[simp] theorem uCal_krm (f : Cal → Cal) (d : Dev) : (d.uCal f).krm = d.krm := (rfl)
@[simp] theorem uCal_pwr (f : Cal → Cal) (d : Dev) : (d.uCal f).pwr = d.pwr := (rfl)
@[simp] theorem uCal_sec (f : Cal → Cal) (d : Dev) : (d.uCal f).sec = d.sec := (rfl)
@[simp] theorem uJlk_now (f : Jlk → Jlk) (d : Dev) : (d.uJlk f).now = d.now := (rfl)
@[simp] theorem uJlk_seed (f : Jlk → Jlk) (d : Dev) : (d.uJlk f).seed = d.seed := (rfl)
@[simp] theorem uJlk_objs (f : Jlk → Jlk) (d : Dev) : (d.uJlk f).objs = d.objs := (rfl)
@[simp] theorem uJlk_liveOld (f : Jlk → Jlk) (d : Dev) : (d.uJlk f).liveOld = d.liveOld := (rfl)
@[simp] theorem uJlk_hostMem (f : Jlk → Jlk) (d : Dev) : (d.uJlk f).hostMem = d.hostMem := (rfl)
@[simp] theorem uJlk_lines (f : Jlk → Jlk) (d : Dev) : (d.uJlk f).lines = d.lines := (rfl)
@[simp] theorem uJlk_spn (f : Jlk → Jlk) (d : Dev) : (d.uJlk f).spn = d.spn := (rfl)
@[simp] theorem uJlk_sdrv (f : Jlk → Jlk) (d : Dev) : (d.uJlk f).sdrv = d.sdrv := (rfl)
@[simp] theorem uJlk_acq (f : Jlk → Jlk) (d : Dev) : (d.uJlk f).acq = d.acq := (rfl)
@[simp] theorem uJlk_cal (f : Jlk → Jlk) (d : Dev) : (d.uJlk f).cal = d.cal := (rfl)
@[simp] theorem uJlk_jlk (f : Jlk → Jlk) (d : Dev) : (d.uJlk f).jlk = f d.jlk := (rfl)
@[simp] theorem uJlk_hdl (f : Jlk → Jlk) (d : Dev) : (d.uJlk f).hdl = d.hdl := (rfl)
@[simp] theorem uJlk_tdi (f : Jlk → Jlk) (d : Dev) : (d.uJlk f).tdi = d.tdi := (rfl)
@[simp] theorem uJlk_stat (f : Jlk → Jlk) (d : Dev) : (d.uJlk f).stat = d.stat := (rfl)
@[simp] theorem uJlk_skn (f : Jlk → Jlk) (d : Dev) : (d.uJlk f).skn = d.skn := (rfl)
@[simp] theorem uJlk_pace (f : Jlk → Jlk) (d : Dev) : (d.uJlk f).pace = d.pace := (rfl)
@[simp] theorem uJlk_hs (f : Jlk → Jlk) (d : Dev) : (d.uJlk f).hs = d.hs := (rfl)
@[simp] theorem uJlk_mbx (f : Jlk → Jlk) (d : Dev) : (d.uJlk f).mbx = d.mbx := (rfl)
@[simp] theorem uJlk_mnr (f : Jlk → Jlk) (d : Dev) : (d.uJlk f).mnr = d.mnr := (rfl)
@[simp] theorem uJlk_ic (f : Jlk → Jlk) (d : Dev) : (d.uJlk f).ic = d.ic := (rfl)
@[simp] theorem uJlk_tap (f : Jlk → Jlk) (d : Dev) : (d.uJlk f).tap = d.tap := (rfl)
@[simp] theorem uJlk_shu (f : Jlk → Jlk) (d : Dev) : (d.uJlk f).shu = d.shu := (rfl)
@[simp] theorem uJlk_ilm (f : Jlk → Jlk) (d : Dev) : (d.uJlk f).ilm = d.ilm := (rfl)
@[simp] theorem uJlk_aux (f : Jlk → Jlk) (d : Dev) : (d.uJlk f).aux = d.aux := (rfl)
@[simp] theorem uJlk_krm (f : Jlk → Jlk) (d : Dev) : (d.uJlk f).krm = d.krm := (rfl)
@[simp] theorem uJlk_pwr (f : Jlk → Jlk) (d : Dev) : (d.uJlk f).pwr = d.pwr := (rfl)
@[simp] theorem uJlk_sec (f : Jlk → Jlk) (d : Dev) : (d.uJlk f).sec = d.sec := (rfl)
@[simp] theorem uHdl_now (f : Hdl → Hdl) (d : Dev) : (d.uHdl f).now = d.now := (rfl)
@[simp] theorem uHdl_seed (f : Hdl → Hdl) (d : Dev) : (d.uHdl f).seed = d.seed := (rfl)
@[simp] theorem uHdl_objs (f : Hdl → Hdl) (d : Dev) : (d.uHdl f).objs = d.objs := (rfl)
@[simp] theorem uHdl_liveOld (f : Hdl → Hdl) (d : Dev) : (d.uHdl f).liveOld = d.liveOld := (rfl)
@[simp] theorem uHdl_hostMem (f : Hdl → Hdl) (d : Dev) : (d.uHdl f).hostMem = d.hostMem := (rfl)
@[simp] theorem uHdl_lines (f : Hdl → Hdl) (d : Dev) : (d.uHdl f).lines = d.lines := (rfl)
@[simp] theorem uHdl_spn (f : Hdl → Hdl) (d : Dev) : (d.uHdl f).spn = d.spn := (rfl)
@[simp] theorem uHdl_sdrv (f : Hdl → Hdl) (d : Dev) : (d.uHdl f).sdrv = d.sdrv := (rfl)
@[simp] theorem uHdl_acq (f : Hdl → Hdl) (d : Dev) : (d.uHdl f).acq = d.acq := (rfl)
@[simp] theorem uHdl_cal (f : Hdl → Hdl) (d : Dev) : (d.uHdl f).cal = d.cal := (rfl)
@[simp] theorem uHdl_jlk (f : Hdl → Hdl) (d : Dev) : (d.uHdl f).jlk = d.jlk := (rfl)
@[simp] theorem uHdl_hdl (f : Hdl → Hdl) (d : Dev) : (d.uHdl f).hdl = f d.hdl := (rfl)
@[simp] theorem uHdl_tdi (f : Hdl → Hdl) (d : Dev) : (d.uHdl f).tdi = d.tdi := (rfl)
@[simp] theorem uHdl_stat (f : Hdl → Hdl) (d : Dev) : (d.uHdl f).stat = d.stat := (rfl)
@[simp] theorem uHdl_skn (f : Hdl → Hdl) (d : Dev) : (d.uHdl f).skn = d.skn := (rfl)
@[simp] theorem uHdl_pace (f : Hdl → Hdl) (d : Dev) : (d.uHdl f).pace = d.pace := (rfl)
@[simp] theorem uHdl_hs (f : Hdl → Hdl) (d : Dev) : (d.uHdl f).hs = d.hs := (rfl)
@[simp] theorem uHdl_mbx (f : Hdl → Hdl) (d : Dev) : (d.uHdl f).mbx = d.mbx := (rfl)
@[simp] theorem uHdl_mnr (f : Hdl → Hdl) (d : Dev) : (d.uHdl f).mnr = d.mnr := (rfl)
@[simp] theorem uHdl_ic (f : Hdl → Hdl) (d : Dev) : (d.uHdl f).ic = d.ic := (rfl)
@[simp] theorem uHdl_tap (f : Hdl → Hdl) (d : Dev) : (d.uHdl f).tap = d.tap := (rfl)
@[simp] theorem uHdl_shu (f : Hdl → Hdl) (d : Dev) : (d.uHdl f).shu = d.shu := (rfl)
@[simp] theorem uHdl_ilm (f : Hdl → Hdl) (d : Dev) : (d.uHdl f).ilm = d.ilm := (rfl)
@[simp] theorem uHdl_aux (f : Hdl → Hdl) (d : Dev) : (d.uHdl f).aux = d.aux := (rfl)
@[simp] theorem uHdl_krm (f : Hdl → Hdl) (d : Dev) : (d.uHdl f).krm = d.krm := (rfl)
@[simp] theorem uHdl_pwr (f : Hdl → Hdl) (d : Dev) : (d.uHdl f).pwr = d.pwr := (rfl)
@[simp] theorem uHdl_sec (f : Hdl → Hdl) (d : Dev) : (d.uHdl f).sec = d.sec := (rfl)
@[simp] theorem uTdi_now (f : Tdi → Tdi) (d : Dev) : (d.uTdi f).now = d.now := (rfl)
@[simp] theorem uTdi_seed (f : Tdi → Tdi) (d : Dev) : (d.uTdi f).seed = d.seed := (rfl)
@[simp] theorem uTdi_objs (f : Tdi → Tdi) (d : Dev) : (d.uTdi f).objs = d.objs := (rfl)
@[simp] theorem uTdi_liveOld (f : Tdi → Tdi) (d : Dev) : (d.uTdi f).liveOld = d.liveOld := (rfl)
@[simp] theorem uTdi_hostMem (f : Tdi → Tdi) (d : Dev) : (d.uTdi f).hostMem = d.hostMem := (rfl)
@[simp] theorem uTdi_lines (f : Tdi → Tdi) (d : Dev) : (d.uTdi f).lines = d.lines := (rfl)
@[simp] theorem uTdi_spn (f : Tdi → Tdi) (d : Dev) : (d.uTdi f).spn = d.spn := (rfl)
@[simp] theorem uTdi_sdrv (f : Tdi → Tdi) (d : Dev) : (d.uTdi f).sdrv = d.sdrv := (rfl)
@[simp] theorem uTdi_acq (f : Tdi → Tdi) (d : Dev) : (d.uTdi f).acq = d.acq := (rfl)
@[simp] theorem uTdi_cal (f : Tdi → Tdi) (d : Dev) : (d.uTdi f).cal = d.cal := (rfl)
@[simp] theorem uTdi_jlk (f : Tdi → Tdi) (d : Dev) : (d.uTdi f).jlk = d.jlk := (rfl)
@[simp] theorem uTdi_hdl (f : Tdi → Tdi) (d : Dev) : (d.uTdi f).hdl = d.hdl := (rfl)
@[simp] theorem uTdi_tdi (f : Tdi → Tdi) (d : Dev) : (d.uTdi f).tdi = f d.tdi := (rfl)
@[simp] theorem uTdi_stat (f : Tdi → Tdi) (d : Dev) : (d.uTdi f).stat = d.stat := (rfl)
@[simp] theorem uTdi_skn (f : Tdi → Tdi) (d : Dev) : (d.uTdi f).skn = d.skn := (rfl)
@[simp] theorem uTdi_pace (f : Tdi → Tdi) (d : Dev) : (d.uTdi f).pace = d.pace := (rfl)
@[simp] theorem uTdi_hs (f : Tdi → Tdi) (d : Dev) : (d.uTdi f).hs = d.hs := (rfl)
@[simp] theorem uTdi_mbx (f : Tdi → Tdi) (d : Dev) : (d.uTdi f).mbx = d.mbx := (rfl)
@[simp] theorem uTdi_mnr (f : Tdi → Tdi) (d : Dev) : (d.uTdi f).mnr = d.mnr := (rfl)
@[simp] theorem uTdi_ic (f : Tdi → Tdi) (d : Dev) : (d.uTdi f).ic = d.ic := (rfl)
@[simp] theorem uTdi_tap (f : Tdi → Tdi) (d : Dev) : (d.uTdi f).tap = d.tap := (rfl)
@[simp] theorem uTdi_shu (f : Tdi → Tdi) (d : Dev) : (d.uTdi f).shu = d.shu := (rfl)
@[simp] theorem uTdi_ilm (f : Tdi → Tdi) (d : Dev) : (d.uTdi f).ilm = d.ilm := (rfl)
@[simp] theorem uTdi_aux (f : Tdi → Tdi) (d : Dev) : (d.uTdi f).aux = d.aux := (rfl)
@[simp] theorem uTdi_krm (f : Tdi → Tdi) (d : Dev) : (d.uTdi f).krm = d.krm := (rfl)
@[simp] theorem uTdi_pwr (f : Tdi → Tdi) (d : Dev) : (d.uTdi f).pwr = d.pwr := (rfl)
@[simp] theorem uTdi_sec (f : Tdi → Tdi) (d : Dev) : (d.uTdi f).sec = d.sec := (rfl)
@[simp] theorem uStat_now (f : Stat → Stat) (d : Dev) : (d.uStat f).now = d.now := (rfl)
@[simp] theorem uStat_seed (f : Stat → Stat) (d : Dev) : (d.uStat f).seed = d.seed := (rfl)
@[simp] theorem uStat_objs (f : Stat → Stat) (d : Dev) : (d.uStat f).objs = d.objs := (rfl)
@[simp] theorem uStat_liveOld (f : Stat → Stat) (d : Dev) : (d.uStat f).liveOld = d.liveOld := (rfl)
@[simp] theorem uStat_hostMem (f : Stat → Stat) (d : Dev) : (d.uStat f).hostMem = d.hostMem := (rfl)
@[simp] theorem uStat_lines (f : Stat → Stat) (d : Dev) : (d.uStat f).lines = d.lines := (rfl)
@[simp] theorem uStat_spn (f : Stat → Stat) (d : Dev) : (d.uStat f).spn = d.spn := (rfl)
@[simp] theorem uStat_sdrv (f : Stat → Stat) (d : Dev) : (d.uStat f).sdrv = d.sdrv := (rfl)
@[simp] theorem uStat_acq (f : Stat → Stat) (d : Dev) : (d.uStat f).acq = d.acq := (rfl)
@[simp] theorem uStat_cal (f : Stat → Stat) (d : Dev) : (d.uStat f).cal = d.cal := (rfl)
@[simp] theorem uStat_jlk (f : Stat → Stat) (d : Dev) : (d.uStat f).jlk = d.jlk := (rfl)
@[simp] theorem uStat_hdl (f : Stat → Stat) (d : Dev) : (d.uStat f).hdl = d.hdl := (rfl)
@[simp] theorem uStat_tdi (f : Stat → Stat) (d : Dev) : (d.uStat f).tdi = d.tdi := (rfl)
@[simp] theorem uStat_stat (f : Stat → Stat) (d : Dev) : (d.uStat f).stat = f d.stat := (rfl)
@[simp] theorem uStat_skn (f : Stat → Stat) (d : Dev) : (d.uStat f).skn = d.skn := (rfl)
@[simp] theorem uStat_pace (f : Stat → Stat) (d : Dev) : (d.uStat f).pace = d.pace := (rfl)
@[simp] theorem uStat_hs (f : Stat → Stat) (d : Dev) : (d.uStat f).hs = d.hs := (rfl)
@[simp] theorem uStat_mbx (f : Stat → Stat) (d : Dev) : (d.uStat f).mbx = d.mbx := (rfl)
@[simp] theorem uStat_mnr (f : Stat → Stat) (d : Dev) : (d.uStat f).mnr = d.mnr := (rfl)
@[simp] theorem uStat_ic (f : Stat → Stat) (d : Dev) : (d.uStat f).ic = d.ic := (rfl)
@[simp] theorem uStat_tap (f : Stat → Stat) (d : Dev) : (d.uStat f).tap = d.tap := (rfl)
@[simp] theorem uStat_shu (f : Stat → Stat) (d : Dev) : (d.uStat f).shu = d.shu := (rfl)
@[simp] theorem uStat_ilm (f : Stat → Stat) (d : Dev) : (d.uStat f).ilm = d.ilm := (rfl)
@[simp] theorem uStat_aux (f : Stat → Stat) (d : Dev) : (d.uStat f).aux = d.aux := (rfl)
@[simp] theorem uStat_krm (f : Stat → Stat) (d : Dev) : (d.uStat f).krm = d.krm := (rfl)
@[simp] theorem uStat_pwr (f : Stat → Stat) (d : Dev) : (d.uStat f).pwr = d.pwr := (rfl)
@[simp] theorem uStat_sec (f : Stat → Stat) (d : Dev) : (d.uStat f).sec = d.sec := (rfl)
@[simp] theorem uSkn_now (f : Skn → Skn) (d : Dev) : (d.uSkn f).now = d.now := (rfl)
@[simp] theorem uSkn_seed (f : Skn → Skn) (d : Dev) : (d.uSkn f).seed = d.seed := (rfl)
@[simp] theorem uSkn_objs (f : Skn → Skn) (d : Dev) : (d.uSkn f).objs = d.objs := (rfl)
@[simp] theorem uSkn_liveOld (f : Skn → Skn) (d : Dev) : (d.uSkn f).liveOld = d.liveOld := (rfl)
@[simp] theorem uSkn_hostMem (f : Skn → Skn) (d : Dev) : (d.uSkn f).hostMem = d.hostMem := (rfl)
@[simp] theorem uSkn_lines (f : Skn → Skn) (d : Dev) : (d.uSkn f).lines = d.lines := (rfl)
@[simp] theorem uSkn_spn (f : Skn → Skn) (d : Dev) : (d.uSkn f).spn = d.spn := (rfl)
@[simp] theorem uSkn_sdrv (f : Skn → Skn) (d : Dev) : (d.uSkn f).sdrv = d.sdrv := (rfl)
@[simp] theorem uSkn_acq (f : Skn → Skn) (d : Dev) : (d.uSkn f).acq = d.acq := (rfl)
@[simp] theorem uSkn_cal (f : Skn → Skn) (d : Dev) : (d.uSkn f).cal = d.cal := (rfl)
@[simp] theorem uSkn_jlk (f : Skn → Skn) (d : Dev) : (d.uSkn f).jlk = d.jlk := (rfl)
@[simp] theorem uSkn_hdl (f : Skn → Skn) (d : Dev) : (d.uSkn f).hdl = d.hdl := (rfl)
@[simp] theorem uSkn_tdi (f : Skn → Skn) (d : Dev) : (d.uSkn f).tdi = d.tdi := (rfl)
@[simp] theorem uSkn_stat (f : Skn → Skn) (d : Dev) : (d.uSkn f).stat = d.stat := (rfl)
@[simp] theorem uSkn_skn (f : Skn → Skn) (d : Dev) : (d.uSkn f).skn = f d.skn := (rfl)
@[simp] theorem uSkn_pace (f : Skn → Skn) (d : Dev) : (d.uSkn f).pace = d.pace := (rfl)
@[simp] theorem uSkn_hs (f : Skn → Skn) (d : Dev) : (d.uSkn f).hs = d.hs := (rfl)
@[simp] theorem uSkn_mbx (f : Skn → Skn) (d : Dev) : (d.uSkn f).mbx = d.mbx := (rfl)
@[simp] theorem uSkn_mnr (f : Skn → Skn) (d : Dev) : (d.uSkn f).mnr = d.mnr := (rfl)
@[simp] theorem uSkn_ic (f : Skn → Skn) (d : Dev) : (d.uSkn f).ic = d.ic := (rfl)
@[simp] theorem uSkn_tap (f : Skn → Skn) (d : Dev) : (d.uSkn f).tap = d.tap := (rfl)
@[simp] theorem uSkn_shu (f : Skn → Skn) (d : Dev) : (d.uSkn f).shu = d.shu := (rfl)
@[simp] theorem uSkn_ilm (f : Skn → Skn) (d : Dev) : (d.uSkn f).ilm = d.ilm := (rfl)
@[simp] theorem uSkn_aux (f : Skn → Skn) (d : Dev) : (d.uSkn f).aux = d.aux := (rfl)
@[simp] theorem uSkn_krm (f : Skn → Skn) (d : Dev) : (d.uSkn f).krm = d.krm := (rfl)
@[simp] theorem uSkn_pwr (f : Skn → Skn) (d : Dev) : (d.uSkn f).pwr = d.pwr := (rfl)
@[simp] theorem uSkn_sec (f : Skn → Skn) (d : Dev) : (d.uSkn f).sec = d.sec := (rfl)
@[simp] theorem uPace_now (f : Pace → Pace) (d : Dev) : (d.uPace f).now = d.now := (rfl)
@[simp] theorem uPace_seed (f : Pace → Pace) (d : Dev) : (d.uPace f).seed = d.seed := (rfl)
@[simp] theorem uPace_objs (f : Pace → Pace) (d : Dev) : (d.uPace f).objs = d.objs := (rfl)
@[simp] theorem uPace_liveOld (f : Pace → Pace) (d : Dev) : (d.uPace f).liveOld = d.liveOld := (rfl)
@[simp] theorem uPace_hostMem (f : Pace → Pace) (d : Dev) : (d.uPace f).hostMem = d.hostMem := (rfl)
@[simp] theorem uPace_lines (f : Pace → Pace) (d : Dev) : (d.uPace f).lines = d.lines := (rfl)
@[simp] theorem uPace_spn (f : Pace → Pace) (d : Dev) : (d.uPace f).spn = d.spn := (rfl)
@[simp] theorem uPace_sdrv (f : Pace → Pace) (d : Dev) : (d.uPace f).sdrv = d.sdrv := (rfl)
@[simp] theorem uPace_acq (f : Pace → Pace) (d : Dev) : (d.uPace f).acq = d.acq := (rfl)
@[simp] theorem uPace_cal (f : Pace → Pace) (d : Dev) : (d.uPace f).cal = d.cal := (rfl)
@[simp] theorem uPace_jlk (f : Pace → Pace) (d : Dev) : (d.uPace f).jlk = d.jlk := (rfl)
@[simp] theorem uPace_hdl (f : Pace → Pace) (d : Dev) : (d.uPace f).hdl = d.hdl := (rfl)
@[simp] theorem uPace_tdi (f : Pace → Pace) (d : Dev) : (d.uPace f).tdi = d.tdi := (rfl)
@[simp] theorem uPace_stat (f : Pace → Pace) (d : Dev) : (d.uPace f).stat = d.stat := (rfl)
@[simp] theorem uPace_skn (f : Pace → Pace) (d : Dev) : (d.uPace f).skn = d.skn := (rfl)
@[simp] theorem uPace_pace (f : Pace → Pace) (d : Dev) : (d.uPace f).pace = f d.pace := (rfl)
@[simp] theorem uPace_hs (f : Pace → Pace) (d : Dev) : (d.uPace f).hs = d.hs := (rfl)
@[simp] theorem uPace_mbx (f : Pace → Pace) (d : Dev) : (d.uPace f).mbx = d.mbx := (rfl)
@[simp] theorem uPace_mnr (f : Pace → Pace) (d : Dev) : (d.uPace f).mnr = d.mnr := (rfl)
@[simp] theorem uPace_ic (f : Pace → Pace) (d : Dev) : (d.uPace f).ic = d.ic := (rfl)
@[simp] theorem uPace_tap (f : Pace → Pace) (d : Dev) : (d.uPace f).tap = d.tap := (rfl)
@[simp] theorem uPace_shu (f : Pace → Pace) (d : Dev) : (d.uPace f).shu = d.shu := (rfl)
@[simp] theorem uPace_ilm (f : Pace → Pace) (d : Dev) : (d.uPace f).ilm = d.ilm := (rfl)
@[simp] theorem uPace_aux (f : Pace → Pace) (d : Dev) : (d.uPace f).aux = d.aux := (rfl)
@[simp] theorem uPace_krm (f : Pace → Pace) (d : Dev) : (d.uPace f).krm = d.krm := (rfl)
@[simp] theorem uPace_pwr (f : Pace → Pace) (d : Dev) : (d.uPace f).pwr = d.pwr := (rfl)
@[simp] theorem uPace_sec (f : Pace → Pace) (d : Dev) : (d.uPace f).sec = d.sec := (rfl)
@[simp] theorem uHs_now (f : Hs → Hs) (d : Dev) : (d.uHs f).now = d.now := (rfl)
@[simp] theorem uHs_seed (f : Hs → Hs) (d : Dev) : (d.uHs f).seed = d.seed := (rfl)
@[simp] theorem uHs_objs (f : Hs → Hs) (d : Dev) : (d.uHs f).objs = d.objs := (rfl)
@[simp] theorem uHs_liveOld (f : Hs → Hs) (d : Dev) : (d.uHs f).liveOld = d.liveOld := (rfl)
@[simp] theorem uHs_hostMem (f : Hs → Hs) (d : Dev) : (d.uHs f).hostMem = d.hostMem := (rfl)
@[simp] theorem uHs_lines (f : Hs → Hs) (d : Dev) : (d.uHs f).lines = d.lines := (rfl)
@[simp] theorem uHs_spn (f : Hs → Hs) (d : Dev) : (d.uHs f).spn = d.spn := (rfl)
@[simp] theorem uHs_sdrv (f : Hs → Hs) (d : Dev) : (d.uHs f).sdrv = d.sdrv := (rfl)
@[simp] theorem uHs_acq (f : Hs → Hs) (d : Dev) : (d.uHs f).acq = d.acq := (rfl)
@[simp] theorem uHs_cal (f : Hs → Hs) (d : Dev) : (d.uHs f).cal = d.cal := (rfl)
@[simp] theorem uHs_jlk (f : Hs → Hs) (d : Dev) : (d.uHs f).jlk = d.jlk := (rfl)
@[simp] theorem uHs_hdl (f : Hs → Hs) (d : Dev) : (d.uHs f).hdl = d.hdl := (rfl)
@[simp] theorem uHs_tdi (f : Hs → Hs) (d : Dev) : (d.uHs f).tdi = d.tdi := (rfl)
@[simp] theorem uHs_stat (f : Hs → Hs) (d : Dev) : (d.uHs f).stat = d.stat := (rfl)
@[simp] theorem uHs_skn (f : Hs → Hs) (d : Dev) : (d.uHs f).skn = d.skn := (rfl)
@[simp] theorem uHs_pace (f : Hs → Hs) (d : Dev) : (d.uHs f).pace = d.pace := (rfl)
@[simp] theorem uHs_hs (f : Hs → Hs) (d : Dev) : (d.uHs f).hs = f d.hs := (rfl)
@[simp] theorem uHs_mbx (f : Hs → Hs) (d : Dev) : (d.uHs f).mbx = d.mbx := (rfl)
@[simp] theorem uHs_mnr (f : Hs → Hs) (d : Dev) : (d.uHs f).mnr = d.mnr := (rfl)
@[simp] theorem uHs_ic (f : Hs → Hs) (d : Dev) : (d.uHs f).ic = d.ic := (rfl)
@[simp] theorem uHs_tap (f : Hs → Hs) (d : Dev) : (d.uHs f).tap = d.tap := (rfl)
@[simp] theorem uHs_shu (f : Hs → Hs) (d : Dev) : (d.uHs f).shu = d.shu := (rfl)
@[simp] theorem uHs_ilm (f : Hs → Hs) (d : Dev) : (d.uHs f).ilm = d.ilm := (rfl)
@[simp] theorem uHs_aux (f : Hs → Hs) (d : Dev) : (d.uHs f).aux = d.aux := (rfl)
@[simp] theorem uHs_krm (f : Hs → Hs) (d : Dev) : (d.uHs f).krm = d.krm := (rfl)
@[simp] theorem uHs_pwr (f : Hs → Hs) (d : Dev) : (d.uHs f).pwr = d.pwr := (rfl)
@[simp] theorem uHs_sec (f : Hs → Hs) (d : Dev) : (d.uHs f).sec = d.sec := (rfl)
@[simp] theorem uMbx_now (f : Mbx → Mbx) (d : Dev) : (d.uMbx f).now = d.now := (rfl)
@[simp] theorem uMbx_seed (f : Mbx → Mbx) (d : Dev) : (d.uMbx f).seed = d.seed := (rfl)
@[simp] theorem uMbx_objs (f : Mbx → Mbx) (d : Dev) : (d.uMbx f).objs = d.objs := (rfl)
@[simp] theorem uMbx_liveOld (f : Mbx → Mbx) (d : Dev) : (d.uMbx f).liveOld = d.liveOld := (rfl)
@[simp] theorem uMbx_hostMem (f : Mbx → Mbx) (d : Dev) : (d.uMbx f).hostMem = d.hostMem := (rfl)
@[simp] theorem uMbx_lines (f : Mbx → Mbx) (d : Dev) : (d.uMbx f).lines = d.lines := (rfl)
@[simp] theorem uMbx_spn (f : Mbx → Mbx) (d : Dev) : (d.uMbx f).spn = d.spn := (rfl)
@[simp] theorem uMbx_sdrv (f : Mbx → Mbx) (d : Dev) : (d.uMbx f).sdrv = d.sdrv := (rfl)
@[simp] theorem uMbx_acq (f : Mbx → Mbx) (d : Dev) : (d.uMbx f).acq = d.acq := (rfl)
@[simp] theorem uMbx_cal (f : Mbx → Mbx) (d : Dev) : (d.uMbx f).cal = d.cal := (rfl)
@[simp] theorem uMbx_jlk (f : Mbx → Mbx) (d : Dev) : (d.uMbx f).jlk = d.jlk := (rfl)
@[simp] theorem uMbx_hdl (f : Mbx → Mbx) (d : Dev) : (d.uMbx f).hdl = d.hdl := (rfl)
@[simp] theorem uMbx_tdi (f : Mbx → Mbx) (d : Dev) : (d.uMbx f).tdi = d.tdi := (rfl)
@[simp] theorem uMbx_stat (f : Mbx → Mbx) (d : Dev) : (d.uMbx f).stat = d.stat := (rfl)
@[simp] theorem uMbx_skn (f : Mbx → Mbx) (d : Dev) : (d.uMbx f).skn = d.skn := (rfl)
@[simp] theorem uMbx_pace (f : Mbx → Mbx) (d : Dev) : (d.uMbx f).pace = d.pace := (rfl)
@[simp] theorem uMbx_hs (f : Mbx → Mbx) (d : Dev) : (d.uMbx f).hs = d.hs := (rfl)
@[simp] theorem uMbx_mbx (f : Mbx → Mbx) (d : Dev) : (d.uMbx f).mbx = f d.mbx := (rfl)
@[simp] theorem uMbx_mnr (f : Mbx → Mbx) (d : Dev) : (d.uMbx f).mnr = d.mnr := (rfl)
@[simp] theorem uMbx_ic (f : Mbx → Mbx) (d : Dev) : (d.uMbx f).ic = d.ic := (rfl)
@[simp] theorem uMbx_tap (f : Mbx → Mbx) (d : Dev) : (d.uMbx f).tap = d.tap := (rfl)
@[simp] theorem uMbx_shu (f : Mbx → Mbx) (d : Dev) : (d.uMbx f).shu = d.shu := (rfl)
@[simp] theorem uMbx_ilm (f : Mbx → Mbx) (d : Dev) : (d.uMbx f).ilm = d.ilm := (rfl)
@[simp] theorem uMbx_aux (f : Mbx → Mbx) (d : Dev) : (d.uMbx f).aux = d.aux := (rfl)
@[simp] theorem uMbx_krm (f : Mbx → Mbx) (d : Dev) : (d.uMbx f).krm = d.krm := (rfl)
@[simp] theorem uMbx_pwr (f : Mbx → Mbx) (d : Dev) : (d.uMbx f).pwr = d.pwr := (rfl)
@[simp] theorem uMbx_sec (f : Mbx → Mbx) (d : Dev) : (d.uMbx f).sec = d.sec := (rfl)
@[simp] theorem uMnr_now (f : Mnr → Mnr) (d : Dev) : (d.uMnr f).now = d.now := (rfl)
@[simp] theorem uMnr_seed (f : Mnr → Mnr) (d : Dev) : (d.uMnr f).seed = d.seed := (rfl)
@[simp] theorem uMnr_objs (f : Mnr → Mnr) (d : Dev) : (d.uMnr f).objs = d.objs := (rfl)
@[simp] theorem uMnr_liveOld (f : Mnr → Mnr) (d : Dev) : (d.uMnr f).liveOld = d.liveOld := (rfl)
@[simp] theorem uMnr_hostMem (f : Mnr → Mnr) (d : Dev) : (d.uMnr f).hostMem = d.hostMem := (rfl)
@[simp] theorem uMnr_lines (f : Mnr → Mnr) (d : Dev) : (d.uMnr f).lines = d.lines := (rfl)
@[simp] theorem uMnr_spn (f : Mnr → Mnr) (d : Dev) : (d.uMnr f).spn = d.spn := (rfl)
@[simp] theorem uMnr_sdrv (f : Mnr → Mnr) (d : Dev) : (d.uMnr f).sdrv = d.sdrv := (rfl)
@[simp] theorem uMnr_acq (f : Mnr → Mnr) (d : Dev) : (d.uMnr f).acq = d.acq := (rfl)
@[simp] theorem uMnr_cal (f : Mnr → Mnr) (d : Dev) : (d.uMnr f).cal = d.cal := (rfl)
@[simp] theorem uMnr_jlk (f : Mnr → Mnr) (d : Dev) : (d.uMnr f).jlk = d.jlk := (rfl)
@[simp] theorem uMnr_hdl (f : Mnr → Mnr) (d : Dev) : (d.uMnr f).hdl = d.hdl := (rfl)
@[simp] theorem uMnr_tdi (f : Mnr → Mnr) (d : Dev) : (d.uMnr f).tdi = d.tdi := (rfl)
@[simp] theorem uMnr_stat (f : Mnr → Mnr) (d : Dev) : (d.uMnr f).stat = d.stat := (rfl)
@[simp] theorem uMnr_skn (f : Mnr → Mnr) (d : Dev) : (d.uMnr f).skn = d.skn := (rfl)
@[simp] theorem uMnr_pace (f : Mnr → Mnr) (d : Dev) : (d.uMnr f).pace = d.pace := (rfl)
@[simp] theorem uMnr_hs (f : Mnr → Mnr) (d : Dev) : (d.uMnr f).hs = d.hs := (rfl)
@[simp] theorem uMnr_mbx (f : Mnr → Mnr) (d : Dev) : (d.uMnr f).mbx = d.mbx := (rfl)
@[simp] theorem uMnr_mnr (f : Mnr → Mnr) (d : Dev) : (d.uMnr f).mnr = f d.mnr := (rfl)
@[simp] theorem uMnr_ic (f : Mnr → Mnr) (d : Dev) : (d.uMnr f).ic = d.ic := (rfl)
@[simp] theorem uMnr_tap (f : Mnr → Mnr) (d : Dev) : (d.uMnr f).tap = d.tap := (rfl)
@[simp] theorem uMnr_shu (f : Mnr → Mnr) (d : Dev) : (d.uMnr f).shu = d.shu := (rfl)
@[simp] theorem uMnr_ilm (f : Mnr → Mnr) (d : Dev) : (d.uMnr f).ilm = d.ilm := (rfl)
@[simp] theorem uMnr_aux (f : Mnr → Mnr) (d : Dev) : (d.uMnr f).aux = d.aux := (rfl)
@[simp] theorem uMnr_krm (f : Mnr → Mnr) (d : Dev) : (d.uMnr f).krm = d.krm := (rfl)
@[simp] theorem uMnr_pwr (f : Mnr → Mnr) (d : Dev) : (d.uMnr f).pwr = d.pwr := (rfl)
@[simp] theorem uMnr_sec (f : Mnr → Mnr) (d : Dev) : (d.uMnr f).sec = d.sec := (rfl)
@[simp] theorem uIc_now (f : Ic → Ic) (d : Dev) : (d.uIc f).now = d.now := (rfl)
@[simp] theorem uIc_seed (f : Ic → Ic) (d : Dev) : (d.uIc f).seed = d.seed := (rfl)
@[simp] theorem uIc_objs (f : Ic → Ic) (d : Dev) : (d.uIc f).objs = d.objs := (rfl)
@[simp] theorem uIc_liveOld (f : Ic → Ic) (d : Dev) : (d.uIc f).liveOld = d.liveOld := (rfl)
@[simp] theorem uIc_hostMem (f : Ic → Ic) (d : Dev) : (d.uIc f).hostMem = d.hostMem := (rfl)
@[simp] theorem uIc_lines (f : Ic → Ic) (d : Dev) : (d.uIc f).lines = d.lines := (rfl)
@[simp] theorem uIc_spn (f : Ic → Ic) (d : Dev) : (d.uIc f).spn = d.spn := (rfl)
@[simp] theorem uIc_sdrv (f : Ic → Ic) (d : Dev) : (d.uIc f).sdrv = d.sdrv := (rfl)
@[simp] theorem uIc_acq (f : Ic → Ic) (d : Dev) : (d.uIc f).acq = d.acq := (rfl)
@[simp] theorem uIc_cal (f : Ic → Ic) (d : Dev) : (d.uIc f).cal = d.cal := (rfl)
@[simp] theorem uIc_jlk (f : Ic → Ic) (d : Dev) : (d.uIc f).jlk = d.jlk := (rfl)
@[simp] theorem uIc_hdl (f : Ic → Ic) (d : Dev) : (d.uIc f).hdl = d.hdl := (rfl)
@[simp] theorem uIc_tdi (f : Ic → Ic) (d : Dev) : (d.uIc f).tdi = d.tdi := (rfl)
@[simp] theorem uIc_stat (f : Ic → Ic) (d : Dev) : (d.uIc f).stat = d.stat := (rfl)
@[simp] theorem uIc_skn (f : Ic → Ic) (d : Dev) : (d.uIc f).skn = d.skn := (rfl)
@[simp] theorem uIc_pace (f : Ic → Ic) (d : Dev) : (d.uIc f).pace = d.pace := (rfl)
@[simp] theorem uIc_hs (f : Ic → Ic) (d : Dev) : (d.uIc f).hs = d.hs := (rfl)
@[simp] theorem uIc_mbx (f : Ic → Ic) (d : Dev) : (d.uIc f).mbx = d.mbx := (rfl)
@[simp] theorem uIc_mnr (f : Ic → Ic) (d : Dev) : (d.uIc f).mnr = d.mnr := (rfl)
@[simp] theorem uIc_ic (f : Ic → Ic) (d : Dev) : (d.uIc f).ic = f d.ic := (rfl)
@[simp] theorem uIc_tap (f : Ic → Ic) (d : Dev) : (d.uIc f).tap = d.tap := (rfl)
@[simp] theorem uIc_shu (f : Ic → Ic) (d : Dev) : (d.uIc f).shu = d.shu := (rfl)
@[simp] theorem uIc_ilm (f : Ic → Ic) (d : Dev) : (d.uIc f).ilm = d.ilm := (rfl)
@[simp] theorem uIc_aux (f : Ic → Ic) (d : Dev) : (d.uIc f).aux = d.aux := (rfl)
@[simp] theorem uIc_krm (f : Ic → Ic) (d : Dev) : (d.uIc f).krm = d.krm := (rfl)
@[simp] theorem uIc_pwr (f : Ic → Ic) (d : Dev) : (d.uIc f).pwr = d.pwr := (rfl)
@[simp] theorem uIc_sec (f : Ic → Ic) (d : Dev) : (d.uIc f).sec = d.sec := (rfl)
@[simp] theorem uTap_now (f : Tap → Tap) (d : Dev) : (d.uTap f).now = d.now := (rfl)
@[simp] theorem uTap_seed (f : Tap → Tap) (d : Dev) : (d.uTap f).seed = d.seed := (rfl)
@[simp] theorem uTap_objs (f : Tap → Tap) (d : Dev) : (d.uTap f).objs = d.objs := (rfl)
@[simp] theorem uTap_liveOld (f : Tap → Tap) (d : Dev) : (d.uTap f).liveOld = d.liveOld := (rfl)
@[simp] theorem uTap_hostMem (f : Tap → Tap) (d : Dev) : (d.uTap f).hostMem = d.hostMem := (rfl)
@[simp] theorem uTap_lines (f : Tap → Tap) (d : Dev) : (d.uTap f).lines = d.lines := (rfl)
@[simp] theorem uTap_spn (f : Tap → Tap) (d : Dev) : (d.uTap f).spn = d.spn := (rfl)
@[simp] theorem uTap_sdrv (f : Tap → Tap) (d : Dev) : (d.uTap f).sdrv = d.sdrv := (rfl)
@[simp] theorem uTap_acq (f : Tap → Tap) (d : Dev) : (d.uTap f).acq = d.acq := (rfl)
@[simp] theorem uTap_cal (f : Tap → Tap) (d : Dev) : (d.uTap f).cal = d.cal := (rfl)
@[simp] theorem uTap_jlk (f : Tap → Tap) (d : Dev) : (d.uTap f).jlk = d.jlk := (rfl)
@[simp] theorem uTap_hdl (f : Tap → Tap) (d : Dev) : (d.uTap f).hdl = d.hdl := (rfl)
@[simp] theorem uTap_tdi (f : Tap → Tap) (d : Dev) : (d.uTap f).tdi = d.tdi := (rfl)
@[simp] theorem uTap_stat (f : Tap → Tap) (d : Dev) : (d.uTap f).stat = d.stat := (rfl)
@[simp] theorem uTap_skn (f : Tap → Tap) (d : Dev) : (d.uTap f).skn = d.skn := (rfl)
@[simp] theorem uTap_pace (f : Tap → Tap) (d : Dev) : (d.uTap f).pace = d.pace := (rfl)
@[simp] theorem uTap_hs (f : Tap → Tap) (d : Dev) : (d.uTap f).hs = d.hs := (rfl)
@[simp] theorem uTap_mbx (f : Tap → Tap) (d : Dev) : (d.uTap f).mbx = d.mbx := (rfl)
@[simp] theorem uTap_mnr (f : Tap → Tap) (d : Dev) : (d.uTap f).mnr = d.mnr := (rfl)
@[simp] theorem uTap_ic (f : Tap → Tap) (d : Dev) : (d.uTap f).ic = d.ic := (rfl)
@[simp] theorem uTap_tap (f : Tap → Tap) (d : Dev) : (d.uTap f).tap = f d.tap := (rfl)
@[simp] theorem uTap_shu (f : Tap → Tap) (d : Dev) : (d.uTap f).shu = d.shu := (rfl)
@[simp] theorem uTap_ilm (f : Tap → Tap) (d : Dev) : (d.uTap f).ilm = d.ilm := (rfl)
@[simp] theorem uTap_aux (f : Tap → Tap) (d : Dev) : (d.uTap f).aux = d.aux := (rfl)
@[simp] theorem uTap_krm (f : Tap → Tap) (d : Dev) : (d.uTap f).krm = d.krm := (rfl)
@[simp] theorem uTap_pwr (f : Tap → Tap) (d : Dev) : (d.uTap f).pwr = d.pwr := (rfl)
@[simp] theorem uTap_sec (f : Tap → Tap) (d : Dev) : (d.uTap f).sec = d.sec := (rfl)
@[simp] theorem uShu_now (f : Shu → Shu) (d : Dev) : (d.uShu f).now = d.now := (rfl)
@[simp] theorem uShu_seed (f : Shu → Shu) (d : Dev) : (d.uShu f).seed = d.seed := (rfl)
@[simp] theorem uShu_objs (f : Shu → Shu) (d : Dev) : (d.uShu f).objs = d.objs := (rfl)
@[simp] theorem uShu_liveOld (f : Shu → Shu) (d : Dev) : (d.uShu f).liveOld = d.liveOld := (rfl)
@[simp] theorem uShu_hostMem (f : Shu → Shu) (d : Dev) : (d.uShu f).hostMem = d.hostMem := (rfl)
@[simp] theorem uShu_lines (f : Shu → Shu) (d : Dev) : (d.uShu f).lines = d.lines := (rfl)
@[simp] theorem uShu_spn (f : Shu → Shu) (d : Dev) : (d.uShu f).spn = d.spn := (rfl)
@[simp] theorem uShu_sdrv (f : Shu → Shu) (d : Dev) : (d.uShu f).sdrv = d.sdrv := (rfl)
@[simp] theorem uShu_acq (f : Shu → Shu) (d : Dev) : (d.uShu f).acq = d.acq := (rfl)
@[simp] theorem uShu_cal (f : Shu → Shu) (d : Dev) : (d.uShu f).cal = d.cal := (rfl)
@[simp] theorem uShu_jlk (f : Shu → Shu) (d : Dev) : (d.uShu f).jlk = d.jlk := (rfl)
@[simp] theorem uShu_hdl (f : Shu → Shu) (d : Dev) : (d.uShu f).hdl = d.hdl := (rfl)
@[simp] theorem uShu_tdi (f : Shu → Shu) (d : Dev) : (d.uShu f).tdi = d.tdi := (rfl)
@[simp] theorem uShu_stat (f : Shu → Shu) (d : Dev) : (d.uShu f).stat = d.stat := (rfl)
@[simp] theorem uShu_skn (f : Shu → Shu) (d : Dev) : (d.uShu f).skn = d.skn := (rfl)
@[simp] theorem uShu_pace (f : Shu → Shu) (d : Dev) : (d.uShu f).pace = d.pace := (rfl)
@[simp] theorem uShu_hs (f : Shu → Shu) (d : Dev) : (d.uShu f).hs = d.hs := (rfl)
@[simp] theorem uShu_mbx (f : Shu → Shu) (d : Dev) : (d.uShu f).mbx = d.mbx := (rfl)
@[simp] theorem uShu_mnr (f : Shu → Shu) (d : Dev) : (d.uShu f).mnr = d.mnr := (rfl)
@[simp] theorem uShu_ic (f : Shu → Shu) (d : Dev) : (d.uShu f).ic = d.ic := (rfl)
@[simp] theorem uShu_tap (f : Shu → Shu) (d : Dev) : (d.uShu f).tap = d.tap := (rfl)
@[simp] theorem uShu_shu (f : Shu → Shu) (d : Dev) : (d.uShu f).shu = f d.shu := (rfl)
@[simp] theorem uShu_ilm (f : Shu → Shu) (d : Dev) : (d.uShu f).ilm = d.ilm := (rfl)
@[simp] theorem uShu_aux (f : Shu → Shu) (d : Dev) : (d.uShu f).aux = d.aux := (rfl)
@[simp] theorem uShu_krm (f : Shu → Shu) (d : Dev) : (d.uShu f).krm = d.krm := (rfl)
@[simp] theorem uShu_pwr (f : Shu → Shu) (d : Dev) : (d.uShu f).pwr = d.pwr := (rfl)
@[simp] theorem uShu_sec (f : Shu → Shu) (d : Dev) : (d.uShu f).sec = d.sec := (rfl)
@[simp] theorem uIlm_now (f : Ilm → Ilm) (d : Dev) : (d.uIlm f).now = d.now := (rfl)
@[simp] theorem uIlm_seed (f : Ilm → Ilm) (d : Dev) : (d.uIlm f).seed = d.seed := (rfl)
@[simp] theorem uIlm_objs (f : Ilm → Ilm) (d : Dev) : (d.uIlm f).objs = d.objs := (rfl)
@[simp] theorem uIlm_liveOld (f : Ilm → Ilm) (d : Dev) : (d.uIlm f).liveOld = d.liveOld := (rfl)
@[simp] theorem uIlm_hostMem (f : Ilm → Ilm) (d : Dev) : (d.uIlm f).hostMem = d.hostMem := (rfl)
@[simp] theorem uIlm_lines (f : Ilm → Ilm) (d : Dev) : (d.uIlm f).lines = d.lines := (rfl)
@[simp] theorem uIlm_spn (f : Ilm → Ilm) (d : Dev) : (d.uIlm f).spn = d.spn := (rfl)
@[simp] theorem uIlm_sdrv (f : Ilm → Ilm) (d : Dev) : (d.uIlm f).sdrv = d.sdrv := (rfl)
@[simp] theorem uIlm_acq (f : Ilm → Ilm) (d : Dev) : (d.uIlm f).acq = d.acq := (rfl)
@[simp] theorem uIlm_cal (f : Ilm → Ilm) (d : Dev) : (d.uIlm f).cal = d.cal := (rfl)
@[simp] theorem uIlm_jlk (f : Ilm → Ilm) (d : Dev) : (d.uIlm f).jlk = d.jlk := (rfl)
@[simp] theorem uIlm_hdl (f : Ilm → Ilm) (d : Dev) : (d.uIlm f).hdl = d.hdl := (rfl)
@[simp] theorem uIlm_tdi (f : Ilm → Ilm) (d : Dev) : (d.uIlm f).tdi = d.tdi := (rfl)
@[simp] theorem uIlm_stat (f : Ilm → Ilm) (d : Dev) : (d.uIlm f).stat = d.stat := (rfl)
@[simp] theorem uIlm_skn (f : Ilm → Ilm) (d : Dev) : (d.uIlm f).skn = d.skn := (rfl)
@[simp] theorem uIlm_pace (f : Ilm → Ilm) (d : Dev) : (d.uIlm f).pace = d.pace := (rfl)
@[simp] theorem uIlm_hs (f : Ilm → Ilm) (d : Dev) : (d.uIlm f).hs = d.hs := (rfl)
@[simp] theorem uIlm_mbx (f : Ilm → Ilm) (d : Dev) : (d.uIlm f).mbx = d.mbx := (rfl)
@[simp] theorem uIlm_mnr (f : Ilm → Ilm) (d : Dev) : (d.uIlm f).mnr = d.mnr := (rfl)
@[simp] theorem uIlm_ic (f : Ilm → Ilm) (d : Dev) : (d.uIlm f).ic = d.ic := (rfl)
@[simp] theorem uIlm_tap (f : Ilm → Ilm) (d : Dev) : (d.uIlm f).tap = d.tap := (rfl)
@[simp] theorem uIlm_shu (f : Ilm → Ilm) (d : Dev) : (d.uIlm f).shu = d.shu := (rfl)
@[simp] theorem uIlm_ilm (f : Ilm → Ilm) (d : Dev) : (d.uIlm f).ilm = f d.ilm := (rfl)
@[simp] theorem uIlm_aux (f : Ilm → Ilm) (d : Dev) : (d.uIlm f).aux = d.aux := (rfl)
@[simp] theorem uIlm_krm (f : Ilm → Ilm) (d : Dev) : (d.uIlm f).krm = d.krm := (rfl)
@[simp] theorem uIlm_pwr (f : Ilm → Ilm) (d : Dev) : (d.uIlm f).pwr = d.pwr := (rfl)
@[simp] theorem uIlm_sec (f : Ilm → Ilm) (d : Dev) : (d.uIlm f).sec = d.sec := (rfl)
@[simp] theorem uAux_now (f : Aux → Aux) (d : Dev) : (d.uAux f).now = d.now := (rfl)
@[simp] theorem uAux_seed (f : Aux → Aux) (d : Dev) : (d.uAux f).seed = d.seed := (rfl)
@[simp] theorem uAux_objs (f : Aux → Aux) (d : Dev) : (d.uAux f).objs = d.objs := (rfl)
@[simp] theorem uAux_liveOld (f : Aux → Aux) (d : Dev) : (d.uAux f).liveOld = d.liveOld := (rfl)
@[simp] theorem uAux_hostMem (f : Aux → Aux) (d : Dev) : (d.uAux f).hostMem = d.hostMem := (rfl)
@[simp] theorem uAux_lines (f : Aux → Aux) (d : Dev) : (d.uAux f).lines = d.lines := (rfl)
@[simp] theorem uAux_spn (f : Aux → Aux) (d : Dev) : (d.uAux f).spn = d.spn := (rfl)
@[simp] theorem uAux_sdrv (f : Aux → Aux) (d : Dev) : (d.uAux f).sdrv = d.sdrv := (rfl)
@[simp] theorem uAux_acq (f : Aux → Aux) (d : Dev) : (d.uAux f).acq = d.acq := (rfl)
@[simp] theorem uAux_cal (f : Aux → Aux) (d : Dev) : (d.uAux f).cal = d.cal := (rfl)
@[simp] theorem uAux_jlk (f : Aux → Aux) (d : Dev) : (d.uAux f).jlk = d.jlk := (rfl)
@[simp] theorem uAux_hdl (f : Aux → Aux) (d : Dev) : (d.uAux f).hdl = d.hdl := (rfl)
@[simp] theorem uAux_tdi (f : Aux → Aux) (d : Dev) : (d.uAux f).tdi = d.tdi := (rfl)
@[simp] theorem uAux_stat (f : Aux → Aux) (d : Dev) : (d.uAux f).stat = d.stat := (rfl)
@[simp] theorem uAux_skn (f : Aux → Aux) (d : Dev) : (d.uAux f).skn = d.skn := (rfl)
@[simp] theorem uAux_pace (f : Aux → Aux) (d : Dev) : (d.uAux f).pace = d.pace := (rfl)
@[simp] theorem uAux_hs (f : Aux → Aux) (d : Dev) : (d.uAux f).hs = d.hs := (rfl)
@[simp] theorem uAux_mbx (f : Aux → Aux) (d : Dev) : (d.uAux f).mbx = d.mbx := (rfl)
@[simp] theorem uAux_mnr (f : Aux → Aux) (d : Dev) : (d.uAux f).mnr = d.mnr := (rfl)
@[simp] theorem uAux_ic (f : Aux → Aux) (d : Dev) : (d.uAux f).ic = d.ic := (rfl)
@[simp] theorem uAux_tap (f : Aux → Aux) (d : Dev) : (d.uAux f).tap = d.tap := (rfl)
@[simp] theorem uAux_shu (f : Aux → Aux) (d : Dev) : (d.uAux f).shu = d.shu := (rfl)
@[simp] theorem uAux_ilm (f : Aux → Aux) (d : Dev) : (d.uAux f).ilm = d.ilm := (rfl)
@[simp] theorem uAux_aux (f : Aux → Aux) (d : Dev) : (d.uAux f).aux = f d.aux := (rfl)
@[simp] theorem uAux_krm (f : Aux → Aux) (d : Dev) : (d.uAux f).krm = d.krm := (rfl)
@[simp] theorem uAux_pwr (f : Aux → Aux) (d : Dev) : (d.uAux f).pwr = d.pwr := (rfl)
@[simp] theorem uAux_sec (f : Aux → Aux) (d : Dev) : (d.uAux f).sec = d.sec := (rfl)
@[simp] theorem uKrm_now (f : Krm → Krm) (d : Dev) : (d.uKrm f).now = d.now := (rfl)
@[simp] theorem uKrm_seed (f : Krm → Krm) (d : Dev) : (d.uKrm f).seed = d.seed := (rfl)
@[simp] theorem uKrm_objs (f : Krm → Krm) (d : Dev) : (d.uKrm f).objs = d.objs := (rfl)
@[simp] theorem uKrm_liveOld (f : Krm → Krm) (d : Dev) : (d.uKrm f).liveOld = d.liveOld := (rfl)
@[simp] theorem uKrm_hostMem (f : Krm → Krm) (d : Dev) : (d.uKrm f).hostMem = d.hostMem := (rfl)
@[simp] theorem uKrm_lines (f : Krm → Krm) (d : Dev) : (d.uKrm f).lines = d.lines := (rfl)
@[simp] theorem uKrm_spn (f : Krm → Krm) (d : Dev) : (d.uKrm f).spn = d.spn := (rfl)
@[simp] theorem uKrm_sdrv (f : Krm → Krm) (d : Dev) : (d.uKrm f).sdrv = d.sdrv := (rfl)
@[simp] theorem uKrm_acq (f : Krm → Krm) (d : Dev) : (d.uKrm f).acq = d.acq := (rfl)
@[simp] theorem uKrm_cal (f : Krm → Krm) (d : Dev) : (d.uKrm f).cal = d.cal := (rfl)
@[simp] theorem uKrm_jlk (f : Krm → Krm) (d : Dev) : (d.uKrm f).jlk = d.jlk := (rfl)
@[simp] theorem uKrm_hdl (f : Krm → Krm) (d : Dev) : (d.uKrm f).hdl = d.hdl := (rfl)
@[simp] theorem uKrm_tdi (f : Krm → Krm) (d : Dev) : (d.uKrm f).tdi = d.tdi := (rfl)
@[simp] theorem uKrm_stat (f : Krm → Krm) (d : Dev) : (d.uKrm f).stat = d.stat := (rfl)
@[simp] theorem uKrm_skn (f : Krm → Krm) (d : Dev) : (d.uKrm f).skn = d.skn := (rfl)
@[simp] theorem uKrm_pace (f : Krm → Krm) (d : Dev) : (d.uKrm f).pace = d.pace := (rfl)
@[simp] theorem uKrm_hs (f : Krm → Krm) (d : Dev) : (d.uKrm f).hs = d.hs := (rfl)
@[simp] theorem uKrm_mbx (f : Krm → Krm) (d : Dev) : (d.uKrm f).mbx = d.mbx := (rfl)
@[simp] theorem uKrm_mnr (f : Krm → Krm) (d : Dev) : (d.uKrm f).mnr = d.mnr := (rfl)
@[simp] theorem uKrm_ic (f : Krm → Krm) (d : Dev) : (d.uKrm f).ic = d.ic := (rfl)
@[simp] theorem uKrm_tap (f : Krm → Krm) (d : Dev) : (d.uKrm f).tap = d.tap := (rfl)
@[simp] theorem uKrm_shu (f : Krm → Krm) (d : Dev) : (d.uKrm f).shu = d.shu := (rfl)
@[simp] theorem uKrm_ilm (f : Krm → Krm) (d : Dev) : (d.uKrm f).ilm = d.ilm := (rfl)
@[simp] theorem uKrm_aux (f : Krm → Krm) (d : Dev) : (d.uKrm f).aux = d.aux := (rfl)
@[simp] theorem uKrm_krm (f : Krm → Krm) (d : Dev) : (d.uKrm f).krm = f d.krm := (rfl)
@[simp] theorem uKrm_pwr (f : Krm → Krm) (d : Dev) : (d.uKrm f).pwr = d.pwr := (rfl)
@[simp] theorem uKrm_sec (f : Krm → Krm) (d : Dev) : (d.uKrm f).sec = d.sec := (rfl)
@[simp] theorem uPwr_now (f : Pwr → Pwr) (d : Dev) : (d.uPwr f).now = d.now := (rfl)
@[simp] theorem uPwr_seed (f : Pwr → Pwr) (d : Dev) : (d.uPwr f).seed = d.seed := (rfl)
@[simp] theorem uPwr_objs (f : Pwr → Pwr) (d : Dev) : (d.uPwr f).objs = d.objs := (rfl)
@[simp] theorem uPwr_liveOld (f : Pwr → Pwr) (d : Dev) : (d.uPwr f).liveOld = d.liveOld := (rfl)
@[simp] theorem uPwr_hostMem (f : Pwr → Pwr) (d : Dev) : (d.uPwr f).hostMem = d.hostMem := (rfl)
@[simp] theorem uPwr_lines (f : Pwr → Pwr) (d : Dev) : (d.uPwr f).lines = d.lines := (rfl)
@[simp] theorem uPwr_spn (f : Pwr → Pwr) (d : Dev) : (d.uPwr f).spn = d.spn := (rfl)
@[simp] theorem uPwr_sdrv (f : Pwr → Pwr) (d : Dev) : (d.uPwr f).sdrv = d.sdrv := (rfl)
@[simp] theorem uPwr_acq (f : Pwr → Pwr) (d : Dev) : (d.uPwr f).acq = d.acq := (rfl)
@[simp] theorem uPwr_cal (f : Pwr → Pwr) (d : Dev) : (d.uPwr f).cal = d.cal := (rfl)
@[simp] theorem uPwr_jlk (f : Pwr → Pwr) (d : Dev) : (d.uPwr f).jlk = d.jlk := (rfl)
@[simp] theorem uPwr_hdl (f : Pwr → Pwr) (d : Dev) : (d.uPwr f).hdl = d.hdl := (rfl)
@[simp] theorem uPwr_tdi (f : Pwr → Pwr) (d : Dev) : (d.uPwr f).tdi = d.tdi := (rfl)
@[simp] theorem uPwr_stat (f : Pwr → Pwr) (d : Dev) : (d.uPwr f).stat = d.stat := (rfl)
@[simp] theorem uPwr_skn (f : Pwr → Pwr) (d : Dev) : (d.uPwr f).skn = d.skn := (rfl)
@[simp] theorem uPwr_pace (f : Pwr → Pwr) (d : Dev) : (d.uPwr f).pace = d.pace := (rfl)
@[simp] theorem uPwr_hs (f : Pwr → Pwr) (d : Dev) : (d.uPwr f).hs = d.hs := (rfl)
@[simp] theorem uPwr_mbx (f : Pwr → Pwr) (d : Dev) : (d.uPwr f).mbx = d.mbx := (rfl)
@[simp] theorem uPwr_mnr (f : Pwr → Pwr) (d : Dev) : (d.uPwr f).mnr = d.mnr := (rfl)
@[simp] theorem uPwr_ic (f : Pwr → Pwr) (d : Dev) : (d.uPwr f).ic = d.ic := (rfl)
@[simp] theorem uPwr_tap (f : Pwr → Pwr) (d : Dev) : (d.uPwr f).tap = d.tap := (rfl)
@[simp] theorem uPwr_shu (f : Pwr → Pwr) (d : Dev) : (d.uPwr f).shu = d.shu := (rfl)
@[simp] theorem uPwr_ilm (f : Pwr → Pwr) (d : Dev) : (d.uPwr f).ilm = d.ilm := (rfl)
@[simp] theorem uPwr_aux (f : Pwr → Pwr) (d : Dev) : (d.uPwr f).aux = d.aux := (rfl)
@[simp] theorem uPwr_krm (f : Pwr → Pwr) (d : Dev) : (d.uPwr f).krm = d.krm := (rfl)
@[simp] theorem uPwr_pwr (f : Pwr → Pwr) (d : Dev) : (d.uPwr f).pwr = f d.pwr := (rfl)
@[simp] theorem uPwr_sec (f : Pwr → Pwr) (d : Dev) : (d.uPwr f).sec = d.sec := (rfl)
@[simp] theorem uSec_now (f : Sec → Sec) (d : Dev) : (d.uSec f).now = d.now := (rfl)
@[simp] theorem uSec_seed (f : Sec → Sec) (d : Dev) : (d.uSec f).seed = d.seed := (rfl)
@[simp] theorem uSec_objs (f : Sec → Sec) (d : Dev) : (d.uSec f).objs = d.objs := (rfl)
@[simp] theorem uSec_liveOld (f : Sec → Sec) (d : Dev) : (d.uSec f).liveOld = d.liveOld := (rfl)
@[simp] theorem uSec_hostMem (f : Sec → Sec) (d : Dev) : (d.uSec f).hostMem = d.hostMem := (rfl)
@[simp] theorem uSec_lines (f : Sec → Sec) (d : Dev) : (d.uSec f).lines = d.lines := (rfl)
@[simp] theorem uSec_spn (f : Sec → Sec) (d : Dev) : (d.uSec f).spn = d.spn := (rfl)
@[simp] theorem uSec_sdrv (f : Sec → Sec) (d : Dev) : (d.uSec f).sdrv = d.sdrv := (rfl)
@[simp] theorem uSec_acq (f : Sec → Sec) (d : Dev) : (d.uSec f).acq = d.acq := (rfl)
@[simp] theorem uSec_cal (f : Sec → Sec) (d : Dev) : (d.uSec f).cal = d.cal := (rfl)
@[simp] theorem uSec_jlk (f : Sec → Sec) (d : Dev) : (d.uSec f).jlk = d.jlk := (rfl)
@[simp] theorem uSec_hdl (f : Sec → Sec) (d : Dev) : (d.uSec f).hdl = d.hdl := (rfl)
@[simp] theorem uSec_tdi (f : Sec → Sec) (d : Dev) : (d.uSec f).tdi = d.tdi := (rfl)
@[simp] theorem uSec_stat (f : Sec → Sec) (d : Dev) : (d.uSec f).stat = d.stat := (rfl)
@[simp] theorem uSec_skn (f : Sec → Sec) (d : Dev) : (d.uSec f).skn = d.skn := (rfl)
@[simp] theorem uSec_pace (f : Sec → Sec) (d : Dev) : (d.uSec f).pace = d.pace := (rfl)
@[simp] theorem uSec_hs (f : Sec → Sec) (d : Dev) : (d.uSec f).hs = d.hs := (rfl)
@[simp] theorem uSec_mbx (f : Sec → Sec) (d : Dev) : (d.uSec f).mbx = d.mbx := (rfl)
@[simp] theorem uSec_mnr (f : Sec → Sec) (d : Dev) : (d.uSec f).mnr = d.mnr := (rfl)
@[simp] theorem uSec_ic (f : Sec → Sec) (d : Dev) : (d.uSec f).ic = d.ic := (rfl)
@[simp] theorem uSec_tap (f : Sec → Sec) (d : Dev) : (d.uSec f).tap = d.tap := (rfl)
@[simp] theorem uSec_shu (f : Sec → Sec) (d : Dev) : (d.uSec f).shu = d.shu := (rfl)
@[simp] theorem uSec_ilm (f : Sec → Sec) (d : Dev) : (d.uSec f).ilm = d.ilm := (rfl)
@[simp] theorem uSec_aux (f : Sec → Sec) (d : Dev) : (d.uSec f).aux = d.aux := (rfl)
@[simp] theorem uSec_krm (f : Sec → Sec) (d : Dev) : (d.uSec f).krm = d.krm := (rfl)
@[simp] theorem uSec_pwr (f : Sec → Sec) (d : Dev) : (d.uSec f).pwr = d.pwr := (rfl)
@[simp] theorem uSec_sec (f : Sec → Sec) (d : Dev) : (d.uSec f).sec = f d.sec := (rfl)
@[simp] theorem at_now (t : Nat) (d : Dev) : (d.at_ t).now = max d.now t := (rfl)
@[simp] theorem at_seed (t : Nat) (d : Dev) : (d.at_ t).seed = d.seed := (rfl)
@[simp] theorem at_objs (t : Nat) (d : Dev) : (d.at_ t).objs = d.objs := (rfl)
@[simp] theorem at_liveOld (t : Nat) (d : Dev) : (d.at_ t).liveOld = d.liveOld := (rfl)
@[simp] theorem at_hostMem (t : Nat) (d : Dev) : (d.at_ t).hostMem = d.hostMem := (rfl)
@[simp] theorem at_lines (t : Nat) (d : Dev) : (d.at_ t).lines = d.lines := (rfl)
@[simp] theorem at_spn (t : Nat) (d : Dev) : (d.at_ t).spn = d.spn := (rfl)
@[simp] theorem at_sdrv (t : Nat) (d : Dev) : (d.at_ t).sdrv = d.sdrv := (rfl)
@[simp] theorem at_acq (t : Nat) (d : Dev) : (d.at_ t).acq = d.acq := (rfl)
@[simp] theorem at_cal (t : Nat) (d : Dev) : (d.at_ t).cal = d.cal := (rfl)
@[simp] theorem at_jlk (t : Nat) (d : Dev) : (d.at_ t).jlk = d.jlk := (rfl)
@[simp] theorem at_hdl (t : Nat) (d : Dev) : (d.at_ t).hdl = d.hdl := (rfl)
@[simp] theorem at_tdi (t : Nat) (d : Dev) : (d.at_ t).tdi = d.tdi := (rfl)
@[simp] theorem at_stat (t : Nat) (d : Dev) : (d.at_ t).stat = d.stat := (rfl)
@[simp] theorem at_skn (t : Nat) (d : Dev) : (d.at_ t).skn = d.skn := (rfl)
@[simp] theorem at_pace (t : Nat) (d : Dev) : (d.at_ t).pace = d.pace := (rfl)
@[simp] theorem at_hs (t : Nat) (d : Dev) : (d.at_ t).hs = d.hs := (rfl)
@[simp] theorem at_mbx (t : Nat) (d : Dev) : (d.at_ t).mbx = d.mbx := (rfl)
@[simp] theorem at_mnr (t : Nat) (d : Dev) : (d.at_ t).mnr = d.mnr := (rfl)
@[simp] theorem at_ic (t : Nat) (d : Dev) : (d.at_ t).ic = d.ic := (rfl)
@[simp] theorem at_tap (t : Nat) (d : Dev) : (d.at_ t).tap = d.tap := (rfl)
@[simp] theorem at_shu (t : Nat) (d : Dev) : (d.at_ t).shu = d.shu := (rfl)
@[simp] theorem at_ilm (t : Nat) (d : Dev) : (d.at_ t).ilm = d.ilm := (rfl)
@[simp] theorem at_aux (t : Nat) (d : Dev) : (d.at_ t).aux = d.aux := (rfl)
@[simp] theorem at_krm (t : Nat) (d : Dev) : (d.at_ t).krm = d.krm := (rfl)
@[simp] theorem at_pwr (t : Nat) (d : Dev) : (d.at_ t).pwr = d.pwr := (rfl)
@[simp] theorem at_sec (t : Nat) (d : Dev) : (d.at_ t).sec = d.sec := (rfl)
@[simp] theorem drawn_now (d : Dev) : d.drawn.now = d.now := (rfl)
@[simp] theorem drawn_seed (d : Dev) : d.drawn.seed = d.seed + 1 := (rfl)
@[simp] theorem drawn_objs (d : Dev) : d.drawn.objs = d.objs := (rfl)
@[simp] theorem drawn_liveOld (d : Dev) : d.drawn.liveOld = d.liveOld := (rfl)
@[simp] theorem drawn_hostMem (d : Dev) : d.drawn.hostMem = d.hostMem := (rfl)
@[simp] theorem drawn_lines (d : Dev) : d.drawn.lines = d.lines := (rfl)
@[simp] theorem drawn_spn (d : Dev) : d.drawn.spn = d.spn := (rfl)
@[simp] theorem drawn_sdrv (d : Dev) : d.drawn.sdrv = d.sdrv := (rfl)
@[simp] theorem drawn_acq (d : Dev) : d.drawn.acq = d.acq := (rfl)
@[simp] theorem drawn_cal (d : Dev) : d.drawn.cal = d.cal := (rfl)
@[simp] theorem drawn_jlk (d : Dev) : d.drawn.jlk = d.jlk := (rfl)
@[simp] theorem drawn_hdl (d : Dev) : d.drawn.hdl = d.hdl := (rfl)
@[simp] theorem drawn_tdi (d : Dev) : d.drawn.tdi = d.tdi := (rfl)
@[simp] theorem drawn_stat (d : Dev) : d.drawn.stat = d.stat := (rfl)
@[simp] theorem drawn_skn (d : Dev) : d.drawn.skn = d.skn := (rfl)
@[simp] theorem drawn_pace (d : Dev) : d.drawn.pace = d.pace := (rfl)
@[simp] theorem drawn_hs (d : Dev) : d.drawn.hs = d.hs := (rfl)
@[simp] theorem drawn_mbx (d : Dev) : d.drawn.mbx = d.mbx := (rfl)
@[simp] theorem drawn_mnr (d : Dev) : d.drawn.mnr = d.mnr := (rfl)
@[simp] theorem drawn_ic (d : Dev) : d.drawn.ic = d.ic := (rfl)
@[simp] theorem drawn_tap (d : Dev) : d.drawn.tap = d.tap := (rfl)
@[simp] theorem drawn_shu (d : Dev) : d.drawn.shu = d.shu := (rfl)
@[simp] theorem drawn_ilm (d : Dev) : d.drawn.ilm = d.ilm := (rfl)
@[simp] theorem drawn_aux (d : Dev) : d.drawn.aux = d.aux := (rfl)
@[simp] theorem drawn_krm (d : Dev) : d.drawn.krm = d.krm := (rfl)
@[simp] theorem drawn_pwr (d : Dev) : d.drawn.pwr = d.pwr := (rfl)
@[simp] theorem drawn_sec (d : Dev) : d.drawn.sec = d.sec := (rfl)

/-- A guarded effect happens where its condition holds. -/
@[simp] theorem guardD_true (f : Dev → Dev) (d : Dev) : guardD true f d = f d := rfl

/-- A guarded effect does nothing where its condition fails. -/
@[simp] theorem guardD_false (f : Dev → Dev) (d : Dev) : guardD false f d = d := rfl

/-- A quantity that f leaves alone is left alone by f under any condition. -/
theorem guardD_keeps {α : Type} (p : Dev → α) (c : Bool) (f : Dev → Dev) (d : Dev) (h : p (f d) = p d) : p (guardD c f d) = p d := by
  cases c <;> simp [h]

/-- A quantity that every step of a fold leaves alone is left alone by the fold. -/
theorem foldl_keeps {α β : Type} (p : Dev → α) (f : Dev → β → Dev) (h : ∀ d x, p (f d x) = p d) (l : List β) (d : Dev) :
    p (l.foldl f d) = p d := by
  induction l generalizing d with
  | nil => rfl
  | cons x xs ih => simp [ih, h]

@[simp] theorem foldl_hostMem {β : Type} (f : Dev → β → Dev) (h : ∀ d x, (f d x).hostMem = d.hostMem) (l : List β) (d : Dev) :
    (l.foldl f d).hostMem = d.hostMem := foldl_keeps (·.hostMem) f h l d

@[simp] theorem foldl_mode {β : Type} (f : Dev → β → Dev) (h : ∀ d x, (f d x).pwr.mode = d.pwr.mode) (l : List β) (d : Dev) :
    (l.foldl f d).pwr.mode = d.pwr.mode := foldl_keeps (·.pwr.mode) f h l d

@[simp] theorem foldl_sec {β : Type} (f : Dev → β → Dev) (h : ∀ d x, (f d x).sec = d.sec) (l : List β) (d : Dev) :
    (l.foldl f d).sec = d.sec := foldl_keeps (·.sec) f h l d

@[simp] theorem foldl_liveOld {β : Type} (f : Dev → β → Dev) (h : ∀ d x, (f d x).liveOld = d.liveOld) (l : List β) (d : Dev) :
    (l.foldl f d).liveOld = d.liveOld := foldl_keeps (·.liveOld) f h l d

@[simp] theorem foldl_objs {β : Type} (f : Dev → β → Dev) (h : ∀ d x, (f d x).objs = d.objs) (l : List β) (d : Dev) :
    (l.foldl f d).objs = d.objs := foldl_keeps (·.objs) f h l d

@[simp] theorem guardD_hostMem (c : Bool) (f : Dev → Dev) (h : ∀ d, (f d).hostMem = d.hostMem) (d : Dev) :
    (guardD c f d).hostMem = d.hostMem := guardD_keeps (·.hostMem) c f d (h d)

@[simp] theorem guardD_mode (c : Bool) (f : Dev → Dev) (h : ∀ d, (f d).pwr.mode = d.pwr.mode) (d : Dev) :
    (guardD c f d).pwr.mode = d.pwr.mode := guardD_keeps (·.pwr.mode) c f d (h d)

@[simp] theorem guardD_sec (c : Bool) (f : Dev → Dev) (h : ∀ d, (f d).sec = d.sec) (d : Dev) :
    (guardD c f d).sec = d.sec := guardD_keeps (·.sec) c f d (h d)

@[simp] theorem guardD_liveOld (c : Bool) (f : Dev → Dev) (h : ∀ d, (f d).liveOld = d.liveOld) (d : Dev) :
    (guardD c f d).liveOld = d.liveOld := guardD_keeps (·.liveOld) c f d (h d)

@[simp] theorem guardD_objs (c : Bool) (f : Dev → Dev) (h : ∀ d, (f d).objs = d.objs) (d : Dev) :
    (guardD c f d).objs = d.objs := guardD_keeps (·.objs) c f d (h d)

/-- A quantity that f leaves alone for every element is left alone by each. -/
theorem each_keeps {α β : Type} (p : Dev → β) (f : α → Dev → Dev) (h : ∀ x d, p (f x d) = p d) (l : List α) (d : Dev) :
    p (each l f d) = p d := by
  induction l generalizing d with
  | nil => rfl
  | cons x xs ih => simp only [each, List.foldl_cons] at ih ⊢; rw [ih, h]

@[simp] theorem each_hostMem {α : Type} (f : α → Dev → Dev) (h : ∀ x d, (f x d).hostMem = d.hostMem) (l : List α) (d : Dev) :
    (each l f d).hostMem = d.hostMem := each_keeps (·.hostMem) f h l d

@[simp] theorem each_mode {α : Type} (f : α → Dev → Dev) (h : ∀ x d, (f x d).pwr.mode = d.pwr.mode) (l : List α) (d : Dev) :
    (each l f d).pwr.mode = d.pwr.mode := each_keeps (·.pwr.mode) f h l d

@[simp] theorem each_sec {α : Type} (f : α → Dev → Dev) (h : ∀ x d, (f x d).sec = d.sec) (l : List α) (d : Dev) :
    (each l f d).sec = d.sec := each_keeps (·.sec) f h l d

@[simp] theorem each_liveOld {α : Type} (f : α → Dev → Dev) (h : ∀ x d, (f x d).liveOld = d.liveOld) (l : List α) (d : Dev) :
    (each l f d).liveOld = d.liveOld := each_keeps (·.liveOld) f h l d

@[simp] theorem each_objs {α : Type} (f : α → Dev → Dev) (h : ∀ x d, (f x d).objs = d.objs) (l : List α) (d : Dev) :
    (each l f d).objs = d.objs := each_keeps (·.objs) f h l d

@[simp] theorem ite_hostMem (c : Prop) [Decidable c] (a b : Dev) : (if c then a else b).hostMem = if c then a.hostMem else b.hostMem :=
  apply_ite (·.hostMem) c a b

@[simp] theorem ite_mode (c : Prop) [Decidable c] (a b : Dev) : (if c then a else b).pwr.mode = if c then a.pwr.mode else b.pwr.mode :=
  apply_ite (·.pwr.mode) c a b

@[simp] theorem ite_sec (c : Prop) [Decidable c] (a b : Dev) : (if c then a else b).sec = if c then a.sec else b.sec :=
  apply_ite (·.sec) c a b

@[simp] theorem ite_liveOld (c : Prop) [Decidable c] (a b : Dev) : (if c then a else b).liveOld = if c then a.liveOld else b.liveOld :=
  apply_ite (·.liveOld) c a b

@[simp] theorem ite_objs (c : Prop) [Decidable c] (a b : Dev) : (if c then a else b).objs = if c then a.objs else b.objs :=
  apply_ite (·.objs) c a b

end Sys2Proof.Laws
end

