-- ==== Sys2Proof/Laws/FrameInterrupts.lean ====
section
/-! SUPPORT. What the operations of Sys2Proof/Machine/Interrupts.lean leave alone of host memory (hostMem), the mode (pwr.mode), the security block (sec)
and the objects (objs, liveOld): one lemma per operation, saying of each that it changes none of those it names. -/

namespace Sys2Proof.Laws

open Sys2Proof.Machine

@[simp] theorem noteWake_frame (e : IcEv) (d : Dev) :
    (noteWake e d).hostMem = d.hostMem ∧ (noteWake e d).pwr.mode = d.pwr.mode ∧ (noteWake e d).sec = d.sec ∧ (noteWake e d).liveOld = d.liveOld ∧ (noteWake e d).objs = d.objs := by
  unfold noteWake; (repeat' split) <;> simp_all


@[simp] theorem icDo_frame (e : IcEv) (d : Dev) :
    (icDo e d).hostMem = d.hostMem ∧ (icDo e d).pwr.mode = d.pwr.mode ∧ (icDo e d).sec = d.sec ∧ (icDo e d).liveOld = d.liveOld ∧ (icDo e d).objs = d.objs := by
  simp [icDo]


@[simp] theorem raise_frame (n : ℕ) (d : Dev) :
    (raise n d).hostMem = d.hostMem ∧ (raise n d).pwr.mode = d.pwr.mode ∧ (raise n d).sec = d.sec ∧ (raise n d).liveOld = d.liveOld ∧ (raise n d).objs = d.objs := by
  simp [raise]


@[simp] theorem icLevel_frame (n : ℕ) (v : Bool) (d : Dev) :
    (icLevel n v d).hostMem = d.hostMem ∧ (icLevel n v d).pwr.mode = d.pwr.mode ∧ (icLevel n v d).sec = d.sec ∧ (icLevel n v d).liveOld = d.liveOld ∧ (icLevel n v d).objs = d.objs := by
  simp [icLevel]


@[simp] theorem icClaim_frame (t : ℕ) (d : Dev) :
    (icClaim t d).hostMem = d.hostMem ∧ (icClaim t d).pwr.mode = d.pwr.mode ∧ (icClaim t d).sec = d.sec ∧ (icClaim t d).liveOld = d.liveOld ∧ (icClaim t d).objs = d.objs := by
  simp [icClaim]


@[simp] theorem secViolation_frame (d : Dev) :
    (secViolation d).hostMem = d.hostMem ∧ (secViolation d).pwr.mode = d.pwr.mode ∧ (secViolation d).liveOld = d.liveOld ∧ (secViolation d).objs = d.objs := by
  simp [secViolation]


@[simp] theorem icCfgWrite_frame (t : ℕ) (n : ℕ) (v : ℕ) (d : Dev) :
    (icCfgWrite t n v d).hostMem = d.hostMem ∧ (icCfgWrite t n v d).pwr.mode = d.pwr.mode ∧ (icCfgWrite t n v d).liveOld = d.liveOld ∧ (icCfgWrite t n v d).objs = d.objs := by
  simp [icCfgWrite]


@[simp] theorem icComplete_frame (t : ℕ) (n : ℕ) (d : Dev) :
    (icComplete t n d).hostMem = d.hostMem ∧ (icComplete t n d).pwr.mode = d.pwr.mode ∧ (icComplete t n d).sec = d.sec ∧ (icComplete t n d).liveOld = d.liveOld ∧ (icComplete t n d).objs = d.objs := by
  simp [icComplete]


@[simp] theorem icGctlWrite_frame (t : ℕ) (v : ℕ) (d : Dev) :
    (icGctlWrite t v d).hostMem = d.hostMem ∧ (icGctlWrite t v d).pwr.mode = d.pwr.mode ∧ (icGctlWrite t v d).liveOld = d.liveOld ∧ (icGctlWrite t v d).objs = d.objs := by
  simp [icGctlWrite]


end Sys2Proof.Laws
end

