-- ==== Sys2Proof/Laws/FrameMeoner.lean ====
section
/-! SUPPORT. What the operations of Sys2Proof/Machine/Meoner.lean leave alone of host memory (hostMem), the mode (pwr.mode), the security block (sec)
and the objects (objs, liveOld): one lemma per operation, saying of each that it changes none of those it names. -/

namespace Sys2Proof.Laws

open Sys2Proof.Machine

@[simp] theorem pushOut_frame (m : ℕ) (ws : List Word) (d : Dev) :
    (pushOut m ws d).hostMem = d.hostMem ∧ (pushOut m ws d).pwr.mode = d.pwr.mode ∧ (pushOut m ws d).sec = d.sec ∧ (pushOut m ws d).liveOld = d.liveOld ∧ (pushOut m ws d).objs = d.objs := by
  simp [pushOut]


@[simp] theorem finish_frame (w : Who) (status : ℕ) (detail : optParam ℕ 0) (res : optParam (List Word) []) (d : Dev) :
    (finish w status detail res d).hostMem = d.hostMem ∧ (finish w status detail res d).pwr.mode = d.pwr.mode ∧ (finish w status detail res d).sec = d.sec ∧ (finish w status detail res d).liveOld = d.liveOld ∧ (finish w status detail res d).objs = d.objs := by
  simp [finish]


@[simp] theorem finishOpt_frame (w : Option Who) (status : ℕ) (detail : optParam ℕ 0) (res : optParam (List Word) []) (d : Dev) :
    (finish? w status detail res d).hostMem = d.hostMem ∧ (finish? w status detail res d).pwr.mode = d.pwr.mode ∧ (finish? w status detail res d).sec = d.sec ∧ (finish? w status detail res d).liveOld = d.liveOld ∧ (finish? w status detail res d).objs = d.objs := by
  unfold finish?; (repeat' split) <;> simp_all


@[simp] theorem postEvent_frame (code : ℕ) (domain : ℕ) (status : ℕ) (source : ℕ) (line : Option ℕ) (detail : List ℕ) (d : Dev) :
    (postEvent code domain status source line detail d).hostMem = d.hostMem ∧ (postEvent code domain status source line detail d).pwr.mode = d.pwr.mode ∧ (postEvent code domain status source line detail d).sec = d.sec ∧ (postEvent code domain status source line detail d).liveOld = d.liveOld ∧ (postEvent code domain status source line detail d).objs = d.objs := by
  simp [postEvent]


@[simp] theorem reject_frame (t : Taken) (status : ℕ) (detail : optParam ℕ 0) (d : Dev) :
    (reject t status detail d).hostMem = d.hostMem ∧ (reject t status detail d).pwr.mode = d.pwr.mode ∧ (reject t status detail d).sec = d.sec ∧ (reject t status detail d).liveOld = d.liveOld ∧ (reject t status detail d).objs = d.objs := by
  simp [reject]


@[simp] theorem checked_hostMem (t : Taken) (checks : List (Bool × ℕ × ℕ)) (body : Dev → Dev) (d : Dev) (h0 : ∀ d, (body  d).hostMem = d.hostMem) : (checked t checks body d).hostMem = d.hostMem := by
  unfold checked; (repeat' split) <;> simp_all

@[simp] theorem checked_mode (t : Taken) (checks : List (Bool × ℕ × ℕ)) (body : Dev → Dev) (d : Dev) (h0 : ∀ d, (body  d).pwr.mode = d.pwr.mode) : (checked t checks body d).pwr.mode = d.pwr.mode := by
  unfold checked; (repeat' split) <;> simp_all

@[simp] theorem checked_sec (t : Taken) (checks : List (Bool × ℕ × ℕ)) (body : Dev → Dev) (d : Dev) (h0 : ∀ d, (body  d).sec = d.sec) : (checked t checks body d).sec = d.sec := by
  unfold checked; (repeat' split) <;> simp_all

@[simp] theorem checked_liveOld (t : Taken) (checks : List (Bool × ℕ × ℕ)) (body : Dev → Dev) (d : Dev) (h0 : ∀ d, (body  d).liveOld = d.liveOld) : (checked t checks body d).liveOld = d.liveOld := by
  unfold checked; (repeat' split) <;> simp_all

@[simp] theorem checked_objs (t : Taken) (checks : List (Bool × ℕ × ℕ)) (body : Dev → Dev) (d : Dev) (h0 : ∀ d, (body  d).objs = d.objs) : (checked t checks body d).objs = d.objs := by
  unfold checked; (repeat' split) <;> simp_all


@[simp] theorem takeCommand_frame (mbx : ℕ) (hi : ℕ) (tag : ℕ) (op : ℕ) (len : ℕ) (arg : ℕ) (pay : List Word) (postEpoch : ℕ) (d : Dev) :
    (takeCommand mbx hi tag op len arg pay postEpoch d).hostMem = d.hostMem ∧ (takeCommand mbx hi tag op len arg pay postEpoch d).pwr.mode = d.pwr.mode ∧ (takeCommand mbx hi tag op len arg pay postEpoch d).sec = d.sec ∧ (takeCommand mbx hi tag op len arg pay postEpoch d).liveOld = d.liveOld ∧ (takeCommand mbx hi tag op len arg pay postEpoch d).objs = d.objs := by
  simp [takeCommand]


@[simp] theorem beginCommand_frame (op : ℕ) (c : MnrCmd) (d : Dev) :
    (beginCommand op c d).1.hostMem = d.hostMem ∧ (beginCommand op c d).1.pwr.mode = d.pwr.mode ∧ (beginCommand op c d).1.sec = d.sec ∧ (beginCommand op c d).1.liveOld = d.liveOld ∧ (beginCommand op c d).1.objs = d.objs := by
  unfold beginCommand; simp only []; (repeat' split) <;> simp_all


@[simp] theorem cmdAt_frame (c : MnrCmd) (d : Dev) :
    (cmdAt c d).hostMem = d.hostMem ∧ (cmdAt c d).pwr.mode = d.pwr.mode ∧ (cmdAt c d).sec = d.sec ∧ (cmdAt c d).liveOld = d.liveOld ∧ (cmdAt c d).objs = d.objs := by
  unfold cmdAt; (repeat' split) <;> simp_all


@[simp] theorem command_hostMem (op : ℕ) (c : MnrCmd) (body : Taken → Dev → Dev) (d : Dev) (h0 : ∀ y0 d, (body y0 d).hostMem = d.hostMem) : (command op c body d).hostMem = d.hostMem := by
  unfold command
  have hb := beginCommand_frame op c (cmdAt c d)
  split <;> rename_i h <;> rw [h] at hb <;> (try split) <;> simp_all

@[simp] theorem command_mode (op : ℕ) (c : MnrCmd) (body : Taken → Dev → Dev) (d : Dev) (h0 : ∀ y0 d, (body y0 d).pwr.mode = d.pwr.mode) : (command op c body d).pwr.mode = d.pwr.mode := by
  unfold command
  have hb := beginCommand_frame op c (cmdAt c d)
  split <;> rename_i h <;> rw [h] at hb <;> (try split) <;> simp_all

@[simp] theorem command_sec (op : ℕ) (c : MnrCmd) (body : Taken → Dev → Dev) (d : Dev) (h0 : ∀ y0 d, (body y0 d).sec = d.sec) : (command op c body d).sec = d.sec := by
  unfold command
  have hb := beginCommand_frame op c (cmdAt c d)
  split <;> rename_i h <;> rw [h] at hb <;> (try split) <;> simp_all

@[simp] theorem command_liveOld (op : ℕ) (c : MnrCmd) (body : Taken → Dev → Dev) (d : Dev) (h0 : ∀ y0 d, (body y0 d).liveOld = d.liveOld) : (command op c body d).liveOld = d.liveOld := by
  unfold command
  have hb := beginCommand_frame op c (cmdAt c d)
  split <;> rename_i h <;> rw [h] at hb <;> (try split) <;> simp_all

@[simp] theorem command_objs (op : ℕ) (c : MnrCmd) (body : Taken → Dev → Dev) (d : Dev) (h0 : ∀ y0 d, (body y0 d).objs = d.objs) : (command op c body d).objs = d.objs := by
  unfold command
  have hb := beginCommand_frame op c (cmdAt c d)
  split <;> rename_i h <;> rw [h] at hb <;> (try split) <;> simp_all


@[simp] theorem defer_frame (w : Who) (detail : optParam ℕ 0) (d : Dev) :
    (defer w detail d).hostMem = d.hostMem ∧ (defer w detail d).pwr.mode = d.pwr.mode ∧ (defer w detail d).sec = d.sec ∧ (defer w detail d).liveOld = d.liveOld ∧ (defer w detail d).objs = d.objs := by
  simp [defer]


end Sys2Proof.Laws
end

