-- ==== Sys2Proof/Laws/FrameOps.lean ====
section
/-! SUPPORT. What the operations of Sys2Proof/Machine/Ops.lean leave alone of host memory (hostMem), the mode (pwr.mode), the security block (sec)
and the objects (objs, liveOld): one lemma per operation, saying of each that it changes none of those it names. -/

namespace Sys2Proof.Laws

open Sys2Proof.Machine

@[simp] theorem updLine_frame (k : ℕ) (f : LineRec → LineRec) (d : Dev) :
    (updLine k f d).hostMem = d.hostMem ∧ (updLine k f d).pwr.mode = d.pwr.mode ∧ (updLine k f d).sec = d.sec ∧ (updLine k f d).liveOld = d.liveOld ∧ (updLine k f d).objs = d.objs := by
  simp [updLine]


@[simp] theorem updStarted_frame (k : ℕ) (f : LineRec → LineRec) (d : Dev) :
    (updStarted k f d).hostMem = d.hostMem ∧ (updStarted k f d).pwr.mode = d.pwr.mode ∧ (updStarted k f d).sec = d.sec ∧ (updStarted k f d).liveOld = d.liveOld ∧ (updStarted k f d).objs = d.objs := by
  simp [updStarted]


@[simp] theorem markLine_frame (k : ℕ) (fl : ℕ) (d : Dev) :
    (markLine k fl d).hostMem = d.hostMem ∧ (markLine k fl d).pwr.mode = d.pwr.mode ∧ (markLine k fl d).sec = d.sec ∧ (markLine k fl d).liveOld = d.liveOld ∧ (markLine k fl d).objs = d.objs := by
  simp [markLine]


@[simp] theorem markLineOpt_frame (k : Option ℕ) (fl : ℕ) (d : Dev) :
    (markLine? k fl d).hostMem = d.hostMem ∧ (markLine? k fl d).pwr.mode = d.pwr.mode ∧ (markLine? k fl d).sec = d.sec ∧ (markLine? k fl d).liveOld = d.liveOld ∧ (markLine? k fl d).objs = d.objs := by
  unfold markLine?; (repeat' split) <;> simp_all


@[simp] theorem setObj_frame (id : ℕ) (ws : List Word) (d : Dev) :
    (setObj id ws d).hostMem = d.hostMem ∧ (setObj id ws d).pwr.mode = d.pwr.mode ∧ (setObj id ws d).sec = d.sec ∧ (setObj id ws d).liveOld = d.liveOld := by
  simp [setObj]


@[simp] theorem linesMissing_frame (f : ℕ) (d : Dev) :
    (linesMissing f d).hostMem = d.hostMem ∧ (linesMissing f d).pwr.mode = d.pwr.mode ∧ (linesMissing f d).sec = d.sec ∧ (linesMissing f d).liveOld = d.liveOld ∧ (linesMissing f d).objs = d.objs := by
  simp [linesMissing]


@[simp] theorem flagLine_frame (k : ℕ) (fl : ℕ) (d : Dev) :
    (flagLine k fl d).hostMem = d.hostMem ∧ (flagLine k fl d).pwr.mode = d.pwr.mode ∧ (flagLine k fl d).sec = d.sec ∧ (flagLine k fl d).liveOld = d.liveOld ∧ (flagLine k fl d).objs = d.objs := by
  simp [flagLine]


@[simp] theorem unstage_frame (id : ℕ) (d : Dev) :
    (unstage id d).hostMem = d.hostMem ∧ (unstage id d).pwr.mode = d.pwr.mode ∧ (unstage id d).sec = d.sec ∧ (unstage id d).objs = d.objs := by
  simp [unstage]


@[simp] theorem writeByte_frame (a : ℕ) (b : Byte) (d : Dev) :
    (writeByte a b d).pwr.mode = d.pwr.mode ∧ (writeByte a b d).sec = d.sec ∧ (writeByte a b d).liveOld = d.liveOld ∧ (writeByte a b d).objs = d.objs := by
  simp [writeByte]


@[simp] theorem writeBytes_frame (a : ℕ) (x1 : List Byte) (x2 : Dev) :
    (writeBytes a x1 x2).pwr.mode = x2.pwr.mode ∧ (writeBytes a x1 x2).sec = x2.sec ∧ (writeBytes a x1 x2).liveOld = x2.liveOld ∧ (writeBytes a x1 x2).objs = x2.objs := by
  induction x1 generalizing a x2 <;> simp_all [writeBytes]


@[simp] theorem writeWords_frame (a : ℕ) (ws : List Word) (d : Dev) :
    (writeWords a ws d).pwr.mode = d.pwr.mode ∧ (writeWords a ws d).sec = d.sec ∧ (writeWords a ws d).liveOld = d.liveOld ∧ (writeWords a ws d).objs = d.objs := by
  simp [writeWords]


@[simp] theorem pokeObj_frame (n : ℕ) (fs : List FldDef) (f : FldDef) (v : ℕ) (d : Dev) :
    (pokeObj n fs f v d).hostMem = d.hostMem ∧ (pokeObj n fs f v d).pwr.mode = d.pwr.mode ∧ (pokeObj n fs f v d).sec = d.sec ∧ (pokeObj n fs f v d).liveOld = d.liveOld := by
  simp [pokeObj]


@[simp] theorem countOut_frame (k : ℕ) (rng : ℕ) (more : Bool) (d : Dev) :
    (countOut k rng more d).hostMem = d.hostMem ∧ (countOut k rng more d).pwr.mode = d.pwr.mode ∧ (countOut k rng more d).sec = d.sec ∧ (countOut k rng more d).liveOld = d.liveOld ∧ (countOut k rng more d).objs = d.objs := by
  simp [countOut]


@[simp] theorem stageObj_frame (id : ℕ) (zero : List Word) (ws : List Word) (d : Dev) :
    (stageObj id zero ws d).hostMem = d.hostMem ∧ (stageObj id zero ws d).pwr.mode = d.pwr.mode ∧ (stageObj id zero ws d).sec = d.sec := by
  simp [stageObj]


end Sys2Proof.Laws
end

