-- ==== Sys2Proof/Laws/FramePosition.lean ====
section
/-! SUPPORT. What the operations of Sys2Proof/Machine/Position.lean leave alone of host memory (hostMem), the mode (pwr.mode), the security block (sec)
and the objects (objs, liveOld): one lemma per operation, saying of each that it changes none of those it names. -/

namespace Sys2Proof.Laws

open Sys2Proof.Machine

@[simp] theorem updAxis_frame (n : ℕ) (f : Axis → Axis) (d : Dev) :
    (updAxis n f d).hostMem = d.hostMem ∧ (updAxis n f d).pwr.mode = d.pwr.mode ∧ (updAxis n f d).sec = d.sec ∧ (updAxis n f d).liveOld = d.liveOld ∧ (updAxis n f d).objs = d.objs := by
  simp [updAxis]


@[simp] theorem freshVel_frame (d : Dev) :
    (freshVel d).hostMem = d.hostMem ∧ (freshVel d).pwr.mode = d.pwr.mode ∧ (freshVel d).sec = d.sec ∧ (freshVel d).liveOld = d.liveOld ∧ (freshVel d).objs = d.objs := by
  simp [freshVel]


@[simp] theorem setPosValid_frame (d : Dev) :
    (setPosValid d).hostMem = d.hostMem ∧ (setPosValid d).pwr.mode = d.pwr.mode ∧ (setPosValid d).sec = d.sec ∧ (setPosValid d).liveOld = d.liveOld ∧ (setPosValid d).objs = d.objs := by
  unfold setPosValid; (repeat' split) <;> simp_all


@[simp] theorem sourceCount_frame (c : ℤ) (ofs : ℤ) (t : ℕ) (d : Dev) :
    (sourceCount c ofs t d).hostMem = d.hostMem ∧ (sourceCount c ofs t d).pwr.mode = d.pwr.mode ∧ (sourceCount c ofs t d).sec = d.sec ∧ (sourceCount c ofs t d).liveOld = d.liveOld ∧ (sourceCount c ofs t d).objs = d.objs := by
  simp [sourceCount]


end Sys2Proof.Laws
end

