-- ==== Sys2Proof/Laws/FrameWindows.lean ====
section
/-! SUPPORT. What the operations of Sys2Proof/Machine/Windows.lean leave alone of host memory (hostMem), the mode (pwr.mode), the security block (sec)
and the objects (objs, liveOld): one lemma per operation, saying of each that it changes none of those it names. -/

namespace Sys2Proof.Laws

open Sys2Proof.Machine

@[simp] theorem updChk_frame (k : ℕ) (f : Checker → Checker) (d : Dev) :
    (updChk k f d).hostMem = d.hostMem ∧ (updChk k f d).pwr.mode = d.pwr.mode ∧ (updChk k f d).sec = d.sec ∧ (updChk k f d).liveOld = d.liveOld ∧ (updChk k f d).objs = d.objs := by
  simp [updChk]


@[simp] theorem endCompare_frame (i : ℕ) (k : ℕ) (d : Dev) :
    (endCompare i k d).hostMem = d.hostMem ∧ (endCompare i k d).pwr.mode = d.pwr.mode ∧ (endCompare i k d).sec = d.sec ∧ (endCompare i k d).liveOld = d.liveOld ∧ (endCompare i k d).objs = d.objs := by
  unfold endCompare; (repeat' split) <;> simp_all


@[simp] theorem updCh_frame (c : ℕ) (f : AcqCh → AcqCh) (d : Dev) :
    (updCh c f d).hostMem = d.hostMem ∧ (updCh c f d).pwr.mode = d.pwr.mode ∧ (updCh c f d).sec = d.sec ∧ (updCh c f d).liveOld = d.liveOld ∧ (updCh c f d).objs = d.objs := by
  simp [updCh]


@[simp] theorem endTally_frame (c : ℕ) (k : ℕ) (d : Dev) :
    (endTally c k d).hostMem = d.hostMem ∧ (endTally c k d).pwr.mode = d.pwr.mode ∧ (endTally c k d).sec = d.sec ∧ (endTally c k d).liveOld = d.liveOld ∧ (endTally c k d).objs = d.objs := by
  unfold endTally; simp only []; (repeat' split) <;> simp_all


@[simp] theorem endLines_frame (n : ℕ) (c : ℕ) (d : Dev) :
    (endLines n c d).hostMem = d.hostMem ∧ (endLines n c d).pwr.mode = d.pwr.mode ∧ (endLines n c d).sec = d.sec ∧ (endLines n c d).liveOld = d.liveOld ∧ (endLines n c d).objs = d.objs := by
  simp [endLines]


@[simp] theorem updChOpt_frame (c : Option ℕ) (f : AcqCh → AcqCh) (d : Dev) :
    (updCh? c f d).hostMem = d.hostMem ∧ (updCh? c f d).pwr.mode = d.pwr.mode ∧ (updCh? c f d).sec = d.sec ∧ (updCh? c f d).liveOld = d.liveOld ∧ (updCh? c f d).objs = d.objs := by
  unfold updCh?; (repeat' split) <;> simp_all


@[simp] theorem endMarks_frame (w : Window) (d : Dev) :
    (endMarks w d).hostMem = d.hostMem ∧ (endMarks w d).pwr.mode = d.pwr.mode ∧ (endMarks w d).sec = d.sec ∧ (endMarks w d).liveOld = d.liveOld ∧ (endMarks w d).objs = d.objs := by
  simp [endMarks]


@[simp] theorem dropWindow_frame (w : Window) (d : Dev) :
    (dropWindow w d).hostMem = d.hostMem ∧ (dropWindow w d).pwr.mode = d.pwr.mode ∧ (dropWindow w d).sec = d.sec ∧ (dropWindow w d).liveOld = d.liveOld ∧ (dropWindow w d).objs = d.objs := by
  simp [dropWindow]


@[simp] theorem abortWindows_frame (k : ℕ) (d : Dev) :
    (abortWindows k d).hostMem = d.hostMem ∧ (abortWindows k d).pwr.mode = d.pwr.mode ∧ (abortWindows k d).sec = d.sec ∧ (abortWindows k d).liveOld = d.liveOld ∧ (abortWindows k d).objs = d.objs := by
  simp [abortWindows]


@[simp] theorem toHeddle_frame (x : Sample) (d : Dev) :
    (toHeddle x d).hostMem = d.hostMem ∧ (toHeddle x d).pwr.mode = d.pwr.mode ∧ (toHeddle x d).sec = d.sec ∧ (toHeddle x d).liveOld = d.liveOld ∧ (toHeddle x d).objs = d.objs := by
  simp [toHeddle]


@[simp] theorem substRest_frame (w : Window) (c : ℕ) (d : Dev) :
    (substRest w c d).hostMem = d.hostMem ∧ (substRest w c d).pwr.mode = d.pwr.mode ∧ (substRest w c d).sec = d.sec ∧ (substRest w c d).liveOld = d.liveOld ∧ (substRest w c d).objs = d.objs := by
  unfold substRest; (repeat' split) <;> simp_all


@[simp] theorem substAll_frame (w : Window) (d : Dev) :
    (substAll w d).hostMem = d.hostMem ∧ (substAll w d).pwr.mode = d.pwr.mode ∧ (substAll w d).sec = d.sec ∧ (substAll w d).liveOld = d.liveOld ∧ (substAll w d).objs = d.objs := by
  simp [substAll]


@[simp] theorem armWindow_frame (i : ℕ) (k : ℕ) (t : ℕ) (d : Dev) :
    (armWindow i k t d).hostMem = d.hostMem ∧ (armWindow i k t d).pwr.mode = d.pwr.mode ∧ (armWindow i k t d).sec = d.sec ∧ (armWindow i k t d).liveOld = d.liveOld ∧ (armWindow i k t d).objs = d.objs := by
  simp [armWindow]


@[simp] theorem strobeEdge_frame (s : ℕ) (rising : Bool) (t : ℕ) (d : Dev) :
    (strobeEdge s rising t d).hostMem = d.hostMem ∧ (strobeEdge s rising t d).pwr.mode = d.pwr.mode ∧ (strobeEdge s rising t d).sec = d.sec ∧ (strobeEdge s rising t d).liveOld = d.liveOld ∧ (strobeEdge s rising t d).objs = d.objs := by
  simp [strobeEdge]


@[simp] theorem endAllLines_frame (d : Dev) :
    (endAllLines d).hostMem = d.hostMem ∧ (endAllLines d).pwr.mode = d.pwr.mode ∧ (endAllLines d).sec = d.sec ∧ (endAllLines d).liveOld = d.liveOld ∧ (endAllLines d).objs = d.objs := by
  simp [endAllLines]


@[simp] theorem endWindows_frame (d : Dev) :
    (endWindows d).hostMem = d.hostMem ∧ (endWindows d).pwr.mode = d.pwr.mode ∧ (endWindows d).sec = d.sec ∧ (endWindows d).liveOld = d.liveOld ∧ (endWindows d).objs = d.objs := by
  simp [endWindows]


@[simp] theorem cutWindow_frame (w : Window) (d : Dev) :
    (cutWindow w d).hostMem = d.hostMem ∧ (cutWindow w d).pwr.mode = d.pwr.mode ∧ (cutWindow w d).sec = d.sec ∧ (cutWindow w d).liveOld = d.liveOld ∧ (cutWindow w d).objs = d.objs := by
  simp [cutWindow]


@[simp] theorem markCompared_frame (k : ℕ) (d : Dev) :
    (markCompared k d).hostMem = d.hostMem ∧ (markCompared k d).pwr.mode = d.pwr.mode ∧ (markCompared k d).sec = d.sec ∧ (markCompared k d).liveOld = d.liveOld ∧ (markCompared k d).objs = d.objs := by
  simp [markCompared]


@[simp] theorem missWindows_frame (k : ℕ) (d : Dev) :
    (missWindows k d).hostMem = d.hostMem ∧ (missWindows k d).pwr.mode = d.pwr.mode ∧ (missWindows k d).sec = d.sec ∧ (missWindows k d).liveOld = d.liveOld ∧ (missWindows k d).objs = d.objs := by
  simp [missWindows]


@[simp] theorem openWindow_frame (w : Window) (t : ℕ) (d : Dev) :
    (openWindow w t d).hostMem = d.hostMem ∧ (openWindow w t d).pwr.mode = d.pwr.mode ∧ (openWindow w t d).sec = d.sec ∧ (openWindow w t d).liveOld = d.liveOld ∧ (openWindow w t d).objs = d.objs := by
  simp [openWindow]


@[simp] theorem windowOpen_frame (i : ℕ) (d : Dev) :
    (windowOpen i d).hostMem = d.hostMem ∧ (windowOpen i d).pwr.mode = d.pwr.mode ∧ (windowOpen i d).sec = d.sec ∧ (windowOpen i d).liveOld = d.liveOld ∧ (windowOpen i d).objs = d.objs := by
  unfold windowOpen; (repeat' split) <;> simp_all


end Sys2Proof.Laws
end

