-- ==== Sys2Proof/Laws/FrameLamps.lean ====
section
/-! SUPPORT. What the operations of Sys2Proof/Machine/Lamps.lean leave alone of host memory (hostMem), the mode (pwr.mode), the security block (sec)
and the objects (objs, liveOld): one lemma per operation, saying of each that it changes none of those it names. -/

namespace Sys2Proof.Laws

open Sys2Proof.Machine

@[simp] theorem updStr_frame (s : ℕ) (f : LampStr → LampStr) (d : Dev) :
    (updStr s f d).hostMem = d.hostMem ∧ (updStr s f d).pwr.mode = d.pwr.mode ∧ (updStr s f d).sec = d.sec ∧ (updStr s f d).liveOld = d.liveOld ∧ (updStr s f d).objs = d.objs := by
  simp [updStr]


@[simp] theorem settlePulse_frame (s : ℕ) (t : ℕ) (d : Dev) :
    (settlePulse s t d).hostMem = d.hostMem ∧ (settlePulse s t d).pwr.mode = d.pwr.mode ∧ (settlePulse s t d).sec = d.sec ∧ (settlePulse s t d).liveOld = d.liveOld ∧ (settlePulse s t d).objs = d.objs := by
  simp [settlePulse]


@[simp] theorem extStrobe_frame (t : ℕ) (d : Dev) :
    (extStrobe t d).hostMem = d.hostMem ∧ (extStrobe t d).pwr.mode = d.pwr.mode ∧ (extStrobe t d).sec = d.sec ∧ (extStrobe t d).liveOld = d.liveOld ∧ (extStrobe t d).objs = d.objs := by
  simp [extStrobe]


@[simp] theorem headroomEnd_frame (s : ℕ) (d : Dev) :
    (headroomEnd s d).hostMem = d.hostMem ∧ (headroomEnd s d).pwr.mode = d.pwr.mode ∧ (headroomEnd s d).sec = d.sec ∧ (headroomEnd s d).liveOld = d.liveOld ∧ (headroomEnd s d).objs = d.objs := by
  simp [headroomEnd]


@[simp] theorem endStrobe_frame (s : ℕ) (t : ℕ) (d : Dev) :
    (endStrobe s t d).hostMem = d.hostMem ∧ (endStrobe s t d).pwr.mode = d.pwr.mode ∧ (endStrobe s t d).sec = d.sec ∧ (endStrobe s t d).liveOld = d.liveOld ∧ (endStrobe s t d).objs = d.objs := by
  simp [endStrobe]


@[simp] theorem lampOff1_frame (t : ℕ) (s : ℕ) (d : Dev) :
    (lampOff1 t s d).hostMem = d.hostMem ∧ (lampOff1 t s d).pwr.mode = d.pwr.mode ∧ (lampOff1 t s d).sec = d.sec ∧ (lampOff1 t s d).liveOld = d.liveOld ∧ (lampOff1 t s d).objs = d.objs := by
  unfold lampOff1; (repeat' split) <;> simp_all


@[simp] theorem lampOff_frame (mask : ℕ) (t : ℕ) (d : Dev) :
    (lampOff mask t d).hostMem = d.hostMem ∧ (lampOff mask t d).pwr.mode = d.pwr.mode ∧ (lampOff mask t d).sec = d.sec ∧ (lampOff mask t d).liveOld = d.liveOld ∧ (lampOff mask t d).objs = d.objs := by
  simp [lampOff]


@[simp] theorem refreshGate_frame (s : ℕ) (t : ℕ) (d : Dev) :
    (refreshGate s t d).hostMem = d.hostMem ∧ (refreshGate s t d).pwr.mode = d.pwr.mode ∧ (refreshGate s t d).sec = d.sec ∧ (refreshGate s t d).liveOld = d.liveOld ∧ (refreshGate s t d).objs = d.objs := by
  simp [refreshGate]


@[simp] theorem startStrobe_frame (s : ℕ) (k : ℕ) (p : ℕ) (t : ℕ) (d : Dev) :
    (startStrobe s k p t d).hostMem = d.hostMem ∧ (startStrobe s k p t d).pwr.mode = d.pwr.mode ∧ (startStrobe s k p t d).sec = d.sec ∧ (startStrobe s k p t d).liveOld = d.liveOld ∧ (startStrobe s k p t d).objs = d.objs := by
  simp [startStrobe]


@[simp] theorem lampOn1_frame (k : ℕ) (t : ℕ) (s : ℕ) (d : Dev) :
    (lampOn1 k t s d).hostMem = d.hostMem ∧ (lampOn1 k t s d).pwr.mode = d.pwr.mode ∧ (lampOn1 k t s d).sec = d.sec ∧ (lampOn1 k t s d).liveOld = d.liveOld ∧ (lampOn1 k t s d).objs = d.objs := by
  unfold lampOn1; simp only []; (repeat' split) <;> simp_all


@[simp] theorem lampOn_frame (mask : ℕ) (off : ℕ) (k : ℕ) (t : ℕ) (d : Dev) :
    (lampOn mask off k t d).hostMem = d.hostMem ∧ (lampOn mask off k t d).pwr.mode = d.pwr.mode ∧ (lampOn mask off k t d).sec = d.sec ∧ (lampOn mask off k t d).liveOld = d.liveOld ∧ (lampOn mask off k t d).objs = d.objs := by
  simp [lampOn]


@[simp] theorem lampsOff_frame (d : Dev) :
    (lampsOff d).hostMem = d.hostMem ∧ (lampsOff d).pwr.mode = d.pwr.mode ∧ (lampsOff d).sec = d.sec ∧ (lampsOff d).liveOld = d.liveOld ∧ (lampsOff d).objs = d.objs := by
  simp [lampsOff]


@[simp] theorem applyLamps_frame (p : ℕ) (d : Dev) :
    (applyLamps p d).hostMem = d.hostMem ∧ (applyLamps p d).pwr.mode = d.pwr.mode ∧ (applyLamps p d).sec = d.sec ∧ (applyLamps p d).liveOld = d.liveOld ∧ (applyLamps p d).objs = d.objs := by
  simp [applyLamps]


@[simp] theorem decideLamps_frame (d : Dev) :
    (decideLamps d).hostMem = d.hostMem ∧ (decideLamps d).pwr.mode = d.pwr.mode ∧ (decideLamps d).sec = d.sec ∧ (decideLamps d).liveOld = d.liveOld ∧ (decideLamps d).objs = d.objs := by
  simp [decideLamps]


@[simp] theorem takeSpare_frame (s : ℕ) (f : ℕ) (d : Dev) :
    (takeSpare s f d).hostMem = d.hostMem ∧ (takeSpare s f d).pwr.mode = d.pwr.mode ∧ (takeSpare s f d).sec = d.sec ∧ (takeSpare s f d).liveOld = d.liveOld ∧ (takeSpare s f d).objs = d.objs := by
  unfold takeSpare; (repeat' split) <;> simp_all


@[simp] theorem lampFail_frame (s : ℕ) (l : ℕ) (d : Dev) :
    (lampFail s l d).hostMem = d.hostMem ∧ (lampFail s l d).pwr.mode = d.pwr.mode ∧ (lampFail s l d).sec = d.sec ∧ (lampFail s l d).liveOld = d.liveOld ∧ (lampFail s l d).objs = d.objs := by
  unfold lampFail
  extract_lets duty d1 d2 d3 struck d4 d5 d6
  clear_value duty
  have h_d1 : d1.hostMem = d.hostMem ∧ d1.pwr.mode = d.pwr.mode ∧ d1.sec = d.sec ∧ d1.liveOld = d.liveOld ∧ d1.objs = d.objs := by simp only [d1]; (repeat' split) <;> simp []
  clear_value d1
  have h_d2 : d2.hostMem = d.hostMem ∧ d2.pwr.mode = d.pwr.mode ∧ d2.sec = d.sec ∧ d2.liveOld = d.liveOld ∧ d2.objs = d.objs := by simp only [d2]; (repeat' split) <;> simp [h_d1]
  clear_value d2
  have h_d3 : d3.hostMem = d.hostMem ∧ d3.pwr.mode = d.pwr.mode ∧ d3.sec = d.sec ∧ d3.liveOld = d.liveOld ∧ d3.objs = d.objs := by simp only [d3]; (repeat' split) <;> simp [h_d1, h_d2]
  clear_value d3
  clear_value struck
  have h_d4 : d4.hostMem = d.hostMem ∧ d4.pwr.mode = d.pwr.mode ∧ d4.sec = d.sec ∧ d4.liveOld = d.liveOld ∧ d4.objs = d.objs := by simp only [d4]; (repeat' split) <;> simp [h_d1, h_d2, h_d3]
  clear_value d4
  have h_d5 : d5.hostMem = d.hostMem ∧ d5.pwr.mode = d.pwr.mode ∧ d5.sec = d.sec ∧ d5.liveOld = d.liveOld ∧ d5.objs = d.objs := by cases duty <;> simp [d5, h_d4]
  clear_value d5
  have h_d6 : d6.hostMem = d.hostMem ∧ d6.pwr.mode = d.pwr.mode ∧ d6.sec = d.sec ∧ d6.liveOld = d.liveOld ∧ d6.objs = d.objs := by simp only [d6]; (repeat' split) <;> simp [h_d1, h_d2, h_d3, h_d4, h_d5]
  clear_value d6
  (repeat' split) <;> simp_all


@[simp] theorem keepSpares_frame (s : ℕ) (b : Dev) (d : Dev) :
    (keepSpares s b d).hostMem = d.hostMem ∧ (keepSpares s b d).pwr.mode = d.pwr.mode ∧ (keepSpares s b d).sec = d.sec ∧ (keepSpares s b d).liveOld = d.liveOld ∧ (keepSpares s b d).objs = d.objs := by
  simp [keepSpares]


@[simp] theorem renominal_frame (d : Dev) :
    (renominal d).hostMem = d.hostMem ∧ (renominal d).pwr.mode = d.pwr.mode ∧ (renominal d).sec = d.sec ∧ (renominal d).liveOld = d.liveOld ∧ (renominal d).objs = d.objs := by
  simp [renominal]


end Sys2Proof.Laws
end

