-- ==== Sys2Proof/Laws/FrameSensorDrive.lean ====
section
/-! SUPPORT. What the operations of Sys2Proof/Machine/SensorDrive.lean leave alone of host memory (hostMem), the mode (pwr.mode), the security block (sec)
and the objects (objs, liveOld): one lemma per operation, saying of each that it changes none of those it names. -/

namespace Sys2Proof.Laws

open Sys2Proof.Machine

@[simp] theorem restartIdle_frame (d : Dev) :
    (restartIdle d).hostMem = d.hostMem ∧ (restartIdle d).pwr.mode = d.pwr.mode ∧ (restartIdle d).sec = d.sec ∧ (restartIdle d).liveOld = d.liveOld ∧ (restartIdle d).objs = d.objs := by
  simp [restartIdle]


@[simp] theorem setCtl_frame (id : ℕ) (ws : List Word) (d : Dev) :
    (setCtl id ws d).hostMem = d.hostMem ∧ (setCtl id ws d).pwr.mode = d.pwr.mode ∧ (setCtl id ws d).sec = d.sec ∧ (setCtl id ws d).liveOld = d.liveOld := by
  simp [setCtl]


@[simp] theorem applyDueCtl_frame (d : Dev) :
    (applyDueCtl d).hostMem = d.hostMem ∧ (applyDueCtl d).pwr.mode = d.pwr.mode ∧ (applyDueCtl d).sec = d.sec ∧ (applyDueCtl d).liveOld = d.liveOld := by
  simp [applyDueCtl]


@[simp] theorem freeEngine_frame (i : ℕ) (e : Engine) (d : Dev) :
    (freeEngine i e d).hostMem = d.hostMem ∧ (freeEngine i e d).pwr.mode = d.pwr.mode ∧ (freeEngine i e d).sec = d.sec ∧ (freeEngine i e d).liveOld = d.liveOld ∧ (freeEngine i e d).objs = d.objs := by
  simp [freeEngine]


@[simp] theorem stopEngine_frame (i : ℕ) (e : Engine) (d : Dev) :
    (stopEngine i e d).hostMem = d.hostMem ∧ (stopEngine i e d).pwr.mode = d.pwr.mode ∧ (stopEngine i e d).sec = d.sec ∧ (stopEngine i e d).liveOld = d.liveOld ∧ (stopEngine i e d).objs = d.objs := by
  unfold stopEngine; (repeat' split) <;> simp_all


@[simp] theorem startTable_frame (tbl : ℕ) (line : Option ℕ) (t : ℕ) (d : Dev) :
    (startTable tbl line t d).hostMem = d.hostMem ∧ (startTable tbl line t d).pwr.mode = d.pwr.mode ∧ (startTable tbl line t d).sec = d.sec ∧ (startTable tbl line t d).liveOld = d.liveOld := by
  unfold startTable; simp only []; (repeat' split) <;> simp_all


@[simp] theorem sdrvWave_frame (tbl : ℕ) (k : ℕ) (t : ℕ) (d : Dev) :
    (sdrvWave tbl k t d).hostMem = d.hostMem ∧ (sdrvWave tbl k t d).pwr.mode = d.pwr.mode ∧ (sdrvWave tbl k t d).sec = d.sec ∧ (sdrvWave tbl k t d).liveOld = d.liveOld := by
  simp [sdrvWave]


@[simp] theorem centreRows_frame (g : ℕ) (t : ℕ) (d : Dev) :
    (centreRows g t d).hostMem = d.hostMem ∧ (centreRows g t d).pwr.mode = d.pwr.mode ∧ (centreRows g t d).sec = d.sec ∧ (centreRows g t d).liveOld = d.liveOld ∧ (centreRows g t d).objs = d.objs := by
  simp [centreRows]


@[simp] theorem closeGroup_frame (g : ℕ) (t : ℕ) (d : Dev) :
    (closeGroup g t d).hostMem = d.hostMem ∧ (closeGroup g t d).pwr.mode = d.pwr.mode ∧ (closeGroup g t d).sec = d.sec ∧ (closeGroup g t d).liveOld = d.liveOld ∧ (closeGroup g t d).objs = d.objs := by
  simp [closeGroup]


@[simp] theorem refreshGroup_frame (g : ℕ) (t : ℕ) (d : Dev) :
    (refreshGroup g t d).hostMem = d.hostMem ∧ (refreshGroup g t d).pwr.mode = d.pwr.mode ∧ (refreshGroup g t d).sec = d.sec ∧ (refreshGroup g t d).liveOld = d.liveOld ∧ (refreshGroup g t d).objs = d.objs := by
  simp [refreshGroup]


@[simp] theorem closeGroups_frame (t : ℕ) (d : Dev) :
    (closeGroups t d).hostMem = d.hostMem ∧ (closeGroups t d).pwr.mode = d.pwr.mode ∧ (closeGroups t d).sec = d.sec ∧ (closeGroups t d).liveOld = d.liveOld ∧ (closeGroups t d).objs = d.objs := by
  simp [closeGroups]


@[simp] theorem outputsSafe_frame (d : Dev) :
    (outputsSafe d).hostMem = d.hostMem ∧ (outputsSafe d).pwr.mode = d.pwr.mode ∧ (outputsSafe d).sec = d.sec ∧ (outputsSafe d).liveOld = d.liveOld ∧ (outputsSafe d).objs = d.objs := by
  simp [outputsSafe]


@[simp] theorem outputsIdle_frame (d : Dev) :
    (outputsIdle d).hostMem = d.hostMem ∧ (outputsIdle d).pwr.mode = d.pwr.mode ∧ (outputsIdle d).sec = d.sec ∧ (outputsIdle d).liveOld = d.liveOld ∧ (outputsIdle d).objs = d.objs := by
  simp [outputsIdle]


@[simp] theorem tablesEnded_frame (d : Dev) :
    (tablesEnded d).hostMem = d.hostMem ∧ (tablesEnded d).pwr.mode = d.pwr.mode ∧ (tablesEnded d).sec = d.sec ∧ (tablesEnded d).liveOld = d.liveOld := by
  simp [tablesEnded]


@[simp] theorem applyPendingCtl_frame (d : Dev) :
    (applyPendingCtl d).hostMem = d.hostMem ∧ (applyPendingCtl d).pwr.mode = d.pwr.mode ∧ (applyPendingCtl d).sec = d.sec ∧ (applyPendingCtl d).liveOld = d.liveOld := by
  simp [applyPendingCtl]


@[simp] theorem stopTables_frame (d : Dev) :
    (stopTables d).hostMem = d.hostMem ∧ (stopTables d).pwr.mode = d.pwr.mode ∧ (stopTables d).sec = d.sec ∧ (stopTables d).liveOld = d.liveOld := by
  simp [stopTables]


@[simp] theorem passEntry_frame (e : ℕ) (d : Dev) :
    (passEntry e d).hostMem = d.hostMem ∧ (passEntry e d).pwr.mode = d.pwr.mode ∧ (passEntry e d).sec = d.sec ∧ (passEntry e d).liveOld = d.liveOld := by
  unfold passEntry; (repeat' split) <;> simp_all


@[simp] theorem entryAct_hostMem (kind : ℕ) (e : ℕ) (act : EntryAct → Dev → Dev) (d : Dev) (h0 : ∀ y0 d, (act y0 d).hostMem = d.hostMem) : (entryAct kind e act d).hostMem = d.hostMem := by
  unfold entryAct; (repeat' split) <;> simp_all

@[simp] theorem entryAct_mode (kind : ℕ) (e : ℕ) (act : EntryAct → Dev → Dev) (d : Dev) (h0 : ∀ y0 d, (act y0 d).pwr.mode = d.pwr.mode) : (entryAct kind e act d).pwr.mode = d.pwr.mode := by
  unfold entryAct; (repeat' split) <;> simp_all

@[simp] theorem entryAct_sec (kind : ℕ) (e : ℕ) (act : EntryAct → Dev → Dev) (d : Dev) (h0 : ∀ y0 d, (act y0 d).sec = d.sec) : (entryAct kind e act d).sec = d.sec := by
  unfold entryAct; (repeat' split) <;> simp_all

@[simp] theorem entryAct_liveOld (kind : ℕ) (e : ℕ) (act : EntryAct → Dev → Dev) (d : Dev) (h0 : ∀ y0 d, (act y0 d).liveOld = d.liveOld) : (entryAct kind e act d).liveOld = d.liveOld := by
  unfold entryAct; (repeat' split) <;> simp_all


@[simp] theorem openGroup_frame (g : ℕ) (t : ℕ) (d : Dev) :
    (openGroup g t d).hostMem = d.hostMem ∧ (openGroup g t d).pwr.mode = d.pwr.mode ∧ (openGroup g t d).sec = d.sec ∧ (openGroup g t d).liveOld = d.liveOld ∧ (openGroup g t d).objs = d.objs := by
  simp [openGroup]


@[simp] theorem exposeAct_frame (g : ℕ) (level : Bool) (t : ℕ) (d : Dev) :
    (exposeAct g level t d).hostMem = d.hostMem ∧ (exposeAct g level t d).pwr.mode = d.pwr.mode ∧ (exposeAct g level t d).sec = d.sec ∧ (exposeAct g level t d).liveOld = d.liveOld ∧ (exposeAct g level t d).objs = d.objs := by
  simp [exposeAct]


@[simp] theorem idlePlayback_frame (t : ℕ) (d : Dev) :
    (idlePlayback t d).hostMem = d.hostMem ∧ (idlePlayback t d).pwr.mode = d.pwr.mode ∧ (idlePlayback t d).sec = d.sec ∧ (idlePlayback t d).liveOld = d.liveOld := by
  simp [idlePlayback]


@[simp] theorem waveEntryExpose_frame (e : ℕ) (d : Dev) :
    (waveEntryExpose e d).hostMem = d.hostMem ∧ (waveEntryExpose e d).pwr.mode = d.pwr.mode ∧ (waveEntryExpose e d).sec = d.sec ∧ (waveEntryExpose e d).liveOld = d.liveOld := by
  simp [waveEntryExpose]


@[simp] theorem waveEntryPin_frame (e : ℕ) (d : Dev) :
    (waveEntryPin e d).hostMem = d.hostMem ∧ (waveEntryPin e d).pwr.mode = d.pwr.mode ∧ (waveEntryPin e d).sec = d.sec ∧ (waveEntryPin e d).liveOld = d.liveOld := by
  simp [waveEntryPin]


@[simp] theorem waveEntryShd_frame (e : ℕ) (d : Dev) :
    (waveEntryShd e d).hostMem = d.hostMem ∧ (waveEntryShd e d).pwr.mode = d.pwr.mode ∧ (waveEntryShd e d).sec = d.sec ∧ (waveEntryShd e d).liveOld = d.liveOld := by
  simp [waveEntryShd]


@[simp] theorem waveEntryShr_frame (e : ℕ) (d : Dev) :
    (waveEntryShr e d).hostMem = d.hostMem ∧ (waveEntryShr e d).pwr.mode = d.pwr.mode ∧ (waveEntryShr e d).sec = d.sec ∧ (waveEntryShr e d).liveOld = d.liveOld := by
  simp [waveEntryShr]


end Sys2Proof.Laws
end

