-- ==== Sys2Proof/Laws/FrameHeddleCore.lean ====
section
/-! SUPPORT. What the operations of Sys2Proof/Machine/HeddleCore.lean leave alone of host memory (hostMem), the mode (pwr.mode), the security block (sec)
and the objects (objs, liveOld): one lemma per operation, saying of each that it changes none of those it names. -/

namespace Sys2Proof.Laws

open Sys2Proof.Machine

@[simp] theorem drainEnd_frame (d : Dev) :
    (drainEnd d).hostMem = d.hostMem ∧ (drainEnd d).pwr.mode = d.pwr.mode ∧ (drainEnd d).sec = d.sec ∧ (drainEnd d).liveOld = d.liveOld ∧ (drainEnd d).objs = d.objs := by
  simp [drainEnd]


@[simp] theorem hdlFixResume_frame (d : Dev) :
    (hdlFixResume d).hostMem = d.hostMem ∧ (hdlFixResume d).pwr.mode = d.pwr.mode ∧ (hdlFixResume d).sec = d.sec ∧ (hdlFixResume d).liveOld = d.liveOld ∧ (hdlFixResume d).objs = d.objs := by
  simp [hdlFixResume]


@[simp] theorem setBank_frame (b : Bool) (x : HdlSet) (d : Dev) :
    (setBank b x d).hostMem = d.hostMem ∧ (setBank b x d).pwr.mode = d.pwr.mode ∧ (setBank b x d).sec = d.sec ∧ (setBank b x d).liveOld = d.liveOld ∧ (setBank b x d).objs = d.objs := by
  simp [setBank]


@[simp] theorem addDefect_frame (e : ℕ) (d : Dev) :
    (addDefect e d).2.hostMem = d.hostMem ∧ (addDefect e d).2.pwr.mode = d.pwr.mode ∧ (addDefect e d).2.sec = d.sec ∧ (addDefect e d).2.liveOld = d.liveOld ∧ (addDefect e d).2.objs = d.objs := by
  unfold addDefect; (repeat' split) <;> simp_all


end Sys2Proof.Laws
end

