-- ==== Sys2Proof/Laws/FrameShuttleCore.lean ====
section
/-! SUPPORT. What the operations of Sys2Proof/Machine/ShuttleCore.lean leave alone of host memory (hostMem), the mode (pwr.mode), the security block (sec)
and the objects (objs, liveOld): one lemma per operation, saying of each that it changes none of those it names. -/

namespace Sys2Proof.Laws

open Sys2Proof.Machine

@[simp] theorem reduceCurrent_frame (n : ℕ) (d : Dev) :
    (reduceCurrent n d).hostMem = d.hostMem ∧ (reduceCurrent n d).pwr.mode = d.pwr.mode ∧ (reduceCurrent n d).sec = d.sec ∧ (reduceCurrent n d).liveOld = d.liveOld ∧ (reduceCurrent n d).objs = d.objs := by
  simp [reduceCurrent]


@[simp] theorem holdCurrentAtRest_frame (n : ℕ) (d : Dev) :
    (holdCurrentAtRest n d).hostMem = d.hostMem ∧ (holdCurrentAtRest n d).pwr.mode = d.pwr.mode ∧ (holdCurrentAtRest n d).sec = d.sec ∧ (holdCurrentAtRest n d).liveOld = d.liveOld ∧ (holdCurrentAtRest n d).objs = d.objs := by
  simp [holdCurrentAtRest]


@[simp] theorem endLinear_frame (l : ℕ) (status : ℕ) (d : Dev) :
    (endLinear l status d).hostMem = d.hostMem ∧ (endLinear l status d).pwr.mode = d.pwr.mode ∧ (endLinear l status d).sec = d.sec ∧ (endLinear l status d).liveOld = d.liveOld ∧ (endLinear l status d).objs = d.objs := by
  unfold endLinear; (repeat' split) <;> simp_all


@[simp] theorem endMove_frame (n : ℕ) (m : Move) (status : ℕ) (d : Dev) :
    (endMove n m status d).hostMem = d.hostMem ∧ (endMove n m status d).pwr.mode = d.pwr.mode ∧ (endMove n m status d).sec = d.sec ∧ (endMove n m status d).liveOld = d.liveOld ∧ (endMove n m status d).objs = d.objs := by
  unfold endMove; (repeat' split) <;> simp_all


@[simp] theorem dropQueue_frame (n : ℕ) (status : ℕ) (keepActive : Bool) (d : Dev) :
    (dropQueue n status keepActive d).hostMem = d.hostMem ∧ (dropQueue n status keepActive d).pwr.mode = d.pwr.mode ∧ (dropQueue n status keepActive d).sec = d.sec ∧ (dropQueue n status keepActive d).liveOld = d.liveOld ∧ (dropQueue n status keepActive d).objs = d.objs := by
  unfold dropQueue; simp only []
  refine ⟨(each_hostMem _ ?_ _ _).trans ?_, (each_mode _ ?_ _ _).trans ?_, (each_sec _ ?_ _ _).trans ?_, (each_liveOld _ ?_ _ _).trans ?_, (each_objs _ ?_ _ _).trans ?_⟩ <;> (try intro m d) <;> (try split) <;> simp


@[simp] theorem emptied_frame (n : ℕ) (b : Axis) (d : Dev) :
    (emptied n b d).hostMem = d.hostMem ∧ (emptied n b d).pwr.mode = d.pwr.mode ∧ (emptied n b d).sec = d.sec ∧ (emptied n b d).liveOld = d.liveOld ∧ (emptied n b d).objs = d.objs := by
  simp [emptied]


@[simp] theorem dropMoves_frame (n : ℕ) (status : ℕ) (keepActive : Bool) (d : Dev) :
    (dropMoves n status keepActive d).hostMem = d.hostMem ∧ (dropMoves n status keepActive d).pwr.mode = d.pwr.mode ∧ (dropMoves n status keepActive d).sec = d.sec ∧ (dropMoves n status keepActive d).liveOld = d.liveOld ∧ (dropMoves n status keepActive d).objs = d.objs := by
  simp [dropMoves]


@[simp] theorem stopWith_frame (r : StopRamp) (n : ℕ) (status : ℕ) (d : Dev) :
    (stopWith r n status d).hostMem = d.hostMem ∧ (stopWith r n status d).pwr.mode = d.pwr.mode ∧ (stopWith r n status d).sec = d.sec ∧ (stopWith r n status d).liveOld = d.liveOld ∧ (stopWith r n status d).objs = d.objs := by
  simp [stopWith]


@[simp] theorem stopAxis_frame (n : ℕ) (status : ℕ) (d : Dev) :
    (stopAxis n status d).hostMem = d.hostMem ∧ (stopAxis n status d).pwr.mode = d.pwr.mode ∧ (stopAxis n status d).sec = d.sec ∧ (stopAxis n status d).liveOld = d.liveOld ∧ (stopAxis n status d).objs = d.objs := by
  simp [stopAxis]


@[simp] theorem stopAllAxes_frame (d : Dev) :
    (stopAllAxes d).hostMem = d.hostMem ∧ (stopAllAxes d).pwr.mode = d.pwr.mode ∧ (stopAllAxes d).sec = d.sec ∧ (stopAllAxes d).liveOld = d.liveOld ∧ (stopAllAxes d).objs = d.objs := by
  simp [stopAllAxes]


@[simp] theorem stopsDone_frame (d : Dev) :
    (stopsDone d).hostMem = d.hostMem ∧ (stopsDone d).pwr.mode = d.pwr.mode ∧ (stopsDone d).sec = d.sec ∧ (stopsDone d).liveOld = d.liveOld ∧ (stopsDone d).objs = d.objs := by
  simp [stopsDone]


@[simp] theorem bridgeOff_frame (n : ℕ) (d : Dev) :
    (bridgeOff n d).hostMem = d.hostMem ∧ (bridgeOff n d).pwr.mode = d.pwr.mode ∧ (bridgeOff n d).sec = d.sec ∧ (bridgeOff n d).liveOld = d.liveOld ∧ (bridgeOff n d).objs = d.objs := by
  simp [bridgeOff]


@[simp] theorem halted_frame (n : ℕ) (b : Axis) (d : Dev) :
    (halted n b d).hostMem = d.hostMem ∧ (halted n b d).pwr.mode = d.pwr.mode ∧ (halted n b d).sec = d.sec ∧ (halted n b d).liveOld = d.liveOld ∧ (halted n b d).objs = d.objs := by
  simp [halted]


@[simp] theorem followShuttle_frame (t : ℕ) (d : Dev) :
    (followShuttle t d).hostMem = d.hostMem ∧ (followShuttle t d).pwr.mode = d.pwr.mode ∧ (followShuttle t d).sec = d.sec ∧ (followShuttle t d).liveOld = d.liveOld ∧ (followShuttle t d).objs = d.objs := by
  unfold followShuttle; (repeat' split) <;> simp_all


end Sys2Proof.Laws
end

