-- ==== Sys2Proof/Laws/FramePolicy.lean ====
section
/-! SUPPORT. What the operations of Sys2Proof/Machine/Policy.lean leave alone of host memory (hostMem), the mode (pwr.mode), the security block (sec)
and the objects (objs, liveOld): one lemma per operation, saying of each that it changes none of those it names. -/

namespace Sys2Proof.Laws

open Sys2Proof.Machine

@[simp] theorem brakeAxis_frame (a : ℕ) (d : Dev) :
    (brakeAxis a d).hostMem = d.hostMem ∧ (brakeAxis a d).pwr.mode = d.pwr.mode ∧ (brakeAxis a d).sec = d.sec ∧ (brakeAxis a d).liveOld = d.liveOld ∧ (brakeAxis a d).objs = d.objs := by
  unfold brakeAxis; (repeat' split) <;> simp_all


@[simp] theorem refreshPins_frame (d : Dev) :
    (refreshPins d).hostMem = d.hostMem ∧ (refreshPins d).pwr.mode = d.pwr.mode ∧ (refreshPins d).sec = d.sec ∧ (refreshPins d).liveOld = d.liveOld ∧ (refreshPins d).objs = d.objs := by
  simp [refreshPins]


@[simp] theorem dropTrans_frame (d : Dev) :
    (dropTrans d).hostMem = d.hostMem ∧ (dropTrans d).pwr.mode = d.pwr.mode ∧ (dropTrans d).sec = d.sec ∧ (dropTrans d).liveOld = d.liveOld ∧ (dropTrans d).objs = d.objs := by
  unfold dropTrans; (repeat' split) <;> simp_all


@[simp] theorem calAbort_frame (d : Dev) :
    (calAbort d).hostMem = d.hostMem ∧ (calAbort d).pwr.mode = d.pwr.mode ∧ (calAbort d).sec = d.sec ∧ (calAbort d).liveOld = d.liveOld ∧ (calAbort d).objs = d.objs := by
  unfold calAbort; (repeat' split) <;> simp_all


@[simp] theorem paceDiscard_frame (d : Dev) :
    (paceDiscard d).hostMem = d.hostMem ∧ (paceDiscard d).pwr.mode = d.pwr.mode ∧ (paceDiscard d).sec = d.sec ∧ (paceDiscard d).liveOld = d.liveOld ∧ (paceDiscard d).objs = d.objs := by
  simp [paceDiscard]


@[simp] theorem tdiHold_frame (d : Dev) :
    (tdiHold d).hostMem = d.hostMem ∧ (tdiHold d).pwr.mode = d.pwr.mode ∧ (tdiHold d).sec = d.sec ∧ (tdiHold d).liveOld = d.liveOld ∧ (tdiHold d).objs = d.objs := by
  simp [tdiHold]


@[simp] theorem setMode_frame (m : Mode) (d : Dev) :
    (setMode m d).hostMem = d.hostMem ∧ (setMode m d).sec = d.sec ∧ (setMode m d).liveOld = d.liveOld ∧ (setMode m d).objs = d.objs := by
  simp [setMode]


@[simp] theorem enterSafe_frame (cls : Option ℕ) (who : Option Who) (d : Dev) :
    (enterSafe cls who d).hostMem = d.hostMem ∧ (enterSafe cls who d).sec = d.sec ∧ (enterSafe cls who d).liveOld = d.liveOld := by
  unfold enterSafe; simp only []; (repeat' split) <;> simp_all


@[simp] theorem paceStop_frame (cause : ℕ) (d : Dev) :
    (paceStop cause d).hostMem = d.hostMem ∧ (paceStop cause d).sec = d.sec ∧ (paceStop cause d).liveOld = d.liveOld := by
  simp [paceStop]


@[simp] theorem faultRaise_frame (c : ℕ) (source : ℕ) (line : Option ℕ) (status : ℕ) (d : Dev) :
    (faultRaise c source line status d).hostMem = d.hostMem ∧ (faultRaise c source line status d).sec = d.sec ∧ (faultRaise c source line status d).liveOld = d.liveOld := by
  unfold faultRaise; simp only []; (repeat' split) <;> simp_all


@[simp] theorem faultClear_frame (c : ℕ) (d : Dev) :
    (faultClear c d).hostMem = d.hostMem ∧ (faultClear c d).pwr.mode = d.pwr.mode ∧ (faultClear c d).sec = d.sec ∧ (faultClear c d).liveOld = d.liveOld ∧ (faultClear c d).objs = d.objs := by
  simp [faultClear]


@[simp] theorem faultClearSrc_frame (c : ℕ) (source : ℕ) (d : Dev) :
    (faultClearSrc c source d).hostMem = d.hostMem ∧ (faultClearSrc c source d).pwr.mode = d.pwr.mode ∧ (faultClearSrc c source d).sec = d.sec ∧ (faultClearSrc c source d).liveOld = d.liveOld ∧ (faultClearSrc c source d).objs = d.objs := by
  simp [faultClearSrc]


end Sys2Proof.Laws
end

