-- ==== Sys2Proof/Laws/FrameStatistics.lean ====
section
/-! SUPPORT. What the operations of Sys2Proof/Machine/Statistics.lean leave alone of host memory (hostMem), the mode (pwr.mode), the security block (sec)
and the objects (objs, liveOld): one lemma per operation, saying of each that it changes none of those it names. -/

namespace Sys2Proof.Laws

open Sys2Proof.Machine

@[simp] theorem clearCounts_frame (d : Dev) :
    (clearCounts d).hostMem = d.hostMem ∧ (clearCounts d).pwr.mode = d.pwr.mode ∧ (clearCounts d).sec = d.sec ∧ (clearCounts d).liveOld = d.liveOld ∧ (clearCounts d).objs = d.objs := by
  simp [clearCounts]


@[simp] theorem shadeSettled_frame (d : Dev) :
    (shadeSettled d).hostMem = d.hostMem ∧ (shadeSettled d).pwr.mode = d.pwr.mode ∧ (shadeSettled d).sec = d.sec ∧ (shadeSettled d).liveOld = d.liveOld ∧ (shadeSettled d).objs = d.objs := by
  simp [shadeSettled]


@[simp] theorem shadeClear_frame (d : Dev) :
    (shadeClear d).hostMem = d.hostMem ∧ (shadeClear d).pwr.mode = d.pwr.mode ∧ (shadeClear d).sec = d.sec ∧ (shadeClear d).liveOld = d.liveOld ∧ (shadeClear d).objs = d.objs := by
  simp [shadeClear]


@[simp] theorem swapResets_frame (due : ℕ → Bool) (d : Dev) :
    (swapResets due d).hostMem = d.hostMem ∧ (swapResets due d).pwr.mode = d.pwr.mode ∧ (swapResets due d).sec = d.sec ∧ (swapResets due d).liveOld = d.liveOld ∧ (swapResets due d).objs = d.objs := by
  simp [swapResets]


@[simp] theorem lineFigures_frame (k : ℕ) (d : Dev) :
    (lineFigures k d).hostMem = d.hostMem ∧ (lineFigures k d).pwr.mode = d.pwr.mode ∧ (lineFigures k d).sec = d.sec ∧ (lineFigures k d).liveOld = d.liveOld ∧ (lineFigures k d).objs = d.objs := by
  simp [lineFigures]


@[simp] theorem formFigures_frame (d : Dev) :
    (formFigures d).hostMem = d.hostMem ∧ (formFigures d).pwr.mode = d.pwr.mode ∧ (formFigures d).sec = d.sec ∧ (formFigures d).liveOld = d.liveOld ∧ (formFigures d).objs = d.objs := by
  simp [formFigures]


@[simp] theorem histCount_frame (k : ℕ) (ln : ℕ) (v : ℕ) (d : Dev) :
    (histCount k ln v d).hostMem = d.hostMem ∧ (histCount k ln v d).pwr.mode = d.pwr.mode ∧ (histCount k ln v d).sec = d.sec ∧ (histCount k ln v d).liveOld = d.liveOld ∧ (histCount k ln v d).objs = d.objs := by
  simp [histCount]


@[simp] theorem histShading_frame (l : HLine) (d : Dev) :
    (histShading l d).hostMem = d.hostMem ∧ (histShading l d).pwr.mode = d.pwr.mode ∧ (histShading l d).sec = d.sec ∧ (histShading l d).liveOld = d.liveOld ∧ (histShading l d).objs = d.objs := by
  unfold histShading; simp only []
  refine ⟨(each_hostMem _ (fun _ _ => each_hostMem _ ?_ _ _) _ _), (each_mode _ (fun _ _ => each_mode _ ?_ _ _) _ _), (each_sec _ (fun _ _ => each_sec _ ?_ _ _) _ _), (each_liveOld _ (fun _ _ => each_liveOld _ ?_ _ _) _ _), (each_objs _ (fun _ _ => each_objs _ ?_ _ _) _ _)⟩ <;> intro x d <;> split <;> simp


@[simp] theorem shadeStep_frame (tp : ℕ) (d : Dev) :
    (shadeStep tp d).hostMem = d.hostMem ∧ (shadeStep tp d).pwr.mode = d.pwr.mode ∧ (shadeStep tp d).sec = d.sec ∧ (shadeStep tp d).liveOld = d.liveOld ∧ (shadeStep tp d).objs = d.objs := by
  simp [shadeStep]


@[simp] theorem statCommit_frame (l : HLine) (rec : LineRec) (d : Dev) :
    (statCommit l rec d).hostMem = d.hostMem ∧ (statCommit l rec d).pwr.mode = d.pwr.mode ∧ (statCommit l rec d).sec = d.sec ∧ (statCommit l rec d).liveOld = d.liveOld ∧ (statCommit l rec d).objs = d.objs := by
  simp [statCommit]


@[simp] theorem histRaw_frame (stream : ℕ) (ln : ℕ) (code : ℕ) (d : Dev) :
    (histRaw stream ln code d).hostMem = d.hostMem ∧ (histRaw stream ln code d).pwr.mode = d.pwr.mode ∧ (histRaw stream ln code d).sec = d.sec ∧ (histRaw stream ln code d).liveOld = d.liveOld ∧ (histRaw stream ln code d).objs = d.objs := by
  simp [histRaw]


@[simp] theorem histOutput_frame (ln : ℕ) (ph : ℕ) (out : List ℤ) (wide : Bool) (d : Dev) :
    (histOutput ln ph out wide d).hostMem = d.hostMem ∧ (histOutput ln ph out wide d).pwr.mode = d.pwr.mode ∧ (histOutput ln ph out wide d).sec = d.sec ∧ (histOutput ln ph out wide d).liveOld = d.liveOld ∧ (histOutput ln ph out wide d).objs = d.objs := by
  simp [histOutput]


@[simp] theorem histSnapshot_frame (k : ℕ) (d : Dev) :
    (histSnapshot k d).hostMem = d.hostMem ∧ (histSnapshot k d).pwr.mode = d.pwr.mode ∧ (histSnapshot k d).sec = d.sec ∧ (histSnapshot k d).liveOld = d.liveOld ∧ (histSnapshot k d).objs = d.objs := by
  simp [histSnapshot]


@[simp] theorem stageTarget_frame (tp : ℕ) (lvl : ℤ) (d : Dev) (c : ℕ) :
    (stageTarget tp lvl d c).hostMem = d.hostMem ∧ (stageTarget tp lvl d c).pwr.mode = d.pwr.mode ∧ (stageTarget tp lvl d c).sec = d.sec ∧ (stageTarget tp lvl d c).liveOld = d.liveOld ∧ (stageTarget tp lvl d c).objs = d.objs := by
  simp [stageTarget]


@[simp] theorem statShadeUpdate_frame (tp : ℕ) (d : Dev) :
    (statShadeUpdate tp d).hostMem = d.hostMem ∧ (statShadeUpdate tp d).pwr.mode = d.pwr.mode ∧ (statShadeUpdate tp d).sec = d.sec ∧ (statShadeUpdate tp d).liveOld = d.liveOld ∧ (statShadeUpdate tp d).objs = d.objs := by
  unfold statShadeUpdate; simp only []; (repeat' split) <;> simp_all


end Sys2Proof.Laws
end

