-- ==== Sys2Proof/Laws/FrameTdiEngine.lean ====
section
/-! SUPPORT. What the operations of Sys2Proof/Machine/TdiEngine.lean leave alone of host memory (hostMem), the mode (pwr.mode), the security block (sec)
and the objects (objs, liveOld): one lemma per operation, saying of each that it changes none of those it names. -/

namespace Sys2Proof.Laws

open Sys2Proof.Machine

@[simp] theorem tdiRow_frame (k : ℕ) (t : ℕ) (d : Dev) :
    (tdiRow k t d).hostMem = d.hostMem ∧ (tdiRow k t d).pwr.mode = d.pwr.mode ∧ (tdiRow k t d).sec = d.sec ∧ (tdiRow k t d).liveOld = d.liveOld ∧ (tdiRow k t d).objs = d.objs := by
  simp [tdiRow]


@[simp] theorem addRow_frame (row : PixRow) (n : ℤ) (w : ℕ) (d : Dev) :
    (addRow row n w d).hostMem = d.hostMem ∧ (addRow row n w d).pwr.mode = d.pwr.mode ∧ (addRow row n w d).sec = d.sec ∧ (addRow row n w d).liveOld = d.liveOld ∧ (addRow row n w d).objs = d.objs := by
  simp [addRow]


@[simp] theorem closeLine_frame (l : TLine) (cur : ℕ) (atEnd : Bool) (d : Dev) :
    (closeLine l cur atEnd d).hostMem = d.hostMem ∧ (closeLine l cur atEnd d).pwr.mode = d.pwr.mode ∧ (closeLine l cur atEnd d).sec = d.sec ∧ (closeLine l cur atEnd d).liveOld = d.liveOld ∧ (closeLine l cur atEnd d).objs = d.objs := by
  unfold closeLine; simp only []; (repeat' split) <;> simp_all


@[simp] theorem tdiFlush_frame (d : Dev) :
    (tdiFlush d).hostMem = d.hostMem ∧ (tdiFlush d).pwr.mode = d.pwr.mode ∧ (tdiFlush d).sec = d.sec ∧ (tdiFlush d).liveOld = d.liveOld ∧ (tdiFlush d).objs = d.objs := by
  simp [tdiFlush]


@[simp] theorem closeBelow_frame (bound : ℕ) (cur : ℕ) (d : Dev) :
    (closeBelow bound cur d).hostMem = d.hostMem ∧ (closeBelow bound cur d).pwr.mode = d.pwr.mode ∧ (closeBelow bound cur d).sec = d.sec ∧ (closeBelow bound cur d).liveOld = d.liveOld ∧ (closeBelow bound cur d).objs = d.objs := by
  simp [closeBelow]


/-- A quantity that the parts of an accumulation leave alone is left alone by it. -/
theorem tdiAccumulate_keeps {α : Type} (p : Dev → α) (k ph : ℕ) (rows : List PixRow) (pos : List ℤ) (fl ovr undr pg : ℕ) (d : Dev)
    (ha : ∀ x n w d, p (addRow x n w d) = p d) (ht : ∀ f d, p (Dev.uTdi f d) = p d) (hc : ∀ b k d, p (closeBelow b k d) = p d) :
    p (tdiAccumulate k ph rows pos fl ovr undr pg d) = p d := by
  unfold tdiAccumulate
  extract_lets us d1 ns d2
  have h1 : p d1 = p d := each_keeps p _ (fun x d => each_keeps p _ (fun c d => ha _ _ _ d) _ _) _ _
  have h2 : p d2 = p d := by simp only [d2, ht, h1]
  clear_value d2 ns d1 us
  (repeat' split) <;> simp only [hc, h2]

@[simp] theorem tdiAccumulate_frame (k : ℕ) (ph : ℕ) (rows : List PixRow) (pos : List ℤ) (fl : ℕ) (ovr : ℕ) (undr : ℕ) (pg : ℕ) (d : Dev) :
    (tdiAccumulate k ph rows pos fl ovr undr pg d).hostMem = d.hostMem ∧ (tdiAccumulate k ph rows pos fl ovr undr pg d).pwr.mode = d.pwr.mode ∧ (tdiAccumulate k ph rows pos fl ovr undr pg d).sec = d.sec ∧ (tdiAccumulate k ph rows pos fl ovr undr pg d).liveOld = d.liveOld ∧ (tdiAccumulate k ph rows pos fl ovr undr pg d).objs = d.objs := by
  refine ⟨tdiAccumulate_keeps (·.hostMem) _ _ _ _ _ _ _ _ _ ?_ ?_ ?_, tdiAccumulate_keeps (·.pwr.mode) _ _ _ _ _ _ _ _ _ ?_ ?_ ?_, tdiAccumulate_keeps (·.sec) _ _ _ _ _ _ _ _ _ ?_ ?_ ?_, tdiAccumulate_keeps (·.liveOld) _ _ _ _ _ _ _ _ _ ?_ ?_ ?_, tdiAccumulate_keeps (·.objs) _ _ _ _ _ _ _ _ _ ?_ ?_ ?_⟩ <;> intros <;> simp


@[simp] theorem tdiRebuild_frame (d : Dev) :
    (tdiRebuild d).hostMem = d.hostMem ∧ (tdiRebuild d).pwr.mode = d.pwr.mode ∧ (tdiRebuild d).sec = d.sec ∧ (tdiRebuild d).liveOld = d.liveOld ∧ (tdiRebuild d).objs = d.objs := by
  simp [tdiRebuild]


@[simp] theorem tdiStart_frame (d : Dev) :
    (tdiStart d).hostMem = d.hostMem ∧ (tdiStart d).pwr.mode = d.pwr.mode ∧ (tdiStart d).sec = d.sec ∧ (tdiStart d).liveOld = d.liveOld ∧ (tdiStart d).objs = d.objs := by
  simp [tdiStart]


end Sys2Proof.Laws
end

