-- ==== Sys2Proof/Laws/FrameHeddle.lean ====
section
/-! SUPPORT. What the operations of Sys2Proof/Machine/Heddle.lean leave alone of host memory (hostMem), the mode (pwr.mode), the security block (sec)
and the objects (objs, liveOld): one lemma per operation, saying of each that it changes none of those it names. -/

namespace Sys2Proof.Laws

open Sys2Proof.Machine

@[simp] theorem dropListed_frame (d : Dev) :
    (dropListed d).hostMem = d.hostMem ∧ (dropListed d).pwr.mode = d.pwr.mode ∧ (dropListed d).sec = d.sec ∧ (dropListed d).liveOld = d.liveOld ∧ (dropListed d).objs = d.objs := by
  simp [dropListed]


@[simp] theorem bankSwap_frame (k : ℕ) (d : Dev) :
    (bankSwap k d).hostMem = d.hostMem ∧ (bankSwap k d).pwr.mode = d.pwr.mode ∧ (bankSwap k d).sec = d.sec ∧ (bankSwap k d).liveOld = d.liveOld ∧ (bankSwap k d).objs = d.objs := by
  simp [bankSwap]


@[simp] theorem bankLineStart_frame (k : ℕ) (boundary : Bool) (t : ℕ) (d : Dev) :
    (bankLineStart k boundary t d).hostMem = d.hostMem ∧ (bankLineStart k boundary t d).pwr.mode = d.pwr.mode ∧ (bankLineStart k boundary t d).sec = d.sec ∧ (bankLineStart k boundary t d).liveOld = d.liveOld ∧ (bankLineStart k boundary t d).objs = d.objs := by
  simp [bankLineStart]


@[simp] theorem bankSwapNow_frame (d : Dev) :
    (bankSwapNow d).hostMem = d.hostMem ∧ (bankSwapNow d).pwr.mode = d.pwr.mode ∧ (bankSwapNow d).sec = d.sec ∧ (bankSwapNow d).liveOld = d.liveOld ∧ (bankSwapNow d).objs = d.objs := by
  simp [bankSwapNow]


@[simp] theorem bankReady_frame (d : Dev) :
    (bankReady d).hostMem = d.hostMem ∧ (bankReady d).pwr.mode = d.pwr.mode ∧ (bankReady d).sec = d.sec ∧ (bankReady d).liveOld = d.liveOld ∧ (bankReady d).objs = d.objs := by
  simp [bankReady]


@[simp] theorem defLogClear_frame (d : Dev) :
    (defLogClear d).hostMem = d.hostMem ∧ (defLogClear d).pwr.mode = d.pwr.mode ∧ (defLogClear d).sec = d.sec ∧ (defLogClear d).liveOld = d.liveOld ∧ (defLogClear d).objs = d.objs := by
  simp [defLogClear]


@[simp] theorem meetUe_frame (k : ℕ) (w : ℕ × ℕ) (d : Dev) :
    (meetUe k w d).hostMem = d.hostMem ∧ (meetUe k w d).pwr.mode = d.pwr.mode ∧ (meetUe k w d).sec = d.sec ∧ (meetUe k w d).liveOld = d.liveOld ∧ (meetUe k w d).objs = d.objs := by
  simp [meetUe]


@[simp] theorem stepFive_frame (l : HLine) (d : Dev) :
    (stepFive l d).2.hostMem = d.hostMem ∧ (stepFive l d).2.pwr.mode = d.pwr.mode ∧ (stepFive l d).2.sec = d.sec ∧ (stepFive l d).2.liveOld = d.liveOld ∧ (stepFive l d).2.objs = d.objs := by
  unfold stepFive; simp only []; (repeat' split) <;> simp_all


@[simp] theorem heddleLineDone_frame (d : Dev) :
    (heddleLineDone d).hostMem = d.hostMem ∧ (heddleLineDone d).pwr.mode = d.pwr.mode ∧ (heddleLineDone d).sec = d.sec ∧ (heddleLineDone d).liveOld = d.liveOld ∧ (heddleLineDone d).objs = d.objs := by
  unfold heddleLineDone; simp only []; (repeat' split) <;> simp_all


@[simp] theorem finishComplete_frame (x0 : ℕ) (x1 : Dev) :
    (finishComplete x0 x1).hostMem = x1.hostMem ∧ (finishComplete x0 x1).pwr.mode = x1.pwr.mode ∧ (finishComplete x0 x1).sec = x1.sec ∧ (finishComplete x0 x1).liveOld = x1.liveOld ∧ (finishComplete x0 x1).objs = x1.objs := by
  induction x0 generalizing x1 with
  | zero => simp [finishComplete]
  | succ n ih => unfold finishComplete; split <;> simp [ih]


@[simp] theorem entryOf_frame (x : HdlSet) (a : ℕ) (d : Dev) :
    (entryOf x a d).2.hostMem = d.hostMem ∧ (entryOf x a d).2.pwr.mode = d.pwr.mode ∧ (entryOf x a d).2.sec = d.sec ∧ (entryOf x a d).2.liveOld = d.liveOld ∧ (entryOf x a d).2.objs = d.objs := by
  unfold entryOf; (repeat' split) <;> simp_all


@[simp] theorem phaseGainStart_frame (d : Dev) :
    (phaseGainStart d).hostMem = d.hostMem ∧ (phaseGainStart d).pwr.mode = d.pwr.mode ∧ (phaseGainStart d).sec = d.sec ∧ (phaseGainStart d).liveOld = d.liveOld ∧ (phaseGainStart d).objs = d.objs := by
  simp [phaseGainStart]


@[simp] theorem forceClose_frame (k : ℕ) (d : Dev) :
    (forceClose k d).2.hostMem = d.hostMem ∧ (forceClose k d).2.pwr.mode = d.pwr.mode ∧ (forceClose k d).2.sec = d.sec ∧ (forceClose k d).2.liveOld = d.liveOld ∧ (forceClose k d).2.objs = d.objs := by
  unfold forceClose; simp only []; (repeat' split) <;> simp_all


@[simp] theorem hdlCopyDone_frame (d : Dev) :
    (hdlCopyDone d).hostMem = d.hostMem ∧ (hdlCopyDone d).pwr.mode = d.pwr.mode ∧ (hdlCopyDone d).sec = d.sec ∧ (hdlCopyDone d).liveOld = d.liveOld ∧ (hdlCopyDone d).objs = d.objs := by
  simp [hdlCopyDone]


@[simp] theorem loadBank_frame (f : HdlSet → HdlSet) (d : Dev) :
    (loadBank f d).hostMem = d.hostMem ∧ (loadBank f d).pwr.mode = d.pwr.mode ∧ (loadBank f d).sec = d.sec ∧ (loadBank f d).liveOld = d.liveOld ∧ (loadBank f d).objs = d.objs := by
  simp [loadBank]


@[simp] theorem hdlDefectApply_frame (ws : List Word) (d : Dev) :
    (hdlDefectApply ws d).hostMem = d.hostMem ∧ (hdlDefectApply ws d).pwr.mode = d.pwr.mode ∧ (hdlDefectApply ws d).sec = d.sec ∧ (hdlDefectApply ws d).liveOld = d.liveOld ∧ (hdlDefectApply ws d).objs = d.objs := by
  simp [hdlDefectApply]


@[simp] theorem hdlLinApply_frame (t : ℕ) (ws : List Word) (d : Dev) :
    (hdlLinApply t ws d).hostMem = d.hostMem ∧ (hdlLinApply t ws d).pwr.mode = d.pwr.mode ∧ (hdlLinApply t ws d).sec = d.sec ∧ (hdlLinApply t ws d).liveOld = d.liveOld ∧ (hdlLinApply t ws d).objs = d.objs := by
  simp [hdlLinApply]


@[simp] theorem hdlMapApply_frame (ws : List Word) (d : Dev) :
    (hdlMapApply ws d).hostMem = d.hostMem ∧ (hdlMapApply ws d).pwr.mode = d.pwr.mode ∧ (hdlMapApply ws d).sec = d.sec ∧ (hdlMapApply ws d).liveOld = d.liveOld ∧ (hdlMapApply ws d).objs = d.objs := by
  simp [hdlMapApply]


@[simp] theorem hdlStatusClear_frame (d : Dev) :
    (hdlStatusClear d).hostMem = d.hostMem ∧ (hdlStatusClear d).pwr.mode = d.pwr.mode ∧ (hdlStatusClear d).sec = d.sec ∧ (hdlStatusClear d).liveOld = d.liveOld ∧ (hdlStatusClear d).objs = d.objs := by
  simp [hdlStatusClear]


@[simp] theorem hdlTableApply_frame (ws : List Word) (d : Dev) :
    (hdlTableApply ws d).hostMem = d.hostMem ∧ (hdlTableApply ws d).pwr.mode = d.pwr.mode ∧ (hdlTableApply ws d).sec = d.sec ∧ (hdlTableApply ws d).liveOld = d.liveOld ∧ (hdlTableApply ws d).objs = d.objs := by
  simp [hdlTableApply]


@[simp] theorem hdlTableDrawn_frame (d : Dev) :
    (hdlTableDrawn d).hostMem = d.hostMem ∧ (hdlTableDrawn d).pwr.mode = d.pwr.mode ∧ (hdlTableDrawn d).sec = d.sec ∧ (hdlTableDrawn d).liveOld = d.liveOld ∧ (hdlTableDrawn d).objs = d.objs := by
  simp [hdlTableDrawn]


@[simp] theorem holdLine_frame (k : ℕ) (ph : ℕ) (d : Dev) :
    (holdLine k ph d).hostMem = d.hostMem ∧ (holdLine k ph d).pwr.mode = d.pwr.mode ∧ (holdLine k ph d).sec = d.sec ∧ (holdLine k ph d).liveOld = d.liveOld ∧ (holdLine k ph d).objs = d.objs := by
  simp [holdLine]


@[simp] theorem lateSample_frame (s : Sample) (d : Dev) :
    (lateSample s d).hostMem = d.hostMem ∧ (lateSample s d).pwr.mode = d.pwr.mode ∧ (lateSample s d).sec = d.sec ∧ (lateSample s d).liveOld = d.liveOld ∧ (lateSample s d).objs = d.objs := by
  simp [lateSample]


/-- A quantity that every part of placing a sample leaves alone is left alone by it. -/
theorem placeSample_keeps {α : Type} (p : Dev → α) (s : Sample) (ph : ℕ) (si : ℕ) (seg : Seg) (d : Dev)
    (hH : ∀ f d, p (Dev.uHdl f d) = p d) (hM : ∀ k f d, p (flagLine k f d) = p d) (hU : ∀ k f d, p (updLine k f d) = p d)
    (hE : ∀ x a d, p (entryOf x a d).2 = p d) (hW : ∀ k w d, p (meetUe k w d) = p d) (hC : ∀ k r b d, p (countOut k r b d) = p d) : p (placeSample s ph si seg d) = p d := by
  unfold placeSample
  split
  · rfl
  rename_i l h
  clear h
  split
  rename_i row ci h
  extract_lets x col pos rng d1 a
  split
  · rfl
  have h1 : p d1 = p d := by simp only [d1]; split <;> simp only [hC]
  clear_value d1
  split
  rename_i e d2 h
  have h2 : p d2 = p d := by rw [← h1, ← hE x a d1, h]
  clear h
  extract_lets y1 y2 gain y3 ue d3 clip q d4
  clear_value ue
  have h3 : p d3 = p d := by simp only [d3]; exact (each_keeps p _ (fun x d => hW _ _ d) _ _).trans h2
  clear_value d3
  have h4 : p d4 = p d := by simp only [d4]; split <;> simp only [hH, h3]
  rw [hH, h4]

@[simp] theorem placeSample_frame (s : Sample) (ph : ℕ) (si : ℕ) (seg : Seg) (d : Dev) :
    (placeSample s ph si seg d).hostMem = d.hostMem ∧ (placeSample s ph si seg d).pwr.mode = d.pwr.mode ∧ (placeSample s ph si seg d).sec = d.sec ∧ (placeSample s ph si seg d).liveOld = d.liveOld ∧ (placeSample s ph si seg d).objs = d.objs := by
  refine ⟨placeSample_keeps (·.hostMem) _ _ _ _ _ ?_ ?_ ?_ ?_ ?_ ?_, placeSample_keeps (·.pwr.mode) _ _ _ _ _ ?_ ?_ ?_ ?_ ?_ ?_, placeSample_keeps (·.sec) _ _ _ _ _ ?_ ?_ ?_ ?_ ?_ ?_, placeSample_keeps (·.liveOld) _ _ _ _ _ ?_ ?_ ?_ ?_ ?_ ?_, placeSample_keeps (·.objs) _ _ _ _ _ ?_ ?_ ?_ ?_ ?_ ?_⟩ <;> intros <;> simp


@[simp] theorem tableRead_frame (err : TableErr) (b : Bool) (k : ℕ) (d : Dev) :
    (tableRead err b k d).hostMem = d.hostMem ∧ (tableRead err b k d).sec = d.sec ∧ (tableRead err b k d).liveOld = d.liveOld := by
  unfold tableRead; (repeat' split) <;> simp_all


@[simp] theorem heddleSample_frame (err : TableErr) (d : Dev) :
    (heddleSample err d).hostMem = d.hostMem ∧ (heddleSample err d).sec = d.sec ∧ (heddleSample err d).liveOld = d.liveOld := by
  unfold heddleSample; simp only []; (repeat' split) <;> simp_all


end Sys2Proof.Laws
end

