-- ==== Sys2Proof/Laws/FramePacing.lean ====
section
/-! SUPPORT. What the operations of Sys2Proof/Machine/Pacing.lean leave alone of host memory (hostMem), the mode (pwr.mode), the security block (sec)
and the objects (objs, liveOld): one lemma per operation, saying of each that it changes none of those it names. -/

namespace Sys2Proof.Laws

open Sys2Proof.Machine

@[simp] theorem abandonRunUp_frame (cause : ℕ) (d : Dev) :
    (abandonRunUp cause d).hostMem = d.hostMem ∧ (abandonRunUp cause d).pwr.mode = d.pwr.mode ∧ (abandonRunUp cause d).sec = d.sec ∧ (abandonRunUp cause d).liveOld = d.liveOld ∧ (abandonRunUp cause d).objs = d.objs := by
  simp [abandonRunUp]


@[simp] theorem updQueue_frame (q : ℕ) (f : Queue → Queue) (d : Dev) :
    (updQueue q f d).hostMem = d.hostMem ∧ (updQueue q f d).pwr.mode = d.pwr.mode ∧ (updQueue q f d).sec = d.sec ∧ (updQueue q f d).liveOld = d.liveOld ∧ (updQueue q f d).objs = d.objs := by
  simp [updQueue]


@[simp] theorem updStore_frame (s : ℕ) (f : Store → Store) (d : Dev) :
    (updStore s f d).hostMem = d.hostMem ∧ (updStore s f d).pwr.mode = d.pwr.mode ∧ (updStore s f d).sec = d.sec ∧ (updStore s f d).liveOld = d.liveOld ∧ (updStore s f d).objs = d.objs := by
  simp [updStore]


@[simp] theorem releaseExternal_frame (d : Dev) :
    (releaseExternal d).hostMem = d.hostMem ∧ (releaseExternal d).pwr.mode = d.pwr.mode ∧ (releaseExternal d).sec = d.sec ∧ (releaseExternal d).liveOld = d.liveOld ∧ (releaseExternal d).objs = d.objs := by
  simp [releaseExternal]


@[simp] theorem xoffBegin_frame (d : Dev) :
    (xoffBegin d).hostMem = d.hostMem ∧ (xoffBegin d).pwr.mode = d.pwr.mode ∧ (xoffBegin d).sec = d.sec ∧ (xoffBegin d).liveOld = d.liveOld ∧ (xoffBegin d).objs = d.objs := by
  simp [xoffBegin]


@[simp] theorem armReleases_frame (d : Dev) :
    (armReleases d).hostMem = d.hostMem ∧ (armReleases d).pwr.mode = d.pwr.mode ∧ (armReleases d).sec = d.sec ∧ (armReleases d).liveOld = d.liveOld ∧ (armReleases d).objs = d.objs := by
  simp [armReleases]


@[simp] theorem paceMoveTo_frame (n : ℕ) (target : ℤ) (v5 : ℕ) (a : ℕ) (d : Dev) :
    (paceMoveTo n target v5 a d).hostMem = d.hostMem ∧ (paceMoveTo n target v5 a d).pwr.mode = d.pwr.mode ∧ (paceMoveTo n target v5 a d).sec = d.sec ∧ (paceMoveTo n target v5 a d).liveOld = d.liveOld ∧ (paceMoveTo n target v5 a d).objs = d.objs := by
  simp [paceMoveTo]


@[simp] theorem beginRewind_frame (n : ℕ) (v5 : ℕ) (d : Dev) :
    (beginRewind n v5 d).hostMem = d.hostMem ∧ (beginRewind n v5 d).pwr.mode = d.pwr.mode ∧ (beginRewind n v5 d).sec = d.sec ∧ (beginRewind n v5 d).liveOld = d.liveOld ∧ (beginRewind n v5 d).objs = d.objs := by
  simp [beginRewind]


@[simp] theorem tdiOvertaken_frame (first : ℕ) (d : Dev) :
    (tdiOvertaken first d).hostMem = d.hostMem ∧ (tdiOvertaken first d).pwr.mode = d.pwr.mode ∧ (tdiOvertaken first d).sec = d.sec ∧ (tdiOvertaken first d).liveOld = d.liveOld ∧ (tdiOvertaken first d).objs = d.objs := by
  simp [tdiOvertaken]


@[simp] theorem fixRestart_frame (d : Dev) :
    (fixRestart d).hostMem = d.hostMem ∧ (fixRestart d).pwr.mode = d.pwr.mode ∧ (fixRestart d).sec = d.sec ∧ (fixRestart d).liveOld = d.liveOld ∧ (fixRestart d).objs = d.objs := by
  unfold fixRestart; simp only []; (repeat' split) <;> simp_all


@[simp] theorem repark_frame (d : Dev) :
    (repark d).hostMem = d.hostMem ∧ (repark d).pwr.mode = d.pwr.mode ∧ (repark d).sec = d.sec ∧ (repark d).liveOld = d.liveOld ∧ (repark d).objs = d.objs := by
  unfold repark; (repeat' split) <;> simp_all


@[simp] theorem markOvertaken_frame (d : Dev) :
    (markOvertaken d).hostMem = d.hostMem ∧ (markOvertaken d).pwr.mode = d.pwr.mode ∧ (markOvertaken d).sec = d.sec ∧ (markOvertaken d).liveOld = d.liveOld ∧ (markOvertaken d).objs = d.objs := by
  simp [markOvertaken]


@[simp] theorem beginReady_frame (who : Option Who) (scanDone : Bool) (d : Dev) :
    (beginReady who scanDone d).hostMem = d.hostMem ∧ (beginReady who scanDone d).pwr.mode = d.pwr.mode ∧ (beginReady who scanDone d).sec = d.sec ∧ (beginReady who scanDone d).liveOld = d.liveOld ∧ (beginReady who scanDone d).objs = d.objs := by
  simp [beginReady]


@[simp] theorem paceSourceFault_frame (first : ℕ) (d : Dev) :
    (paceSourceFault first d).hostMem = d.hostMem ∧ (paceSourceFault first d).pwr.mode = d.pwr.mode ∧ (paceSourceFault first d).sec = d.sec ∧ (paceSourceFault first d).liveOld = d.liveOld ∧ (paceSourceFault first d).objs = d.objs := by
  simp [paceSourceFault]


@[simp] theorem taper_frame (num : ℤ) (den : ℤ) (d : Dev) :
    (taper num den d).2.hostMem = d.hostMem ∧ (taper num den d).2.pwr.mode = d.pwr.mode ∧ (taper num den d).2.sec = d.sec ∧ (taper num den d).2.liveOld = d.liveOld ∧ (taper num den d).2.objs = d.objs := by
  unfold taper; (repeat' split) <;> simp_all


/-- A quantity that every step of a fold leaves alone in the device of its pair is left alone by the fold. -/
theorem foldl_pair_keeps {α β γ : Type} (p : Dev → γ) (f : α × Dev → β → α × Dev) (h : ∀ a x, p (f a x).2 = p a.2) (l : List β) (a : α × Dev) :
    p (l.foldl f a).2 = p a.2 := by
  induction l generalizing a with
  | nil => rfl
  | cons x xs ih => simp [ih, h]

/-- A quantity that a draw leaves alone is left alone by the fill taper. -/
theorem fillTaper_keeps {α : Type} (p : Dev → α) (d : Dev) (h : ∀ a b d, p (taper a b d).2 = p d) : p (fillTaper d).2 = p d := by
  unfold fillTaper
  refine foldl_pair_keeps p _ ?_ _ _
  rintro ⟨v, d⟩ s
  dsimp only
  (repeat' split) <;> simp [h]

@[simp] theorem fillTaper_frame (d : Dev) :
    (fillTaper d).2.hostMem = d.hostMem ∧ (fillTaper d).2.pwr.mode = d.pwr.mode ∧ (fillTaper d).2.sec = d.sec ∧ (fillTaper d).2.liveOld = d.liveOld ∧ (fillTaper d).2.objs = d.objs := by
  refine ⟨fillTaper_keeps (·.hostMem) _ ?_, fillTaper_keeps (·.pwr.mode) _ ?_, fillTaper_keeps (·.sec) _ ?_, fillTaper_keeps (·.liveOld) _ ?_, fillTaper_keeps (·.objs) _ ?_⟩ <;> intros <;> simp


@[simp] theorem ownDemand_frame (d : Dev) :
    (ownDemand d).2.hostMem = d.hostMem ∧ (ownDemand d).2.pwr.mode = d.pwr.mode ∧ (ownDemand d).2.sec = d.sec ∧ (ownDemand d).2.liveOld = d.liveOld ∧ (ownDemand d).2.objs = d.objs := by
  simp [ownDemand]


@[simp] theorem demand_frame (d : Dev) :
    (demand d).2.hostMem = d.hostMem ∧ (demand d).2.pwr.mode = d.pwr.mode ∧ (demand d).2.sec = d.sec ∧ (demand d).2.liveOld = d.liveOld ∧ (demand d).2.objs = d.objs := by
  simp [demand]


@[simp] theorem paceRebuild_frame (d : Dev) :
    (paceRebuild d).hostMem = d.hostMem ∧ (paceRebuild d).pwr.mode = d.pwr.mode ∧ (paceRebuild d).sec = d.sec ∧ (paceRebuild d).liveOld = d.liveOld ∧ (paceRebuild d).objs = d.objs := by
  simp [paceRebuild]


@[simp] theorem fcMinAssertEnd_frame (p : ℕ) (d : Dev) :
    (fcMinAssertEnd p d).hostMem = d.hostMem ∧ (fcMinAssertEnd p d).pwr.mode = d.pwr.mode ∧ (fcMinAssertEnd p d).sec = d.sec ∧ (fcMinAssertEnd p d).liveOld = d.liveOld ∧ (fcMinAssertEnd p d).objs = d.objs := by
  unfold fcMinAssertEnd; (repeat' split) <;> simp_all


/-- A quantity that the parts of a line start in Pacing leave alone is left alone by it. -/
theorem paceLineStart_keeps {α : Type} (p : Dev → α) (k : ℕ) (d : Dev) (hs : ∀ m d, p (setMode m d) = p d) (hp : ∀ f d, p (Dev.uPace f d) = p d)
    (ha : ∀ n f d, p (updAxis n f d) = p d) (hf : ∀ w a b l d, p (finish? w a b l d) = p d)
    (hq : ∀ d, p (d.uPwr fun q => { q with modeWho := none }) = p d) (hh : ∀ f d, p (Dev.uHdl f d) = p d) (hr : ∀ n d, p (raise n d) = p d)
    (he : ∀ a b c e k l d, p (postEvent a b c e k l d) = p d) : p (paceLineStart k d).2.2.2 = p d := by
  unfold paceLineStart
  extract_lets running a5 a4 w a3 a2 d1 slow rel first fl d2
  split
  · simp only [hp, hs]
  have h1 : p d1 = p d := by
    simp only [d1, a2, a3, a4, a5]
    (repeat' split) <;> simp only [hp, hs, ha, hf, hq, hh]
  clear_value d1 first
  split
  · exact h1
  · have h2 : p d2 = p d := by simp only [d2]; split <;> simp only [hr, hp, h1]
    clear_value d2
    dsimp only
    split <;> simp only [he, hp, h2]

@[simp] theorem paceLineStart_frame (k : ℕ) (d : Dev) :
    (paceLineStart k d).2.2.2.hostMem = d.hostMem ∧ (paceLineStart k d).2.2.2.sec = d.sec ∧ (paceLineStart k d).2.2.2.liveOld = d.liveOld ∧ (paceLineStart k d).2.2.2.objs = d.objs := by
  refine ⟨paceLineStart_keeps (·.hostMem) _ _ ?_ ?_ ?_ ?_ ?_ ?_ ?_ ?_ , paceLineStart_keeps (·.sec) _ _ ?_ ?_ ?_ ?_ ?_ ?_ ?_ ?_ , paceLineStart_keeps (·.liveOld) _ _ ?_ ?_ ?_ ?_ ?_ ?_ ?_ ?_ , paceLineStart_keeps (·.objs) _ _ ?_ ?_ ?_ ?_ ?_ ?_ ?_ ?_ ⟩ <;> intros <;> simp


@[simp] theorem holdInHold_frame (d : Dev) :
    (holdInHold d).hostMem = d.hostMem ∧ (holdInHold d).pwr.mode = d.pwr.mode ∧ (holdInHold d).sec = d.sec ∧ (holdInHold d).liveOld = d.liveOld ∧ (holdInHold d).objs = d.objs := by
  simp [holdInHold]


@[simp] theorem unstarted_frame (a : ℕ) (b : ℕ) (d : Dev) :
    (unstarted a b d).hostMem = d.hostMem ∧ (unstarted a b d).pwr.mode = d.pwr.mode ∧ (unstarted a b d).sec = d.sec ∧ (unstarted a b d).liveOld = d.liveOld ∧ (unstarted a b d).objs = d.objs := by
  simp [unstarted]


@[simp] theorem resumeExternal_frame (d : Dev) :
    (resumeExternal d).hostMem = d.hostMem ∧ (resumeExternal d).sec = d.sec ∧ (resumeExternal d).liveOld = d.liveOld ∧ (resumeExternal d).objs = d.objs := by
  simp [resumeExternal]


@[simp] theorem paceResume_frame (d : Dev) :
    (paceResume d).hostMem = d.hostMem ∧ (paceResume d).sec = d.sec ∧ (paceResume d).liveOld = d.liveOld ∧ (paceResume d).objs = d.objs := by
  unfold paceResume; simp only []; (repeat' split) <;> simp_all


@[simp] theorem setVc_frame (v : ℕ) (d : Dev) :
    (setVc v d).hostMem = d.hostMem ∧ (setVc v d).pwr.mode = d.pwr.mode ∧ (setVc v d).sec = d.sec ∧ (setVc v d).liveOld = d.liveOld ∧ (setVc v d).objs = d.objs := by
  simp [setVc]


@[simp] theorem paceStart_frame (d : Dev) :
    (paceStart d).hostMem = d.hostMem ∧ (paceStart d).pwr.mode = d.pwr.mode ∧ (paceStart d).sec = d.sec ∧ (paceStart d).liveOld = d.liveOld ∧ (paceStart d).objs = d.objs := by
  simp [paceStart]


@[simp] theorem paceStatusClear_frame (d : Dev) :
    (paceStatusClear d).hostMem = d.hostMem ∧ (paceStatusClear d).pwr.mode = d.pwr.mode ∧ (paceStatusClear d).sec = d.sec ∧ (paceStatusClear d).liveOld = d.liveOld ∧ (paceStatusClear d).objs = d.objs := by
  simp [paceStatusClear]


@[simp] theorem paceAxisAtRest_frame (d : Dev) :
    (paceAxisAtRest d).hostMem = d.hostMem ∧ (paceAxisAtRest d).pwr.mode = d.pwr.mode ∧ (paceAxisAtRest d).sec = d.sec ∧ (paceAxisAtRest d).liveOld = d.liveOld ∧ (paceAxisAtRest d).objs = d.objs := by
  unfold paceAxisAtRest; (repeat' split) <;> simp_all


@[simp] theorem paceBrake_frame (d : Dev) :
    (paceBrake d).hostMem = d.hostMem ∧ (paceBrake d).sec = d.sec ∧ (paceBrake d).liveOld = d.liveOld := by
  simp [paceBrake]


@[simp] theorem paceLaw_frame (d : Dev) :
    (paceLaw d).hostMem = d.hostMem ∧ (paceLaw d).sec = d.sec ∧ (paceLaw d).liveOld = d.liveOld := by
  simp [paceLaw]


@[simp] theorem paceParkReached_frame (d : Dev) :
    (paceParkReached d).hostMem = d.hostMem ∧ (paceParkReached d).pwr.mode = d.pwr.mode ∧ (paceParkReached d).sec = d.sec ∧ (paceParkReached d).liveOld = d.liveOld ∧ (paceParkReached d).objs = d.objs := by
  unfold paceParkReached; (repeat' split) <;> simp_all


@[simp] theorem paceTick_frame (d : Dev) :
    (paceTick d).hostMem = d.hostMem ∧ (paceTick d).sec = d.sec ∧ (paceTick d).liveOld = d.liveOld := by
  unfold paceTick; simp only []; (repeat' split) <;> simp_all


end Sys2Proof.Laws
end

