-- ==== Sys2Proof/Laws/FrameKarumCore.lean ====
section
/-! SUPPORT. What the operations of Sys2Proof/Machine/KarumCore.lean leave alone of host memory (hostMem), the mode (pwr.mode), the security block (sec)
and the objects (objs, liveOld): one lemma per operation, saying of each that it changes none of those it names. -/

namespace Sys2Proof.Laws

open Sys2Proof.Machine

@[simp] theorem updPort_frame (p : ℕ) (f : KPort → KPort) (d : Dev) :
    (updPort p f d).hostMem = d.hostMem ∧ (updPort p f d).pwr.mode = d.pwr.mode ∧ (updPort p f d).sec = d.sec ∧ (updPort p f d).liveOld = d.liveOld ∧ (updPort p f d).objs = d.objs := by
  simp [updPort]


@[simp] theorem sendOn_frame (p : ℕ) (b : KBlock) (d : Dev) :
    (sendOn p b d).hostMem = d.hostMem ∧ (sendOn p b d).pwr.mode = d.pwr.mode ∧ (sendOn p b d).sec = d.sec ∧ (sendOn p b d).liveOld = d.liveOld ∧ (sendOn p b d).objs = d.objs := by
  simp [sendOn]


@[simp] theorem sendMask_frame (m : ℕ) (b : KBlock) (d : Dev) :
    (sendMask m b d).hostMem = d.hostMem ∧ (sendMask m b d).pwr.mode = d.pwr.mode ∧ (sendMask m b d).sec = d.sec ∧ (sendMask m b d).liveOld = d.liveOld ∧ (sendMask m b d).objs = d.objs := by
  simp [sendMask]


@[simp] theorem broadcast_frame (b : KBlock) (d : Dev) :
    (broadcast b d).hostMem = d.hostMem ∧ (broadcast b d).pwr.mode = d.pwr.mode ∧ (broadcast b d).sec = d.sec ∧ (broadcast b d).liveOld = d.liveOld ∧ (broadcast b d).objs = d.objs := by
  simp [broadcast]


@[simp] theorem sendTo_frame (b : KBlock) (d : Dev) :
    (sendTo b d).hostMem = d.hostMem ∧ (sendTo b d).pwr.mode = d.pwr.mode ∧ (sendTo b d).sec = d.sec ∧ (sendTo b d).liveOld = d.liveOld ∧ (sendTo b d).objs = d.objs := by
  unfold sendTo; (repeat' split) <;> simp_all


@[simp] theorem sendConfirms_frame (k : ℕ) (d : Dev) :
    (sendConfirms k d).hostMem = d.hostMem ∧ (sendConfirms k d).pwr.mode = d.pwr.mode ∧ (sendConfirms k d).sec = d.sec ∧ (sendConfirms k d).liveOld = d.liveOld ∧ (sendConfirms k d).objs = d.objs := by
  simp [sendConfirms]


@[simp] theorem sendWaiting_frame (p : ℕ) (d : Dev) :
    (sendWaiting p d).hostMem = d.hostMem ∧ (sendWaiting p d).pwr.mode = d.pwr.mode ∧ (sendWaiting p d).sec = d.sec ∧ (sendWaiting p d).liveOld = d.liveOld ∧ (sendWaiting p d).objs = d.objs := by
  simp [sendWaiting]


end Sys2Proof.Laws
end

