-- ==== Sys2Proof/Laws/FrameReel.lean ====
section
/-! SUPPORT. What the operations of Sys2Proof/Machine/Reel.lean leave alone of host memory (hostMem), the mode (pwr.mode), the security block (sec)
and the objects (objs, liveOld): one lemma per operation, saying of each that it changes none of those it names. -/

namespace Sys2Proof.Laws

open Sys2Proof.Machine

@[simp] theorem sendData_frame (q : ℕ) (ws : List (List Word)) (end_ : Bool) (abort : Bool) (d : Dev) :
    (sendData q ws end_ abort d).hostMem = d.hostMem ∧ (sendData q ws end_ abort d).pwr.mode = d.pwr.mode ∧ (sendData q ws end_ abort d).sec = d.sec ∧ (sendData q ws end_ abort d).liveOld = d.liveOld ∧ (sendData q ws end_ abort d).objs = d.objs := by
  simp [sendData]


@[simp] theorem abortOutbound_frame (q : ℕ) (d : Dev) :
    (abortOutbound q d).hostMem = d.hostMem ∧ (abortOutbound q d).pwr.mode = d.pwr.mode ∧ (abortOutbound q d).sec = d.sec ∧ (abortOutbound q d).liveOld = d.liveOld ∧ (abortOutbound q d).objs = d.objs := by
  simp [abortOutbound]


@[simp] theorem pushWord_frame (q : ℕ) (w : QWord) (d : Dev) :
    (pushWord q w d).hostMem = d.hostMem ∧ (pushWord q w d).pwr.mode = d.pwr.mode ∧ (pushWord q w d).sec = d.sec ∧ (pushWord q w d).liveOld = d.liveOld ∧ (pushWord q w d).objs = d.objs := by
  simp [pushWord]


@[simp] theorem pushReady_frame (q : ℕ) (x1 : List QWord) (x2 : Dev) :
    (pushReady q x1 x2).hostMem = x2.hostMem ∧ (pushReady q x1 x2).pwr.mode = x2.pwr.mode ∧ (pushReady q x1 x2).sec = x2.sec ∧ (pushReady q x1 x2).liveOld = x2.liveOld ∧ (pushReady q x1 x2).objs = x2.objs := by
  induction x1 generalizing x2 with
  | nil => simp [pushReady]
  | cons w ws ih => unfold pushReady; split <;> simp [ih]


@[simp] theorem evalQueue_frame (q : ℕ) (d : Dev) :
    (evalQueue q d).hostMem = d.hostMem ∧ (evalQueue q d).pwr.mode = d.pwr.mode ∧ (evalQueue q d).sec = d.sec ∧ (evalQueue q d).liveOld = d.liveOld ∧ (evalQueue q d).objs = d.objs := by
  simp [evalQueue]


@[simp] theorem evalStore_frame (s : ℕ) (d : Dev) :
    (evalStore s d).hostMem = d.hostMem ∧ (evalStore s d).pwr.mode = d.pwr.mode ∧ (evalStore s d).sec = d.sec ∧ (evalStore s d).liveOld = d.liveOld ∧ (evalStore s d).objs = d.objs := by
  simp [evalStore]


@[simp] theorem refuseLine_frame (s : ℕ) (k : ℕ) (d : Dev) :
    (refuseLine s k d).hostMem = d.hostMem ∧ (refuseLine s k d).pwr.mode = d.pwr.mode ∧ (refuseLine s k d).sec = d.sec ∧ (refuseLine s k d).liveOld = d.liveOld ∧ (refuseLine s k d).objs = d.objs := by
  simp [refuseLine]


@[simp] theorem abortRecord_frame (s : ℕ) (k : ℕ) (d : Dev) :
    (abortRecord s k d).hostMem = d.hostMem ∧ (abortRecord s k d).pwr.mode = d.pwr.mode ∧ (abortRecord s k d).sec = d.sec ∧ (abortRecord s k d).liveOld = d.liveOld ∧ (abortRecord s k d).objs = d.objs := by
  simp [abortRecord]


@[simp] theorem admitLine_frame (s : ℕ) (k : ℕ) (n : ℕ) (d : Dev) :
    (admitLine s k n d).2.hostMem = d.hostMem ∧ (admitLine s k n d).2.pwr.mode = d.pwr.mode ∧ (admitLine s k n d).2.sec = d.sec ∧ (admitLine s k n d).2.liveOld = d.liveOld ∧ (admitLine s k n d).2.objs = d.objs := by
  unfold admitLine; simp only []; (repeat' split) <;> simp_all


@[simp] theorem refill_frame (q : ℕ) (d : Dev) :
    (refill q d).hostMem = d.hostMem ∧ (refill q d).pwr.mode = d.pwr.mode ∧ (refill q d).sec = d.sec ∧ (refill q d).liveOld = d.liveOld ∧ (refill q d).objs = d.objs := by
  unfold refill; (repeat' split) <;> simp_all


@[simp] theorem dropRemainder_frame (q : ℕ) (d : Dev) :
    (dropRemainder q d).hostMem = d.hostMem ∧ (dropRemainder q d).pwr.mode = d.pwr.mode ∧ (dropRemainder q d).sec = d.sec ∧ (dropRemainder q d).liveOld = d.liveOld ∧ (dropRemainder q d).objs = d.objs := by
  simp [dropRemainder]


@[simp] theorem setTileWords_frame (q : ℕ) (ws : List (List Word)) (d : Dev) :
    (setTileWords q ws d).hostMem = d.hostMem ∧ (setTileWords q ws d).pwr.mode = d.pwr.mode ∧ (setTileWords q ws d).sec = d.sec ∧ (setTileWords q ws d).liveOld = d.liveOld ∧ (setTileWords q ws d).objs = d.objs := by
  simp [setTileWords]


@[simp] theorem linesDone_frame (k : ℕ) (d : Dev) :
    (linesDone k d).hostMem = d.hostMem ∧ (linesDone k d).pwr.mode = d.pwr.mode ∧ (linesDone k d).sec = d.sec ∧ (linesDone k d).liveOld = d.liveOld ∧ (linesDone k d).objs = d.objs := by
  unfold linesDone; (repeat' split) <;> simp_all


@[simp] theorem commitRecord_frame (s : ℕ) (k : ℕ) (words : List (List Word)) (d : Dev) :
    (commitRecord s k words d).hostMem = d.hostMem ∧ (commitRecord s k words d).pwr.mode = d.pwr.mode ∧ (commitRecord s k words d).sec = d.sec ∧ (commitRecord s k words d).liveOld = d.liveOld ∧ (commitRecord s k words d).objs = d.objs := by
  simp [commitRecord]


@[simp] theorem stitchCommit_frame (l : StitchLine) (d : Dev) :
    (stitchCommit l d).hostMem = d.hostMem ∧ (stitchCommit l d).pwr.mode = d.pwr.mode ∧ (stitchCommit l d).sec = d.sec ∧ (stitchCommit l d).liveOld = d.liveOld ∧ (stitchCommit l d).objs = d.objs := by
  simp [stitchCommit]


@[simp] theorem stitchFlush_frame (x0 : ℕ) (x1 : Dev) :
    (stitchFlush x0 x1).hostMem = x1.hostMem ∧ (stitchFlush x0 x1).pwr.mode = x1.pwr.mode ∧ (stitchFlush x0 x1).sec = x1.sec ∧ (stitchFlush x0 x1).liveOld = x1.liveOld ∧ (stitchFlush x0 x1).objs = x1.objs := by
  induction x0 generalizing x1 with
  | zero => simp [stitchFlush]
  | succ n ih => unfold stitchFlush; (repeat' split) <;> simp [ih]


/-- A quantity that the parts of a tile's arrival leave alone is left alone by it. -/
theorem stitchTile_keeps {α : Type} (p : Dev → α) (s : ℕ) (words : List (List Word)) (d : Dev) (hk : ∀ f d, p (Dev.uKrm f d) = p d)
    (hf : ∀ n d, p (stitchFlush n d) = p d) (hc : ∀ l d, p (stitchCommit l d) = p d) (he : ∀ s d, p (evalStore s d) = p d) (hl : ∀ s k u d, p (admitLine s k u d).2 = p d) :
    p (stitchTile s words d) = p d := by
  unfold stitchTile
  extract_lets h x d1 add d2 l units
  split
  · simp only [hk]
  have h1 : p d1 = p d := by simp only [d1, hk]
  have hadd : ∀ e, p (add e) = p e := fun e => by simp only [add, hf, hk]
  have h2 : p d2 = p d := by simp only [d2]; (repeat' split) <;> simp only [hc, h1]
  have h3 := hl s h.k units d2
  clear_value d2 units l add d1
  (repeat' split) <;> simp_all only

@[simp] theorem stitchTile_frame (s : ℕ) (words : List (List Word)) (d : Dev) :
    (stitchTile s words d).hostMem = d.hostMem ∧ (stitchTile s words d).pwr.mode = d.pwr.mode ∧ (stitchTile s words d).sec = d.sec ∧ (stitchTile s words d).liveOld = d.liveOld ∧ (stitchTile s words d).objs = d.objs := by
  refine ⟨stitchTile_keeps (·.hostMem) _ _ _ ?_ ?_ ?_ ?_ ?_, stitchTile_keeps (·.pwr.mode) _ _ _ ?_ ?_ ?_ ?_ ?_, stitchTile_keeps (·.sec) _ _ _ ?_ ?_ ?_ ?_ ?_, stitchTile_keeps (·.liveOld) _ _ _ ?_ ?_ ?_ ?_ ?_, stitchTile_keeps (·.objs) _ _ _ ?_ ?_ ?_ ?_ ?_⟩ <;> intros <;> simp


@[simp] theorem takeWord_frame (q : ℕ) (d : Dev) :
    (takeWord q d).hostMem = d.hostMem ∧ (takeWord q d).pwr.mode = d.pwr.mode ∧ (takeWord q d).sec = d.sec ∧ (takeWord q d).liveOld = d.liveOld ∧ (takeWord q d).objs = d.objs := by
  simp [takeWord]


@[simp] theorem waitForWord_frame (q : ℕ) (header : Bool) (flip : ℕ) (ue : Bool) (d : Dev) :
    (waitForWord q header flip ue d).hostMem = d.hostMem ∧ (waitForWord q header flip ue d).pwr.mode = d.pwr.mode ∧ (waitForWord q header flip ue d).sec = d.sec ∧ (waitForWord q header flip ue d).liveOld = d.liveOld ∧ (waitForWord q header flip ue d).objs = d.objs := by
  simp [waitForWord]


@[simp] theorem reelHeaderPop_frame (q : ℕ) (flip : ℕ) (d : Dev) :
    (reelHeaderPop q flip d).hostMem = d.hostMem ∧ (reelHeaderPop q flip d).pwr.mode = d.pwr.mode ∧ (reelHeaderPop q flip d).sec = d.sec ∧ (reelHeaderPop q flip d).liveOld = d.liveOld ∧ (reelHeaderPop q flip d).objs = d.objs := by
  unfold reelHeaderPop; simp only []; (repeat' split) <;> simp_all


@[simp] theorem reelReadUe_frame (s : ℕ) (r : Record) (i : ℕ) (d : Dev) :
    (reelReadUe s r i d).hostMem = d.hostMem ∧ (reelReadUe s r i d).sec = d.sec ∧ (reelReadUe s r i d).liveOld = d.liveOld := by
  simp [reelReadUe]


@[simp] theorem outboundWord_frame (q : ℕ) (w : QWord) (flip : ℕ) (ue : Bool) (d : Dev) :
    (outboundWord q w flip ue d).2.hostMem = d.hostMem ∧ (outboundWord q w flip ue d).2.sec = d.sec ∧ (outboundWord q w flip ue d).2.liveOld = d.liveOld := by
  unfold outboundWord; simp only []; (repeat' split) <;> simp_all


@[simp] theorem abortTile_frame (q : ℕ) (s : ℕ) (k : ℕ) (d : Dev) :
    (abortTile q s k d).hostMem = d.hostMem ∧ (abortTile q s k d).pwr.mode = d.pwr.mode ∧ (abortTile q s k d).sec = d.sec ∧ (abortTile q s k d).liveOld = d.liveOld ∧ (abortTile q s k d).objs = d.objs := by
  simp [abortTile]


@[simp] theorem popInbound_frame (q : ℕ) (s : ℕ) (flip : ℕ) (w : QWord) (d : Dev) :
    (popInbound q s flip w d).hostMem = d.hostMem ∧ (popInbound q s flip w d).pwr.mode = d.pwr.mode ∧ (popInbound q s flip w d).sec = d.sec ∧ (popInbound q s flip w d).liveOld = d.liveOld ∧ (popInbound q s flip w d).objs = d.objs := by
  unfold popInbound; (repeat' split) <;> simp_all


@[simp] theorem portWord_frame (q : ℕ) (w : List Word) (end_ : Bool) (d : Dev) :
    (portWord q w end_ d).hostMem = d.hostMem ∧ (portWord q w end_ d).pwr.mode = d.pwr.mode ∧ (portWord q w end_ d).sec = d.sec ∧ (portWord q w end_ d).liveOld = d.liveOld ∧ (portWord q w end_ d).objs = d.objs := by
  simp [portWord]


@[simp] theorem updGroup_frame (q : ℕ) (f : Group → Group) (d : Dev) :
    (updGroup q f d).hostMem = d.hostMem ∧ (updGroup q f d).pwr.mode = d.pwr.mode ∧ (updGroup q f d).sec = d.sec ∧ (updGroup q f d).liveOld = d.liveOld ∧ (updGroup q f d).objs = d.objs := by
  simp [updGroup]


@[simp] theorem skeinPop_frame (q : ℕ) (flip : ℕ) (ue : Bool) (d : Dev) :
    (skeinPop q flip ue d).hostMem = d.hostMem ∧ (skeinPop q flip ue d).sec = d.sec ∧ (skeinPop q flip ue d).liveOld = d.liveOld := by
  unfold skeinPop; simp only []; (repeat' split) <;> simp_all


@[simp] theorem servePop_frame (q : ℕ) (d : Dev) :
    (servePop q d).hostMem = d.hostMem ∧ (servePop q d).sec = d.sec ∧ (servePop q d).liveOld = d.liveOld := by
  unfold servePop; (repeat' split) <;> simp_all


@[simp] theorem abortPacket_frame (q : ℕ) (d : Dev) :
    (abortPacket q d).hostMem = d.hostMem ∧ (abortPacket q d).sec = d.sec ∧ (abortPacket q d).liveOld = d.liveOld := by
  simp [abortPacket]


@[simp] theorem storeConfirm_frame (s : ℕ) (c : ℕ) (d : Dev) :
    (storeConfirm s c d).hostMem = d.hostMem ∧ (storeConfirm s c d).pwr.mode = d.pwr.mode ∧ (storeConfirm s c d).sec = d.sec ∧ (storeConfirm s c d).liveOld = d.liveOld ∧ (storeConfirm s c d).objs = d.objs := by
  simp [storeConfirm]


@[simp] theorem unread_frame (q : ℕ) (d : Dev) :
    (unread q d).hostMem = d.hostMem ∧ (unread q d).pwr.mode = d.pwr.mode ∧ (unread q d).sec = d.sec ∧ (unread q d).liveOld = d.liveOld ∧ (unread q d).objs = d.objs := by
  unfold unread; (repeat' split) <;> simp_all


@[simp] theorem clearQueues_frame (d : Dev) :
    (clearQueues d).hostMem = d.hostMem ∧ (clearQueues d).pwr.mode = d.pwr.mode ∧ (clearQueues d).sec = d.sec ∧ (clearQueues d).liveOld = d.liveOld ∧ (clearQueues d).objs = d.objs := by
  simp [clearQueues]


@[simp] theorem dropTile_frame (q : ℕ) (d : Dev) :
    (dropTile q d).hostMem = d.hostMem ∧ (dropTile q d).pwr.mode = d.pwr.mode ∧ (dropTile q d).sec = d.sec ∧ (dropTile q d).liveOld = d.liveOld ∧ (dropTile q d).objs = d.objs := by
  simp [dropTile]


@[simp] theorem cutPackets_frame (s : ℕ) (d : Dev) :
    (cutPackets s d).hostMem = d.hostMem ∧ (cutPackets s d).pwr.mode = d.pwr.mode ∧ (cutPackets s d).sec = d.sec ∧ (cutPackets s d).liveOld = d.liveOld ∧ (cutPackets s d).objs = d.objs := by
  unfold cutPackets; simp only []; (repeat' split) <;> simp_all


@[simp] theorem clearStore_frame (s : ℕ) (d : Dev) :
    (clearStore s d).hostMem = d.hostMem ∧ (clearStore s d).pwr.mode = d.pwr.mode ∧ (clearStore s d).sec = d.sec ∧ (clearStore s d).liveOld = d.liveOld ∧ (clearStore s d).objs = d.objs := by
  simp [clearStore]


@[simp] theorem inCycle_hostMem (more : Bool) (q : ℕ) (f : Dev → Dev) (d : Dev) (h0 : ∀ d, (f  d).hostMem = d.hostMem) : (inCycle more q f d).hostMem = d.hostMem := by
  unfold inCycle; (repeat' split) <;> simp_all

@[simp] theorem inCycle_mode (more : Bool) (q : ℕ) (f : Dev → Dev) (d : Dev) (h0 : ∀ d, (f  d).pwr.mode = d.pwr.mode) : (inCycle more q f d).pwr.mode = d.pwr.mode := by
  unfold inCycle; (repeat' split) <;> simp_all

@[simp] theorem inCycle_sec (more : Bool) (q : ℕ) (f : Dev → Dev) (d : Dev) (h0 : ∀ d, (f  d).sec = d.sec) : (inCycle more q f d).sec = d.sec := by
  unfold inCycle; (repeat' split) <;> simp_all

@[simp] theorem inCycle_liveOld (more : Bool) (q : ℕ) (f : Dev → Dev) (d : Dev) (h0 : ∀ d, (f  d).liveOld = d.liveOld) : (inCycle more q f d).liveOld = d.liveOld := by
  unfold inCycle; (repeat' split) <;> simp_all

@[simp] theorem inCycle_objs (more : Bool) (q : ℕ) (f : Dev → Dev) (d : Dev) (h0 : ∀ d, (f  d).objs = d.objs) : (inCycle more q f d).objs = d.objs := by
  unfold inCycle; (repeat' split) <;> simp_all


@[simp] theorem pushPacket_frame (q : ℕ) (ws : List QWord) (d : Dev) :
    (pushPacket q ws d).hostMem = d.hostMem ∧ (pushPacket q ws d).sec = d.sec ∧ (pushPacket q ws d).liveOld = d.liveOld := by
  simp [pushPacket]


@[simp] theorem reelLsApply_frame (ws : List Word) (d : Dev) :
    (reelLsApply ws d).hostMem = d.hostMem ∧ (reelLsApply ws d).pwr.mode = d.pwr.mode ∧ (reelLsApply ws d).sec = d.sec ∧ (reelLsApply ws d).liveOld = d.liveOld := by
  simp [reelLsApply]


@[simp] theorem sknQueueApply_frame (ws : List Word) (d : Dev) :
    (sknQueueApply ws d).hostMem = d.hostMem ∧ (sknQueueApply ws d).pwr.mode = d.pwr.mode ∧ (sknQueueApply ws d).sec = d.sec ∧ (sknQueueApply ws d).liveOld = d.liveOld := by
  simp [sknQueueApply]


@[simp] theorem readRecord_frame (s : ℕ) (r : Record) (ue : List ℕ) (d : Dev) :
    (readRecord s r ue d).2.hostMem = d.hostMem ∧ (readRecord s r ue d).2.sec = d.sec ∧ (readRecord s r ue d).2.liveOld = d.liveOld := by
  simp [readRecord]


@[simp] theorem readNext_frame (q : ℕ) (ue : List ℕ) (d : Dev) :
    (readNext q ue d).hostMem = d.hostMem ∧ (readNext q ue d).sec = d.sec ∧ (readNext q ue d).liveOld = d.liveOld := by
  unfold readNext; simp only []; (repeat' split) <;> simp_all


@[simp] theorem reelCommit_frame (s : ℕ) (d : Dev) :
    (reelCommit s d).hostMem = d.hostMem ∧ (reelCommit s d).pwr.mode = d.pwr.mode ∧ (reelCommit s d).sec = d.sec ∧ (reelCommit s d).liveOld = d.liveOld ∧ (reelCommit s d).objs = d.objs := by
  unfold reelCommit; (repeat' split) <;> simp_all


@[simp] theorem reelScrub_frame (n : ℕ) (d : Dev) :
    (reelScrub n d).hostMem = d.hostMem ∧ (reelScrub n d).pwr.mode = d.pwr.mode ∧ (reelScrub n d).sec = d.sec ∧ (reelScrub n d).liveOld = d.liveOld ∧ (reelScrub n d).objs = d.objs := by
  simp [reelScrub]


@[simp] theorem skeinPush_frame (q : ℕ) (ue : List ℕ) (d : Dev) :
    (skeinPush q ue d).hostMem = d.hostMem ∧ (skeinPush q ue d).sec = d.sec ∧ (skeinPush q ue d).liveOld = d.liveOld := by
  unfold skeinPush; simp only []; (repeat' split) <;> simp_all


@[simp] theorem stitchTileTimeout_frame (d : Dev) :
    (stitchTileTimeout d).hostMem = d.hostMem ∧ (stitchTileTimeout d).pwr.mode = d.pwr.mode ∧ (stitchTileTimeout d).sec = d.sec ∧ (stitchTileTimeout d).liveOld = d.liveOld ∧ (stitchTileTimeout d).objs = d.objs := by
  unfold stitchTileTimeout; (repeat' split) <;> simp_all


@[simp] theorem storeDiscard_frame (c : MnrCmd) (d : Dev) :
    (storeDiscard c d).hostMem = d.hostMem ∧ (storeDiscard c d).pwr.mode = d.pwr.mode ∧ (storeDiscard c d).sec = d.sec ∧ (storeDiscard c d).liveOld = d.liveOld ∧ (storeDiscard c d).objs = d.objs := by
  simp [storeDiscard]


end Sys2Proof.Laws
end

