-- ==== Sys2Proof/Laws/FramePacking.lean ====
section
/-! SUPPORT. What the operations of Sys2Proof/Machine/Packing.lean leave alone of host memory (hostMem), the mode (pwr.mode), the security block (sec)
and the objects (objs, liveOld): one lemma per operation, saying of each that it changes none of those it names. -/

namespace Sys2Proof.Laws

open Sys2Proof.Machine

@[simp] theorem lineDone_frame (d : Dev) :
    (lineDone d).hostMem = d.hostMem ∧ (lineDone d).pwr.mode = d.pwr.mode ∧ (lineDone d).sec = d.sec ∧ (lineDone d).liveOld = d.liveOld ∧ (lineDone d).objs = d.objs := by
  simp [lineDone]


@[simp] theorem restartVerify_frame (k : ℕ) (rec : LineRec) (d : Dev) :
    (restartVerify k rec d).hostMem = d.hostMem ∧ (restartVerify k rec d).pwr.mode = d.pwr.mode ∧ (restartVerify k rec d).sec = d.sec ∧ (restartVerify k rec d).liveOld = d.liveOld ∧ (restartVerify k rec d).objs = d.objs := by
  unfold restartVerify; (repeat' split) <;> simp_all


@[simp] theorem packLine_frame (d : Dev) :
    (packLine d).hostMem = d.hostMem ∧ (packLine d).sec = d.sec ∧ (packLine d).liveOld = d.liveOld := by
  unfold packLine; simp only []; (repeat' split) <;> simp_all


end Sys2Proof.Laws
end

