-- ==== Sys2Proof/Laws/FrameHostStream.lean ====
section
/-! SUPPORT. What the operations of Sys2Proof/Machine/HostStream.lean leave alone of host memory (hostMem), the mode (pwr.mode), the security block (sec)
and the objects (objs, liveOld): one lemma per operation, saying of each that it changes none of those it names. -/

namespace Sys2Proof.Laws

open Sys2Proof.Machine

@[simp] theorem sendMsg_frame (v : ℕ) (d : Dev) :
    (sendMsg v d).pwr.mode = d.pwr.mode ∧ (sendMsg v d).sec = d.sec ∧ (sendMsg v d).liveOld = d.liveOld ∧ (sendMsg v d).objs = d.objs := by
  simp [sendMsg]


@[simp] theorem requestMsg_frame (v : ℕ) (d : Dev) :
    (requestMsg v d).pwr.mode = d.pwr.mode ∧ (requestMsg v d).sec = d.sec ∧ (requestMsg v d).liveOld = d.liveOld ∧ (requestMsg v d).objs = d.objs := by
  simp [requestMsg]


@[simp] theorem updRing_frame (n : ℕ) (f : Ring → Ring) (d : Dev) :
    (updRing n f d).hostMem = d.hostMem ∧ (updRing n f d).pwr.mode = d.pwr.mode ∧ (updRing n f d).sec = d.sec ∧ (updRing n f d).liveOld = d.liveOld ∧ (updRing n f d).objs = d.objs := by
  simp [updRing]


@[simp] theorem entryWritten_frame (n : ℕ) (e : CqEntry) (d : Dev) :
    (entryWritten n e d).hostMem = d.hostMem ∧ (entryWritten n e d).pwr.mode = d.pwr.mode ∧ (entryWritten n e d).sec = d.sec ∧ (entryWritten n e d).liveOld = d.liveOld ∧ (entryWritten n e d).objs = d.objs := by
  simp [entryWritten]


@[simp] theorem updCq_frame (q : ℕ) (f : Cq → Cq) (d : Dev) :
    (updCq q f d).hostMem = d.hostMem ∧ (updCq q f d).pwr.mode = d.pwr.mode ∧ (updCq q f d).sec = d.sec ∧ (updCq q f d).liveOld = d.liveOld ∧ (updCq q f d).objs = d.objs := by
  simp [updCq]


@[simp] theorem cqMessage_frame (q : ℕ) (d : Dev) :
    (cqMessage q d).pwr.mode = d.pwr.mode ∧ (cqMessage q d).sec = d.sec ∧ (cqMessage q d).liveOld = d.liveOld ∧ (cqMessage q d).objs = d.objs := by
  simp [cqMessage]


@[simp] theorem writeEntry_frame (q : ℕ) (e : CqEntry) (d : Dev) :
    (writeEntry q e d).pwr.mode = d.pwr.mode ∧ (writeEntry q e d).sec = d.sec ∧ (writeEntry q e d).liveOld = d.liveOld ∧ (writeEntry q e d).objs = d.objs := by
  simp [writeEntry]


/-- A quantity that the parts of posting completions leave alone is left alone by it. -/
theorem postEntries_keeps {α : Type} (p : Dev → α) (f n : ℕ) (d : Dev) (hw : ∀ q e d, p (writeEntry q e d) = p d)
    (hu : ∀ n f d, p (updRing n f d) = p d) (hc : ∀ n f d, p (updCq n f d) = p d) (hr : ∀ n d, p (raise n d) = p d) (he : ∀ n e d, p (entryWritten n e d) = p d) :
    p (postEntries f n d) = p d := by
  induction f generalizing d with
  | zero => rfl
  | succ f ih => unfold postEntries; dsimp only; (repeat' split) <;> simp only [ih, he, hw, hu, hc, hr]

@[simp] theorem postEntries_frame (x0 : ℕ) (x1 : ℕ) (x2 : Dev) :
    (postEntries x0 x1 x2).pwr.mode = x2.pwr.mode ∧ (postEntries x0 x1 x2).sec = x2.sec ∧ (postEntries x0 x1 x2).liveOld = x2.liveOld ∧ (postEntries x0 x1 x2).objs = x2.objs := by
  refine ⟨postEntries_keeps (·.pwr.mode) _ _ _  ?_ ?_ ?_ ?_ ?_, postEntries_keeps (·.sec) _ _ _  ?_ ?_ ?_ ?_ ?_, postEntries_keeps (·.liveOld) _ _ _  ?_ ?_ ?_ ?_ ?_, postEntries_keeps (·.objs) _ _ _  ?_ ?_ ?_ ?_ ?_⟩ <;> intros <;> simp


@[simp] theorem pushEntry_frame (n : ℕ) (e : CqEntry) (d : Dev) :
    (pushEntry n e d).pwr.mode = d.pwr.mode ∧ (pushEntry n e d).sec = d.sec ∧ (pushEntry n e d).liveOld = d.liveOld ∧ (pushEntry n e d).objs = d.objs := by
  simp [pushEntry]


/-- A quantity that the parts of taking a descriptor leave alone is left alone by it. -/
theorem takeDesc_keeps {α : Type} (p : Dev → α) (f n : ℕ) (d : Dev) (hu : ∀ n f d, p (updRing n f d) = p d) (hr : ∀ n d, p (raise n d) = p d)
    (he : ∀ n e d, p (pushEntry n e d) = p d) : p (takeDesc f n d) = p d := by
  induction f generalizing d with
  | zero => rfl
  | succ f ih => unfold takeDesc; dsimp only; (repeat' split) <;> simp only [ih, hu, hr, he]

@[simp] theorem takeDesc_frame (x0 : ℕ) (x1 : ℕ) (x2 : Dev) :
    (takeDesc x0 x1 x2).pwr.mode = x2.pwr.mode ∧ (takeDesc x0 x1 x2).sec = x2.sec ∧ (takeDesc x0 x1 x2).liveOld = x2.liveOld ∧ (takeDesc x0 x1 x2).objs = x2.objs := by
  refine ⟨takeDesc_keeps (·.pwr.mode) _ _ _  ?_ ?_ ?_ , takeDesc_keeps (·.sec) _ _ _  ?_ ?_ ?_ , takeDesc_keeps (·.liveOld) _ _ _  ?_ ?_ ?_ , takeDesc_keeps (·.objs) _ _ _  ?_ ?_ ?_ ⟩ <;> intros <;> simp


@[simp] theorem cqDrain_frame (q : ℕ) (d : Dev) :
    (cqDrain q d).pwr.mode = d.pwr.mode ∧ (cqDrain q d).sec = d.sec ∧ (cqDrain q d).liveOld = d.liveOld ∧ (cqDrain q d).objs = d.objs := by
  simp [cqDrain]


@[simp] theorem cqEnable_frame (q : ℕ) (v : ℕ) (d : Dev) :
    (cqEnable q v d).pwr.mode = d.pwr.mode ∧ (cqEnable q v d).sec = d.sec ∧ (cqEnable q v d).liveOld = d.liveOld ∧ (cqEnable q v d).objs = d.objs := by
  simp [cqEnable]


@[simp] theorem cqHeadWrite_frame (q : ℕ) (v : ℕ) (d : Dev) :
    (cqHeadWrite q v d).pwr.mode = d.pwr.mode ∧ (cqHeadWrite q v d).sec = d.sec ∧ (cqHeadWrite q v d).liveOld = d.liveOld ∧ (cqHeadWrite q v d).objs = d.objs := by
  simp [cqHeadWrite]


@[simp] theorem cqWrite_frame (q : ℕ) (off : ℕ) (v : ℕ) (d : Dev) :
    (cqWrite q off v d).pwr.mode = d.pwr.mode ∧ (cqWrite q off v d).sec = d.sec ∧ (cqWrite q off v d).liveOld = d.liveOld ∧ (cqWrite q off v d).objs = d.objs := by
  unfold cqWrite; (repeat' split) <;> simp_all


@[simp] theorem msixWrite_frame (v : ℕ) (w : ℕ) (x : ℕ) (d : Dev) :
    (msixWrite v w x d).pwr.mode = d.pwr.mode ∧ (msixWrite v w x d).sec = d.sec ∧ (msixWrite v w x d).liveOld = d.liveOld ∧ (msixWrite v w x d).objs = d.objs := by
  simp [msixWrite]


@[simp] theorem ringConfWrite_frame (n : ℕ) (v : ℕ) (d : Dev) :
    (ringConfWrite n v d).hostMem = d.hostMem ∧ (ringConfWrite n v d).pwr.mode = d.pwr.mode ∧ (ringConfWrite n v d).sec = d.sec ∧ (ringConfWrite n v d).liveOld = d.liveOld ∧ (ringConfWrite n v d).objs = d.objs := by
  unfold ringConfWrite; simp only []; (repeat' split) <;> simp_all


@[simp] theorem completeDesc_frame (n : ℕ) (status : ℕ) (d : Dev) :
    (completeDesc n status d).pwr.mode = d.pwr.mode ∧ (completeDesc n status d).sec = d.sec ∧ (completeDesc n status d).liveOld = d.liveOld ∧ (completeDesc n status d).objs = d.objs := by
  unfold completeDesc; (repeat' split) <;> simp_all


@[simp] theorem endResend_frame (n : ℕ) (d : Dev) :
    (endResend n d).pwr.mode = d.pwr.mode ∧ (endResend n d).sec = d.sec ∧ (endResend n d).liveOld = d.liveOld ∧ (endResend n d).objs = d.objs := by
  unfold endResend; (repeat' split) <;> simp_all


@[simp] theorem groupStop_frame (q : ℕ) (d : Dev) :
    (groupStop q d).pwr.mode = d.pwr.mode ∧ (groupStop q d).sec = d.sec ∧ (groupStop q d).liveOld = d.liveOld ∧ (groupStop q d).objs = d.objs := by
  simp [groupStop]


@[simp] theorem groupStart_frame (q : ℕ) (d : Dev) :
    (groupStart q d).hostMem = d.hostMem ∧ (groupStart q d).pwr.mode = d.pwr.mode ∧ (groupStart q d).sec = d.sec ∧ (groupStart q d).liveOld = d.liveOld ∧ (groupStart q d).objs = d.objs := by
  simp [groupStart]


@[simp] theorem refreshRings_frame (d : Dev) :
    (refreshRings d).hostMem = d.hostMem ∧ (refreshRings d).pwr.mode = d.pwr.mode ∧ (refreshRings d).sec = d.sec ∧ (refreshRings d).liveOld = d.liveOld ∧ (refreshRings d).objs = d.objs := by
  simp [refreshRings]


@[simp] theorem groupsStart_frame (d : Dev) :
    (groupsStart d).hostMem = d.hostMem ∧ (groupsStart d).pwr.mode = d.pwr.mode ∧ (groupsStart d).sec = d.sec ∧ (groupsStart d).liveOld = d.liveOld ∧ (groupsStart d).objs = d.objs := by
  simp [groupsStart]


@[simp] theorem ringEnable_frame (n : ℕ) (v : ℕ) (d : Dev) :
    (ringEnable n v d).pwr.mode = d.pwr.mode ∧ (ringEnable n v d).sec = d.sec ∧ (ringEnable n v d).liveOld = d.liveOld ∧ (ringEnable n v d).objs = d.objs := by
  simp [ringEnable]


@[simp] theorem ringProdWrite_frame (n : ℕ) (v : ℕ) (d : Dev) :
    (ringProdWrite n v d).hostMem = d.hostMem ∧ (ringProdWrite n v d).pwr.mode = d.pwr.mode ∧ (ringProdWrite n v d).sec = d.sec ∧ (ringProdWrite n v d).liveOld = d.liveOld ∧ (ringProdWrite n v d).objs = d.objs := by
  simp [ringProdWrite]


@[simp] theorem ringResendRequest_frame (n : ℕ) (cnt : ℕ) (d : Dev) :
    (ringResendRequest n cnt d).pwr.mode = d.pwr.mode ∧ (ringResendRequest n cnt d).sec = d.sec ∧ (ringResendRequest n cnt d).liveOld = d.liveOld ∧ (ringResendRequest n cnt d).objs = d.objs := by
  simp [ringResendRequest]


@[simp] theorem ringWrite_frame (n : ℕ) (off : ℕ) (v : ℕ) (d : Dev) :
    (ringWrite n off v d).pwr.mode = d.pwr.mode ∧ (ringWrite n off v d).sec = d.sec ∧ (ringWrite n off v d).liveOld = d.liveOld ∧ (ringWrite n off v d).objs = d.objs := by
  unfold ringWrite; (repeat' split) <;> simp_all


/-- A quantity that the parts of placing a record leave alone is left alone by it. -/
theorem placeRecord_keeps {α : Type} (p : Dev → α) (f n k fl : ℕ) (err : Bool) (ws : List Word) (d : Dev) (hr : ∀ n d, p (raise n d) = p d)
    (hu : ∀ n f d, p (updRing n f d) = p d) (hw : ∀ a ws d, p (writeWords a ws d) = p d) (hc : ∀ n s d, p (completeDesc n s d) = p d) :
    p (placeRecord f n k fl err ws d).2 = p d := by
  induction f generalizing d with
  | zero => rfl
  | succ f ih => unfold placeRecord; dsimp only; (repeat' split) <;> simp only [ih, hw, hu, hc, hr]

@[simp] theorem placeRecord_frame (x0 : ℕ) (x1 : ℕ) (x2 : ℕ) (x3 : ℕ) (x4 : Bool) (x5 : List Word) (x6 : Dev) :
    (placeRecord x0 x1 x2 x3 x4 x5 x6).2.pwr.mode = x6.pwr.mode ∧ (placeRecord x0 x1 x2 x3 x4 x5 x6).2.sec = x6.sec ∧ (placeRecord x0 x1 x2 x3 x4 x5 x6).2.liveOld = x6.liveOld ∧ (placeRecord x0 x1 x2 x3 x4 x5 x6).2.objs = x6.objs := by
  refine ⟨placeRecord_keeps (·.pwr.mode) _ _ _ _ _ _ _  ?_ ?_ ?_ ?_ , placeRecord_keeps (·.sec) _ _ _ _ _ _ _  ?_ ?_ ?_ ?_ , placeRecord_keeps (·.liveOld) _ _ _ _ _ _ _  ?_ ?_ ?_ ?_ , placeRecord_keeps (·.objs) _ _ _ _ _ _ _  ?_ ?_ ?_ ?_ ⟩ <;> intros <;> simp


/-- A quantity that the parts of a record's delivery leave alone is left alone by it. -/
theorem deliverTo_keeps {α : Type} (p : Dev → α) (n s k : ℕ) (words : List (List Word)) (resent : Bool) (ue : List ℕ) (d : Dev)
    (hp : ∀ f n k fl e ws d, p (placeRecord f n k fl e ws d).2 = p d) (hh : ∀ f d, p (Dev.uHs f d) = p d)
    (hr : ∀ n d, p (raise n d) = p d) : p (deliverTo n s k words resent ue d).2 = p d := by
  unfold deliverTo
  extract_lets ws bad
  split
  rename_i ok d1 h
  have h1 : p d1 = p d := by rw [← hp 18 n k (at' ws 8 0).toNat bad ws d, h]
  clear h
  clear_value bad
  dsimp only
  (repeat' split) <;> simp only [hh, hr, h1]

@[simp] theorem deliverTo_frame (n : ℕ) (s : ℕ) (k : ℕ) (words : List (List Word)) (resent : Bool) (ue : List ℕ) (d : Dev) :
    (deliverTo n s k words resent ue d).2.pwr.mode = d.pwr.mode ∧ (deliverTo n s k words resent ue d).2.sec = d.sec ∧ (deliverTo n s k words resent ue d).2.liveOld = d.liveOld ∧ (deliverTo n s k words resent ue d).2.objs = d.objs := by
  refine ⟨deliverTo_keeps (·.pwr.mode) _ _ _ _ _ _ _ ?_ ?_ ?_, deliverTo_keeps (·.sec) _ _ _ _ _ _ _ ?_ ?_ ?_, deliverTo_keeps (·.liveOld) _ _ _ _ _ _ _ ?_ ?_ ?_, deliverTo_keeps (·.objs) _ _ _ _ _ _ _ ?_ ?_ ?_⟩ <;> intros <;> simp


@[simp] theorem sendWaitingMsgs_frame (d : Dev) :
    (sendWaitingMsgs d).pwr.mode = d.pwr.mode ∧ (sendWaitingMsgs d).sec = d.sec ∧ (sendWaitingMsgs d).liveOld = d.liveOld ∧ (sendWaitingMsgs d).objs = d.objs := by
  simp [sendWaitingMsgs]


@[simp] theorem funcPowerChange_frame (st : FuncPower) (c : FuncCfg) (d : Dev) :
    (funcPowerChange st c d).pwr.mode = d.pwr.mode ∧ (funcPowerChange st c d).sec = d.sec ∧ (funcPowerChange st c d).liveOld = d.liveOld ∧ (funcPowerChange st c d).objs = d.objs := by
  simp [funcPowerChange]


-- SHAPE headRecord Option (DirEntry × List (List Word) × Dev)

@[simp] theorem linkState_frame (st : LinkPower) (speed : ℕ) (width : ℕ) (mps : ℕ) (d : Dev) :
    (linkState st speed width mps d).pwr.mode = d.pwr.mode ∧ (linkState st speed width mps d).sec = d.sec ∧ (linkState st speed width mps d).liveOld = d.liveOld ∧ (linkState st speed width mps d).objs = d.objs := by
  simp [linkState]


@[simp] theorem moderationTimer_frame (q : ℕ) (d : Dev) :
    (moderationTimer q d).pwr.mode = d.pwr.mode ∧ (moderationTimer q d).sec = d.sec ∧ (moderationTimer q d).liveOld = d.liveOld ∧ (moderationTimer q d).objs = d.objs := by
  simp [moderationTimer]


@[simp] theorem pcieAerError_frame (ue : Bool) (d : Dev) :
    (pcieAerError ue d).hostMem = d.hostMem ∧ (pcieAerError ue d).pwr.mode = d.pwr.mode ∧ (pcieAerError ue d).sec = d.sec ∧ (pcieAerError ue d).liveOld = d.liveOld ∧ (pcieAerError ue d).objs = d.objs := by
  simp [pcieAerError]


/-- What Reel finds as it reads a record leaves alone a quantity that an uncorrectable word does. -/
theorem readRecord_keeps {α : Type} (p : Dev → α) (s : ℕ) (r : Record) (ue : List ℕ) (d : Dev) (hq : ∀ s r i d, p (reelReadUe s r i d) = p d) :
    p (readRecord s r ue d).2 = p d := each_keeps p _ (fun _ d => hq _ _ _ d) _ _

/-- A quantity that the parts of a re-send leave alone is left alone by it. -/
theorem resendStep_keeps {α : Type} (p : Dev → α) (n s : ℕ) (r : Resend) (ue : List ℕ) (d : Dev)
    (hd : ∀ n s k w b ue d, p (deliverTo n s k w b ue d).2 = p d) (hu : ∀ n f d, p (updRing n f d) = p d) (he : ∀ n d, p (endResend n d) = p d)
    (hq : ∀ s r i d, p (reelReadUe s r i d) = p d) : p (resendStep n s r ue d) = p d := by
  unfold resendStep
  extract_lets left has lost
  clear_value has
  split
  · simp only [he, hu]
  · rename_i k _ _
    split
    · rfl
    · rename_i r' _
      split
      rename_i ws dr h
      have hr : p dr = p d := by rw [← readRecord_keeps p s r' ue d hq, h]
      clear h
      split
      rename_i ok d1 h
      have h1 : p d1 = p d := by rw [← hr, ← hd n s k ws true (ueOf ws.length ue) dr, h]
      clear h
      split
      · extract_lets r2 d2
        have h2 : p d2 = p d := by simp only [d2, hu, h1]
        split <;> simp only [he, h2]
      · exact hd _ _ _ _ _ _ _

@[simp] theorem resendStep_frame (n : ℕ) (s : ℕ) (r : Resend) (ue : List ℕ) (d : Dev) :
    (resendStep n s r ue d).sec = d.sec ∧ (resendStep n s r ue d).liveOld = d.liveOld := by
  refine ⟨resendStep_keeps (·.sec) _ _ _ _ _ ?_ ?_ ?_ ?_, resendStep_keeps (·.liveOld) _ _ _ _ _ ?_ ?_ ?_ ?_⟩ <;> intros <;> simp


/-- A quantity that the parts of taking the record at the head of a queue leave alone is left alone by it. -/
theorem headRecord_keeps {α : Type} (p : Dev → α) (q : ℕ) (d : Dev) (he : ∀ q d, p (evalQueue q d) = p d) (hr : ∀ q d, p (refill q d) = p d)
    (hg : ∀ q f d, p (updGroup q f d) = p d) (hu : ∀ q f d, p (updQueue q f d) = p d) (e : DirEntry) (ws : List (List Word)) (d' : Dev)
    (h : headRecord q d = some (e, ws, d')) : p d' = p d := by
  unfold headRecord at h
  dsimp only at h
  split at h
  · cases h
  · cases h
    simp only [he, hr, hg, hu]

/-- A quantity that the parts of RING_DELIVER_RECORD leave alone is left alone by it. -/
theorem ringDeliver_keeps {α : Type} (p : Dev → α) (q : ℕ) (ue : List ℕ) (d : Dev)
    (hd : ∀ n s k w b ue d, p (deliverTo n s k w b ue d).2 = p d) (hs : ∀ n s r ue d, p (resendStep n s r ue d) = p d)
    (hh : ∀ q d e ws d', headRecord q d = some (e, ws, d') → p d' = p d) : p (ringDeliver q ue d) = p d := by
  unfold ringDeliver
  split
  · rfl
  · rename_i s _
    split
    · split
      · exact hs _ _ _ _ _
      · split
        · rfl
        · rename_i e words d' h
          have h1 := hh _ _ _ _ _ h
          split
          · rfl
          · rename_i n _
            extract_lets resent
            split
            rename_i ok d'' h
            have h2 : p d'' = p d := by rw [← h1, ← hd n s e.k words resent e.ue d', h]
            split
            · exact h2
            · exact hd _ _ _ _ _ _ _
    · rfl

@[simp] theorem ringDeliver_frame (q : ℕ) (ue : List ℕ) (d : Dev) :
    (ringDeliver q ue d).sec = d.sec ∧ (ringDeliver q ue d).liveOld = d.liveOld := by
  refine ⟨ringDeliver_keeps (·.sec) _ _ _ ?_ ?_ (headRecord_keeps (·.sec) · · ?_ ?_ ?_ ?_), ringDeliver_keeps (·.liveOld) _ _ _ ?_ ?_ (headRecord_keeps (·.liveOld) · · ?_ ?_ ?_ ?_)⟩ <;> intros <;> simp


@[simp] theorem ringDescFetch_frame (n : ℕ) (ws : List Word) (d : Dev) :
    (ringDescFetch n ws d).pwr.mode = d.pwr.mode ∧ (ringDescFetch n ws d).sec = d.sec ∧ (ringDescFetch n ws d).liveOld = d.liveOld ∧ (ringDescFetch n ws d).objs = d.objs := by
  simp [ringDescFetch]


@[simp] theorem ringIdleFlush_frame (n : ℕ) (d : Dev) :
    (ringIdleFlush n d).pwr.mode = d.pwr.mode ∧ (ringIdleFlush n d).sec = d.sec ∧ (ringIdleFlush n d).liveOld = d.liveOld ∧ (ringIdleFlush n d).objs = d.objs := by
  unfold ringIdleFlush; simp only []; (repeat' split) <;> simp_all


end Sys2Proof.Laws
end

