-- ==== Sys2Proof/Laws/FrameTaproot.lean ====
section
/-! SUPPORT. What the operations of Sys2Proof/Machine/Taproot.lean leave alone of host memory (hostMem), the mode (pwr.mode), the security block (sec)
and the objects (objs, liveOld): one lemma per operation, saying of each that it changes none of those it names. -/

namespace Sys2Proof.Laws

open Sys2Proof.Machine

@[simp] theorem tapFire_frame (i : ℕ) (d : Dev) :
    (tapFire i d).hostMem = d.hostMem ∧ (tapFire i d).pwr.mode = d.pwr.mode ∧ (tapFire i d).sec = d.sec ∧ (tapFire i d).liveOld = d.liveOld ∧ (tapFire i d).objs = d.objs := by
  simp [tapFire]


@[simp] theorem taprootInput_frame (i : ℕ) (v : Bool) (d : Dev) :
    (taprootInput i v d).hostMem = d.hostMem ∧ (taprootInput i v d).pwr.mode = d.pwr.mode ∧ (taprootInput i v d).sec = d.sec ∧ (taprootInput i v d).liveOld = d.liveOld ∧ (taprootInput i v d).objs = d.objs := by
  simp [taprootInput]


@[simp] theorem tapWrite_frame (off : ℕ) (v : ℕ) (d : Dev) :
    (tapWrite off v d).hostMem = d.hostMem ∧ (tapWrite off v d).pwr.mode = d.pwr.mode ∧ (tapWrite off v d).sec = d.sec ∧ (tapWrite off v d).liveOld = d.liveOld ∧ (tapWrite off v d).objs = d.objs := by
  simp [tapWrite]


@[simp] theorem tapPulse_frame (i : ℕ) (d : Dev) :
    (tapPulse i d).hostMem = d.hostMem ∧ (tapPulse i d).pwr.mode = d.pwr.mode ∧ (tapPulse i d).sec = d.sec ∧ (tapPulse i d).liveOld = d.liveOld ∧ (tapPulse i d).objs = d.objs := by
  simp [tapPulse]


@[simp] theorem icLevelDeassert_frame (n : ℕ) (d : Dev) :
    (icLevelDeassert n d).hostMem = d.hostMem ∧ (icLevelDeassert n d).pwr.mode = d.pwr.mode ∧ (icLevelDeassert n d).sec = d.sec ∧ (icLevelDeassert n d).liveOld = d.liveOld ∧ (icLevelDeassert n d).objs = d.objs := by
  simp [icLevelDeassert]


@[simp] theorem tapArm_frame (d : Dev) :
    (tapArm d).hostMem = d.hostMem ∧ (tapArm d).pwr.mode = d.pwr.mode ∧ (tapArm d).sec = d.sec ∧ (tapArm d).liveOld = d.liveOld ∧ (tapArm d).objs = d.objs := by
  simp [tapArm]


@[simp] theorem tapEventClear_frame (mask : ℕ) (d : Dev) :
    (tapEventClear mask d).hostMem = d.hostMem ∧ (tapEventClear mask d).pwr.mode = d.pwr.mode ∧ (tapEventClear mask d).sec = d.sec ∧ (tapEventClear mask d).liveOld = d.liveOld ∧ (tapEventClear mask d).objs = d.objs := by
  simp [tapEventClear]


@[simp] theorem tapTimerExpiry_frame (d : Dev) :
    (tapTimerExpiry d).hostMem = d.hostMem ∧ (tapTimerExpiry d).pwr.mode = d.pwr.mode ∧ (tapTimerExpiry d).sec = d.sec ∧ (tapTimerExpiry d).liveOld = d.liveOld ∧ (tapTimerExpiry d).objs = d.objs := by
  simp [tapTimerExpiry]


end Sys2Proof.Laws
end

