-- ==== Sys2Proof/Laws/FrameMailboxes.lean ====
section
/-! SUPPORT. What the operations of Sys2Proof/Machine/Mailboxes.lean leave alone of host memory (hostMem), the mode (pwr.mode), the security block (sec)
and the objects (objs, liveOld): one lemma per operation, saying of each that it changes none of those it names. -/

namespace Sys2Proof.Laws

open Sys2Proof.Machine

@[simp] theorem ackRaise_frame (m : ℕ) (d : Dev) :
    (ackRaise m d).hostMem = d.hostMem ∧ (ackRaise m d).pwr.mode = d.pwr.mode ∧ (ackRaise m d).sec = d.sec ∧ (ackRaise m d).liveOld = d.liveOld ∧ (ackRaise m d).objs = d.objs := by
  simp [ackRaise]


@[simp] theorem noteSet_frame (key : ℕ) (was : Bool) (d : Dev) :
    (noteSet key was d).hostMem = d.hostMem ∧ (noteSet key was d).pwr.mode = d.pwr.mode ∧ (noteSet key was d).sec = d.sec ∧ (noteSet key was d).liveOld = d.liveOld ∧ (noteSet key was d).objs = d.objs := by
  simp [noteSet]


@[simp] theorem arrivedBit_frame (m : ℕ) (d : Dev) :
    (arrivedBit m d).pwr.mode = d.pwr.mode ∧ (arrivedBit m d).sec = d.sec ∧ (arrivedBit m d).liveOld = d.liveOld ∧ (arrivedBit m d).objs = d.objs := by
  simp [arrivedBit]


@[simp] theorem updH2d_frame (m : ℕ) (f : Mbox → Mbox) (d : Dev) :
    (updH2d m f d).hostMem = d.hostMem ∧ (updH2d m f d).pwr.mode = d.pwr.mode ∧ (updH2d m f d).sec = d.sec ∧ (updH2d m f d).liveOld = d.liveOld ∧ (updH2d m f d).objs = d.objs := by
  simp [updH2d]


@[simp] theorem hostWrite_hostMem (f : Dev → Dev) (d : Dev) (h0 : ∀ d, (f  d).hostMem = d.hostMem) : (hostWrite f d).hostMem = d.hostMem := by
  unfold hostWrite; (repeat' split) <;> simp_all

@[simp] theorem hostWrite_mode (f : Dev → Dev) (d : Dev) (h0 : ∀ d, (f  d).pwr.mode = d.pwr.mode) : (hostWrite f d).pwr.mode = d.pwr.mode := by
  unfold hostWrite; (repeat' split) <;> simp_all

@[simp] theorem hostWrite_sec (f : Dev → Dev) (d : Dev) (h0 : ∀ d, (f  d).sec = d.sec) : (hostWrite f d).sec = d.sec := by
  unfold hostWrite; (repeat' split) <;> simp_all

@[simp] theorem hostWrite_liveOld (f : Dev → Dev) (d : Dev) (h0 : ∀ d, (f  d).liveOld = d.liveOld) : (hostWrite f d).liveOld = d.liveOld := by
  unfold hostWrite; (repeat' split) <;> simp_all

@[simp] theorem hostWrite_objs (f : Dev → Dev) (d : Dev) (h0 : ∀ d, (f  d).objs = d.objs) : (hostWrite f d).objs = d.objs := by
  unfold hostWrite; (repeat' split) <;> simp_all


@[simp] theorem mbxLevels_frame (d : Dev) :
    (mbxLevels d).hostMem = d.hostMem ∧ (mbxLevels d).pwr.mode = d.pwr.mode ∧ (mbxLevels d).sec = d.sec ∧ (mbxLevels d).liveOld = d.liveOld ∧ (mbxLevels d).objs = d.objs := by
  simp [mbxLevels]


@[simp] theorem updD2h_frame (m : ℕ) (f : Mbox → Mbox) (d : Dev) :
    (updD2h m f d).hostMem = d.hostMem ∧ (updD2h m f d).pwr.mode = d.pwr.mode ∧ (updD2h m f d).sec = d.sec ∧ (updD2h m f d).liveOld = d.liveOld ∧ (updD2h m f d).objs = d.objs := by
  simp [updD2h]


@[simp] theorem untimeD2h_frame (m : ℕ) (d : Dev) :
    (untimeD2h m d).hostMem = d.hostMem ∧ (untimeD2h m d).pwr.mode = d.pwr.mode ∧ (untimeD2h m d).sec = d.sec ∧ (untimeD2h m d).liveOld = d.liveOld ∧ (untimeD2h m d).objs = d.objs := by
  unfold untimeD2h; (repeat' split) <;> simp_all


@[simp] theorem d2hDone_frame (m : ℕ) (d : Dev) :
    (d2hDone m d).hostMem = d.hostMem ∧ (d2hDone m d).pwr.mode = d.pwr.mode ∧ (d2hDone m d).sec = d.sec ∧ (d2hDone m d).liveOld = d.liveOld ∧ (d2hDone m d).objs = d.objs := by
  simp [d2hDone]


@[simp] theorem emptiedBit_frame (m : ℕ) (d : Dev) :
    (emptiedBit m d).pwr.mode = d.pwr.mode ∧ (emptiedBit m d).sec = d.sec ∧ (emptiedBit m d).liveOld = d.liveOld ∧ (emptiedBit m d).objs = d.objs := by
  simp [emptiedBit]


@[simp] theorem discardH2d_frame (m : ℕ) (d : Dev) :
    (discardH2d m d).pwr.mode = d.pwr.mode ∧ (discardH2d m d).sec = d.sec ∧ (discardH2d m d).liveOld = d.liveOld ∧ (discardH2d m d).objs = d.objs := by
  simp [discardH2d]


@[simp] theorem overrunCount_frame (d : Dev) :
    (overrunCount d).hostMem = d.hostMem ∧ (overrunCount d).pwr.mode = d.pwr.mode ∧ (overrunCount d).sec = d.sec ∧ (overrunCount d).liveOld = d.liveOld ∧ (overrunCount d).objs = d.objs := by
  simp [overrunCount]


@[simp] theorem h2dOverrun_frame (m : ℕ) (d : Dev) :
    (h2dOverrun m d).hostMem = d.hostMem ∧ (h2dOverrun m d).pwr.mode = d.pwr.mode ∧ (h2dOverrun m d).sec = d.sec ∧ (h2dOverrun m d).liveOld = d.liveOld ∧ (h2dOverrun m d).objs = d.objs := by
  simp [h2dOverrun]


@[simp] theorem h2dGo_frame (m : ℕ) (d : Dev) :
    (h2dGo m d).pwr.mode = d.pwr.mode ∧ (h2dGo m d).sec = d.sec ∧ (h2dGo m d).liveOld = d.liveOld ∧ (h2dGo m d).objs = d.objs := by
  simp [h2dGo]


@[simp] theorem h2dWord_frame (m : ℕ) (i : ℕ) (v : ℕ) (d : Dev) :
    (h2dWord m i v d).hostMem = d.hostMem ∧ (h2dWord m i v d).pwr.mode = d.pwr.mode ∧ (h2dWord m i v d).sec = d.sec ∧ (h2dWord m i v d).liveOld = d.liveOld ∧ (h2dWord m i v d).objs = d.objs := by
  simp [h2dWord]


@[simp] theorem hostDbWrite_frame (v : ℕ) (d : Dev) :
    (hostDbWrite v d).hostMem = d.hostMem ∧ (hostDbWrite v d).pwr.mode = d.pwr.mode ∧ (hostDbWrite v d).sec = d.sec ∧ (hostDbWrite v d).liveOld = d.liveOld ∧ (hostDbWrite v d).objs = d.objs := by
  simp [hostDbWrite]


@[simp] theorem mbxEventClear_frame (v : ℕ) (d : Dev) :
    (mbxEventClear v d).hostMem = d.hostMem ∧ (mbxEventClear v d).pwr.mode = d.pwr.mode ∧ (mbxEventClear v d).sec = d.sec ∧ (mbxEventClear v d).liveOld = d.liveOld ∧ (mbxEventClear v d).objs = d.objs := by
  simp [mbxEventClear]


@[simp] theorem mbxStatusWrite_frame (off : ℕ) (v : ℕ) (d : Dev) :
    (mbxStatusWrite off v d).hostMem = d.hostMem ∧ (mbxStatusWrite off v d).pwr.mode = d.pwr.mode ∧ (mbxStatusWrite off v d).sec = d.sec ∧ (mbxStatusWrite off v d).liveOld = d.liveOld ∧ (mbxStatusWrite off v d).objs = d.objs := by
  unfold mbxStatusWrite; (repeat' split) <;> simp_all


@[simp] theorem updMbi_frame (i : ℕ) (f : Mbox → Mbox) (d : Dev) :
    (updMbi i f d).hostMem = d.hostMem ∧ (updMbi i f d).pwr.mode = d.pwr.mode ∧ (updMbi i f d).sec = d.sec ∧ (updMbi i f d).liveOld = d.liveOld ∧ (updMbi i f d).objs = d.objs := by
  simp [updMbi]


@[simp] theorem mbiArrive_frame (t : ℕ) (i : ℕ) (d : Dev) :
    (mbiArrive t i d).hostMem = d.hostMem ∧ (mbiArrive t i d).pwr.mode = d.pwr.mode ∧ (mbiArrive t i d).sec = d.sec ∧ (mbiArrive t i d).liveOld = d.liveOld ∧ (mbiArrive t i d).objs = d.objs := by
  simp [mbiArrive]


@[simp] theorem unlostH2d_frame (m : ℕ) (d : Dev) :
    (unlostH2d m d).hostMem = d.hostMem ∧ (unlostH2d m d).pwr.mode = d.pwr.mode ∧ (unlostH2d m d).sec = d.sec ∧ (unlostH2d m d).liveOld = d.liveOld ∧ (unlostH2d m d).objs = d.objs := by
  simp [unlostH2d]


@[simp] theorem unlostMbi_frame (i : ℕ) (d : Dev) :
    (unlostMbi i d).hostMem = d.hostMem ∧ (unlostMbi i d).pwr.mode = d.pwr.mode ∧ (unlostMbi i d).sec = d.sec ∧ (unlostMbi i d).liveOld = d.liveOld ∧ (unlostMbi i d).objs = d.objs := by
  simp [unlostMbi]


@[simp] theorem moveRoute_frame (mbox : ℕ) (endpoint : ℕ) (side : Bool) (d : Dev) :
    (moveRoute mbox endpoint side d).hostMem = d.hostMem ∧ (moveRoute mbox endpoint side d).pwr.mode = d.pwr.mode ∧ (moveRoute mbox endpoint side d).sec = d.sec ∧ (moveRoute mbox endpoint side d).liveOld = d.liveOld ∧ (moveRoute mbox endpoint side d).objs = d.objs := by
  simp [moveRoute]


@[simp] theorem returnMailboxes_frame (c : ℕ) (d : Dev) :
    (returnMailboxes c d).hostMem = d.hostMem ∧ (returnMailboxes c d).pwr.mode = d.pwr.mode ∧ (returnMailboxes c d).sec = d.sec ∧ (returnMailboxes c d).liveOld = d.liveOld ∧ (returnMailboxes c d).objs = d.objs := by
  simp [returnMailboxes]


@[simp] theorem discardD2h_frame (m : ℕ) (d : Dev) :
    (discardD2h m d).hostMem = d.hostMem ∧ (discardD2h m d).pwr.mode = d.pwr.mode ∧ (discardD2h m d).sec = d.sec ∧ (discardD2h m d).liveOld = d.liveOld ∧ (discardD2h m d).objs = d.objs := by
  simp [discardD2h]


@[simp] theorem mbiEmpty_frame (t : ℕ) (i : ℕ) (d : Dev) :
    (mbiEmpty t i d).hostMem = d.hostMem ∧ (mbiEmpty t i d).pwr.mode = d.pwr.mode ∧ (mbiEmpty t i d).sec = d.sec ∧ (mbiEmpty t i d).liveOld = d.liveOld ∧ (mbiEmpty t i d).objs = d.objs := by
  simp [mbiEmpty]


@[simp] theorem discardMbi_frame (i : ℕ) (d : Dev) :
    (discardMbi i d).hostMem = d.hostMem ∧ (discardMbi i d).pwr.mode = d.pwr.mode ∧ (discardMbi i d).sec = d.sec ∧ (discardMbi i d).liveOld = d.liveOld ∧ (discardMbi i d).objs = d.objs := by
  simp [discardMbi]


@[simp] theorem discardTo_frame (e : ℕ) (d : Dev) :
    (discardTo e d).pwr.mode = d.pwr.mode ∧ (discardTo e d).sec = d.sec ∧ (discardTo e d).liveOld = d.liveOld ∧ (discardTo e d).objs = d.objs := by
  simp [discardTo]


@[simp] theorem noteReset_frame (e : ℕ) (d : Dev) :
    (noteReset e d).hostMem = d.hostMem ∧ (noteReset e d).pwr.mode = d.pwr.mode ∧ (noteReset e d).sec = d.sec ∧ (noteReset e d).liveOld = d.liveOld ∧ (noteReset e d).objs = d.objs := by
  simp [noteReset]


@[simp] theorem untimeMbi_frame (i : ℕ) (d : Dev) :
    (untimeMbi i d).hostMem = d.hostMem ∧ (untimeMbi i d).pwr.mode = d.pwr.mode ∧ (untimeMbi i d).sec = d.sec ∧ (untimeMbi i d).liveOld = d.liveOld ∧ (untimeMbi i d).objs = d.objs := by
  unfold untimeMbi; simp only []; (repeat' split) <;> simp_all


@[simp] theorem mbiDone_frame (i : ℕ) (t : ℕ) (d : Dev) :
    (mbiDone i t d).hostMem = d.hostMem ∧ (mbiDone i t d).pwr.mode = d.pwr.mode ∧ (mbiDone i t d).sec = d.sec ∧ (mbiDone i t d).liveOld = d.liveOld ∧ (mbiDone i t d).objs = d.objs := by
  simp [mbiDone]


@[simp] theorem mbiEventClear_frame (t : ℕ) (emptied : Bool) (v : ℕ) (d : Dev) :
    (mbiEventClear t emptied v d).hostMem = d.hostMem ∧ (mbiEventClear t emptied v d).pwr.mode = d.pwr.mode ∧ (mbiEventClear t emptied v d).sec = d.sec ∧ (mbiEventClear t emptied v d).liveOld = d.liveOld ∧ (mbiEventClear t emptied v d).objs = d.objs := by
  simp [mbiEventClear]


@[simp] theorem mbiGo_frame (i : ℕ) (t : ℕ) (d : Dev) :
    (mbiGo i t d).hostMem = d.hostMem ∧ (mbiGo i t d).pwr.mode = d.pwr.mode ∧ (mbiGo i t d).sec = d.sec ∧ (mbiGo i t d).liveOld = d.liveOld ∧ (mbiGo i t d).objs = d.objs := by
  simp [mbiGo]


@[simp] theorem mbiWrite_frame (i : ℕ) (off : ℕ) (v : ℕ) (t : ℕ) (d : Dev) :
    (mbiWrite i off v t d).hostMem = d.hostMem ∧ (mbiWrite i off v t d).pwr.mode = d.pwr.mode ∧ (mbiWrite i off v t d).sec = d.sec ∧ (mbiWrite i off v t d).liveOld = d.liveOld ∧ (mbiWrite i off v t d).objs = d.objs := by
  simp [mbiWrite]


@[simp] theorem mbxRouteWrite_frame (t : ℕ) (v : ℕ) (d : Dev) :
    (mbxRouteWrite t v d).hostMem = d.hostMem ∧ (mbxRouteWrite t v d).pwr.mode = d.pwr.mode ∧ (mbxRouteWrite t v d).sec = d.sec ∧ (mbxRouteWrite t v d).liveOld = d.liveOld ∧ (mbxRouteWrite t v d).objs = d.objs := by
  simp [mbxRouteWrite]


@[simp] theorem moveMailboxes_frame (c : ℕ) (sib : ℕ) (d : Dev) :
    (moveMailboxes c sib d).hostMem = d.hostMem ∧ (moveMailboxes c sib d).pwr.mode = d.pwr.mode ∧ (moveMailboxes c sib d).sec = d.sec ∧ (moveMailboxes c sib d).liveOld = d.liveOld ∧ (moveMailboxes c sib d).objs = d.objs := by
  simp [moveMailboxes]


@[simp] theorem d2hPost_frame (m : ℕ) (ws : List Word) (se : Option ℕ) (d : Dev) :
    (d2hPost m ws se d).pwr.mode = d.pwr.mode ∧ (d2hPost m ws se d).sec = d.sec ∧ (d2hPost m ws se d).liveOld = d.liveOld ∧ (d2hPost m ws se d).objs = d.objs := by
  simp [d2hPost]


@[simp] theorem d2hGo_frame (m : ℕ) (d : Dev) :
    (d2hGo m d).pwr.mode = d.pwr.mode ∧ (d2hGo m d).sec = d.sec ∧ (d2hGo m d).liveOld = d.liveOld ∧ (d2hGo m d).objs = d.objs := by
  unfold d2hGo; (repeat' split) <;> simp_all


@[simp] theorem d2hTimeout_frame (m : ℕ) (d : Dev) :
    (d2hTimeout m d).hostMem = d.hostMem ∧ (d2hTimeout m d).pwr.mode = d.pwr.mode ∧ (d2hTimeout m d).sec = d.sec ∧ (d2hTimeout m d).liveOld = d.liveOld ∧ (d2hTimeout m d).objs = d.objs := by
  simp [d2hTimeout]


@[simp] theorem h2dDone_frame (m : ℕ) (d : Dev) :
    (h2dDone m d).pwr.mode = d.pwr.mode ∧ (h2dDone m d).sec = d.sec ∧ (h2dDone m d).liveOld = d.liveOld ∧ (h2dDone m d).objs = d.objs := by
  simp [h2dDone]


@[simp] theorem mbiTimeout_frame (i : ℕ) (d : Dev) :
    (mbiTimeout i d).hostMem = d.hostMem ∧ (mbiTimeout i d).pwr.mode = d.pwr.mode ∧ (mbiTimeout i d).sec = d.sec ∧ (mbiTimeout i d).liveOld = d.liveOld ∧ (mbiTimeout i d).objs = d.objs := by
  simp [mbiTimeout]


@[simp] theorem tapInput_frame (i : ℕ) (v : Bool) (d : Dev) :
    (tapInput i v d).hostMem = d.hostMem ∧ (tapInput i v d).pwr.mode = d.pwr.mode ∧ (tapInput i v d).sec = d.sec ∧ (tapInput i v d).liveOld = d.liveOld ∧ (tapInput i v d).objs = d.objs := by
  simp [tapInput]


end Sys2Proof.Laws
end

