-- ==== Sys2Proof/Laws/FrameAnalog.lean ====
section
/-! SUPPORT. What the operations of Sys2Proof/Machine/Analog.lean leave alone of host memory (hostMem), the mode (pwr.mode), the security block (sec)
and the objects (objs, liveOld): one lemma per operation, saying of each that it changes none of those it names. -/

namespace Sys2Proof.Laws

open Sys2Proof.Machine

@[simp] theorem injectEvent_frame (c : ℕ) (t : ℕ) (d : Dev) :
    (injectEvent c t d).hostMem = d.hostMem ∧ (injectEvent c t d).pwr.mode = d.pwr.mode ∧ (injectEvent c t d).sec = d.sec ∧ (injectEvent c t d).liveOld = d.liveOld ∧ (injectEvent c t d).objs = d.objs := by
  simp [injectEvent]


@[simp] theorem forgetLine_frame (k : ℕ) (d : Dev) :
    (forgetLine k d).hostMem = d.hostMem ∧ (forgetLine k d).pwr.mode = d.pwr.mode ∧ (forgetLine k d).sec = d.sec ∧ (forgetLine k d).liveOld = d.liveOld ∧ (forgetLine k d).objs = d.objs := by
  simp [forgetLine]


@[simp] theorem holdSkew_frame (d : Dev) :
    (holdSkew d).hostMem = d.hostMem ∧ (holdSkew d).pwr.mode = d.pwr.mode ∧ (holdSkew d).sec = d.sec ∧ (holdSkew d).liveOld = d.liveOld ∧ (holdSkew d).objs = d.objs := by
  simp [holdSkew]


@[simp] theorem refreshTrimSat_frame (d : Dev) :
    (refreshTrimSat d).hostMem = d.hostMem ∧ (refreshTrimSat d).pwr.mode = d.pwr.mode ∧ (refreshTrimSat d).sec = d.sec ∧ (refreshTrimSat d).liveOld = d.liveOld ∧ (refreshTrimSat d).objs = d.objs := by
  simp [refreshTrimSat]


@[simp] theorem acqChApply_frame (ws : List Word) (d : Dev) :
    (acqChApply ws d).hostMem = d.hostMem ∧ (acqChApply ws d).pwr.mode = d.pwr.mode ∧ (acqChApply ws d).sec = d.sec ∧ (acqChApply ws d).liveOld = d.liveOld := by
  simp [acqChApply]


@[simp] theorem acqChkApply_frame (ws : List Word) (d : Dev) :
    (acqChkApply ws d).hostMem = d.hostMem ∧ (acqChkApply ws d).pwr.mode = d.pwr.mode ∧ (acqChkApply ws d).sec = d.sec ∧ (acqChkApply ws d).liveOld = d.liveOld := by
  simp [acqChkApply]


@[simp] theorem setRefEn_frame (v : Bool) (d : Dev) :
    (setRefEn v d).hostMem = d.hostMem ∧ (setRefEn v d).pwr.mode = d.pwr.mode ∧ (setRefEn v d).sec = d.sec ∧ (setRefEn v d).liveOld = d.liveOld ∧ (setRefEn v d).objs = d.objs := by
  simp [setRefEn]


@[simp] theorem acqCtlApply_frame (ws : List Word) (d : Dev) :
    (acqCtlApply ws d).hostMem = d.hostMem ∧ (acqCtlApply ws d).pwr.mode = d.pwr.mode ∧ (acqCtlApply ws d).sec = d.sec ∧ (acqCtlApply ws d).liveOld = d.liveOld := by
  simp [acqCtlApply]


@[simp] theorem acqInjApply_frame (ws : List Word) (d : Dev) :
    (acqInjApply ws d).hostMem = d.hostMem ∧ (acqInjApply ws d).pwr.mode = d.pwr.mode ∧ (acqInjApply ws d).sec = d.sec ∧ (acqInjApply ws d).liveOld = d.liveOld ∧ (acqInjApply ws d).objs = d.objs := by
  simp [acqInjApply]


@[simp] theorem pushResult_frame (r : InjRes) (d : Dev) :
    (pushResult r d).hostMem = d.hostMem ∧ (pushResult r d).pwr.mode = d.pwr.mode ∧ (pushResult r d).sec = d.sec ∧ (pushResult r d).liveOld = d.liveOld ∧ (pushResult r d).objs = d.objs := by
  simp [pushResult]


@[simp] theorem acqStatusClear_frame (d : Dev) :
    (acqStatusClear d).hostMem = d.hostMem ∧ (acqStatusClear d).pwr.mode = d.pwr.mode ∧ (acqStatusClear d).sec = d.sec ∧ (acqStatusClear d).liveOld = d.liveOld ∧ (acqStatusClear d).objs = d.objs := by
  simp [acqStatusClear]


@[simp] theorem bankSupplyFault_frame (b : ℕ) (v : ℕ) (d : Dev) :
    (bankSupplyFault b v d).hostMem = d.hostMem ∧ (bankSupplyFault b v d).sec = d.sec ∧ (bankSupplyFault b v d).liveOld = d.liveOld := by
  simp [bankSupplyFault]


@[simp] theorem bankSupplyReturn_frame (b : ℕ) (v : ℕ) (d : Dev) :
    (bankSupplyReturn b v d).hostMem = d.hostMem ∧ (bankSupplyReturn b v d).pwr.mode = d.pwr.mode ∧ (bankSupplyReturn b v d).sec = d.sec ∧ (bankSupplyReturn b v d).liveOld = d.liveOld ∧ (bankSupplyReturn b v d).objs = d.objs := by
  simp [bankSupplyReturn]


@[simp] theorem beginRun_frame (d : Dev) :
    (beginRun d).hostMem = d.hostMem ∧ (beginRun d).pwr.mode = d.pwr.mode ∧ (beginRun d).sec = d.sec ∧ (beginRun d).liveOld = d.liveOld := by
  unfold beginRun; (repeat' split) <;> simp_all


@[simp] theorem substSamples_frame (k : ℕ) (hit : ℕ → ℕ → Bool) (d : Dev) :
    (substSamples k hit d).hostMem = d.hostMem ∧ (substSamples k hit d).pwr.mode = d.pwr.mode ∧ (substSamples k hit d).sec = d.sec ∧ (substSamples k hit d).liveOld = d.liveOld ∧ (substSamples k hit d).objs = d.objs := by
  simp [substSamples]


@[simp] theorem dropItems_frame (l : List ℕ) (d : Dev) :
    (dropItems l d).hostMem = d.hostMem ∧ (dropItems l d).pwr.mode = d.pwr.mode ∧ (dropItems l d).sec = d.sec ∧ (dropItems l d).liveOld = d.liveOld ∧ (dropItems l d).objs = d.objs := by
  simp [dropItems]


@[simp] theorem dropBg_frame (k : ℕ) (d : Dev) :
    (dropBg k d).hostMem = d.hostMem ∧ (dropBg k d).pwr.mode = d.pwr.mode ∧ (dropBg k d).sec = d.sec ∧ (dropBg k d).liveOld = d.liveOld ∧ (dropBg k d).objs = d.objs := by
  simp [dropBg]


@[simp] theorem countConv_frame (r : RawConv) (rng : ℕ) (d : Dev) :
    (countConv r rng d).hostMem = d.hostMem ∧ (countConv r rng d).pwr.mode = d.pwr.mode ∧ (countConv r rng d).sec = d.sec ∧ (countConv r rng d).liveOld = d.liveOld ∧ (countConv r rng d).objs = d.objs := by
  simp [countConv]


@[simp] theorem uncount_frame (p : ℕ) (c : ℕ) (k : ℕ) (skip : ℕ) (d : Dev) :
    (uncount p c k skip d).hostMem = d.hostMem ∧ (uncount p c k skip d).pwr.mode = d.pwr.mode ∧ (uncount p c k skip d).sec = d.sec ∧ (uncount p c k skip d).liveOld = d.liveOld ∧ (uncount p c k skip d).objs = d.objs := by
  simp [uncount]


@[simp] theorem recallShots_frame (i : ℕ) (c : ℕ) (k : ℕ) (skip : ℕ) (d : Dev) :
    (recallShots i c k skip d).hostMem = d.hostMem ∧ (recallShots i c k skip d).pwr.mode = d.pwr.mode ∧ (recallShots i c k skip d).sec = d.sec ∧ (recallShots i c k skip d).liveOld = d.liveOld ∧ (recallShots i c k skip d).objs = d.objs := by
  unfold recallShots
  refine ⟨(each_hostMem _ ?_ _ _).trans ?_, (each_mode _ ?_ _ _).trans ?_, (each_sec _ ?_ _ _).trans ?_, (each_liveOld _ ?_ _ _).trans ?_, (each_objs _ ?_ _ _).trans ?_⟩ <;> (try intro s d) <;> (try dsimp only) <;> (repeat' split) <;> simp


@[simp] theorem recallSubst_frame (p : ℕ) (c : ℕ) (k : ℕ) (skip : ℕ) (d : Dev) :
    (recallSubst p c k skip d).hostMem = d.hostMem ∧ (recallSubst p c k skip d).pwr.mode = d.pwr.mode ∧ (recallSubst p c k skip d).sec = d.sec ∧ (recallSubst p c k skip d).liveOld = d.liveOld ∧ (recallSubst p c k skip d).objs = d.objs := by
  simp [recallSubst]


@[simp] theorem substitute_frame (p : ℕ) (d : Dev) :
    (substitute p d).hostMem = d.hostMem ∧ (substitute p d).sec = d.sec ∧ (substitute p d).liveOld = d.liveOld := by
  unfold substitute; simp only []; (repeat' split) <;> simp_all


@[simp] theorem failConverter_frame (p : ℕ) (d : Dev) :
    (failConverter p d).hostMem = d.hostMem ∧ (failConverter p d).sec = d.sec ∧ (failConverter p d).liveOld = d.liveOld := by
  simp [failConverter]


@[simp] theorem failChecker_frame (k : ℕ) (d : Dev) :
    (failChecker k d).hostMem = d.hostMem ∧ (failChecker k d).sec = d.sec ∧ (failChecker k d).liveOld = d.liveOld := by
  unfold failChecker; simp only []; (repeat' split) <;> simp_all


@[simp] theorem checkerArbitration_frame (k : ℕ) (t : ℕ) (conv : ArbRes) (chk : ArbRes) (d : Dev) :
    (checkerArbitration k t conv chk d).hostMem = d.hostMem ∧ (checkerArbitration k t conv chk d).sec = d.sec ∧ (checkerArbitration k t conv chk d).liveOld = d.liveOld := by
  unfold checkerArbitration; simp only []; (repeat' split) <;> simp_all


@[simp] theorem compareCodes_frame (i : ℕ) (code : ℕ) (ccode : ℕ) (r : RawConv) (d : Dev) :
    (compareCodes i code ccode r d).hostMem = d.hostMem ∧ (compareCodes i code ccode r d).pwr.mode = d.pwr.mode ∧ (compareCodes i code ccode r d).sec = d.sec ∧ (compareCodes i code ccode r d).liveOld = d.liveOld ∧ (compareCodes i code ccode r d).objs = d.objs := by
  simp [compareCodes]


@[simp] theorem converterFail_frame (i : ℕ) (d : Dev) :
    (converterFail i d).hostMem = d.hostMem ∧ (converterFail i d).sec = d.sec ∧ (converterFail i d).liveOld = d.liveOld := by
  simp [converterFail]


@[simp] theorem convLinkCrcFail_frame (i : ℕ) (d : Dev) :
    (convLinkCrcFail i d).hostMem = d.hostMem ∧ (convLinkCrcFail i d).sec = d.sec ∧ (convLinkCrcFail i d).liveOld = d.liveOld := by
  simp [convLinkCrcFail]


@[simp] theorem goodBlock_frame (i : ℕ) (d : Dev) :
    (goodBlock i d).hostMem = d.hostMem ∧ (goodBlock i d).pwr.mode = d.pwr.mode ∧ (goodBlock i d).sec = d.sec ∧ (goodBlock i d).liveOld = d.liveOld ∧ (goodBlock i d).objs = d.objs := by
  simp [goodBlock]


@[simp] theorem keepConv_frame (p : ℕ) (rng : ℕ) (subst : Bool) (r : RawConv) (d : Dev) :
    (keepConv p rng subst r d).hostMem = d.hostMem ∧ (keepConv p rng subst r d).pwr.mode = d.pwr.mode ∧ (keepConv p rng subst r d).sec = d.sec ∧ (keepConv p rng subst r d).liveOld = d.liveOld ∧ (keepConv p rng subst r d).objs = d.objs := by
  simp [keepConv]


@[simp] theorem markRecovering_frame (n : ℕ) (t : ℕ) (d : Dev) :
    (markRecovering n t d).hostMem = d.hostMem ∧ (markRecovering n t d).pwr.mode = d.pwr.mode ∧ (markRecovering n t d).sec = d.sec ∧ (markRecovering n t d).liveOld = d.liveOld ∧ (markRecovering n t d).objs = d.objs := by
  simp [markRecovering]


@[simp] theorem overload_frame (c : ℕ) (t : ℕ) (d : Dev) :
    (overload c t d).hostMem = d.hostMem ∧ (overload c t d).pwr.mode = d.pwr.mode ∧ (overload c t d).sec = d.sec ∧ (overload c t d).liveOld = d.liveOld ∧ (overload c t d).objs = d.objs := by
  unfold overload; simp only []; (repeat' split) <;> simp_all


@[simp] theorem passConv_frame (c : ℕ) (t : ℕ) (d : Dev) :
    (passConv c t d).hostMem = d.hostMem ∧ (passConv c t d).pwr.mode = d.pwr.mode ∧ (passConv c t d).sec = d.sec ∧ (passConv c t d).liveOld = d.liveOld ∧ (passConv c t d).objs = d.objs := by
  simp [passConv]


@[simp] theorem takeShot_frame (i : ℕ) (s : Shot) (d : Dev) :
    (takeShot i s d).hostMem = d.hostMem ∧ (takeShot i s d).pwr.mode = d.pwr.mode ∧ (takeShot i s d).sec = d.sec ∧ (takeShot i s d).liveOld = d.liveOld ∧ (takeShot i s d).objs = d.objs := by
  simp [takeShot]


@[simp] theorem tallyConv_frame (c : ℕ) (k : ℕ) (rail : Bool) (inRange : Bool) (d : Dev) :
    (tallyConv c k rail inRange d).hostMem = d.hostMem ∧ (tallyConv c k rail inRange d).pwr.mode = d.pwr.mode ∧ (tallyConv c k rail inRange d).sec = d.sec ∧ (tallyConv c k rail inRange d).liveOld = d.liveOld ∧ (tallyConv c k rail inRange d).objs = d.objs := by
  simp [tallyConv]


/-- A quantity that every part of a conversion leaves alone is left alone by the conversion. -/
theorem convert_keeps {α : Type} (p : Dev → α) (w : Window) (c : ℕ) (lvl : Option ℤ) (chk : ℤ) (d : Dev)
    (hA : ∀ f d, p (Dev.uAcq f d) = p d) (ha : ∀ t d, p (Dev.at_ t d) = p d) (hd : ∀ d, p d.drawn = p d)
    (hP : ∀ c t d, p (passConv c t d) = p d) (hO : ∀ c t d, p (overload c t d) = p d)
    (hC : ∀ c k a b d, p (tallyConv c k a b d) = p d) (hM : ∀ i k a b d, p (compareCodes i k a b d) = p d)
    (hK : ∀ a b i k d, p (keepConv a b i k d) = p d) (hU : ∀ c f d, p (updCh c f d) = p d)
    (hW : ∀ w d, p (dropWindow w d) = p d) (hG : ∀ i d, p (goodBlock i d) = p d) (hS : ∀ i s d, p (takeShot i s d) = p d) :
    p (convert w c lvl chk d) = p d := by
  unfold convert
  extract_lets n q server i t d2 period openDet
  have h2 : p d2 = p d := by simp only [d2, hG, ha]
  clear_value d2
  split
  rename_i x code rng0 d3 h
  have h3 : p d3 = p d := by
    rw [← h2]
    revert h
    cases lvl with
    | some l => intro h; simp only [Prod.mk.injEq] at h; rw [h.2.2]
    | none =>
      dsimp only
      split <;> intro h <;> simp only [Prod.mk.injEq] at h <;> rw [← h.2.2] <;> simp only [hd]
  clear h
  extract_lets y near recovering rng d5 d6 subst d7 d8
  have h6 : p d6 = p d := by simp only [d6, d5]; (repeat' split) <;> simp only [hO, hP, h3]
  clear_value d6 d5
  have h7 : p d7 = p d := by simp only [d7]; (repeat' split) <;> simp only [hK, hM, hC, hS, hG, hU, h6]
  clear_value d7
  have h8 : p d8 = p d := by simp only [d8, hU, hA, h7]
  clear_value d8
  split <;> simp only [hW, h8]

@[simp] theorem convert_frame (w : Window) (c : ℕ) (lvl : Option ℤ) (chk : ℤ) (d : Dev) :
    (convert w c lvl chk d).hostMem = d.hostMem ∧ (convert w c lvl chk d).pwr.mode = d.pwr.mode ∧ (convert w c lvl chk d).sec = d.sec ∧ (convert w c lvl chk d).liveOld = d.liveOld ∧ (convert w c lvl chk d).objs = d.objs := by
  refine ⟨convert_keeps (·.hostMem) _ _ _ _ _ ?_ ?_ ?_ ?_ ?_ ?_ ?_ ?_ ?_ ?_ ?_ ?_, convert_keeps (·.pwr.mode) _ _ _ _ _ ?_ ?_ ?_ ?_ ?_ ?_ ?_ ?_ ?_ ?_ ?_ ?_, convert_keeps (·.sec) _ _ _ _ _ ?_ ?_ ?_ ?_ ?_ ?_ ?_ ?_ ?_ ?_ ?_ ?_, convert_keeps (·.liveOld) _ _ _ _ _ ?_ ?_ ?_ ?_ ?_ ?_ ?_ ?_ ?_ ?_ ?_ ?_, convert_keeps (·.objs) _ _ _ _ _ ?_ ?_ ?_ ?_ ?_ ?_ ?_ ?_ ?_ ?_ ?_ ?_⟩ <;> intros <;> simp


@[simp] theorem conversion_frame (c : ℕ) (lvl : Option ℤ) (chk : ℤ) (d : Dev) :
    (conversion c lvl chk d).hostMem = d.hostMem ∧ (conversion c lvl chk d).pwr.mode = d.pwr.mode ∧ (conversion c lvl chk d).sec = d.sec ∧ (conversion c lvl chk d).liveOld = d.liveOld ∧ (conversion c lvl chk d).objs = d.objs := by
  unfold conversion; (repeat' split) <;> simp_all


@[simp] theorem openInputs_frame (k : ℕ) (d : Dev) :
    (openInputs k d).hostMem = d.hostMem ∧ (openInputs k d).pwr.mode = d.pwr.mode ∧ (openInputs k d).sec = d.sec ∧ (openInputs k d).liveOld = d.liveOld ∧ (openInputs k d).objs = d.objs := by
  simp [openInputs]


@[simp] theorem injResultClear_frame (d : Dev) :
    (injResultClear d).hostMem = d.hostMem ∧ (injResultClear d).pwr.mode = d.pwr.mode ∧ (injResultClear d).sec = d.sec ∧ (injResultClear d).liveOld = d.liveOld ∧ (injResultClear d).objs = d.objs := by
  simp [injResultClear]


@[simp] theorem injServe_frame (t : ℕ) (lvl : ℤ) (d : Dev) :
    (injServe t lvl d).hostMem = d.hostMem ∧ (injServe t lvl d).pwr.mode = d.pwr.mode ∧ (injServe t lvl d).sec = d.sec ∧ (injServe t lvl d).liveOld = d.liveOld ∧ (injServe t lvl d).objs = d.objs := by
  unfold injServe; (repeat' split) <;> simp_all


@[simp] theorem injTimeout_frame (d : Dev) :
    (injTimeout d).hostMem = d.hostMem ∧ (injTimeout d).pwr.mode = d.pwr.mode ∧ (injTimeout d).sec = d.sec ∧ (injTimeout d).liveOld = d.liveOld ∧ (injTimeout d).objs = d.objs := by
  unfold injTimeout; (repeat' split) <;> simp_all


@[simp] theorem sdrvStatusClear_frame (d : Dev) :
    (sdrvStatusClear d).hostMem = d.hostMem ∧ (sdrvStatusClear d).pwr.mode = d.pwr.mode ∧ (sdrvStatusClear d).sec = d.sec ∧ (sdrvStatusClear d).liveOld = d.liveOld ∧ (sdrvStatusClear d).objs = d.objs := by
  simp [sdrvStatusClear]


@[simp] theorem refFault_frame (d : Dev) :
    (refFault d).hostMem = d.hostMem ∧ (refFault d).sec = d.sec ∧ (refFault d).liveOld = d.liveOld := by
  simp [refFault]


@[simp] theorem refReadySet_frame (d : Dev) :
    (refReadySet d).hostMem = d.hostMem ∧ (refReadySet d).pwr.mode = d.pwr.mode ∧ (refReadySet d).sec = d.sec ∧ (refReadySet d).liveOld = d.liveOld := by
  unfold refReadySet; simp only []; (repeat' split) <;> simp_all


@[simp] theorem refRestored_frame (d : Dev) :
    (refRestored d).hostMem = d.hostMem ∧ (refRestored d).pwr.mode = d.pwr.mode ∧ (refRestored d).sec = d.sec ∧ (refRestored d).liveOld = d.liveOld ∧ (refRestored d).objs = d.objs := by
  simp [refRestored]


end Sys2Proof.Laws
end

