-- ==== Sys2Proof/Laws/FrameIllumination.lean ====
section
/-! SUPPORT. What the operations of Sys2Proof/Machine/Illumination.lean leave alone of host memory (hostMem), the mode (pwr.mode), the security block (sec)
and the objects (objs, liveOld): one lemma per operation, saying of each that it changes none of those it names. -/

namespace Sys2Proof.Laws

open Sys2Proof.Machine

@[simp] theorem diagSlot1_frame (len : ℕ) (t : ℕ) (s : ℕ) (d : Dev) :
    (diagSlot1 len t s d).hostMem = d.hostMem ∧ (diagSlot1 len t s d).pwr.mode = d.pwr.mode ∧ (diagSlot1 len t s d).sec = d.sec ∧ (diagSlot1 len t s d).liveOld = d.liveOld ∧ (diagSlot1 len t s d).objs = d.objs := by
  simp [diagSlot1]


@[simp] theorem lampDiagSlot_frame (len : ℕ) (t : ℕ) (d : Dev) :
    (lampDiagSlot len t d).hostMem = d.hostMem ∧ (lampDiagSlot len t d).pwr.mode = d.pwr.mode ∧ (lampDiagSlot len t d).sec = d.sec ∧ (lampDiagSlot len t d).liveOld = d.liveOld ∧ (lampDiagSlot len t d).objs = d.objs := by
  simp [lampDiagSlot]


@[simp] theorem tempInput_frame (d : Dev) :
    (tempInput d).hostMem = d.hostMem ∧ (tempInput d).pwr.mode = d.pwr.mode ∧ (tempInput d).sec = d.sec ∧ (tempInput d).liveOld = d.liveOld ∧ (tempInput d).objs = d.objs := by
  simp [tempInput]


@[simp] theorem ratedLimits_frame (d : Dev) :
    (ratedLimits d).hostMem = d.hostMem ∧ (ratedLimits d).pwr.mode = d.pwr.mode ∧ (ratedLimits d).sec = d.sec ∧ (ratedLimits d).liveOld = d.liveOld ∧ (ratedLimits d).objs = d.objs := by
  simp [ratedLimits]


@[simp] theorem exhaustedChange_frame (line : Option ℕ) (before : Dev) (d : Dev) :
    (exhaustedChange line before d).hostMem = d.hostMem ∧ (exhaustedChange line before d).sec = d.sec ∧ (exhaustedChange line before d).liveOld = d.liveOld := by
  simp [exhaustedChange]


@[simp] theorem failVerdict_frame (s : ℕ) (l : ℕ) (line : Option ℕ) (d : Dev) :
    (failVerdict s l line d).hostMem = d.hostMem ∧ (failVerdict s l line d).sec = d.sec ∧ (failVerdict s l line d).liveOld = d.liveOld := by
  simp [failVerdict]


@[simp] theorem lampCheck_frame (mask : ℕ) (mv : List ℕ) (d : Dev) :
    (lampCheck mask mv d).2.hostMem = d.hostMem ∧ (lampCheck mask mv d).2.sec = d.sec ∧ (lampCheck mask mv d).2.liveOld = d.liveOld := by
  simp [lampCheck]


@[simp] theorem calLamp_frame (c : MnrCmd) (mv : List ℕ) (d : Dev) :
    (calLamp c mv d).hostMem = d.hostMem ∧ (calLamp c mv d).sec = d.sec ∧ (calLamp c mv d).liveOld = d.liveOld := by
  simp [calLamp]


@[simp] theorem forceOff_frame (s : ℕ) (d : Dev) :
    (forceOff s d).hostMem = d.hostMem ∧ (forceOff s d).pwr.mode = d.pwr.mode ∧ (forceOff s d).sec = d.sec ∧ (forceOff s d).liveOld = d.liveOld ∧ (forceOff s d).objs = d.objs := by
  simp [forceOff]


@[simp] theorem forcesEnd_frame (d : Dev) :
    (forcesEnd d).hostMem = d.hostMem ∧ (forcesEnd d).pwr.mode = d.pwr.mode ∧ (forcesEnd d).sec = d.sec ∧ (forcesEnd d).liveOld = d.liveOld ∧ (forcesEnd d).objs = d.objs := by
  simp [forcesEnd]


@[simp] theorem chainBegin_frame (ws : List Word) (who : Option Who) (d : Dev) :
    (chainBegin ws who d).hostMem = d.hostMem ∧ (chainBegin ws who d).pwr.mode = d.pwr.mode ∧ (chainBegin ws who d).sec = d.sec ∧ (chainBegin ws who d).liveOld = d.liveOld ∧ (chainBegin ws who d).objs = d.objs := by
  simp [chainBegin]


@[simp] theorem chainShiftDone_frame (ret : List Word) (t : ℕ) (d : Dev) :
    (chainShiftDone ret t d).hostMem = d.hostMem ∧ (chainShiftDone ret t d).pwr.mode = d.pwr.mode ∧ (chainShiftDone ret t d).sec = d.sec ∧ (chainShiftDone ret t d).liveOld = d.liveOld := by
  unfold chainShiftDone; (repeat' split) <;> simp_all


@[simp] theorem diagLineStart_frame (d : Dev) :
    (diagLineStart d).hostMem = d.hostMem ∧ (diagLineStart d).pwr.mode = d.pwr.mode ∧ (diagLineStart d).sec = d.sec ∧ (diagLineStart d).liveOld = d.liveOld ∧ (diagLineStart d).objs = d.objs := by
  simp [diagLineStart]


@[simp] theorem ilmReset_frame (d : Dev) :
    (ilmReset d).hostMem = d.hostMem ∧ (ilmReset d).pwr.mode = d.pwr.mode ∧ (ilmReset d).sec = d.sec ∧ (ilmReset d).liveOld = d.liveOld ∧ (ilmReset d).objs = d.objs := by
  simp [ilmReset]


@[simp] theorem ilmApply_frame (id : ℕ) (ws : List Word) (d : Dev) :
    (ilmApply id ws d).hostMem = d.hostMem ∧ (ilmApply id ws d).sec = d.sec ∧ (ilmApply id ws d).liveOld = d.liveOld := by
  simp [ilmApply]


@[simp] theorem ilmStatusClear_frame (d : Dev) :
    (ilmStatusClear d).hostMem = d.hostMem ∧ (ilmStatusClear d).pwr.mode = d.pwr.mode ∧ (ilmStatusClear d).sec = d.sec ∧ (ilmStatusClear d).liveOld = d.liveOld ∧ (ilmStatusClear d).objs = d.objs := by
  simp [ilmStatusClear]


@[simp] theorem ilmTempLost_frame (s : ℕ) (d : Dev) :
    (ilmTempLost s d).hostMem = d.hostMem ∧ (ilmTempLost s d).pwr.mode = d.pwr.mode ∧ (ilmTempLost s d).sec = d.sec ∧ (ilmTempLost s d).liveOld = d.liveOld ∧ (ilmTempLost s d).objs = d.objs := by
  simp [ilmTempLost]


@[simp] theorem ilmTempRead_frame (s : ℕ) (d : Dev) :
    (ilmTempRead s d).hostMem = d.hostMem ∧ (ilmTempRead s d).pwr.mode = d.pwr.mode ∧ (ilmTempRead s d).sec = d.sec ∧ (ilmTempRead s d).liveOld = d.liveOld ∧ (ilmTempRead s d).objs = d.objs := by
  simp [ilmTempRead]


@[simp] theorem lampBlankEnd_frame (s : ℕ) (d : Dev) :
    (lampBlankEnd s d).hostMem = d.hostMem ∧ (lampBlankEnd s d).pwr.mode = d.pwr.mode ∧ (lampBlankEnd s d).sec = d.sec ∧ (lampBlankEnd s d).liveOld = d.liveOld ∧ (lampBlankEnd s d).objs = d.objs := by
  unfold lampBlankEnd; simp only []; (repeat' split) <;> simp_all


@[simp] theorem lampForce_frame (c : MnrCmd) (d : Dev) :
    (lampForce c d).hostMem = d.hostMem ∧ (lampForce c d).pwr.mode = d.pwr.mode ∧ (lampForce c d).sec = d.sec ∧ (lampForce c d).liveOld = d.liveOld ∧ (lampForce c d).objs = d.objs := by
  simp [lampForce]


@[simp] theorem lampForceEnd_frame (s : ℕ) (d : Dev) :
    (lampForceEnd s d).hostMem = d.hostMem ∧ (lampForceEnd s d).pwr.mode = d.pwr.mode ∧ (lampForceEnd s d).sec = d.sec ∧ (lampForceEnd s d).liveOld = d.liveOld ∧ (lampForceEnd s d).objs = d.objs := by
  unfold lampForceEnd; (repeat' split) <;> simp_all


@[simp] theorem lampHeadroomFault_frame (s : ℕ) (vled : ℕ) (d : Dev) :
    (lampHeadroomFault s vled d).hostMem = d.hostMem ∧ (lampHeadroomFault s vled d).sec = d.sec ∧ (lampHeadroomFault s vled d).liveOld = d.liveOld := by
  unfold lampHeadroomFault; simp only []; (repeat' split) <;> simp_all


@[simp] theorem lampModPeriod_frame (s : ℕ) (t : ℕ) (d : Dev) :
    (lampModPeriod s t d).hostMem = d.hostMem ∧ (lampModPeriod s t d).pwr.mode = d.pwr.mode ∧ (lampModPeriod s t d).sec = d.sec ∧ (lampModPeriod s t d).liveOld = d.liveOld ∧ (lampModPeriod s t d).objs = d.objs := by
  unfold lampModPeriod; simp only []; (repeat' split) <;> simp_all


@[simp] theorem lampSpareCmd_frame (c : MnrCmd) (mv : ℕ) (d : Dev) :
    (lampSpareCmd c mv d).hostMem = d.hostMem ∧ (lampSpareCmd c mv d).sec = d.sec ∧ (lampSpareCmd c mv d).liveOld = d.liveOld := by
  unfold lampSpareCmd
  refine ⟨command_hostMem _ _ _ _ ?_, command_sec _ _ _ _ ?_, command_liveOld _ _ _ _ ?_⟩ <;> intro t d <;> (first | refine checked_hostMem _ _ _ _ ?_ | refine checked_sec _ _ _ _ ?_ | refine checked_liveOld _ _ _ _ ?_) <;> intro d <;> split <;> simp


@[simp] theorem lampVoltageRead_frame (s : ℕ) (l : ℕ) (mv : ℕ) (d : Dev) :
    (lampVoltageRead s l mv d).hostMem = d.hostMem ∧ (lampVoltageRead s l mv d).sec = d.sec ∧ (lampVoltageRead s l mv d).liveOld = d.liveOld := by
  simp [lampVoltageRead]


end Sys2Proof.Laws
end

