-- ==== Sys2Proof/Laws/FrameCalibration.lean ====
section
/-! SUPPORT. What the operations of Sys2Proof/Machine/Calibration.lean leave alone of host memory (hostMem), the mode (pwr.mode), the security block (sec)
and the objects (objs, liveOld): one lemma per operation, saying of each that it changes none of those it names. -/

namespace Sys2Proof.Laws

open Sys2Proof.Machine

@[simp] theorem commitStore_frame (slot : ℕ) (r : CalRec) (d : Dev) :
    (commitStore slot r d).hostMem = d.hostMem ∧ (commitStore slot r d).pwr.mode = d.pwr.mode ∧ (commitStore slot r d).sec = d.sec ∧ (commitStore slot r d).liveOld = d.liveOld ∧ (commitStore slot r d).objs = d.objs := by
  simp [commitStore]


@[simp] theorem stopStore_frame (d : Dev) :
    (stopStore d).hostMem = d.hostMem ∧ (stopStore d).pwr.mode = d.pwr.mode ∧ (stopStore d).sec = d.sec ∧ (stopStore d).liveOld = d.liveOld ∧ (stopStore d).objs = d.objs := by
  simp [stopStore]


@[simp] theorem abandonStore_frame (d : Dev) :
    (abandonStore d).hostMem = d.hostMem ∧ (abandonStore d).pwr.mode = d.pwr.mode ∧ (abandonStore d).sec = d.sec ∧ (abandonStore d).liveOld = d.liveOld ∧ (abandonStore d).objs = d.objs := by
  unfold abandonStore; (repeat' split) <;> simp_all


@[simp] theorem applyItem_frame (i : CalItem) (t : Trim) (d : Dev) :
    (applyItem i t d).hostMem = d.hostMem ∧ (applyItem i t d).pwr.mode = d.pwr.mode ∧ (applyItem i t d).sec = d.sec ∧ (applyItem i t d).liveOld = d.liveOld ∧ (applyItem i t d).objs = d.objs := by
  simp [applyItem]


@[simp] theorem setBg_frame (i : ℕ) (x : BgItem) (d : Dev) :
    (setBg i x d).hostMem = d.hostMem ∧ (setBg i x d).pwr.mode = d.pwr.mode ∧ (setBg i x d).sec = d.sec ∧ (setBg i x d).liveOld = d.liveOld ∧ (setBg i x d).objs = d.objs := by
  simp [setBg]


@[simp] theorem setBgTrim_frame (i : ℕ) (v : ℤ) (d : Dev) :
    (setBgTrim i v d).hostMem = d.hostMem ∧ (setBgTrim i v d).pwr.mode = d.pwr.mode ∧ (setBgTrim i v d).sec = d.sec ∧ (setBgTrim i v d).liveOld = d.liveOld ∧ (setBgTrim i v d).objs = d.objs := by
  simp [setBgTrim]


@[simp] theorem bgItem_frame (i : ℕ) (t : ℕ) (fig : Option ℤ) (d : Dev) :
    (bgItem i t fig d).hostMem = d.hostMem ∧ (bgItem i t fig d).pwr.mode = d.pwr.mode ∧ (bgItem i t fig d).sec = d.sec ∧ (bgItem i t fig d).liveOld = d.liveOld ∧ (bgItem i t fig d).objs = d.objs := by
  unfold bgItem; simp only []; (repeat' split) <;> simp_all


@[simp] theorem bgStep_frame (t : ℕ) (d : Dev) :
    (bgStep t d).hostMem = d.hostMem ∧ (bgStep t d).pwr.mode = d.pwr.mode ∧ (bgStep t d).sec = d.sec ∧ (bgStep t d).liveOld = d.liveOld ∧ (bgStep t d).objs = d.objs := by
  simp [bgStep]


@[simp] theorem loadStore_frame (d : Dev) :
    (loadStore d).hostMem = d.hostMem ∧ (loadStore d).pwr.mode = d.pwr.mode ∧ (loadStore d).sec = d.sec ∧ (loadStore d).liveOld = d.liveOld ∧ (loadStore d).objs = d.objs := by
  unfold loadStore; (repeat' split) <;> simp_all


@[simp] theorem calBegin_frame (d : Dev) :
    (calBegin d).hostMem = d.hostMem ∧ (calBegin d).pwr.mode = d.pwr.mode ∧ (calBegin d).sec = d.sec ∧ (calBegin d).liveOld = d.liveOld := by
  simp [calBegin]


@[simp] theorem calRequest_frame (full : Bool) (w : Option Who) (d : Dev) :
    (calRequest full w d).hostMem = d.hostMem ∧ (calRequest full w d).pwr.mode = d.pwr.mode ∧ (calRequest full w d).sec = d.sec ∧ (calRequest full w d).liveOld = d.liveOld ∧ (calRequest full w d).objs = d.objs := by
  simp [calRequest]


@[simp] theorem storePowerBack_frame (d : Dev) :
    (storePowerBack d).hostMem = d.hostMem ∧ (storePowerBack d).pwr.mode = d.pwr.mode ∧ (storePowerBack d).sec = d.sec ∧ (storePowerBack d).liveOld = d.liveOld ∧ (storePowerBack d).objs = d.objs := by
  simp [storePowerBack]


@[simp] theorem failItem_frame (i : CalItem) (d : Dev) :
    (failItem i d).hostMem = d.hostMem ∧ (failItem i d).sec = d.sec ∧ (failItem i d).liveOld = d.liveOld := by
  unfold failItem; (repeat' split) <;> simp_all


@[simp] theorem requestStore_frame (w : Option (ℕ × ℕ × ℕ)) (d : Dev) :
    (requestStore w d).hostMem = d.hostMem ∧ (requestStore w d).pwr.mode = d.pwr.mode ∧ (requestStore w d).sec = d.sec ∧ (requestStore w d).liveOld = d.liveOld ∧ (requestStore w d).objs = d.objs := by
  simp [requestStore]


/-- A quantity that the parts of a self-calibration's end leave alone is left alone by it. -/
theorem calEnd_keeps {α : Type} (p : Dev → α) (r : CalRun) (d : Dev) (hc : ∀ f d, p (Dev.uCal f d) = p d)
    (hw : ∀ f d, p (Dev.uPwr f d) = p d) (ha : ∀ a b d, p (applyItem a b d) = p d) (hl : ∀ n d, p (faultClear n d) = p d)
    (hk : ∀ k f d, p (updChk k f d) = p d) (hf : ∀ i d, p (failItem i d) = p d) (ht : ∀ d, p (refreshTrimSat d) = p d)
    (hr : ∀ n d, p (raise n d) = p d) (hi : ∀ w a b l d, p (finish w a b l d) = p d) (hq : ∀ w d, p (requestStore w d) = p d) (hx : ∀ d, p (restartIdle d) = p d) :
    p (calEnd r d) = p d := by
  unfold calEnd
  extract_lets bad all d1 d2 d3 d4 measured d5 e5 d6 d7 d8 none_ status d9 d10
  have h3 : p d3 = p d := by simp only [d3, d2, d1]; (repeat' split) <;> simp only [hc, hw, hx]
  have h4 : p d4 = p d := by rw [← h3]; simp only [d4, holdSkew, hc]; exact each_keeps p _ (fun x d => ha _ _ d) _ _
  have h5 : p d5 = p d := by
    rw [← h4]
    refine each_keeps p _ (fun i d => ?_) _ _
    cases i <;> simp only [hc]
  have g5 : p e5 = p d := by simp only [e5, dropItems, hc, h5]
  have h6 : p d6 = p d := by simp only [d6]; split <;> simp only [hl, g5]
  have h7 : p d7 = p d := by
    rw [← h6]
    refine each_keeps p _ (fun i d => ?_) _ _
    split <;> simp only [hk]
  have h8 : p d8 = p d := by rw [← h7]; exact each_keeps p _ (fun x d => hf _ d) _ _
  have h9 : p d9 = p d := by simp only [d9, ht, hr, hc, h8]
  have h10 : p d10 = p d := by simp only [d10]; split <;> simp only [hi, h9]
  split <;> simp only [hq, h10]

@[simp] theorem calEnd_frame (r : CalRun) (d : Dev) :
    (calEnd r d).hostMem = d.hostMem ∧ (calEnd r d).sec = d.sec ∧ (calEnd r d).liveOld = d.liveOld := by
  refine ⟨calEnd_keeps (·.hostMem) _ _ ?_ ?_ ?_ ?_ ?_ ?_ ?_ ?_ ?_ ?_ ?_, calEnd_keeps (·.sec) _ _ ?_ ?_ ?_ ?_ ?_ ?_ ?_ ?_ ?_ ?_ ?_, calEnd_keeps (·.liveOld) _ _ ?_ ?_ ?_ ?_ ?_ ?_ ?_ ?_ ?_ ?_ ?_⟩ <;> intros <;> simp


@[simp] theorem calLineStart_frame (d : Dev) :
    (calLineStart d).hostMem = d.hostMem ∧ (calLineStart d).pwr.mode = d.pwr.mode ∧ (calLineStart d).sec = d.sec ∧ (calLineStart d).liveOld = d.liveOld ∧ (calLineStart d).objs = d.objs := by
  simp [calLineStart]


/-- A quantity that the parts of a calibration pass leave alone is left alone by it. -/
theorem calPassEnd_keeps {α : Type} (p : Dev → α) (res : List (CalItem × Trim × Trim)) (d : Dev) (hc : ∀ f d, p (Dev.uCal f d) = p d)
    (hr : ∀ n d, p (raise n d) = p d) (he : ∀ r d, p (calEnd r d) = p d) : p (calPassEnd res d) = p d := by
  unfold calPassEnd
  split
  · rfl
  · extract_lets pairOf pairs
    split
    · split
      split
      extract_lets good bad again d1
      have h1 : p d1 = p d := each_keeps p _ (fun x d => by simp only [hr, hc]) _ _
      (repeat' split) <;> simp only [he, hc, h1]
    · rfl

@[simp] theorem calPassEnd_frame (res : List (CalItem × Trim × Trim)) (d : Dev) :
    (calPassEnd res d).hostMem = d.hostMem ∧ (calPassEnd res d).sec = d.sec ∧ (calPassEnd res d).liveOld = d.liveOld := by
  refine ⟨calPassEnd_keeps (·.hostMem) _ _ ?_ ?_ ?_ , calPassEnd_keeps (·.sec) _ _ ?_ ?_ ?_ , calPassEnd_keeps (·.liveOld) _ _ ?_ ?_ ?_ ⟩ <;> intros <;> simp


@[simp] theorem calRun_frame (c : MnrCmd) (d : Dev) :
    (calRun c d).hostMem = d.hostMem ∧ (calRun c d).pwr.mode = d.pwr.mode ∧ (calRun c d).sec = d.sec ∧ (calRun c d).liveOld = d.liveOld := by
  simp [calRun]


@[simp] theorem calRunDeferredStart_frame (d : Dev) :
    (calRunDeferredStart d).hostMem = d.hostMem ∧ (calRunDeferredStart d).pwr.mode = d.pwr.mode ∧ (calRunDeferredStart d).sec = d.sec ∧ (calRunDeferredStart d).liveOld = d.liveOld := by
  unfold calRunDeferredStart; (repeat' split) <;> simp_all


@[simp] theorem calSave_frame (c : MnrCmd) (d : Dev) :
    (calSave c d).hostMem = d.hostMem ∧ (calSave c d).pwr.mode = d.pwr.mode ∧ (calSave c d).sec = d.sec ∧ (calSave c d).liveOld = d.liveOld ∧ (calSave c d).objs = d.objs := by
  simp [calSave]


@[simp] theorem calStatusClear_frame (d : Dev) :
    (calStatusClear d).hostMem = d.hostMem ∧ (calStatusClear d).pwr.mode = d.pwr.mode ∧ (calStatusClear d).sec = d.sec ∧ (calStatusClear d).liveOld = d.liveOld ∧ (calStatusClear d).objs = d.objs := by
  simp [calStatusClear]


@[simp] theorem calStoreWriteDone_frame (d : Dev) :
    (calStoreWriteDone d).hostMem = d.hostMem ∧ (calStoreWriteDone d).pwr.mode = d.pwr.mode ∧ (calStoreWriteDone d).sec = d.sec ∧ (calStoreWriteDone d).liveOld = d.liveOld ∧ (calStoreWriteDone d).objs = d.objs := by
  unfold calStoreWriteDone; simp only []; (repeat' split) <;> simp_all


end Sys2Proof.Laws
end

