-- ==== Sys2Proof/Laws/FrameLinks.lean ====
section
/-! SUPPORT. What the operations of Sys2Proof/Machine/Links.lean leave alone of host memory (hostMem), the mode (pwr.mode), the security block (sec)
and the objects (objs, liveOld): one lemma per operation, saying of each that it changes none of those it names. -/

namespace Sys2Proof.Laws

open Sys2Proof.Machine

@[simp] theorem abortLinkWindows_frame (k : ℕ) (d : Dev) :
    (abortLinkWindows k d).hostMem = d.hostMem ∧ (abortLinkWindows k d).pwr.mode = d.pwr.mode ∧ (abortLinkWindows k d).sec = d.sec ∧ (abortLinkWindows k d).liveOld = d.liveOld ∧ (abortLinkWindows k d).objs = d.objs := by
  simp [abortLinkWindows]


@[simp] theorem updLane_frame (p : ℕ) (f : RawLane → RawLane) (d : Dev) :
    (updLane p f d).hostMem = d.hostMem ∧ (updLane p f d).pwr.mode = d.pwr.mode ∧ (updLane p f d).sec = d.sec ∧ (updLane p f d).liveOld = d.liveOld ∧ (updLane p f d).objs = d.objs := by
  simp [updLane]


@[simp] theorem updLink_frame (l : ℕ) (f : Link → Link) (d : Dev) :
    (updLink l f d).hostMem = d.hostMem ∧ (updLink l f d).pwr.mode = d.pwr.mode ∧ (updLink l f d).sec = d.sec ∧ (updLink l f d).liveOld = d.liveOld ∧ (updLink l f d).objs = d.objs := by
  simp [updLink]


@[simp] theorem setOpened_frame (s : LinkSrc) (w : Option LinkWin) (d : Dev) :
    (setOpened s w d).hostMem = d.hostMem ∧ (setOpened s w d).pwr.mode = d.pwr.mode ∧ (setOpened s w d).sec = d.sec ∧ (setOpened s w d).liveOld = d.liveOld ∧ (setOpened s w d).objs = d.objs := by
  unfold setOpened; (repeat' split) <;> simp_all


@[simp] theorem substLink_frame (s : LinkSrc) (w : LinkWin) (d : Dev) :
    (substLink s w d).hostMem = d.hostMem ∧ (substLink s w d).pwr.mode = d.pwr.mode ∧ (substLink s w d).sec = d.sec ∧ (substLink s w d).liveOld = d.liveOld ∧ (substLink s w d).objs = d.objs := by
  unfold substLink; (repeat' split) <;> simp_all


@[simp] theorem cutLinkWin_frame (s : LinkSrc) (w : LinkWin) (d : Dev) :
    (cutLinkWin s w d).hostMem = d.hostMem ∧ (cutLinkWin s w d).pwr.mode = d.pwr.mode ∧ (cutLinkWin s w d).sec = d.sec ∧ (cutLinkWin s w d).liveOld = d.liveOld ∧ (cutLinkWin s w d).objs = d.objs := by
  unfold cutLinkWin; (repeat' split) <;> simp_all


@[simp] theorem cutOpened_frame (s : LinkSrc) (d : Dev) :
    (cutOpened s d).hostMem = d.hostMem ∧ (cutOpened s d).pwr.mode = d.pwr.mode ∧ (cutOpened s d).sec = d.sec ∧ (cutOpened s d).liveOld = d.liveOld ∧ (cutOpened s d).objs = d.objs := by
  unfold cutOpened; (repeat' split) <;> simp_all


@[simp] theorem loseAlign_frame (p : Fin 32) (d : Dev) :
    (loseAlign p d).hostMem = d.hostMem ∧ (loseAlign p d).pwr.mode = d.pwr.mode ∧ (loseAlign p d).sec = d.sec ∧ (loseAlign p d).liveOld = d.liveOld ∧ (loseAlign p d).objs = d.objs := by
  unfold loseAlign; simp only []; (repeat' split) <;> simp_all


@[simp] theorem missLinkWin_frame (s : LinkSrc) (w : LinkWin) (d : Dev) :
    (missLinkWin s w d).hostMem = d.hostMem ∧ (missLinkWin s w d).pwr.mode = d.pwr.mode ∧ (missLinkWin s w d).sec = d.sec ∧ (missLinkWin s w d).liveOld = d.liveOld ∧ (missLinkWin s w d).objs = d.objs := by
  unfold missLinkWin; simp only []; (repeat' split) <;> simp_all


@[simp] theorem setArmed_frame (s : LinkSrc) (w : Option LinkWin) (d : Dev) :
    (setArmed s w d).hostMem = d.hostMem ∧ (setArmed s w d).pwr.mode = d.pwr.mode ∧ (setArmed s w d).sec = d.sec ∧ (setArmed s w d).liveOld = d.liveOld ∧ (setArmed s w d).objs = d.objs := by
  unfold setArmed; (repeat' split) <;> simp_all


@[simp] theorem armLink_frame (k : ℕ) (t : ℕ) (s : LinkSrc) (d : Dev) :
    (armLink k t s d).hostMem = d.hostMem ∧ (armLink k t s d).pwr.mode = d.pwr.mode ∧ (armLink k t s d).sec = d.sec ∧ (armLink k t s d).liveOld = d.liveOld ∧ (armLink k t s d).objs = d.objs := by
  unfold armLink; (repeat' split) <;> simp_all


@[simp] theorem armLinks_frame (trig : ℕ) (tbl : ℕ) (k : ℕ) (t : ℕ) (d : Dev) :
    (armLinks trig tbl k t d).hostMem = d.hostMem ∧ (armLinks trig tbl k t d).pwr.mode = d.pwr.mode ∧ (armLinks trig tbl k t d).sec = d.sec ∧ (armLinks trig tbl k t d).liveOld = d.liveOld ∧ (armLinks trig tbl k t d).objs = d.objs := by
  simp [armLinks]


@[simp] theorem recallFrames_frame (l : Fin 8) (w : LinkWin) (n : ℕ) (d : Dev) :
    (recallFrames l w n d).hostMem = d.hostMem ∧ (recallFrames l w n d).pwr.mode = d.pwr.mode ∧ (recallFrames l w n d).sec = d.sec ∧ (recallFrames l w n d).liveOld = d.liveOld ∧ (recallFrames l w n d).objs = d.objs := by
  unfold recallFrames; (repeat' split) <;> simp_all


@[simp] theorem blockError_frame (l : Fin 8) (d : Dev) :
    (blockError l d).hostMem = d.hostMem ∧ (blockError l d).pwr.mode = d.pwr.mode ∧ (blockError l d).sec = d.sec ∧ (blockError l d).liveOld = d.liveOld ∧ (blockError l d).objs = d.objs := by
  unfold blockError; simp only []; (repeat' split) <;> simp_all


@[simp] theorem linkEnable_frame (l : ℕ) (d : Dev) :
    (linkEnable l d).hostMem = d.hostMem ∧ (linkEnable l d).pwr.mode = d.pwr.mode ∧ (linkEnable l d).sec = d.sec ∧ (linkEnable l d).liveOld = d.liveOld ∧ (linkEnable l d).objs = d.objs := by
  simp [linkEnable]


@[simp] theorem linkData_frame (l : ℕ) (lat : ℕ) (d : Dev) :
    (linkData l lat d).hostMem = d.hostMem ∧ (linkData l lat d).sec = d.sec ∧ (linkData l lat d).liveOld = d.liveOld := by
  simp [linkData]


@[simp] theorem linkDeskewFault_frame (l : Fin 8) (arrive : List ℕ) (d : Dev) :
    (linkDeskewFault l arrive d).hostMem = d.hostMem ∧ (linkDeskewFault l arrive d).pwr.mode = d.pwr.mode ∧ (linkDeskewFault l arrive d).sec = d.sec ∧ (linkDeskewFault l arrive d).liveOld = d.liveOld ∧ (linkDeskewFault l arrive d).objs = d.objs := by
  simp [linkDeskewFault]


@[simp] theorem ilasReceived_frame (l : Fin 8) (i : Ilas) (arrive : List ℕ) (lat : ℕ) (d : Dev) :
    (ilasReceived l i arrive lat d).hostMem = d.hostMem ∧ (ilasReceived l i arrive lat d).sec = d.sec ∧ (ilasReceived l i arrive lat d).liveOld = d.liveOld := by
  simp [ilasReceived]


@[simp] theorem linkReinit_frame (l : Fin 8) (lost : ℕ) (d : Dev) :
    (linkReinit l lost d).hostMem = d.hostMem ∧ (linkReinit l lost d).sec = d.sec ∧ (linkReinit l lost d).liveOld = d.liveOld := by
  simp [linkReinit]


@[simp] theorem openLinkWin_frame (s : LinkSrc) (d : Dev) :
    (openLinkWin s d).hostMem = d.hostMem ∧ (openLinkWin s d).pwr.mode = d.pwr.mode ∧ (openLinkWin s d).sec = d.sec ∧ (openLinkWin s d).liveOld = d.liveOld ∧ (openLinkWin s d).objs = d.objs := by
  unfold openLinkWin; simp only []; (repeat' split) <;> simp_all


@[simp] theorem takeSamples_frame (s : LinkSrc) (per : ℕ) (val : ℕ → ℕ → ℕ) (bad : Bool) (t : ℕ) (d : Dev) :
    (takeSamples s per val bad t d).hostMem = d.hostMem ∧ (takeSamples s per val bad t d).pwr.mode = d.pwr.mode ∧ (takeSamples s per val bad t d).sec = d.sec ∧ (takeSamples s per val bad t d).liveOld = d.liveOld ∧ (takeSamples s per val bad t d).objs = d.objs := by
  unfold takeSamples; (repeat' split) <;> simp_all


@[simp] theorem jesdFrame_frame (l : Fin 8) (data : List (List ℕ)) (errs : List (Fin 32)) (t : ℕ) (d : Dev) :
    (jesdFrame l data errs t d).hostMem = d.hostMem ∧ (jesdFrame l data errs t d).sec = d.sec ∧ (jesdFrame l data errs t d).liveOld = d.liveOld := by
  simp [jesdFrame]


@[simp] theorem linkDisable_frame (l : Fin 8) (d : Dev) :
    (linkDisable l d).hostMem = d.hostMem ∧ (linkDisable l d).pwr.mode = d.pwr.mode ∧ (linkDisable l d).sec = d.sec ∧ (linkDisable l d).liveOld = d.liveOld ∧ (linkDisable l d).objs = d.objs := by
  simp [linkDisable]


@[simp] theorem jlkLinkApply_frame (l : Fin 8) (ws : List Word) (d : Dev) :
    (jlkLinkApply l ws d).hostMem = d.hostMem ∧ (jlkLinkApply l ws d).pwr.mode = d.pwr.mode ∧ (jlkLinkApply l ws d).sec = d.sec ∧ (jlkLinkApply l ws d).liveOld = d.liveOld := by
  simp [jlkLinkApply]


@[simp] theorem jlkRawApply_frame (g : ℕ) (ws : List Word) (d : Dev) :
    (jlkRawApply g ws d).hostMem = d.hostMem ∧ (jlkRawApply g ws d).pwr.mode = d.pwr.mode ∧ (jlkRawApply g ws d).sec = d.sec ∧ (jlkRawApply g ws d).liveOld = d.liveOld := by
  simp [jlkRawApply]


@[simp] theorem jlkStatusClear_frame (d : Dev) :
    (jlkStatusClear d).hostMem = d.hostMem ∧ (jlkStatusClear d).pwr.mode = d.pwr.mode ∧ (jlkStatusClear d).sec = d.sec ∧ (jlkStatusClear d).liveOld = d.liveOld ∧ (jlkStatusClear d).objs = d.objs := by
  simp [jlkStatusClear]


@[simp] theorem rawItem_frame (p : Fin 32) (g : ℕ) (bad : Bool) (t : ℕ) (w : ℕ) (d : Dev) :
    (rawItem p g bad t w d).hostMem = d.hostMem ∧ (rawItem p g bad t w d).pwr.mode = d.pwr.mode ∧ (rawItem p g bad t w d).sec = d.sec ∧ (rawItem p g bad t w d).liveOld = d.liveOld ∧ (rawItem p g bad t w d).objs = d.objs := by
  unfold rawItem; simp only []; (repeat' split) <;> simp_all


@[simp] theorem rawFrame_frame (p : Fin 32) (ws : List ℕ) (errs : List (Fin 32)) (t : ℕ) (d : Dev) :
    (rawFrame p ws errs t d).hostMem = d.hostMem ∧ (rawFrame p ws errs t d).pwr.mode = d.pwr.mode ∧ (rawFrame p ws errs t d).sec = d.sec ∧ (rawFrame p ws errs t d).liveOld = d.liveOld ∧ (rawFrame p ws errs t d).objs = d.objs := by
  unfold rawFrame; (repeat' split) <;> simp_all


@[simp] theorem linkFrame_frame (s : LinkSrc) (data : List (List ℕ)) (errs : List (Fin 32)) (t : ℕ) (d : Dev) :
    (linkFrame s data errs t d).hostMem = d.hostMem ∧ (linkFrame s data errs t d).sec = d.sec ∧ (linkFrame s data errs t d).liveOld = d.liveOld := by
  unfold linkFrame; (repeat' split) <;> simp_all


@[simp] theorem linkSyncLock_frame (l : ℕ) (kbps : ℕ) (d : Dev) :
    (linkSyncLock l kbps d).hostMem = d.hostMem ∧ (linkSyncLock l kbps d).pwr.mode = d.pwr.mode ∧ (linkSyncLock l kbps d).sec = d.sec ∧ (linkSyncLock l kbps d).liveOld = d.liveOld ∧ (linkSyncLock l kbps d).objs = d.objs := by
  simp [linkSyncLock]


@[simp] theorem linkWindowOpen_frame (s : LinkSrc) (mark : List ℕ) (t : ℕ) (d : Dev) :
    (linkWindowOpen s mark t d).hostMem = d.hostMem ∧ (linkWindowOpen s mark t d).pwr.mode = d.pwr.mode ∧ (linkWindowOpen s mark t d).sec = d.sec ∧ (linkWindowOpen s mark t d).liveOld = d.liveOld ∧ (linkWindowOpen s mark t d).objs = d.objs := by
  unfold linkWindowOpen; (repeat' split) <;> simp_all


@[simp] theorem rawAlign_frame (p : ℕ) (word : ℕ) (n : ℕ) (d : Dev) :
    (rawAlign p word n d).hostMem = d.hostMem ∧ (rawAlign p word n d).pwr.mode = d.pwr.mode ∧ (rawAlign p word n d).sec = d.sec ∧ (rawAlign p word n d).liveOld = d.liveOld ∧ (rawAlign p word n d).objs = d.objs := by
  unfold rawAlign; (repeat' split) <;> simp_all


@[simp] theorem rawAlignLost_frame (p : Fin 32) (d : Dev) :
    (rawAlignLost p d).hostMem = d.hostMem ∧ (rawAlignLost p d).pwr.mode = d.pwr.mode ∧ (rawAlignLost p d).sec = d.sec ∧ (rawAlignLost p d).liveOld = d.liveOld ∧ (rawAlignLost p d).objs = d.objs := by
  simp [rawAlignLost]


/-- A quantity that the parts of a SYSREF edge leave alone is left alone by it. -/
theorem sysrefEdge_keeps {α : Type} (p : Dev → α) (t : ℕ) (d : Dev) (ha : ∀ t d, p (Dev.at_ t d) = p d)
    (hj : ∀ f d, p (Dev.uJlk f d) = p d) (hl : ∀ k f d, p (updLink k f d) = p d) (hr : ∀ n d, p (raise n d) = p d) :
    p (sysrefEdge t d) = p d := by
  unfold sysrefEdge
  extract_lets d1 c
  rw [← ha t d]
  refine each_keeps p _ (fun l d => ?_) _ _
  dsimp only
  (repeat' split) <;> simp only [hl, hr, hj]

@[simp] theorem sysrefEdge_frame (t : ℕ) (d : Dev) :
    (sysrefEdge t d).hostMem = d.hostMem ∧ (sysrefEdge t d).pwr.mode = d.pwr.mode ∧ (sysrefEdge t d).sec = d.sec ∧ (sysrefEdge t d).liveOld = d.liveOld ∧ (sysrefEdge t d).objs = d.objs := by
  refine ⟨sysrefEdge_keeps (·.hostMem) _ _ ?_ ?_ ?_ ?_ , sysrefEdge_keeps (·.pwr.mode) _ _ ?_ ?_ ?_ ?_ , sysrefEdge_keeps (·.sec) _ _ ?_ ?_ ?_ ?_ , sysrefEdge_keeps (·.liveOld) _ _ ?_ ?_ ?_ ?_ , sysrefEdge_keeps (·.objs) _ _ ?_ ?_ ?_ ?_ ⟩ <;> intros <;> simp


end Sys2Proof.Laws
end

