-- ==== Sys2Proof/Laws/FrameSpindleCore.lean ====
section
/-! SUPPORT. What the operations of Sys2Proof/Machine/SpindleCore.lean leave alone of host memory (hostMem), the mode (pwr.mode), the security block (sec)
and the objects (objs, liveOld): one lemma per operation, saying of each that it changes none of those it names. -/

namespace Sys2Proof.Laws

open Sys2Proof.Machine

@[simp] theorem fcPulse_frame (arg : ℕ) (t : ℕ) (d : Dev) :
    (fcPulse arg t d).hostMem = d.hostMem ∧ (fcPulse arg t d).pwr.mode = d.pwr.mode ∧ (fcPulse arg t d).sec = d.sec ∧ (fcPulse arg t d).liveOld = d.liveOld ∧ (fcPulse arg t d).objs = d.objs := by
  simp [fcPulse]


@[simp] theorem trigOut_frame (arg : ℕ) (t : ℕ) (d : Dev) :
    (trigOut arg t d).hostMem = d.hostMem ∧ (trigOut arg t d).pwr.mode = d.pwr.mode ∧ (trigOut arg t d).sec = d.sec ∧ (trigOut arg t d).liveOld = d.liveOld ∧ (trigOut arg t d).objs = d.objs := by
  simp [trigOut]


@[simp] theorem fireEntry_frame (k : ℕ) (ph : ℕ) (i : ℕ) (t : ℕ) (d : Dev) :
    (fireEntry k ph i t d).hostMem = d.hostMem ∧ (fireEntry k ph i t d).pwr.mode = d.pwr.mode ∧ (fireEntry k ph i t d).sec = d.sec ∧ (fireEntry k ph i t d).liveOld = d.liveOld := by
  unfold fireEntry; simp only []; (repeat' split) <;> simp_all


@[simp] theorem sendLineBlock_frame (k : ℕ) (pos : ℤ) (t : ℕ) (abort : Bool) (d : Dev) :
    (sendLineBlock k pos t abort d).hostMem = d.hostMem ∧ (sendLineBlock k pos t abort d).pwr.mode = d.pwr.mode ∧ (sendLineBlock k pos t abort d).sec = d.sec ∧ (sendLineBlock k pos t abort d).liveOld = d.liveOld ∧ (sendLineBlock k pos t abort d).objs = d.objs := by
  simp [sendLineBlock]


@[simp] theorem abortLine_frame (t : ℕ) (d : Dev) :
    (abortLine t d).hostMem = d.hostMem ∧ (abortLine t d).pwr.mode = d.pwr.mode ∧ (abortLine t d).sec = d.sec ∧ (abortLine t d).liveOld = d.liveOld := by
  unfold abortLine; simp only []; (repeat' split) <;> simp_all


@[simp] theorem scanFault_frame (src : ℕ) (d : Dev) :
    (scanFault src d).hostMem = d.hostMem ∧ (scanFault src d).sec = d.sec ∧ (scanFault src d).liveOld = d.liveOld := by
  simp [scanFault]


@[simp] theorem positionBack_frame (d : Dev) :
    (positionBack d).hostMem = d.hostMem ∧ (positionBack d).pwr.mode = d.pwr.mode ∧ (positionBack d).sec = d.sec ∧ (positionBack d).liveOld = d.liveOld ∧ (positionBack d).objs = d.objs := by
  simp [positionBack]


@[simp] theorem declareReversal_frame (t : ℕ) (d : Dev) :
    (declareReversal t d).hostMem = d.hostMem ∧ (declareReversal t d).pwr.mode = d.pwr.mode ∧ (declareReversal t d).sec = d.sec ∧ (declareReversal t d).liveOld = d.liveOld := by
  simp [declareReversal]


@[simp] theorem encFault_frame (n : ℕ) (d : Dev) :
    (encFault n d).hostMem = d.hostMem ∧ (encFault n d).sec = d.sec ∧ (encFault n d).liveOld = d.liveOld := by
  simp [encFault]


/-- A quantity that the parts of a source's move leave alone is left alone by it. -/
theorem sourceMoved_keeps {α : Type} (p : Dev → α) (t : ℕ) (d : Dev) (hr : ∀ n d, p (raise n d) = p d)
    (hs : ∀ f d, p (Dev.uSpn f d) = p d) (hd : ∀ t d, p (declareReversal t d) = p d) : p (sourceMoved t d) = p d := by
  unfold sourceMoved
  extract_lets o d1 d2 x d3 d4
  have h1 : p d1 = p d := by simp only [d1]; split <;> simp only [hr]
  have h2 : p d2 = p d := by simp only [d2, hs, h1]
  have h3 : p d3 = p d := by simp only [d3]; split <;> simp only [hs, h2]
  have h4 : p d4 = p d := by simp only [d4]; (repeat' split) <;> simp only [hs, h3]
  clear_value d4 d3 d2 d1 x
  (repeat' split) <;> simp only [hs, hd, h4, h2]

@[simp] theorem sourceMoved_frame (t : ℕ) (d : Dev) :
    (sourceMoved t d).hostMem = d.hostMem ∧ (sourceMoved t d).pwr.mode = d.pwr.mode ∧ (sourceMoved t d).sec = d.sec ∧ (sourceMoved t d).liveOld = d.liveOld := by
  refine ⟨sourceMoved_keeps (·.hostMem) _ _ ?_ ?_ ?_, sourceMoved_keeps (·.pwr.mode) _ _ ?_ ?_ ?_, sourceMoved_keeps (·.sec) _ _ ?_ ?_ ?_, sourceMoved_keeps (·.liveOld) _ _ ?_ ?_ ?_⟩ <;> intros <;> simp


@[simp] theorem entryDone_frame (k : ℕ) (d : Dev) :
    (entryDone k d).hostMem = d.hostMem ∧ (entryDone k d).pwr.mode = d.pwr.mode ∧ (entryDone k d).sec = d.sec ∧ (entryDone k d).liveOld = d.liveOld ∧ (entryDone k d).objs = d.objs := by
  simp [entryDone]


@[simp] theorem templateEvent_frame (target : ℕ) (t : ℕ) (i : ℕ) (d : Dev) :
    (templateEvent target t i d).hostMem = d.hostMem ∧ (templateEvent target t i d).pwr.mode = d.pwr.mode ∧ (templateEvent target t i d).sec = d.sec ∧ (templateEvent target t i d).liveOld = d.liveOld := by
  unfold templateEvent; (repeat' split) <;> simp_all


end Sys2Proof.Laws
end

