-- ==== Sys2Proof/Laws/FrameSpindle.lean ====
section
/-! SUPPORT. What the operations of Sys2Proof/Machine/Spindle.lean leave alone of host memory (hostMem), the mode (pwr.mode), the security block (sec)
and the objects (objs, liveOld): one lemma per operation, saying of each that it changes none of those it names. -/

namespace Sys2Proof.Laws

open Sys2Proof.Machine

@[simp] theorem tablesLive_frame (d : Dev) :
    (tablesLive d).hostMem = d.hostMem ∧ (tablesLive d).pwr.mode = d.pwr.mode ∧ (tablesLive d).sec = d.sec ∧ (tablesLive d).liveOld = d.liveOld ∧ (tablesLive d).objs = d.objs := by
  simp [tablesLive]


@[simp] theorem templateLive_frame (k : ℕ) (d : Dev) :
    (templateLive k d).hostMem = d.hostMem ∧ (templateLive k d).pwr.mode = d.pwr.mode ∧ (templateLive k d).sec = d.sec ∧ (templateLive k d).objs = d.objs := by
  simp [templateLive]


@[simp] theorem allLive_frame (d : Dev) :
    (allLive d).hostMem = d.hostMem ∧ (allLive d).pwr.mode = d.pwr.mode ∧ (allLive d).sec = d.sec ∧ (allLive d).objs = d.objs := by
  simp [allLive]


@[simp] theorem boundaryLive_frame (k : ℕ) (t : ℕ) (d : Dev) :
    (boundaryLive k t d).hostMem = d.hostMem ∧ (boundaryLive k t d).pwr.mode = d.pwr.mode ∧ (boundaryLive k t d).sec = d.sec ∧ (boundaryLive k t d).objs = d.objs := by
  simp [boundaryLive]


@[simp] theorem spnReady_frame (fromCal : Bool) (d : Dev) :
    (spnReady fromCal d).hostMem = d.hostMem ∧ (spnReady fromCal d).pwr.mode = d.pwr.mode ∧ (spnReady fromCal d).sec = d.sec ∧ (spnReady fromCal d).objs = d.objs := by
  simp [spnReady]


@[simp] theorem spnReset_frame (d : Dev) :
    (spnReset d).hostMem = d.hostMem ∧ (spnReset d).sec = d.sec ∧ (spnReset d).liveOld = d.liveOld := by
  unfold spnReset; simp only []; (repeat' split) <;> simp_all


@[simp] theorem lsEdge_frame (t : ℕ) (d : Dev) :
    (lsEdge t d).hostMem = d.hostMem ∧ (lsEdge t d).pwr.mode = d.pwr.mode ∧ (lsEdge t d).sec = d.sec ∧ (lsEdge t d).liveOld = d.liveOld ∧ (lsEdge t d).objs = d.objs := by
  unfold lsEdge; (repeat' split) <;> simp_all


@[simp] theorem linePredicted_frame (t : ℕ) (d : Dev) :
    (linePredicted t d).hostMem = d.hostMem ∧ (linePredicted t d).pwr.mode = d.pwr.mode ∧ (linePredicted t d).sec = d.sec ∧ (linePredicted t d).liveOld = d.liveOld ∧ (linePredicted t d).objs = d.objs := by
  unfold linePredicted; (repeat' split) <;> simp_all


@[simp] theorem portCount_frame (n : ℕ) (c : ℤ) (t : ℕ) (d : Dev) :
    (portCount n c t d).hostMem = d.hostMem ∧ (portCount n c t d).pwr.mode = d.pwr.mode ∧ (portCount n c t d).sec = d.sec ∧ (portCount n c t d).liveOld = d.liveOld := by
  simp [portCount]


@[simp] theorem encEdge_frame (n : ℕ) (a : Bool) (b : Bool) (t : ℕ) (d : Dev) :
    (encEdge n a b t d).hostMem = d.hostMem ∧ (encEdge n a b t d).sec = d.sec ∧ (encEdge n a b t d).liveOld = d.liveOld := by
  unfold encEdge
  extract_lets d1 old was chA chB d2
  have h_d1 : d1.hostMem = d.hostMem ∧ d1.sec = d.sec ∧ d1.liveOld = d.liveOld := by simp only [d1]; (repeat' split) <;> simp []
  clear_value d1
  clear_value old
  clear_value chA
  clear_value chB
  have h_d2 : d2.hostMem = d.hostMem ∧ d2.sec = d.sec ∧ d2.liveOld = d.liveOld := by simp only [d2]; (repeat' split) <;> simp [h_d1]
  clear_value d2
  split
  · simp
  · split
    · exact h_d1
    · split
      · split
        · simp [h_d2]
        · (repeat' split) <;> simp [h_d2]
      · exact h_d2


@[simp] theorem encPairStuck_frame (n : ℕ) (d : Dev) :
    (encPairStuck n d).hostMem = d.hostMem ∧ (encPairStuck n d).sec = d.sec ∧ (encPairStuck n d).liveOld = d.liveOld := by
  simp [encPairStuck]


@[simp] theorem skipLines_frame (k : ℕ) (d : Dev) :
    (skipLines k d).hostMem = d.hostMem ∧ (skipLines k d).pwr.mode = d.pwr.mode ∧ (skipLines k d).sec = d.sec ∧ (skipLines k d).liveOld = d.liveOld ∧ (skipLines k d).objs = d.objs := by
  simp [skipLines]


@[simp] theorem lineStartBlocks_frame (k : ℕ) (boundary : Bool) (t : ℕ) (d : Dev) :
    (lineStartBlocks k boundary t d).hostMem = d.hostMem ∧ (lineStartBlocks k boundary t d).pwr.mode = d.pwr.mode ∧ (lineStartBlocks k boundary t d).sec = d.sec ∧ (lineStartBlocks k boundary t d).objs = d.objs := by
  simp [lineStartBlocks]


@[simp] theorem startLine_frame (k : ℕ) (pos : ℤ) (t : ℕ) (d : Dev) :
    (startLine k pos t d).hostMem = d.hostMem ∧ (startLine k pos t d).sec = d.sec ∧ (startLine k pos t d).objs = d.objs := by
  simp [startLine]


@[simp] theorem followedLineStart_frame (t : ℕ) (d : Dev) :
    (followedLineStart t d).hostMem = d.hostMem ∧ (followedLineStart t d).sec = d.sec ∧ (followedLineStart t d).objs = d.objs := by
  unfold followedLineStart; simp only []; (repeat' split) <;> simp_all


@[simp] theorem ownLineStart_frame (t : ℕ) (d : Dev) :
    (ownLineStart t d).hostMem = d.hostMem ∧ (ownLineStart t d).sec = d.sec ∧ (ownLineStart t d).objs = d.objs := by
  unfold ownLineStart; simp only []; (repeat' split) <;> simp_all


@[simp] theorem lineStart_frame (t : ℕ) (d : Dev) :
    (lineStart t d).hostMem = d.hostMem ∧ (lineStart t d).sec = d.sec ∧ (lineStart t d).objs = d.objs := by
  simp [lineStart]


@[simp] theorem spnStart_frame (d : Dev) :
    (spnStart d).hostMem = d.hostMem ∧ (spnStart d).pwr.mode = d.pwr.mode ∧ (spnStart d).sec = d.sec ∧ (spnStart d).liveOld = d.liveOld ∧ (spnStart d).objs = d.objs := by
  simp [spnStart]


@[simp] theorem spnCtlApply_frame (ws : List Word) (d : Dev) :
    (spnCtlApply ws d).hostMem = d.hostMem ∧ (spnCtlApply ws d).pwr.mode = d.pwr.mode ∧ (spnCtlApply ws d).sec = d.sec ∧ (spnCtlApply ws d).liveOld = d.liveOld := by
  unfold spnCtlApply; simp only []; (repeat' split) <;> simp_all


@[simp] theorem spnPortApply_frame (n : ℕ) (ws : List Word) (d : Dev) :
    (spnPortApply n ws d).hostMem = d.hostMem ∧ (spnPortApply n ws d).pwr.mode = d.pwr.mode ∧ (spnPortApply n ws d).sec = d.sec ∧ (spnPortApply n ws d).liveOld = d.liveOld := by
  simp [spnPortApply]


@[simp] theorem spnStatusClear_frame (d : Dev) :
    (spnStatusClear d).hostMem = d.hostMem ∧ (spnStatusClear d).pwr.mode = d.pwr.mode ∧ (spnStatusClear d).sec = d.sec ∧ (spnStatusClear d).liveOld = d.liveOld ∧ (spnStatusClear d).objs = d.objs := by
  simp [spnStatusClear]


@[simp] theorem ssiFrame_frame (n : ℕ) (raw : ℕ) (t : ℕ) (d : Dev) :
    (ssiFrame n raw t d).hostMem = d.hostMem ∧ (ssiFrame n raw t d).sec = d.sec ∧ (ssiFrame n raw t d).liveOld = d.liveOld := by
  simp [ssiFrame]


@[simp] theorem stbClk_frame (d : Dev) :
    (stbClk d).hostMem = d.hostMem ∧ (stbClk d).pwr.mode = d.pwr.mode ∧ (stbClk d).sec = d.sec ∧ (stbClk d).liveOld = d.liveOld ∧ (stbClk d).objs = d.objs := by
  simp [stbClk]


@[simp] theorem stbFall_frame (t : ℕ) (d : Dev) :
    (stbFall t d).hostMem = d.hostMem ∧ (stbFall t d).pwr.mode = d.pwr.mode ∧ (stbFall t d).sec = d.sec ∧ (stbFall t d).liveOld = d.liveOld ∧ (stbFall t d).objs = d.objs := by
  simp [stbFall]


@[simp] theorem stbRise_frame (d : Dev) :
    (stbRise d).hostMem = d.hostMem ∧ (stbRise d).pwr.mode = d.pwr.mode ∧ (stbRise d).sec = d.sec ∧ (stbRise d).liveOld = d.liveOld ∧ (stbRise d).objs = d.objs := by
  simp [stbRise]


@[simp] theorem zFaultOf_frame (n : ℕ) (d : Dev) :
    (zFaultOf n d).hostMem = d.hostMem ∧ (zFaultOf n d).pwr.mode = d.pwr.mode ∧ (zFaultOf n d).sec = d.sec ∧ (zFaultOf n d).liveOld = d.liveOld ∧ (zFaultOf n d).objs = d.objs := by
  simp [zFaultOf]


@[simp] theorem zMissing_frame (n : ℕ) (d : Dev) :
    (zMissing n d).hostMem = d.hostMem ∧ (zMissing n d).pwr.mode = d.pwr.mode ∧ (zMissing n d).sec = d.sec ∧ (zMissing n d).liveOld = d.liveOld ∧ (zMissing n d).objs = d.objs := by
  unfold zMissing; (repeat' split) <;> simp_all


@[simp] theorem zPulse_frame (n : ℕ) (t : ℕ) (d : Dev) :
    (zPulse n t d).hostMem = d.hostMem ∧ (zPulse n t d).pwr.mode = d.pwr.mode ∧ (zPulse n t d).sec = d.sec ∧ (zPulse n t d).liveOld = d.liveOld := by
  unfold zPulse; simp only []; (repeat' split) <;> simp_all


end Sys2Proof.Laws
end

