-- ==== Sys2Proof/Laws/FrameKarum.lean ====
section
/-! SUPPORT. What the operations of Sys2Proof/Machine/Karum.lean leave alone of host memory (hostMem), the mode (pwr.mode), the security block (sec)
and the objects (objs, liveOld): one lemma per operation, saying of each that it changes none of those it names. -/

namespace Sys2Proof.Laws

open Sys2Proof.Machine

@[simp] theorem ackUpTo_frame (p : ℕ) (a : ℕ) (d : Dev) :
    (ackUpTo p a d).hostMem = d.hostMem ∧ (ackUpTo p a d).pwr.mode = d.pwr.mode ∧ (ackUpTo p a d).sec = d.sec ∧ (ackUpTo p a d).liveOld = d.liveOld ∧ (ackUpTo p a d).objs = d.objs := by
  unfold ackUpTo; (repeat' split) <;> simp_all


@[simp] theorem askAgain_frame (d : Dev) :
    (askAgain d).hostMem = d.hostMem ∧ (askAgain d).pwr.mode = d.pwr.mode ∧ (askAgain d).sec = d.sec ∧ (askAgain d).liveOld = d.liveOld ∧ (askAgain d).objs = d.objs := by
  simp [askAgain]


@[simp] theorem calDelay_frame (c : MnrCmd) (delays : List ℕ) (d : Dev) :
    (calDelay c delays d).hostMem = d.hostMem ∧ (calDelay c delays d).pwr.mode = d.pwr.mode ∧ (calDelay c delays d).sec = d.sec ∧ (calDelay c delays d).liveOld = d.liveOld ∧ (calDelay c delays d).objs = d.objs := by
  unfold calDelay
  refine ⟨command_hostMem _ _ _ _ ?_, command_mode _ _ _ _ ?_, command_sec _ _ _ _ ?_, command_liveOld _ _ _ _ ?_, command_objs _ _ _ _ ?_⟩ <;> intro t d <;> (first | refine checked_hostMem _ _ _ _ ?_ | refine checked_mode _ _ _ _ ?_ | refine checked_sec _ _ _ _ ?_ | refine checked_liveOld _ _ _ _ ?_ | refine checked_objs _ _ _ _ ?_) <;> intro d <;> simp


@[simp] theorem setMembers_frame (l : List Member) (d : Dev) :
    (setMembers l d).hostMem = d.hostMem ∧ (setMembers l d).pwr.mode = d.pwr.mode ∧ (setMembers l d).sec = d.sec ∧ (setMembers l d).liveOld = d.liveOld ∧ (setMembers l d).objs = d.objs := by
  simp [setMembers]


@[simp] theorem decideJoin_frame (r : ℕ × ℕ × ℕ) (d : Dev) :
    (decideJoin r d).hostMem = d.hostMem ∧ (decideJoin r d).pwr.mode = d.pwr.mode ∧ (decideJoin r d).sec = d.sec ∧ (decideJoin r d).liveOld = d.liveOld ∧ (decideJoin r d).objs = d.objs := by
  unfold decideJoin; simp only []; (repeat' split) <;> simp_all


@[simp] theorem joinEnds_frame (status : ℕ) (detail : ℕ) (d : Dev) :
    (joinEnds status detail d).hostMem = d.hostMem ∧ (joinEnds status detail d).pwr.mode = d.pwr.mode ∧ (joinEnds status detail d).sec = d.sec ∧ (joinEnds status detail d).liveOld = d.liveOld ∧ (joinEnds status detail d).objs = d.objs := by
  unfold joinEnds; (repeat' split) <;> simp_all


@[simp] theorem leaveGroup_frame (d : Dev) :
    (leaveGroup d).hostMem = d.hostMem ∧ (leaveGroup d).pwr.mode = d.pwr.mode ∧ (leaveGroup d).sec = d.sec ∧ (leaveGroup d).liveOld = d.liveOld ∧ (leaveGroup d).objs = d.objs := by
  simp [leaveGroup]


@[simp] theorem linkDown_frame (p : ℕ) (d : Dev) :
    (linkDown p d).hostMem = d.hostMem ∧ (linkDown p d).sec = d.sec ∧ (linkDown p d).liveOld = d.liveOld := by
  simp [linkDown]


@[simp] theorem krmReset_frame (d : Dev) :
    (krmReset d).hostMem = d.hostMem ∧ (krmReset d).sec = d.sec ∧ (krmReset d).liveOld = d.liveOld := by
  simp [krmReset]


@[simp] theorem grantCredits_frame (p : ℕ) (d : Dev) :
    (grantCredits p d).hostMem = d.hostMem ∧ (grantCredits p d).pwr.mode = d.pwr.mode ∧ (grantCredits p d).sec = d.sec ∧ (grantCredits p d).liveOld = d.liveOld ∧ (grantCredits p d).objs = d.objs := by
  simp [grantCredits]


@[simp] theorem useSpare_frame (p : ℕ) (l : ℕ) (d : Dev) :
    (useSpare p l d).hostMem = d.hostMem ∧ (useSpare p l d).pwr.mode = d.pwr.mode ∧ (useSpare p l d).sec = d.sec ∧ (useSpare p l d).liveOld = d.liveOld ∧ (useSpare p l d).objs = d.objs := by
  simp [useSpare]


@[simp] theorem useThree_frame (p : ℕ) (d : Dev) :
    (useThree p d).hostMem = d.hostMem ∧ (useThree p d).sec = d.sec ∧ (useThree p d).liveOld = d.liveOld := by
  simp [useThree]


@[simp] theorem krmLinkUp_frame (p : ℕ) (d : Dev) :
    (krmLinkUp p d).hostMem = d.hostMem ∧ (krmLinkUp p d).sec = d.sec ∧ (krmLinkUp p d).liveOld = d.liveOld := by
  unfold krmLinkUp; simp only []; (repeat' split) <;> simp_all


@[simp] theorem sendDisc_frame (p : ℕ) (reply : Bool) (d : Dev) :
    (sendDisc p reply d).hostMem = d.hostMem ∧ (sendDisc p reply d).pwr.mode = d.pwr.mode ∧ (sendDisc p reply d).sec = d.sec ∧ (sendDisc p reply d).liveOld = d.liveOld ∧ (sendDisc p reply d).objs = d.objs := by
  simp [sendDisc]


@[simp] theorem setNeighbour_frame (p : ℕ) (uid : ℕ) (addr : ℕ) (port : ℕ) (d : Dev) :
    (setNeighbour p uid addr port d).hostMem = d.hostMem ∧ (setNeighbour p uid addr port d).pwr.mode = d.pwr.mode ∧ (setNeighbour p uid addr port d).sec = d.sec ∧ (setNeighbour p uid addr port d).liveOld = d.liveOld ∧ (setNeighbour p uid addr port d).objs = d.objs := by
  simp [setNeighbour]


@[simp] theorem fabDiscover_frame (c : MnrCmd) (up : ℕ) (nb : List (Fin 4 × ℕ × ℕ × Fin 4)) (d : Dev) :
    (fabDiscover c up nb d).hostMem = d.hostMem ∧ (fabDiscover c up nb d).sec = d.sec ∧ (fabDiscover c up nb d).liveOld = d.liveOld := by
  unfold fabDiscover
  refine ⟨command_hostMem _ _ _ _ ?_, command_sec _ _ _ _ ?_, command_liveOld _ _ _ _ ?_⟩ <;> intro t d <;> (first | refine checked_hostMem _ _ _ _ ?_ | refine checked_sec _ _ _ _ ?_ | refine checked_liveOld _ _ _ _ ?_) <;> intro d <;> simp only [finish_frame, raise_frame] <;> (first | refine each_hostMem _ ?_ _ _ | refine each_sec _ ?_ _ _ | refine each_liveOld _ ?_ _ _) <;> intro q d <;> (try dsimp only) <;> (repeat' split) <;> simp


@[simp] theorem followVhat_frame (b : LineBlk) (d : Dev) :
    (followVhat b d).hostMem = d.hostMem ∧ (followVhat b d).pwr.mode = d.pwr.mode ∧ (followVhat b d).sec = d.sec ∧ (followVhat b d).liveOld = d.liveOld ∧ (followVhat b d).objs = d.objs := by
  simp [followVhat]


@[simp] theorem groupJoin_frame (c : MnrCmd) (d : Dev) :
    (groupJoin c d).hostMem = d.hostMem ∧ (groupJoin c d).pwr.mode = d.pwr.mode ∧ (groupJoin c d).sec = d.sec ∧ (groupJoin c d).liveOld = d.liveOld ∧ (groupJoin c d).objs = d.objs := by
  simp [groupJoin]


@[simp] theorem groupJoinTimeout_frame (d : Dev) :
    (groupJoinTimeout d).hostMem = d.hostMem ∧ (groupJoinTimeout d).pwr.mode = d.pwr.mode ∧ (groupJoinTimeout d).sec = d.sec ∧ (groupJoinTimeout d).liveOld = d.liveOld ∧ (groupJoinTimeout d).objs = d.objs := by
  simp [groupJoinTimeout]


@[simp] theorem groupLeave_frame (c : MnrCmd) (d : Dev) :
    (groupLeave c d).hostMem = d.hostMem ∧ (groupLeave c d).pwr.mode = d.pwr.mode ∧ (groupLeave c d).sec = d.sec ∧ (groupLeave c d).liveOld = d.liveOld ∧ (groupLeave c d).objs = d.objs := by
  simp [groupLeave]


/-- A quantity that the parts of receiving a block leave alone is left alone by it. -/
theorem receive_keeps {α : Type} (p : Dev → α) (h : KHdr) (link disc : Bool) (b : KBlock) (accept : Dev → Dev) (d : Dev)
    (hx : ∀ d, p (accept d) = p d) (hu : ∀ n f d, p (updPort n f d) = p d) (hk : ∀ f d, p (Dev.uKrm f d) = p d)
    (hs : ∀ n b d, p (sendOn n b d) = p d) (hm : ∀ n b d, p (sendMask n b d) = p d) (ht : ∀ b d, p (sendTo b d) = p d)
    (ha : ∀ n a d, p (ackUpTo n a d) = p d) : p (receive h link disc b accept d) = p d := by
  unfold receive
  extract_lets q x d1 b2 d2 d3 d4
  have h1 : p d1 = p d := by simp only [d1]; split <;> simp only [hu]
  have h2 : p d2 = p d := by simp only [d2, hu]
  have h3 : p d3 = p d := by simp only [d3]; (repeat' split) <;> simp only [ha, h2]
  have h4 : p d4 = p d := by simp only [d4, hx, h3]
  clear_value d4 d3 d2 d1
  (repeat' split) <;> simp only [hx, hs, hu, hk, hm, ht, h1, h3, h4]

@[simp] theorem receive_hostMem (h : KHdr) (link : Bool) (disc : Bool) (b : KBlock) (accept : Dev → Dev) (d : Dev) (h0 : ∀ d, (accept  d).hostMem = d.hostMem) : (receive h link disc b accept d).hostMem = d.hostMem := by
  refine receive_keeps (·.hostMem) _ _ _ _ _ _ h0 ?_ ?_ ?_ ?_ ?_ ?_ <;> intros <;> simp

@[simp] theorem receive_mode (h : KHdr) (link : Bool) (disc : Bool) (b : KBlock) (accept : Dev → Dev) (d : Dev) (h0 : ∀ d, (accept  d).pwr.mode = d.pwr.mode) : (receive h link disc b accept d).pwr.mode = d.pwr.mode := by
  refine receive_keeps (·.pwr.mode) _ _ _ _ _ _ h0 ?_ ?_ ?_ ?_ ?_ ?_ <;> intros <;> simp

@[simp] theorem receive_sec (h : KHdr) (link : Bool) (disc : Bool) (b : KBlock) (accept : Dev → Dev) (d : Dev) (h0 : ∀ d, (accept  d).sec = d.sec) : (receive h link disc b accept d).sec = d.sec := by
  refine receive_keeps (·.sec) _ _ _ _ _ _ h0 ?_ ?_ ?_ ?_ ?_ ?_ <;> intros <;> simp

@[simp] theorem receive_liveOld (h : KHdr) (link : Bool) (disc : Bool) (b : KBlock) (accept : Dev → Dev) (d : Dev) (h0 : ∀ d, (accept  d).liveOld = d.liveOld) : (receive h link disc b accept d).liveOld = d.liveOld := by
  refine receive_keeps (·.liveOld) _ _ _ _ _ _ h0 ?_ ?_ ?_ ?_ ?_ ?_ <;> intros <;> simp

@[simp] theorem receive_objs (h : KHdr) (link : Bool) (disc : Bool) (b : KBlock) (accept : Dev → Dev) (d : Dev) (h0 : ∀ d, (accept  d).objs = d.objs) : (receive h link disc b accept d).objs = d.objs := by
  refine receive_keeps (·.objs) _ _ _ _ _ _ h0 ?_ ?_ ?_ ?_ ?_ ?_ <;> intros <;> simp


@[simp] theorem krmAckBlock_frame (h : KHdr) (a : ℕ) (d : Dev) :
    (krmAckBlock h a d).hostMem = d.hostMem ∧ (krmAckBlock h a d).pwr.mode = d.pwr.mode ∧ (krmAckBlock h a d).sec = d.sec ∧ (krmAckBlock h a d).liveOld = d.liveOld ∧ (krmAckBlock h a d).objs = d.objs := by
  simp [krmAckBlock]


@[simp] theorem krmAckTimer_frame (p : ℕ) (d : Dev) :
    (krmAckTimer p d).hostMem = d.hostMem ∧ (krmAckTimer p d).pwr.mode = d.pwr.mode ∧ (krmAckTimer p d).sec = d.sec ∧ (krmAckTimer p d).liveOld = d.liveOld ∧ (krmAckTimer p d).objs = d.objs := by
  simp [krmAckTimer]


@[simp] theorem krmConfirmBlock_frame (h : KHdr) (k : ℕ) (again : Bool) (d : Dev) :
    (krmConfirmBlock h k again d).hostMem = d.hostMem ∧ (krmConfirmBlock h k again d).pwr.mode = d.pwr.mode ∧ (krmConfirmBlock h k again d).sec = d.sec ∧ (krmConfirmBlock h k again d).liveOld = d.liveOld ∧ (krmConfirmBlock h k again d).objs = d.objs := by
  simp [krmConfirmBlock]


@[simp] theorem krmCreditBlock_frame (h : KHdr) (q : ℕ) (n : ℕ) (d : Dev) :
    (krmCreditBlock h q n d).hostMem = d.hostMem ∧ (krmCreditBlock h q n d).pwr.mode = d.pwr.mode ∧ (krmCreditBlock h q n d).sec = d.sec ∧ (krmCreditBlock h q n d).liveOld = d.liveOld ∧ (krmCreditBlock h q n d).objs = d.objs := by
  simp [krmCreditBlock]


@[simp] theorem krmCtlApply_frame (ws : List Word) (d : Dev) :
    (krmCtlApply ws d).hostMem = d.hostMem ∧ (krmCtlApply ws d).sec = d.sec ∧ (krmCtlApply ws d).liveOld = d.liveOld := by
  simp [krmCtlApply]


@[simp] theorem krmDataBlock_frame (h : KHdr) (q : ℕ) (end_ : Bool) (abort : Bool) (d : Dev) :
    (krmDataBlock h q end_ abort d).hostMem = d.hostMem ∧ (krmDataBlock h q end_ abort d).sec = d.sec ∧ (krmDataBlock h q end_ abort d).liveOld = d.liveOld := by
  simp [krmDataBlock]


@[simp] theorem krmDiscBlock_frame (h : KHdr) (uid : ℕ) (addr : ℕ) (port : ℕ) (reply : Bool) (d : Dev) :
    (krmDiscBlock h uid addr port reply d).hostMem = d.hostMem ∧ (krmDiscBlock h uid addr port reply d).pwr.mode = d.pwr.mode ∧ (krmDiscBlock h uid addr port reply d).sec = d.sec ∧ (krmDiscBlock h uid addr port reply d).liveOld = d.liveOld ∧ (krmDiscBlock h uid addr port reply d).objs = d.objs := by
  simp [krmDiscBlock]


@[simp] theorem krmGroupBlock_frame (h : KHdr) (m : GroupMsg) (d : Dev) :
    (krmGroupBlock h m d).hostMem = d.hostMem ∧ (krmGroupBlock h m d).pwr.mode = d.pwr.mode ∧ (krmGroupBlock h m d).sec = d.sec ∧ (krmGroupBlock h m d).liveOld = d.liveOld ∧ (krmGroupBlock h m d).objs = d.objs := by
  unfold krmGroupBlock
  refine ⟨receive_hostMem _ _ _ _ _ _ ?_, receive_mode _ _ _ _ _ _ ?_, receive_sec _ _ _ _ _ _ ?_, receive_liveOld _ _ _ _ _ _ ?_, receive_objs _ _ _ _ _ _ ?_⟩ <;> intro d <;> cases m <;> (try dsimp only) <;> (repeat' split) <;> simp


@[simp] theorem krmHeartbeat_frame (d : Dev) :
    (krmHeartbeat d).hostMem = d.hostMem ∧ (krmHeartbeat d).pwr.mode = d.pwr.mode ∧ (krmHeartbeat d).sec = d.sec ∧ (krmHeartbeat d).liveOld = d.liveOld ∧ (krmHeartbeat d).objs = d.objs := by
  simp [krmHeartbeat]


@[simp] theorem krmLaneFail_frame (p : ℕ) (l : ℕ) (d : Dev) :
    (krmLaneFail p l d).hostMem = d.hostMem ∧ (krmLaneFail p l d).sec = d.sec ∧ (krmLaneFail p l d).liveOld = d.liveOld := by
  simp [krmLaneFail]


@[simp] theorem krmLineBlock_frame (h : KHdr) (b : LineBlk) (t : ℕ) (d : Dev) :
    (krmLineBlock h b t d).hostMem = d.hostMem ∧ (krmLineBlock h b t d).pwr.mode = d.pwr.mode ∧ (krmLineBlock h b t d).sec = d.sec ∧ (krmLineBlock h b t d).liveOld = d.liveOld := by
  unfold krmLineBlock
  refine ⟨receive_hostMem _ _ _ _ _ _ ?_, receive_mode _ _ _ _ _ _ ?_, receive_sec _ _ _ _ _ _ ?_, receive_liveOld _ _ _ _ _ _ ?_⟩ <;> intro d <;> dsimp only <;> (repeat' split) <;> simp


@[simp] theorem timeUnlock_frame (d : Dev) :
    (timeUnlock d).hostMem = d.hostMem ∧ (timeUnlock d).sec = d.sec ∧ (timeUnlock d).liveOld = d.liveOld := by
  simp [timeUnlock]


@[simp] theorem krmMasterLost_frame (d : Dev) :
    (krmMasterLost d).hostMem = d.hostMem ∧ (krmMasterLost d).sec = d.sec ∧ (krmMasterLost d).liveOld = d.liveOld := by
  simp [krmMasterLost]


@[simp] theorem krmMemberSilent_frame (a : ℕ) (d : Dev) :
    (krmMemberSilent a d).hostMem = d.hostMem ∧ (krmMemberSilent a d).pwr.mode = d.pwr.mode ∧ (krmMemberSilent a d).sec = d.sec ∧ (krmMemberSilent a d).liveOld = d.liveOld ∧ (krmMemberSilent a d).objs = d.objs := by
  simp [krmMemberSilent]


@[simp] theorem replay_frame (p : ℕ) (d : Dev) :
    (replay p d).hostMem = d.hostMem ∧ (replay p d).sec = d.sec ∧ (replay p d).liveOld = d.liveOld := by
  simp [replay]


@[simp] theorem krmNakBlock_frame (h : KHdr) (e : ℕ) (d : Dev) :
    (krmNakBlock h e d).hostMem = d.hostMem ∧ (krmNakBlock h e d).sec = d.sec ∧ (krmNakBlock h e d).liveOld = d.liveOld := by
  simp [krmNakBlock]


@[simp] theorem krmPaceBlock_frame (h : KHdr) (vd : ℕ) (xoff : Bool) (restart : Option ℕ) (d : Dev) :
    (krmPaceBlock h vd xoff restart d).hostMem = d.hostMem ∧ (krmPaceBlock h vd xoff restart d).pwr.mode = d.pwr.mode ∧ (krmPaceBlock h vd xoff restart d).sec = d.sec ∧ (krmPaceBlock h vd xoff restart d).liveOld = d.liveOld ∧ (krmPaceBlock h vd xoff restart d).objs = d.objs := by
  simp [krmPaceBlock]


@[simp] theorem krmReplayTimeout_frame (p : ℕ) (d : Dev) :
    (krmReplayTimeout p d).hostMem = d.hostMem ∧ (krmReplayTimeout p d).sec = d.sec ∧ (krmReplayTimeout p d).liveOld = d.liveOld := by
  simp [krmReplayTimeout]


@[simp] theorem krmSignalDetect_frame (p : ℕ) (d : Dev) :
    (krmSignalDetect p d).hostMem = d.hostMem ∧ (krmSignalDetect p d).pwr.mode = d.pwr.mode ∧ (krmSignalDetect p d).sec = d.sec ∧ (krmSignalDetect p d).liveOld = d.liveOld ∧ (krmSignalDetect p d).objs = d.objs := by
  simp [krmSignalDetect]


@[simp] theorem krmStatusClear_frame (d : Dev) :
    (krmStatusClear d).hostMem = d.hostMem ∧ (krmStatusClear d).pwr.mode = d.pwr.mode ∧ (krmStatusClear d).sec = d.sec ∧ (krmStatusClear d).liveOld = d.liveOld ∧ (krmStatusClear d).objs = d.objs := by
  simp [krmStatusClear]


@[simp] theorem krmTimeBlock_frame (h : KHdr) (reply : Bool) (path : ℕ) (d : Dev) :
    (krmTimeBlock h reply path d).hostMem = d.hostMem ∧ (krmTimeBlock h reply path d).pwr.mode = d.pwr.mode ∧ (krmTimeBlock h reply path d).sec = d.sec ∧ (krmTimeBlock h reply path d).liveOld = d.liveOld ∧ (krmTimeBlock h reply path d).objs = d.objs := by
  simp [krmTimeBlock]


@[simp] theorem krmTimeExchange_frame (t1 : ℕ) (t2 : ℕ) (t3 : ℕ) (t4 : ℕ) (d : Dev) :
    (krmTimeExchange t1 t2 t3 t4 d).hostMem = d.hostMem ∧ (krmTimeExchange t1 t2 t3 t4 d).sec = d.sec ∧ (krmTimeExchange t1 t2 t3 t4 d).liveOld = d.liveOld := by
  unfold krmTimeExchange; (repeat' split) <;> simp_all


@[simp] theorem krmTimeLockLost_frame (d : Dev) :
    (krmTimeLockLost d).hostMem = d.hostMem ∧ (krmTimeLockLost d).sec = d.sec ∧ (krmTimeLockLost d).liveOld = d.liveOld := by
  simp [krmTimeLockLost]


@[simp] theorem paceTickGroup_frame (d : Dev) :
    (paceTickGroup d).hostMem = d.hostMem ∧ (paceTickGroup d).sec = d.sec ∧ (paceTickGroup d).liveOld = d.liveOld := by
  simp [paceTickGroup]


end Sys2Proof.Laws
end

