-- ==== Sys2Proof/Laws/FrameSensorObjects.lean ====
section
/-! SUPPORT. What the operations of Sys2Proof/Machine/SensorObjects.lean leave alone of host memory (hostMem), the mode (pwr.mode), the security block (sec)
and the objects (objs, liveOld): one lemma per operation, saying of each that it changes none of those it names. -/

namespace Sys2Proof.Laws

open Sys2Proof.Machine

@[simp] theorem sdrvApply_frame (id : ℕ) (ws : List Word) (d : Dev) :
    (sdrvApply id ws d).hostMem = d.hostMem ∧ (sdrvApply id ws d).pwr.mode = d.pwr.mode ∧ (sdrvApply id ws d).sec = d.sec ∧ (sdrvApply id ws d).liveOld = d.liveOld := by
  simp [sdrvApply]


end Sys2Proof.Laws
end

