-- ==== Sys2Proof/Laws/FrameAdmission.lean ====
section
/-! SUPPORT. What the operations of Sys2Proof/Machine/Admission.lean leave alone of host memory (hostMem), the mode (pwr.mode), the security block (sec)
and the objects (objs, liveOld): one lemma per operation, saying of each that it changes none of those it names. -/

namespace Sys2Proof.Laws

open Sys2Proof.Machine

@[simp] theorem stagedLive_frame (d : Dev) :
    (stagedLive d).hostMem = d.hostMem ∧ (stagedLive d).pwr.mode = d.pwr.mode ∧ (stagedLive d).sec = d.sec ∧ (stagedLive d).objs = d.objs := by
  simp [stagedLive]


end Sys2Proof.Laws
end

