-- ==== Sys2Proof/Laws/FrameAuxiliary.lean ====
section
/-! SUPPORT. What the operations of Sys2Proof/Machine/Auxiliary.lean leave alone of host memory (hostMem), the mode (pwr.mode), the security block (sec)
and the objects (objs, liveOld): one lemma per operation, saying of each that it changes none of those it names. -/

namespace Sys2Proof.Laws

open Sys2Proof.Machine

@[simp] theorem updAmon_frame (a : ℕ) (f : Amon → Amon) (d : Dev) :
    (updAmon a f d).hostMem = d.hostMem ∧ (updAmon a f d).pwr.mode = d.pwr.mode ∧ (updAmon a f d).sec = d.sec ∧ (updAmon a f d).liveOld = d.liveOld ∧ (updAmon a f d).objs = d.objs := by
  simp [updAmon]


@[simp] theorem amonFault_frame (a : ℕ) (d : Dev) :
    (amonFault a d).hostMem = d.hostMem ∧ (amonFault a d).pwr.mode = d.pwr.mode ∧ (amonFault a d).sec = d.sec ∧ (amonFault a d).liveOld = d.liveOld ∧ (amonFault a d).objs = d.objs := by
  simp [amonFault]


@[simp] theorem allMismatch_frame (d : Dev) :
    (allMismatch d).hostMem = d.hostMem ∧ (allMismatch d).pwr.mode = d.pwr.mode ∧ (allMismatch d).sec = d.sec ∧ (allMismatch d).liveOld = d.liveOld ∧ (allMismatch d).objs = d.objs := by
  simp [allMismatch]


@[simp] theorem amonFollow_frame (s : ℕ) (r : AuxRes) (a : ℕ) (d : Dev) :
    (amonFollow s r a d).hostMem = d.hostMem ∧ (amonFollow s r a d).pwr.mode = d.pwr.mode ∧ (amonFollow s r a d).sec = d.sec ∧ (amonFollow s r a d).liveOld = d.liveOld ∧ (amonFollow s r a d).objs = d.objs := by
  simp [amonFollow]


@[simp] theorem amonStale_frame (a : ℕ) (d : Dev) :
    (amonStale a d).hostMem = d.hostMem ∧ (amonStale a d).pwr.mode = d.pwr.mode ∧ (amonStale a d).sec = d.sec ∧ (amonStale a d).liveOld = d.liveOld ∧ (amonStale a d).objs = d.objs := by
  simp [amonStale]


@[simp] theorem refreshAmon_frame (d : Dev) :
    (refreshAmon d).hostMem = d.hostMem ∧ (refreshAmon d).pwr.mode = d.pwr.mode ∧ (refreshAmon d).sec = d.sec ∧ (refreshAmon d).liveOld = d.liveOld ∧ (refreshAmon d).objs = d.objs := by
  simp [refreshAmon]


@[simp] theorem auxAmonApply_frame (ws : List Word) (d : Dev) :
    (auxAmonApply ws d).hostMem = d.hostMem ∧ (auxAmonApply ws d).pwr.mode = d.pwr.mode ∧ (auxAmonApply ws d).sec = d.sec ∧ (auxAmonApply ws d).liveOld = d.liveOld := by
  simp [auxAmonApply]


@[simp] theorem auxAnswer_frame (d : Dev) :
    (auxAnswer d).hostMem = d.hostMem ∧ (auxAnswer d).pwr.mode = d.pwr.mode ∧ (auxAnswer d).sec = d.sec ∧ (auxAnswer d).liveOld = d.liveOld ∧ (auxAnswer d).objs = d.objs := by
  simp [auxAnswer]


@[simp] theorem beginDwell_frame (s : Option ℕ) (d : Dev) :
    (beginDwell s d).hostMem = d.hostMem ∧ (beginDwell s d).pwr.mode = d.pwr.mode ∧ (beginDwell s d).sec = d.sec ∧ (beginDwell s d).liveOld = d.liveOld ∧ (beginDwell s d).objs = d.objs := by
  simp [beginDwell]


@[simp] theorem restartDwell_frame (s : ℕ) (d : Dev) :
    (restartDwell s d).hostMem = d.hostMem ∧ (restartDwell s d).pwr.mode = d.pwr.mode ∧ (restartDwell s d).sec = d.sec ∧ (restartDwell s d).liveOld = d.liveOld ∧ (restartDwell s d).objs = d.objs := by
  simp [restartDwell]


@[simp] theorem auxArbitration_frame (prim : ArbRes) (chk : ArbRes) (d : Dev) :
    (auxArbitration prim chk d).hostMem = d.hostMem ∧ (auxArbitration prim chk d).sec = d.sec ∧ (auxArbitration prim chk d).liveOld = d.liveOld := by
  unfold auxArbitration; simp only []; (repeat' split) <;> simp_all


@[simp] theorem auxCode_frame (gain : ℕ) (v : ℤ) (ref : ℤ) (d : Dev) :
    (auxCode gain v ref d).2.hostMem = d.hostMem ∧ (auxCode gain v ref d).2.pwr.mode = d.pwr.mode ∧ (auxCode gain v ref d).2.sec = d.sec ∧ (auxCode gain v ref d).2.liveOld = d.liveOld ∧ (auxCode gain v ref d).2.objs = d.objs := by
  unfold auxCode; (repeat' split) <;> simp_all


@[simp] theorem auxStart_frame (d : Dev) :
    (auxStart d).hostMem = d.hostMem ∧ (auxStart d).pwr.mode = d.pwr.mode ∧ (auxStart d).sec = d.sec ∧ (auxStart d).liveOld = d.liveOld ∧ (auxStart d).objs = d.objs := by
  simp [auxStart]


@[simp] theorem auxCtlApply_frame (ws : List Word) (d : Dev) :
    (auxCtlApply ws d).hostMem = d.hostMem ∧ (auxCtlApply ws d).pwr.mode = d.pwr.mode ∧ (auxCtlApply ws d).sec = d.sec ∧ (auxCtlApply ws d).liveOld = d.liveOld := by
  simp [auxCtlApply]


@[simp] theorem auxRead_frame (c : MnrCmd) (d : Dev) :
    (auxRead c d).hostMem = d.hostMem ∧ (auxRead c d).pwr.mode = d.pwr.mode ∧ (auxRead c d).sec = d.sec ∧ (auxRead c d).liveOld = d.liveOld ∧ (auxRead c d).objs = d.objs := by
  simp [auxRead]


@[simp] theorem auxReadTimeout_frame (d : Dev) :
    (auxReadTimeout d).hostMem = d.hostMem ∧ (auxReadTimeout d).pwr.mode = d.pwr.mode ∧ (auxReadTimeout d).sec = d.sec ∧ (auxReadTimeout d).liveOld = d.liveOld ∧ (auxReadTimeout d).objs = d.objs := by
  unfold auxReadTimeout; (repeat' split) <;> simp_all


@[simp] theorem auxReset_frame (d : Dev) :
    (auxReset d).hostMem = d.hostMem ∧ (auxReset d).pwr.mode = d.pwr.mode ∧ (auxReset d).sec = d.sec ∧ (auxReset d).liveOld = d.liveOld ∧ (auxReset d).objs = d.objs := by
  simp [auxReset]


@[simp] theorem auxSlotApply_frame (ws : List Word) (d : Dev) :
    (auxSlotApply ws d).hostMem = d.hostMem ∧ (auxSlotApply ws d).pwr.mode = d.pwr.mode ∧ (auxSlotApply ws d).sec = d.sec ∧ (auxSlotApply ws d).liveOld = d.liveOld := by
  simp [auxSlotApply]


@[simp] theorem auxStale_frame (s : ℕ) (d : Dev) :
    (auxStale s d).hostMem = d.hostMem ∧ (auxStale s d).pwr.mode = d.pwr.mode ∧ (auxStale s d).sec = d.sec ∧ (auxStale s d).liveOld = d.liveOld ∧ (auxStale s d).objs = d.objs := by
  simp [auxStale]


@[simp] theorem auxStatusClear_frame (d : Dev) :
    (auxStatusClear d).hostMem = d.hostMem ∧ (auxStatusClear d).pwr.mode = d.pwr.mode ∧ (auxStatusClear d).sec = d.sec ∧ (auxStatusClear d).liveOld = d.liveOld ∧ (auxStatusClear d).objs = d.objs := by
  simp [auxStatusClear]


@[simp] theorem auxStop_frame (d : Dev) :
    (auxStop d).hostMem = d.hostMem ∧ (auxStop d).pwr.mode = d.pwr.mode ∧ (auxStop d).sec = d.sec ∧ (auxStop d).liveOld = d.liveOld ∧ (auxStop d).objs = d.objs := by
  simp [auxStop]


@[simp] theorem formResult_frame (s : ℕ) (t : ℕ) (d : Dev) :
    (formResult s t d).hostMem = d.hostMem ∧ (formResult s t d).pwr.mode = d.pwr.mode ∧ (formResult s t d).sec = d.sec ∧ (formResult s t d).liveOld = d.liveOld ∧ (formResult s t d).objs = d.objs := by
  simp [formResult]


@[simp] theorem auxWord_frame (t : ℕ) (v : ℤ) (ref : ℤ) (vc : ℤ) (refc : ℤ) (comp : Bool) (d : Dev) :
    (auxWord t v ref vc refc comp d).hostMem = d.hostMem ∧ (auxWord t v ref vc refc comp d).pwr.mode = d.pwr.mode ∧ (auxWord t v ref vc refc comp d).sec = d.sec ∧ (auxWord t v ref vc refc comp d).liveOld = d.liveOld ∧ (auxWord t v ref vc refc comp d).objs = d.objs := by
  unfold auxWord; simp only []; (repeat' split) <;> simp_all


end Sys2Proof.Laws
end

