-- ==== Sys2Proof/Laws/FrameSecurity.lean ====
section
/-! SUPPORT. What the operations of Sys2Proof/Machine/Security.lean leave alone of host memory (hostMem), the mode (pwr.mode), the security block (sec)
and the objects (objs, liveOld): one lemma per operation, saying of each that it changes none of those it names. -/

namespace Sys2Proof.Laws

open Sys2Proof.Machine

-- SHAPE bootImages Option Dev

@[simp] theorem freeBits_frame (x0 : ℕ) (x1 : Dev) :
    (freeBits x0 x1).2.hostMem = x1.hostMem ∧ (freeBits x0 x1).2.pwr.mode = x1.pwr.mode ∧ (freeBits x0 x1).2.sec = x1.sec ∧ (freeBits x0 x1).2.liveOld = x1.liveOld ∧ (freeBits x0 x1).2.objs = x1.objs := by
  induction x0 generalizing x1 with
  | zero => simp [freeBits]
  | succ n ih => simp [freeBits, ih]


@[simp] theorem issueNonce_frame (d : Dev) :
    (issueNonce d).hostMem = d.hostMem ∧ (issueNonce d).pwr.mode = d.pwr.mode ∧ (issueNonce d).liveOld = d.liveOld ∧ (issueNonce d).objs = d.objs := by
  simp [issueNonce]


@[simp] theorem setDomain_frame (n : ℕ) (v : ℕ) (d : Dev) :
    (setDomain n v d).hostMem = d.hostMem ∧ (setDomain n v d).pwr.mode = d.pwr.mode ∧ (setDomain n v d).sec = d.sec ∧ (setDomain n v d).liveOld = d.liveOld ∧ (setDomain n v d).objs = d.objs := by
  simp [setDomain]


@[simp] theorem coreRuns_frame (n : ℕ) (d : Dev) :
    (coreRuns n d).hostMem = d.hostMem ∧ (coreRuns n d).pwr.mode = d.pwr.mode ∧ (coreRuns n d).liveOld = d.liveOld ∧ (coreRuns n d).objs = d.objs := by
  simp [coreRuns]


@[simp] theorem coreReady_frame (d : Dev) :
    (coreReady d).hostMem = d.hostMem ∧ (coreReady d).pwr.mode = d.pwr.mode ∧ (coreReady d).liveOld = d.liveOld ∧ (coreReady d).objs = d.objs := by
  unfold coreReady; (repeat' split) <;> simp_all


@[simp] theorem coreReset_frame (n : ℕ) (d : Dev) :
    (coreReset n d).pwr.mode = d.pwr.mode ∧ (coreReset n d).liveOld = d.liveOld ∧ (coreReset n d).objs = d.objs := by
  simp [coreReset]


@[simp] theorem handOver_frame (n : ℕ) (d : Dev) :
    (handOver n d).hostMem = d.hostMem ∧ (handOver n d).pwr.mode = d.pwr.mode ∧ (handOver n d).sec = d.sec ∧ (handOver n d).liveOld = d.liveOld ∧ (handOver n d).objs = d.objs := by
  unfold handOver; (repeat' split) <;> simp_all


@[simp] theorem updateFails_frame (runs : Bool) (d : Dev) :
    (updateFails runs d).pwr.mode = d.pwr.mode ∧ (updateFails runs d).liveOld = d.liveOld ∧ (updateFails runs d).objs = d.objs := by
  unfold updateFails; (repeat' split) <;> simp_all


@[simp] theorem keyProvisionCut_frame (d : Dev) :
    (keyProvisionCut d).hostMem = d.hostMem ∧ (keyProvisionCut d).pwr.mode = d.pwr.mode ∧ (keyProvisionCut d).liveOld = d.liveOld ∧ (keyProvisionCut d).objs = d.objs := by
  unfold keyProvisionCut; simp only []; (repeat' split) <;> simp_all


@[simp] theorem putSlot'_frame (t : ℕ) (s : ℕ) (x : Slot) (d : Dev) :
    (putSlot' t s x d).hostMem = d.hostMem ∧ (putSlot' t s x d).pwr.mode = d.pwr.mode ∧ (putSlot' t s x d).liveOld = d.liveOld ∧ (putSlot' t s x d).objs = d.objs := by
  simp [putSlot']


@[simp] theorem loadEnds_frame (status : ℕ) (d : Dev) :
    (loadEnds status d).hostMem = d.hostMem ∧ (loadEnds status d).pwr.mode = d.pwr.mode ∧ (loadEnds status d).liveOld = d.liveOld ∧ (loadEnds status d).objs = d.objs := by
  unfold loadEnds; (repeat' split) <;> simp_all


@[simp] theorem debugAttach_frame (d : Dev) :
    (debugAttach d).hostMem = d.hostMem ∧ (debugAttach d).pwr.mode = d.pwr.mode ∧ (debugAttach d).liveOld = d.liveOld ∧ (debugAttach d).objs = d.objs := by
  simp [debugAttach]


@[simp] theorem debugResponse_frame (scope : ℕ) (sig : Bool) (d : Dev) :
    (debugResponse scope sig d).hostMem = d.hostMem ∧ (debugResponse scope sig d).pwr.mode = d.pwr.mode ∧ (debugResponse scope sig d).liveOld = d.liveOld ∧ (debugResponse scope sig d).objs = d.objs := by
  unfold debugResponse; (repeat' split) <;> simp_all


@[simp] theorem devInfo_frame (c : MnrCmd) (d : Dev) :
    (devInfo c d).hostMem = d.hostMem ∧ (devInfo c d).pwr.mode = d.pwr.mode ∧ (devInfo c d).sec = d.sec ∧ (devInfo c d).liveOld = d.liveOld ∧ (devInfo c d).objs = d.objs := by
  simp [devInfo]


@[simp] theorem imageActivate_frame (c : MnrCmd) (d : Dev) :
    (imageActivate c d).pwr.mode = d.pwr.mode ∧ (imageActivate c d).liveOld = d.liveOld ∧ (imageActivate c d).objs = d.objs := by
  simp [imageActivate]


@[simp] theorem imageLoad_frame (c : MnrCmd) (sig : Bool) (d : Dev) :
    (imageLoad c sig d).hostMem = d.hostMem ∧ (imageLoad c sig d).pwr.mode = d.pwr.mode ∧ (imageLoad c sig d).liveOld = d.liveOld ∧ (imageLoad c sig d).objs = d.objs := by
  unfold imageLoad
  refine ⟨command_hostMem _ _ _ _ ?_, command_mode _ _ _ _ ?_, command_liveOld _ _ _ _ ?_, command_objs _ _ _ _ ?_⟩ <;> intro t d <;> dsimp only <;> (repeat' split) <;> simp


@[simp] theorem imageLoadDone_frame (ok : Bool) (d : Dev) :
    (imageLoadDone ok d).hostMem = d.hostMem ∧ (imageLoadDone ok d).pwr.mode = d.pwr.mode ∧ (imageLoadDone ok d).liveOld = d.liveOld ∧ (imageLoadDone ok d).objs = d.objs := by
  simp [imageLoadDone]


@[simp] theorem jtagInstruction_frame (ir : ℕ) (drives : Bool) (d : Dev) :
    (jtagInstruction ir drives d).hostMem = d.hostMem ∧ (jtagInstruction ir drives d).pwr.mode = d.pwr.mode ∧ (jtagInstruction ir drives d).liveOld = d.liveOld ∧ (jtagInstruction ir drives d).objs = d.objs := by
  simp [jtagInstruction]


@[simp] theorem keyProvision_frame (c : MnrCmd) (d : Dev) :
    (keyProvision c d).hostMem = d.hostMem ∧ (keyProvision c d).pwr.mode = d.pwr.mode ∧ (keyProvision c d).liveOld = d.liveOld ∧ (keyProvision c d).objs = d.objs := by
  simp [keyProvision]


@[simp] theorem keyProvisionDone_frame (d : Dev) :
    (keyProvisionDone d).hostMem = d.hostMem ∧ (keyProvisionDone d).pwr.mode = d.pwr.mode ∧ (keyProvisionDone d).liveOld = d.liveOld ∧ (keyProvisionDone d).objs = d.objs := by
  unfold keyProvisionDone; (repeat' split) <;> simp_all


@[simp] theorem liveUpdateTimeout_frame (d : Dev) :
    (liveUpdateTimeout d).pwr.mode = d.pwr.mode ∧ (liveUpdateTimeout d).liveOld = d.liveOld ∧ (liveUpdateTimeout d).objs = d.objs := by
  simp [liveUpdateTimeout]


end Sys2Proof.Laws
end

