-- ==== Sys2Proof/Laws/FrameShuttle.lean ====
section
/-! SUPPORT. What the operations of Sys2Proof/Machine/Shuttle.lean leave alone of host memory (hostMem), the mode (pwr.mode), the security block (sec)
and the objects (objs, liveOld): one lemma per operation, saying of each that it changes none of those it names. -/

namespace Sys2Proof.Laws

open Sys2Proof.Machine

@[simp] theorem axisRested_frame (n : ℕ) (d : Dev) :
    (axisRested n d).hostMem = d.hostMem ∧ (axisRested n d).pwr.mode = d.pwr.mode ∧ (axisRested n d).sec = d.sec ∧ (axisRested n d).liveOld = d.liveOld ∧ (axisRested n d).objs = d.objs := by
  simp [axisRested]


@[simp] theorem axisStop_frame (c : MnrCmd) (d : Dev) :
    (axisStop c d).hostMem = d.hostMem ∧ (axisStop c d).pwr.mode = d.pwr.mode ∧ (axisStop c d).sec = d.sec ∧ (axisStop c d).liveOld = d.liveOld ∧ (axisStop c d).objs = d.objs := by
  unfold axisStop
  refine ⟨command_hostMem _ _ _ _ ?_, command_mode _ _ _ _ ?_, command_sec _ _ _ _ ?_, command_liveOld _ _ _ _ ?_, command_objs _ _ _ _ ?_⟩ <;> intro t d <;> (first | refine checked_hostMem _ _ _ _ ?_ | refine checked_mode _ _ _ _ ?_ | refine checked_sec _ _ _ _ ?_ | refine checked_liveOld _ _ _ _ ?_ | refine checked_objs _ _ _ _ ?_) <;> intro d <;> (repeat' split) <;> simp


@[simp] theorem refreshBridges_frame (d : Dev) :
    (refreshBridges d).hostMem = d.hostMem ∧ (refreshBridges d).pwr.mode = d.pwr.mode ∧ (refreshBridges d).sec = d.sec ∧ (refreshBridges d).liveOld = d.liveOld ∧ (refreshBridges d).objs = d.objs := by
  simp [refreshBridges]


@[simp] theorem faultBridgeOff_frame (n : ℕ) (d : Dev) :
    (faultBridgeOff n d).hostMem = d.hostMem ∧ (faultBridgeOff n d).sec = d.sec ∧ (faultBridgeOff n d).liveOld = d.liveOld := by
  simp [faultBridgeOff]


@[simp] theorem bridgesOff_frame (d : Dev) :
    (bridgesOff d).hostMem = d.hostMem ∧ (bridgesOff d).sec = d.sec ∧ (bridgesOff d).liveOld = d.liveOld := by
  simp [bridgesOff]


@[simp] theorem currentReady_frame (n : ℕ) (d : Dev) :
    (currentReady n d).2.hostMem = d.hostMem ∧ (currentReady n d).2.pwr.mode = d.pwr.mode ∧ (currentReady n d).2.sec = d.sec ∧ (currentReady n d).2.liveOld = d.liveOld ∧ (currentReady n d).2.objs = d.objs := by
  unfold currentReady; simp only []; (repeat' split) <;> simp_all


@[simp] theorem shuReset_frame (d : Dev) :
    (shuReset d).hostMem = d.hostMem ∧ (shuReset d).sec = d.sec ∧ (shuReset d).liveOld = d.liveOld := by
  simp [shuReset]


@[simp] theorem stageFault_frame (n : ℕ) (b : ℕ) (off : Bool) (d : Dev) :
    (stageFault n b off d).hostMem = d.hostMem ∧ (stageFault n b off d).sec = d.sec ∧ (stageFault n b off d).liveOld = d.liveOld := by
  simp [stageFault]


@[simp] theorem driverFault_frame (n : ℕ) (d : Dev) :
    (driverFault n d).hostMem = d.hostMem ∧ (driverFault n d).sec = d.sec ∧ (driverFault n d).liveOld = d.liveOld := by
  simp [driverFault]


@[simp] theorem setCause_frame (n : ℕ) (b : ℕ) (v : Bool) (d : Dev) :
    (setCause n b v d).hostMem = d.hostMem ∧ (setCause n b v d).pwr.mode = d.pwr.mode ∧ (setCause n b v d).sec = d.sec ∧ (setCause n b v d).liveOld = d.liveOld ∧ (setCause n b v d).objs = d.objs := by
  simp [setCause]


@[simp] theorem extDriverFault_frame (n : ℕ) (d : Dev) :
    (extDriverFault n d).hostMem = d.hostMem ∧ (extDriverFault n d).sec = d.sec ∧ (extDriverFault n d).liveOld = d.liveOld := by
  simp [extDriverFault]


@[simp] theorem extDriverFaultRelease_frame (n : ℕ) (d : Dev) :
    (extDriverFaultRelease n d).hostMem = d.hostMem ∧ (extDriverFaultRelease n d).pwr.mode = d.pwr.mode ∧ (extDriverFaultRelease n d).sec = d.sec ∧ (extDriverFaultRelease n d).liveOld = d.liveOld ∧ (extDriverFaultRelease n d).objs = d.objs := by
  simp [extDriverFaultRelease]


@[simp] theorem moveEnds_frame (n : ℕ) (m : Move) (a : Axis) (d : Dev) :
    (moveEnds n m a d).hostMem = d.hostMem ∧ (moveEnds n m a d).pwr.mode = d.pwr.mode ∧ (moveEnds n m a d).sec = d.sec ∧ (moveEnds n m a d).liveOld = d.liveOld ∧ (moveEnds n m a d).objs = d.objs := by
  simp [moveEnds]


@[simp] theorem relayLinear_frame (l : ℕ) (ns : List ℕ) (d : Dev) :
    (relayLinear l ns d).hostMem = d.hostMem ∧ (relayLinear l ns d).pwr.mode = d.pwr.mode ∧ (relayLinear l ns d).sec = d.sec ∧ (relayLinear l ns d).liveOld = d.liveOld ∧ (relayLinear l ns d).objs = d.objs := by
  simp [relayLinear]


/-- A quantity that every step of a fold leaves alone in the device of its pair is left alone by the fold. -/
theorem foldl_bool_keeps {β γ : Type} (p : Dev → γ) (f : Bool × Dev → β → Bool × Dev) (h : ∀ a x, p (f a x).2 = p a.2) (l : List β) (a : Bool × Dev) :
    p (l.foldl f a).2 = p a.2 := by
  induction l generalizing a with
  | nil => rfl
  | cons x xs ih => simp [ih, h]

/-- A quantity that the parts of a linear move's update leave alone is left alone by it. -/
theorem genLinear_keeps {α : Type} (p : Dev → α) (n l mask : ℕ) (m : Move) (d : Dev) (hc : ∀ i d, p (currentReady i d).2 = p d)
    (ha : ∀ n f d, p (updAxis n f d) = p d) (hm : ∀ i h a d, p (moveEnds i h a d) = p d) (he : ∀ l s d, p (endLinear l s d) = p d)
    (hr : ∀ l ns d, p (relayLinear l ns d) = p d) : p (genLinear n l mask m d) = p d := by
  unfold genLinear
  extract_lets ns here lead off d0 m' moving total
  have h0 : p d0 = p d := by simp only [d0]; split <;> simp only [hr]
  clear_value d0
  rw [← h0]
  split
  · split <;> simp only [ha]
  split
  · split
    rename_i ready d1 h
    have h1 : p d1 = p d0 := by
      revert h
      split
      · intro h; simp only [Prod.mk.injEq] at h; rw [h.2]
      · intro h
        have := foldl_bool_keeps p (fun (r : Bool × Dev) i => ((r.1 && (currentReady i r.2).1, (currentReady i r.2).2) : Bool × Dev)) (fun a x => hc x a.2) ns (true, d0)
        rw [← this]
        exact congrArg p (congrArg Prod.snd h).symm
    clear h
    split
    · split
      rename_i b done h
      clear h
      extract_lets follow d2
      have h2 : p d2 = p d0 := by
        rw [← h1]
        refine each_keeps p _ (fun i d => ?_) _ _
        simp only [follow]
        split <;> simp only [ha]
      clear_value d2
      split
      · rw [he, ← h2]
        refine each_keeps p _ (fun i d => ?_) _ _
        split <;> simp only [hm]
      · exact h2
    · exact h1
  · rfl

@[simp] theorem genLinear_frame (n : ℕ) (l : ℕ) (mask : ℕ) (m : Move) (d : Dev) :
    (genLinear n l mask m d).hostMem = d.hostMem ∧ (genLinear n l mask m d).pwr.mode = d.pwr.mode ∧ (genLinear n l mask m d).sec = d.sec ∧ (genLinear n l mask m d).liveOld = d.liveOld ∧ (genLinear n l mask m d).objs = d.objs := by
  refine ⟨genLinear_keeps (·.hostMem) _ _ _ _ _ ?_ ?_ ?_ ?_ ?_, genLinear_keeps (·.pwr.mode) _ _ _ _ _ ?_ ?_ ?_ ?_ ?_, genLinear_keeps (·.sec) _ _ _ _ _ ?_ ?_ ?_ ?_ ?_, genLinear_keeps (·.liveOld) _ _ _ _ _ ?_ ?_ ?_ ?_ ?_, genLinear_keeps (·.objs) _ _ _ _ _ ?_ ?_ ?_ ?_ ?_⟩ <;> intros <;> simp


@[simp] theorem genStop_frame (n : ℕ) (r : StopRamp) (done : Axis → Axis) (d : Dev) :
    (genStop n r done d).hostMem = d.hostMem ∧ (genStop n r done d).pwr.mode = d.pwr.mode ∧ (genStop n r done d).sec = d.sec ∧ (genStop n r done d).liveOld = d.liveOld ∧ (genStop n r done d).objs = d.objs := by
  simp [genStop]


@[simp] theorem genMove_frame (n : ℕ) (m : Move) (d : Dev) :
    (genMove n m d).hostMem = d.hostMem ∧ (genMove n m d).pwr.mode = d.pwr.mode ∧ (genMove n m d).sec = d.sec ∧ (genMove n m d).liveOld = d.liveOld ∧ (genMove n m d).objs = d.objs := by
  simp [genMove]


@[simp] theorem genStep_frame (n : ℕ) (d : Dev) :
    (genStep n d).hostMem = d.hostMem ∧ (genStep n d).pwr.mode = d.pwr.mode ∧ (genStep n d).sec = d.sec ∧ (genStep n d).liveOld = d.liveOld ∧ (genStep n d).objs = d.objs := by
  simp [genStep]


@[simp] theorem limitStop_frame (n : ℕ) (d : Dev) :
    (limitStop n d).hostMem = d.hostMem ∧ (limitStop n d).pwr.mode = d.pwr.mode ∧ (limitStop n d).sec = d.sec ∧ (limitStop n d).liveOld = d.liveOld ∧ (limitStop n d).objs = d.objs := by
  simp [limitStop]


@[simp] theorem limitHolds_frame (n : ℕ) (d : Dev) :
    (limitHolds n d).hostMem = d.hostMem ∧ (limitHolds n d).pwr.mode = d.pwr.mode ∧ (limitHolds n d).sec = d.sec ∧ (limitHolds n d).liveOld = d.liveOld ∧ (limitHolds n d).objs = d.objs := by
  unfold limitHolds; (repeat' split) <;> simp_all


@[simp] theorem genAxis_frame (n : ℕ) (d : Dev) :
    (genAxis n d).hostMem = d.hostMem ∧ (genAxis n d).pwr.mode = d.pwr.mode ∧ (genAxis n d).sec = d.sec ∧ (genAxis n d).liveOld = d.liveOld ∧ (genAxis n d).objs = d.objs := by
  unfold genAxis; simp only []; (repeat' split) <;> simp_all


@[simp] theorem holdCurrentReduce_frame (n : ℕ) (d : Dev) :
    (holdCurrentReduce n d).hostMem = d.hostMem ∧ (holdCurrentReduce n d).pwr.mode = d.pwr.mode ∧ (holdCurrentReduce n d).sec = d.sec ∧ (holdCurrentReduce n d).liveOld = d.liveOld ∧ (holdCurrentReduce n d).objs = d.objs := by
  simp [holdCurrentReduce]


@[simp] theorem limitInput_frame (n : ℕ) (pos : Bool) (d : Dev) :
    (limitInput n pos d).hostMem = d.hostMem ∧ (limitInput n pos d).pwr.mode = d.pwr.mode ∧ (limitInput n pos d).sec = d.sec ∧ (limitInput n pos d).liveOld = d.liveOld ∧ (limitInput n pos d).objs = d.objs := by
  simp [limitInput]


@[simp] theorem limitInputRelease_frame (n : ℕ) (pos : Bool) (d : Dev) :
    (limitInputRelease n pos d).hostMem = d.hostMem ∧ (limitInputRelease n pos d).pwr.mode = d.pwr.mode ∧ (limitInputRelease n pos d).sec = d.sec ∧ (limitInputRelease n pos d).liveOld = d.liveOld ∧ (limitInputRelease n pos d).objs = d.objs := by
  simp [limitInputRelease]


@[simp] theorem moveAppend_frame (c : MnrCmd) (d : Dev) :
    (moveAppend c d).hostMem = d.hostMem ∧ (moveAppend c d).pwr.mode = d.pwr.mode ∧ (moveAppend c d).sec = d.sec ∧ (moveAppend c d).liveOld = d.liveOld ∧ (moveAppend c d).objs = d.objs := by
  simp [moveAppend]


/-- A quantity that the parts of a MOVE_LINEAR leave alone is left alone by it. -/
theorem moveLinear_keeps {α : Type} (p : Dev → α) (c : MnrCmd) (d : Dev) 
    (hm : ∀ op c b d, (∀ t d, p (b t d) = p d) → p (command op c b d) = p d) (hk : ∀ t l b d, (∀ d, p (b d) = p d) → p (checked t l b d) = p d) 
    (hf : ∀ w a b l d, p (finish w a b l d) = p d) (ha : ∀ n f d, p (updAxis n f d) = p d) (hd : ∀ w a d, p (defer w a d) = p d)
    (hs : ∀ f d, p (Dev.uShu f d) = p d) : p (moveLinear c d) = p d := by
  unfold moveLinear
  refine hm _ _ _ _ fun t d => ?_
  extract_lets ns pos target dst lead scanAxis
  refine hk _ _ _ _ fun d => ?_
  split
  · simp only [hf]
  · extract_lets f clamped l mk d1
    have h1 : p d1 = p d := each_keeps p _ (fun x d => ha _ _ d) _ _
    simp only [hd, hs, h1]

@[simp] theorem moveLinear_frame (c : MnrCmd) (d : Dev) :
    (moveLinear c d).hostMem = d.hostMem ∧ (moveLinear c d).pwr.mode = d.pwr.mode ∧ (moveLinear c d).sec = d.sec ∧ (moveLinear c d).liveOld = d.liveOld ∧ (moveLinear c d).objs = d.objs := by
  refine ⟨moveLinear_keeps (·.hostMem) _ _ (fun _ _ _ d h => command_hostMem _ _ _ d h) (fun _ _ _ d h => checked_hostMem _ _ _ d h) ?_ ?_ ?_ ?_, moveLinear_keeps (·.pwr.mode) _ _ (fun _ _ _ d h => command_mode _ _ _ d h) (fun _ _ _ d h => checked_mode _ _ _ d h) ?_ ?_ ?_ ?_, moveLinear_keeps (·.sec) _ _ (fun _ _ _ d h => command_sec _ _ _ d h) (fun _ _ _ d h => checked_sec _ _ _ d h) ?_ ?_ ?_ ?_, moveLinear_keeps (·.liveOld) _ _ (fun _ _ _ d h => command_liveOld _ _ _ d h) (fun _ _ _ d h => checked_liveOld _ _ _ d h) ?_ ?_ ?_ ?_, moveLinear_keeps (·.objs) _ _ (fun _ _ _ d h => command_objs _ _ _ d h) (fun _ _ _ d h => checked_objs _ _ _ d h) ?_ ?_ ?_ ?_⟩ <;> intros <;> simp


@[simp] theorem moveReplace_frame (c : MnrCmd) (d : Dev) :
    (moveReplace c d).hostMem = d.hostMem ∧ (moveReplace c d).pwr.mode = d.pwr.mode ∧ (moveReplace c d).sec = d.sec ∧ (moveReplace c d).liveOld = d.liveOld ∧ (moveReplace c d).objs = d.objs := by
  simp [moveReplace]


@[simp] theorem shuAxisApply_frame (n : ℕ) (ws : List Word) (d : Dev) :
    (shuAxisApply n ws d).hostMem = d.hostMem ∧ (shuAxisApply n ws d).sec = d.sec ∧ (shuAxisApply n ws d).liveOld = d.liveOld := by
  simp [shuAxisApply]


@[simp] theorem shuPosApply_frame (ws : List Word) (d : Dev) :
    (shuPosApply ws d).hostMem = d.hostMem ∧ (shuPosApply ws d).pwr.mode = d.pwr.mode ∧ (shuPosApply ws d).sec = d.sec ∧ (shuPosApply ws d).liveOld = d.liveOld ∧ (shuPosApply ws d).objs = d.objs := by
  simp [shuPosApply]


@[simp] theorem shuStatusClear_frame (d : Dev) :
    (shuStatusClear d).hostMem = d.hostMem ∧ (shuStatusClear d).pwr.mode = d.pwr.mode ∧ (shuStatusClear d).sec = d.sec ∧ (shuStatusClear d).liveOld = d.liveOld ∧ (shuStatusClear d).objs = d.objs := by
  simp [shuStatusClear]


@[simp] theorem stepOutput_frame (n : ℕ) (t : ℕ) (before : ℤ) (d : Dev) :
    (stepOutput n t before d).hostMem = d.hostMem ∧ (stepOutput n t before d).pwr.mode = d.pwr.mode ∧ (stepOutput n t before d).sec = d.sec ∧ (stepOutput n t before d).liveOld = d.liveOld ∧ (stepOutput n t before d).objs = d.objs := by
  simp [stepOutput]


@[simp] theorem shuGenUpdate_frame (t : ℕ) (d : Dev) :
    (shuGenUpdate t d).hostMem = d.hostMem ∧ (shuGenUpdate t d).sec = d.sec ∧ (shuGenUpdate t d).liveOld = d.liveOld := by
  simp [shuGenUpdate]


@[simp] theorem shuTempMeasure_frame (n : ℕ) (t : ℤ) (d : Dev) :
    (shuTempMeasure n t d).hostMem = d.hostMem ∧ (shuTempMeasure n t d).pwr.mode = d.pwr.mode ∧ (shuTempMeasure n t d).sec = d.sec ∧ (shuTempMeasure n t d).liveOld = d.liveOld ∧ (shuTempMeasure n t d).objs = d.objs := by
  simp [shuTempMeasure]


@[simp] theorem stageOpenCoil_frame (n : ℕ) (d : Dev) :
    (stageOpenCoil n d).hostMem = d.hostMem ∧ (stageOpenCoil n d).sec = d.sec ∧ (stageOpenCoil n d).liveOld = d.liveOld := by
  simp [stageOpenCoil]


@[simp] theorem stageOvercurrent_frame (n : ℕ) (d : Dev) :
    (stageOvercurrent n d).hostMem = d.hostMem ∧ (stageOvercurrent n d).sec = d.sec ∧ (stageOvercurrent n d).liveOld = d.liveOld := by
  simp [stageOvercurrent]


@[simp] theorem stageOvertemp_frame (n : ℕ) (d : Dev) :
    (stageOvertemp n d).hostMem = d.hostMem ∧ (stageOvertemp n d).sec = d.sec ∧ (stageOvertemp n d).liveOld = d.liveOld := by
  simp [stageOvertemp]


@[simp] theorem stageOvertempWarn_frame (n : ℕ) (d : Dev) :
    (stageOvertempWarn n d).hostMem = d.hostMem ∧ (stageOvertempWarn n d).sec = d.sec ∧ (stageOvertempWarn n d).liveOld = d.liveOld := by
  simp [stageOvertempWarn]


@[simp] theorem stagePwmPeriod_frame (n : ℕ) (vin : ℕ) (cur : ℕ) (d : Dev) :
    (stagePwmPeriod n vin cur d).hostMem = d.hostMem ∧ (stagePwmPeriod n vin cur d).pwr.mode = d.pwr.mode ∧ (stagePwmPeriod n vin cur d).sec = d.sec ∧ (stagePwmPeriod n vin cur d).liveOld = d.liveOld ∧ (stagePwmPeriod n vin cur d).objs = d.objs := by
  simp [stagePwmPeriod]


@[simp] theorem stageVinLow_frame (d : Dev) :
    (stageVinLow d).hostMem = d.hostMem ∧ (stageVinLow d).sec = d.sec ∧ (stageVinLow d).liveOld = d.liveOld := by
  simp [stageVinLow]


@[simp] theorem stepInputEdge_frame (n : ℕ) (t : ℕ) (up : Bool) (d : Dev) :
    (stepInputEdge n t up d).hostMem = d.hostMem ∧ (stepInputEdge n t up d).pwr.mode = d.pwr.mode ∧ (stepInputEdge n t up d).sec = d.sec ∧ (stepInputEdge n t up d).liveOld = d.liveOld ∧ (stepInputEdge n t up d).objs = d.objs := by
  simp [stepInputEdge]


end Sys2Proof.Laws
end

