-- ==== Sys2Proof/Laws/FramePower.lean ====
section
/-! SUPPORT. What the operations of Sys2Proof/Machine/Power.lean leave alone of host memory (hostMem), the mode (pwr.mode), the security block (sec)
and the objects (objs, liveOld): one lemma per operation, saying of each that it changes none of those it names. -/

namespace Sys2Proof.Laws

open Sys2Proof.Machine

@[simp] theorem icSync_frame (d : Dev) :
    (icSync d).hostMem = d.hostMem ∧ (icSync d).pwr.mode = d.pwr.mode ∧ (icSync d).sec = d.sec ∧ (icSync d).liveOld = d.liveOld ∧ (icSync d).objs = d.objs := by
  simp [icSync]


@[simp] theorem beginBoot_frame (d : Dev) :
    (beginBoot d).hostMem = d.hostMem ∧ (beginBoot d).sec = d.sec ∧ (beginBoot d).liveOld = d.liveOld ∧ (beginBoot d).objs = d.objs := by
  simp [beginBoot]


@[simp] theorem startCalibrate_frame (d : Dev) :
    (startCalibrate d).hostMem = d.hostMem ∧ (startCalibrate d).sec = d.sec ∧ (startCalibrate d).liveOld = d.liveOld := by
  simp [startCalibrate]


/-- Choosing the images at boot writes the security block and the security map alone. -/
theorem bootImages_frame (map : List Word) (d e : Dev) (h : bootImages map d = some e) : e.hostMem = d.hostMem ∧ e.pwr = d.pwr ∧ e.liveOld = d.liveOld := by
  unfold bootImages at h
  dsimp only at h
  split at h
  · cases h
  · cases h
    exact ⟨rfl, rfl, rfl⟩

@[simp] theorem bootEnd_frame (map : List Word) (d : Dev) :
    (bootEnd map d).hostMem = d.hostMem ∧ (bootEnd map d).liveOld = d.liveOld := by
  unfold bootEnd
  split
  · simp
  · split
    · simp
    · rename_i e h
      have hb := bootImages_frame map d e h
      simp [hb]


@[simp] theorem enterReady_frame (d : Dev) :
    (enterReady d).hostMem = d.hostMem ∧ (enterReady d).sec = d.sec := by
  unfold enterReady; simp only []; (repeat' split) <;> simp_all


@[simp] theorem calibrateEnd_frame (delays : List ℕ) (mv : List ℕ) (d : Dev) :
    (calibrateEnd delays mv d).hostMem = d.hostMem ∧ (calibrateEnd delays mv d).sec = d.sec := by
  simp [calibrateEnd]


@[simp] theorem cutWrites_frame (d : Dev) :
    (cutWrites d).hostMem = d.hostMem ∧ (cutWrites d).pwr.mode = d.pwr.mode ∧ (cutWrites d).liveOld = d.liveOld ∧ (cutWrites d).objs = d.objs := by
  simp [cutWrites]


@[simp] theorem enterReset_frame (cause : ℕ) (d : Dev) :
    (enterReset cause d).hostMem = d.hostMem := by
  simp [enterReset]


@[simp] theorem faultList_frame (c : MnrCmd) (d : Dev) :
    (faultList c d).pwr.mode = d.pwr.mode ∧ (faultList c d).sec = d.sec ∧ (faultList c d).liveOld = d.liveOld ∧ (faultList c d).objs = d.objs := by
  simp [faultList]


@[simp] theorem holdTrans_frame (d : Dev) :
    (holdTrans d).hostMem = d.hostMem ∧ (holdTrans d).pwr.mode = d.pwr.mode ∧ (holdTrans d).sec = d.sec ∧ (holdTrans d).liveOld = d.liveOld ∧ (holdTrans d).objs = d.objs := by
  simp [holdTrans]


@[simp] theorem sessionLost_frame (d : Dev) :
    (sessionLost d).hostMem = d.hostMem ∧ (sessionLost d).pwr.mode = d.pwr.mode ∧ (sessionLost d).sec = d.sec ∧ (sessionLost d).liveOld = d.liveOld ∧ (sessionLost d).objs = d.objs := by
  simp [sessionLost]


@[simp] theorem hostReset_frame (d : Dev) :
    (hostReset d).sec = d.sec ∧ (hostReset d).liveOld = d.liveOld := by
  simp [hostReset]


@[simp] theorem pcieLinkReset_frame (d : Dev) :
    (pcieLinkReset d).sec = d.sec ∧ (pcieLinkReset d).liveOld = d.liveOld := by
  unfold pcieLinkReset; (repeat' split) <;> simp_all


@[simp] theorem linkPowerChange_frame (st : LinkPower) (speed : ℕ) (width : ℕ) (mps : ℕ) (d : Dev) :
    (linkPowerChange st speed width mps d).sec = d.sec ∧ (linkPowerChange st speed width mps d).liveOld = d.liveOld := by
  simp [linkPowerChange]


@[simp] theorem readyEntryDone_frame (d : Dev) :
    (readyEntryDone d).hostMem = d.hostMem ∧ (readyEntryDone d).sec = d.sec := by
  unfold readyEntryDone; (repeat' split) <;> simp_all


@[simp] theorem modeChange.finishReady_frame (w : Who) (d : Dev) :
    (modeChange.finishReady w d).hostMem = d.hostMem ∧ (modeChange.finishReady w d).sec = d.sec := by
  simp [modeChange.finishReady]


@[simp] theorem safeEntryDone_frame (d : Dev) :
    (safeEntryDone d).hostMem = d.hostMem ∧ (safeEntryDone d).pwr.mode = d.pwr.mode ∧ (safeEntryDone d).sec = d.sec ∧ (safeEntryDone d).liveOld = d.liveOld ∧ (safeEntryDone d).objs = d.objs := by
  unfold safeEntryDone; (repeat' split) <;> simp_all


@[simp] theorem modeChange.finishSafe_frame (w : Who) (d : Dev) :
    (modeChange.finishSafe w d).hostMem = d.hostMem ∧ (modeChange.finishSafe w d).pwr.mode = d.pwr.mode ∧ (modeChange.finishSafe w d).sec = d.sec ∧ (modeChange.finishSafe w d).liveOld = d.liveOld ∧ (modeChange.finishSafe w d).objs = d.objs := by
  simp [modeChange.finishSafe]


@[simp] theorem modeResume_frame (w : Who) (d : Dev) :
    (modeResume w d).hostMem = d.hostMem ∧ (modeResume w d).sec = d.sec ∧ (modeResume w d).liveOld = d.liveOld ∧ (modeResume w d).objs = d.objs := by
  unfold modeResume; (repeat' split) <;> simp_all


@[simp] theorem modeScan_frame (w : Who) (lines : ℕ) (d : Dev) :
    (modeScan w lines d).hostMem = d.hostMem ∧ (modeScan w lines d).sec = d.sec ∧ (modeScan w lines d).liveOld = d.liveOld ∧ (modeScan w lines d).objs = d.objs := by
  unfold modeScan; (repeat' split) <;> simp_all


@[simp] theorem modeUnsafe_frame (w : Who) (d : Dev) :
    (modeUnsafe w d).hostMem = d.hostMem ∧ (modeUnsafe w d).sec = d.sec := by
  unfold modeUnsafe; (repeat' split) <;> simp_all


@[simp] theorem sleepAborted_frame (d : Dev) :
    (sleepAborted d).hostMem = d.hostMem ∧ (sleepAborted d).pwr.mode = d.pwr.mode ∧ (sleepAborted d).sec = d.sec ∧ (sleepAborted d).liveOld = d.liveOld ∧ (sleepAborted d).objs = d.objs := by
  simp [sleepAborted]


@[simp] theorem sleepRequest_frame (w : Who) (d : Dev) :
    (sleepRequest w d).hostMem = d.hostMem ∧ (sleepRequest w d).pwr.mode = d.pwr.mode ∧ (sleepRequest w d).sec = d.sec ∧ (sleepRequest w d).liveOld = d.liveOld ∧ (sleepRequest w d).objs = d.objs := by
  simp [sleepRequest]


/-- A quantity that the parts of a mode change leave alone is left alone by it. -/
theorem modeChange_keeps {α : Type} (p : Dev → α) (w : Who) (target lines : ℕ) (d : Dev) (hf : ∀ w a b l d, p (finish w a b l d) = p d)
    (hh : ∀ d, p (holdInHold d) = p d) (hs : ∀ w n d, p (modeScan w n d) = p d) (hp : ∀ c d, p (paceStop c d) = p d)
    (hd : ∀ d, p (dropTrans d) = p d) (hr : ∀ w d, p (modeResume w d) = p d) (hb : ∀ w x d, p (beginReady w x d) = p d)
    (he : ∀ a w d, p (enterSafe a w d) = p d) (hu : ∀ w d, p (modeUnsafe w d) = p d) (hl : ∀ w d, p (sleepRequest w d) = p d)
    (hq : ∀ d, p (readyEntryDone d) = p d) (ht : ∀ d, p (safeEntryDone d) = p d) (hx : ∀ w a d, p (defer w a d) = p d)
    (hT : ∀ d, p (holdTrans d) = p d) :
    p (modeChange w target lines d) = p d := by
  have h1 : ∀ w d, p (modeChange.finishReady w d) = p d := fun w d => by
    unfold modeChange.finishReady; dsimp only; (repeat' split) <;> simp only [hq, hx]
  have h2 : ∀ w d, p (modeChange.finishSafe w d) = p d := fun w d => by
    unfold modeChange.finishSafe; split <;> simp only [ht, hx]
  unfold modeChange
  split <;> (try split) <;> simp only [hf, hh, hs, hp, hd, hr, hb, he, hu, hl, hT, h1, h2]

@[simp] theorem modeChange_frame (w : Who) (target : ℕ) (lines : ℕ) (d : Dev) :
    (modeChange w target lines d).hostMem = d.hostMem ∧ (modeChange w target lines d).sec = d.sec := by
  refine ⟨modeChange_keeps (·.hostMem) _ _ _ _ ?_ ?_ ?_ ?_ ?_ ?_ ?_ ?_ ?_ ?_ ?_ ?_ ?_ ?_, modeChange_keeps (·.sec) _ _ _ _ ?_ ?_ ?_ ?_ ?_ ?_ ?_ ?_ ?_ ?_ ?_ ?_ ?_ ?_⟩ <;> intros <;> simp


@[simp] theorem modeSet_frame (c : MnrCmd) (d : Dev) :
    (modeSet c d).hostMem = d.hostMem ∧ (modeSet c d).sec = d.sec := by
  simp [modeSet]


@[simp] theorem powerOnRelease_frame (d : Dev) :
    (powerOnRelease d).hostMem = d.hostMem ∧ (powerOnRelease d).sec = d.sec ∧ (powerOnRelease d).liveOld = d.liveOld ∧ (powerOnRelease d).objs = d.objs := by
  simp [powerOnRelease]


@[simp] theorem pwrMonitorTick_frame (vin : ℕ) (temp : ℤ) (d : Dev) :
    (pwrMonitorTick vin temp d).hostMem = d.hostMem := by
  simp [pwrMonitorTick]


@[simp] theorem tapOnlyOff_frame (d : Dev) :
    (tapOnlyOff d).hostMem = d.hostMem := by
  simp [tapOnlyOff]


@[simp] theorem sleepCommit_frame (d : Dev) :
    (sleepCommit d).hostMem = d.hostMem := by
  simp [sleepCommit]


@[simp] theorem sleepTest_hostMem (f : Dev → Dev) (d : Dev) (h0 : ∀ d, (f  d).hostMem = d.hostMem) : (sleepTest f d).hostMem = d.hostMem := by
  unfold sleepTest; (repeat' split) <;> simp_all

@[simp] theorem sleepTest_mode (f : Dev → Dev) (d : Dev) (h0 : ∀ d, (f  d).pwr.mode = d.pwr.mode) : (sleepTest f d).pwr.mode = d.pwr.mode := by
  unfold sleepTest; (repeat' split) <;> simp_all

@[simp] theorem sleepTest_sec (f : Dev → Dev) (d : Dev) (h0 : ∀ d, (f  d).sec = d.sec) : (sleepTest f d).sec = d.sec := by
  unfold sleepTest; (repeat' split) <;> simp_all

@[simp] theorem sleepTest_liveOld (f : Dev → Dev) (d : Dev) (h0 : ∀ d, (f  d).liveOld = d.liveOld) : (sleepTest f d).liveOld = d.liveOld := by
  unfold sleepTest; (repeat' split) <;> simp_all

@[simp] theorem sleepTest_objs (f : Dev → Dev) (d : Dev) (h0 : ∀ d, (f  d).objs = d.objs) : (sleepTest f d).objs = d.objs := by
  unfold sleepTest; (repeat' split) <;> simp_all


@[simp] theorem sleepWake.beginWake_frame (d : Dev) :
    (sleepWake.beginWake d).hostMem = d.hostMem ∧ (sleepWake.beginWake d).sec = d.sec ∧ (sleepWake.beginWake d).liveOld = d.liveOld ∧ (sleepWake.beginWake d).objs = d.objs := by
  simp [sleepWake.beginWake]


@[simp] theorem sleepWake_frame (d : Dev) :
    (sleepWake d).sec = d.sec ∧ (sleepWake d).liveOld = d.liveOld := by
  simp [sleepWake]


@[simp] theorem sysReset_frame (d : Dev) :
    (sysReset d).hostMem = d.hostMem := by
  simp [sysReset]


@[simp] theorem sysResetRelease_frame (d : Dev) :
    (sysResetRelease d).hostMem = d.hostMem ∧ (sysResetRelease d).sec = d.sec ∧ (sysResetRelease d).liveOld = d.liveOld ∧ (sysResetRelease d).objs = d.objs := by
  simp [sysResetRelease]


@[simp] theorem vinPorFall_frame (d : Dev) :
    (vinPorFall d).hostMem = d.hostMem := by
  simp [vinPorFall]


@[simp] theorem vinRestored_frame (d : Dev) :
    (vinRestored d).hostMem = d.hostMem ∧ (vinRestored d).pwr.mode = d.pwr.mode ∧ (vinRestored d).sec = d.sec ∧ (vinRestored d).liveOld = d.liveOld ∧ (vinRestored d).objs = d.objs := by
  simp [vinRestored]


@[simp] theorem vinWarn_frame (d : Dev) :
    (vinWarn d).hostMem = d.hostMem ∧ (vinWarn d).liveOld = d.liveOld := by
  simp [vinWarn]


end Sys2Proof.Laws
end

