-- ==== Sys2Proof/Laws/FrameDomains.lean ====
section
/-! SUPPORT. What the operations of Sys2Proof/Machine/Domains.lean leave alone of host memory (hostMem), the mode (pwr.mode), the security block (sec)
and the objects (objs, liveOld): one lemma per operation, saying of each that it changes none of those it names. -/

namespace Sys2Proof.Laws

open Sys2Proof.Machine

@[simp] theorem acqReset_frame (d : Dev) :
    (acqReset d).hostMem = d.hostMem ∧ (acqReset d).pwr.mode = d.pwr.mode ∧ (acqReset d).sec = d.sec ∧ (acqReset d).liveOld = d.liveOld := by
  simp [acqReset]


@[simp] theorem cpyReset_frame (n : ℕ) (d : Dev) :
    (cpyReset n d).pwr.mode = d.pwr.mode ∧ (cpyReset n d).liveOld = d.liveOld ∧ (cpyReset n d).objs = d.objs := by
  unfold cpyReset; (repeat' split) <;> simp_all


@[simp] theorem hdlReset_frame (d : Dev) :
    (hdlReset d).hostMem = d.hostMem ∧ (hdlReset d).sec = d.sec ∧ (hdlReset d).liveOld = d.liveOld := by
  simp [hdlReset]


/-- A quantity that the parts of a reset of JLNK leave alone is left alone by it. -/
theorem jlnkReset_keeps {α : Type} (p : Dev → α) (d : Dev) (ho : ∀ s w d, p (setOpened s w d) = p d) (hc : ∀ s d, p (cutOpened s d) = p d)
    (hm : ∀ s w d, p (missLinkWin s w d) = p d) (ha : ∀ s w d, p (setArmed s w d) = p d) (hl : ∀ n d, p (faultClear n d) = p d)
    (hj : ∀ f d, p (Dev.uJlk f d) = p d) (he : ∀ l d, p (linkEnable l d) = p d) : p (jlnkReset d) = p d := by
  unfold jlnkReset
  extract_lets srcs d1 d2
  have h1 : p d1 = p d := by
    refine each_keeps p _ (fun s d => ?_) _ _
    dsimp only
    split <;> simp only [hm, ha, ho, hc]
  have h2 : p d2 = p d := by simp only [d2, hl, hj, h1]
  refine (each_keeps p _ (fun l d => ?_) _ _).trans h2
  split <;> simp only [he]

@[simp] theorem jlnkReset_frame (d : Dev) :
    (jlnkReset d).hostMem = d.hostMem ∧ (jlnkReset d).pwr.mode = d.pwr.mode ∧ (jlnkReset d).sec = d.sec ∧ (jlnkReset d).liveOld = d.liveOld ∧ (jlnkReset d).objs = d.objs := by
  refine ⟨jlnkReset_keeps (·.hostMem) _ ?_ ?_ ?_ ?_ ?_ ?_ ?_ , jlnkReset_keeps (·.pwr.mode) _ ?_ ?_ ?_ ?_ ?_ ?_ ?_ , jlnkReset_keeps (·.sec) _ ?_ ?_ ?_ ?_ ?_ ?_ ?_ , jlnkReset_keeps (·.liveOld) _ ?_ ?_ ?_ ?_ ?_ ?_ ?_ , jlnkReset_keeps (·.objs) _ ?_ ?_ ?_ ?_ ?_ ?_ ?_ ⟩ <;> intros <;> simp


/-- A quantity that the parts of a reset of SKN leave alone is left alone by it. -/
theorem sknReset_keeps {α : Type} (p : Dev → α) (d : Dev) (hr : ∀ s k d, p (refuseLine s k d) = p d) (hn : ∀ n d, p (raise n d) = p d)
    (hc : ∀ d, p (clearQueues d) = p d) (hl : ∀ n d, p (faultClear n d) = p d) (hs : ∀ f d, p (Dev.uSkn f d) = p d) : p (sknReset d) = p d := by
  unfold sknReset
  extract_lets d1 d2
  have h1 : p d1 = p d := by
    refine each_keeps p _ (fun s d => ?_) _ _
    split
    · exact each_keeps p _ (fun k d => hn _ d) _ _
    · exact each_keeps p _ (fun k d => (hr _ _ _).trans (hn _ d)) _ _
  simp only [d2, hl, hs, hc, h1]

@[simp] theorem sknReset_frame (d : Dev) :
    (sknReset d).hostMem = d.hostMem ∧ (sknReset d).pwr.mode = d.pwr.mode ∧ (sknReset d).sec = d.sec ∧ (sknReset d).liveOld = d.liveOld ∧ (sknReset d).objs = d.objs := by
  refine ⟨sknReset_keeps (·.hostMem) _ ?_ ?_ ?_ ?_ ?_, sknReset_keeps (·.pwr.mode) _ ?_ ?_ ?_ ?_ ?_, sknReset_keeps (·.sec) _ ?_ ?_ ?_ ?_ ?_, sknReset_keeps (·.liveOld) _ ?_ ?_ ?_ ?_ ?_, sknReset_keeps (·.objs) _ ?_ ?_ ?_ ?_ ?_⟩ <;> intros <;> simp


@[simp] theorem loseDomain_frame (n : ℕ) (d : Dev) :
    (loseDomain n d).liveOld = d.liveOld := by
  unfold loseDomain; (repeat' split) <;> simp_all


/-- A quantity that the parts of a DOMAIN_RESET leave alone is left alone by it. -/
theorem domainReset_keeps {α : Type} (p : Dev → α) (c : MnrCmd) (d : Dev)
    (hm : ∀ op c b d, (∀ t d, p (b t d) = p d) → p (command op c b d) = p d) (hr : ∀ t s x d, p (reject t s x d) = p d)
    (hd : ∀ w a d, p (defer w a d) = p d) (hp : ∀ f d, p (Dev.uPwr f d) = p d) (hl : ∀ n d, p (loseDomain n d) = p d)
    (hs : ∀ n v d, p (setDomain n v d) = p d) : p (domainReset c d) = p d := by
  unfold domainReset
  refine hm _ _ _ _ fun t d => ?_
  extract_lets doms d1
  split
  · exact hr _ _ _ _
  split
  · exact hr _ _ _ _
  · refine (each_keeps p _ (fun n d => hl n d) _ _).trans ((each_keeps p _ (fun n d => hs n _ d) _ _).trans ?_)
    simp only [d1, hp, hd]

@[simp] theorem domainReset_frame (c : MnrCmd) (d : Dev) :
    (domainReset c d).liveOld = d.liveOld := by
  refine domainReset_keeps (·.liveOld) _ _ (fun _ _ _ d h => command_liveOld _ _ _ d h) ?_ ?_ ?_ ?_ ?_  <;> intros <;> simp


@[simp] theorem domainResetDone_frame (n : ℕ) (d : Dev) :
    (domainResetDone n d).hostMem = d.hostMem ∧ (domainResetDone n d).pwr.mode = d.pwr.mode ∧ (domainResetDone n d).liveOld = d.liveOld ∧ (domainResetDone n d).objs = d.objs := by
  simp [domainResetDone]


@[simp] theorem extCmd_frame (n : ℕ) (status : ℕ) (detail : ℕ) (res : List Word) (c : MnrCmd) (d : Dev) :
    (extCmd n status detail res c d).hostMem = d.hostMem ∧ (extCmd n status detail res c d).pwr.mode = d.pwr.mode ∧ (extCmd n status detail res c d).sec = d.sec ∧ (extCmd n status detail res c d).liveOld = d.liveOld ∧ (extCmd n status detail res c d).objs = d.objs := by
  unfold extCmd
  split
  · split <;> simp
  · split
    · split <;> simp
    · refine ⟨command_hostMem _ _ _ _ ?_, command_mode _ _ _ _ ?_, command_sec _ _ _ _ ?_, command_liveOld _ _ _ _ ?_, command_objs _ _ _ _ ?_⟩ <;> intro t d <;> dsimp only <;> (repeat' split) <;> simp


@[simp] theorem icArrival_frame (n : ℕ) (d : Dev) :
    (icArrival n d).hostMem = d.hostMem ∧ (icArrival n d).pwr.mode = d.pwr.mode ∧ (icArrival n d).sec = d.sec ∧ (icArrival n d).liveOld = d.liveOld ∧ (icArrival n d).objs = d.objs := by
  unfold icArrival; (repeat' split) <;> simp_all


@[simp] theorem ping_frame (c : MnrCmd) (d : Dev) :
    (ping c d).hostMem = d.hostMem ∧ (ping c d).pwr.mode = d.pwr.mode ∧ (ping c d).sec = d.sec ∧ (ping c d).liveOld = d.liveOld ∧ (ping c d).objs = d.objs := by
  simp [ping]


/-- A quantity that the parts of a SESSION_CLOSE leave alone is left alone by it. -/
theorem sessionClose_keeps {α : Type} (p : Dev → α) (c : MnrCmd) (d : Dev)
    (hm : ∀ op c b d, (∀ t d, p (b t d) = p d) → p (command op c b d) = p d) (hk : ∀ t l b d, (∀ d, p (b d) = p d) → p (checked t l b d) = p d)
    (hf : ∀ w a b l d, p (finish w a b l d) = p d) (hg : ∀ q d, p (groupStop q d) = p d) (hh : ∀ f d, p (Dev.uHs f d) = p d)
    (hr : ∀ d, p (refreshRings d) = p d) (hu : ∀ f d, p (Dev.uMnr f d) = p d) : p (sessionClose c d) = p d := by
  unfold sessionClose
  refine hm _ _ _ _ fun t d => hk _ _ _ _ fun d => ?_
  extract_lets d1 d2
  have h1 : p d1 = p d := (each_keeps p _ (fun q d => hg q d) _ _).trans (hh _ _)
  simp only [d2, hr, hu, hf, h1]

@[simp] theorem sessionClose_frame (c : MnrCmd) (d : Dev) :
    (sessionClose c d).pwr.mode = d.pwr.mode ∧ (sessionClose c d).sec = d.sec ∧ (sessionClose c d).liveOld = d.liveOld ∧ (sessionClose c d).objs = d.objs := by
  refine ⟨sessionClose_keeps (·.pwr.mode) _ _ (fun _ _ _ d h => command_mode _ _ _ d h) (fun _ _ _ d h => checked_mode _ _ _ d h) ?_ ?_ ?_ ?_ ?_ , sessionClose_keeps (·.sec) _ _ (fun _ _ _ d h => command_sec _ _ _ d h) (fun _ _ _ d h => checked_sec _ _ _ d h) ?_ ?_ ?_ ?_ ?_ , sessionClose_keeps (·.liveOld) _ _ (fun _ _ _ d h => command_liveOld _ _ _ d h) (fun _ _ _ d h => checked_liveOld _ _ _ d h) ?_ ?_ ?_ ?_ ?_ , sessionClose_keeps (·.objs) _ _ (fun _ _ _ d h => command_objs _ _ _ d h) (fun _ _ _ d h => checked_objs _ _ _ d h) ?_ ?_ ?_ ?_ ?_ ⟩ <;> intros <;> simp


@[simp] theorem sessionOpen_frame (c : MnrCmd) (d : Dev) :
    (sessionOpen c d).hostMem = d.hostMem ∧ (sessionOpen c d).pwr.mode = d.pwr.mode ∧ (sessionOpen c d).sec = d.sec ∧ (sessionOpen c d).liveOld = d.liveOld ∧ (sessionOpen c d).objs = d.objs := by
  simp [sessionOpen]


end Sys2Proof.Laws
end

