-- ==== Sys2Proof/Laws/FrameObjects.lean ====
section
/-! SUPPORT. What the operations of Sys2Proof/Machine/Objects.lean leave alone of host memory (hostMem), the mode (pwr.mode), the security block (sec)
and the objects (objs, liveOld): one lemma per operation, saying of each that it changes none of those it names. -/

namespace Sys2Proof.Laws

open Sys2Proof.Machine

@[simp] theorem chainApply_frame (t : Taken) (ws : List Word) (d : Dev) :
    (chainApply t ws d).hostMem = d.hostMem ∧ (chainApply t ws d).pwr.mode = d.pwr.mode ∧ (chainApply t ws d).sec = d.sec ∧ (chainApply t ws d).liveOld = d.liveOld ∧ (chainApply t ws d).objs = d.objs := by
  simp [chainApply]


@[simp] theorem defAddApply_frame (id : ℕ) (t : Taken) (ws : List Word) (d : Dev) :
    (defAddApply id t ws d).hostMem = d.hostMem ∧ (defAddApply id t ws d).pwr.mode = d.pwr.mode ∧ (defAddApply id t ws d).sec = d.sec ∧ (defAddApply id t ws d).liveOld = d.liveOld ∧ (defAddApply id t ws d).objs = d.objs := by
  simp [defAddApply]


@[simp] theorem okApply_hostMem (id : ℕ) (f : List Word → Dev → Dev) (x2 : Taken) (x3 : List Word) (x4 : Dev) (h0 : ∀ y0 d, (f y0 d).hostMem = d.hostMem) : (okApply id f x2 x3 x4).hostMem = x4.hostMem := by
  unfold okApply; (repeat' split) <;> simp_all

@[simp] theorem okApply_mode (id : ℕ) (f : List Word → Dev → Dev) (x2 : Taken) (x3 : List Word) (x4 : Dev) (h0 : ∀ y0 d, (f y0 d).pwr.mode = d.pwr.mode) : (okApply id f x2 x3 x4).pwr.mode = x4.pwr.mode := by
  unfold okApply; (repeat' split) <;> simp_all

@[simp] theorem okApply_sec (id : ℕ) (f : List Word → Dev → Dev) (x2 : Taken) (x3 : List Word) (x4 : Dev) (h0 : ∀ y0 d, (f y0 d).sec = d.sec) : (okApply id f x2 x3 x4).sec = x4.sec := by
  unfold okApply; (repeat' split) <;> simp_all

@[simp] theorem okApply_liveOld (id : ℕ) (f : List Word → Dev → Dev) (x2 : Taken) (x3 : List Word) (x4 : Dev) (h0 : ∀ y0 d, (f y0 d).liveOld = d.liveOld) : (okApply id f x2 x3 x4).liveOld = x4.liveOld := by
  unfold okApply; (repeat' split) <;> simp_all

@[simp] theorem okApply_objs (id : ℕ) (f : List Word → Dev → Dev) (x2 : Taken) (x3 : List Word) (x4 : Dev) (h0 : ∀ y0 d, (f y0 d).objs = d.objs) : (okApply id f x2 x3 x4).objs = x4.objs := by
  unfold okApply; (repeat' split) <;> simp_all


@[simp] theorem stageOrSet_frame (id : ℕ) (zero : List Word) (ws : List Word) (d : Dev) :
    (stageOrSet id zero ws d).hostMem = d.hostMem ∧ (stageOrSet id zero ws d).pwr.mode = d.pwr.mode ∧ (stageOrSet id zero ws d).sec = d.sec := by
  simp [stageOrSet]


@[simp] theorem swapApply_frame (id : ℕ) (t : Taken) (ws : List Word) (d : Dev) :
    (swapApply id t ws d).hostMem = d.hostMem ∧ (swapApply id t ws d).pwr.mode = d.pwr.mode ∧ (swapApply id t ws d).sec = d.sec ∧ (swapApply id t ws d).liveOld = d.liveOld ∧ (swapApply id t ws d).objs = d.objs := by
  unfold swapApply; (repeat' split) <;> simp_all


@[simp] theorem waitOn_frame (t : Taken) (d : Dev) :
    (waitOn t d).hostMem = d.hostMem ∧ (waitOn t d).pwr.mode = d.pwr.mode ∧ (waitOn t d).sec = d.sec ∧ (waitOn t d).liveOld = d.liveOld ∧ (waitOn t d).objs = d.objs := by
  simp [waitOn]


/-- A write of the object leaves host memory and the security block alone, and what a read clears leaves host memory, the mode, the security block
and the objects alone. -/
def objTame (o : ObjDef) : Prop :=
  (∀ t ws d, (o.apply t ws d).hostMem = d.hostMem ∧ (o.apply t ws d).sec = d.sec) ∧
    ∀ d, (o.clear d).hostMem = d.hostMem ∧ (o.clear d).pwr.mode = d.pwr.mode ∧ (o.clear d).sec = d.sec ∧ (o.clear d).liveOld = d.liveOld ∧ (o.clear d).objs = d.objs

theorem spindleObj_tame (id : ℕ) (o : ObjDef) (h : spindleObj id = some o) : objTame o := by
  unfold spindleObj at h
  dsimp only at h
  (repeat' split at h) <;> cases h <;> refine ⟨fun t ws d => ?_, fun d => ?_⟩ <;> simp [cfgObj, statusObj, okApply]

theorem sensorObj_tame (id : ℕ) (o : ObjDef) (h : sensorObj id = some o) : objTame o := by
  unfold sensorObj at h
  dsimp only at h
  (repeat' split at h) <;> cases h <;> refine ⟨fun t ws d => ?_, fun d => ?_⟩ <;> simp [cfgObj, statusObj, okApply]

theorem captureObj_tame (id : ℕ) (o : ObjDef) (h : captureObj id = some o) : objTame o := by
  unfold captureObj at h
  dsimp only at h
  (repeat' split at h) <;> cases h <;> refine ⟨fun t ws d => ?_, fun d => ?_⟩ <;> simp [cfgObj, statusObj, okApply]

theorem linkObj_tame (id : ℕ) (o : ObjDef) (h : linkObj id = some o) : objTame o := by
  unfold linkObj at h
  dsimp only at h
  (repeat' split at h) <;> cases h
  · refine ⟨fun t ws d => ?_, fun d => ?_⟩ <;> simp [cfgObj, okApply]
  · generalize id - 0x1401 = l
    refine ⟨fun t ws d => ?_, fun d => ?_⟩ <;> simp only [cfgObj, okApply, finish_frame] <;> (try split) <;> simp
  · generalize id - 0x1410 = l
    refine ⟨fun t ws d => ?_, fun d => ?_⟩ <;> simp only [cfgObj, okApply, finish_frame] <;> (try split) <;> simp
  · refine ⟨fun t ws d => ?_, fun d => ?_⟩ <;> simp [statusObj, okApply]

theorem heddleObj_tame (id : ℕ) (o : ObjDef) (h : heddleObj id = some o) : objTame o := by
  unfold heddleObj at h
  dsimp only at h
  (repeat' split at h) <;> cases h <;> refine ⟨fun t ws d => ?_, fun d => ?_⟩ <;> simp [cfgObj, statusObj, okApply, bankObj]

theorem imageObj_tame (id : ℕ) (o : ObjDef) (h : imageObj id = some o) : objTame o := by
  unfold imageObj at h
  dsimp only at h
  (repeat' split at h) <;> cases h <;> refine ⟨fun t ws d => ?_, fun d => ?_⟩ <;> simp [cfgObj, statusObj, okApply]

theorem storeObj_tame (id : ℕ) (o : ObjDef) (h : storeObj id = some o) : objTame o := by
  unfold storeObj at h
  dsimp only at h
  (repeat' split at h) <;> cases h <;> refine ⟨fun t ws d => ?_, fun d => ?_⟩ <;> simp [cfgObj, statusObj, okApply]

theorem shuttleObj_tame (id : ℕ) (o : ObjDef) (h : shuttleObj id = some o) : objTame o := by
  unfold shuttleObj at h
  dsimp only at h
  (repeat' split at h) <;> cases h <;> refine ⟨fun t ws d => ?_, fun d => ?_⟩ <;> simp [cfgObj, statusObj, okApply]

theorem lampObj_tame (id : ℕ) (o : ObjDef) (h : lampObj id = some o) : objTame o := by
  unfold lampObj at h
  dsimp only at h
  (repeat' split at h) <;> cases h <;> refine ⟨fun t ws d => ?_, fun d => ?_⟩ <;> simp [cfgObj, statusObj, okApply]

theorem auxObj_tame (id : ℕ) (o : ObjDef) (h : auxObj id = some o) : objTame o := by
  unfold auxObj at h
  dsimp only at h
  (repeat' split at h) <;> cases h <;> refine ⟨fun t ws d => ?_, fun d => ?_⟩ <;> simp [cfgObj, statusObj, okApply]

theorem fabricObj_tame (id : ℕ) (o : ObjDef) (h : fabricObj id = some o) : objTame o := by
  unfold fabricObj at h
  dsimp only at h
  (repeat' split at h) <;> cases h <;> refine ⟨fun t ws d => ?_, fun d => ?_⟩ <;> simp [cfgObj, statusObj, okApply]

theorem controlObj_tame (id : ℕ) (o : ObjDef) (h : controlObj id = some o) : objTame o := by
  unfold controlObj at h
  dsimp only at h
  (repeat' split at h) <;> cases h <;> refine ⟨fun t ws d => ?_, fun d => ?_⟩ <;> simp [cfgObj, statusObj, okApply]

theorem chainObj_tame (n : ℕ) : objTame (chainObj n) := by
  refine ⟨fun t ws d => ?_, fun d => ?_⟩ <;> simp [chainObj, chainApply]

/-- Every object of Table 14.11 is tame. -/
theorem objDef_tame (id : ℕ) (d : Dev) (o : ObjDef) (h : objDef id d = some o) : objTame o := by
  unfold objDef at h
  split at h
  · cases h; exact chainObj_tame _
  · split at h <;> first | exact spindleObj_tame _ _ h | exact sensorObj_tame _ _ h | exact captureObj_tame _ _ h | exact linkObj_tame _ _ h | exact heddleObj_tame _ _ h | exact imageObj_tame _ _ h | exact storeObj_tame _ _ h | exact shuttleObj_tame _ _ h | exact lampObj_tame _ _ h | exact auxObj_tame _ _ h | exact fabricObj_tame _ _ h | exact controlObj_tame _ _ h | cases h

/-- A quantity that the parts of an OBJ_READ leave alone is left alone by it. -/
theorem objRead_keeps {α : Type} (p : Dev → α) (c : MnrCmd) (d : Dev)
    (hm : ∀ op c b d, (∀ t d, p (b t d) = p d) → p (command op c b d) = p d) (hk : ∀ t l b d, (∀ d, p (b d) = p d) → p (checked t l b d) = p d)
    (hf : ∀ w a b l d, p (finish w a b l d) = p d) (hr : ∀ t s x d, p (reject t s x d) = p d) (hw : ∀ t d, p (waitOn t d) = p d)
    (hb : ∀ a ws d, p (writeWords a ws d) = p d) (hc : ∀ o, objTame o → ∀ d, p (o.clear d) = p d) : p (objRead c d) = p d := by
  unfold objRead
  refine hm _ _ _ _ fun t d => ?_
  extract_lets id
  split
  · exact hr _ _ _ _
  split
  · exact hw _ _
  split
  · exact hr _ _ _ _
  rename_i o ho
  have ht := objDef_tame id d o ho
  clear ho
  split
  · exact hr _ _ _ _
  extract_lets ws size
  split
  · exact hk _ _ _ _ fun d => by rw [hf, hc o ht, hb]
  · exact hk _ _ _ _ fun d => by rw [hf, hc o ht]

@[simp] theorem objRead_frame (c : MnrCmd) (d : Dev) :
    (objRead c d).pwr.mode = d.pwr.mode ∧ (objRead c d).sec = d.sec ∧ (objRead c d).liveOld = d.liveOld ∧ (objRead c d).objs = d.objs := by
  refine ⟨objRead_keeps (·.pwr.mode) _ _ (fun _ _ _ d h => command_mode _ _ _ d h) (fun _ _ _ d h => checked_mode _ _ _ d h) ?_ ?_ ?_ ?_ (fun o h d => (h.2 d).2.1), objRead_keeps (·.sec) _ _ (fun _ _ _ d h => command_sec _ _ _ d h) (fun _ _ _ d h => checked_sec _ _ _ d h) ?_ ?_ ?_ ?_ (fun o h d => (h.2 d).2.2.1), objRead_keeps (·.liveOld) _ _ (fun _ _ _ d h => command_liveOld _ _ _ d h) (fun _ _ _ d h => checked_liveOld _ _ _ d h) ?_ ?_ ?_ ?_ (fun o h d => (h.2 d).2.2.2.1), objRead_keeps (·.objs) _ _ (fun _ _ _ d h => command_objs _ _ _ d h) (fun _ _ _ d h => checked_objs _ _ _ d h) ?_ ?_ ?_ ?_ (fun o h d => (h.2 d).2.2.2.2)⟩ <;> intros <;> simp


@[simp] theorem namedRead_frame (id : ℕ) (c : MnrCmd) (d : Dev) :
    (namedRead id c d).pwr.mode = d.pwr.mode ∧ (namedRead id c d).sec = d.sec ∧ (namedRead id c d).liveOld = d.liveOld ∧ (namedRead id c d).objs = d.objs := by
  simp [namedRead]


/-- A quantity that the parts of an OBJ_WRITE leave alone is left alone by it. -/
theorem objWrite_keeps {α : Type} (p : Dev → α) (c : MnrCmd) (d : Dev)
    (hm : ∀ op c b d, (∀ t d, p (b t d) = p d) → p (command op c b d) = p d)
    (hr : ∀ t s x d, p (reject t s x d) = p d) (hw : ∀ t d, p (waitOn t d) = p d)
    (ha : ∀ o, objTame o → ∀ t ws d, p (o.apply t ws d) = p d) : p (objWrite c d) = p d := by
  unfold objWrite
  refine hm _ _ _ _ fun t d => ?_
  extract_lets id
  split
  · exact hr _ _ _ _
  split
  · exact hw _ _
  split
  · exact hr _ _ _ _
  rename_i o ho
  have ht := objDef_tame id d o ho
  clear ho
  split
  · exact hr _ _ _ _
  extract_lets ws ws'
  split
  · exact hr _ _ _ _
  split
  · exact hr _ _ _ _
  split
  · exact hr _ _ _ _
  · exact ha o ht _ _ _

@[simp] theorem objWrite_frame (c : MnrCmd) (d : Dev) :
    (objWrite c d).hostMem = d.hostMem ∧ (objWrite c d).sec = d.sec := by
  refine ⟨objWrite_keeps (·.hostMem) _ _ (fun _ _ _ d h => command_hostMem _ _ _ d h) ?_ ?_ (fun o h t ws d => (h.1 t ws d).1), objWrite_keeps (·.sec) _ _ (fun _ _ _ d h => command_sec _ _ _ d h) ?_ ?_ (fun o h t ws d => (h.1 t ws d).2)⟩ <;> intros <;> simp


@[simp] theorem namedWrite_frame (id : ℕ) (c : MnrCmd) (d : Dev) :
    (namedWrite id c d).hostMem = d.hostMem ∧ (namedWrite id c d).sec = d.sec := by
  simp [namedWrite]


/-- A quantity that the parts of an OBJ_INFO leave alone is left alone by it. -/
theorem objInfo_keeps {α : Type} (p : Dev → α) (c : MnrCmd) (d : Dev)
    (hm : ∀ op c b d, (∀ t d, p (b t d) = p d) → p (command op c b d) = p d)
    (hf : ∀ w a b l d, p (finish w a b l d) = p d) (hr : ∀ t s x d, p (reject t s x d) = p d) (hw : ∀ t d, p (waitOn t d) = p d) :
    p (objInfo c d) = p d := by
  unfold objInfo
  refine hm _ _ _ _ fun t d => ?_
  dsimp only
  (repeat' split) <;> simp only [hf, hr, hw]

@[simp] theorem objInfo_frame (c : MnrCmd) (d : Dev) :
    (objInfo c d).hostMem = d.hostMem ∧ (objInfo c d).pwr.mode = d.pwr.mode ∧ (objInfo c d).sec = d.sec ∧ (objInfo c d).liveOld = d.liveOld ∧ (objInfo c d).objs = d.objs := by
  refine ⟨objInfo_keeps (·.hostMem) _ _ (fun _ _ _ d h => command_hostMem _ _ _ d h) ?_ ?_ ?_, objInfo_keeps (·.pwr.mode) _ _ (fun _ _ _ d h => command_mode _ _ _ d h) ?_ ?_ ?_, objInfo_keeps (·.sec) _ _ (fun _ _ _ d h => command_sec _ _ _ d h) ?_ ?_ ?_, objInfo_keeps (·.liveOld) _ _ (fun _ _ _ d h => command_liveOld _ _ _ d h) ?_ ?_ ?_, objInfo_keeps (·.objs) _ _ (fun _ _ _ d h => command_objs _ _ _ d h) ?_ ?_ ?_⟩ <;> intros <;> simp


@[simp] theorem swapWrite_frame (action : ℕ) (c : MnrCmd) (d : Dev) :
    (swapWrite action c d).hostMem = d.hostMem ∧ (swapWrite action c d).sec = d.sec := by
  simp [swapWrite]


end Sys2Proof.Laws
end

