-- ==== Sys2Proof/Laws/FrameRegisterReads.lean ====
section
/-! SUPPORT. What the operations of Sys2Proof/Machine/RegisterReads.lean leave alone of host memory (hostMem), the mode (pwr.mode), the security block (sec)
and the objects (objs, liveOld): one lemma per operation, saying of each that it changes none of those it names. -/

namespace Sys2Proof.Laws

open Sys2Proof.Machine

@[simp] theorem bar0Clears_frame (off : ℕ) (d : Dev) :
    (bar0Clears off d).hostMem = d.hostMem ∧ (bar0Clears off d).pwr.mode = d.pwr.mode ∧ (bar0Clears off d).sec = d.sec ∧ (bar0Clears off d).liveOld = d.liveOld ∧ (bar0Clears off d).objs = d.objs := by
  simp [bar0Clears]


@[simp] theorem returned_frame (ws : List ℕ) (d : Dev) :
    (returned ws d).hostMem = d.hostMem ∧ (returned ws d).pwr.mode = d.pwr.mode ∧ (returned ws d).sec = d.sec ∧ (returned ws d).liveOld = d.liveOld ∧ (returned ws d).objs = d.objs := by
  simp [returned]


@[simp] theorem bar0Read_frame (off : ℕ) (wide : Bool) (d : Dev) :
    (bar0Read off wide d).hostMem = d.hostMem ∧ (bar0Read off wide d).pwr.mode = d.pwr.mode ∧ (bar0Read off wide d).sec = d.sec ∧ (bar0Read off wide d).liveOld = d.liveOld ∧ (bar0Read off wide d).objs = d.objs := by
  simp [bar0Read]


@[simp] theorem coreRead_frame (t : ℕ) (addr : ℕ) (d : Dev) :
    (coreRead t addr d).hostMem = d.hostMem ∧ (coreRead t addr d).pwr.mode = d.pwr.mode ∧ (coreRead t addr d).liveOld = d.liveOld ∧ (coreRead t addr d).objs = d.objs := by
  simp [coreRead]


end Sys2Proof.Laws
end

