-- ==== Sys2Proof/Laws/FrameRegisters.lean ====
section
/-! SUPPORT. What the operations of Sys2Proof/Machine/Registers.lean leave alone of host memory (hostMem), the mode (pwr.mode), the security block (sec)
and the objects (objs, liveOld): one lemma per operation, saying of each that it changes none of those it names. -/

namespace Sys2Proof.Laws

open Sys2Proof.Machine

@[simp] theorem bar0Word_frame (off : ℕ) (v : ℕ) (d : Dev) :
    (bar0Word off v d).pwr.mode = d.pwr.mode ∧ (bar0Word off v d).sec = d.sec ∧ (bar0Word off v d).liveOld = d.liveOld ∧ (bar0Word off v d).objs = d.objs := by
  simp [bar0Word]


@[simp] theorem bar0Write_frame (off : ℕ) (v : ℕ) (high : Option ℕ) (d : Dev) :
    (bar0Write off v high d).pwr.mode = d.pwr.mode ∧ (bar0Write off v high d).sec = d.sec ∧ (bar0Write off v high d).liveOld = d.liveOld ∧ (bar0Write off v high d).objs = d.objs := by
  unfold bar0Write; (repeat' split) <;> simp_all


@[simp] theorem icBlockWrite_frame (off : ℕ) (v : ℕ) (t : ℕ) (d : Dev) :
    (icBlockWrite off v t d).hostMem = d.hostMem ∧ (icBlockWrite off v t d).pwr.mode = d.pwr.mode ∧ (icBlockWrite off v t d).liveOld = d.liveOld ∧ (icBlockWrite off v t d).objs = d.objs := by
  simp [icBlockWrite]


@[simp] theorem mbiRouteWrite_frame (i : ℕ) (v : ℕ) (t : ℕ) (d : Dev) :
    (mbiRouteWrite i v t d).hostMem = d.hostMem ∧ (mbiRouteWrite i v t d).pwr.mode = d.pwr.mode ∧ (mbiRouteWrite i v t d).sec = d.sec ∧ (mbiRouteWrite i v t d).liveOld = d.liveOld ∧ (mbiRouteWrite i v t d).objs = d.objs := by
  simp [mbiRouteWrite]


@[simp] theorem mbiBlockWrite_frame (off : ℕ) (v : ℕ) (t : ℕ) (d : Dev) :
    (mbiBlockWrite off v t d).hostMem = d.hostMem ∧ (mbiBlockWrite off v t d).pwr.mode = d.pwr.mode ∧ (mbiBlockWrite off v t d).sec = d.sec ∧ (mbiBlockWrite off v t d).liveOld = d.liveOld ∧ (mbiBlockWrite off v t d).objs = d.objs := by
  simp [mbiBlockWrite]


@[simp] theorem coreWrite_frame (t : ℕ) (addr : ℕ) (v : ℕ) (d : Dev) :
    (coreWrite t addr v d).hostMem = d.hostMem ∧ (coreWrite t addr v d).pwr.mode = d.pwr.mode ∧ (coreWrite t addr v d).liveOld = d.liveOld ∧ (coreWrite t addr v d).objs = d.objs := by
  simp [coreWrite]


@[simp] theorem registerAccess_frame (who : Option (Fin 5)) (addr : ℕ) (a : RegAccess) (d : Dev) :
    (registerAccess who addr a d).pwr.mode = d.pwr.mode ∧ (registerAccess who addr a d).liveOld = d.liveOld ∧ (registerAccess who addr a d).objs = d.objs := by
  unfold registerAccess; (repeat' split) <;> simp_all


end Sys2Proof.Laws
end

