-- ==== Sys2Proof/Laws/Memory.lean ====
section
/-! SUPPORT. Every operation that writes host memory keeps its canonical form. -/

namespace Sys2Proof.Laws

open Sys2Proof.Machine

/-- Writing keeps the canonical form above any bound below the key written. -/
theorem set_wfFrom {α : Type} [DecidableEq α] (d : α) (m : Sparse α) (b : Option Nat) (a : Nat) (x : α) (hb : ∀ n, b = some n → n < a)
    (h : Sparse.wfFrom d b m = true) : Sparse.wfFrom d b (Sparse.set d m a x) = true := by
  induction m generalizing b with
  | nil =>
    unfold Sparse.set
    split
    · exact h
    · cases b with
      | none => simp_all [Sparse.wfFrom]
      | some n => simp_all [Sparse.wfFrom]
  | cons e m ih =>
    obtain ⟨k, v⟩ := e
    simp only [Sparse.wfFrom, Bool.and_eq_true] at h
    obtain ⟨⟨h1, h2⟩, h3⟩ := h
    unfold Sparse.set
    split
    · split
      · simp_all [Sparse.wfFrom]
      · cases b <;> simp_all [Sparse.wfFrom]
    · split
      · rename_i hk
        subst hk
        split
        · cases m with
          | nil => simp [Sparse.wfFrom]
          | cons e' m' =>
            obtain ⟨k', v'⟩ := e'
            simp only [Sparse.wfFrom, Bool.and_eq_true] at h3 ⊢
            refine ⟨⟨?_, h3.1.2⟩, h3.2⟩
            cases b with
            | none => rfl
            | some n => have := hb n rfl; simp at h3 ⊢; omega
        · simp_all [Sparse.wfFrom]
      · simp only [Sparse.wfFrom, Bool.and_eq_true]
        refine ⟨⟨h1, h2⟩, ih (some k) ?_ h3⟩
        intro n hn
        cases hn
        omega

/-- Writing a sparse map keeps its canonical form. -/
theorem set_wf {α : Type} [DecidableEq α] (d : α) (m : Sparse α) (a : Nat) (x : α) (h : Sparse.wf d m = true) : Sparse.wf d (Sparse.set d m a x) = true :=
  set_wfFrom d m none a x (fun _ h => by cases h) h

/-- A key that was written reads as written. -/
theorem get_set_self {α : Type} [DecidableEq α] (d : α) (m : Sparse α) (b : Option Nat) (a : Nat) (x : α) (h : Sparse.wfFrom d b m = true) :
    Sparse.get d (Sparse.set d m a x) a = x := by
  induction m generalizing b with
  | nil =>
    unfold Sparse.set
    split
    · simp_all [Sparse.get]
    · simp [Sparse.get]
  | cons e m ih =>
    obtain ⟨k, v⟩ := e
    simp only [Sparse.wfFrom, Bool.and_eq_true] at h
    have low : ∀ (m : Sparse α) (k : Nat), Sparse.wfFrom d (some k) m = true → ∀ a ≤ k, Sparse.get d m a = d := by
      intro m
      induction m with
      | nil => intros; rfl
      | cons e m ih =>
        obtain ⟨k', v'⟩ := e
        intro k h a ha
        simp only [Sparse.wfFrom, Bool.and_eq_true, decide_eq_true_eq] at h
        have : ¬ k' = a := by omega
        simp only [Sparse.get, this, if_false]
        exact ih k' h.2 a (by omega)
    unfold Sparse.set
    split
    · split
      · rename_i h1 h2
        have : ¬ k = a := by omega
        simp only [Sparse.get, this, if_false, h2]
        exact low m k h.2 a (by omega)
      · simp [Sparse.get]
    · split
      · rename_i hk
        subst hk
        split
        · rename_i hx
          rw [hx]
          exact low m a h.2 a (Nat.le_refl a)
        · simp [Sparse.get]
      · rename_i h1 h2
        have : ¬ k = a := fun e => h2 e.symm
        simp only [Sparse.get, this, if_false]
        exact ih (some k) h.2

/-- A key that was not written reads as before. -/
theorem get_set_other {α : Type} [DecidableEq α] (d : α) (m : Sparse α) (a c : Nat) (x : α) (hac : c ≠ a) :
    Sparse.get d (Sparse.set d m a x) c = Sparse.get d m c := by
  have h' : ¬ a = c := fun e => hac e.symm
  induction m with
  | nil =>
    unfold Sparse.set
    split <;> simp [Sparse.get, h']
  | cons e m ih =>
    obtain ⟨k, v⟩ := e
    unfold Sparse.set
    split
    · split <;> simp [Sparse.get, h']
    · split
      · rename_i hk
        subst hk
        split <;> simp [Sparse.get, h']
      · simp [Sparse.get, ih]

/-- A byte written to host memory reads as written. -/
theorem read_writeByte_self (a : Nat) (b : Byte) (d : Dev) (w : Memory.wf d.hostMem = true) : Memory.read (writeByte a b d).hostMem a = b :=
  get_set_self 0#8 d.hostMem none a b w

/-- Every other byte of host memory reads as before. -/
theorem read_writeByte_other (a c : Nat) (b : Byte) (d : Dev) (h : c ≠ a) : Memory.read (writeByte a b d).hostMem c = Memory.read d.hostMem c :=
  get_set_other 0#8 d.hostMem a c b h

/-- Bytes of host memory outside those written read as before. -/
theorem read_writeBytes_other (bs : List Byte) (a c : Nat) (d : Dev) (h : c < a ∨ a + bs.length ≤ c) :
    Memory.read (writeBytes a bs d).hostMem c = Memory.read d.hostMem c := by
  induction bs generalizing a d with
  | nil => rfl
  | cons b bs ih =>
    simp only [List.length_cons] at h
    rw [writeBytes, ih (a + 1) _ (by omega), read_writeByte_other _ _ _ _ (by omega)]

/-- The canonical form holds after each if every item keeps it. -/
@[simp] theorem each_mem {α : Type} (f : α → Dev → Dev) (h : ∀ x d, Memory.wf d.hostMem = true → Memory.wf (f x d).hostMem = true) (l : List α) (d : Dev)
    (w : Memory.wf d.hostMem = true) : Memory.wf (each l f d).hostMem = true := by
  induction l generalizing d with
  | nil => exact w
  | cons x xs ih => exact ih (f x d) (h x d w)

@[simp] theorem wf_ite (c : Prop) [Decidable c] (a b : List Host.Cell) : Memory.wf (if c then a else b) = if c then Memory.wf a else Memory.wf b :=
  apply_ite Memory.wf c a b

@[simp] theorem guardD_mem (c : Bool) (f : Dev → Dev) (h : ∀ d, Memory.wf d.hostMem = true → Memory.wf (f d).hostMem = true) (d : Dev)
    (hw : Memory.wf d.hostMem = true) : Memory.wf (guardD c f d).hostMem = true := by
  cases c <;> simp [h, hw]

@[simp] theorem writeByte_mem (a : Nat) (b : Byte) (d : Dev) (w : Memory.wf d.hostMem = true) : Memory.wf (writeByte a b d).hostMem = true :=
  set_wf 0#8 d.hostMem a b w

@[simp] theorem writeBytes_mem (a : ℕ) (x1 : List Byte) (x2 : Dev) (hw : Memory.wf x2.hostMem = true) : Memory.wf (writeBytes a x1 x2).hostMem = true := by
  induction x1 generalizing a x2 with
  | nil => exact hw
  | cons b bs ih => exact ih (a + 1) (writeByte a b x2) (writeByte_mem a b x2 hw)


@[simp] theorem sendMsg_mem (v : ℕ) (d : Dev) (hw : Memory.wf d.hostMem = true) : Memory.wf (sendMsg v d).hostMem = true := by
  simp +contextual [sendMsg, hw]


@[simp] theorem requestMsg_mem (v : ℕ) (d : Dev) (hw : Memory.wf d.hostMem = true) : Memory.wf (requestMsg v d).hostMem = true := by
  simp +contextual [requestMsg, hw]


@[simp] theorem arrivedBit_mem (m : ℕ) (d : Dev) (hw : Memory.wf d.hostMem = true) : Memory.wf (arrivedBit m d).hostMem = true := by
  simp +contextual [arrivedBit, hw]


@[simp] theorem checked_mem (t : Taken) (checks : List (Bool × ℕ × ℕ)) (body : Dev → Dev) (d : Dev) (h0 : ∀  d, Memory.wf d.hostMem = true → Memory.wf (body  d).hostMem = true) (hw : Memory.wf d.hostMem = true) : Memory.wf (checked t checks body d).hostMem = true := by
  unfold checked; split
  · simp [hw]
  · exact h0 _ hw


@[simp] theorem command_mem (op : ℕ) (c : MnrCmd) (body : Taken → Dev → Dev) (d : Dev) (h0 : ∀ y0 d, Memory.wf d.hostMem = true → Memory.wf (body y0 d).hostMem = true) (hw : Memory.wf d.hostMem = true) : Memory.wf (command op c body d).hostMem = true := by
  unfold command
  have hb := beginCommand_frame op c (cmdAt c d)
  split <;> rename_i h <;> rw [h] at hb <;> (try split) <;> simp_all


@[simp] theorem hostWrite_mem (f : Dev → Dev) (d : Dev) (h0 : ∀  d, Memory.wf d.hostMem = true → Memory.wf (f  d).hostMem = true) (hw : Memory.wf d.hostMem = true) : Memory.wf (hostWrite f d).hostMem = true := by
  unfold hostWrite; split
  · exact h0 _ hw
  · exact hw


@[simp] theorem cqMessage_mem (q : ℕ) (d : Dev) (hw : Memory.wf d.hostMem = true) : Memory.wf (cqMessage q d).hostMem = true := by
  simp +contextual [cqMessage, hw]


@[simp] theorem writeWords_mem (a : ℕ) (ws : List Word) (d : Dev) (hw : Memory.wf d.hostMem = true) : Memory.wf (writeWords a ws d).hostMem = true := by
  simp +contextual [writeWords, hw]


@[simp] theorem writeEntry_mem (q : ℕ) (e : CqEntry) (d : Dev) (hw : Memory.wf d.hostMem = true) : Memory.wf (writeEntry q e d).hostMem = true := by
  simp +contextual [writeEntry, hw]


@[simp] theorem postEntries_mem (x0 : ℕ) (x1 : ℕ) (x2 : Dev) (hw : Memory.wf x2.hostMem = true) : Memory.wf (postEntries x0 x1 x2).hostMem = true := by
  induction x0 generalizing x2 with
  | zero => exact hw
  | succ f ih => unfold postEntries; dsimp only; (repeat' split) <;> simp [ih, hw]


@[simp] theorem pushEntry_mem (n : ℕ) (e : CqEntry) (d : Dev) (hw : Memory.wf d.hostMem = true) : Memory.wf (pushEntry n e d).hostMem = true := by
  simp +contextual [pushEntry, hw]


@[simp] theorem takeDesc_mem (x0 : ℕ) (x1 : ℕ) (x2 : Dev) (hw : Memory.wf x2.hostMem = true) : Memory.wf (takeDesc x0 x1 x2).hostMem = true := by
  induction x0 generalizing x2 with
  | zero => exact hw
  | succ f ih => unfold takeDesc; dsimp only; (repeat' split) <;> simp [ih, hw]


@[simp] theorem cqDrain_mem (q : ℕ) (d : Dev) (hw : Memory.wf d.hostMem = true) : Memory.wf (cqDrain q d).hostMem = true := by
  unfold cqDrain
  refine each_mem _ ?_ _ _ ?_
  · intro n d hw; split <;> simp [hw]
  · simp [hw]


@[simp] theorem cqEnable_mem (q : ℕ) (v : ℕ) (d : Dev) (hw : Memory.wf d.hostMem = true) : Memory.wf (cqEnable q v d).hostMem = true := by
  simp +contextual [cqEnable, hw]


@[simp] theorem cqHeadWrite_mem (q : ℕ) (v : ℕ) (d : Dev) (hw : Memory.wf d.hostMem = true) : Memory.wf (cqHeadWrite q v d).hostMem = true := by
  simp +contextual [cqHeadWrite, hw]


@[simp] theorem cqWrite_mem (q : ℕ) (off : ℕ) (v : ℕ) (d : Dev) (hw : Memory.wf d.hostMem = true) : Memory.wf (cqWrite q off v d).hostMem = true := by
  unfold cqWrite; (repeat' split) <;> simp +contextual [hw]


@[simp] theorem emptiedBit_mem (m : ℕ) (d : Dev) (hw : Memory.wf d.hostMem = true) : Memory.wf (emptiedBit m d).hostMem = true := by
  simp +contextual [emptiedBit, hw]


@[simp] theorem discardH2d_mem (m : ℕ) (d : Dev) (hw : Memory.wf d.hostMem = true) : Memory.wf (discardH2d m d).hostMem = true := by
  simp +contextual [discardH2d, hw]


@[simp] theorem h2dGo_mem (m : ℕ) (d : Dev) (hw : Memory.wf d.hostMem = true) : Memory.wf (h2dGo m d).hostMem = true := by
  simp +contextual [h2dGo, hw]


@[simp] theorem msixWrite_mem (v : ℕ) (w : ℕ) (x : ℕ) (d : Dev) (hw : Memory.wf d.hostMem = true) : Memory.wf (msixWrite v w x d).hostMem = true := by
  simp +contextual [msixWrite, hw]


@[simp] theorem completeDesc_mem (n : ℕ) (status : ℕ) (d : Dev) (hw : Memory.wf d.hostMem = true) : Memory.wf (completeDesc n status d).hostMem = true := by
  unfold completeDesc; (repeat' split) <;> simp +contextual [hw]


@[simp] theorem endResend_mem (n : ℕ) (d : Dev) (hw : Memory.wf d.hostMem = true) : Memory.wf (endResend n d).hostMem = true := by
  unfold endResend; (repeat' split) <;> simp +contextual [hw]


@[simp] theorem groupStop_mem (q : ℕ) (d : Dev) (hw : Memory.wf d.hostMem = true) : Memory.wf (groupStop q d).hostMem = true := by
  unfold groupStop
  split
  · simp only [evalQueue_frame, updQueue_frame, updGroup_frame]
    refine each_mem _ ?_ _ _ hw
    intro n d hw
    refine pushEntry_mem _ _ _ ?_
    simp only [updRing_frame]
    refine completeDesc_mem _ _ _ ?_
    simp only [updRing_frame]
    exact endResend_mem _ _ (by simp [hw])
  · exact hw


@[simp] theorem ringEnable_mem (n : ℕ) (v : ℕ) (d : Dev) (hw : Memory.wf d.hostMem = true) : Memory.wf (ringEnable n v d).hostMem = true := by
  simp +contextual [ringEnable, hw]


@[simp] theorem ringResendRequest_mem (n : ℕ) (cnt : ℕ) (d : Dev) (hw : Memory.wf d.hostMem = true) : Memory.wf (ringResendRequest n cnt d).hostMem = true := by
  simp +contextual [ringResendRequest, hw]


@[simp] theorem ringWrite_mem (n : ℕ) (off : ℕ) (v : ℕ) (d : Dev) (hw : Memory.wf d.hostMem = true) : Memory.wf (ringWrite n off v d).hostMem = true := by
  unfold ringWrite; (repeat' split) <;> simp +contextual [hw]


@[simp] theorem bar0Word_mem (off : ℕ) (v : ℕ) (d : Dev) (hw : Memory.wf d.hostMem = true) : Memory.wf (bar0Word off v d).hostMem = true := by
  unfold bar0Word; dsimp only; (repeat' split) <;> first | exact hw | simp [hw]


@[simp] theorem bar0Write_mem (off : ℕ) (v : ℕ) (high : Option ℕ) (d : Dev) (hw : Memory.wf d.hostMem = true) : Memory.wf (bar0Write off v high d).hostMem = true := by
  unfold bar0Write
  refine hostWrite_mem _ _ ?_ hw
  intro d hw; (repeat' split) <;> simp [hw]


@[simp] theorem discardTo_mem (e : ℕ) (d : Dev) (hw : Memory.wf d.hostMem = true) : Memory.wf (discardTo e d).hostMem = true := by
  simp +contextual [discardTo, hw]


@[simp] theorem coreReset_mem (n : ℕ) (d : Dev) (hw : Memory.wf d.hostMem = true) : Memory.wf (coreReset n d).hostMem = true := by
  simp +contextual [coreReset, hw]


@[simp] theorem updateFails_mem (runs : Bool) (d : Dev) (hw : Memory.wf d.hostMem = true) : Memory.wf (updateFails runs d).hostMem = true := by
  unfold updateFails; (repeat' split) <;> simp +contextual [hw]


@[simp] theorem cpyReset_mem (n : ℕ) (d : Dev) (hw : Memory.wf d.hostMem = true) : Memory.wf (cpyReset n d).hostMem = true := by
  unfold cpyReset; (repeat' split) <;> simp +contextual [hw]


@[simp] theorem d2hPost_mem (m : ℕ) (ws : List Word) (se : Option ℕ) (d : Dev) (hw : Memory.wf d.hostMem = true) : Memory.wf (d2hPost m ws se d).hostMem = true := by
  simp +contextual [d2hPost, hw]


@[simp] theorem d2hGo_mem (m : ℕ) (d : Dev) (hw : Memory.wf d.hostMem = true) : Memory.wf (d2hGo m d).hostMem = true := by
  unfold d2hGo; (repeat' split) <;> simp +contextual [hw]


@[simp] theorem placeRecord_mem (x0 : ℕ) (x1 : ℕ) (x2 : ℕ) (x3 : ℕ) (x4 : Bool) (x5 : List Word) (x6 : Dev) (hw : Memory.wf x6.hostMem = true) : Memory.wf (placeRecord x0 x1 x2 x3 x4 x5 x6).2.hostMem = true := by
  induction x0 generalizing x6 with
  | zero => exact hw
  | succ f ih => unfold placeRecord; dsimp only; (repeat' split) <;> simp [ih, hw]


@[simp] theorem deliverTo_mem (n : ℕ) (s : ℕ) (k : ℕ) (words : List (List Word)) (resent : Bool) (ue : List ℕ) (d : Dev) (hw : Memory.wf d.hostMem = true) : Memory.wf (deliverTo n s k words resent ue d).2.hostMem = true := by
  unfold deliverTo
  extract_lets ws bad
  split
  rename_i ok d1 h
  have h1 : Memory.wf d1.hostMem = true := by
    have := placeRecord_mem 18 n k (at' ws 8 0).toNat bad ws d hw
    rwa [h] at this
  clear h
  clear_value bad
  dsimp only
  (repeat' split) <;> simp [h1]


@[simp] theorem loseDomain_mem (n : ℕ) (d : Dev) (hw : Memory.wf d.hostMem = true) : Memory.wf (loseDomain n d).hostMem = true := by
  unfold loseDomain; (repeat' split) <;> simp +contextual [hw]


@[simp] theorem domainReset_mem (c : MnrCmd) (d : Dev) (hw : Memory.wf d.hostMem = true) : Memory.wf (domainReset c d).hostMem = true := by
  unfold domainReset
  refine command_mem _ _ _ _ ?_ hw
  intro t d hw; dsimp only; (repeat' split)
  · simp [hw]
  · simp [hw]
  · refine each_mem _ (fun n d hw => loseDomain_mem n d hw) _ _ ?_
    simp [hw]


@[simp] theorem faultList_mem (c : MnrCmd) (d : Dev) (hw : Memory.wf d.hostMem = true) : Memory.wf (faultList c d).hostMem = true := by
  unfold faultList
  refine command_mem _ _ _ _ ?_ hw
  intro t d hw; refine checked_mem _ _ _ _ ?_ hw
  intro d hw; simp [hw]


@[simp] theorem sendWaitingMsgs_mem (d : Dev) (hw : Memory.wf d.hostMem = true) : Memory.wf (sendWaitingMsgs d).hostMem = true := by
  simp +contextual [sendWaitingMsgs, hw]


@[simp] theorem funcPowerChange_mem (st : FuncPower) (c : FuncCfg) (d : Dev) (hw : Memory.wf d.hostMem = true) : Memory.wf (funcPowerChange st c d).hostMem = true := by
  unfold funcPowerChange
  refine sendWaitingMsgs_mem _ (each_mem _ (fun q d hw => cqDrain_mem q d hw) _ _ ?_)
  split <;> simp [hw]


@[simp] theorem h2dDone_mem (m : ℕ) (d : Dev) (hw : Memory.wf d.hostMem = true) : Memory.wf (h2dDone m d).hostMem = true := by
  simp +contextual [h2dDone, hw]


@[simp] theorem hostReset_mem (d : Dev) (hw : Memory.wf d.hostMem = true) : Memory.wf (hostReset d).hostMem = true := by
  simp +contextual [hostReset, hw]


@[simp] theorem imageActivate_mem (c : MnrCmd) (d : Dev) (hw : Memory.wf d.hostMem = true) : Memory.wf (imageActivate c d).hostMem = true := by
  unfold imageActivate
  refine command_mem _ _ _ _ ?_ hw
  intro t d hw; dsimp only; (repeat' split) <;> simp [hw]


@[simp] theorem linkState_mem (st : LinkPower) (speed : ℕ) (width : ℕ) (mps : ℕ) (d : Dev) (hw : Memory.wf d.hostMem = true) : Memory.wf (linkState st speed width mps d).hostMem = true := by
  unfold linkState
  refine sendWaitingMsgs_mem _ (each_mem _ (fun q d hw => cqDrain_mem q d hw) _ _ ?_)
  split <;> simp [hw]


@[simp] theorem pcieLinkReset_mem (d : Dev) (hw : Memory.wf d.hostMem = true) : Memory.wf (pcieLinkReset d).hostMem = true := by
  unfold pcieLinkReset; (repeat' split) <;> simp +contextual [hw]


@[simp] theorem linkPowerChange_mem (st : LinkPower) (speed : ℕ) (width : ℕ) (mps : ℕ) (d : Dev) (hw : Memory.wf d.hostMem = true) : Memory.wf (linkPowerChange st speed width mps d).hostMem = true := by
  simp +contextual [linkPowerChange, hw]


@[simp] theorem liveUpdateTimeout_mem (d : Dev) (hw : Memory.wf d.hostMem = true) : Memory.wf (liveUpdateTimeout d).hostMem = true := by
  simp +contextual [liveUpdateTimeout, hw]


@[simp] theorem moderationTimer_mem (q : ℕ) (d : Dev) (hw : Memory.wf d.hostMem = true) : Memory.wf (moderationTimer q d).hostMem = true := by
  simp +contextual [moderationTimer, hw]


@[simp] theorem objRead_mem (c : MnrCmd) (d : Dev) (hw : Memory.wf d.hostMem = true) : Memory.wf (objRead c d).hostMem = true := by
  unfold objRead
  refine command_mem _ _ _ _ ?_ hw
  intro t d hw
  extract_lets id
  split
  · simp [hw]
  split
  · simp [hw]
  split
  · simp [hw]
  rename_i o ho
  have ht := objDef_tame id d o ho
  clear ho
  split
  · simp [hw]
  extract_lets ws size
  split
  · refine checked_mem _ _ _ _ ?_ hw
    intro d hw; simp [(ht.2 _).1, hw]
  · refine checked_mem _ _ _ _ ?_ hw
    intro d hw; simp [(ht.2 _).1, hw]


@[simp] theorem namedRead_mem (id : ℕ) (c : MnrCmd) (d : Dev) (hw : Memory.wf d.hostMem = true) : Memory.wf (namedRead id c d).hostMem = true := by
  simp +contextual [namedRead, hw]


@[simp] theorem registerAccess_mem (who : Option (Fin 5)) (addr : ℕ) (a : RegAccess) (d : Dev) (hw : Memory.wf d.hostMem = true) : Memory.wf (registerAccess who addr a d).hostMem = true := by
  unfold registerAccess; (repeat' split) <;> simp +contextual [hw]


@[simp] theorem resendStep_mem (n : ℕ) (s : ℕ) (r : Resend) (ue : List ℕ) (d : Dev) (hw : Memory.wf d.hostMem = true) : Memory.wf (resendStep n s r ue d).hostMem = true := by
  unfold resendStep
  extract_lets left has lost
  clear_value has
  split
  · simp [hw]
  · rename_i k _ _
    split
    · exact hw
    · rename_i r' _
      split
      rename_i ws dr h
      have hr : Memory.wf dr.hostMem = true := by
        have : dr.hostMem = d.hostMem := by rw [← readRecord_keeps (·.hostMem) s r' ue d (fun _ _ _ _ => by simp), h]
        rw [this]; exact hw
      clear h
      split
      rename_i ok d1 h
      have h1 : Memory.wf d1.hostMem = true := by
        have := deliverTo_mem n s k ws true (ueOf ws.length ue) dr hr
        rwa [h] at this
      clear h
      split
      · extract_lets r2 d2
        have h2 : Memory.wf d2.hostMem = true := by simp only [d2, updRing_frame]; exact h1
        split <;> simp [h2]
      · exact deliverTo_mem n s k ws true (ueOf ws.length ue) d hw


@[simp] theorem ringDeliver_mem (q : ℕ) (ue : List ℕ) (d : Dev) (hw : Memory.wf d.hostMem = true) : Memory.wf (ringDeliver q ue d).hostMem = true := by
  unfold ringDeliver
  split
  · exact hw
  · rename_i s _
    split
    · split
      · exact resendStep_mem _ _ _ _ _ hw
      · split
        · exact hw
        · rename_i e words d' h
          have h1 : Memory.wf d'.hostMem = true := by
            rw [headRecord_keeps (·.hostMem) q d (by simp) (by simp) (by simp) (by simp) e words d' h]; exact hw
          split
          · exact hw
          · rename_i n _
            extract_lets resent
            split
            rename_i ok d'' h
            have h2 : Memory.wf d''.hostMem = true := by
              have := deliverTo_mem n s e.k words resent e.ue d' h1
              rwa [h] at this
            split
            · exact h2
            · exact deliverTo_mem n s e.k words resent e.ue d hw
    · exact hw


@[simp] theorem ringDescFetch_mem (n : ℕ) (ws : List Word) (d : Dev) (hw : Memory.wf d.hostMem = true) : Memory.wf (ringDescFetch n ws d).hostMem = true := by
  simp +contextual [ringDescFetch, hw]


@[simp] theorem ringIdleFlush_mem (n : ℕ) (d : Dev) (hw : Memory.wf d.hostMem = true) : Memory.wf (ringIdleFlush n d).hostMem = true := by
  unfold ringIdleFlush; simp only []; (repeat' split) <;> simp_all +contextual


@[simp] theorem sessionClose_mem (c : MnrCmd) (d : Dev) (hw : Memory.wf d.hostMem = true) : Memory.wf (sessionClose c d).hostMem = true := by
  unfold sessionClose
  refine command_mem _ _ _ _ ?_ hw
  intro t d hw; refine checked_mem _ _ _ _ ?_ hw
  intro d hw; dsimp only
  simp only [refreshRings_frame, uMnr_hostMem, finish_frame]
  exact each_mem _ (fun q d hw => groupStop_mem q d hw) _ _ hw


@[simp] theorem sleepWake_mem (d : Dev) (hw : Memory.wf d.hostMem = true) : Memory.wf (sleepWake d).hostMem = true := by
  simp +contextual [sleepWake, hw]


end Sys2Proof.Laws
end

