-- ==== Sys2Proof/Laws/Modes.lean ====
section
/-! SUPPORT. Which operations can change the mode, and to what (Table 20.4). -/

namespace Sys2Proof.Laws

open Sys2Proof.Machine

@[simp] theorem runMove_ite (mo : Mode) (c : Prop) [Decidable c] (a b : Mode) : runMove mo (if c then a else b) = if c then runMove mo a else runMove mo b :=
  apply_ite (runMove mo) c a b

/-- A change within SCAN and HOLD may follow any other. -/
theorem runMove_scan (mo m n : Mode) (h : runMove mo m = true) (hm : m = .scan ∨ m = .hold) (hn : n = .scan ∨ n = .hold) : runMove mo n = true := by
  revert h
  obtain rfl | rfl := hm <;> obtain rfl | rfl := hn <;> cases mo <;> decide

/-- SAFE is entered from every mode in which the device runs. -/
theorem runMove_safe (mo m : Mode) (h : runMove mo m = true) (hm : m = .calibrate ∨ m = .ready ∨ m = .scan ∨ m = .hold) : runMove mo .safe = true := by
  revert h
  obtain rfl | rfl | rfl | rfl := hm <;> cases mo <;> decide

@[simp] theorem runMove_self (m : Mode) : runMove m m = true := by cases m <;> decide

/-- setMode leaves the mode it names. -/
@[simp] theorem setMode_mode (m : Mode) (d : Dev) : (setMode m d).pwr.mode = m := by
  unfold setMode
  split
  · assumption
  · simp

/-- The property holds after each if every item keeps it. -/
@[simp] theorem each_move {α : Type} (mo : Mode) (f : α → Dev → Dev) (h : ∀ x d, runMove mo d.pwr.mode = true → runMove mo (f x d).pwr.mode = true)
    (l : List α) (d : Dev) (hw : runMove mo d.pwr.mode = true) : runMove mo (each l f d).pwr.mode = true := by
  induction l generalizing d with
  | nil => exact hw
  | cons x xs ih => exact ih (f x d) (h x d hw)

@[simp] theorem guardD_move (mo : Mode) (c : Bool) (f : Dev → Dev) (h : ∀ d, runMove mo d.pwr.mode = true → runMove mo (f d).pwr.mode = true) (d : Dev)
    (hw : runMove mo d.pwr.mode = true) : runMove mo (guardD c f d).pwr.mode = true := by
  cases c <;> simp [h, hw]

@[simp] theorem enterSafe_move (mo : Mode) (cls : Option ℕ) (who : Option Who) (d : Dev) (hw : runMove mo d.pwr.mode = true) : runMove mo (enterSafe cls who d).pwr.mode = true := by
  unfold enterSafe
  split
  · rename_i h
    have hs := runMove_safe mo _ hw (by simpa [Dev.inMode] using h)
    extract_lets from_ d1 d2 d3 d4 d5 d6 d7 d8 d9 d10
    have h4 : runMove mo d4.pwr.mode = true := by simp [d4, hs]
    have h6 : runMove mo d6.pwr.mode = true := by simp [d6, d5, h4]
    have h7 : runMove mo d7.pwr.mode = true := by simp only [d7]; (repeat' split) <;> simp [h6]
    have h9 : runMove mo d9.pwr.mode = true := by simp only [d9, d8]; split <;> simp [h7]
    simp [d10, h9]
  · exact hw


@[simp] theorem paceStop_move (mo : Mode) (cause : ℕ) (d : Dev) (hw : runMove mo d.pwr.mode = true) : runMove mo (paceStop cause d).pwr.mode = true := by
  unfold paceStop
  split
  · rename_i h
    have hs := runMove_scan mo _ .hold hw (.inl h) (.inr rfl)
    simp [hs]
  · exact hw


@[simp] theorem faultRaise_move (mo : Mode) (c : ℕ) (source : ℕ) (line : Option ℕ) (status : ℕ) (d : Dev) (hw : runMove mo d.pwr.mode = true) : runMove mo (faultRaise c source line status d).pwr.mode = true := by
  unfold faultRaise; simp only []; (repeat' split) <;> simp_all +contextual


@[simp] theorem reelReadUe_move (mo : Mode) (s : ℕ) (r : Record) (i : ℕ) (d : Dev) (hw : runMove mo d.pwr.mode = true) : runMove mo (reelReadUe s r i d).pwr.mode = true := by
  simp +contextual [reelReadUe, hw]


@[simp] theorem outboundWord_move (mo : Mode) (q : ℕ) (w : QWord) (flip : ℕ) (ue : Bool) (d : Dev) (hw : runMove mo d.pwr.mode = true) : runMove mo (outboundWord q w flip ue d).2.pwr.mode = true := by
  unfold outboundWord; simp only []; (repeat' split) <;> simp_all +contextual


@[simp] theorem skeinPop_move (mo : Mode) (q : ℕ) (flip : ℕ) (ue : Bool) (d : Dev) (hw : runMove mo d.pwr.mode = true) : runMove mo (skeinPop q flip ue d).pwr.mode = true := by
  unfold skeinPop; simp only []; (repeat' split) <;> simp_all +contextual


@[simp] theorem servePop_move (mo : Mode) (q : ℕ) (d : Dev) (hw : runMove mo d.pwr.mode = true) : runMove mo (servePop q d).pwr.mode = true := by
  unfold servePop; (repeat' split) <;> simp +contextual [hw]


@[simp] theorem abortPacket_move (mo : Mode) (q : ℕ) (d : Dev) (hw : runMove mo d.pwr.mode = true) : runMove mo (abortPacket q d).pwr.mode = true := by
  simp +contextual [abortPacket, hw]


@[simp] theorem auxArbitration_move (mo : Mode) (prim : ArbRes) (chk : ArbRes) (d : Dev) (hw : runMove mo d.pwr.mode = true) : runMove mo (auxArbitration prim chk d).pwr.mode = true := by
  unfold auxArbitration
  split
  · exact hw
  · extract_lets tol fails pf cf d1 d2 d3
    have h2 : runMove mo d2.pwr.mode = true := by simp only [d2, d1]; split <;> simp [hw]
    clear_value d2
    have h3 : runMove mo d3.pwr.mode = true := by simp only [d3]; (repeat' split) <;> simp [h2]
    clear_value d3
    split <;> simp [h3]


@[simp] theorem checked_move (mo : Mode) (t : Taken) (checks : List (Bool × ℕ × ℕ)) (body : Dev → Dev) (d : Dev) (h0 : ∀  d, runMove mo d.pwr.mode = true → runMove mo (body  d).pwr.mode = true) (hw : runMove mo d.pwr.mode = true) : runMove mo (checked t checks body d).pwr.mode = true := by
  unfold checked; split
  · simp [hw]
  · exact h0 _ hw


@[simp] theorem command_move (mo : Mode) (op : ℕ) (c : MnrCmd) (body : Taken → Dev → Dev) (d : Dev) (h0 : ∀ y0 d, runMove mo d.pwr.mode = true → runMove mo (body y0 d).pwr.mode = true) (hw : runMove mo d.pwr.mode = true) : runMove mo (command op c body d).pwr.mode = true := by
  unfold command
  have hb := beginCommand_frame op c (cmdAt c d)
  split <;> rename_i h <;> rw [h] at hb <;> (try split) <;> simp_all


@[simp] theorem bankSupplyFault_move (mo : Mode) (b : ℕ) (v : ℕ) (d : Dev) (hw : runMove mo d.pwr.mode = true) : runMove mo (bankSupplyFault b v d).pwr.mode = true := by
  simp +contextual [bankSupplyFault, hw]


@[simp] theorem hostWrite_move (mo : Mode) (f : Dev → Dev) (d : Dev) (h0 : ∀  d, runMove mo d.pwr.mode = true → runMove mo (f  d).pwr.mode = true) (hw : runMove mo d.pwr.mode = true) : runMove mo (hostWrite f d).pwr.mode = true := by
  unfold hostWrite; split
  · exact h0 _ hw
  · exact hw


@[simp] theorem scanFault_move (mo : Mode) (src : ℕ) (d : Dev) (hw : runMove mo d.pwr.mode = true) : runMove mo (scanFault src d).pwr.mode = true := by
  simp +contextual [scanFault, hw]


@[simp] theorem faultBridgeOff_move (mo : Mode) (n : ℕ) (d : Dev) (hw : runMove mo d.pwr.mode = true) : runMove mo (faultBridgeOff n d).pwr.mode = true := by
  simp +contextual [faultBridgeOff, hw]


@[simp] theorem bridgesOff_move (mo : Mode) (d : Dev) (hw : runMove mo d.pwr.mode = true) : runMove mo (bridgesOff d).pwr.mode = true := by
  simp +contextual [bridgesOff, hw]


@[simp] theorem substitute_move (mo : Mode) (p : ℕ) (d : Dev) (hw : runMove mo d.pwr.mode = true) : runMove mo (substitute p d).pwr.mode = true := by
  unfold substitute; simp only []; (repeat' split) <;> simp_all +contextual


@[simp] theorem failConverter_move (mo : Mode) (p : ℕ) (d : Dev) (hw : runMove mo d.pwr.mode = true) : runMove mo (failConverter p d).pwr.mode = true := by
  simp +contextual [failConverter, hw]


@[simp] theorem failItem_move (mo : Mode) (i : CalItem) (d : Dev) (hw : runMove mo d.pwr.mode = true) : runMove mo (failItem i d).pwr.mode = true := by
  unfold failItem; (repeat' split) <;> simp +contextual [hw]


@[simp] theorem calEnd_move (mo : Mode) (r : CalRun) (d : Dev) (hw : runMove mo d.pwr.mode = true) : runMove mo (calEnd r d).pwr.mode = true := by
  unfold calEnd
  extract_lets bad all d0 d1 d2 d3 measured d4 d5 d6 d7 d8 none_ status d9 d10
  have h_d0 : runMove mo d0.pwr.mode = true := by simp only [d0]; (repeat' split) <;> simp [hw]
  clear_value d0
  have h_d1 : runMove mo d1.pwr.mode = true := by simp only [d1]; (repeat' split) <;> simp [h_d0]
  clear_value d1
  have h_d2 : runMove mo d2.pwr.mode = true := by simp only [d2]; (repeat' split) <;> simp [h_d1]
  clear_value d2
  have h_d3 : runMove mo d3.pwr.mode = true := by exact each_move mo _ (fun x d hw => by simp [hw]) _ _ h_d2
  clear_value d3
  have h_d4 : runMove mo d4.pwr.mode = true := by exact each_move mo _ (fun i d hw => by cases i <;> simp [hw]) _ _ h_d3
  clear_value d4
  have h_d5 : runMove mo d5.pwr.mode = true := by simp only [d5]; (repeat' split) <;> simp [h_d4]
  clear_value d5
  have h_d6 : runMove mo d6.pwr.mode = true := by simp only [d6]; (repeat' split) <;> simp [h_d5]
  clear_value d6
  have h_d7 : runMove mo d7.pwr.mode = true := by exact each_move mo _ (fun i d hw => by split <;> simp [hw]) _ _ h_d6
  clear_value d7
  have h_d8 : runMove mo d8.pwr.mode = true := by exact each_move mo _ (fun x d hw => failItem_move mo x d hw) _ _ h_d7
  clear_value d8
  have h_d9 : runMove mo d9.pwr.mode = true := by simp only [d9]; (repeat' split) <;> simp [h_d8]
  clear_value d9
  have h_d10 : runMove mo d10.pwr.mode = true := by simp only [d10]; (repeat' split) <;> simp [h_d9]
  clear_value d10
  (repeat' split) <;> simp [h_d10]


@[simp] theorem exhaustedChange_move (mo : Mode) (line : Option ℕ) (before : Dev) (d : Dev) (hw : runMove mo d.pwr.mode = true) : runMove mo (exhaustedChange line before d).pwr.mode = true := by
  simp +contextual [exhaustedChange, hw]


@[simp] theorem failVerdict_move (mo : Mode) (s : ℕ) (l : ℕ) (line : Option ℕ) (d : Dev) (hw : runMove mo d.pwr.mode = true) : runMove mo (failVerdict s l line d).pwr.mode = true := by
  simp +contextual [failVerdict, hw]


@[simp] theorem lampCheck_move (mo : Mode) (mask : ℕ) (mv : List ℕ) (d : Dev) (hw : runMove mo d.pwr.mode = true) : runMove mo (lampCheck mask mv d).2.pwr.mode = true := by
  simp +contextual [lampCheck, hw]


@[simp] theorem calLamp_move (mo : Mode) (c : MnrCmd) (mv : List ℕ) (d : Dev) (hw : runMove mo d.pwr.mode = true) : runMove mo (calLamp c mv d).pwr.mode = true := by
  unfold calLamp
  refine command_move mo _ _ _ _ ?_ hw
  intro t d hw; refine checked_move mo _ _ _ _ ?_ hw
  intro d hw
  have h := lampCheck_move mo t.arg mv d hw
  split
  rename_i n e he
  rw [he] at h
  simp only [finish_frame]
  exact h


@[simp] theorem calPassEnd_move (mo : Mode) (res : List (CalItem × Trim × Trim)) (d : Dev) (hw : runMove mo d.pwr.mode = true) : runMove mo (calPassEnd res d).pwr.mode = true := by
  unfold calPassEnd
  split
  · exact hw
  · extract_lets pairOf pairs
    split
    · split
      split
      extract_lets good bad again d1
      have h1 : runMove mo d1.pwr.mode = true := each_move mo _ (fun x d hw => by simp [hw]) _ _ hw
      (repeat' split) <;> simp [h1]
    · exact hw


@[simp] theorem failChecker_move (mo : Mode) (k : ℕ) (d : Dev) (hw : runMove mo d.pwr.mode = true) : runMove mo (failChecker k d).pwr.mode = true := by
  unfold failChecker; simp only []; (repeat' split) <;> simp_all +contextual


@[simp] theorem checkerArbitration_move (mo : Mode) (k : ℕ) (t : ℕ) (conv : ArbRes) (chk : ArbRes) (d : Dev) (hw : runMove mo d.pwr.mode = true) : runMove mo (checkerArbitration k t conv chk d).pwr.mode = true := by
  unfold checkerArbitration; simp only []; (repeat' split) <;> simp_all +contextual


@[simp] theorem converterFail_move (mo : Mode) (i : ℕ) (d : Dev) (hw : runMove mo d.pwr.mode = true) : runMove mo (converterFail i d).pwr.mode = true := by
  simp +contextual [converterFail, hw]


@[simp] theorem convLinkCrcFail_move (mo : Mode) (i : ℕ) (d : Dev) (hw : runMove mo d.pwr.mode = true) : runMove mo (convLinkCrcFail i d).pwr.mode = true := by
  simp +contextual [convLinkCrcFail, hw]


@[simp] theorem hdlReset_move (mo : Mode) (d : Dev) (hw : runMove mo d.pwr.mode = true) : runMove mo (hdlReset d).pwr.mode = true := by
  unfold hdlReset
  extract_lets was d1 d2 d3 d4 d5 d6 w d7 d8
  have h3 : runMove mo d3.pwr.mode = true := by
    simp only [d3, uHdl_pwr]
    exact each_move mo _ (fun x d hw => by simp [hw]) _ _ (by simpa [d1] using hw)
  clear_value d3
  have h4 : runMove mo d4.pwr.mode = true := by
    simp only [d4]; split
    · exact paceStop_move mo _ _ h3
    · split
      · simp only [hdlFixResume_frame]; exact h3
      · exact h3
  clear_value d4
  have h6 : runMove mo d6.pwr.mode = true := by simp only [d6, d5]; split <;> simp [h4]
  clear_value d6
  simp [d8, d7, h6]


@[simp] theorem linkDown_move (mo : Mode) (p : ℕ) (d : Dev) (hw : runMove mo d.pwr.mode = true) : runMove mo (linkDown p d).pwr.mode = true := by
  simp +contextual [linkDown, hw]


@[simp] theorem krmReset_move (mo : Mode) (d : Dev) (hw : runMove mo d.pwr.mode = true) : runMove mo (krmReset d).pwr.mode = true := by
  simp +contextual [krmReset, hw]


@[simp] theorem shuReset_move (mo : Mode) (d : Dev) (hw : runMove mo d.pwr.mode = true) : runMove mo (shuReset d).pwr.mode = true := by
  simp +contextual [shuReset, hw]


@[simp] theorem spnReset_move (mo : Mode) (d : Dev) (hw : runMove mo d.pwr.mode = true) : runMove mo (spnReset d).pwr.mode = true := by
  unfold spnReset; simp only []; (repeat' split) <;> simp_all +contextual


@[simp] theorem loseDomain_move (mo : Mode) (n : ℕ) (d : Dev) (hw : runMove mo d.pwr.mode = true) : runMove mo (loseDomain n d).pwr.mode = true := by
  unfold loseDomain; (repeat' split) <;> simp +contextual [hw]


@[simp] theorem domainReset_move (mo : Mode) (c : MnrCmd) (d : Dev) (hw : runMove mo d.pwr.mode = true) : runMove mo (domainReset c d).pwr.mode = true := by
  unfold domainReset
  refine command_move mo _ _ _ _ ?_ hw
  intro t d hw; dsimp only; (repeat' split)
  · simp [hw]
  · simp [hw]
  · refine each_move mo _ (fun n d hw => loseDomain_move mo n d hw) _ _ ?_
    simp [hw]


@[simp] theorem stageFault_move (mo : Mode) (n : ℕ) (b : ℕ) (off : Bool) (d : Dev) (hw : runMove mo d.pwr.mode = true) : runMove mo (stageFault n b off d).pwr.mode = true := by
  simp +contextual [stageFault, hw]


@[simp] theorem driverFault_move (mo : Mode) (n : ℕ) (d : Dev) (hw : runMove mo d.pwr.mode = true) : runMove mo (driverFault n d).pwr.mode = true := by
  simp +contextual [driverFault, hw]


@[simp] theorem encFault_move (mo : Mode) (n : ℕ) (d : Dev) (hw : runMove mo d.pwr.mode = true) : runMove mo (encFault n d).pwr.mode = true := by
  simp +contextual [encFault, hw]


@[simp] theorem encEdge_move (mo : Mode) (n : ℕ) (a : Bool) (b : Bool) (t : ℕ) (d : Dev) (hw : runMove mo d.pwr.mode = true) : runMove mo (encEdge n a b t d).pwr.mode = true := by
  unfold encEdge
  extract_lets d1 old was chA chB d2
  have h_d1 : runMove mo d1.pwr.mode = true := by simp [d1, hw]
  clear_value d1
  clear_value old
  clear_value chA
  clear_value chB
  have h_d2 : runMove mo d2.pwr.mode = true := by simp [d2, h_d1]
  clear_value d2
  split
  · exact hw
  · split
    · exact h_d1
    · split
      · split
        · simp [h_d2]
        · (repeat' split) <;> simp [h_d2]
      · exact h_d2


@[simp] theorem encPairStuck_move (mo : Mode) (n : ℕ) (d : Dev) (hw : runMove mo d.pwr.mode = true) : runMove mo (encPairStuck n d).pwr.mode = true := by
  simp +contextual [encPairStuck, hw]


@[simp] theorem extDriverFault_move (mo : Mode) (n : ℕ) (d : Dev) (hw : runMove mo d.pwr.mode = true) : runMove mo (extDriverFault n d).pwr.mode = true := by
  simp +contextual [extDriverFault, hw]


@[simp] theorem useThree_move (mo : Mode) (p : ℕ) (d : Dev) (hw : runMove mo d.pwr.mode = true) : runMove mo (useThree p d).pwr.mode = true := by
  simp +contextual [useThree, hw]


@[simp] theorem krmLinkUp_move (mo : Mode) (p : ℕ) (d : Dev) (hw : runMove mo d.pwr.mode = true) : runMove mo (krmLinkUp p d).pwr.mode = true := by
  unfold krmLinkUp; simp only []; (repeat' split) <;> simp_all +contextual


@[simp] theorem fabDiscover_move (mo : Mode) (c : MnrCmd) (up : ℕ) (nb : List (Fin 4 × ℕ × ℕ × Fin 4)) (d : Dev) (hw : runMove mo d.pwr.mode = true) : runMove mo (fabDiscover c up nb d).pwr.mode = true := by
  unfold fabDiscover
  refine command_move mo _ _ _ _ (fun t d hw => ?_) hw
  refine checked_move mo _ _ _ _ (fun d hw => ?_) hw
  simp only [finish_frame, raise_frame]
  refine each_move mo _ (fun q d hw => ?_) _ _ hw
  have h : runMove mo (if up.testBit q then krmLinkUp q d else d).pwr.mode = true := by split <;> simp [hw]
  generalize (if up.testBit q then krmLinkUp q d else d) = e at h ⊢
  (repeat' split) <;> simp [h]


@[simp] theorem paceLineStart_move (mo : Mode) (k : ℕ) (d : Dev) (hw : runMove mo d.pwr.mode = true) : runMove mo (paceLineStart k d).2.2.2.pwr.mode = true := by
  unfold paceLineStart
  extract_lets running a5 a4 w a3 a2 d1 slow rel first fl d2
  split
  · rename_i h
    simp only [uPace_pwr, setMode_mode]
    exact runMove_scan mo _ .scan hw h.1.2.symm (.inl rfl)
  have h1 : runMove mo d1.pwr.mode = true := by
    simp only [d1]
    split
    · rename_i h
      have hs := runMove_scan mo _ .scan hw h.2.symm (.inl rfl)
      have h5 : runMove mo a5.pwr.mode = true := by simp [a5, hs]
      have h4 : runMove mo a4.pwr.mode = true := by simp only [a4]; split <;> simp [h5]
      clear_value a4 a5
      simp [a2, a3, h4]
    · exact hw
  clear_value d1 first
  split
  · exact h1
  · have h2 : runMove mo d2.pwr.mode = true := by simp only [d2]; split <;> simp [h1]
    clear_value d2
    dsimp only
    split <;> simp [h2]


@[simp] theorem startLine_move (mo : Mode) (k : ℕ) (pos : ℤ) (t : ℕ) (d : Dev) (hw : runMove mo d.pwr.mode = true) : runMove mo (startLine k pos t d).pwr.mode = true := by
  unfold startLine
  extract_lets d0 again frame d1 d2
  have h2 : runMove mo d2.pwr.mode = true := by simp only [d2, d1, d0]; split <;> simp [hw]
  clear_value d2
  have h := paceLineStart_move mo k d2 h2
  split
  rename_i priming fl miss e he
  rw [he] at h
  simp only at h
  clear he
  simp [h]


@[simp] theorem followedLineStart_move (mo : Mode) (t : ℕ) (d : Dev) (hw : runMove mo d.pwr.mode = true) : runMove mo (followedLineStart t d).pwr.mode = true := by
  unfold followedLineStart; simp only []; (repeat' split) <;> simp_all +contextual


@[simp] theorem tableRead_move (mo : Mode) (err : TableErr) (b : Bool) (k : ℕ) (d : Dev) (hw : runMove mo d.pwr.mode = true) : runMove mo (tableRead err b k d).pwr.mode = true := by
  unfold tableRead; (repeat' split) <;> simp +contextual [hw]


@[simp] theorem heddleSample_move (mo : Mode) (err : TableErr) (d : Dev) (hw : runMove mo d.pwr.mode = true) : runMove mo (heddleSample err d).pwr.mode = true := by
  unfold heddleSample; simp only []; (repeat' split) <;> simp_all +contextual


@[simp] theorem hostReset_move (mo : Mode) (d : Dev) (hw : runMove mo d.pwr.mode = true) : runMove mo (hostReset d).pwr.mode = true := by
  simp +contextual [hostReset, hw]


@[simp] theorem linkData_move (mo : Mode) (l : ℕ) (lat : ℕ) (d : Dev) (hw : runMove mo d.pwr.mode = true) : runMove mo (linkData l lat d).pwr.mode = true := by
  simp +contextual [linkData, hw]


@[simp] theorem ilasReceived_move (mo : Mode) (l : Fin 8) (i : Ilas) (arrive : List ℕ) (lat : ℕ) (d : Dev) (hw : runMove mo d.pwr.mode = true) : runMove mo (ilasReceived l i arrive lat d).pwr.mode = true := by
  simp +contextual [ilasReceived, hw]


@[simp] theorem ilmApply_move (mo : Mode) (id : ℕ) (ws : List Word) (d : Dev) (hw : runMove mo d.pwr.mode = true) : runMove mo (ilmApply id ws d).pwr.mode = true := by
  unfold ilmApply
  extract_lets e1 e2 e3 e4
  have h1 : runMove mo e1.pwr.mode = true := by simp [e1, hw]
  clear_value e1
  have h2 : runMove mo e2.pwr.mode = true := by simp only [e2]; split <;> simp [h1]
  clear_value e2
  have h3 : e3.pwr.mode = e2.pwr.mode := by
    simp only [e3]
    split
    · refine each_mode _ ?_ _ _
      intro s e
      rw [each_mode _ (fun l e => (takeSpare_frame s l e).2.1)]
      exact (keepSpares_frame s d e).2.1
    · rfl
  have h4 : e4.pwr.mode = e2.pwr.mode :=
    by simp only [e4]
       rw [each_mode _ (fun s e => by split <;> simp only [refreshGate_frame]), (decideLamps_frame _).2.1, h3]
  have h5 : runMove mo e4.pwr.mode = true := by rw [h4]; exact h2
  clear h3 h4
  clear_value e3 e4
  exact exhaustedChange_move mo _ _ _ h5


@[simp] theorem linkReinit_move (mo : Mode) (l : Fin 8) (lost : ℕ) (d : Dev) (hw : runMove mo d.pwr.mode = true) : runMove mo (linkReinit l lost d).pwr.mode = true := by
  simp +contextual [linkReinit, hw]


@[simp] theorem jesdFrame_move (mo : Mode) (l : Fin 8) (data : List (List ℕ)) (errs : List (Fin 32)) (t : ℕ) (d : Dev) (hw : runMove mo d.pwr.mode = true) : runMove mo (jesdFrame l data errs t d).pwr.mode = true := by
  unfold jesdFrame
  extract_lets s std bad d1 d2 x hit width d3 n d4
  clear_value bad
  have h_d1 : runMove mo d1.pwr.mode = true := by simp only [d1]; (repeat' split) <;> simp [hw]
  clear_value d1
  have h_d2 : runMove mo d2.pwr.mode = true := by simp only [d2]; (repeat' split) <;> simp [h_d1]
  clear_value d2
  clear_value hit
  have h_d3 : runMove mo d3.pwr.mode = true := by simp [d3, h_d2]
  clear_value d3
  have h_d4 : runMove mo d4.pwr.mode = true := by simp [d4, h_d3]
  clear_value d4
  split <;> simp [h_d4]


@[simp] theorem receive_move (mo : Mode) (h : KHdr) (link : Bool) (disc : Bool) (b : KBlock) (accept : Dev → Dev) (d : Dev) (h0 : ∀  d, runMove mo d.pwr.mode = true → runMove mo (accept  d).pwr.mode = true) (hw : runMove mo d.pwr.mode = true) : runMove mo (receive h link disc b accept d).pwr.mode = true := by
  unfold receive
  extract_lets q x d1 b2 d2 d3 d4
  have h1 : runMove mo d1.pwr.mode = true := by simp only [d1]; split <;> simp [hw]
  have h3 : runMove mo d3.pwr.mode = true := by simp only [d3, d2]; split <;> simp [hw]
  have h4 : runMove mo d4.pwr.mode = true := h0 _ h3
  clear_value d4 d3 d2 d1
  (repeat' split) <;> (try simp only [uKrm_pwr, sendOn_frame, sendMask_frame, sendTo_frame, updPort_frame]) <;> first | exact h0 _ h3 | assumption


@[simp] theorem krmCtlApply_move (mo : Mode) (ws : List Word) (d : Dev) (hw : runMove mo d.pwr.mode = true) : runMove mo (krmCtlApply ws d).pwr.mode = true := by
  simp +contextual [krmCtlApply, hw]


@[simp] theorem pushPacket_move (mo : Mode) (q : ℕ) (ws : List QWord) (d : Dev) (hw : runMove mo d.pwr.mode = true) : runMove mo (pushPacket q ws d).pwr.mode = true := by
  simp +contextual [pushPacket, hw]


@[simp] theorem krmDataBlock_move (mo : Mode) (h : KHdr) (q : ℕ) (end_ : Bool) (abort : Bool) (d : Dev) (hw : runMove mo d.pwr.mode = true) : runMove mo (krmDataBlock h q end_ abort d).pwr.mode = true := by
  unfold krmDataBlock
  dsimp only
  refine receive_move mo _ _ _ _ _ _ (fun d hw => ?_) hw
  split
  · have h : runMove mo (pushPacket q (mapIx (fun i w => qword w (end_ && !abort && i + 1 == (groups8 h.pay).length)) (groups8 h.pay))
        (updPort h.port.val (fun x => { x with granted := Sparse.set 0 x.granted q (Sparse.get 0 x.granted q - (groups8 h.pay).length) }) d)).pwr.mode = true := by
      simp [hw]
    split <;> simp [h]
  · exact hw


@[simp] theorem krmLaneFail_move (mo : Mode) (p : ℕ) (l : ℕ) (d : Dev) (hw : runMove mo d.pwr.mode = true) : runMove mo (krmLaneFail p l d).pwr.mode = true := by
  simp +contextual [krmLaneFail, hw]


@[simp] theorem timeUnlock_move (mo : Mode) (d : Dev) (hw : runMove mo d.pwr.mode = true) : runMove mo (timeUnlock d).pwr.mode = true := by
  simp +contextual [timeUnlock, hw]


@[simp] theorem krmMasterLost_move (mo : Mode) (d : Dev) (hw : runMove mo d.pwr.mode = true) : runMove mo (krmMasterLost d).pwr.mode = true := by
  simp +contextual [krmMasterLost, hw]


@[simp] theorem replay_move (mo : Mode) (p : ℕ) (d : Dev) (hw : runMove mo d.pwr.mode = true) : runMove mo (replay p d).pwr.mode = true := by
  simp +contextual [replay, hw]


@[simp] theorem krmNakBlock_move (mo : Mode) (h : KHdr) (e : ℕ) (d : Dev) (hw : runMove mo d.pwr.mode = true) : runMove mo (krmNakBlock h e d).pwr.mode = true := by
  unfold krmNakBlock
  refine receive_move mo _ _ _ _ _ _ (fun d hw => ?_) hw
  dsimp only
  split <;> simp [hw]


@[simp] theorem krmReplayTimeout_move (mo : Mode) (p : ℕ) (d : Dev) (hw : runMove mo d.pwr.mode = true) : runMove mo (krmReplayTimeout p d).pwr.mode = true := by
  simp +contextual [krmReplayTimeout, hw]


@[simp] theorem krmTimeExchange_move (mo : Mode) (t1 : ℕ) (t2 : ℕ) (t3 : ℕ) (t4 : ℕ) (d : Dev) (hw : runMove mo d.pwr.mode = true) : runMove mo (krmTimeExchange t1 t2 t3 t4 d).pwr.mode = true := by
  unfold krmTimeExchange
  split
  · split
    · exact hw
    · rename_i p _
      extract_lets dl th delta theta d1 path step h corr d2 d3
      have h2 : runMove mo d2.pwr.mode = true := by simp only [d2, d1, uKrm_pwr, updPort_frame]; exact hw
      clear_value d2
      split
      · split
        · exact timeUnlock_move mo _ h2
        · exact h2
      · split
        · simp only [joinEnds_frame, faultClear_frame, d3, raise_frame, uKrm_pwr]; exact h2
        · exact h2
  · exact hw


@[simp] theorem krmTimeLockLost_move (mo : Mode) (d : Dev) (hw : runMove mo d.pwr.mode = true) : runMove mo (krmTimeLockLost d).pwr.mode = true := by
  simp +contextual [krmTimeLockLost, hw]


@[simp] theorem lampHeadroomFault_move (mo : Mode) (s : ℕ) (vled : ℕ) (d : Dev) (hw : runMove mo d.pwr.mode = true) : runMove mo (lampHeadroomFault s vled d).pwr.mode = true := by
  unfold lampHeadroomFault; simp only []; (repeat' split) <;> simp_all +contextual


@[simp] theorem lampSpareCmd_move (mo : Mode) (c : MnrCmd) (mv : ℕ) (d : Dev) (hw : runMove mo d.pwr.mode = true) : runMove mo (lampSpareCmd c mv d).pwr.mode = true := by
  unfold lampSpareCmd
  refine command_move mo _ _ _ _ ?_ hw
  intro t d hw; refine checked_move mo _ _ _ _ ?_ hw
  intro d hw
  split
  · simp [hw]
  · simp only [finish_frame]
    refine exhaustedChange_move mo _ _ _ ?_
    simp [hw]


@[simp] theorem lampVoltageRead_move (mo : Mode) (s : ℕ) (l : ℕ) (mv : ℕ) (d : Dev) (hw : runMove mo d.pwr.mode = true) : runMove mo (lampVoltageRead s l mv d).pwr.mode = true := by
  simp +contextual [lampVoltageRead, hw]


@[simp] theorem ownLineStart_move (mo : Mode) (t : ℕ) (d : Dev) (hw : runMove mo d.pwr.mode = true) : runMove mo (ownLineStart t d).pwr.mode = true := by
  unfold ownLineStart; simp only []; (repeat' split) <;> simp_all +contextual


@[simp] theorem lineStart_move (mo : Mode) (t : ℕ) (d : Dev) (hw : runMove mo d.pwr.mode = true) : runMove mo (lineStart t d).pwr.mode = true := by
  simp +contextual [lineStart, hw]


@[simp] theorem linkFrame_move (mo : Mode) (s : LinkSrc) (data : List (List ℕ)) (errs : List (Fin 32)) (t : ℕ) (d : Dev) (hw : runMove mo d.pwr.mode = true) : runMove mo (linkFrame s data errs t d).pwr.mode = true := by
  unfold linkFrame; (repeat' split) <;> simp +contextual [hw]


@[simp] theorem pcieLinkReset_move (mo : Mode) (d : Dev) (hw : runMove mo d.pwr.mode = true) : runMove mo (pcieLinkReset d).pwr.mode = true := by
  unfold pcieLinkReset; (repeat' split) <;> simp +contextual [hw]


@[simp] theorem linkPowerChange_move (mo : Mode) (st : LinkPower) (speed : ℕ) (width : ℕ) (mps : ℕ) (d : Dev) (hw : runMove mo d.pwr.mode = true) : runMove mo (linkPowerChange st speed width mps d).pwr.mode = true := by
  simp +contextual [linkPowerChange, hw]


@[simp] theorem paceResume_move (mo : Mode) (d : Dev) (hw : runMove mo d.pwr.mode = true) : runMove mo (paceResume d).pwr.mode = true := by
  unfold paceResume
  split
  · rename_i h
    split
    · unfold resumeExternal
      simp only [finishOpt_frame, setMode_mode]
      exact runMove_scan mo _ .scan hw (.inr h.1) (.inl rfl)
    · split
      · exact hw
      · split
        · split
          rename_i vf e he
          have := (fillTaper_frame d).2.1
          rw [he] at this
          simp only at this
          dsimp only
          split <;> simp [this, hw]
        · exact hw
  · exact hw


@[simp] theorem modeResume_move (mo : Mode) (w : Who) (d : Dev) (hw : runMove mo d.pwr.mode = true) : runMove mo (modeResume w d).pwr.mode = true := by
  unfold modeResume; (repeat' split) <;> simp +contextual [hw]


@[simp] theorem okApply_move (mo : Mode) (id : ℕ) (f : List Word → Dev → Dev) (x2 : Taken) (x3 : List Word) (x4 : Dev) (h0 : ∀ y0 d, runMove mo d.pwr.mode = true → runMove mo (f y0 d).pwr.mode = true) (hw : runMove mo x4.pwr.mode = true) : runMove mo (okApply id f x2 x3 x4).pwr.mode = true := by
  unfold okApply; simp only [finish_frame]; exact h0 _ _ hw


@[simp] theorem shuAxisApply_move (mo : Mode) (n : ℕ) (ws : List Word) (d : Dev) (hw : runMove mo d.pwr.mode = true) : runMove mo (shuAxisApply n ws d).pwr.mode = true := by
  simp +contextual [shuAxisApply, hw]


/-- A write of the object changes the mode only as a fault does. -/
def objMoves (o : ObjDef) : Prop :=
  ∀ mo t ws d, runMove mo d.pwr.mode = true → runMove mo (o.apply t ws d).pwr.mode = true

theorem spindleObj_moves (id : ℕ) (o : ObjDef) (h : spindleObj id = some o) : objMoves o := by
  unfold spindleObj at h
  dsimp only at h
  (repeat' split at h) <;> cases h <;> intro mo t ws d hw <;> simp +contextual [cfgObj, statusObj, okApply, hw]

theorem sensorObj_moves (id : ℕ) (o : ObjDef) (h : sensorObj id = some o) : objMoves o := by
  unfold sensorObj at h
  dsimp only at h
  (repeat' split at h) <;> cases h <;> intro mo t ws d hw <;> simp +contextual [cfgObj, statusObj, okApply, hw]

theorem captureObj_moves (id : ℕ) (o : ObjDef) (h : captureObj id = some o) : objMoves o := by
  unfold captureObj at h
  dsimp only at h
  (repeat' split at h) <;> cases h <;> intro mo t ws d hw <;> simp +contextual [cfgObj, statusObj, okApply, hw]

theorem linkObj_moves (id : ℕ) (o : ObjDef) (h : linkObj id = some o) : objMoves o := by
  unfold linkObj at h
  dsimp only at h
  (repeat' split at h) <;> cases h <;> intro mo t ws d hw
  · simp +contextual [cfgObj, okApply, hw]
  · generalize id - 0x1401 = l
    simp only [cfgObj, okApply, finish_frame]
    split <;> simp [hw]
  · generalize id - 0x1410 = l
    simp only [cfgObj, okApply, finish_frame]
    split <;> simp [hw]
  · simp [statusObj, hw]

theorem heddleObj_moves (id : ℕ) (o : ObjDef) (h : heddleObj id = some o) : objMoves o := by
  unfold heddleObj at h
  dsimp only at h
  (repeat' split at h) <;> cases h <;> intro mo t ws d hw <;> simp +contextual [okApply, bankObj, cfgObj, statusObj, hw]

theorem imageObj_moves (id : ℕ) (o : ObjDef) (h : imageObj id = some o) : objMoves o := by
  unfold imageObj at h
  dsimp only at h
  (repeat' split at h) <;> cases h <;> intro mo t ws d hw <;> simp +contextual [cfgObj, statusObj, okApply, hw]

theorem storeObj_moves (id : ℕ) (o : ObjDef) (h : storeObj id = some o) : objMoves o := by
  unfold storeObj at h
  dsimp only at h
  (repeat' split at h) <;> cases h <;> intro mo t ws d hw <;> simp +contextual [cfgObj, statusObj, okApply, hw]

theorem shuttleObj_moves (id : ℕ) (o : ObjDef) (h : shuttleObj id = some o) : objMoves o := by
  unfold shuttleObj at h
  dsimp only at h
  (repeat' split at h) <;> cases h <;> intro mo t ws d hw <;> simp +contextual [cfgObj, statusObj, okApply, hw]

theorem lampObj_moves (id : ℕ) (o : ObjDef) (h : lampObj id = some o) : objMoves o := by
  unfold lampObj at h
  dsimp only at h
  (repeat' split at h) <;> cases h <;> intro mo t ws d hw <;> simp +contextual [cfgObj, statusObj, okApply, hw]

theorem auxObj_moves (id : ℕ) (o : ObjDef) (h : auxObj id = some o) : objMoves o := by
  unfold auxObj at h
  dsimp only at h
  (repeat' split at h) <;> cases h <;> intro mo t ws d hw <;> simp +contextual [cfgObj, statusObj, okApply, hw]

theorem fabricObj_moves (id : ℕ) (o : ObjDef) (h : fabricObj id = some o) : objMoves o := by
  unfold fabricObj at h
  dsimp only at h
  (repeat' split at h) <;> cases h <;> intro mo t ws d hw <;> simp +contextual [cfgObj, statusObj, okApply, hw]

theorem controlObj_moves (id : ℕ) (o : ObjDef) (h : controlObj id = some o) : objMoves o := by
  unfold controlObj at h
  dsimp only at h
  (repeat' split at h) <;> cases h <;> intro mo t ws d hw <;> simp +contextual [cfgObj, statusObj, okApply, hw]

theorem chainObj_moves (n : ℕ) : objMoves (chainObj n) := by
  intro mo t ws d hw; simp [chainObj, chainApply, hw]

/-- A write of any object of Table 14.11 changes the mode only as a fault does. -/
theorem objDef_moves (id : ℕ) (d : Dev) (o : ObjDef) (h : objDef id d = some o) : objMoves o := by
  unfold objDef at h
  split at h
  · cases h; exact chainObj_moves _
  · split at h <;> first | exact spindleObj_moves _ _ h | exact sensorObj_moves _ _ h | exact captureObj_moves _ _ h | exact linkObj_moves _ _ h | exact heddleObj_moves _ _ h | exact imageObj_moves _ _ h | exact storeObj_moves _ _ h | exact shuttleObj_moves _ _ h | exact lampObj_moves _ _ h | exact auxObj_moves _ _ h | exact fabricObj_moves _ _ h | exact controlObj_moves _ _ h | cases h

@[simp] theorem objWrite_move (mo : Mode) (c : MnrCmd) (d : Dev) (hw : runMove mo d.pwr.mode = true) : runMove mo (objWrite c d).pwr.mode = true := by
  unfold objWrite
  refine command_move mo _ _ _ _ ?_ hw
  intro t d hw
  extract_lets id
  split
  · simp [hw]
  split
  · simp [hw]
  split
  · simp [hw]
  rename_i o ho
  have ht := objDef_moves id d o ho
  clear ho
  split
  · simp [hw]
  extract_lets ws ws'
  split
  · simp [hw]
  split
  · simp [hw]
  split
  · simp [hw]
  · exact ht mo _ _ _ hw


@[simp] theorem namedWrite_move (mo : Mode) (id : ℕ) (c : MnrCmd) (d : Dev) (hw : runMove mo d.pwr.mode = true) : runMove mo (namedWrite id c d).pwr.mode = true := by
  simp +contextual [namedWrite, hw]


@[simp] theorem paceBrake_move (mo : Mode) (d : Dev) (hw : runMove mo d.pwr.mode = true) : runMove mo (paceBrake d).pwr.mode = true := by
  simp +contextual [paceBrake, hw]


@[simp] theorem paceLaw_move (mo : Mode) (d : Dev) (hw : runMove mo d.pwr.mode = true) : runMove mo (paceLaw d).pwr.mode = true := by
  unfold paceLaw
  split
  rename_i vd e he
  have h := (demand_frame d).2.1
  rw [he] at h
  simp only at h
  have h0 : runMove mo e.pwr.mode = true := by rw [h]; exact hw
  clear he h
  extract_lets top d1 a vc d2 slow began d3 d4
  have h2 : runMove mo d2.pwr.mode = true := by simp only [d2, d1]; split <;> simp [h0]
  have h4 : runMove mo d4.pwr.mode = true := by simp only [d4, d3]; split <;> simp [h2]
  clear_value d4
  split
  · exact paceStop_move mo _ _ h4
  · exact h4


@[simp] theorem paceTick_move (mo : Mode) (d : Dev) (hw : runMove mo d.pwr.mode = true) : runMove mo (paceTick d).pwr.mode = true := by
  unfold paceTick; simp only []; (repeat' split) <;> simp_all +contextual


@[simp] theorem paceTickGroup_move (mo : Mode) (d : Dev) (hw : runMove mo d.pwr.mode = true) : runMove mo (paceTickGroup d).pwr.mode = true := by
  simp +contextual [paceTickGroup, hw]


@[simp] theorem packLine_move (mo : Mode) (d : Dev) (hw : runMove mo d.pwr.mode = true) : runMove mo (packLine d).pwr.mode = true := by
  unfold packLine; simp only []; (repeat' split) <;> simp_all +contextual


@[simp] theorem readRecord_move (mo : Mode) (s : ℕ) (r : Record) (ue : List ℕ) (d : Dev) (hw : runMove mo d.pwr.mode = true) : runMove mo (readRecord s r ue d).2.pwr.mode = true := by
  simp +contextual [readRecord, hw]


@[simp] theorem readNext_move (mo : Mode) (q : ℕ) (ue : List ℕ) (d : Dev) (hw : runMove mo d.pwr.mode = true) : runMove mo (readNext q ue d).pwr.mode = true := by
  unfold readNext; simp only []; (repeat' split) <;> simp_all +contextual


@[simp] theorem refFault_move (mo : Mode) (d : Dev) (hw : runMove mo d.pwr.mode = true) : runMove mo (refFault d).pwr.mode = true := by
  simp +contextual [refFault, hw]


@[simp] theorem resendStep_move (mo : Mode) (n : ℕ) (s : ℕ) (r : Resend) (ue : List ℕ) (d : Dev) (hw : runMove mo d.pwr.mode = true) : runMove mo (resendStep n s r ue d).pwr.mode = true := by
  unfold resendStep
  extract_lets left has lost
  clear_value has
  split
  · simp [hw]
  · rename_i k _ _
    split
    · exact hw
    · rename_i r' _
      split
      rename_i ws dr h
      have hr : runMove mo dr.pwr.mode = true := by
        have := readRecord_move mo s r' ue d hw
        rwa [h] at this
      clear h
      split
      rename_i ok d1 h
      have h1 : runMove mo d1.pwr.mode = true := by
        have := (deliverTo_frame n s k ws true (ueOf ws.length ue) dr).1
        rw [h] at this
        rw [show d1.pwr.mode = dr.pwr.mode from this]; exact hr
      clear h
      split
      · extract_lets r2 d2
        have h2 : runMove mo d2.pwr.mode = true := by simp only [d2, updRing_frame]; exact h1
        split <;> simp [h2]
      · rw [(deliverTo_frame n s k ws true (ueOf ws.length ue) d).1]; exact hw


@[simp] theorem ringDeliver_move (mo : Mode) (q : ℕ) (ue : List ℕ) (d : Dev) (hw : runMove mo d.pwr.mode = true) : runMove mo (ringDeliver q ue d).pwr.mode = true := by
  unfold ringDeliver
  split
  · exact hw
  · rename_i s _
    split
    · split
      · exact resendStep_move mo _ _ _ _ _ hw
      · split
        · exact hw
        · rename_i e words d' h
          have h1 : runMove mo d'.pwr.mode = true := by
            rw [headRecord_keeps (·.pwr.mode) q d (by simp) (by simp) (by simp) (by simp) e words d' h]; exact hw
          split
          · exact hw
          · rename_i n _
            extract_lets resent
            split
            rename_i ok d'' h
            have h2 : runMove mo d''.pwr.mode = true := by
              have := (deliverTo_frame n s e.k words resent e.ue d').1
              rw [h] at this
              rw [show d''.pwr.mode = d'.pwr.mode from this]; exact h1
            split
            · exact h2
            · rw [(deliverTo_frame n s e.k words resent e.ue d).1]; exact hw
    · exact hw


@[simp] theorem shuGenUpdate_move (mo : Mode) (t : ℕ) (d : Dev) (hw : runMove mo d.pwr.mode = true) : runMove mo (shuGenUpdate t d).pwr.mode = true := by
  simp +contextual [shuGenUpdate, hw]


@[simp] theorem skeinPush_move (mo : Mode) (q : ℕ) (ue : List ℕ) (d : Dev) (hw : runMove mo d.pwr.mode = true) : runMove mo (skeinPush q ue d).pwr.mode = true := by
  unfold skeinPush; simp only []; (repeat' split) <;> simp_all +contextual


@[simp] theorem ssiFrame_move (mo : Mode) (n : ℕ) (raw : ℕ) (t : ℕ) (d : Dev) (hw : runMove mo d.pwr.mode = true) : runMove mo (ssiFrame n raw t d).pwr.mode = true := by
  unfold ssiFrame
  split
  · extract_lets d1 nb r v old c same bad good d2 d3 d4
    have h2 : runMove mo d2.pwr.mode = true := by simp only [d2, d1]; split <;> simp [hw]
    have h4 : runMove mo d4.pwr.mode = true := by simp only [d4, d3]; simp [h2]
    clear_value d4
    split <;> simp [h4]
  · exact hw


@[simp] theorem stageOpenCoil_move (mo : Mode) (n : ℕ) (d : Dev) (hw : runMove mo d.pwr.mode = true) : runMove mo (stageOpenCoil n d).pwr.mode = true := by
  simp +contextual [stageOpenCoil, hw]


@[simp] theorem stageOvercurrent_move (mo : Mode) (n : ℕ) (d : Dev) (hw : runMove mo d.pwr.mode = true) : runMove mo (stageOvercurrent n d).pwr.mode = true := by
  simp +contextual [stageOvercurrent, hw]


@[simp] theorem stageOvertemp_move (mo : Mode) (n : ℕ) (d : Dev) (hw : runMove mo d.pwr.mode = true) : runMove mo (stageOvertemp n d).pwr.mode = true := by
  simp +contextual [stageOvertemp, hw]


@[simp] theorem stageOvertempWarn_move (mo : Mode) (n : ℕ) (d : Dev) (hw : runMove mo d.pwr.mode = true) : runMove mo (stageOvertempWarn n d).pwr.mode = true := by
  simp +contextual [stageOvertempWarn, hw]


@[simp] theorem stageVinLow_move (mo : Mode) (d : Dev) (hw : runMove mo d.pwr.mode = true) : runMove mo (stageVinLow d).pwr.mode = true := by
  simp +contextual [stageVinLow, hw]


@[simp] theorem swapWrite_move (mo : Mode) (action : ℕ) (c : MnrCmd) (d : Dev) (hw : runMove mo d.pwr.mode = true) : runMove mo (swapWrite action c d).pwr.mode = true := by
  simp +contextual [swapWrite, hw]


@[simp] theorem vinWarn_move (mo : Mode) (d : Dev) (hw : runMove mo d.pwr.mode = true) : runMove mo (vinWarn d).pwr.mode = true := by
  unfold vinWarn; simp only []; (repeat' split) <;> simp_all +contextual


/-- What the blocks cause of themselves is in Table 20.4. -/
theorem runMove_legal (m n : Mode) (h : runMove m n = true) : n = m ∨ legalMove m n = true := by
  revert h
  cases m <;> cases n <;> decide

/-- The change of the mode of a device is none, or one of Table 20.4. -/
def keepsTable (d e : Dev) : Prop := e.pwr.mode = d.pwr.mode ∨ legalMove d.pwr.mode e.pwr.mode = true

theorem keepsTable_of_move (d e : Dev) (h : runMove d.pwr.mode e.pwr.mode = true) : keepsTable d e := runMove_legal _ _ h

theorem legalMove_reset (m : Mode) : legalMove m .reset = true := by cases m <;> rfl

@[simp] theorem beginBoot_mode (d : Dev) : (beginBoot d).pwr.mode = .boot := by simp [beginBoot]

@[simp] theorem startCalibrate_mode (d : Dev) : (startCalibrate d).pwr.mode = .calibrate := by simp [startCalibrate]

@[simp] theorem enterReady_mode (d : Dev) : (enterReady d).pwr.mode = .ready := by
  unfold enterReady
  extract_lets was scanned d1 d2 d3 d4 d5 d6 d7
  simp [d7, d6, d5, d4, d3]

@[simp] theorem enterReset_mode (c : ℕ) (d : Dev) : (enterReset c d).pwr.mode = .reset := rfl

theorem powerOnRelease_table (d : Dev) : keepsTable d (powerOnRelease d) := by
  unfold powerOnRelease
  dsimp only
  split
  · rename_i h
    have hm : d.pwr.mode = .reset := by simp [mayBoot] at h; exact h.1.1
    exact .inr (by rw [hm, beginBoot_mode]; rfl)
  · exact .inl rfl

theorem sysResetRelease_table (d : Dev) : keepsTable d (sysResetRelease d) := by
  unfold sysResetRelease
  dsimp only
  split
  · rename_i h
    have hm : d.pwr.mode = .reset := by simp [mayBoot] at h; exact h.1.1
    exact .inr (by rw [hm, beginBoot_mode]; rfl)
  · exact .inl rfl

theorem vinPorFall_table (d : Dev) : keepsTable d (vinPorFall d) := .inr (legalMove_reset _)

theorem sysReset_table (d : Dev) : keepsTable d (sysReset d) := .inr (legalMove_reset _)

theorem pwrMonitorTick_table (vin : ℕ) (temp : ℤ) (d : Dev) : keepsTable d (pwrMonitorTick vin temp d) := by
  unfold pwrMonitorTick
  extract_lets d1 hot was d2
  split
  · exact .inl rfl
  split
  · exact .inr (legalMove_reset _)
  refine keepsTable_of_move _ _ ?_
  have h1 : runMove d.pwr.mode d1.pwr.mode = true := by simp [d1]
  have h2 : runMove d.pwr.mode d2.pwr.mode = true := by simp only [d2, taprootInput_frame]; exact h1
  clear_value d2 d1
  (repeat' split) <;> simp [h1, h2]

theorem bootEnd_table (map : List Word) (d : Dev) : keepsTable d (bootEnd map d) := by
  unfold bootEnd
  split
  · exact .inl rfl
  · rename_i hm
    split
    · exact .inl rfl
    · refine .inr ?_
      simp only [startCalibrate_mode]
      have : d.pwr.mode = .boot := by simpa using hm
      rw [this]; rfl

theorem calibrateEnd_table (delays mv : List ℕ) (d : Dev) : keepsTable d (calibrateEnd delays mv d) := by
  unfold calibrateEnd
  split
  · rename_i h
    extract_lets d1 d2 w
    have h1 : runMove d.pwr.mode d1.pwr.mode = true := by
      simp only [d1]; split
      · refine each_move _ _ ?_ _ _ (runMove_self _)
        intro p d hw; split <;> simp [hw]
      · simp
    have h2 : runMove d.pwr.mode d2.pwr.mode = true := by
      simp only [d2]; split
      · exact lampCheck_move _ _ _ _ h1
      · exact h1
    clear_value d2
    split
    · exact keepsTable_of_move _ _ h2
    · refine .inr ?_
      simp only [finishOpt_frame, enterReady_mode, h.1]
      rfl
  · exact .inl rfl

theorem readyEntryDone_table (d : Dev) : keepsTable d (readyEntryDone d) := by
  unfold readyEntryDone
  split
  · rename_i who scanDone _
    extract_lets rest last d1
    split
    · exact .inl rfl
    rename_i hs
    split
    · split
      · exact .inl (by simp)
      · refine .inl ?_
        refine each_keeps (·.pwr.mode) _ (fun l d => ?_) _ _
        split <;> simp
    · refine .inr ?_
      have h1 : d1.pwr.mode = .ready := by simp [d1]
      have : d.pwr.mode = .scan ∨ d.pwr.mode = .hold := by
        simp only [Dev.inMode, Bool.or_eq_true, Bool.not_eq_true', not_or, Bool.not_eq_false, List.contains_cons, List.contains_nil, Bool.or_false, beq_iff_eq] at hs
        exact hs.2
      have hl : legalMove d.pwr.mode .ready = true := by obtain h | h := this <;> rw [h] <;> rfl
      clear_value d1
      split <;> simp [h1, hl]
  · exact .inl rfl

theorem sleepCommit_table (d : Dev) : keepsTable d (sleepCommit d) := by
  unfold sleepCommit
  split
  · exact .inl rfl
  rename_i h
  have hm : d.pwr.mode = .ready := by
    by_contra hc
    exact h (.inr hc)
  split
  · exact .inl (by simp)
  · refine .inr ?_
    rw [hm]
    dsimp only
    split
    · simp [tapOnlyOff, legalMove]
    · simp [legalMove]

/-- Outside SCAN a stop does nothing. -/
theorem paceStop_idle (c : ℕ) (d : Dev) (h : d.pwr.mode ≠ .scan) : paceStop c d = d := by
  unfold paceStop
  rw [if_neg h]

/-- Outside SCAN a reset of the HOST domain leaves the mode. -/
theorem hostReset_idle (d : Dev) (h : d.pwr.mode ≠ .scan) : (hostReset d).pwr.mode = d.pwr.mode := by
  unfold hostReset
  extract_lets d1 d2 d3
  have h3 : d3.pwr.mode = d.pwr.mode := by simp [d3, d2, d1]
  clear_value d3
  split
  · rw [paceStop_idle _ _ (by rw [h3]; exact h), h3]
  · exact h3

theorem sleepWake_table (d : Dev) : keepsTable d (sleepWake d) := by
  unfold sleepWake
  split
  · exact .inl rfl
  rename_i h
  have hm : d.pwr.mode = .sleep := by
    by_contra hc
    exact h (.inr hc)
  split
  · split
    · exact .inl rfl
    · exact .inr (by simp [sleepWake.beginWake, hm, legalMove])
  · split
    · refine .inr ?_
      rw [hm]
      dsimp only
      split
      · rw [hostReset_idle _ (by simp)]
        simp [legalMove]
      · simp [legalMove]
    · exact .inl rfl

theorem modeChange_table (w : Who) (target lines : ℕ) (d : Dev) : keepsTable d (modeChange w target lines d) := by
  have hready : ∀ w e, e.pwr.mode = d.pwr.mode → keepsTable d (modeChange.finishReady w e) := fun w e he => by
    unfold modeChange.finishReady keepsTable
    extract_lets rest
    split
    · have h := readyEntryDone_table e
      unfold keepsTable at h
      rwa [he] at h
    · exact .inl (by simp [he])
  have hsafe : ∀ w e, (modeChange.finishSafe w e).pwr.mode = e.pwr.mode := fun w e => by
    unfold modeChange.finishSafe
    split <;> simp
  unfold modeChange
  split
  · exact .inl (by simp)
  · exact .inl (by simp)
  · exact .inl (by simp)
  · exact .inl (by simp)
  · rename_i h
    unfold modeScan
    split
    · exact .inl (by simp)
    · exact .inr (by rw [h]; simp [legalMove])
  · refine keepsTable_of_move _ _ ?_
    simp only [finish_frame]
    exact paceStop_move _ _ _ (by simp)
  · refine keepsTable_of_move _ _ ?_
    exact modeResume_move _ _ _ (by simp)
  · exact hready _ _ (by simp)
  · exact hready _ _ (by simp)
  · refine keepsTable_of_move _ _ ?_
    rw [hsafe]
    exact enterSafe_move _ _ _ _ (by simp)
  · refine keepsTable_of_move _ _ ?_
    rw [hsafe]
    exact enterSafe_move _ _ _ _ (by simp)
  · refine keepsTable_of_move _ _ ?_
    rw [hsafe]
    exact enterSafe_move _ _ _ _ (by simp)
  · refine keepsTable_of_move _ _ ?_
    rw [hsafe]
    exact enterSafe_move _ _ _ _ (by simp)
  · rename_i h
    unfold modeUnsafe
    split
    · exact .inl (by simp)
    · dsimp only
      split
      · exact .inr (by rw [h, startCalibrate_mode]; rfl)
      · exact .inr (by rw [h]; simp [legalMove])
  · refine .inl ?_
    split <;> simp
  · exact .inl (by simp)

theorem command_table (op : ℕ) (c : MnrCmd) (body : Taken → Dev → Dev) (d : Dev) (h : ∀ t e, e.pwr.mode = d.pwr.mode → keepsTable d (body t e)) :
    keepsTable d (command op c body d) := by
  unfold command
  have hb := (beginCommand_frame op c (cmdAt c d)).2.1
  have hc : (cmdAt c d).pwr.mode = d.pwr.mode := by simp
  split <;> rename_i e <;> rw [e] at hb
  · exact .inl (by simpa [hc] using hb)
  · split
    · exact h _ _ (by simpa [hc] using hb)
    · exact .inl (by simpa [hc] using hb)

theorem modeSet_table (c : MnrCmd) (d : Dev) : keepsTable d (modeSet c d) := by
  unfold modeSet
  refine command_table _ _ _ _ fun t e he => ?_
  unfold checked
  dsimp only
  split
  · exact .inl (by simp [he])
  · have h := modeChange_table t.who t.arg (t.w 0 + 4294967296 * t.w 1) e
    unfold keepsTable at h ⊢
    rwa [he] at h

end Sys2Proof.Laws
end

