-- ==== Sys2Proof/Tests/Slice0.lean ====
section
/-! SUPPORT. Tests: ill-formed commands that WellFormed refuses, small steps whose results the spec gives, and for every statement with
hypotheses values that meet them. -/

set_option Elab.async false

open Sys2Proof Sys2Proof.Machine

/-! WellFormed: for each check a command that breaks it and nothing else, and one that meets it. -/

theorem test_wf_cmd : (Instr.ping { mbx := 0, tag := 0, len := 1 }).wf = false ∧ (Instr.ping { mbx := 0, tag := 0, len := 1, pay := [0] }).wf = true := by
  decide +kernel
theorem test_wf_calPassEnd : (Instr.calPassEnd [(.conv 68, {}, {})] 0).wf = false ∧ (Instr.calPassEnd [(.fe 64, {}, {})] 0).wf = false ∧
    (Instr.calPassEnd [(.fe 0, { ofs := 32768 }, {})] 0).wf = false ∧ (Instr.calPassEnd [(.fe 0, {}, {}), (.fe 0, {}, {})] 0).wf = false ∧
    (Instr.calPassEnd [(.conv 67, {}, {}), (.fe 63, {}, {})] 0).wf = true := by decide +kernel
theorem test_wf_ilasReceived : (Instr.ilasReceived 0 ⟨256, 1, 1, 1, 1, 1, 0, 1, 0, 0⟩ ⟨[], 0⟩ 0).wf = false ∧
    (Instr.ilasReceived 0 ⟨1, 1, 1, 1, 1, 1, 0, 1, 2, 0⟩ ⟨[], 0⟩ 0).wf = false ∧ (Instr.ilasReceived 0 ⟨1, 1, 1, 1, 1, 1, 0, 1, 1, 1⟩ ⟨[], 0⟩ 0).wf = true := by decide +kernel
theorem test_wf_linkFrame : (Instr.linkFrame (.lane 0) [[65536]] [] 0).wf = false ∧
    (Instr.linkFrame (.lane 0) [[65535]] [3, 3] 0).wf = true ∧ (Instr.linkWindowOpen (.lane 0) ⟨[65536], 0⟩).wf = false := by decide +kernel
theorem test_wf_linkReinit : (Instr.linkReinit 0 (2 ^ 32) 0).wf = false := by decide +kernel
theorem test_wf_heddleSample : (Instr.heddleSample (.poisoned 0 65536) 0).wf = false ∧ (Instr.heddleSample .corrected 0).wf = true := by decide +kernel
theorem test_wf_pops : (Instr.skeinPop 0 (2 ^ 72) ⟨false, 0⟩).wf = false ∧ (Instr.reelHeaderPop 0 (2 ^ 72) 0).wf = false ∧ (Instr.skeinPush 0 ⟨[2 ^ 30], 0⟩).wf = false ∧
    (Instr.skeinPop 0 1 ⟨true, 0⟩).wf = true := by decide +kernel
theorem test_wf_ringDescFetch : (Instr.ringDescFetch 0 [0] 0).wf = false ∧ (Instr.ringDescFetch 0 (List.replicate 8 0) 0).wf = true := by decide +kernel
theorem test_wf_ringDeliverRecord : (Instr.ringDeliverRecord 0 [2 ^ 30] 0).wf = false ∧ (Instr.ringDeliverRecord 0 [] 0).wf = true := by decide +kernel
theorem test_wf_lamps : (Instr.calLamp { mbx := 0, tag := 0 } (List.replicate 129 0)).wf = false ∧ (Instr.calLamp { mbx := 0, tag := 0 } [65536]).wf = false ∧
    (Instr.lampSpare { mbx := 0, tag := 0 } 65536).wf = false ∧ (Instr.lampVoltageRead 0 0 65536 0).wf = false ∧
    (Instr.lampHeadroomFault 0 65536 0).wf = false ∧ (Instr.chainShiftDone (List.replicate 145 0) 0).wf = false := by decide +kernel
theorem test_wf_calibrateEnd : (Instr.calibrateEnd [0, 0, 0, 0, 0] [] 0).wf = false ∧ (Instr.calDelay { mbx := 0, tag := 0 } [0, 0, 0, 0, 0]).wf = false := by decide +kernel
theorem test_wf_fabDiscover : (Instr.fabDiscover { mbx := 0, tag := 0 } 16 []).wf = false ∧
    (Instr.fabDiscover { mbx := 0, tag := 0 } 1 [(0, 1, 4096, 0)]).wf = false ∧
    (Instr.fabDiscover { mbx := 0, tag := 0 } 1 [(0, 1, 2, 0), (0, 1, 2, 0)]).wf = false ∧ (Instr.fabDiscover { mbx := 0, tag := 0 } 1 [(0, 1, 2, 0)]).wf = true := by decide +kernel
theorem test_wf_extCmd : (Instr.extCmd { mbx := 0, tag := 0 } 0 0 (2 ^ 32) []).wf = false ∧
    (Instr.extCmd { mbx := 0, tag := 0 } 0 0 0 (List.replicate 14 0)).wf = false := by decide +kernel
theorem test_wf_krmDataBlock : (Instr.krmDataBlock { port := 0, seq := 0, dest := 1, src := 2 } 0 [0] false false 0).wf = false ∧
    (Instr.krmDataBlock { port := 0, seq := 0, dest := 1, src := 2 } 0 (List.replicate 136 0) false false 0).wf = false ∧
    (Instr.krmDataBlock { port := 0, seq := 0, dest := 1, src := 2, badType := some 5 } 0 [] false false 0).wf = false ∧
    (Instr.krmDataBlock { port := 0, seq := 0, dest := 1, src := 2 } 0 (List.replicate 8 0) true false 0).wf = true := by decide +kernel
theorem test_wf_krmBlocks : (Instr.krmTimeBlock { port := 0, seq := 0, dest := 1, src := 2 } false (2 ^ 64) 0).wf = false ∧
    (Instr.krmLineBlock { port := 0, seq := 0, dest := 1, src := 2 } ⟨0, 0, 0, 0, 8, false, false, false⟩ 0).wf = false ∧
    (Instr.krmPaceBlock { port := 0, seq := 0, dest := 1, src := 2 } (2 ^ 64) false none 0).wf = false ∧
    (Instr.krmDiscBlock { port := 0, seq := 0, dest := 1, src := 2 } 0 4096 0 false 0).wf = false ∧
    (Instr.krmDiscBlock { port := 0, seq := 0, dest := 1, src := 2 } 0 0 4 false 0).wf = false ∧
    (Instr.krmConfirmBlock { port := 0, seq := 0, dest := 1, src := 2 } (2 ^ 64) false 0).wf = false ∧
    (Instr.krmCreditBlock { port := 0, seq := 0, dest := 1, src := 2 } 0 65536 0).wf = false := by decide +kernel
theorem test_wf_krmGroupBlock : (Instr.krmGroupBlock { port := 0, seq := 0, dest := 1, src := 2 } (.join 0 64 0) 0).wf = false ∧
    (Instr.krmGroupBlock { port := 0, seq := 0, dest := 1, src := 2 } (.join 0 0 256) 0).wf = false ∧
    (Instr.krmGroupBlock { port := 0, seq := 0, dest := 1, src := 2 } (.join (2 ^ 64) 0 0) 0).wf = false ∧
    (Instr.krmGroupBlock { port := 0, seq := 0, dest := 1, src := 2 } (.answer 256 0) 0).wf = false ∧
    (Instr.krmGroupBlock { port := 0, seq := 0, dest := 1, src := 2 } (.members [{ addr := 1, tile := 0 }, { addr := 1, tile := 1 }] ⟨1, 1, 1, 0⟩) 0).wf = false ∧
    (Instr.krmGroupBlock { port := 0, seq := 0, dest := 1, src := 2 } .leave 0).wf = true := by decide +kernel
theorem test_wf_krmTimeExchange : (Instr.krmTimeExchange 2 0 0 1).wf = false ∧ (Instr.krmTimeExchange 0 2 1 3).wf = false ∧ (Instr.krmTimeExchange 0 1 2 3).wf = true := by decide +kernel
theorem test_wf_power : (Instr.pwrMonitorTick 65536 0 0).wf = false ∧ (Instr.pwrMonitorTick 0 32768 0).wf = false ∧ (Instr.shuTempMeasure 0 (-32769) 0).wf = false ∧
    (Instr.stagePwmPeriod 0 65536 0 0).wf = false ∧ (Instr.stagePwmPeriod 0 0 65536 0).wf = false ∧ (Instr.bootEnd (List.replicate 8 0) 0).wf = true := by decide +kernel
theorem test_wf_registerWrite : (Instr.registerWrite (some 2) 0 (some 0) true 0).wf = false ∧ (Instr.registerWrite (some 4) 0 none true 0).wf = false ∧
    (Instr.registerWrite none 8 (some 0) true 0).wf = true := by decide +kernel
theorem test_wf_misc : (Instr.reelScrub (2 ^ 32) 0).wf = false ∧ (Instr.jtagInstruction 65536 false 0).wf = false := by decide +kernel

/-! Small steps. -/

/-- The device of the next state, or the reset one. -/
def test_dev (o : Host.Outcome Machine.State Fault Refusal) : Dev :=
  match o with
  | .next s => s.dev
  | _ => {}

/-- A ready device with a session. -/
def test_ready : Machine.State := { dev := { pwr := { mode := .ready }, mnr := { open_ := true } } }

/-- On an empty queue the block idles. -/
theorem test_idle : step State.reset = .next State.reset := rfl
/-- R468: VIN above V_POR for 10 ms starts BOOT. -/
theorem test_power_on : (test_dev (step { State.reset with pending := [.powerOnRelease] })).pwr.mode = .boot := by decide +kernel
/-- R472: SYS_RESET_L low is RESET. -/
theorem test_sys_reset : (test_dev (exec .sysReset test_ready)).pwr.mode = .reset := by decide +kernel
/-- Table 14.5: PING answers OK with its tag. -/
theorem test_ping : (test_dev (exec (.ping { mbx := 2, tag := 5 }) test_ready)).mnr.out.map (fun x => (x.1, (x.2.1.getD 0 0).toNat / 65536 % 1024)) = [(2, 5)] := by
  decide +kernel
/-- R13: a rising edge of A counts one; the other ports stay. -/
theorem test_enc_edge : (test_dev (exec (.encEdge 1 (true, false) 3) { dev := { pwr := { mode := .ready }, objs := [(0x1002, [1])] } })).spn.cnt = [0, 1, 0, 0] := by decide +kernel
/-- R348's example: from 400,000 microsteps/s a deceleration of 2,048,000 microsteps/s² takes 39,062.5 microsteps. -/
theorem test_ramp : rampDist (400000 * 10 ^ 12) 0 (2048000 * 10 ^ 6) none = 390625 * 10 ^ 17 * 2 := by decide +kernel

/-! Values that meet the hypotheses of the statements. -/

/-- Values that meet the hypotheses of StepTakesFront. -/
theorem witness_step_takes_front :
  ∃ (s : State), s.pending = [] :=
  ⟨State.reset, by decide +kernel⟩

/-- Values that meet the hypotheses of ModeFollowsTable. -/
theorem witness_mode_follows_table :
  ∃ (s : State) (t : State), step s = .next t :=
  ⟨{ dev := {}, pending := [] }, { dev := {}, pending := [] }, by first | rfl | (refine ⟨?_, ?_⟩ <;> first | rfl | decide +kernel)⟩

/-- Values that meet the hypotheses of HostMemoryCanonical. -/
theorem witness_host_memory_canonical :
  ∃ (s : State) (t : State), hostMemOk s ∧ step s = .next t :=
  ⟨{ dev := {}, pending := [] }, { dev := {}, pending := [] }, by first | rfl | (refine ⟨?_, ?_⟩ <;> first | rfl | decide +kernel)⟩

/-- Values that meet the hypotheses of SecurityInvariants. -/
theorem witness_security_invariants :
  (∃ (s : State) (t : State), step s = .next t) ∧
  (∃ (s : State) (t : State), s.dev.sec.mapLocked = true ∧ step s = .next t) :=
  ⟨⟨{ dev := {}, pending := [] }, { dev := {}, pending := [] }, by first | rfl | (refine ⟨?_, ?_⟩ <;> first | rfl | decide +kernel)⟩,
   ⟨{ dev := { pwr := { mode := .ready }, sec := { mapLocked := true } } }, { dev := { pwr := { mode := .ready }, sec := { mapLocked := true } } }, by first | rfl | (refine ⟨?_, ?_⟩ <;> first | rfl | decide +kernel)⟩⟩

/-- Values that meet the hypotheses of WholeFamiliesLeaveAlone. -/
theorem witness_whole_families_leave_alone :
  (∃ (i : Instr) (s : State) (t : State), mayWriteHost i = false ∧ exec i s = .next t) ∧
  (∃ (i : Instr) (s : State) (t : State), mayChangeSecurity i = false ∧ exec i s = .next t) :=
  ⟨⟨.krmTimeExchange 0 0 0 0, State.reset, State.reset, by first | rfl | (refine ⟨?_, ?_⟩ <;> first | rfl | decide +kernel)⟩,
   ⟨.krmTimeExchange 0 0 0 0, State.reset, State.reset, by first | rfl | (refine ⟨?_, ?_⟩ <;> first | rfl | decide +kernel)⟩⟩

/-- Values that meet the hypotheses of ClaimTakesBestOffered. -/
theorem witness_claim_takes_best_offered :
  (∃ (c : Ic) (e : Nat) (n : Nat), Sparse.wf {} c.st = true ∧ c.best e = some n) ∧
  (∃ (c : Ic) (e : Nat), c.best e = none) :=
  ⟨⟨{ cfg := [(5, 0x1001)], st := [(5, { pending := true })], deliver := true }, 0, 5, by decide +kernel⟩,
   ⟨{}, 0, by decide +kernel⟩⟩

/-- Values that meet the hypotheses of InterruptClaimComplete. -/
theorem witness_interrupt_claim_complete :
  (∃ (s : State) (e : Fin 5) (t : Nat) (n : Nat), endpointRuns e.val s.dev = true ∧ s.dev.ic.best e.val = some n ∧ newCycle t s.dev) ∧
  (∃ (s : State) (e : Fin 5) (t : Nat), endpointRuns e.val s.dev = true ∧ s.dev.ic.best e.val = none ∧ newCycle t s.dev) ∧
  (∃ (s : State) (e : Fin 5) (n : Fin 1024) (t : Nat), endpointRuns e.val s.dev = true ∧ 1 ≤ n.val ∧ n.val < 512 ∧ (s.dev.ic.src n.val).active = true ∧ (s.dev.ic.src n.val).claimant = e.val ∧ newCycle t s.dev) ∧
  (∃ (s : State) (e : Fin 5) (n : Fin 1024) (t : Nat), endpointRuns e.val s.dev = true ∧ ¬(1 ≤ n.val ∧ n.val < 512 ∧ (s.dev.ic.src n.val).active = true ∧ (s.dev.ic.src n.val).claimant = e.val) ∧ newCycle t s.dev) ∧
  (∃ (c : Ic) (n : Nat) (m : Nat) (e : IcEv) (f : IcEv), cycle750 n = cycle750 m ∧ (cycle750 c.evAt ≠ cycle750 n ∨ c.evs = [])) :=
  ⟨⟨{ dev := { pwr := { mode := .ready }, ic := { cfg := [(5, 0x1001)], st := [(5, { pending := true })], deliver := true } } }, 0, 7, 5, by decide +kernel⟩,
   ⟨{ dev := { pwr := { mode := .ready } } }, 4, 7, by decide +kernel⟩,
   ⟨{ dev := { pwr := { mode := .ready }, ic := { st := [(511, { active := true, claimant := 4 })] } } }, 4, 511, 7, by decide +kernel⟩,
   ⟨{ dev := { pwr := { mode := .ready } } }, 3, 512, 7, by decide +kernel⟩,
   ⟨{}, 7, 8, .claim 0, .cfg 5 0x1001, by decide +kernel⟩⟩

/-- Values that meet the hypotheses of InterruptConfigurationAndInputs. -/
theorem witness_interrupt_configuration_and_inputs :
  (∃ (s : State) (e : Fin 5) (n : Fin 512) (v : Word) (t : Nat), endpointRuns e.val s.dev = true ∧ n.val ≠ 0 ∧ icGranted e.val n.val (secMap Obj.SEC_MAP.EXT_IRQ s.dev) = true ∧ bits (v.toNat &&& 0x1731F) 9 8 = s.dev.ic.sense n.val ∧ newCycle t s.dev) ∧
  (∃ (s : State) (n : Fin 512) (v : Word) (t : Nat), endpointRuns 3 s.dev = true ∧ icGranted 3 n.val (secMap Obj.SEC_MAP.EXT_IRQ s.dev) = false ∧ newCycle t s.dev) ∧
  (∃ (s : State) (v : Word) (t : Nat), endpointRuns 4 s.dev = true ∧ s.dev.ic.fromTap = false ∧ newCycle t s.dev) ∧
  (∃ (s : State) (e : Fin 5) (v : Word) (t : Nat), endpointRuns e.val s.dev = true ∧ e.val < 3) ∧
  (∃ (s : State) (n : Fin 512) (t : Nat), s.dev.tap.phase = .awake ∧ powered s.dev = true ∧ s.dev.pwr.mode ≠ .sleep ∧ 57 < n.val ∧ definedSource n.val = true ∧ s.dev.ic.sense n.val ≤ 1 ∧ (s.dev.ic.src n.val).input = false ∧ newCycle t s.dev) ∧
  (∃ (s : State) (n : Fin 512) (t : Nat), s.dev.tap.phase ≠ .saving ∧ powered s.dev = true ∧ 57 < n.val ∧ definedSource n.val = false) ∧
  (∃ (s : State) (n : Fin 512) (t : Nat), powered s.dev = true ∧ s.dev.tap.phase = .awake ∧ 57 < n.val ∧ s.dev.ic.sense n.val ≤ 1 ∧ newCycle t s.dev) ∧
  (∃ (s : State) (n : Fin 512) (i : Fin 32) (t : Nat), powered s.dev = true ∧ s.dev.tap.phase ≠ .saving ∧ n.val = i.val ∧ 1 ≤ i.val ∧ i.val ≤ 26) ∧
  (∃ (s : State) (n : Fin 512) (t : Nat), powered s.dev = true ∧ s.dev.tap.phase = .awake ∧ 40 ≤ n.val ∧ n.val ≤ 47) ∧
  (∃ (s : State) (n : Fin 512) (t : Nat), powered s.dev = true ∧ (n.val = 0 ∨ (27 ≤ n.val ∧ n.val < 40) ∨ (48 ≤ n.val ∧ n.val ≤ 57))) :=
  ⟨⟨{ dev := { pwr := { mode := .ready } } }, 3, 511, 0x1001, 7, by decide +kernel⟩,
   ⟨{ dev := { pwr := { mode := .ready } } }, 495, 0x1001, 7, by decide +kernel⟩,
   ⟨{ dev := { pwr := { mode := .ready } } }, 3, 7, by decide +kernel⟩,
   ⟨{ dev := { pwr := { mode := .ready } } }, 2, 1, 7, by decide +kernel⟩,
   ⟨{ dev := { pwr := { mode := .ready } } }, 511, 7, by decide +kernel⟩,
   ⟨{ dev := { pwr := { mode := .ready } } }, 58, 7, by decide +kernel⟩,
   ⟨{ dev := { pwr := { mode := .ready } } }, 58, 7, by decide +kernel⟩,
   ⟨{ dev := { pwr := { mode := .ready } } }, 26, 26, 7, by decide +kernel⟩,
   ⟨{ dev := { pwr := { mode := .ready } } }, 47, 7, by decide +kernel⟩,
   ⟨{ dev := { pwr := { mode := .ready } } }, 57, 7, by decide +kernel⟩⟩

/-- Values that meet the hypotheses of TaprootAndSleep. -/
theorem witness_taproot_and_sleep :
  (∃ (s : State) (i : Fin 32) (t : Nat), s.dev.tap.phase ≠ .saving ∧ tapOnly s.dev = true ∧ i.val ≠ 0 ∧ i.val < 27 ∧ s.dev.tap.armed = true ∧ bit s.dev.tap.watch i.val = true ∧ bit s.dev.tap.event i.val = false ∧ bit s.dev.tap.input i.val = false ∧ tapSense i.val s.dev = 1) ∧
  (∃ (s : State) (i : Fin 32) (v : Bool) (t : Nat), s.dev.tap.phase = .awake ∧ s.dev.pwr.mode ≠ .reset ∧ i.val ≠ 0 ∧ i.val < 27 ∧ tapOnly s.dev = false ∧ s.dev.tap.armed = false ∧ newCycle t s.dev) ∧
  (∃ (s : State) (i : Fin 32) (v : Bool) (t : Nat), s.dev.tap.phase ≠ .saving ∧ s.dev.pwr.mode ≠ .reset ∧ 27 ≤ i.val) ∧
  (∃ (s : State) (v : Word) (t : Nat), endpointRuns 4 s.dev = true) ∧
  (∃ (s : State) (t : Nat), s.dev.tap.phase ≠ .saving ∧ s.dev.pwr.mode ≠ .reset ∧ s.dev.tap.timer ≠ 0) ∧
  (∃ (s : State) (t : Nat), s.dev.pwr.mode = .ready ∧ s.dev.tap.phase = .saving ∧ wakePending s.dev = false) ∧
  (∃ (s : State) (t : Nat), s.dev.pwr.mode = .ready ∧ s.dev.tap.phase = .saving ∧ wakePending s.dev = true) ∧
  (∃ (s : State) (t : Nat), s.dev.pwr.mode = .sleep ∧ s.dev.tap.phase = .committed ∧ s.dev.ic.slpKind = false ∧ wakePending s.dev = true ∧ s.dev.pwr.linkResetDue = false) ∧
  (∃ (s : State) (t : Nat), s.dev.pwr.mode = .sleep ∧ s.dev.tap.phase = .committed ∧ s.dev.ic.slpKind = true ∧ s.dev.tap.event &&& s.dev.tap.watch ≠ 0) :=
  ⟨⟨{ dev := { pwr := { mode := .sleep }, ic := { slpKind := true }, tap := { armed := true, watch := 0x4000001 } } }, 26, 7, by decide +kernel⟩,
   ⟨{ dev := { pwr := { mode := .ready } } }, 26, true, 7, by decide +kernel⟩,
   ⟨{ dev := { pwr := { mode := .ready } } }, 31, true, 7, by decide +kernel⟩,
   ⟨{ dev := { pwr := { mode := .ready } } }, 3, 7, by decide +kernel⟩,
   ⟨{ dev := { pwr := { mode := .ready }, tap := { timer := 1 } } }, 7, by decide +kernel⟩,
   ⟨{ dev := { pwr := { mode := .ready }, tap := { phase := .saving } } }, 7, by decide +kernel⟩,
   ⟨{ dev := { pwr := { mode := .ready }, tap := { phase := .saving }, ic := { st := [(32, { pending := true })] } } }, 7, by decide +kernel⟩,
   ⟨{ dev := { pwr := { mode := .sleep }, tap := { phase := .committed }, ic := { st := [(39, { pending := true })] } } }, 7, by decide +kernel⟩,
   ⟨{ dev := { pwr := { mode := .sleep }, tap := { phase := .committed, event := 1, watch := 1 }, ic := { slpKind := true } } }, 7, by decide +kernel⟩⟩

/-- Values that meet the hypotheses of HostMailboxPost. -/
theorem witness_host_mailbox_post :
  (∃ (s : State) (m : Fin 8) (t : Nat), powered s.dev = true ∧ hostReach s.dev = true ∧ (h2dAt m.val s.dev).posted = false ∧ (h2dAt m.val s.dev).doneAt ≠ some (max s.dev.now t) ∧ noReset (max s.dev.now t) s.dev = true ∧ s.dev.tap.phase ≠ .saving) ∧
  (∃ (s : State) (m : Fin 8) (t : Nat), powered s.dev = true ∧ hostReach s.dev = true ∧ ((h2dAt m.val s.dev).posted = true ∨ (h2dAt m.val s.dev).doneAt = some (max s.dev.now t)) ∧ s.dev.tap.phase ≠ .saving) ∧
  (∃ (s : State) (m : Fin 8) (t : Nat), powered s.dev = true ∧ hostReach s.dev = true ∧ (d2hAt m.val s.dev).posted = true ∧ (d2hAt m.val s.dev).quiet (max s.dev.now t) = true) ∧
  (∃ (s : State) (m : Fin 8) (t : Nat), powered s.dev = true ∧ hostReach s.dev = true ∧ (d2hAt m.val s.dev).posted = false ∧ (d2hAt m.val s.dev).quiet (max s.dev.now t) = true) :=
  ⟨⟨{ dev := { pwr := { mode := .ready }, hs := { link := .l0 } } }, 7, 9, by decide +kernel⟩,
   ⟨{ dev := { pwr := { mode := .ready }, mbx := { h2d := List.replicate 8 { posted := true } }, hs := { link := .l0 } } }, 7, 9, by decide +kernel⟩,
   ⟨{ dev := { pwr := { mode := .ready }, mbx := { d2h := List.replicate 8 { posted := true } }, hs := { link := .l0 } } }, 7, 9, by decide +kernel⟩,
   ⟨{ dev := { pwr := { mode := .ready }, hs := { link := .l0 } } }, 0, 9, by decide +kernel⟩⟩

/-- Values that meet the hypotheses of CommandTaken. -/
theorem witness_command_taken :
  (∃ (s : State) (m : Fin 8) (t : Nat), h2dTakes m.val t s.dev = true ∧ s.dev.pwr.mode ≠ .reset ∧ (h2dAt m.val s.dev).posted = true ∧ (h2dAt m.val s.dev).receiver < 3 ∧ nextTaken m.val s.dev = true) ∧
  (∃ (s : State) (m : Fin 8) (t : Nat), h2dTakes m.val t s.dev = true ∧ s.dev.pwr.mode ≠ .reset ∧ (((h2dAt m.val s.dev).posted = false ∧ (h2dAt m.val s.dev).lostAt ≠ some (max s.dev.now t)) ∨ ((h2dAt m.val s.dev).posted = true ∧ (h2dAt m.val s.dev).receiver < 3 ∧ nextTaken m.val s.dev = false))) :=
  ⟨⟨{ dev := { pwr := { mode := .ready }, mbx := { h2d := List.replicate 8 { posted := true } } } }, 0, 9, by decide +kernel⟩,
   ⟨{ dev := { pwr := { mode := .ready } } }, 0, 9, by decide +kernel⟩⟩

/-- Values that meet the hypotheses of DevicePosts. -/
theorem witness_device_posts :
  (∃ (s : State) (m : Fin 8) (ws : List Word) (se : Option Nat) (rest : List (Nat × List Word × Option Nat)) (t : Nat), coresRun s.dev = true ∧ (d2hAt m.val s.dev).posted = false ∧ (d2hAt m.val s.dev).doneAt ≠ some (max s.dev.now t) ∧ s.dev.mnr.out = (m.val, ws, se) :: rest) ∧
  (∃ (s : State) (m : Fin 8) (e : Evt) (rest : List Evt) (t : Nat), coresRun s.dev = true ∧ (d2hAt m.val s.dev).posted = false ∧ (d2hAt m.val s.dev).doneAt ≠ some (max s.dev.now t) ∧ s.dev.mnr.out = [] ∧ s.dev.mnr.events = e :: rest ∧ s.dev.mnr.open_ = true ∧ s.dev.mnr.eventMbx = m.val) ∧
  (∃ (s : State) (m : Fin 8) (t : Nat), powered s.dev = true ∧ (d2hAt m.val s.dev).posted = true ∧ (d2hAt m.val s.dev).tmoSpent = false) ∧
  (∃ (s : State) (m : Nat) (ws : List Word) (se : Option Nat), noReset s.dev.now s.dev = true) :=
  ⟨⟨{ dev := { pwr := { mode := .ready }, mnr := { out := [(7, [1], some 0)] } } }, 7, [1], some 0, [], 9, by decide +kernel⟩,
   ⟨{ dev := { pwr := { mode := .ready }, mnr := { open_ := true, eventMbx := 7, events := [{ code := 1, domain := 0, status := 0, seq := 0, source := 0, line := none, detail := [] }] } } }, 7, { code := 1, domain := 0, status := 0, seq := 0, source := 0, line := none, detail := [] }, [], 9, by decide +kernel⟩,
   ⟨{ dev := { pwr := { mode := .ready }, mbx := { d2h := List.replicate 8 { posted := true } } } }, 7, 9, by decide +kernel⟩,
   ⟨{ dev := { pwr := { mode := .ready } } }, 7, [1], none, by decide +kernel⟩⟩

/-- Values that meet the hypotheses of InternalMailboxesAndRegisters. -/
theorem witness_internal_mailboxes_and_registers :
  (∃ (s : State) (i : Fin 16) (e : Fin 5) (t : Nat), endpointRuns e.val s.dev = true ∧ (mbiAt i.val s.dev).sender = e.val ∧ (mbiAt i.val s.dev).posted = false ∧ (mbiAt i.val s.dev).doneAt ≠ some (max s.dev.now t) ∧ noReset (max s.dev.now t) s.dev = true ∧ s.dev.tap.phase ≠ .saving) ∧
  (∃ (s : State) (i : Fin 16) (e : Fin 5) (t : Nat), endpointRuns e.val s.dev = true ∧ (mbiAt i.val s.dev).sender ≠ e.val ∧ s.dev.tap.phase ≠ .saving) ∧
  (∃ (s : State) (i : Fin 16) (e : Fin 5) (t : Nat), endpointRuns e.val s.dev = true ∧ (mbiAt i.val s.dev).receiver = e.val ∧ (mbiAt i.val s.dev).posted = true ∧ (mbiAt i.val s.dev).quiet (max s.dev.now t) = true) ∧
  (∃ (s : State) (i : Fin 16) (t : Nat), powered s.dev = true ∧ (mbiAt i.val s.dev).posted = true ∧ (mbiAt i.val s.dev).tmoSpent = false) ∧
  (∃ (s : State) (e : Fin 5) (v : Word) (t : Nat), endpointRuns e.val s.dev = true ∧ s.dev.mbx.fresh.1 ≠ max s.dev.now t) ∧
  (∃ (s : State) (v : Word) (t : Nat), powered s.dev = true ∧ hostReach s.dev = true ∧ s.dev.mbx.fresh.1 ≠ max s.dev.now t) ∧
  (∃ (s : State) (v : Fin 65536) (t : Nat), powered s.dev = true ∧ hostReach s.dev = true) ∧
  (∃ (s : State) (v : Word) (t : Nat), endpointRuns 4 s.dev = true ∧ bits v.toNat 4 0 < 8 ∧ bits v.toNat 10 8 < 5 ∧ (h2dAt (bits v.toNat 4 0) s.dev).lostAt ≠ some (max s.dev.now t)) ∧
  (∃ (s : State) (e : Fin 5) (v : Word) (t : Nat), endpointRuns e.val s.dev = true ∧ e.val ≠ 4) ∧
  (∃ (s : State) (addr : Word) (v : BitVec 64) (t : Nat), endpointRuns 3 s.dev = true ∧ addr.toNat % 4 = 0 ∧ (addr.toNat < 0x08000000 ∨ 0x09002000 ≤ addr.toNat) ∧ s.dev.tap.phase ≠ .saving) ∧
  (∃ (s : State) (off : Word) (t : Nat), powered s.dev = true ∧ hostReach s.dev = true ∧ off.toNat = 0x40) ∧
  (∃ (s : State) (off : Word) (t : Nat), powered s.dev = true ∧ hostReach s.dev = true ∧ s.dev.tap.phase ≠ .saving ∧ off.toNat % 4 = 0 ∧ (0x800 ≤ off.toNat ∨ off.toNat % 256 ≠ 0x44)) ∧
  (∃ (s : State) (m : Fin 8) (off : Word) (t : Nat), powered s.dev = true ∧ hostReach s.dev = true ∧ s.dev.tap.phase ≠ .saving ∧ off.toNat = 256 * m.val + 0x44) ∧
  (∃ (s : State) (e : Fin 5) (i : Fin 16) (addr : Word) (t : Nat), endpointRuns e.val s.dev = true ∧ s.dev.tap.phase ≠ .saving ∧ addr.toNat = 0x08000044 + 256 * i.val) :=
  ⟨⟨{ dev := { pwr := { mode := .ready } } }, 15, 1, 9, by decide +kernel⟩,
   ⟨{ dev := { pwr := { mode := .ready } } }, 15, 0, 9, by decide +kernel⟩,
   ⟨{ dev := { pwr := { mode := .ready }, mbx := { mbi := List.replicate 16 { posted := true, sender := 0, receiver := 4 } } } }, 15, 4, 9, by decide +kernel⟩,
   ⟨{ dev := { pwr := { mode := .ready }, mbx := { mbi := List.replicate 16 { posted := true, sender := 0, receiver := 4 } } } }, 15, 9, by decide +kernel⟩,
   ⟨{ dev := { pwr := { mode := .ready } } }, 4, 3, 9, by decide +kernel⟩,
   ⟨{ dev := { pwr := { mode := .ready }, hs := { link := .l0 } } }, 0x101, 9, by decide +kernel⟩,
   ⟨{ dev := { pwr := { mode := .ready }, hs := { link := .l0 } } }, 65535, 9, by decide +kernel⟩,
   ⟨{ dev := { pwr := { mode := .ready } } }, 0x407, 9, by decide +kernel⟩,
   ⟨{ dev := { pwr := { mode := .ready } } }, 3, 0x407, 9, by decide +kernel⟩,
   ⟨{ dev := { pwr := { mode := .ready } } }, 0x0A000000, 1, 9, by decide +kernel⟩,
   ⟨{ dev := { pwr := { mode := .ready }, hs := { link := .l0 } } }, 0x40, 9, by decide +kernel⟩,
   ⟨{ dev := { pwr := { mode := .ready }, hs := { link := .l0 } } }, 0x30000, 9, by decide +kernel⟩,
   ⟨{ dev := { pwr := { mode := .ready }, mbx := { h2d := List.replicate 8 { overrun := true } }, hs := { link := .l0 } } }, 7, 0x744, 9, by decide +kernel⟩,
   ⟨{ dev := { pwr := { mode := .ready } } }, 4, 15, 0x08000F44, 9, by decide +kernel⟩⟩

/-- Values that meet the hypotheses of CommandStarts. -/
theorem witness_command_starts :
  ∃ (s : State) (op : Nat) (c : MnrCmd), coresRun s.dev = true ∧ (opModes op).contains s.dev.pwr.mode = true ∧ c.hi = 0 ∧ c.len ≠ 15 ∧ knownOpcode op = true ∧ opcodeGranted op s.dev = true ∧ (s.dev.mnr.open_ = true ∨ op = Op.PING ∨ op = Op.SESSION_OPEN ∨ op = Op.DEV_INFO) ∧ s.dev.mnr.tags.any (fun r => r.who.tag == c.tag.val) = false ∧ s.dev.mnr.taken = [] ∧ (isBarrier op = true → s.dev.mnr.tags.all (fun r => r.deferred) = true) :=
  ⟨{ dev := { pwr := { mode := .ready }, mnr := { open_ := true } } }, Op.MODE_SET, { mbx := 7, tag := 1023, len := 14, arg := 4 }, by decide +kernel⟩

/-- Values that meet the hypotheses of CommandAnsweredAtOnce. -/
theorem witness_command_answered_at_once :
  ∃ (op : Nat) (c : MnrCmd) (t : Taken) (body : Taken → Dev → Dev) (d : Dev), (beginCommand op c (cmdAt c d)).2 = some t ∧ (opModes op).contains (begun op c d).pwr.mode = false :=
  ⟨Op.CAL_RUN, { mbx := 0, tag := 0 }, takenOf Op.CAL_RUN { mbx := 0, tag := 0 } {}, fun _ d => d, { pwr := { mode := .scan }, mnr := { open_ := true } }, by decide +kernel⟩

/-- Values that meet the hypotheses of CommandRejections. -/
theorem witness_command_rejections :
  (∃ (m : Nat) (hi : Nat) (tag : Nat) (op : Nat) (len : Nat) (arg : Nat) (pe : Nat) (pay : List Word) (d : Dev), pe ≠ d.hs.hostEpoch) ∧
  (∃ (m : Nat) (hi : Nat) (tag : Nat) (op : Nat) (len : Nat) (arg : Nat) (pay : List Word) (d : Dev), d.mnr.tags.any (fun r => r.who.tag == tag) = true) ∧
  (∃ (m : Nat) (hi : Nat) (tag : Nat) (op : Nat) (len : Nat) (arg : Nat) (pay : List Word) (d : Dev), d.mnr.tags.any (fun r => r.who.tag == tag) = false ∧ (len = 15 ∨ hi ≠ 0 ∨ knownOpcode op = false ∨ opcodeGranted op d = false ∨ (d.mnr.open_ = false ∧ op ≠ Op.PING ∧ op ≠ Op.SESSION_OPEN ∧ op ≠ Op.DEV_INFO))) :=
  ⟨⟨0, 0, 5, 0, 0, 0, 1, [], {}, by decide +kernel⟩,
   ⟨0, 0, 5, 0, 0, 0, [], { mnr := { tags := [{ who := ⟨0, 5, 0, 0⟩ }] } }, by decide +kernel⟩,
   ⟨0, 0, 5, 128, 0, 0, [], {}, by decide +kernel⟩⟩

/-- Values that meet the hypotheses of CompletionAndLog. -/
theorem witness_completion_and_log :
  (∃ (w : Who) (st : Nat) (x : Nat) (res : List Word) (d : Dev), w.sess = d.mnr.sess) ∧
  (∃ (w : Who) (st : Nat) (x : Nat) (res : List Word) (d : Dev), w.sess ≠ d.mnr.sess ∧ d.mnr.logged = true ∧ w.sess = d.mnr.logSess) ∧
  (∃ (w : Who) (x : Nat) (d : Dev), w.sess = d.mnr.sess) :=
  ⟨⟨⟨7, 1023, 0, 0⟩, 0, 0, [], {}, by decide +kernel⟩,
   ⟨⟨7, 1023, 0, 0⟩, 0, 0, [], { mnr := { sess := 1, logged := true } }, by decide +kernel⟩,
   ⟨⟨7, 1023, 0, 0⟩, 0, {}, by decide +kernel⟩⟩

/-- Values that meet the hypotheses of EventsHeld. -/
theorem witness_events_held :
  ∃ (code : Nat) (dom : Nat) (st : Nat) (src : Nat) (line : Option Nat) (detail : List Nat) (d : Dev), d.mnr.events.length ≤ 256 :=
  ⟨0, 0, 0, 0, none, [], {}, by decide +kernel⟩

/-- Values that meet the hypotheses of SessionAndExtension. -/
theorem witness_session_and_extension :
  (∃ (s : State) (c : MnrCmd) (t : Taken), Starts Op.PING c s.dev t) ∧
  (∃ (s : State) (c : MnrCmd) (t : Taken), Starts Op.SESSION_OPEN c s.dev t ∧ t.arg < 524288 ∧ bits t.arg 15 8 = 1 ∧ (begun Op.SESSION_OPEN c s.dev).mnr.open_ = false) ∧
  (∃ (s : State) (c : MnrCmd) (t : Taken), Starts Op.SESSION_OPEN c s.dev t ∧ t.arg < 524288 ∧ bits t.arg 15 8 = 1 ∧ (begun Op.SESSION_OPEN c s.dev).mnr.open_ = true) ∧
  (∃ (s : State) (c : MnrCmd) (t : Taken), Starts Op.SESSION_CLOSE c s.dev t ∧ t.arg = 0 ∧ (begun Op.SESSION_CLOSE c s.dev).mnr.tags = [{ who := t.who }]) ∧
  (∃ (s : State) (c : MnrCmd) (t : Taken), Starts Op.DEV_INFO c s.dev t ∧ t.arg = 0) ∧
  (∃ (s : State) (c : MnrCmd) (n : Fin 16) (st : Fin 16) (x : Nat) (res : List Word) (t : Taken), Starts (0x08F0 + n.val) c s.dev t ∧ (∀ g ∈ s.dev.mnr.tags, g.deferred = false) ∧ s.dev.mnr.extOld = [] ∧ (begun (0x08F0 + n.val) c s.dev).sec.extRunning = true ∧ (mbiAt 8 (begun (0x08F0 + n.val) c s.dev)).posted = false ∧ st.val ≠ St.DEFERRED) ∧
  (∃ (s : State) (c : MnrCmd) (n : Fin 16) (x : Nat) (res : List Word) (t : Taken), Starts (0x08F0 + n.val) c s.dev t ∧ (∀ g ∈ s.dev.mnr.tags, g.deferred = false) ∧ s.dev.mnr.extOld = [] ∧ (begun (0x08F0 + n.val) c s.dev).sec.extRunning = true ∧ (mbiAt 8 (begun (0x08F0 + n.val) c s.dev)).posted = false) ∧
  (∃ (s : State) (c : MnrCmd) (n : Fin 16) (st : Fin 16) (x : Nat) (res : List Word) (g : TagRec), coresRun s.dev = true ∧ s.dev.sec.extRunning = true ∧ st.val ≠ St.DEFERRED ∧ s.dev.mnr.tags.find? (fun g => g.deferred && g.who.mbx == c.mbx.val && g.who.tag == c.tag.val && g.who.op == 0x08F0 + n.val) = some g) ∧
  (∃ (s : State) (c : MnrCmd) (n : Fin 16) (st : Fin 16) (x : Nat) (res : List Word) (t : Taken), Starts (0x08F0 + n.val) c s.dev t ∧ (∀ g ∈ s.dev.mnr.tags, g.deferred = false) ∧ s.dev.mnr.extOld = [] ∧ (begun (0x08F0 + n.val) c s.dev).sec.extRunning = false) ∧
  (∃ (s : State) (c : MnrCmd) (n : Fin 16) (st : Fin 16) (x : Nat) (res : List Word) (w : Who), coresRun s.dev = true ∧ s.dev.sec.extRunning = true ∧ st.val ≠ St.DEFERRED ∧ (∀ g ∈ s.dev.mnr.tags, g.deferred = false) ∧ s.dev.mnr.extOld.find? (fun w => w.mbx == c.mbx.val && w.tag == c.tag.val && w.op == 0x08F0 + n.val) = some w) :=
  ⟨⟨{ dev := { pwr := { mode := .ready } } }, { mbx := 0, tag := 0, arg := 4294967295 }, takenOf Op.PING { mbx := 0, tag := 0, arg := 4294967295 } {}, by decide +kernel⟩,
   ⟨{ dev := { pwr := { mode := .ready } } }, { mbx := 0, tag := 0, arg := 0x70100 }, takenOf Op.SESSION_OPEN { mbx := 0, tag := 0, arg := 0x70100 } {}, by decide +kernel⟩,
   ⟨{ dev := { pwr := { mode := .ready }, mnr := { open_ := true } } }, { mbx := 0, tag := 0, arg := 0x100 }, takenOf Op.SESSION_OPEN { mbx := 0, tag := 0, arg := 0x100 } {}, by decide +kernel⟩,
   ⟨{ dev := { pwr := { mode := .ready }, mnr := { open_ := true } } }, { mbx := 0, tag := 0 }, takenOf Op.SESSION_CLOSE { mbx := 0, tag := 0 } {}, by decide +kernel⟩,
   ⟨{ dev := { pwr := { mode := .ready } } }, { mbx := 0, tag := 0 }, takenOf Op.DEV_INFO { mbx := 0, tag := 0 } {}, by decide +kernel⟩,
   ⟨{ dev := { pwr := { mode := .ready }, mnr := { open_ := true }, sec := { extRunning := true } } }, { mbx := 0, tag := 0 }, 15, 0, 0, [], takenOf 0x8FF { mbx := 0, tag := 0 } {}, by decide +kernel⟩,
   ⟨{ dev := { pwr := { mode := .ready }, mnr := { open_ := true }, sec := { extRunning := true } } }, { mbx := 0, tag := 0 }, 15, 0, [], takenOf 0x8FF { mbx := 0, tag := 0 } {}, by decide +kernel⟩,
   ⟨{ dev := { pwr := { mode := .ready }, mnr := { open_ := true, tags := [{ who := ⟨0, 0, 0x8FF, 0⟩, deferred := true }] }, sec := { extRunning := true } } }, { mbx := 0, tag := 0 }, 15, 0, 0, [], { who := ⟨0, 0, 0x8FF, 0⟩, deferred := true }, by decide +kernel⟩,
   ⟨{ dev := { pwr := { mode := .ready }, mnr := { open_ := true } } }, { mbx := 0, tag := 0 }, 0, 0, 0, [], takenOf 0x8F0 { mbx := 0, tag := 0 } {}, by decide +kernel⟩,
   ⟨{ dev := { pwr := { mode := .ready }, mnr := { sess := 1, extOld := [⟨0, 0, 0x8FF, 0⟩] }, sec := { extRunning := true } } }, { mbx := 0, tag := 0 }, 15, 0, 0, [], ⟨0, 0, 0x8FF, 0⟩, by decide +kernel⟩⟩

/-- Values that meet the hypotheses of ObjectReadAndWrite. -/
theorem witness_object_read_and_write :
  (∃ (s : State) (c : MnrCmd) (t : Taken), Starts Op.OBJ_WRITE c s.dev t ∧ writeAccepted c t (begun Op.OBJ_WRITE c s.dev) = true) ∧
  (∃ (s : State) (c : MnrCmd) (t : Taken), Starts Op.OBJ_READ c s.dev t ∧ t.arg < 65536 ∧ readable t.arg (begun Op.OBJ_READ c s.dev) = true ∧ readByBuffer t.arg (begun Op.OBJ_READ c s.dev) = false) ∧
  (∃ (s : State) (c : MnrCmd) (t : Taken) (id : Nat), Starts Op.OBJ_READ c s.dev t ∧ t.arg = 65536 + id ∧ id < 65536 ∧ readable id (begun Op.OBJ_READ c s.dev) = true ∧ t.len = 3 ∧ t.w 0 % 4 = 0 ∧ 0 < t.w 2 ∧ c.hostOk = true ∧ 4 * (readWords id (begun Op.OBJ_READ c s.dev)).length ≤ t.w 2) ∧
  (∃ (s : State) (c : MnrCmd) (t : Taken), Starts Op.OBJ_INFO c s.dev t ∧ t.arg < 65536 ∧ readable t.arg (begun Op.OBJ_INFO c s.dev) = true) :=
  ⟨⟨{ dev := { pwr := { mode := .ready }, mnr := { open_ := true } } }, { mbx := 0, tag := 0, arg := 0x1F01, len := 1, pay := [0x11306400] }, takenOf Op.OBJ_WRITE { mbx := 0, tag := 0, arg := 0x1F01, len := 1, pay := [0x11306400] } {}, by decide +kernel⟩,
   ⟨{ dev := { pwr := { mode := .ready }, mnr := { open_ := true } } }, { mbx := 0, tag := 0, arg := 0x1F01 }, takenOf Op.OBJ_READ { mbx := 0, tag := 0, arg := 0x1F01 } {}, by decide +kernel⟩,
   ⟨{ dev := { pwr := { mode := .ready }, mnr := { open_ := true } } }, { mbx := 0, tag := 0, arg := 0x11F01, len := 3, pay := [4096, 0, 4] }, takenOf Op.OBJ_READ { mbx := 0, tag := 0, arg := 0x11F01, len := 3, pay := [4096, 0, 4] } {}, 0x1F01, by decide +kernel⟩,
   ⟨{ dev := { pwr := { mode := .ready }, mnr := { open_ := true } } }, { mbx := 0, tag := 0, arg := 0x1F01 }, takenOf Op.OBJ_INFO { mbx := 0, tag := 0, arg := 0x1F01 } {}, by decide +kernel⟩⟩

/-- Values that meet the hypotheses of ReadLeavesOtherMemory. -/
theorem witness_read_leaves_other_memory :
  ∃ (s : State) (c : MnrCmd) (t : Taken), Starts Op.OBJ_READ c s.dev t :=
  ⟨{ dev := { pwr := { mode := .ready }, mnr := { open_ := true } } }, { mbx := 0, tag := 0, arg := 0x1F01 }, takenOf Op.OBJ_READ { mbx := 0, tag := 0, arg := 0x1F01 } {}, by decide +kernel⟩

/-- Values that meet the hypotheses of ResetsAndSupply. -/
theorem witness_resets_and_supply :
  (∃ (s : State), s.dev.pwr.mode = .reset ∧ s.dev.pwr.sysResetL = true ∧ s.dev.pwr.dieTemp ≤ 2000) ∧
  (∃ (s : State), s.dev.pwr.mode = .reset ∧ s.dev.pwr.vinPor = false ∧ s.dev.pwr.dieTemp ≤ 2000) ∧
  (∃ (s : State), s.dev.pwr.mode = .reset ∧ s.dev.pwr.sysResetL = false) ∧
  (∃ (s : State) (t : Nat), s.dev.pwr.vinWarn = false ∧ (s.dev.pwr.mode = .calibrate ∨ s.dev.pwr.mode = .ready ∨ s.dev.pwr.mode = .scan ∨ s.dev.pwr.mode = .hold)) ∧
  (∃ (s : State) (t : Nat), s.dev.pwr.vinWarn = true ∧ s.dev.pwr.mode ≠ .reset) ∧
  (∃ (s : State) (vin : Nat) (temp : Int) (t : Nat), s.dev.pwr.mode ≠ .reset ∧ 2000 < temp) ∧
  (∃ (s : State) (vin : Nat) (temp : Int) (t : Nat), s.dev.pwr.mode ≠ .reset ∧ temp ≤ 2000 ∧ s.dev.tap.phase ≠ .saving ∧ temp ≤ ((16 * cfg Obj.PWR_CTL.TEMP_ALARM s.dev : Nat) : Int)) ∧
  (∃ (s : State) (n : Fin 4) (t : Nat), s.dev.on 12 = true) ∧
  (∃ (s : State) (t : Nat), s.dev.on 12 = true) ∧
  (∃ (d : Dev) (n : Nat) (b : Nat), (axisAt n d).fault.testBit b = false ∧ n < d.shu.ax.length) ∧
  (∃ (s : State) (n : Fin 4) (v : Int) (t : Nat), shuClocked s.dev = true) :=
  ⟨⟨{ dev := { pwr := { mode := .reset } } }, by decide +kernel⟩,
   ⟨{ dev := { pwr := { mode := .reset, vinPor := false } } }, by decide +kernel⟩,
   ⟨{ dev := { pwr := { mode := .reset, sysResetL := false } } }, by decide +kernel⟩,
   ⟨{ dev := { pwr := { mode := .hold } } }, 9, by decide +kernel⟩,
   ⟨{ dev := { pwr := { mode := .safe, vinWarn := true } } }, 9, by decide +kernel⟩,
   ⟨{ dev := { pwr := { mode := .scan } } }, 12000, 2001, 9, by decide +kernel⟩,
   ⟨{ dev := { pwr := { mode := .scan } } }, 12000, 1600, 9, by decide +kernel⟩,
   ⟨{ dev := { pwr := { mode := .ready }, shu := { ax := { bridge := true, cur := 300 } :: List.replicate 3 {} } } }, 0, 5, by decide +kernel⟩,
   ⟨{ dev := { pwr := { mode := .ready }, shu := { ax := { bridge := true, cur := 300 } :: List.replicate 3 {} } } }, 5, by decide +kernel⟩,
   ⟨{ shu := { ax := { bridge := true, v := 5 } :: List.replicate 3 {} } }, 0, 0, by decide +kernel⟩,
   ⟨{ dev := { pwr := { mode := .ready } } }, 0, 700, 5, by decide +kernel⟩⟩

/-- Values that meet the hypotheses of BootCalibrateAndMoves. -/
theorem witness_boot_calibrate_and_moves :
  (∃ (s : State) (map : List Word) (t : Nat), s.dev.pwr.mode = .boot ∧ (bootImages map s.dev).isSome = true) ∧
  (∃ (s : State) (map : List Word) (t : Nat), s.dev.pwr.mode = .boot ∧ bootImages map (s.dev.at_ t) = none) ∧
  (∃ (s : State) (delays : List Nat) (mv : List Nat) (t : Nat), s.dev.pwr.mode = .calibrate ∧ s.dev.pwr.calStep = 3 ∧ s.dev.cal.run = none ∧ s.dev.krm.member = false ∧ ((List.range 8).any fun n => strEn n s.dev) = false) ∧
  (∃ (s : State) (who : Option Who) (t : Nat), s.dev.pwr.mode ≠ .reset ∧ s.dev.pwr.trans = .toSafe who ∧ safeQuiet s.dev = true) ∧
  (∃ (s : State) (who : Option Who) (done : Bool) (t : Nat), (s.dev.pwr.mode = .scan ∨ s.dev.pwr.mode = .hold) ∧ s.dev.pwr.trans = .toReady who done ∧ openLines s.dev = [] ∧ (∀ n, paceAxis s.dev = some n → (axisAt n s.dev).atRest = true)) ∧
  (∃ (s : State) (who : Option Who) (done : Bool) (n : Nat) (t : Nat), s.dev.pwr.mode ≠ .reset ∧ s.dev.pwr.trans = .toReady who done ∧ paceAxis s.dev = some n ∧ (axisAt n s.dev).atRest = false) :=
  ⟨⟨{ dev := { pwr := { mode := .boot } } }, [], 9, by decide +kernel⟩,
   ⟨{ dev := { pwr := { mode := .boot }, sec := { slots := List.replicate 6 [] } } }, [], 9, by decide +kernel⟩,
   ⟨{ dev := { pwr := { mode := .calibrate, calStep := 3 } } }, [], [], 9, by decide +kernel⟩,
   ⟨{ dev := { pwr := { mode := .safe, trans := .toSafe none } } }, none, 9, by decide +kernel⟩,
   ⟨{ dev := { pwr := { mode := .hold, trans := .toReady none false } } }, none, false, 9, by decide +kernel⟩,
   ⟨{ dev := { pwr := { mode := .hold, trans := .toReady none false }, objs := [(0x1900, [0, 0, 0, 0, 0, 0])], shu := { ax := List.replicate 4 { v := 1, rest := false } } } }, none, false, 0, 9, by decide +kernel⟩⟩

/-- Values that meet the hypotheses of ModeSetMoves. -/
theorem witness_mode_set_moves :
  (∃ (s : State) (c : MnrCmd) (t : Taken), Starts Op.MODE_SET c s.dev t ∧ t.len = 0 ∧ t.pay = [] ∧ ((t.arg = 3 ∧ (begun Op.MODE_SET c s.dev).pwr.mode = .ready) ∨ (t.arg = 4 ∧ (begun Op.MODE_SET c s.dev).pwr.mode = .scan) ∨ (t.arg = 6 ∧ (begun Op.MODE_SET c s.dev).pwr.mode = .safe))) ∧
  (∃ (s : State) (c : MnrCmd) (t : Taken), Starts Op.MODE_SET c s.dev t ∧ t.arg = 4 ∧ (t.len = 0 ∧ t.pay = [] ∨ t.len = 2 ∧ t.w 1 < 65536) ∧ (begun Op.MODE_SET c s.dev).pwr.mode = .ready ∧ admission (begun Op.MODE_SET c s.dev) = none) ∧
  (∃ (s : State) (c : MnrCmd) (t : Taken), Starts Op.MODE_SET c s.dev t ∧ t.arg = 5 ∧ t.len = 0 ∧ t.pay = [] ∧ (begun Op.MODE_SET c s.dev).pwr.mode = .scan) ∧
  (∃ (s : State) (c : MnrCmd) (t : Taken), Starts Op.MODE_SET c s.dev t ∧ t.arg = 6 ∧ t.len = 0 ∧ t.pay = [] ∧ ((begun Op.MODE_SET c s.dev).pwr.mode = .calibrate ∨ (begun Op.MODE_SET c s.dev).pwr.mode = .ready ∨ (begun Op.MODE_SET c s.dev).pwr.mode = .scan ∨ (begun Op.MODE_SET c s.dev).pwr.mode = .hold)) ∧
  (∃ (s : State) (c : MnrCmd) (t : Taken), Starts Op.MODE_SET c s.dev t ∧ (t.arg ≤ 2 ∨ 8 ≤ t.arg)) :=
  ⟨⟨{ dev := { pwr := { mode := .safe }, mnr := { open_ := true } } }, { mbx := 0, tag := 0, arg := 6 }, takenOf Op.MODE_SET { mbx := 0, tag := 0, arg := 6 } {}, by decide +kernel⟩,
   ⟨{ dev := { pwr := { mode := .ready }, mnr := { open_ := true }, objs := [(0x1000, [0x2108, 1000000, 0, 0, 0, 256, 100000000, 16])], hdl := { bank := [{ map := [0x00010001#32, 1#32] }, {}] } } }, { mbx := 0, tag := 0, arg := 4 }, takenOf Op.MODE_SET { mbx := 0, tag := 0, arg := 4 } {}, by decide +kernel⟩,
   ⟨{ dev := { pwr := { mode := .scan }, mnr := { open_ := true } } }, { mbx := 0, tag := 0, arg := 5 }, takenOf Op.MODE_SET { mbx := 0, tag := 0, arg := 5 } {}, by decide +kernel⟩,
   ⟨{ dev := { pwr := { mode := .scan }, mnr := { open_ := true } } }, { mbx := 0, tag := 0, arg := 6 }, takenOf Op.MODE_SET { mbx := 0, tag := 0, arg := 6 } {}, by decide +kernel⟩,
   ⟨{ dev := { pwr := { mode := .ready }, mnr := { open_ := true } } }, { mbx := 0, tag := 0, arg := 8 }, takenOf Op.MODE_SET { mbx := 0, tag := 0, arg := 8 } {}, by decide +kernel⟩⟩

/-- Values that meet the hypotheses of DomainResetsAndFaults. -/
theorem witness_domain_resets_and_faults :
  (∃ (s : State) (c : MnrCmd) (t : Taken), Starts Op.DOMAIN_RESET c s.dev t ∧ t.arg = 0x2000 ∧ (begun Op.DOMAIN_RESET c s.dev).runs 13 = true) ∧
  (∃ (s : State) (c : MnrCmd) (t : Taken), Starts Op.DOMAIN_RESET c s.dev t ∧ t.arg < 65536 ∧ (bit t.arg 0 = true ∨ bit t.arg 1 = true)) ∧
  (∃ (s : State) (n : Fin 16) (t : Nat), powered s.dev = true ∧ s.dev.pwr.domState.getD n.val 0 = 1 ∧ s.dev.pwr.resets = [] ∧ s.dev.acq.refAt = none ∧ (s.dev.shu.ax.any fun a => a.tempDue) = false ∧ 6 ≤ n.val ∧ n.val ≠ 8) ∧
  (∃ (s : State) (n : Fin 16) (t : Nat), powered s.dev = true ∧ s.dev.pwr.domState.getD n.val 0 = 0) ∧
  (∃ (s : State) (c : MnrCmd) (t : Taken), Starts Op.FAULT_LIST c s.dev t ∧ t.arg = 0 ∧ t.len = 3 ∧ t.w 0 % 4 = 0 ∧ 0 < t.w 2 ∧ 4 + 20 * (begun Op.FAULT_LIST c s.dev).pwr.faults.length ≤ t.w 2 ∧ c.hostOk = true) ∧
  (∃ (s : State) (t : Nat), s.dev.pwr.mode ≠ .reset ∧ s.dev.pwr.mode ≠ .sleep) ∧
  (∃ (s : State) (t : Nat), s.dev.pwr.mode = .sleep ∧ s.dev.ic.slpKind = false) ∧
  (∃ (s : State) (st : LinkPower) (speed : Fin 64) (width : Fin 64) (mps : Fin 8) (t : Nat), powered s.dev = true ∧ st ≠ .down) ∧
  (∃ (s : State) (speed : Fin 64) (width : Fin 64) (mps : Fin 8) (t : Nat), powered s.dev = true) :=
  ⟨⟨{ dev := { pwr := { mode := .ready }, mnr := { open_ := true } } }, { mbx := 0, tag := 0, arg := 0x2000 }, takenOf Op.DOMAIN_RESET { mbx := 0, tag := 0, arg := 0x2000 } {}, by decide +kernel⟩,
   ⟨{ dev := { pwr := { mode := .ready }, mnr := { open_ := true } } }, { mbx := 0, tag := 0, arg := 65535 }, takenOf Op.DOMAIN_RESET { mbx := 0, tag := 0, arg := 65535 } {}, by decide +kernel⟩,
   ⟨{ dev := { pwr := { mode := .ready, domState := List.replicate 16 1 } } }, 15, 9, by decide +kernel⟩,
   ⟨{ dev := { pwr := { mode := .ready } } }, 0, 9, by decide +kernel⟩,
   ⟨{ dev := { pwr := { mode := .ready }, mnr := { open_ := true } } }, { mbx := 0, tag := 0, len := 3, pay := [4096, 0, 4] }, takenOf Op.FAULT_LIST { mbx := 0, tag := 0, len := 3, pay := [4096, 0, 4] } {}, by decide +kernel⟩,
   ⟨{ dev := { pwr := { mode := .scan }, mnr := { open_ := true } } }, 9, by decide +kernel⟩,
   ⟨{ dev := { pwr := { mode := .sleep } } }, 9, by decide +kernel⟩,
   ⟨{ dev := { pwr := { mode := .ready } } }, .l0, 4, 8, 1, 5, by decide +kernel⟩,
   ⟨{ dev := { pwr := { mode := .ready }, hs := { link := .l0 } } }, 4, 8, 1, 5, by decide +kernel⟩⟩

/-- Values that meet the hypotheses of ImageLoading. -/
theorem witness_image_loading :
  (∃ (s : State) (c : MnrCmd) (sig : Bool) (t : Taken), Starts Op.IMAGE_LOAD c s.dev t ∧ t.arg < 6 ∧ bufBad t = false ∧ (begun Op.IMAGE_LOAD c s.dev).sec.load = none ∧ (begun Op.IMAGE_LOAD c s.dev).sec.act = none ∧ c.hostOk = true ∧ Img.ok c.buf = true ∧ t.w 2 = 512 + Img.bodyLen c.buf ∧ imageValid t.arg c.buf sig (begun Op.IMAGE_LOAD c s.dev) = true) ∧
  (∃ (s : State) (c : MnrCmd) (sig : Bool) (t : Taken), Starts Op.IMAGE_LOAD c s.dev t ∧ t.arg < 6 ∧ bufBad t = false ∧ (begun Op.IMAGE_LOAD c s.dev).sec.load = none ∧ (begun Op.IMAGE_LOAD c s.dev).sec.act = none ∧ c.hostOk = true ∧ Img.ok c.buf = true ∧ t.w 2 = 512 + Img.bodyLen c.buf ∧ imageValid t.arg c.buf sig (begun Op.IMAGE_LOAD c s.dev) = false) ∧
  (∃ (s : State) (l : ImgLoad) (t : Nat), s.dev.on 1 = true ∧ s.dev.sec.load = some l) :=
  ⟨⟨{ dev := { pwr := { mode := .ready }, mnr := { open_ := true } } }, { mbx := 0, tag := 0, len := 3, pay := [4096, 0, 528], buf := [0x47494D41, 1, 7, 0, 16] }, true, takenOf Op.IMAGE_LOAD { mbx := 0, tag := 0, len := 3, pay := [4096, 0, 528] } {}, by decide +kernel⟩,
   ⟨{ dev := { pwr := { mode := .ready }, mnr := { open_ := true } } }, { mbx := 0, tag := 0, len := 3, pay := [4096, 0, 528], buf := [0x47494D41, 1, 7, 0, 16] }, false, takenOf Op.IMAGE_LOAD { mbx := 0, tag := 0, len := 3, pay := [4096, 0, 528] } {}, by decide +kernel⟩,
   ⟨{ dev := { pwr := { mode := .ready }, sec := { load := some { target := 0, slot := 1, version := 7, svn := 0, cust := false, who := none } } } }, { target := 0, slot := 1, version := 7, svn := 0, cust := false, who := none }, 9, by decide +kernel⟩⟩

/-- Values that meet the hypotheses of LiveUpdate. -/
theorem witness_live_update :
  (∃ (s : State) (c : MnrCmd) (t : Taken), Starts Op.IMAGE_ACTIVATE c s.dev t ∧ t.arg < 32 ∧ t.arg % 16 < 6 ∧ at' (begun Op.IMAGE_ACTIVATE c s.dev).sec.active (t.arg % 16) 0 = t.arg / 16 ∧ at' (begun Op.IMAGE_ACTIVATE c s.dev).sec.running (t.arg % 16) 3 = t.arg / 16) ∧
  (∃ (s : State) (c : MnrCmd) (t : Taken), Starts Op.IMAGE_ACTIVATE c s.dev t ∧ (t.arg = 5 ∨ t.arg = 21) ∧ at' (begun Op.IMAGE_ACTIVATE c s.dev).sec.active 5 0 ≠ t.arg / 16 ∧ slotValid 5 (t.arg / 16) (begun Op.IMAGE_ACTIVATE c s.dev) = true ∧ (begun Op.IMAGE_ACTIVATE c s.dev).sec.load = none ∧ (begun Op.IMAGE_ACTIVATE c s.dev).sec.act = none) ∧
  (∃ (s : State) (c : MnrCmd) (t : Taken), Starts Op.IMAGE_ACTIVATE c s.dev t ∧ t.arg < 32 ∧ 1 ≤ t.arg % 16 ∧ t.arg % 16 ≤ 4 ∧ at' (begun Op.IMAGE_ACTIVATE c s.dev).sec.active (t.arg % 16) 0 ≠ t.arg / 16 ∧ slotValid (t.arg % 16) (t.arg / 16) (begun Op.IMAGE_ACTIVATE c s.dev) = true ∧ (begun Op.IMAGE_ACTIVATE c s.dev).sec.load = none ∧ (begun Op.IMAGE_ACTIVATE c s.dev).sec.act = none ∧ (begun Op.IMAGE_ACTIVATE c s.dev).runs (1 + t.arg % 16) = true) ∧
  (∃ (s : State) (a : Activation) (t : Nat), s.dev.on 1 = true ∧ s.dev.sec.act = some a ∧ s.dev.pwr.domState.getD (1 + a.target) 0 = 2 ∧ a.target ≠ 0) ∧
  (∃ (s : State) (a : Activation) (t : Nat), s.dev.on 1 = true ∧ s.dev.sec.act = some a) :=
  ⟨⟨{ dev := { pwr := { mode := .ready }, mnr := { open_ := true } } }, { mbx := 0, tag := 0, arg := 3 }, takenOf Op.IMAGE_ACTIVATE { mbx := 0, tag := 0, arg := 3 } {}, by decide +kernel⟩,
   ⟨{ dev := { pwr := { mode := .ready }, mnr := { open_ := true }, sec := { slots := List.replicate 6 [{}, { valid := true }, {}] } } }, { mbx := 0, tag := 0, arg := 21 }, takenOf Op.IMAGE_ACTIVATE { mbx := 0, tag := 0, arg := 21 } {}, by decide +kernel⟩,
   ⟨{ dev := { pwr := { mode := .ready }, mnr := { open_ := true }, sec := { slots := List.replicate 6 [{}, { valid := true }, {}] } } }, { mbx := 0, tag := 0, arg := 17 }, takenOf Op.IMAGE_ACTIVATE { mbx := 0, tag := 0, arg := 17 } {}, by decide +kernel⟩,
   ⟨{ dev := { pwr := { mode := .ready, domState := [0, 0, 2] }, sec := { act := some { target := 1, slot := 1, who := none } } } }, { target := 1, slot := 1, who := none }, 9, by decide +kernel⟩,
   ⟨{ dev := { pwr := { mode := .ready, domState := [0, 0, 2] }, sec := { act := some { target := 1, slot := 1, who := none } } } }, { target := 1, slot := 1, who := none }, 9, by decide +kernel⟩⟩

/-- Values that meet the hypotheses of KeysAndDebug. -/
theorem witness_keys_and_debug :
  (∃ (s : State) (c : MnrCmd) (t : Taken), Starts Op.KEY_PROVISION c s.dev t ∧ t.arg = 0 ∧ bufBad t = false ∧ t.w 2 = 96 ∧ (begun Op.KEY_PROVISION c s.dev).sec.custProv = false ∧ (begun Op.KEY_PROVISION c s.dev).sec.keyProv = none ∧ c.hostOk = true ∧ (natOfWords c.buf >>> 640) % 2 ^ 128 < 2) ∧
  (∃ (s : State) (k : KeyProv) (t : Nat), s.dev.on 1 = true ∧ s.dev.sec.keyProv = some k) ∧
  (∃ (s : State) (t : Nat), s.dev.pwr.mode ≠ .reset) ∧
  (∃ (s : State) (scope : Fin 2) (sig : Bool) (n : Nat) (t : Nat), s.dev.on 1 = true ∧ s.dev.sec.nonce = some n) ∧
  (∃ (s : State) (ir : Nat) (drives : Bool) (t : Nat), s.dev.pwr.mode ≠ .reset) :=
  ⟨⟨{ dev := { pwr := { mode := .ready }, mnr := { open_ := true } } }, { mbx := 0, tag := 0, len := 3, pay := [4096, 0, 96], buf := [1] }, takenOf Op.KEY_PROVISION { mbx := 0, tag := 0, len := 3, pay := [4096, 0, 96] } {}, by decide +kernel⟩,
   ⟨{ dev := { pwr := { mode := .ready }, sec := { keyProv := some ⟨1, 1, true, none⟩ } } }, ⟨1, 1, true, none⟩, 9, by decide +kernel⟩,
   ⟨{ dev := { pwr := { mode := .ready } } }, 9, by decide +kernel⟩,
   ⟨{ dev := { pwr := { mode := .ready }, sec := { nonce := some 5 } } }, 1, true, 5, 9, by decide +kernel⟩,
   ⟨{ dev := { pwr := { mode := .ready } } }, 1, true, 9, by decide +kernel⟩⟩

/-- Values that meet the hypotheses of EncoderAndAbsolutePorts. -/
theorem witness_encoder_and_absolute_ports :
  (∃ (s : State) (n : Fin 4) (t : Nat) (e : Dev) (a : Bool) (b : Bool) (k : Int), e = s.dev.at_ t ∧ portRuns n.val 1 s.dev = true ∧ s.dev.tap.phase ≠ .saving ∧ srcPort s.dev ≠ some n.val ∧ quadStep (at' s.dev.spn.pins n.val (false, false)) (a, b) = some k ∧ k ≠ 0 ∧ farFrom n.val t s.dev = true) ∧
  (∃ (s : State) (n : Fin 4) (t : Nat) (e : Dev) (a : Bool) (b : Bool) (k : Int), e = s.dev.at_ t ∧ portRuns n.val 1 s.dev = true ∧ s.dev.tap.phase ≠ .saving ∧ srcPort s.dev = some n.val ∧ quadStep (at' s.dev.spn.pins n.val (false, false)) (a, b) = some k ∧ k ≠ 0 ∧ farFrom n.val t s.dev = true) ∧
  (∃ (s : State) (n : Fin 4) (t : Nat) (e : Dev) (a : Bool) (b : Bool), e = s.dev.at_ t ∧ portRuns n.val 1 s.dev = true ∧ s.dev.tap.phase ≠ .saving ∧ cannotPass n.val ((at' s.dev.spn.pins n.val (false, false)).1 != a) ((at' s.dev.spn.pins n.val (false, false)).2 != b) t s.dev = true) ∧
  (∃ (s : State) (n : Fin 4) (t : Nat) (e : Dev) (a : Bool) (b : Bool) (u : Nat), e = s.dev.at_ t ∧ portRuns n.val 1 s.dev = true ∧ s.dev.tap.phase ≠ .saving ∧ srcPort s.dev ≠ some n.val ∧ t < u + 16 * cfg (Obj.SPN_PORT.FILTER n.val) s.dev ∧ ((quadStep (at' s.dev.spn.pins n.val (false, false)) (a, b) = none ∧ farFrom n.val t s.dev = true) ∨ ((at' s.dev.spn.pins n.val (false, false)).1 ≠ a ∧ (at' s.dev.spn.pins n.val (false, false)).2 = b ∧ at' s.dev.spn.pinAt n.val (none, none) = (none, some u)) ∨ ((at' s.dev.spn.pins n.val (false, false)).1 = a ∧ (at' s.dev.spn.pins n.val (false, false)).2 ≠ b ∧ at' s.dev.spn.pinAt n.val (none, none) = (some u, none)))) ∧
  (∃ (s : State) (n : Fin 4) (t : Nat), (portRuns n.val 1 s.dev = true ∨ portRuns n.val 2 s.dev = true) ∧ srcPort s.dev = some n.val ∧ s.dev.spn.srcFault = false) ∧
  (∃ (s : State) (n : Fin 4) (t : Nat) (a : Bool) (b : Bool), s.dev.pwr.mode ≠ .reset ∧ s.dev.tap.phase ≠ .saving ∧ portRuns n.val 1 s.dev = false) ∧
  (∃ (s : State) (n : Fin 4) (t : Nat) (raw : Fin (2 ^ 40)) (nb : Nat), portRuns n.val 2 s.dev = true ∧ srcPort s.dev ≠ some n.val ∧ nb = cfg (Obj.SPN_PORT.SSI_BITS n.val) s.dev ∧ raw.val % 2 ^ nb ≠ 0 ∧ raw.val % 2 ^ nb ≠ 2 ^ nb - 1) ∧
  (∃ (s : State) (n : Fin 4) (t : Nat) (e : Dev), e = s.dev.at_ t ∧ portRuns n.val 1 s.dev = true ∧ srcPort s.dev ≠ some n.val ∧ cfg (Obj.SPN_PORT.Z_MODE n.val) s.dev = 2 ∧ at' s.dev.spn.zHomed n.val false = false) ∧
  (∃ (s : State) (n : Fin 4) (t : Nat) (e : Dev) (z : Int), e = s.dev.at_ t ∧ portRuns n.val 1 s.dev = true ∧ cfg (Obj.SPN_PORT.Z_MODE n.val) s.dev = 1 ∧ at' s.dev.spn.zLast n.val none = some z) ∧
  (∃ (s : State) (n : Fin 4) (t : Nat) (e : Dev) (z : Int), e = s.dev.at_ t ∧ portRuns n.val 1 s.dev = true ∧ zChecks n.val s.dev = true ∧ at' s.dev.spn.zLast n.val none = some z ∧ at' s.dev.spn.zMissed n.val false = false ∧ cfg (Obj.SPN_PORT.Z_PERIOD n.val) s.dev + cfg (Obj.SPN_PORT.Z_TOL n.val) s.dev ≤ (cntOf n.val s.dev - z).natAbs) :=
  ⟨⟨{ dev := { pwr := { mode := .ready }, objs := [(0x1002, [1])] } }, 1, 3, (({ dev := { pwr := { mode := .ready }, objs := [(0x1002, [1])] } }) : State).dev.at_ ((3) : Nat), true, false, 1, rfl, by decide +kernel⟩,
   ⟨{ dev := { pwr := { mode := .scan }, objs := [(0x1001, [1])], spn := { line := some { k := 0, phase := 0, p0 := 0, left := [] }, dHigh := 3 } } }, 0, 3, (({ dev := { pwr := { mode := .scan }, objs := [(0x1001, [1])], spn := { line := some { k := 0, phase := 0, p0 := 0, left := [] }, dHigh := 3 } } }) : State).dev.at_ ((3) : Nat), false, true, -1, rfl, by decide +kernel⟩,
   ⟨{ dev := { pwr := { mode := .ready }, objs := [(0x1002, [0x9])], spn := { pins := [(false, false), (true, false)], pinAt := [(none, none), (some 2, none)], cnt := [0, 1, 0, 0] } } }, 1, 3, (({ dev := { pwr := { mode := .ready }, objs := [(0x1002, [0x9])], spn := { pins := [(false, false), (true, false)], pinAt := [(none, none), (some 2, none)], cnt := [0, 1, 0, 0] } } }) : State).dev.at_ ((3) : Nat), false, false, rfl, by decide +kernel⟩,
   ⟨{ dev := { pwr := { mode := .ready }, objs := [(0x1002, [0x9])], spn := { pins := [(false, false), (true, false)], pinAt := [(none, none), (some 2, none)] } } }, 1, 3, (({ dev := { pwr := { mode := .ready }, objs := [(0x1002, [0x9])], spn := { pins := [(false, false), (true, false)], pinAt := [(none, none), (some 2, none)] } } }) : State).dev.at_ ((3) : Nat), true, true, 2, rfl, by decide +kernel⟩,
   ⟨{ dev := { pwr := { mode := .scan }, objs := [(0x1001, [1])], spn := { posValid := true } } }, 0, 3, by decide +kernel⟩,
   ⟨{ dev := { pwr := { mode := .ready } } }, 2, 3, true, false, by decide +kernel⟩,
   ⟨{ dev := { pwr := { mode := .ready }, objs := [(0x1002, [0x00190002])] } }, 1, 3, 5, 25, by decide +kernel⟩,
   ⟨{ dev := { pwr := { mode := .ready }, objs := [(0x1002, [0x81])] } }, 1, 3, (({ dev := { pwr := { mode := .ready }, objs := [(0x1002, [0x81])] } }) : State).dev.at_ ((3) : Nat), rfl, by decide +kernel⟩,
   ⟨{ dev := { pwr := { mode := .ready }, objs := [(0x1002, [0x41, 4000])], spn := { cnt := [0, 100, 0, 0], zLast := [none, some 0, none, none] } } }, 1, 3, (({ dev := { pwr := { mode := .ready }, objs := [(0x1002, [0x41, 4000])], spn := { cnt := [0, 100, 0, 0], zLast := [none, some 0, none, none] } } }) : State).dev.at_ ((3) : Nat), 0, rfl, by decide +kernel⟩,
   ⟨{ dev := { pwr := { mode := .ready }, objs := [(0x1002, [0x41, 4000])], spn := { cnt := [0, 4100, 0, 0], zLast := [none, some 0, none, none] } } }, 1, 3, (({ dev := { pwr := { mode := .ready }, objs := [(0x1002, [0x41, 4000])], spn := { cnt := [0, 4100, 0, 0], zLast := [none, some 0, none, none] } } }) : State).dev.at_ ((3) : Nat), 0, rfl, by decide +kernel⟩⟩

/-- Values that meet the hypotheses of LineStarts. -/
theorem witness_line_starts :
  (∃ (s : State) (t : Nat) (k : Nat) (u : Nat), s.dev.on 7 = true ∧ follower s.dev = false ∧ startsLines s.dev = true ∧ reachedLine (distAt (t + 1) (s.dev.at_ t)) (s.dev.at_ t) = some k ∧ k = s.dev.spn.next ∧ u = lineInstant k t (s.dev.at_ t) ∧ u ≤ t) ∧
  (∃ (s : State) (t : Nat), s.dev.on 7 = true ∧ follower s.dev = false ∧ (startsLines s.dev = false ∨ ((reachedLine (distAt (t + 1) (s.dev.at_ t)) (s.dev.at_ t)).all fun k => decide (t < lineInstant k t (s.dev.at_ t))) = true)) ∧
  (∃ (s : State) (t : Nat) (b : LineBlk) (l : List LineBlk), s.dev.on 7 = true ∧ follower s.dev = true ∧ startsLines s.dev = true ∧ s.dev.krm.sched = b :: l ∧ b.k = s.dev.spn.next ∧ b.tk ≤ groupStep (t + 1) (s.dev.at_ t) ∧ s.dev.pwr.linesLast = none) :=
  ⟨⟨{ dev := { pwr := { mode := .scan }, objs := [(0x1000, [0x2108, 1000000, 0, 0, 0, 256, 100000000, 16])] } }, 3, 0, 0, by decide +kernel⟩,
   ⟨{ dev := { pwr := { mode := .ready } } }, 3, by decide +kernel⟩,
   ⟨{ dev := { pwr := { mode := .scan }, krm := { member := true, sched := [{ k := 0, tk := 2, pos := 100, vhat := 0, phase := 0, frameStart := false, frameEnd := false, abort := false }] } } }, 3, { k := 0, tk := 2, pos := 100, vhat := 0, phase := 0, frameStart := false, frameEnd := false, abort := false }, [], by decide +kernel⟩⟩

/-- Values that meet the hypotheses of TemplateEntriesFire. -/
theorem witness_template_entries_fire :
  (∃ (s : State) (i : Fin 4096) (t : Nat) (u : Nat) (l : LineProg), s.dev.on 7 = true ∧ entryComes 1 t i.val (s.dev.at_ t) = some (l, u)) ∧
  (∃ (s : State) (i : Fin 4096) (t : Nat) (u : Nat) (l : LineProg), s.dev.on 7 = true ∧ entryComes 2 t i.val (s.dev.at_ t) = some (l, u)) ∧
  (∃ (s : State) (i : Fin 4096) (t : Nat) (u : Nat) (l : LineProg), s.dev.on 7 = true ∧ entryComes 3 t i.val (s.dev.at_ t) = some (l, u)) ∧
  (∃ (s : State) (i : Fin 4096) (t : Nat) (u : Nat) (l : LineProg), s.dev.on 7 = true ∧ entryComes 4 t i.val (s.dev.at_ t) = some (l, u)) ∧
  (∃ (s : State) (i : Fin 4096) (t : Nat) (u : Nat) (l : LineProg), s.dev.on 7 = true ∧ entryComes 5 t i.val (s.dev.at_ t) = some (l, u)) ∧
  (∃ (s : State) (i : Fin 4096) (t : Nat) (u : Nat) (l : LineProg), s.dev.on 7 = true ∧ entryComes 6 t i.val (s.dev.at_ t) = some (l, u)) ∧
  (∃ (s : State) (i : Fin 4096) (t : Nat) (u : Nat) (l : LineProg), s.dev.on 7 = true ∧ entryComes 7 t i.val (s.dev.at_ t) = some (l, u)) ∧
  (∃ (s : State) (i : Fin 4096) (t : Nat) (u : Nat) (l : LineProg), s.dev.on 7 = true ∧ entryComes 8 t i.val (s.dev.at_ t) = some (l, u)) ∧
  (∃ (s : State) (i : Fin 4096) (t : Nat) (u : Nat) (l : LineProg), s.dev.on 7 = true ∧ entryComes 9 t i.val (s.dev.at_ t) = some (l, u)) ∧
  (∃ (s : State) (i : Fin 4096) (t : Nat), s.dev.on 7 = true ∧ (List.range 10).all (fun n => (entryComes n t i.val (s.dev.at_ t)).isNone) = true) ∧
  (∃ (s : State) (c : MnrCmd) (t : Taken), otherTaken 0x1010 c s.dev = false ∧ t.arg % 65536 = 0x1010 ∧ Starts Op.OBJ_WRITE (withObj 0x1010 c) s.dev t ∧ writeAccepted (withObj 0x1010 c) t (begun Op.OBJ_WRITE (withObj 0x1010 c) s.dev) = true) :=
  ⟨⟨{ dev := { pwr := { mode := .scan }, objs := [(0x1000, [0x2108, 1000000]), (0x1010, [1, 0, 0, 0x1001301])], spn := { line := some { k := 0, phase := 0, p0 := 0, left := [0] } } } }, 0, 3, 0, { k := 0, phase := 0, p0 := 0, left := [0] }, by decide +kernel⟩,
   ⟨{ dev := { pwr := { mode := .scan }, objs := [(0x1000, [0x2108, 1000000]), (0x1010, [1, 0, 0, 0x1001302])], spn := { line := some { k := 0, phase := 0, p0 := 0, left := [0] } } } }, 0, 3, 0, { k := 0, phase := 0, p0 := 0, left := [0] }, by decide +kernel⟩,
   ⟨{ dev := { pwr := { mode := .scan }, objs := [(0x1000, [0x2108, 1000000]), (0x1010, [1, 0, 0, 0x1001303])], spn := { line := some { k := 0, phase := 0, p0 := 0, left := [0] } } } }, 0, 3, 0, { k := 0, phase := 0, p0 := 0, left := [0] }, by decide +kernel⟩,
   ⟨{ dev := { pwr := { mode := .scan }, objs := [(0x1000, [0x2108, 1000000]), (0x1010, [1, 0, 0, 0x1001304])], spn := { line := some { k := 0, phase := 0, p0 := 0, left := [0] } } } }, 0, 3, 0, { k := 0, phase := 0, p0 := 0, left := [0] }, by decide +kernel⟩,
   ⟨{ dev := { pwr := { mode := .scan }, objs := [(0x1000, [0x2108, 1000000]), (0x1010, [1, 0, 0, 0x1001305])], spn := { line := some { k := 0, phase := 0, p0 := 0, left := [0] } } } }, 0, 3, 0, { k := 0, phase := 0, p0 := 0, left := [0] }, by decide +kernel⟩,
   ⟨{ dev := { pwr := { mode := .scan }, objs := [(0x1000, [0x2108, 1000000]), (0x1010, [1, 0, 0, 0x1001306])], spn := { line := some { k := 0, phase := 0, p0 := 0, left := [0] } } } }, 0, 3, 0, { k := 0, phase := 0, p0 := 0, left := [0] }, by decide +kernel⟩,
   ⟨{ dev := { pwr := { mode := .scan }, objs := [(0x1000, [0x2108, 1000000]), (0x1010, [1, 0, 0, 0x1001307])], spn := { line := some { k := 0, phase := 0, p0 := 0, left := [0] } } } }, 0, 3, 0, { k := 0, phase := 0, p0 := 0, left := [0] }, by decide +kernel⟩,
   ⟨{ dev := { pwr := { mode := .scan }, objs := [(0x1000, [0x2108, 1000000]), (0x1010, [1, 0, 0, 0x1001308])], spn := { line := some { k := 0, phase := 0, p0 := 0, left := [0] } } } }, 0, 3, 0, { k := 0, phase := 0, p0 := 0, left := [0] }, by decide +kernel⟩,
   ⟨{ dev := { pwr := { mode := .scan }, objs := [(0x1000, [0x2108, 1000000]), (0x1010, [1, 0, 0, 0x1001309])], spn := { line := some { k := 0, phase := 0, p0 := 0, left := [0] } } } }, 0, 3, 0, { k := 0, phase := 0, p0 := 0, left := [0] }, by decide +kernel⟩,
   ⟨{ dev := { pwr := { mode := .scan } } }, 0, 3, by decide +kernel⟩,
   ⟨{ dev := { pwr := { mode := .ready }, mnr := { open_ := true } } }, { mbx := 0, tag := 0, arg := 0x10000, len := 3, pay := [4096, 0, 8], buf := [0, 0] }, takenOf Op.OBJ_WRITE (withObj 0x1010 { mbx := 0, tag := 0, arg := 0x10000, len := 3, pay := [4096, 0, 8], buf := [0, 0] }) {}, by decide +kernel⟩⟩

/-- Values that meet the hypotheses of StrobePort. -/
theorem witness_strobe_port :
  (∃ (s : State) (t : Nat), s.dev.on 7 = true ∧ s.dev.tap.phase ≠ .saving ∧ s.dev.spn.stbLow = false) ∧
  (∃ (s : State) (t : Nat), s.dev.on 7 = true ∧ s.dev.tap.phase ≠ .saving ∧ s.dev.spn.stbLow = true) :=
  ⟨⟨{ dev := { pwr := { mode := .ready }, spn := { p := 513, phat := 513 } } }, 9, by decide +kernel⟩,
   ⟨{ dev := { pwr := { mode := .ready }, spn := { stbLow := true, stbBytes := [1, 2, 3, 4, 5, 6, 7, 8, 9, 10] } } }, 9, by decide +kernel⟩⟩

/-- Values that meet the hypotheses of WaveformEntries. -/
theorem witness_waveform_entries :
  (∃ (s : State) (e : Fin 8) (t : Nat) (a : EntryAct), s.dev.on 8 = true ∧ nextEntry e.val s.dev = some a ∧ a.kind = 0) ∧
  (∃ (s : State) (e : Fin 8) (t : Nat) (a : EntryAct), s.dev.on 8 = true ∧ nextEntry e.val s.dev = some a ∧ a.kind = 1) ∧
  (∃ (s : State) (e : Fin 8) (t : Nat) (a : EntryAct), s.dev.on 8 = true ∧ nextEntry e.val s.dev = some a ∧ a.kind = 2 ∧ at' s.dev.sdrv.shr a.tgt false = true) ∧
  (∃ (s : State) (e : Fin 8) (t : Nat) (a : EntryAct), s.dev.on 8 = true ∧ nextEntry e.val s.dev = some a ∧ a.kind = 2 ∧ at' s.dev.sdrv.shr a.tgt false = false) ∧
  (∃ (s : State) (e : Fin 8) (t : Nat) (a : EntryAct), s.dev.on 8 = true ∧ nextEntry e.val s.dev = some a ∧ a.kind = 3 ∧ a.level = true) ∧
  (∃ (s : State) (e : Fin 8) (t : Nat) (a : EntryAct), s.dev.on 8 = true ∧ nextEntry e.val s.dev = some a ∧ a.kind = 3 ∧ a.level = false) ∧
  (∃ (s : State) (e : Fin 8) (t : Nat), s.dev.on 8 = true ∧ nextEntry e.val s.dev = none) :=
  ⟨⟨{ dev := { pwr := { mode := .ready }, sdrv := { engines := some { tbl := 0, ws := [1, 0, 0, 0, 0, 0, 64], t0 := 5, order := 0, line := none } :: List.replicate 7 none } } }, 0, 9, { kind := 0, tgt := 0, level := true, t := 5, line := none }, by decide +kernel⟩,
   ⟨{ dev := { pwr := { mode := .ready }, sdrv := { engines := some { tbl := 0, ws := [1, 0, 0, 0, 0, 0x10000000, 0], t0 := 5, order := 0, line := none } :: List.replicate 7 none } } }, 0, 9, { kind := 1, tgt := 0, level := false, t := 5, line := none }, by decide +kernel⟩,
   ⟨{ dev := { pwr := { mode := .ready }, sdrv := { shr := true :: List.replicate 7 false, engines := some { tbl := 0, ws := [1, 0, 0, 0, 0, 0x20000000, 0], t0 := 5, order := 0, line := none } :: List.replicate 7 none } } }, 0, 9, { kind := 2, tgt := 0, level := false, t := 5, line := none }, by decide +kernel⟩,
   ⟨{ dev := { pwr := { mode := .ready }, sdrv := { engines := some { tbl := 0, ws := [1, 0, 0, 0, 0, 0x20000000, 0], t0 := 5, order := 0, line := none } :: List.replicate 7 none } } }, 0, 9, { kind := 2, tgt := 0, level := false, t := 5, line := none }, by decide +kernel⟩,
   ⟨{ dev := { pwr := { mode := .ready }, sdrv := { engines := some { tbl := 0, ws := [1, 0, 0, 0, 0, 0x30000000, 64], t0 := 5, order := 0, line := none } :: List.replicate 7 none } } }, 0, 9, { kind := 3, tgt := 0, level := true, t := 5, line := none }, by decide +kernel⟩,
   ⟨{ dev := { pwr := { mode := .ready }, sdrv := { expo := { open_ := true } :: List.replicate 3 {}, engines := some { tbl := 0, ws := [1, 0, 0, 0, 0, 0x30000000, 0], t0 := 5, order := 0, line := none } :: List.replicate 7 none } } }, 0, 9, { kind := 3, tgt := 0, level := false, t := 5, line := none }, by decide +kernel⟩,
   ⟨{ dev := { pwr := { mode := .ready } } }, 7, 9, by decide +kernel⟩⟩

/-- Values that meet the hypotheses of SensorSuppliesAndTables. -/
theorem witness_sensor_supplies_and_tables :
  (∃ (s : State) (t : Nat) (i : Nat), s.dev.on 8 = true ∧ (s.dev.pwr.mode = .ready ∨ s.dev.pwr.mode = .hold) ∧ cfgB Obj.SDRV_CTL.IDLE_EN s.dev = true ∧ enginesRunning s.dev = [] ∧ Tbl.entries (tableWords (cfg Obj.SDRV_CTL.IDLE_TABLE s.dev) s.dev) ≠ 0 ∧ s.dev.sdrv.engines.findIdx? (fun e => e.isNone) = some i ∧ calMeasuring s.dev = false ∧ s.dev.sdrv.pendingCtl = [] ∧ s.dev.sdrv.idleFrom + 16 * cfg Obj.SDRV_CTL.IDLE_PERIOD s.dev ≤ t) ∧
  (∃ (s : State) (b : Fin 6) (v : Fin 4) (t : Nat), (s.dev.pwr.mode = .scan ∨ s.dev.pwr.mode = .hold)) ∧
  (∃ (s : State) (b : Fin 6) (v : Fin 4) (t : Nat), (s.dev.pwr.mode = .ready ∨ s.dev.pwr.mode = .calibrate ∨ s.dev.pwr.mode = .safe)) ∧
  (∃ (s : State) (b : Fin 6) (v : Fin 4) (t : Nat), s.dev.pwr.mode ≠ .reset) ∧
  (∃ (s : State) (tbl : Fin 64) (c : MnrCmd) (t : Taken), otherTaken (0x1140 + tbl.val) c s.dev = false ∧ t.arg % 65536 = 0x1140 + tbl.val ∧ Starts Op.OBJ_WRITE (withObj (0x1140 + tbl.val) c) s.dev t ∧ writeAccepted (withObj (0x1140 + tbl.val) c) t (begun Op.OBJ_WRITE (withObj (0x1140 + tbl.val) c) s.dev) = true) :=
  ⟨⟨{ dev := { pwr := { mode := .ready }, objs := [(0x1100, [0xFFFFFFFF]), (0x1140, [1, 0, 0, 0, 0, 0, 0]), (0x117F, [1, 0, 0, 0, 0, 0, 0])] } }, 9, 0, by decide +kernel⟩,
   ⟨{ dev := { pwr := { mode := .scan } } }, 5, 0, 9, by decide +kernel⟩,
   ⟨{ dev := { pwr := { mode := .safe } } }, 0, 3, 9, by decide +kernel⟩,
   ⟨{ dev := { pwr := { mode := .scan }, sdrv := { bankBad := 3 } } }, 0, 3, 9, by decide +kernel⟩,
   ⟨{ dev := { pwr := { mode := .ready }, mnr := { open_ := true } } }, 63, { mbx := 0, tag := 0, arg := 0x10000, len := 3, pay := [4096, 0, 20], buf := [0, 0, 0, 0, 0] }, takenOf Op.OBJ_WRITE (withObj 0x117F { mbx := 0, tag := 0, arg := 0x10000, len := 3, pay := [4096, 0, 20], buf := [0, 0, 0, 0, 0] }) {}, by decide +kernel⟩⟩

/-- Values that meet the hypotheses of WindowsAndConversions. -/
theorem witness_windows_and_conversions :
  (∃ (s : State) (i : Fin 256) (t : Nat) (w : Window), s.dev.on 8 = true ∧ (s.dev.acq.windows.find? fun w => w.desc == i.val && !w.open_ && w.due.isSome) = some w ∧ converting s.dev = true) ∧
  (∃ (s : State) (i : Fin 256) (t : Nat) (w : Window), s.dev.on 8 = true ∧ (s.dev.acq.windows.find? fun w => w.desc == i.val && !w.open_ && w.due.isSome) = some w ∧ converting s.dev = false) ∧
  (∃ (s : State) (ch : Fin 64) (l : Int) (chk : Int) (t : Nat) (w : Window) (k : Nat) (n : Nat) (code : Nat), s.dev.on 8 = true ∧ s.dev.runs 10 = true ∧ converting s.dev = true ∧ (s.dev.acq.windows.find? fun w => w.open_ && w.wants ch.val && (!w.cds || (acqCh ch.val s.dev).cds.isSome)) = some w ∧ w.cds = false ∧ w.owner = some k ∧ n = w.made ch.val ∧ w.skip ≤ n ∧ ilvHead ch.val s.dev = false ∧ checkerFor ch.val s.dev = none ∧ noConverter ch.val ch.val s.dev = false ∧ s.dev.cal.feFailed.testBit ch.val = false ∧ (acqCh ch.val s.dev).open_ = false ∧ (acqCh ch.val s.dev).lastOver = none ∧ (acqCh ch.val s.dev).recL = 0 ∧ (acqCh ch.val s.dev).recR = 0 ∧ codeOf ch.val ch.val l s.dev = (code, 0)) :=
  ⟨⟨{ dev := { pwr := { mode := .scan }, acq := { refReady := true, windows := [{ desc := 3, ws := [1, 0, 0, 1, 0, 1], arm := 0, owner := none, due := some 8 }] } } }, 3, 9, { desc := 3, ws := [1, 0, 0, 1, 0, 1], arm := 0, owner := none, due := some 8 }, by decide +kernel⟩,
   ⟨{ dev := { pwr := { mode := .scan }, acq := { windows := [{ desc := 3, ws := [1, 0, 0, 1, 0, 1], arm := 0, owner := none, due := some 8 }] } } }, 3, 9, { desc := 3, ws := [1, 0, 0, 1, 0, 1], arm := 0, owner := none, due := some 8 }, by decide +kernel⟩,
   ⟨{ dev := { pwr := { mode := .scan }, acq := { refReady := true, windows := [{ desc := 0, ws := [1, 0, 0, 1, 0, 100], arm := 0, owner := some 0, open_ := true, due := some 8 }] } } }, 0, 4, 4, 9, { desc := 0, ws := [1, 0, 0, 1, 0, 100], arm := 0, owner := some 0, open_ := true, due := some 8 }, 0, 0, 32769, by decide +kernel⟩⟩

/-- Values that meet the hypotheses of ConvertersFail. -/
theorem witness_converters_fail :
  (∃ (s : State) (i : Fin 68) (t : Nat) (k : Nat), s.dev.on 8 = true ∧ i.val < 64 ∧ (acqCh i.val s.dev).failed = false ∧ failLine i.val s.dev = none ∧ pickChecker i.val s.dev = some k) ∧
  (∃ (s : State) (i : Fin 68) (t : Nat), s.dev.on 8 = true ∧ i.val < 64 ∧ (acqCh i.val s.dev).failed = false ∧ failLine i.val s.dev = none ∧ pickChecker i.val s.dev = none) ∧
  (∃ (s : State) (i : Fin 68) (t : Nat), s.dev.on 8 = true ∧ 64 ≤ i.val ∧ (chkAt (i.val - 64) s.dev).failed = false ∧ (chkAt (i.val - 64) s.dev).sub = none) ∧
  (∃ (s : State) (i : Fin 68) (t : Nat), s.dev.on 8 = true ∧ at' s.dev.acq.crc i.val 0 < 3) ∧
  (∃ (s : State) (i : Fin 68) (t : Nat), s.dev.on 8 = true ∧ 3 ≤ at' s.dev.acq.crc i.val 0) ∧
  (∃ (s : State) (k : Fin 4) (conv : ArbRes) (chk : ArbRes) (t : Nat) (x : Dev), s.dev.on 8 = true ∧ shadowOf (chkCh k.val s.dev) s.dev = some k.val ∧ cfg (Obj.ACQ_CHK.FAIL_LINES k.val) s.dev ≤ (chkAt k.val s.dev).marked ∧ converting s.dev = true ∧ windowSoon (chkCh k.val s.dev) t 1024 s.dev = false ∧ x = updChk k.val (fun x => { x with marked := 0, markedAt := none }) (s.dev.at_ t)) ∧
  (∃ (s : State) (l : Fin 8) (arrive : List Nat) (t : Nat), s.dev.on 9 = true ∧ ((linkAt l.val s.dev).state = 3 ∨ (linkAt l.val s.dev).state = 4) ∧ deskewBad l.val arrive s.dev = true) ∧
  (∃ (s : State) (l : Fin 8) (arrive : List Nat) (t : Nat), s.dev.on 9 = true ∧ (((linkAt l.val s.dev).state ≠ 3 ∧ (linkAt l.val s.dev).state ≠ 4) ∨ deskewBad l.val arrive s.dev = false)) ∧
  (∃ (s : State) (p : Fin 32) (word : Nat) (n : Nat) (g : Nat) (t : Nat), s.dev.on 9 = true ∧ groupOfLane p.val s.dev = some g ∧ alignsOn g word n s.dev = true) ∧
  (∃ (s : State) (p : Fin 32) (word : Nat) (n : Nat) (t : Nat), s.dev.on 9 = true ∧ ((groupOfLane p.val s.dev).all fun g => !alignsOn g word n s.dev) = true) ∧
  (∃ (s : State) (p : Fin 32) (g : Nat) (t : Nat), s.dev.on 9 = true ∧ (laneAt p.val s.dev).aligned = true ∧ groupOfLane p.val s.dev = some g) ∧
  (∃ (s : State) (p : Fin 32) (t : Nat), s.dev.on 9 = true ∧ (laneAt p.val s.dev).aligned = false) :=
  ⟨⟨{ dev := { pwr := { mode := .scan } } }, 63, 9, 0, by decide +kernel⟩,
   ⟨{ dev := { pwr := { mode := .scan }, acq := { chk := List.replicate 4 { failed := true } } } }, 0, 9, by decide +kernel⟩,
   ⟨{ dev := { pwr := { mode := .scan } } }, 67, 9, by decide +kernel⟩,
   ⟨{ dev := { pwr := { mode := .scan }, acq := { crc := List.replicate 68 2 } } }, 67, 9, by decide +kernel⟩,
   ⟨{ dev := { pwr := { mode := .scan }, acq := { crc := List.replicate 68 3 } } }, 67, 9, by decide +kernel⟩,
   ⟨{ dev := { pwr := { mode := .scan }, objs := [(0x1203, [128, 0, 0, 0, 0, 0, 0, 0])], acq := { refReady := true, chk := { marked := 300 } :: List.replicate 3 {} } } }, 0, { lo1 := 16384, lo2 := 16384, hi1 := 49152, hi2 := 49152 }, { lo1 := 0, lo2 := 16384, hi1 := 49152, hi2 := 49152 }, 9, updChk 0 (fun x => { x with marked := 0, markedAt := none }) (({ pwr := { mode := .scan }, objs := [(0x1203, [128, 0, 0, 0, 0, 0, 0, 0])], acq := { refReady := true, chk := { marked := 300 } :: List.replicate 3 {} } } : Dev).at_ 9), by decide +kernel⟩,
   ⟨{ dev := { pwr := { mode := .ready }, jlk := { link := { state := 4 } :: List.replicate 7 {} } } }, 0, [0, 600], 5, by decide +kernel⟩,
   ⟨{ dev := { pwr := { mode := .ready } } }, 0, [0, 600], 5, by decide +kernel⟩,
   ⟨{ dev := { pwr := { mode := .ready }, objs := [(0x1410, [1, 1, 0, 0, 0, 0, 0, 0])] } }, 0, 0, 64, 0, 5, by decide +kernel⟩,
   ⟨{ dev := { pwr := { mode := .ready }, objs := [(0x1410, [1, 1, 0, 0, 0, 0, 0, 0])] } }, 0, 0, 63, 5, by decide +kernel⟩,
   ⟨{ dev := { pwr := { mode := .ready }, objs := [(0x1410, [1, 1, 0, 0, 0, 0, 0, 0])], jlk := { lane := { aligned := true } :: List.replicate 31 {} } } }, 0, 0, 5, by decide +kernel⟩,
   ⟨{ dev := { pwr := { mode := .ready } } }, 31, 5, by decide +kernel⟩⟩

/-- Values that meet the hypotheses of InjectedConversions. -/
theorem witness_injected_conversions :
  (∃ (s : State) (c : MnrCmd) (t : Taken), otherTaken 0x1204 c s.dev = false ∧ t.arg % 65536 = 0x1204 ∧ Starts Op.OBJ_WRITE (withObj 0x1204 c) s.dev t ∧ writeAccepted (withObj 0x1204 c) t (begun Op.OBJ_WRITE (withObj 0x1204 c) s.dev) = true) ∧
  (∃ (s : State) (lvl : Int) (t : Nat) (i : Nat) (r : InjReq) (rest : List InjReq), s.dev.on 8 = true ∧ s.dev.acq.inj = r :: rest ∧ windowSoon r.ch t 256 s.dev = false ∧ (acqCh r.ch s.dev).shr = false ∧ s.dev.acq.refReady = true ∧ chMode r.ch s.dev ≠ 0 ∧ r.waited < cfg Obj.ACQ_CTL.INJ_TMO s.dev ∧ injOpen s.dev = true ∧ i = (match checkerFor r.ch s.dev with | some k => 64 + k | none => r.ch)) ∧
  (∃ (s : State) (t : Nat) (l : List InjReq) (rest : List InjReq) (r : InjReq), s.dev.on 8 = true ∧ splitAt? (fun r : InjReq => decide (cfg Obj.ACQ_CTL.INJ_TMO s.dev ≤ r.waited)) s.dev.acq.inj = some (l, r, rest)) ∧
  (∃ (s : State) (c : MnrCmd) (t : Taken), otherTaken 0x1205 c s.dev = false ∧ t.arg = 0x1205 ∧ Starts Op.OBJ_READ (withObj 0x1205 c) s.dev t ∧ (begun Op.OBJ_READ (withObj 0x1205 c) s.dev).runs 8 = true) :=
  ⟨⟨{ dev := { pwr := { mode := .ready }, mnr := { open_ := true }, objs := [(0x1201, List.replicate 64 1)] } }, { mbx := 0, tag := 0, len := 2, pay := [1, 5] }, takenOf Op.OBJ_WRITE (withObj 0x1204 { mbx := 0, tag := 0, len := 2, pay := [1, 5] }) {}, by decide +kernel⟩,
   ⟨{ dev := { pwr := { mode := .scan }, acq := { refReady := true, inj := [{ ch := 2, tag := 7, event := false }] }, objs := [(0x1200, [0xFFFFFFFF]), (0x1201, [0, 0, 1])] } }, 5, 9, 2, { ch := 2, tag := 7, event := false }, [], by decide +kernel⟩,
   ⟨{ dev := { pwr := { mode := .scan }, acq := { inj := [{ ch := 2, tag := 7, event := false, waited := 70000 }] } } }, 9, [], [], { ch := 2, tag := 7, event := false, waited := 70000 }, by decide +kernel⟩,
   ⟨{ dev := { pwr := { mode := .ready }, mnr := { open_ := true }, acq := { res := [{ ch := 2, status := 0, tag := 7 }] } } }, { mbx := 0, tag := 0 }, takenOf Op.OBJ_READ (withObj 0x1205 { mbx := 0, tag := 0 }) {}, by decide +kernel⟩⟩

/-- Values that meet the hypotheses of CaptureSettings. -/
theorem witness_capture_settings :
  (∃ (s : State) (c : MnrCmd) (t : Taken), otherTaken 0x1201 c s.dev = false ∧ t.arg % 65536 = 0x1201 ∧ Starts Op.OBJ_WRITE (withObj 0x1201 c) s.dev t ∧ writeAccepted (withObj 0x1201 c) t (begun Op.OBJ_WRITE (withObj 0x1201 c) s.dev) = true) ∧
  (∃ (s : State) (t : Nat) (u : Nat), s.dev.pwr.mode ≠ .reset ∧ s.dev.pwr.mode ≠ .sleep ∧ s.dev.acq.refAt = some u ∧ s.dev.cal.run = none) ∧
  (∃ (s : State) (t : Nat), s.dev.on 8 = true ∧ cfgB Obj.ACQ_CTL.REF_EN s.dev = true ∧ s.dev.acq.refBad = false) ∧
  (∃ (s : State) (t : Nat), s.dev.on 8 = true) :=
  ⟨⟨{ dev := { pwr := { mode := .ready }, mnr := { open_ := true } } }, { mbx := 0, tag := 0, arg := 0x10000, len := 3, pay := [4096, 0, 256], buf := List.replicate 64 1 }, takenOf Op.OBJ_WRITE (withObj 0x1201 { mbx := 0, tag := 0, arg := 0x10000, len := 3, pay := [4096, 0, 256], buf := List.replicate 64 1 }) {}, by decide +kernel⟩,
   ⟨{ dev := { pwr := { mode := .ready }, acq := { refAt := some 7 } } }, 9, 7, by decide +kernel⟩,
   ⟨{ dev := { pwr := { mode := .ready }, objs := [(0x1200, [0xFFFFFFFF])] } }, 9, by decide +kernel⟩,
   ⟨{ dev := { pwr := { mode := .ready }, acq := { refBad := true } } }, 9, by decide +kernel⟩⟩

/-- Values that meet the hypotheses of CalibrationRuns. -/
theorem witness_calibration_runs :
  (∃ (s : State) (c : MnrCmd) (t : Taken), Starts Op.CAL_RUN c s.dev t ∧ t.arg ≤ 1 ∧ (begun Op.CAL_RUN c s.dev).cal.run = none ∧ ((begun Op.CAL_RUN c s.dev).pwr.mode = .calibrate → 3 ≤ (begun Op.CAL_RUN c s.dev).pwr.calStep) ∧ (begun Op.CAL_RUN c s.dev).acq.inj ≠ [] ∧ injReady (begun Op.CAL_RUN c s.dev).now (begun Op.CAL_RUN c s.dev) = true) ∧
  (∃ (s : State) (c : MnrCmd) (t : Taken), Starts Op.CAL_RUN c s.dev t ∧ t.arg ≤ 1 ∧ (begun Op.CAL_RUN c s.dev).cal.run = none ∧ ((begun Op.CAL_RUN c s.dev).pwr.mode = .calibrate → 3 ≤ (begun Op.CAL_RUN c s.dev).pwr.calStep) ∧ (begun Op.CAL_RUN c s.dev).acq.inj ≠ [] ∧ injReady (begun Op.CAL_RUN c s.dev).now (begun Op.CAL_RUN c s.dev) = false) ∧
  (∃ (s : State) (c : MnrCmd) (t : Taken), Starts Op.CAL_RUN c s.dev t ∧ t.arg ≤ 1 ∧ (begun Op.CAL_RUN c s.dev).cal.run = none ∧ ((begun Op.CAL_RUN c s.dev).pwr.mode = .calibrate → 3 ≤ (begun Op.CAL_RUN c s.dev).pwr.calStep) ∧ (begun Op.CAL_RUN c s.dev).acq.inj = []) ∧
  (∃ (s : State) (t : Nat) (r : CalRun), s.dev.on 8 = true ∧ s.dev.cal.run = some r ∧ r.state = 1 ∧ (r.serving = false ∨ injReady (s.dev.at_ t).now (s.dev.at_ t) = false)) ∧
  (∃ (s : State) (res : List (CalItem × Trim × Trim)) (t : Nat) (r : CalRun), s.dev.on 8 = true ∧ s.dev.acq.refReady = true ∧ s.dev.cal.run = some r ∧ 2 ≤ r.state ∧ r.state ≤ 5 ∧ r.items = res.map (·.1) ∧ noRepeat r.items = true ∧ res.all (fun x => trimInRange (calResult x.1 x.2.1 s.dev) && trimInRange (calResult x.1 x.2.2 s.dev) && trimsAgree (calResult x.1 x.2.1 s.dev) (calResult x.1 x.2.2 s.dev)) = true) ∧
  (∃ (s : State) (i : CalItem) (a : Trim) (b : Trim) (t : Nat) (r : CalRun), s.dev.on 8 = true ∧ s.dev.acq.refReady = true ∧ s.dev.cal.run = some r ∧ 2 ≤ r.state ∧ r.state ≤ 4 ∧ r.items = [i] ∧ trimInRange (calResult i a s.dev) = true ∧ trimInRange (calResult i b s.dev) = true ∧ trimsAgree (calResult i a s.dev) (calResult i b s.dev) = false) ∧
  (∃ (s : State) (c : MnrCmd) (t : Taken), Starts Op.CAL_SAVE c s.dev t ∧ t.arg = 0 ∧ (begun Op.CAL_SAVE c s.dev).cal.write = .idle ∧ s.dev.pwr.vinWarn = false) ∧
  (∃ (s : State) (c : MnrCmd) (t : Taken), Starts Op.CAL_SAVE c s.dev t ∧ t.arg = 0 ∧ (begun Op.CAL_SAVE c s.dev).cal.write = .idle ∧ s.dev.pwr.vinWarn = true) ∧
  (∃ (s : State) (t : Nat) (slot : Nat) (r : CalRec), s.dev.on 1 = true ∧ s.dev.cal.write = .writing slot r ∧ s.dev.pwr.vinWarn = false ∧ readsBack slot r (programBody slot r s.dev.cal) = true) ∧
  (∃ (s : State) (t : Nat) (slot : Nat) (r : CalRec), s.dev.on 1 = true ∧ s.dev.cal.write = .writing slot r ∧ (s.dev.pwr.vinWarn || !readsBack slot r (programBody slot r s.dev.cal)) = true) ∧
  (∃ (c : Cal), newestSlot c = some 0) :=
  ⟨⟨{ dev := { pwr := { mode := .ready }, mnr := { open_ := true }, objs := [(0x1200, [0xFFFFFFFF]), (0x1201, [1])], acq := { refReady := true, inj := [{ ch := 0, tag := 0, event := false }] } } }, { mbx := 0, tag := 0, arg := 1 }, takenOf Op.CAL_RUN { mbx := 0, tag := 0, arg := 1 } {}, by decide +kernel⟩,
   ⟨{ dev := { pwr := { mode := .ready }, mnr := { open_ := true }, acq := { inj := [{ ch := 0, tag := 0, event := false }] } } }, { mbx := 0, tag := 0, arg := 1 }, takenOf Op.CAL_RUN { mbx := 0, tag := 0, arg := 1 } {}, by decide +kernel⟩,
   ⟨{ dev := { pwr := { mode := .ready }, mnr := { open_ := true } } }, { mbx := 0, tag := 0, arg := 0 }, takenOf Op.CAL_RUN { mbx := 0, tag := 0, arg := 0 } {}, by decide +kernel⟩,
   ⟨{ dev := { pwr := { mode := .ready }, cal := { run := some { state := 1, full := false, auto := false, mbx := 0, tag := 0, sess := 0, items := [] } } } }, 9, { state := 1, full := false, auto := false, mbx := 0, tag := 0, sess := 0, items := [] }, by decide +kernel⟩,
   ⟨{ dev := { pwr := { mode := .ready }, acq := { refReady := true }, cal := { run := some { state := 2, full := false, auto := true, mbx := 0, tag := 0, sess := 0, items := [.fe 3] } } } }, [(.fe 3, { ofs := 5 }, { ofs := 6 })], 9, { state := 2, full := false, auto := true, mbx := 0, tag := 0, sess := 0, items := [.fe 3] }, by decide +kernel⟩,
   ⟨{ dev := { pwr := { mode := .ready }, acq := { refReady := true }, cal := { run := some { state := 4, full := false, auto := true, mbx := 0, tag := 0, sess := 0, items := [.fe 3] } } } }, .fe 3, { ofs := 5 }, { ofs := 60 }, 9, { state := 4, full := false, auto := true, mbx := 0, tag := 0, sess := 0, items := [.fe 3] }, by decide +kernel⟩,
   ⟨{ dev := { pwr := { mode := .scan }, mnr := { open_ := true } } }, { mbx := 0, tag := 0 }, takenOf Op.CAL_SAVE { mbx := 0, tag := 0 } {}, by decide +kernel⟩,
   ⟨{ dev := { pwr := { mode := .ready, vinWarn := true }, mnr := { open_ := true } } }, { mbx := 0, tag := 0 }, takenOf Op.CAL_SAVE { mbx := 0, tag := 0 } {}, by decide +kernel⟩,
   ⟨{ dev := { pwr := { mode := .ready }, cal := { write := .writing 1 { seq := 2, bodyLen := 0, bodyCrc := 0 } } } }, 9, 1, { seq := 2, bodyLen := 0, bodyCrc := 0 }, by decide +kernel⟩,
   ⟨{ dev := { pwr := { mode := .ready }, cal := { write := .writing 1 { seq := 2, bodyLen := 0, bodyCrc := 1 } } } }, 9, 1, { seq := 2, bodyLen := 0, bodyCrc := 1 }, by decide +kernel⟩,
   ⟨{ slotA := recSealed 0x4B414350 4294967295 4 [0] }, by decide +kernel⟩⟩

/-- Values that meet the hypotheses of LinkBringUp. -/
theorem witness_link_bring_up :
  (∃ (s : State) (t : Nat), s.dev.on 9 = true) ∧
  (∃ (s : State) (l : Fin 8) (kbps : Nat) (t : Nat), s.dev.on 9 = true ∧ (linkAt l.val s.dev).state = 2 ∧ rateOk l.val kbps s.dev = true) ∧
  (∃ (s : State) (l : Fin 8) (kbps : Nat) (t : Nat), s.dev.on 9 = true ∧ ((linkAt l.val s.dev).state ≠ 2 ∨ rateOk l.val kbps s.dev = false)) ∧
  (∃ (s : State) (l : Fin 8) (i : Ilas) (arrive : List Nat) (lat : Nat) (t : Nat), s.dev.on 9 = true ∧ (linkAt l.val s.dev).state = 3 ∧ cfg (Obj.JLK_LINK.STD l.val) s.dev = 0 ∧ ilasMatches l.val i s.dev = false) ∧
  (∃ (s : State) (l : Fin 8) (i : Ilas) (arrive : List Nat) (lat : Nat) (t : Nat), s.dev.on 9 = true ∧ (linkAt l.val s.dev).state = 3 ∧ (cfg (Obj.JLK_LINK.STD l.val) s.dev = 1 ∨ ilasMatches l.val i s.dev = true) ∧ deskewBad l.val arrive s.dev = false ∧ ((linkAt l.val s.dev).latBefore.all fun b => decide (((lat : Int) - b).natAbs * cfg Obj.JLK_CTL.JCLK_KHZ s.dev ≤ 1000000000)) = true) ∧
  (∃ (s : State) (l : Fin 8) (i : Ilas) (arrive : List Nat) (lat : Nat) (t : Nat) (b : Nat), s.dev.on 9 = true ∧ (linkAt l.val s.dev).state = 3 ∧ (cfg (Obj.JLK_LINK.STD l.val) s.dev = 1 ∨ ilasMatches l.val i s.dev = true) ∧ deskewBad l.val arrive s.dev = false ∧ (linkAt l.val s.dev).latBefore = some b ∧ 1000000000 < ((lat : Int) - b).natAbs * cfg Obj.JLK_CTL.JCLK_KHZ s.dev) ∧
  (∃ (s : State) (l : Fin 8) (i : Ilas) (arrive : List Nat) (lat : Nat) (t : Nat), s.dev.on 9 = true ∧ (linkAt l.val s.dev).state = 3 ∧ (cfg (Obj.JLK_LINK.STD l.val) s.dev = 1 ∨ ilasMatches l.val i s.dev = true) ∧ deskewBad l.val arrive s.dev = true) ∧
  (∃ (s : State) (l : Fin 8) (i : Ilas) (arrive : List Nat) (lat : Nat) (t : Nat), s.dev.on 9 = true ∧ (linkAt l.val s.dev).state ≠ 3) ∧
  (∃ (s : State) (l : Fin 8) (lost : Nat) (t : Nat), s.dev.on 9 = true ∧ (linkAt l.val s.dev).state = 4) ∧
  (∃ (s : State) (l : Fin 8) (lost : Nat) (t : Nat), s.dev.on 9 = true ∧ ((linkAt l.val s.dev).state = 2 ∨ (linkAt l.val s.dev).state = 3)) :=
  ⟨⟨{ dev := { pwr := { mode := .ready }, jlk := { link := { state := 1 } :: List.replicate 7 {} } } }, 160000, by decide +kernel⟩,
   ⟨{ dev := { pwr := { mode := .ready }, jlk := { link := { state := 2 } :: List.replicate 7 {} } } }, 0, 0, 5, by decide +kernel⟩,
   ⟨{ dev := { pwr := { mode := .ready } } }, 7, 3, 5, by decide +kernel⟩,
   ⟨{ dev := { pwr := { mode := .ready }, jlk := { link := { state := 3 } :: List.replicate 7 {} } } }, 0, { l := 0, m := 0, f := 0, s := 0, n := 0, np := 0, cs := 0, k := 0, hd := 0, scr := 0 }, [0], 70, 5, by decide +kernel⟩,
   ⟨{ dev := { pwr := { mode := .ready }, jlk := { link := { state := 3 } :: List.replicate 7 {} } } }, 0, { l := 1, m := 1, f := 2, s := 1, n := 16, np := 16, cs := 0, k := 32, hd := 0, scr := 0 }, [0], 70, 5, by decide +kernel⟩,
   ⟨{ dev := { pwr := { mode := .ready }, jlk := { link := { state := 3, latBefore := some 0 } :: List.replicate 7 {} } } }, 0, { l := 1, m := 1, f := 2, s := 1, n := 16, np := 16, cs := 0, k := 32, hd := 0, scr := 0 }, [0], 1000000000, 5, 0, by decide +kernel⟩,
   ⟨{ dev := { pwr := { mode := .ready }, jlk := { link := { state := 3 } :: List.replicate 7 {} } } }, 0, { l := 1, m := 1, f := 2, s := 1, n := 16, np := 16, cs := 0, k := 32, hd := 0, scr := 0 }, [0, 600], 70, 5, by decide +kernel⟩,
   ⟨{ dev := { pwr := { mode := .ready } } }, 7, { l := 1, m := 1, f := 2, s := 1, n := 16, np := 16, cs := 0, k := 32, hd := 0, scr := 0 }, [0], 1, 5, by decide +kernel⟩,
   ⟨{ dev := { pwr := { mode := .ready }, jlk := { link := { state := 4 } :: List.replicate 7 {} } } }, 0, 1, 5, by decide +kernel⟩,
   ⟨{ dev := { pwr := { mode := .ready }, jlk := { link := { state := 3 } :: List.replicate 7 {} } } }, 0, 1, 5, by decide +kernel⟩⟩

/-- Values that meet the hypotheses of LinkWindowsAndFrames. -/
theorem witness_link_windows_and_frames :
  (∃ (s : State) (src : LinkSrc) (t : Nat) (mark : List Nat) (w : LinkWin), s.dev.on 9 = true ∧ armedOf src s.dev = some w ∧ windowDue src t s.dev = true ∧ (match src with | .link l => solFrame l.val (mark.headD 0) s.dev | .lane p => solMark p.val mark s.dev) = true) ∧
  (∃ (s : State) (src : LinkSrc) (t : Nat) (mark : List Nat), s.dev.on 9 = true ∧ (windowDue src t s.dev = false ∨ (match src with | .link l => solFrame l.val (mark.headD 0) s.dev | .lane p => solMark p.val mark s.dev) = false)) ∧
  (∃ (s : State) (l : Fin 8) (t : Nat) (r : Nat) (z : Link) (data : List (List Nat)) (errs : List (Fin 32)), r = cfg (Obj.JLK_LINK.S l.val) s.dev ∧ z = linkAt l.val s.dev ∧ s.dev.on 9 = true ∧ srcUp (.link l) s.dev = true ∧ cfg (Obj.JLK_LINK.STD l.val) s.dev = 0 ∧ armedOf (.link l) s.dev = none ∧ openedOf (.link l) s.dev = none ∧ (errs = [] ∨ (recentErrs z.errAt errs.length t).length < cfg (Obj.JLK_LINK.ERR_LIMIT l.val) s.dev)) ∧
  (∃ (s : State) (l : Fin 8) (t : Nat) (r : Nat) (z : Link) (data : List (List Nat)) (w : LinkWin) (k : Nat), r = cfg (Obj.JLK_LINK.S l.val) s.dev ∧ z = linkAt l.val s.dev ∧ s.dev.on 9 = true ∧ srcUp (.link l) s.dev = true ∧ cfg (Obj.JLK_LINK.STD l.val) s.dev = 0 ∧ armedOf (.link l) s.dev = none ∧ openedOf (.link l) s.dev = some w ∧ w.owner = some k ∧ z.errTo = none) ∧
  (∃ (s : State) (l : Fin 8) (t : Nat) (r : Nat) (z : Link) (data : List (List Nat)) (w : LinkWin) (errs : List (Fin 32)) (k : Nat), r = cfg (Obj.JLK_LINK.S l.val) s.dev ∧ z = linkAt l.val s.dev ∧ s.dev.on 9 = true ∧ srcUp (.link l) s.dev = true ∧ cfg (Obj.JLK_LINK.STD l.val) s.dev = 0 ∧ armedOf (.link l) s.dev = none ∧ openedOf (.link l) s.dev = some w ∧ w.owner = some k ∧ errs ≠ []) ∧
  (∃ (s : State) (l : Fin 8) (t : Nat) (r : Nat) (z : Link) (data : List (List Nat)), r = cfg (Obj.JLK_LINK.S l.val) s.dev ∧ z = linkAt l.val s.dev ∧ s.dev.on 9 = true ∧ srcUp (.link l) s.dev = true ∧ cfg (Obj.JLK_LINK.STD l.val) s.dev = 1 ∧ armedOf (.link l) s.dev = none ∧ openedOf (.link l) s.dev = none) ∧
  (∃ (s : State) (p : Fin 32) (t : Nat) (v : Nat) (g : Nat), s.dev.on 9 = true ∧ srcUp (.lane p) s.dev = true ∧ armedOf (.lane p) s.dev = none ∧ groupOfLane p.val s.dev = some g ∧ cfg (Obj.JLK_RAW.CODING g) s.dev = 0) ∧
  (∃ (s : State) (src : LinkSrc) (t : Nat) (data : List (List Nat)) (errs : List (Fin 32)), s.dev.on 9 = true ∧ srcUp src s.dev = false) :=
  ⟨⟨{ dev := { pwr := { mode := .ready }, jlk := { link := { state := 4, armed := some { owner := some 3, skip := 0, count := 1, at_ := 5 } } :: List.replicate 7 {} } } }, .link 0, 5, [0], { owner := some 3, skip := 0, count := 1, at_ := 5 }, by decide +kernel⟩,
   ⟨{ dev := { pwr := { mode := .ready } } }, .lane 31, 5, [1], by decide +kernel⟩,
   ⟨{ dev := { pwr := { mode := .ready }, objs := [(0x1401, [0x80, 1, 0, 0x100000])], jlk := { link := { state := 4 } :: List.replicate 7 {} } } }, 0, 5, cfg (Obj.JLK_LINK.S ((0) : Fin 8).val) (({ dev := { pwr := { mode := .ready }, objs := [(0x1401, [0x80, 1, 0, 0x100000])], jlk := { link := { state := 4 } :: List.replicate 7 {} } } }) : State).dev, linkAt ((0) : Fin 8).val (({ dev := { pwr := { mode := .ready }, objs := [(0x1401, [0x80, 1, 0, 0x100000])], jlk := { link := { state := 4 } :: List.replicate 7 {} } } }) : State).dev, [[7, 7]], [0], rfl, rfl, by decide +kernel⟩,
   ⟨{ dev := { pwr := { mode := .ready }, jlk := { link := { state := 4, opened := some { owner := some 3, skip := 0, count := 1, at_ := 5 } } :: List.replicate 7 {} } } }, 0, 6, cfg (Obj.JLK_LINK.S ((0) : Fin 8).val) (({ dev := { pwr := { mode := .ready }, jlk := { link := { state := 4, opened := some { owner := some 3, skip := 0, count := 1, at_ := 5 } } :: List.replicate 7 {} } } }) : State).dev, linkAt ((0) : Fin 8).val (({ dev := { pwr := { mode := .ready }, jlk := { link := { state := 4, opened := some { owner := some 3, skip := 0, count := 1, at_ := 5 } } :: List.replicate 7 {} } } }) : State).dev, [[77, 5]], { owner := some 3, skip := 0, count := 1, at_ := 5 }, 3, rfl, rfl, by decide +kernel⟩,
   ⟨{ dev := { pwr := { mode := .ready }, jlk := { link := { state := 4, opened := some { owner := some 3, skip := 0, count := 2, at_ := 5 } } :: List.replicate 7 {} } } }, 0, 6, cfg (Obj.JLK_LINK.S ((0) : Fin 8).val) (({ dev := { pwr := { mode := .ready }, jlk := { link := { state := 4, opened := some { owner := some 3, skip := 0, count := 2, at_ := 5 } } :: List.replicate 7 {} } } }) : State).dev, linkAt ((0) : Fin 8).val (({ dev := { pwr := { mode := .ready }, jlk := { link := { state := 4, opened := some { owner := some 3, skip := 0, count := 2, at_ := 5 } } :: List.replicate 7 {} } } }) : State).dev, [[77, 5]], { owner := some 3, skip := 0, count := 2, at_ := 5 }, [0, 31], 3, rfl, rfl, by decide +kernel⟩,
   ⟨{ dev := { pwr := { mode := .ready }, objs := [(0x1401, [2])], jlk := { link := { state := 4 } :: List.replicate 7 {} } } }, 0, 6, cfg (Obj.JLK_LINK.S ((0) : Fin 8).val) (({ dev := { pwr := { mode := .ready }, objs := [(0x1401, [2])], jlk := { link := { state := 4 } :: List.replicate 7 {} } } }) : State).dev, linkAt ((0) : Fin 8).val (({ dev := { pwr := { mode := .ready }, objs := [(0x1401, [2])], jlk := { link := { state := 4 } :: List.replicate 7 {} } } }) : State).dev, [[77, 5]], rfl, rfl, by decide +kernel⟩,
   ⟨{ dev := { pwr := { mode := .ready }, objs := [(0x1410, [1, 1, 0, 0, 0, 0, 0, 0])], jlk := { lane := { aligned := true, opened := some { owner := some 3, skip := 0, count := 1, at_ := 5 } } :: List.replicate 31 {} } } }, 0, 6, 9, 0, by decide +kernel⟩,
   ⟨{ dev := { pwr := { mode := .ready } } }, .link 0, 5, [[7]], [1], by decide +kernel⟩⟩

/-- Values that meet the hypotheses of HeddleAndPacking. -/
theorem witness_heddle_and_packing :
  (∃ (s : State) (t : Nat) (err : TableErr), s.dev.on 10 = true ∧ s.dev.hdl.inq = []) ∧
  (∃ (s : State) (t : Nat) (err : TableErr) (x : Sample) (rest : List Sample), s.dev.on 10 = true ∧ s.dev.hdl.inq = x :: rest ∧ (primes x.line s.dev = true ∨ (s.dev.hdl.discardFrom.map fun r => decide (r ≤ x.line)).getD false = true)) ∧
  (∃ (s : State) (t : Nat) (err : TableErr) (x : Sample) (rest : List Sample) (r : LineRec), s.dev.on 10 = true ∧ s.dev.hdl.inq = x :: rest ∧ primes x.line s.dev = false ∧ (s.dev.hdl.discardFrom.map fun r => decide (r ≤ x.line)).getD false = false ∧ lineRec x.line s.dev = some r ∧ r.passed = false ∧ (bankSet (bankOfLine x.line s.dev) s.dev).segFor x.stream x.j = none) ∧
  (∃ (s : State) (t : Nat) (x : Sample) (rest : List Sample) (r : LineRec) (l : HLine) (si : Nat) (e : Nat) (pos : Nat) (seg : Seg) (b : HdlSet) (y3 : Int), s.dev.on 10 = true ∧ s.dev.hdl.inq = x :: rest ∧ primes x.line s.dev = false ∧ (s.dev.hdl.discardFrom.map fun r => decide (r ≤ x.line)).getD false = false ∧ lineRec x.line s.dev = some r ∧ r.passed = false ∧ heldLine x.line s.dev = some l ∧ l.bank = bankOfLine x.line s.dev ∧ l.forced = false ∧ b = bankSet l.bank s.dev ∧ b.segFor x.stream x.j = some (si, seg) ∧ seg.rchk = false ∧ b.poison = [] ∧ pos = (seg.place x.j).1 * b.width + (seg.place x.j).2.toNat ∧ Sparse.get none l.px pos = none ∧ Sparse.get none b.tab (b.addr r.phase (seg.place x.j).1 (seg.place x.j).2.toNat) = some e ∧ y3 = gainStep (linearize b seg.lin ((x.code : Int) - (e % 65536 : Nat))) (totalGain (e / 65536) (Sparse.get 0x4000 l.shade (seg.place x.j).2.toNat) l.pg)) ∧
  (∃ (s : State) (t : Nat), s.dev.on 10 = true ∧ (packStalled s.dev = true ∨ nextDone s.dev = none)) ∧
  (∃ (s : State) (t : Nat) (r : LineRec) (l : HLine), s.dev.on 10 = true ∧ packStalled s.dev = false ∧ nextDone s.dev = some (r, l) ∧ (bankSet l.bank s.dev).rows ≤ 1 ∧ (rowsOf s.dev ≤ 1 ∨ s.dev.hdl.packQ.length ≤ 1)) ∧
  (∃ (s : State) (t : Nat), s.dev.on 10 = true ∧ (s.dev.hdl.packQ = [] ∨ packStalled s.dev = true)) ∧
  (∃ (s : State) (t : Nat) (o : OutLine) (rest : List OutLine) (r : LineRec) (ws : List (List Word)) (px : List Int) (clip : Bool), s.dev.on 10 = true ∧ s.dev.hdl.packQ = o :: rest ∧ packStalled s.dev = false ∧ lineRec o.k s.dev = some r ∧ s.dev.pace.verify = none ∧ packRecord o r s.dev = (ws, px, clip)) :=
  ⟨⟨{ dev := { pwr := { mode := .ready } } }, 3, .none, by decide +kernel⟩,
   ⟨{ dev := { pwr := { mode := .hold }, hdl := { discardFrom := some 0, inq := [{ stream := 0, j := 0, line := 3, code := 100, rng := 0, subst := false, at_ := 0 }] } } }, 3, .none, { stream := 0, j := 0, line := 3, code := 100, rng := 0, subst := false, at_ := 0 }, [], by decide +kernel⟩,
   ⟨{ dev := { pwr := { mode := .scan }, lines := [{ k := 3, phase := 0, pos := 0, ts := 0 }], hdl := { inq := [{ stream := 9, j := 0, line := 3, code := 100, rng := 0, subst := false, at_ := 0 }] } } }, 3, .none, { stream := 9, j := 0, line := 3, code := 100, rng := 0, subst := false, at_ := 0 }, [], { k := 3, phase := 0, pos := 0, ts := 0 }, by decide +kernel⟩,
   ⟨{ dev := { pwr := { mode := .scan }, lines := [{ k := 3, phase := 0, pos := 0, ts := 0 }], hdl := { bank := [{ map := [0x10001#32, 0x10001#32, 0x7F000#32, 0x10000#32, 0x10000#32, 1#32], tab := [(0, some 1073741829)] }, {}], lines := [{ k := 3, phase := 0, bank := false, pg := 0x4000, shade := [] }], inq := [{ stream := 0, j := 0, line := 3, code := 100, rng := 0, subst := false, at_ := 0 }] } } }, 3, { stream := 0, j := 0, line := 3, code := 100, rng := 0, subst := false, at_ := 0 }, [], { k := 3, phase := 0, pos := 0, ts := 0 }, { k := 3, phase := 0, bank := false, pg := 0x4000, shade := [] }, 0, 1073741829, 0, { stream := 0, lin := 127, rchk := false, row := 0, j := 0, n := 1, col := 0, stride := 1, run := 1 }, { map := [0x10001#32, 0x10001#32, 0x7F000#32, 0x10000#32, 0x10000#32, 1#32], tab := [(0, some 1073741829)] }, 1520, by decide +kernel⟩,
   ⟨{ dev := { pwr := { mode := .ready } } }, 3, by decide +kernel⟩,
   ⟨{ dev := { pwr := { mode := .scan }, lines := [{ k := 3, phase := 0, pos := 0, ts := 0 }], hdl := { lines := [{ k := 3, phase := 0, bank := false, pg := 0x4000, shade := [] }] } } }, 3, { k := 3, phase := 0, pos := 0, ts := 0 }, { k := 3, phase := 0, bank := false, pg := 0x4000, shade := [] }, by decide +kernel⟩,
   ⟨{ dev := { pwr := { mode := .ready } } }, 3, by decide +kernel⟩,
   ⟨{ dev := { pwr := { mode := .scan }, lines := [{ k := 3, phase := 0, pos := 0, ts := 0 }], hdl := { packQ := [{ k := 3, v := [] }] } } }, 3, { k := 3, v := [] }, [], { k := 3, phase := 0, pos := 0, ts := 0 }, (packRecord { k := 3, v := [] } { k := 3, phase := 0, pos := 0, ts := 0 } { pwr := { mode := .scan } }).1, [], false, by decide +kernel⟩⟩

/-- Values that meet the hypotheses of BankSwapAndDefects. -/
theorem witness_bank_swap_and_defects :
  (∃ (s : State) (c : MnrCmd) (t : Taken), otherAction 1 c s.dev = false ∧ otherTaken 0x1505 (withAction 1 c) s.dev = false ∧ t.arg % 65536 = 0x1505 ∧ Starts Op.OBJ_WRITE (withObj 0x1505 (withAction 1 c)) s.dev t ∧ writeAccepted (withObj 0x1505 (withAction 1 c)) t (begun Op.OBJ_WRITE (withObj 0x1505 (withAction 1 c)) s.dev) = true ∧ swapAction (writtenWords (withObj 0x1505 (withAction 1 c)) t (begun Op.OBJ_WRITE (withObj 0x1505 (withAction 1 c)) s.dev)) = 1) ∧
  (∃ (s : State) (c : MnrCmd) (t : Taken), otherAction 2 c s.dev = false ∧ otherTaken 0x1505 (withAction 2 c) s.dev = false ∧ t.arg % 65536 = 0x1505 ∧ Starts Op.OBJ_WRITE (withObj 0x1505 (withAction 2 c)) s.dev t ∧ writeAccepted (withObj 0x1505 (withAction 2 c)) t (begun Op.OBJ_WRITE (withObj 0x1505 (withAction 2 c)) s.dev) = true ∧ swapAction (writtenWords (withObj 0x1505 (withAction 2 c)) t (begun Op.OBJ_WRITE (withObj 0x1505 (withAction 2 c)) s.dev)) = 2) ∧
  (∃ (s : State) (c : MnrCmd) (t : Taken), otherAction 3 c s.dev = false ∧ otherTaken 0x1505 (withAction 3 c) s.dev = false ∧ t.arg % 65536 = 0x1505 ∧ Starts Op.OBJ_WRITE (withObj 0x1505 (withAction 3 c)) s.dev t ∧ writeAccepted (withObj 0x1505 (withAction 3 c)) t (begun Op.OBJ_WRITE (withObj 0x1505 (withAction 3 c)) s.dev) = true ∧ swapAction (writtenWords (withObj 0x1505 (withAction 3 c)) t (begun Op.OBJ_WRITE (withObj 0x1505 (withAction 3 c)) s.dev)) = 3) ∧
  (∃ (s : State) (t : Nat), s.dev.on 10 = true ∧ s.dev.hdl.loadState = 1) ∧
  (∃ (s : State) (t : Nat), s.dev.on 10 = true ∧ s.dev.hdl.loadState ≠ 1) ∧
  (∃ (s : State) (c : MnrCmd) (t : Taken), otherTaken 0x1506 c s.dev = false ∧ t.arg % 65536 = 0x1506 ∧ Starts Op.OBJ_WRITE (withObj 0x1506 c) s.dev t ∧ writeAccepted (withObj 0x1506 c) t (begun Op.OBJ_WRITE (withObj 0x1506 c) s.dev) = true) ∧
  (∃ (d : Dev) (e : Nat), (liveSet d).hasDefect e = false ∧ (liveSet d).defects.length < 8192 ∧ d.hdl.bank.length = 2) ∧
  (∃ (s : State) (c : MnrCmd) (t : Taken), otherTaken 0x150A c s.dev = false ∧ t.arg = 0x150A ∧ s.dev.hdl.defLog.length < 13 ∧ Starts Op.OBJ_READ (withObj 0x150A c) s.dev t ∧ (begun Op.OBJ_READ (withObj 0x150A c) s.dev).runs 10 = true ∧ objInProgress 0x150A (begun Op.OBJ_READ (withObj 0x150A c) s.dev) = false ∧ (begun Op.OBJ_READ (withObj 0x150A c) s.dev).hdl.defLog.length < 13) :=
  ⟨⟨{ dev := { pwr := { mode := .ready }, mnr := { open_ := true } } }, { mbx := 0, tag := 0, len := 1, pay := [0] }, takenOf Op.OBJ_WRITE (withObj 0x1505 (withAction 1 { mbx := 0, tag := 0, len := 1, pay := [0] })) {}, by decide +kernel⟩,
   ⟨{ dev := { pwr := { mode := .ready }, mnr := { open_ := true }, objs := [(0x1000, [0x2108, 1000000, 0, 0, 0, 256, 100000000, 16]), (0x1010, [1, 0, 0, 0x01000002]), (0x1201, [1]), (0x1202, [1, 1, 0, 0, 1, 0, 128])], hdl := { bank := [{ map := [0x10001#32, 0x10001#32, 0x7F000#32, 0x10000#32, 0x10000#32, 1#32] }, { map := [0x10001#32, 0x10001#32, 0x7F000#32, 0x10000#32, 0x10000#32, 1#32] }] } } }, { mbx := 0, tag := 0, len := 1, pay := [0] }, takenOf Op.OBJ_WRITE (withObj 0x1505 (withAction 2 { mbx := 0, tag := 0, len := 1, pay := [0] })) {}, by decide +kernel⟩,
   ⟨{ dev := { pwr := { mode := .ready }, mnr := { open_ := true }, hdl := { loadState := 2 } } }, { mbx := 0, tag := 0, len := 1, pay := [0] }, takenOf Op.OBJ_WRITE (withObj 0x1505 (withAction 3 { mbx := 0, tag := 0, len := 1, pay := [0] })) {}, by decide +kernel⟩,
   ⟨{ dev := { pwr := { mode := .ready }, hdl := { loadState := 1, copyMbx := some (0, 0, 0) } } }, 3, by decide +kernel⟩,
   ⟨{ dev := { pwr := { mode := .ready } } }, 3, by decide +kernel⟩,
   ⟨{ dev := { pwr := { mode := .scan }, mnr := { open_ := true }, hdl := { bank := [{ map := [0x10001#32, 0x10001#32] }, {}] } } }, { mbx := 0, tag := 0, len := 1, pay := [0] }, takenOf Op.OBJ_WRITE (withObj 0x1506 { mbx := 0, tag := 0, len := 1, pay := [0] }) {}, by decide +kernel⟩,
   ⟨{}, 7, by decide +kernel⟩,
   ⟨{ dev := { pwr := { mode := .ready }, mnr := { open_ := true }, hdl := { defLog := [7] } } }, { mbx := 0, tag := 0 }, takenOf Op.OBJ_READ (withObj 0x150A { mbx := 0, tag := 0 }) {}, by decide +kernel⟩⟩

/-- Values that meet the hypotheses of StatisticsUpdates. -/
theorem witness_statistics_updates :
  (∃ (s : State) (tp : Fin 8) (t : Nat), s.dev.on 10 = true ∧ (cfgB Obj.STAT_CTL.SHADE_EN s.dev = false ∨ at' s.dev.stat.committed tp.val 0 < 2 ^ cfg Obj.STAT_CTL.UPD s.dev)) ∧
  (∃ (s : State) (tp : Fin 8) (t : Nat), s.dev.on 10 = true ∧ cfgB Obj.STAT_CTL.SHADE_EN s.dev = true ∧ 2 ^ cfg Obj.STAT_CTL.UPD s.dev ≤ at' s.dev.stat.committed tp.val 0 ∧ phaseLevel tp.val s.dev = none) ∧
  (∃ (s : State) (tp : Fin 8) (t : Nat) (lvl : Int), s.dev.on 10 = true ∧ cfgB Obj.STAT_CTL.SHADE_EN s.dev = true ∧ 2 ^ cfg Obj.STAT_CTL.UPD s.dev ≤ at' s.dev.stat.committed tp.val 0 ∧ phaseLevel tp.val s.dev = some lvl) ∧
  (∃ (s : State) (k : Fin 4) (t : Nat) (n : Nat) (now : List (Nat × Sparse Nat)), s.dev.on 10 = true ∧ n = cfg (Obj.STAT_HIST_CFG.LINES k.val) s.dev ∧ cfg (Obj.STAT_HIST_CFG.SRC k.val) s.dev ≠ 0 ∧ n ≤ (at' s.dev.stat.hist k.val {}).lines.length ∧ now = (at' s.dev.stat.hist k.val {}).lines.take n ∧ now.all (fun x => histDone (cfg (Obj.STAT_HIST_CFG.SRC k.val) s.dev) x.1 s.dev) = true) ∧
  (∃ (s : State) (k : Fin 4) (t : Nat), s.dev.on 10 = true ∧ (cfg (Obj.STAT_HIST_CFG.SRC k.val) s.dev = 0 ∨ (at' s.dev.stat.hist k.val {}).lines.length < cfg (Obj.STAT_HIST_CFG.LINES k.val) s.dev)) :=
  ⟨⟨{ dev := { pwr := { mode := .ready } } }, 0, 3, by decide +kernel⟩,
   ⟨{ dev := { pwr := { mode := .ready }, objs := [(0x1700, [1])], stat := { committed := 9 :: List.replicate 7 0 } } }, 0, 3, by decide +kernel⟩,
   ⟨{ dev := { pwr := { mode := .ready }, objs := [(0x1700, [1])], hdl := { bank := [{ map := [0x10002#32, 1#32] }, {}] }, stat := { committed := 9 :: List.replicate 7 0, m := [(0, 4096000), (1, 2048000)] :: List.replicate 7 [], n := [(0, 65535), (1, 65535)] :: List.replicate 7 [] } } }, 0, 3, ((phaseLevel 0 { pwr := { mode := .ready }, objs := [(0x1700, [1])], hdl := { bank := [{ map := [0x10002#32, 1#32] }, {}] }, stat := { committed := 9 :: List.replicate 7 0, m := [(0, 4096000), (1, 2048000)] :: List.replicate 7 [], n := [(0, 65535), (1, 65535)] :: List.replicate 7 [] } }).getD 0), by decide +kernel⟩,
   ⟨{ dev := { pwr := { mode := .ready }, objs := [(0x1703, [0x10001])], stat := { hist := [{ lines := [(5, [(3, 2)]), (6, [])] }, {}, {}, {}] } } }, 0, 3, 1, [(5, [(3, 2)])], by decide +kernel⟩,
   ⟨{ dev := { pwr := { mode := .ready } } }, 0, 3, by decide +kernel⟩⟩

/-- Values that meet the hypotheses of SkeinPushAndPop. -/
theorem witness_skein_push_and_pop :
  (∃ (s : State) (q : Fin 32) (ue : List Nat) (t : Nat), s.dev.on 11 = true ∧ cycleGoesOn q t s.pending = false ∧ qRole q.val s.dev ≠ 3 ∧ qRole q.val s.dev ≠ 4 ∧ (queueAt q.val s.dev).wait = []) ∧
  (∃ (s : State) (q : Fin 32) (ue : List Nat) (t : Nat) (w : QWord) (ws : List QWord), s.dev.on 11 = true ∧ cycleGoesOn q t s.pending = false ∧ qRole q.val s.dev ≠ 3 ∧ qRole q.val s.dev ≠ 4 ∧ (queueAt q.val s.dev).wait = w :: ws ∧ hasRoom q.val s.dev = true ∧ (queueAt q.val s.dev).waitPop = none) ∧
  (∃ (s : State) (q : Fin 32) (ue : List Nat) (t : Nat) (flip : Nat) (w : QWord) (ws : List QWord) (header : Bool) (wue : Bool), s.dev.on 11 = true ∧ cycleGoesOn q t s.pending = false ∧ qRole q.val s.dev ≠ 3 ∧ qRole q.val s.dev ≠ 4 ∧ (queueAt q.val s.dev).wait = w :: ws ∧ hasRoom q.val s.dev = true ∧ (queueAt q.val s.dev).waitPop = some (header, flip, wue)) ∧
  (∃ (s : State) (q : Fin 32) (ue : List Nat) (t : Nat) (w : QWord) (ws : List QWord), s.dev.on 11 = true ∧ cycleGoesOn q t s.pending = false ∧ qRole q.val s.dev ≠ 3 ∧ qRole q.val s.dev ≠ 4 ∧ (queueAt q.val s.dev).wait = w :: ws ∧ hasRoom q.val s.dev = false) ∧
  (∃ (s : State) (q : Fin 32) (t : Nat) (r : Record) (w : QWord) (ws : List QWord), s.dev.on 11 = true ∧ cycleGoesOn q t s.pending = false ∧ q.val < s.dev.skn.queue.length ∧ qRole q.val s.dev = 3 ∧ groupRunning q.val s.dev = true ∧ (queueAt q.val s.dev).wait = [] ∧ nextRecord q.val s.dev = some r ∧ packet r.words = w :: ws ∧ hasRoom q.val s.dev = true) ∧
  (∃ (s : State) (q : Fin 32) (ue : Bool) (t : Nat) (flip : Nat) (st : Nat), s.dev.on 11 = true ∧ cycleGoesOn q t s.pending = false ∧ qRole q.val s.dev ≠ 3 ∧ qRole q.val s.dev ≠ 4 ∧ writerStore q.val s.dev = some st ∧ midPacket q.val st s.dev = true ∧ (queueAt q.val s.dev).q = []) ∧
  (∃ (s : State) (q : Fin 32) (ue : Bool) (t : Nat) (flip : Nat), s.dev.on 11 = true ∧ cycleGoesOn q t s.pending = false ∧ qRole q.val s.dev ≠ 3 ∧ qRole q.val s.dev ≠ 4 ∧ ((writerStore q.val s.dev).all fun st => !midPacket q.val st s.dev) = true) ∧
  (∃ (s : State) (q : Fin 32) (ue : Bool) (t : Nat) (flip : Nat) (st : Nat) (w : QWord) (ws : List QWord) (r : Writing), s.dev.on 11 = true ∧ cycleGoesOn q t s.pending = false ∧ qRole q.val s.dev ≠ 3 ∧ qRole q.val s.dev ≠ 4 ∧ writerStore q.val s.dev = some st ∧ stitching q.val s.dev = false ∧ (storeAt st s.dev).writing = some r ∧ r.ended = false ∧ (queueAt q.val s.dev).q = w :: ws ∧ w.abort = false) ∧
  (∃ (s : State) (q : Fin 32) (ue : Bool) (t : Nat) (flip : Nat) (w : QWord) (ws : List QWord), s.dev.on 11 = true ∧ cycleGoesOn q t s.pending = false ∧ qRole q.val s.dev = 3 ∧ groupRunning q.val s.dev = true ∧ asmDone q.val s.dev = false ∧ (queueAt q.val s.dev).q = w :: ws ∧ (readWord w flip).2 = false) ∧
  (∃ (s : State) (c : MnrCmd) (t : Taken), otherTaken 0x1800 c s.dev = false ∧ t.arg % 65536 = 0x1800 ∧ Starts Op.OBJ_WRITE (withObj 0x1800 c) s.dev t ∧ writeAccepted (withObj 0x1800 c) t (begun Op.OBJ_WRITE (withObj 0x1800 c) s.dev) = true) :=
  ⟨⟨{ dev := { pwr := { mode := .ready } } }, 0, [], 5, by decide +kernel⟩,
   ⟨{ dev := { pwr := { mode := .ready }, objs := [(0x1800, [0x101])], skn := { queue := { wait := [{ d := [], par := 0, end_ := true }] } :: List.replicate 31 {} } } }, 0, [], 5, { d := [], par := 0, end_ := true }, [], by decide +kernel⟩,
   ⟨{ dev := { pwr := { mode := .ready }, objs := [(0x1800, [0x101])], skn := { queue := { wait := [{ d := [], par := 0, end_ := true }], waitPop := some (false, 0, true) } :: List.replicate 31 {} } } }, 0, [], 5, 0, { d := [], par := 0, end_ := true }, [], false, true, by decide +kernel⟩,
   ⟨{ dev := { pwr := { mode := .ready }, skn := { queue := { wait := [{ d := [], par := 0, end_ := true }] } :: List.replicate 31 {} } } }, 0, [], 5, { d := [], par := 0, end_ := true }, [], by decide +kernel⟩,
   ⟨{ dev := { pwr := { mode := .ready }, objs := [(0x1800, [0x103]), (0x1801, [0x1001])], skn := { store := { recs := [{ k := 4, start := 0, words := [[], []] }] } :: List.replicate 3 {} }, hs := { ring := { running := true, queue := 0 } :: List.replicate 31 {} } } }, 0, 5, { k := 4, start := 0, words := [[], []] }, { d := [], par := 0, end_ := false }, [{ d := [], par := 0, end_ := true }], by decide +kernel⟩,
   ⟨{ dev := { pwr := { mode := .ready }, objs := [(0x1800, [0x101]), (0x1801, [0x1001])], skn := { store := { writing := some { k := 4, words := [[], []], total := 3 } } :: List.replicate 3 {} } } }, 0, false, 5, 0, 0, by decide +kernel⟩,
   ⟨{ dev := { pwr := { mode := .ready } } }, 0, false, 5, 0, by decide +kernel⟩,
   ⟨{ dev := { pwr := { mode := .ready }, objs := [(0x1800, [0x101]), (0x1801, [0x1001])], skn := { queue := { q := [{ d := [7], par := 0, end_ := true }], pkt := 1 } :: List.replicate 31 {}, store := { writing := some { k := 4, words := [[], []], total := 3 } } :: List.replicate 3 {} } } }, 0, false, 5, 0, 0, { d := [7], par := 0, end_ := true }, [], { k := 4, words := [[], []], total := 3 }, by decide +kernel⟩,
   ⟨{ dev := { pwr := { mode := .ready }, objs := [(0x1800, [0x103]), (0x1801, [0x1001])], skn := { queue := { q := [{ d := [7], par := 1, end_ := true }], pkt := 1 } :: List.replicate 31 {} }, hs := { ring := { running := true, queue := 0 } :: List.replicate 31 {} } } }, 0, false, 5, 0, { d := [7], par := 1, end_ := true }, [], by decide +kernel⟩,
   ⟨{ dev := { pwr := { mode := .ready }, mnr := { open_ := true } } }, { mbx := 0, tag := 0, arg := 0x10000, len := 3, pay := [4096, 0, 384], buf := List.replicate 96 0 }, takenOf Op.OBJ_WRITE (withObj 0x1800 { mbx := 0, tag := 0, arg := 0x10000, len := 3, pay := [4096, 0, 384], buf := List.replicate 96 0 }) {}, by decide +kernel⟩⟩

/-- Values that meet the hypotheses of ReelRecords. -/
theorem witness_reel_records :
  (∃ (s : State) (q : Fin 32) (t : Nat) (flip : Nat), s.dev.on 11 = true ∧ cycleGoesOn q t s.pending = false ∧ writerStore q.val s.dev = none) ∧
  (∃ (s : State) (q : Fin 32) (t : Nat) (flip : Nat) (st : Nat), s.dev.on 11 = true ∧ cycleGoesOn q t s.pending = false ∧ writerStore q.val s.dev = some st ∧ stitching q.val s.dev = false ∧ (storeAt st s.dev).writing = none ∧ (queueAt q.val s.dev).q = []) ∧
  (∃ (s : State) (q : Fin 32) (t : Nat) (flip : Nat) (st : Nat) (w0 : QWord) (w1 : QWord) (ws : List QWord) (h : Hdr), s.dev.on 11 = true ∧ cycleGoesOn q t s.pending = false ∧ writerStore q.val s.dev = some st ∧ stitching q.val s.dev = false ∧ (storeAt st s.dev).writing = none ∧ (queueAt q.val s.dev).head = none ∧ (queueAt q.val s.dev).q = w0 :: w1 :: ws ∧ w1.abort = false ∧ (readWord w0 (flip % 2 ^ 256)).2 = false ∧ (readWord w1 (flip >>> 256)).2 = false ∧ h = hdrOf ((readWord w0 (flip % 2 ^ 256)).1 ++ (readWord w1 (flip >>> 256)).1)) ∧
  (∃ (s : State) (q : Fin 32) (t : Nat) (flip : Nat) (st : Nat) (w0 : QWord) (w1 : QWord) (ws : List QWord), s.dev.on 11 = true ∧ cycleGoesOn q t s.pending = false ∧ writerStore q.val s.dev = some st ∧ stitching q.val s.dev = false ∧ (storeAt st s.dev).writing = none ∧ (queueAt q.val s.dev).head = none ∧ (queueAt q.val s.dev).q = w0 :: w1 :: ws ∧ w1.abort = false ∧ ((readWord w0 (flip % 2 ^ 256)).2 = true ∨ (readWord w1 (flip >>> 256)).2 = true)) ∧
  (∃ (s : State) (st : Fin 4) (t : Nat) (w : Writing), s.dev.on 11 = true ∧ (storeAt st.val s.dev).writing = some w ∧ w.ended = true) ∧
  (∃ (s : State) (st : Fin 4) (t : Nat), s.dev.on 11 = true ∧ ((storeAt st.val s.dev).writing.all fun w => !w.ended) = true) ∧
  (∃ (s : State) (n : Nat) (t : Nat), s.dev.on 11 = true) ∧
  (∃ (s : State) (c : MnrCmd) (t : Taken), otherTaken 0x1801 c s.dev = false ∧ t.arg % 65536 = 0x1801 ∧ Starts Op.OBJ_WRITE (withObj 0x1801 c) s.dev t ∧ writeAccepted (withObj 0x1801 c) t (begun Op.OBJ_WRITE (withObj 0x1801 c) s.dev) = true) ∧
  (∃ (s : State) (c : MnrCmd) (t : Taken), Starts Op.STORE_DISCARD c s.dev t ∧ t.arg < 4 ∧ t.len = 0 ∧ storeEn t.arg (begun Op.STORE_DISCARD c s.dev) = true) :=
  ⟨⟨{ dev := { pwr := { mode := .ready } } }, 0, 5, 0, by decide +kernel⟩,
   ⟨{ dev := { pwr := { mode := .ready }, objs := [(0x1800, [0x101]), (0x1801, [0x1001])] } }, 0, 5, 0, 0, by decide +kernel⟩,
   ⟨{ dev := { pwr := { mode := .ready }, objs := [(0x1800, [0x101]), (0x1801, [0x1001])], skn := { queue := { q := [{ d := [4, 0, 0, 0, 0, 0, 32, 8], par := 193, end_ := false }, { d := [0, 0, 0, 0, 0, 0, 0, 0], par := 0, end_ := false }] } :: List.replicate 31 {} } } }, 0, 5, 0, 0, { d := [4, 0, 0, 0, 0, 0, 32, 8], par := 193, end_ := false }, { d := [0, 0, 0, 0, 0, 0, 0, 0], par := 0, end_ := false }, [], (hdrOf [4, 0, 0, 0, 0, 0, 32, 8, 0, 0, 0, 0, 0, 0, 0, 0]), by decide +kernel⟩,
   ⟨{ dev := { pwr := { mode := .ready }, objs := [(0x1800, [0x101]), (0x1801, [0x1001])], skn := { queue := { q := [{ d := [4], par := 0, end_ := false }, { d := [0], par := 0, end_ := false }] } :: List.replicate 31 {} } } }, 0, 5, 0, 0, { d := [4], par := 0, end_ := false }, { d := [0], par := 0, end_ := false }, [], by decide +kernel⟩,
   ⟨{ dev := { pwr := { mode := .ready }, objs := [(0x1801, [0x1001])], skn := { store := { writing := some { k := 4, words := [[1], [2]], total := 2, ended := true } } :: List.replicate 3 {} } } }, 0, 5, { k := 4, words := [[1], [2]], total := 2, ended := true }, by decide +kernel⟩,
   ⟨{ dev := { pwr := { mode := .ready } } }, 3, 5, by decide +kernel⟩,
   ⟨{ dev := { pwr := { mode := .ready } } }, 7, 5, by decide +kernel⟩,
   ⟨{ dev := { pwr := { mode := .ready }, mnr := { open_ := true } } }, { mbx := 0, tag := 0, len := 12, pay := [0x1000, 0, 0, 0x1000, 0, 0, 0x1000, 0, 0, 0x1000, 0, 0] }, takenOf Op.OBJ_WRITE (withObj 0x1801 { mbx := 0, tag := 0, len := 12, pay := [0x1000, 0, 0, 0x1000, 0, 0, 0x1000, 0, 0, 0x1000, 0, 0] }) {}, by decide +kernel⟩,
   ⟨{ dev := { pwr := { mode := .ready }, mnr := { open_ := true }, objs := [(0x1801, [0x1001])] } }, { mbx := 0, tag := 0 }, takenOf Op.STORE_DISCARD { mbx := 0, tag := 0 } {}, by decide +kernel⟩⟩

/-- Values that meet the hypotheses of PacingCommands. -/
theorem witness_pacing_commands :
  (∃ (s : State) (t : Nat) (vd : Nat) (v : Nat) (e : Dev), s.dev.on 0 = true ∧ s.dev.krm.member = false ∧ s.dev.krm.paceVd = [] ∧ s.dev.pwr.mode = .scan ∧ s.dev.pwr.trans = .none ∧ (s.dev.pace.state = .running ∨ s.dev.pace.state = .slowing) ∧ externalMotion s.dev = false ∧ demand (s.dev.at_ t) = (vd, e) ∧ vHold5 s.dev < vd ∧ v = (if vd < s.dev.pace.vc then max vd (s.dev.pace.vc - cfg Obj.PACE_CTL.A_PACE s.dev) else min vd (s.dev.pace.vc + cfg Obj.PACE_CTL.A_PACE s.dev))) ∧
  (∃ (s : State) (t : Nat), s.dev.on 0 = true ∧ s.dev.krm.member = false ∧ s.dev.krm.paceVd = [] ∧ s.dev.inMode [.scan, .hold] = true ∧ s.dev.pace.state = .braking ∧ s.dev.pace.xoffStop = false) ∧
  (∃ (s : State) (t : Nat), s.dev.on 0 = true ∧ s.dev.krm.member = false ∧ s.dev.krm.paceVd = [] ∧ s.dev.inMode [.scan, .hold] = true ∧ (s.dev.pace.state = .runUp ∨ s.dev.pace.state = .priming)) ∧
  (∃ (s : State) (t : Nat), s.dev.on 0 = true ∧ s.dev.krm.member = false ∧ s.dev.krm.paceVd = [] ∧ (s.dev.pace.state = .idle ∨ s.dev.pace.state = .parked ∨ s.dev.pace.state = .rewinding)) ∧
  (∃ (s : State) (p : Fin 4) (t : Nat), s.dev.on 0 = true) ∧
  (∃ (s : State) (t : Nat) (n : Nat), s.dev.on 0 = true ∧ paceAxis s.dev = some n ∧ s.dev.pwr.mode = .hold ∧ s.dev.pwr.trans = .none ∧ s.dev.pace.state = .braking ∧ (axisAt n s.dev).atRest = true) ∧
  (∃ (s : State) (t : Nat), s.dev.on 0 = true ∧ (paceAxis s.dev = none ∨ s.dev.pwr.mode ≠ .hold ∨ s.dev.pwr.trans ≠ .none ∨ s.dev.pace.state ≠ .braking ∨ ((paceAxis s.dev).any fun n => (axisAt n s.dev).atRest) = false)) ∧
  (∃ (s : State) (t : Nat) (n : Nat), s.dev.on 0 = true ∧ paceAxis s.dev = some n ∧ s.dev.pace.state = .rewinding ∧ (axisAt n s.dev).atRest = true ∧ ((axisAt n s.dev).paceMove.all fun m => (axisAt n s.dev).p == m.target) = true) ∧
  (∃ (s : State) (t : Nat), s.dev.on 0 = true ∧ (paceAxis s.dev = none ∨ s.dev.pace.state ≠ .rewinding ∨ ((paceAxis s.dev).any fun n => (axisAt n s.dev).atRest) = false)) ∧
  (∃ (s : State) (t : Nat), s.dev.on 0 = true ∧ s.dev.pwr.mode = .hold ∧ s.dev.pwr.trans = .none ∧ mayResume s.dev = true ∧ externalMotion s.dev = true) ∧
  (∃ (s : State) (t : Nat) (n : Nat) (vr : Nat) (vf : Int) (e : Dev), s.dev.on 0 = true ∧ s.dev.pwr.mode = .hold ∧ s.dev.pwr.trans = .none ∧ mayResume s.dev = true ∧ externalMotion s.dev = false ∧ paceAxis s.dev = some n ∧ s.dev.pace.state = .parked ∧ fillTaper (s.dev.at_ t) = (vf, e) ∧ vr = (clampI 0 (min (vSet5 s.dev) (brakeCurve s.dev)) vf).toNat ∧ 0 < vr ∧ vr = s.dev.pace.vr) ∧
  (∃ (s : State) (t : Nat) (n : Nat) (vr : Nat) (vf : Int) (e : Dev), s.dev.on 0 = true ∧ s.dev.pwr.mode = .hold ∧ s.dev.pwr.trans = .none ∧ mayResume s.dev = true ∧ externalMotion s.dev = false ∧ paceAxis s.dev = some n ∧ s.dev.pace.state = .parked ∧ fillTaper (s.dev.at_ t) = (vf, e) ∧ vr = (clampI 0 (min (vSet5 s.dev) (brakeCurve s.dev)) vf).toNat ∧ 0 < vr ∧ vr ≠ s.dev.pace.vr) ∧
  (∃ (s : State) (t : Nat), s.dev.on 0 = true ∧ (s.dev.pwr.mode ≠ .hold ∨ s.dev.pwr.trans ≠ .none ∨ mayResume s.dev = false)) :=
  ⟨⟨{ dev := { pwr := { mode := .scan }, objs := [(0x1900, [0xC000, 1000000, 1000, 2000, 65536])], pace := { state := .running, vc := 90000000000 } } }, 5, 100000000000, 90000001000, ({ pwr := { mode := .scan }, now := 5, objs := [(0x1900, [0xC000, 1000000, 1000, 2000, 65536])], pace := { state := .running, vc := 90000000000 } } : Dev), by decide +kernel⟩,
   ⟨{ dev := { pwr := { mode := .hold }, pace := { state := .braking, vc := 5000 } } }, 5, by decide +kernel⟩,
   ⟨{ dev := { pwr := { mode := .hold }, pace := { state := .runUp, vr := 5000 } } }, 5, by decide +kernel⟩,
   ⟨{ dev := { pwr := { mode := .ready } } }, 5, by decide +kernel⟩,
   ⟨{ dev := { pwr := { mode := .scan }, pace := { pins := [{ driven := true, asserted := true, until_ := some 9 }, {}, {}, {}] } } }, 0, 5, by decide +kernel⟩,
   ⟨{ dev := { pwr := { mode := .hold }, objs := [(0x1900, [0xC000, 1000000, 1000, 2000, 65536])], pace := { state := .braking } } }, 5, 0, by decide +kernel⟩,
   ⟨{ dev := { pwr := { mode := .ready } } }, 5, by decide +kernel⟩,
   ⟨{ dev := { pwr := { mode := .hold }, objs := [(0x1900, [0xC000, 1000000, 1000, 2000, 65536])], pace := { state := .rewinding, parkShort := true, kr := 40, dPark := -70 } } }, 5, 0, by decide +kernel⟩,
   ⟨{ dev := { pwr := { mode := .ready } } }, 5, by decide +kernel⟩,
   ⟨{ dev := { pwr := { mode := .hold }, pace := { cause := 2 } } }, 5, by decide +kernel⟩,
   ⟨{ dev := { pwr := { mode := .hold }, objs := [(0x1900, [0xC000, 1000000, 1000, 2000, 65536])], pace := { state := .parked, cause := 2, vr := 100000000000 } } }, 5, 0, 100000000000, 100000000000, ({ pwr := { mode := .hold }, now := 5, objs := [(0x1900, [0xC000, 1000000, 1000, 2000, 65536])], pace := { state := .parked, cause := 2, vr := 100000000000 } } : Dev), by decide +kernel⟩,
   ⟨{ dev := { pwr := { mode := .hold }, objs := [(0x1900, [0xC000, 1000000, 1000, 2000, 65536])], pace := { state := .parked, cause := 2 } } }, 5, 0, 100000000000, 100000000000, ({ pwr := { mode := .hold }, now := 5, objs := [(0x1900, [0xC000, 1000000, 1000, 2000, 65536])], pace := { state := .parked, cause := 2 } } : Dev), by decide +kernel⟩,
   ⟨{ dev := { pwr := { mode := .ready } } }, 5, by decide +kernel⟩⟩

/-- Values that meet the hypotheses of StreamRings. -/
theorem witness_stream_rings :
  (∃ (s : State) (n : Fin 64) (t : Nat) (y : Ring) (e : Dev) (v : Word), y = ringAt n.val s.dev ∧ e = s.dev.at_ t ∧ s.dev.on 6 = true ∧ dmaOpen s.dev = true ∧ n.val < s.dev.hs.ring.length ∧ y.en = false) ∧
  (∃ (s : State) (n : Fin 64) (t : Nat) (y : Ring) (e : Dev) (v : Word), y = ringAt n.val s.dev ∧ e = s.dev.at_ t ∧ s.dev.on 6 = true ∧ dmaOpen s.dev = true ∧ n.val < s.dev.hs.ring.length ∧ y.en = true ∧ y.running = true ∧ bit v.toNat 31 = false) ∧
  (∃ (d : Dev) (q : Nat) (s : Nat), groupRunning q d = false ∧ ringsOf q d ≠ [] ∧ d.mnr.open_ = true ∧ ((ringsOf q d).any fun n => ringBad n d) = false ∧ (groupAt q d).stopped = false ∧ queueStore q d = some s ∧ d.hs.ring.length = 64 ∧ q < d.hs.group.length) ∧
  (∃ (s : State) (n : Fin 64) (t : Nat) (y : Ring) (e : Dev) (v : Word), y = ringAt n.val s.dev ∧ e = s.dev.at_ t ∧ s.dev.on 6 = true ∧ dmaOpen s.dev = false) ∧
  (∃ (s : State) (n : Fin 64) (t : Nat) (y : Ring) (e : Dev) (v : Word), y = ringAt n.val s.dev ∧ e = s.dev.at_ t ∧ s.dev.on 6 = true ∧ dmaOpen s.dev = true) ∧
  (∃ (s : State) (n : Fin 64) (t : Nat) (y : Ring) (e : Dev) (ws : List Word), y = ringAt n.val s.dev ∧ e = s.dev.at_ t ∧ s.dev.on 6 = true ∧ (y.running = false ∨ dmaOpen s.dev = false ∨ y.posted ≤ y.fetched.length + b2n y.fill.isSome)) ∧
  (∃ (s : State) (n : Fin 64) (t : Nat) (y : Ring) (e : Dev) (ws : List Word), y = ringAt n.val s.dev ∧ e = s.dev.at_ t ∧ s.dev.on 6 = true ∧ y.running = true ∧ dmaOpen s.dev = true ∧ 0 < y.posted ∧ y.fetched = [] ∧ y.fill = none ∧ y.entries = [] ∧ n.val < s.dev.hs.ring.length ∧ (descOf ws).bad = false ∧ (descOf ws).len ≠ 0) ∧
  (∃ (s : State) (n : Fin 64) (t : Nat) (y : Ring) (e : Dev) (ws : List Word), y = ringAt n.val s.dev ∧ e = s.dev.at_ t ∧ s.dev.on 6 = true ∧ y.running = true ∧ dmaOpen s.dev = true ∧ 0 < y.posted ∧ y.fetched = [] ∧ y.fill = none ∧ y.entries = [] ∧ n.val < s.dev.hs.ring.length ∧ (descOf ws).bad = true) ∧
  (∃ (s : State) (n : Fin 64) (t : Nat) (y : Ring) (e : Dev) (ws : List Word) (x : Filling), y = ringAt n.val s.dev ∧ e = s.dev.at_ t ∧ s.dev.on 6 = true ∧ y.running = true ∧ dmaOpen s.dev = true ∧ y.fetched.length < 16 ∧ y.fill = some x ∧ y.fetched.length + 1 < y.posted ∧ n.val < s.dev.hs.ring.length) ∧
  (∃ (s : State) (q : Fin 32) (t : Nat) (ue : List Nat), s.dev.on 6 = true ∧ (queueStore q.val s.dev = none ∨ groupRunning q.val s.dev = false ∨ dmaOpen s.dev = false ∨ ((queueAt q.val s.dev).dir = [] ∧ s.dev.hs.ring.all (fun r => r.resend.isNone) = true))) ∧
  (∃ (s : State) (q : Fin 32) (t : Nat) (ue : List Nat) (st : Nat) (n : Nat) (e : DirEntry) (words : List (List Word)) (d' : Dev), s.dev.on 6 = true ∧ queueStore q.val s.dev = some st ∧ groupRunning q.val s.dev = true ∧ dmaOpen s.dev = true ∧ s.dev.hs.ring.all (fun r => r.resend.isNone) = true ∧ headRecord q.val (s.dev.at_ t) = some (e, words, d') ∧ memberOf e.k q.val d' = some n ∧ (ringAt n d').entries = [] ∧ ((ringAt n d').fill.any fun x => decide (x.bytes + 4 * (sentWords words (((groupAt q.val d').resentTo).any fun v => decide (e.k ≤ v)) e.ue).length ≤ x.desc.len)) = true) ∧
  (∃ (d : Dev) (n : Nat) (st : Nat) (k : Nat) (words : List (List Word)) (r : Bool) (x : Filling), (ringAt n d).entries = [] ∧ (ringAt n d).fill = some x ∧ x.bytes + 4 * (sentWords words r []).length ≤ x.desc.len ∧ x.desc.maxLines = 0 ∧ x.desc.eof = false ∧ n < d.hs.ring.length) ∧
  (∃ (s : State) (q : Fin 32) (t : Nat) (ue : List Nat) (st : Nat) (n : Nat) (r : Resend), s.dev.on 6 = true ∧ queueStore q.val s.dev = some st ∧ groupRunning q.val s.dev = true ∧ dmaOpen s.dev = true ∧ (groupAt q.val s.dev).members.head? = some n ∧ (ringAt n s.dev).resend = some r ∧ r.sent = false) :=
  ⟨⟨{ dev := { pwr := { mode := .ready }, mnr := { open_ := true }, objs := [(0x1800, [0x103]), (0x1801, [0x1001])], hs := { link := .l0 } } }, 3, 5, ringAt ((3) : Fin 64).val (({ dev := { pwr := { mode := .ready }, mnr := { open_ := true }, objs := [(0x1800, [0x103]), (0x1801, [0x1001])], hs := { link := .l0 } } }) : State).dev, (({ dev := { pwr := { mode := .ready }, mnr := { open_ := true }, objs := [(0x1800, [0x103]), (0x1801, [0x1001])], hs := { link := .l0 } } }) : State).dev.at_ ((5) : Nat), 0x80000004#32, rfl, rfl, by decide +kernel⟩,
   ⟨{ dev := { pwr := { mode := .ready }, hs := { link := .l0, ring := { en := true, running := true } :: List.replicate 63 {}, group := { members := [0] } :: List.replicate 31 {} } } }, 0, 5, ringAt ((0) : Fin 64).val (({ dev := { pwr := { mode := .ready }, hs := { link := .l0, ring := { en := true, running := true } :: List.replicate 63 {}, group := { members := [0] } :: List.replicate 31 {} } } }) : State).dev, (({ dev := { pwr := { mode := .ready }, hs := { link := .l0, ring := { en := true, running := true } :: List.replicate 63 {}, group := { members := [0] } :: List.replicate 31 {} } } }) : State).dev.at_ ((5) : Nat), 0#32, rfl, rfl, by decide +kernel⟩,
   ⟨{ mnr := { open_ := true }, objs := [(0x1800, [0x103]), (0x1801, [0x1001])], hs := { ring := { en := true, sizeLog2 := 4 } :: List.replicate 63 {} } }, 0, 0, by decide +kernel⟩,
   ⟨{ dev := { pwr := { mode := .ready } } }, 3, 5, ringAt ((3) : Fin 64).val (({ dev := { pwr := { mode := .ready } } }) : State).dev, (({ dev := { pwr := { mode := .ready } } }) : State).dev.at_ ((5) : Nat), 4#32, rfl, rfl, by decide +kernel⟩,
   ⟨{ dev := { pwr := { mode := .ready }, hs := { link := .l0, ring := { sizeLog2 := 4, stall := true } :: List.replicate 63 {} } } }, 0, 5, ringAt ((0) : Fin 64).val (({ dev := { pwr := { mode := .ready }, hs := { link := .l0, ring := { sizeLog2 := 4, stall := true } :: List.replicate 63 {} } } }) : State).dev, (({ dev := { pwr := { mode := .ready }, hs := { link := .l0, ring := { sizeLog2 := 4, stall := true } :: List.replicate 63 {} } } }) : State).dev.at_ ((5) : Nat), 3#32, rfl, rfl, by decide +kernel⟩,
   ⟨{ dev := { pwr := { mode := .ready } } }, 3, 5, ringAt ((3) : Fin 64).val (({ dev := { pwr := { mode := .ready } } }) : State).dev, (({ dev := { pwr := { mode := .ready } } }) : State).dev.at_ ((5) : Nat), [], rfl, rfl, by decide +kernel⟩,
   ⟨{ dev := { pwr := { mode := .ready }, hs := { link := .l0, ring := { sizeLog2 := 4, prod := 3, running := true } :: List.replicate 63 {} } } }, 0, 5, ringAt ((0) : Fin 64).val (({ dev := { pwr := { mode := .ready }, hs := { link := .l0, ring := { sizeLog2 := 4, prod := 3, running := true } :: List.replicate 63 {} } } }) : State).dev, (({ dev := { pwr := { mode := .ready }, hs := { link := .l0, ring := { sizeLog2 := 4, prod := 3, running := true } :: List.replicate 63 {} } } }) : State).dev.at_ ((5) : Nat), [4096, 0, 4096, 0, 7, 0, 0, 0], rfl, rfl, by decide +kernel⟩,
   ⟨{ dev := { pwr := { mode := .ready }, hs := { link := .l0, ring := { sizeLog2 := 4, prod := 3, running := true } :: List.replicate 63 {} } } }, 0, 5, ringAt ((0) : Fin 64).val (({ dev := { pwr := { mode := .ready }, hs := { link := .l0, ring := { sizeLog2 := 4, prod := 3, running := true } :: List.replicate 63 {} } } }) : State).dev, (({ dev := { pwr := { mode := .ready }, hs := { link := .l0, ring := { sizeLog2 := 4, prod := 3, running := true } :: List.replicate 63 {} } } }) : State).dev.at_ ((5) : Nat), [4097, 0, 4096, 0, 7, 0, 0, 0], rfl, rfl, by decide +kernel⟩,
   ⟨{ dev := { pwr := { mode := .ready }, hs := { link := .l0, ring := { sizeLog2 := 4, prod := 3, running := true, fill := some { desc := descOf [4096, 0, 4096, 0, 7, 0, 0, 0], idx := 0 } } :: List.replicate 63 {} } } }, 0, 5, ringAt ((0) : Fin 64).val (({ dev := { pwr := { mode := .ready }, hs := { link := .l0, ring := { sizeLog2 := 4, prod := 3, running := true, fill := some { desc := descOf [4096, 0, 4096, 0, 7, 0, 0, 0], idx := 0 } } :: List.replicate 63 {} } } }) : State).dev, (({ dev := { pwr := { mode := .ready }, hs := { link := .l0, ring := { sizeLog2 := 4, prod := 3, running := true, fill := some { desc := descOf [4096, 0, 4096, 0, 7, 0, 0, 0], idx := 0 } } :: List.replicate 63 {} } } }) : State).dev.at_ ((5) : Nat), [4096, 0, 4096, 0, 7, 0, 0, 0], { desc := descOf [4096, 0, 4096, 0, 7, 0, 0, 0], idx := 0 }, rfl, rfl, by decide +kernel⟩,
   ⟨{ dev := { pwr := { mode := .ready } } }, 3, 5, [], by decide +kernel⟩,
   ⟨{ dev := { pwr := { mode := .ready }, mnr := { open_ := true }, objs := [(0x1800, [0x103]), (0x1801, [0x1001])], skn := { queue := { q := [{ d := [], par := 0, end_ := true }], dir := [{ k := 4, len := 1, ue := [] }] } :: List.replicate 31 {} }, hs := { link := .l0, ring := { running := true, fill := some { desc := descOf [4096, 0, 4096, 0, 7, 0, 0, 0], idx := 0 } } :: List.replicate 63 {}, group := { members := [0] } :: List.replicate 31 {} } } }, 0, 5, [], 0, 0, { k := 4, len := 1, ue := [] }, [[]], ((headRecord 0 ({ now := 5, pwr := { mode := .ready }, mnr := { open_ := true }, objs := [(0x1800, [0x103]), (0x1801, [0x1001])], skn := { queue := { q := [{ d := [], par := 0, end_ := true }], dir := [{ k := 4, len := 1, ue := [] }] } :: List.replicate 31 {} }, hs := { link := .l0, ring := { running := true, fill := some { desc := descOf [4096, 0, 4096, 0, 7, 0, 0, 0], idx := 0 } } :: List.replicate 63 {}, group := { members := [0] } :: List.replicate 31 {} } } : Dev)).map fun x => x.2.2).getD {}, by decide +kernel⟩,
   ⟨{ hs := { ring := { fill := some { desc := descOf [4096, 0, 4096, 0, 7, 0, 0, 0], idx := 0 } } :: List.replicate 63 {} } }, 0, 0, 4, [], false, { desc := descOf [4096, 0, 4096, 0, 7, 0, 0, 0], idx := 0 }, by decide +kernel⟩,
   ⟨{ dev := { pwr := { mode := .ready }, objs := [(0x1800, [0x103]), (0x1801, [0x1001])], hs := { link := .l0, ring := { running := true, resend := some { first := 4, count := 2, next := 4 } } :: List.replicate 63 {}, group := { members := [0] } :: List.replicate 31 {} } } }, 0, 5, [], 0, 0, { first := 4, count := 2, next := 4 }, by decide +kernel⟩⟩

/-- Values that meet the hypotheses of StreamQueuesAndPower. -/
theorem witness_stream_queues_and_power :
  (∃ (s : State) (q : Fin 8) (t : Nat) (f : Dev) (v : Word), f = s.dev.at_ t ∧ s.dev.on 6 = true ∧ dmaOpen s.dev = true) ∧
  (∃ (s : State) (q : Fin 8) (t : Nat) (f : Dev) (v : Word), f = s.dev.at_ t ∧ s.dev.on 6 = true ∧ dmaOpen s.dev = false) ∧
  (∃ (d : Dev) (n : Nat) (e : CqEntry) (x : Cq), (ringAt n d).entries = [] ∧ n < d.hs.ring.length ∧ x = cqAt (ringAt n d).cq d ∧ x.en = true ∧ cqBad x = false ∧ dmaOpen d = true ∧ cqRoom x = true ∧ x.pending + 1 < x.modCount ∧ e.ends = false ∧ (ringAt n d).cq < d.hs.cq.length) ∧
  (∃ (s : State) (q : Fin 8) (t : Nat) (f : Dev), f = s.dev.at_ t ∧ s.dev.on 6 = true ∧ (cqAt q.val s.dev).timer = false) ∧
  (∃ (s : State) (q : Fin 8) (t : Nat) (f : Dev), f = s.dev.at_ t ∧ s.dev.on 6 = true ∧ (cqAt q.val s.dev).timer = true ∧ (cqAt q.val s.dev).pending = 0) ∧
  (∃ (s : State) (q : Fin 8) (t : Nat) (f : Dev) (e : MsixEntry), f = s.dev.at_ t ∧ s.dev.on 6 = true ∧ (cqAt q.val s.dev).timer = true ∧ 0 < (cqAt q.val s.dev).pending ∧ s.dev.hs.func = .d0 ∧ s.dev.hs.link = .l0 ∧ s.dev.hs.cfg.msixEn = true ∧ e = at' s.dev.hs.msix (cqAt q.val s.dev).vector {}) ∧
  (∃ (s : State) (t : Nat) (st : FuncPower) (f : FuncCfg), powered s.dev = true) ∧
  (∃ (s : State) (t : Nat) (ue : Bool), s.dev.on 6 = true) ∧
  (∃ (s : State) (n : Fin 64) (t : Nat) (y : Ring) (f : Dev) (v : Word), y = ringAt n.val s.dev ∧ f = s.dev.at_ t ∧ s.dev.on 6 = true ∧ dmaOpen s.dev = true ∧ n.val < s.dev.hs.ring.length ∧ (y.dlv.all fun a => y.conf.any fun o => decide (min (y.confLo + 4294967296 * (v.toNat % 65536)) a ≤ o)) = true) ∧
  (∃ (s : State) (n : Fin 64) (t : Nat) (y : Ring) (f : Dev) (v : Word) (dlv : Nat) (c : Nat) (st : Nat) (u : Nat) (us : List Nat) (e : Dev), y = ringAt n.val s.dev ∧ f = s.dev.at_ t ∧ s.dev.on 6 = true ∧ dmaOpen s.dev = true ∧ n.val < s.dev.hs.ring.length ∧ y.dlv = some dlv ∧ c = min (y.confLo + 4294967296 * (v.toNat % 65536)) dlv ∧ (y.conf.all fun o => decide (o < c)) = true ∧ queueStore y.queue s.dev = some st ∧ (groupAt y.queue s.dev).members.contains n.val = true ∧ e = updRing n.val (fun r => { r with conf := some c }) (updRing n.val (fun r => { r with confHi := v.toNat % 65536 }) f) ∧ us = (List.range (groupAt y.queue s.dev).members.length).map (fun m => unconfirmedOf y.queue st m e) ∧ u = us.foldl min (us.headD 0)) ∧
  (∃ (s : State) (n : Fin 64) (t : Nat) (y : Ring) (f : Dev) (v : Word), y = ringAt n.val s.dev ∧ f = s.dev.at_ t ∧ s.dev.on 6 = true ∧ dmaOpen s.dev = true) ∧
  (∃ (s : State) (n : Fin 64) (t : Nat) (y : Ring) (f : Dev) (x : Filling), y = ringAt n.val s.dev ∧ f = s.dev.at_ t ∧ s.dev.on 6 = true ∧ y.running = true ∧ y.idleFlush ≠ 0 ∧ y.fill = some x ∧ 0 < x.lines) ∧
  (∃ (s : State) (n : Fin 64) (t : Nat) (y : Ring) (f : Dev), y = ringAt n.val s.dev ∧ f = s.dev.at_ t ∧ s.dev.on 6 = true ∧ (y.running = false ∨ y.idleFlush = 0 ∨ (y.fill.all fun x => x.lines == 0) = true)) :=
  ⟨⟨{ dev := { pwr := { mode := .ready }, hs := { link := .l0 } } }, 0, 5, (({ dev := { pwr := { mode := .ready }, hs := { link := .l0 } } }) : State).dev.at_ ((5) : Nat), 0x80000004#32, rfl, by decide +kernel⟩,
   ⟨{ dev := { pwr := { mode := .ready } } }, 0, 5, (({ dev := { pwr := { mode := .ready } } }) : State).dev.at_ ((5) : Nat), 0x80000004#32, rfl, by decide +kernel⟩,
   ⟨{ hs := { link := .l0, cq := { en := true, sizeLog2 := 4, modCount := 3, tail := 17, head := 3 } :: List.replicate 7 {} } }, 5, { kind := 2, ring := 5, status := 0 }, { en := true, sizeLog2 := 4, modCount := 3, tail := 17, head := 3 }, by decide +kernel⟩,
   ⟨{ dev := { pwr := { mode := .ready } } }, 0, 5, (({ dev := { pwr := { mode := .ready } } }) : State).dev.at_ ((5) : Nat), rfl, by decide +kernel⟩,
   ⟨{ dev := { pwr := { mode := .ready }, hs := { cq := { timer := true } :: List.replicate 7 {} } } }, 0, 5, (({ dev := { pwr := { mode := .ready }, hs := { cq := { timer := true } :: List.replicate 7 {} } } }) : State).dev.at_ ((5) : Nat), rfl, by decide +kernel⟩,
   ⟨{ dev := { pwr := { mode := .ready }, hs := { link := .l0, cfg := { msixEn := true }, cq := { timer := true, pending := 2 } :: List.replicate 7 {}, msix := { addr := 4096, data := 7, mask := false } :: List.replicate 63 {} } } }, 0, 5, (({ dev := { pwr := { mode := .ready }, hs := { link := .l0, cfg := { msixEn := true }, cq := { timer := true, pending := 2 } :: List.replicate 7 {}, msix := { addr := 4096, data := 7, mask := false } :: List.replicate 63 {} } } }) : State).dev.at_ ((5) : Nat), { addr := 4096, data := 7, mask := false }, rfl, by decide +kernel⟩,
   ⟨{ dev := { pwr := { mode := .ready } } }, 5, .d3hot, { msixEn := true }, by decide +kernel⟩,
   ⟨{ dev := { pwr := { mode := .ready } } }, 5, true, by decide +kernel⟩,
   ⟨{ dev := { pwr := { mode := .ready }, hs := { link := .l0, ring := { dlv := some 7, conf := some 9 } :: List.replicate 63 {} } } }, 0, 5, ringAt ((0) : Fin 64).val (({ dev := { pwr := { mode := .ready }, hs := { link := .l0, ring := { dlv := some 7, conf := some 9 } :: List.replicate 63 {} } } }) : State).dev, (({ dev := { pwr := { mode := .ready }, hs := { link := .l0, ring := { dlv := some 7, conf := some 9 } :: List.replicate 63 {} } } }) : State).dev.at_ ((5) : Nat), 1#32, rfl, rfl, by decide +kernel⟩,
   ⟨{ dev := { pwr := { mode := .ready }, objs := [(0x1800, [0x103]), (0x1801, [0x1001])], skn := { store := { recNone := false, lastIndex := 9, recs := [{ k := 4, start := 0, words := [] }, { k := 7, start := 0, words := [] }] } :: List.replicate 3 {} }, hs := { link := .l0, ring := { running := true, dlv := some 7, confLo := 5 } :: List.replicate 63 {}, group := { members := [0] } :: List.replicate 31 {} } } }, 0, 5, ringAt ((0) : Fin 64).val (({ dev := { pwr := { mode := .ready }, objs := [(0x1800, [0x103]), (0x1801, [0x1001])], skn := { store := { recNone := false, lastIndex := 9, recs := [{ k := 4, start := 0, words := [] }, { k := 7, start := 0, words := [] }] } :: List.replicate 3 {} }, hs := { link := .l0, ring := { running := true, dlv := some 7, confLo := 5 } :: List.replicate 63 {}, group := { members := [0] } :: List.replicate 31 {} } } }) : State).dev, (({ dev := { pwr := { mode := .ready }, objs := [(0x1800, [0x103]), (0x1801, [0x1001])], skn := { store := { recNone := false, lastIndex := 9, recs := [{ k := 4, start := 0, words := [] }, { k := 7, start := 0, words := [] }] } :: List.replicate 3 {} }, hs := { link := .l0, ring := { running := true, dlv := some 7, confLo := 5 } :: List.replicate 63 {}, group := { members := [0] } :: List.replicate 31 {} } } }) : State).dev.at_ ((5) : Nat), 0#32, 7, 5, 0, 7, [7], ({ now := 5, pwr := { mode := .ready }, objs := [(0x1800, [0x103]), (0x1801, [0x1001])], skn := { store := { recNone := false, lastIndex := 9, recs := [{ k := 4, start := 0, words := [] }, { k := 7, start := 0, words := [] }] } :: List.replicate 3 {} }, hs := { link := .l0, ring := { running := true, dlv := some 7, confLo := 5, conf := some 5 } :: List.replicate 63 {}, group := { members := [0] } :: List.replicate 31 {} } } : Dev), rfl, rfl, by decide +kernel⟩,
   ⟨{ dev := { pwr := { mode := .ready }, hs := { link := .l0 } } }, 0, 5, ringAt ((0) : Fin 64).val (({ dev := { pwr := { mode := .ready }, hs := { link := .l0 } } }) : State).dev, (({ dev := { pwr := { mode := .ready }, hs := { link := .l0 } } }) : State).dev.at_ ((5) : Nat), 3#32, rfl, rfl, by decide +kernel⟩,
   ⟨{ dev := { pwr := { mode := .ready }, hs := { ring := { running := true, fill := some { desc := descOf [4096, 0, 4096, 0, 7, 0, 0, 0], idx := 0, lines := 2 } } :: List.replicate 63 {} } } }, 0, 5, ringAt ((0) : Fin 64).val (({ dev := { pwr := { mode := .ready }, hs := { ring := { running := true, fill := some { desc := descOf [4096, 0, 4096, 0, 7, 0, 0, 0], idx := 0, lines := 2 } } :: List.replicate 63 {} } } }) : State).dev, (({ dev := { pwr := { mode := .ready }, hs := { ring := { running := true, fill := some { desc := descOf [4096, 0, 4096, 0, 7, 0, 0, 0], idx := 0, lines := 2 } } :: List.replicate 63 {} } } }) : State).dev.at_ ((5) : Nat), { desc := descOf [4096, 0, 4096, 0, 7, 0, 0, 0], idx := 0, lines := 2 }, rfl, rfl, by decide +kernel⟩,
   ⟨{ dev := { pwr := { mode := .ready } } }, 3, 5, ringAt ((3) : Fin 64).val (({ dev := { pwr := { mode := .ready } } }) : State).dev, (({ dev := { pwr := { mode := .ready } } }) : State).dev.at_ ((5) : Nat), rfl, rfl, by decide +kernel⟩⟩

/-- Values that meet the hypotheses of MotionCommands. -/
theorem witness_motion_commands :
  (∃ (s : State) (c : MnrCmd) (t : Taken) (e : Dev) (g : Int), e = begun Op.MOVE_APPEND c s.dev ∧ Starts Op.MOVE_APPEND c s.dev t ∧ t.arg < 4 ∧ g = (if bit (t.w 2) 0 then movePos t else appendBase t.arg e + movePos t) ∧ firstFail (moveChecks t.arg t e) = none ∧ inSoft t.arg g e = true ∧ limited t.arg (g - appendBase t.arg e) e = false ∧ (g = appendBase t.arg e ∨ (axisAt t.arg e).q.length < 32)) ∧
  (∃ (s : State) (c : MnrCmd) (t : Taken) (e : Dev) (x : Nat) (n : Nat), e = begun Op.MOVE_APPEND c s.dev ∧ Starts Op.MOVE_APPEND c s.dev t ∧ firstFail (moveChecks (t.arg % 4) t e) = some (x, n)) ∧
  (∃ (s : State) (c : MnrCmd) (t : Taken) (f : Dev) (g : Int), f = begun Op.MOVE_REPLACE c s.dev ∧ Starts Op.MOVE_REPLACE c s.dev t ∧ t.arg < 4 ∧ g = (if bit (t.w 2) 0 then movePos t else (axisAt t.arg f).p + movePos t) ∧ firstFail (moveChecks t.arg t f) = none ∧ paceOwned t.arg f = false ∧ inSoft t.arg g f = true ∧ g = (axisAt t.arg f).p ∧ ((axisAt t.arg f).atRest = true ∨ bit (t.w 2) 0 = false)) ∧
  (∃ (s : State) (c : MnrCmd) (t : Taken) (f : Dev) (g : Int) (e : Dev) (a : Axis) (m : Move) (k : Bool) (r : Bool), f = begun Op.MOVE_REPLACE c s.dev ∧ Starts Op.MOVE_REPLACE c s.dev t ∧ t.arg < 4 ∧ e = begun Op.MOVE_REPLACE c s.dev ∧ a = axisAt t.arg e ∧ g = (if bit (t.w 2) 0 then movePos t else a.p + movePos t) ∧ m = moveOf t a.p g ∧ firstFail (moveChecks t.arg t e) = none ∧ paceOwned t.arg e = false ∧ inSoft t.arg g e = true ∧ (bit (t.w 2) 0 = true ∨ movePos t ≠ 0) ∧ (g ≠ a.p ∨ a.atRest = false) ∧ limited t.arg (g - a.p) e = false ∧ sameTarget a g = none ∧ k = (limited t.arg (sgn a.v) e && a.stop.isSome) ∧ r = (!k && mustRest a m) ∧ (r = false ∨ inSoft t.arg ((a.x + sgn a.v * overshoot a m + xUnit / 2) / xUnit) e = true)) ∧
  (∃ (s : State) (c : MnrCmd) (t : Taken) (f : Dev) (g : Int) (e : Dev) (a : Axis) (o : Move) (m0 : Move) (m : Move) (r : Bool), f = begun Op.MOVE_REPLACE c s.dev ∧ Starts Op.MOVE_REPLACE c s.dev t ∧ t.arg < 4 ∧ e = begun Op.MOVE_REPLACE c s.dev ∧ a = axisAt t.arg e ∧ g = (if bit (t.w 2) 0 then movePos t else a.p + movePos t) ∧ m0 = moveOf t a.p g ∧ firstFail (moveChecks t.arg t e) = none ∧ paceOwned t.arg e = false ∧ inSoft t.arg g e = true ∧ (bit (t.w 2) 0 = true ∨ movePos t ≠ 0) ∧ limited t.arg (g - a.p) e = false ∧ sameTarget a g = some o ∧ m = (if sgn a.v * (g * xUnit - a.x) < overshoot a m0 then { m0 with dec := max o.dec m0.dec, clamped := true } else m0) ∧ r = decide (sgn a.v * (g * xUnit - a.x) + xUnit < overshoot a m) ∧ (r = false ∨ inSoft t.arg ((a.x + sgn a.v * overshoot a m + xUnit / 2) / xUnit) e = true)) ∧
  (∃ (s : State) (c : MnrCmd) (t : Taken) (f : Dev), f = begun Op.AXIS_STOP c s.dev ∧ Starts Op.AXIS_STOP c s.dev t ∧ 0 < t.arg ∧ t.arg < 16 ∧ ((maskIx t.arg 4).any fun n => paceOwned n f) = false) ∧
  (∃ (s : State) (c : MnrCmd) (t : Taken) (f : Dev), f = begun Op.AXIS_STOP c s.dev ∧ Starts Op.AXIS_STOP c s.dev t ∧ (t.arg = 0 ∨ 16 ≤ t.arg)) ∧
  (∃ (s : State) (c : MnrCmd) (t : Taken) (e : Dev), e = begun Op.MOVE_LINEAR c s.dev ∧ Starts Op.MOVE_LINEAR c s.dev t ∧ linAccepted t e = true) ∧
  (∃ (s : State) (c : MnrCmd) (t : Taken) (e : Dev), e = begun Op.MOVE_LINEAR c s.dev ∧ Starts Op.MOVE_LINEAR c s.dev t ∧ (16 ≤ t.arg ∨ (maskIx t.arg 4).length < 2 ∨ t.len ≠ 13)) ∧
  (∃ (s : State) (c : MnrCmd) (t : Taken) (e : Dev), e = begun Op.OBJ_WRITE (withObj 0x1B05 c) s.dev ∧ otherTaken 0x1B05 c s.dev = false ∧ t.arg % 65536 = 0x1B05 ∧ Starts Op.OBJ_WRITE (withObj 0x1B05 c) s.dev t ∧ writeAccepted (withObj 0x1B05 c) t e = true) :=
  ⟨⟨{ dev := { pwr := { mode := .ready }, mnr := { open_ := true }, objs := [(0x1B00, [0x284439, 0xFA03E8, 0x7D003E8, 0, 1000000, 2560000, 0xFFFFFFFF, 0, 0x80000000, 0xFFFFFFFF, 0x7FFFFFFF, 0xC803E8])] } }, { mbx := 0, tag := 0, len := 7, pay := [1000, 0, 1, 100, 100, 100, 0] }, takenOf Op.MOVE_APPEND { mbx := 0, tag := 0, len := 7, pay := [1000, 0, 1, 100, 100, 100, 0] } {}, begun Op.MOVE_APPEND (({ mbx := 0, tag := 0, len := 7, pay := [1000, 0, 1, 100, 100, 100, 0] }) : MnrCmd) (({ dev := { pwr := { mode := .ready }, mnr := { open_ := true }, objs := [(0x1B00, [0x284439, 0xFA03E8, 0x7D003E8, 0, 1000000, 2560000, 0xFFFFFFFF, 0, 0x80000000, 0xFFFFFFFF, 0x7FFFFFFF, 0xC803E8])] } }) : State).dev, 1000, rfl, by decide +kernel⟩,
   ⟨{ dev := { pwr := { mode := .ready }, mnr := { open_ := true } } }, { mbx := 0, tag := 0 }, takenOf Op.MOVE_APPEND { mbx := 0, tag := 0 } {}, begun Op.MOVE_APPEND (({ mbx := 0, tag := 0 }) : MnrCmd) (({ dev := { pwr := { mode := .ready }, mnr := { open_ := true } } }) : State).dev, St.BAD_FIELD, 0, rfl, by decide +kernel⟩,
   ⟨{ dev := { pwr := { mode := .ready }, mnr := { open_ := true }, objs := [(0x1B00, [0x284439, 0xFA03E8, 0x7D003E8, 0, 1000000, 2560000, 0xFFFFFFFF, 0, 0x80000000, 0xFFFFFFFF, 0x7FFFFFFF, 0xC803E8])] } }, { mbx := 0, tag := 0, len := 7, pay := [0, 0, 1, 100, 100, 100, 0] }, takenOf Op.MOVE_REPLACE { mbx := 0, tag := 0, len := 7, pay := [0, 0, 1, 100, 100, 100, 0] } {}, begun Op.MOVE_REPLACE (({ mbx := 0, tag := 0, len := 7, pay := [0, 0, 1, 100, 100, 100, 0] }) : MnrCmd) (({ dev := { pwr := { mode := .ready }, mnr := { open_ := true }, objs := [(0x1B00, [0x284439, 0xFA03E8, 0x7D003E8, 0, 1000000, 2560000, 0xFFFFFFFF, 0, 0x80000000, 0xFFFFFFFF, 0x7FFFFFFF, 0xC803E8])] } }) : State).dev, 0, rfl, by decide +kernel⟩,
   ⟨{ dev := { pwr := { mode := .ready }, mnr := { open_ := true }, objs := [(0x1B00, [0x284439, 0xFA03E8, 0x7D003E8, 0, 1000000, 2560000, 0xFFFFFFFF, 0, 0x80000000, 0xFFFFFFFF, 0x7FFFFFFF, 0xC803E8])] } }, { mbx := 0, tag := 0, len := 7, pay := [1000, 0, 1, 100, 100, 100, 0] }, takenOf Op.MOVE_REPLACE { mbx := 0, tag := 0, len := 7, pay := [1000, 0, 1, 100, 100, 100, 0] } {}, begun Op.MOVE_REPLACE (({ mbx := 0, tag := 0, len := 7, pay := [1000, 0, 1, 100, 100, 100, 0] }) : MnrCmd) (({ dev := { pwr := { mode := .ready }, mnr := { open_ := true }, objs := [(0x1B00, [0x284439, 0xFA03E8, 0x7D003E8, 0, 1000000, 2560000, 0xFFFFFFFF, 0, 0x80000000, 0xFFFFFFFF, 0x7FFFFFFF, 0xC803E8])] } }) : State).dev, 1000, begun Op.MOVE_REPLACE { mbx := 0, tag := 0, len := 7, pay := [1000, 0, 1, 100, 100, 100, 0] } ({ dev := { pwr := { mode := .ready }, mnr := { open_ := true }, objs := [(0x1B00, [0x284439, 0xFA03E8, 0x7D003E8, 0, 1000000, 2560000, 0xFFFFFFFF, 0, 0x80000000, 0xFFFFFFFF, 0x7FFFFFFF, 0xC803E8])] } } : State).dev, axisAt 0 (begun Op.MOVE_REPLACE { mbx := 0, tag := 0, len := 7, pay := [1000, 0, 1, 100, 100, 100, 0] } ({ dev := { pwr := { mode := .ready }, mnr := { open_ := true }, objs := [(0x1B00, [0x284439, 0xFA03E8, 0x7D003E8, 0, 1000000, 2560000, 0xFFFFFFFF, 0, 0x80000000, 0xFFFFFFFF, 0x7FFFFFFF, 0xC803E8])] } } : State).dev), moveOf (takenOf Op.MOVE_REPLACE { mbx := 0, tag := 0, len := 7, pay := [1000, 0, 1, 100, 100, 100, 0] } {}) 0 1000, false, false, rfl, by decide +kernel⟩,
   ⟨{ dev := { pwr := { mode := .ready }, mnr := { open_ := true }, objs := [(0x1B00, [0x284439, 0xFA03E8, 0x7D003E8, 0, 1000000, 2560000, 0xFFFFFFFF, 0, 0x80000000, 0xFFFFFFFF, 0x7FFFFFFF, 0xC803E8])], shu := { ax := { v := 1000000000000000000, q := [{ start := 0, target := 1000, vMax := 1, acc := 1, dec := 1000000000000000000000000, who := none }] } :: List.replicate 3 {} } } }, { mbx := 0, tag := 0, len := 7, pay := [1000, 0, 1, 100, 100, 100, 0] }, takenOf Op.MOVE_REPLACE { mbx := 0, tag := 0, len := 7, pay := [1000, 0, 1, 100, 100, 100, 0] } {}, begun Op.MOVE_REPLACE (({ mbx := 0, tag := 0, len := 7, pay := [1000, 0, 1, 100, 100, 100, 0] }) : MnrCmd) (({ dev := { pwr := { mode := .ready }, mnr := { open_ := true }, objs := [(0x1B00, [0x284439, 0xFA03E8, 0x7D003E8, 0, 1000000, 2560000, 0xFFFFFFFF, 0, 0x80000000, 0xFFFFFFFF, 0x7FFFFFFF, 0xC803E8])], shu := { ax := { v := 1000000000000000000, q := [{ start := 0, target := 1000, vMax := 1, acc := 1, dec := 1000000000000000000000000, who := none }] } :: List.replicate 3 {} } } }) : State).dev, 1000, begun Op.MOVE_REPLACE { mbx := 0, tag := 0, len := 7, pay := [1000, 0, 1, 100, 100, 100, 0] } ({ dev := { pwr := { mode := .ready }, mnr := { open_ := true }, objs := [(0x1B00, [0x284439, 0xFA03E8, 0x7D003E8, 0, 1000000, 2560000, 0xFFFFFFFF, 0, 0x80000000, 0xFFFFFFFF, 0x7FFFFFFF, 0xC803E8])], shu := { ax := { v := 1000000000000000000, q := [{ start := 0, target := 1000, vMax := 1, acc := 1, dec := 1000000000000000000000000, who := none }] } :: List.replicate 3 {} } } } : State).dev, axisAt 0 (begun Op.MOVE_REPLACE { mbx := 0, tag := 0, len := 7, pay := [1000, 0, 1, 100, 100, 100, 0] } ({ dev := { pwr := { mode := .ready }, mnr := { open_ := true }, objs := [(0x1B00, [0x284439, 0xFA03E8, 0x7D003E8, 0, 1000000, 2560000, 0xFFFFFFFF, 0, 0x80000000, 0xFFFFFFFF, 0x7FFFFFFF, 0xC803E8])], shu := { ax := { v := 1000000000000000000, q := [{ start := 0, target := 1000, vMax := 1, acc := 1, dec := 1000000000000000000000000, who := none }] } :: List.replicate 3 {} } } } : State).dev), { start := 0, target := 1000, vMax := 1, acc := 1, dec := 1000000000000000000000000, who := none }, moveOf (takenOf Op.MOVE_REPLACE { mbx := 0, tag := 0, len := 7, pay := [1000, 0, 1, 100, 100, 100, 0] } {}) 0 1000, { moveOf (takenOf Op.MOVE_REPLACE { mbx := 0, tag := 0, len := 7, pay := [1000, 0, 1, 100, 100, 100, 0] } {}) 0 1000 with dec := max 1000000000000000000000000 (moveOf (takenOf Op.MOVE_REPLACE { mbx := 0, tag := 0, len := 7, pay := [1000, 0, 1, 100, 100, 100, 0] } {}) 0 1000).dec, clamped := true }, false, rfl, by decide +kernel⟩,
   ⟨{ dev := { pwr := { mode := .ready }, mnr := { open_ := true } } }, { mbx := 0, tag := 0, arg := 3 }, takenOf Op.AXIS_STOP { mbx := 0, tag := 0, arg := 3 } {}, begun Op.AXIS_STOP (({ mbx := 0, tag := 0, arg := 3 }) : MnrCmd) (({ dev := { pwr := { mode := .ready }, mnr := { open_ := true } } }) : State).dev, rfl, by decide +kernel⟩,
   ⟨{ dev := { pwr := { mode := .ready }, mnr := { open_ := true } } }, { mbx := 0, tag := 0 }, takenOf Op.AXIS_STOP { mbx := 0, tag := 0 } {}, begun Op.AXIS_STOP (({ mbx := 0, tag := 0 }) : MnrCmd) (({ dev := { pwr := { mode := .ready }, mnr := { open_ := true } } }) : State).dev, rfl, by decide +kernel⟩,
   ⟨{ dev := { pwr := { mode := .ready }, mnr := { open_ := true }, objs := [(0x1B00, [0x284439, 0xFA03E8, 0x7D003E8, 0, 1000000, 2560000, 0xFFFFFFFF, 0, 0x80000000, 0xFFFFFFFF, 0x7FFFFFFF, 0xC803E8]), (0x1B01, [0x284439, 0xFA03E8, 0x7D003E8, 0, 1000000, 2560000, 0xFFFFFFFF, 0, 0x80000000, 0xFFFFFFFF, 0x7FFFFFFF, 0xC803E8])] } }, { mbx := 0, tag := 0, arg := 3, len := 13, pay := [1, 100, 100, 100, 0, 1000, 0, 500, 0, 0, 0, 0, 0] }, takenOf Op.MOVE_LINEAR { mbx := 0, tag := 0, arg := 3, len := 13, pay := [1, 100, 100, 100, 0, 1000, 0, 500, 0, 0, 0, 0, 0] } {}, begun Op.MOVE_LINEAR (({ mbx := 0, tag := 0, arg := 3, len := 13, pay := [1, 100, 100, 100, 0, 1000, 0, 500, 0, 0, 0, 0, 0] }) : MnrCmd) (({ dev := { pwr := { mode := .ready }, mnr := { open_ := true }, objs := [(0x1B00, [0x284439, 0xFA03E8, 0x7D003E8, 0, 1000000, 2560000, 0xFFFFFFFF, 0, 0x80000000, 0xFFFFFFFF, 0x7FFFFFFF, 0xC803E8]), (0x1B01, [0x284439, 0xFA03E8, 0x7D003E8, 0, 1000000, 2560000, 0xFFFFFFFF, 0, 0x80000000, 0xFFFFFFFF, 0x7FFFFFFF, 0xC803E8])] } }) : State).dev, rfl, by decide +kernel⟩,
   ⟨{ dev := { pwr := { mode := .ready }, mnr := { open_ := true } } }, { mbx := 0, tag := 0 }, takenOf Op.MOVE_LINEAR { mbx := 0, tag := 0 } {}, begun Op.MOVE_LINEAR (({ mbx := 0, tag := 0 }) : MnrCmd) (({ dev := { pwr := { mode := .ready }, mnr := { open_ := true } } }) : State).dev, rfl, by decide +kernel⟩,
   ⟨{ dev := { pwr := { mode := .ready }, mnr := { open_ := true } } }, { mbx := 0, tag := 0, len := 3, pay := [1, 1000, 0] }, takenOf Op.OBJ_WRITE (withObj 0x1B05 { mbx := 0, tag := 0, len := 3, pay := [1, 1000, 0] }) {}, begun Op.OBJ_WRITE (withObj 0x1B05 (({ mbx := 0, tag := 0, len := 3, pay := [1, 1000, 0] }) : MnrCmd)) (({ dev := { pwr := { mode := .ready }, mnr := { open_ := true } } }) : State).dev, rfl, by decide +kernel⟩⟩

/-- Values that meet the hypotheses of MotionEvents. -/
theorem witness_motion_events :
  (∃ (s : State) (t : Nat), s.dev.on 12 = true ∧ s.dev.pwr.mode = .boot) ∧
  (∃ (s : State) (t : Nat), s.dev.on 12 = true ∧ s.dev.pwr.mode ≠ .boot) ∧
  (∃ (d : Dev) (n : Nat) (m : Move) (ms : List Move), axMode n d = 1 ∧ (axisAt n d).stop = none ∧ (axisAt n d).paceMove = none ∧ paceOwned n d = false ∧ (axisAt n d).q = m :: ms ∧ m.lin = none ∧ (axisAt n d).rest = false ∧ (axisAt n d).v ≠ 0 ∧ limited n (sgn (axisAt n d).v) d = false ∧ (axisAt n d).appended = 0 ∧ n < d.shu.ax.length ∧ (genProfile n m (m :: ms) (pacedNow n d) d).2 = false) ∧
  (∃ (s : State) (n : Fin 4) (pos : Bool) (t : Nat), s.dev.tap.phase ≠ .saving) ∧
  (∃ (d : Dev) (n : Nat), limited n (travelDir n d) d = true ∧ (axisAt n d).replaced = false ∧ n < d.shu.ax.length) ∧
  (∃ (s : State) (n : Fin 4) (pos : Bool) (t : Nat), s.dev.tap.phase ≠ .saving) ∧
  (∃ (s : State) (n : Fin 4) (up : Bool) (t : Nat), s.dev.on 12 = true) ∧
  (∃ (s : State) (n : Fin 4) (t : Nat), s.dev.on 12 = true) ∧
  (∃ (s : State) (n : Fin 4) (t : Nat), n.val < 2 ∧ s.dev.tap.phase ≠ .saving) ∧
  (∃ (s : State) (n : Fin 4) (t : Nat), 2 ≤ n.val ∧ s.dev.tap.phase ≠ .saving) ∧
  (∃ (s : State) (n : Fin 4) (t : Nat), 2 ≤ n.val ∧ s.dev.tap.phase ≠ .saving) ∧
  (∃ (s : State) (n : Fin 4) (vin : Nat) (cur : Nat) (t : Nat), s.dev.on 12 = true ∧ n.val < 2 ∧ n.val < s.dev.shu.ax.length) ∧
  (∃ (s : State) (n : Fin 4) (vin : Nat) (cur : Nat) (t : Nat), s.dev.on 12 = true ∧ 2 ≤ n.val) :=
  ⟨⟨{ dev := { pwr := { mode := .boot } } }, 16000, by decide +kernel⟩,
   ⟨{ dev := { pwr := { mode := .ready } } }, 16000, by decide +kernel⟩,
   ⟨{ objs := [(0x1B00, [0x284439, 0xFA03E8, 0x7D003E8, 0, 1000000, 2560000, 0xFFFFFFFF, 0, 0x80000000, 0xFFFFFFFF, 0x7FFFFFFF, 0xC803E8])], shu := { ax := { v := 1000000000000, q := [{ start := 0, target := 100000, vMax := 100000000000000, acc := 1000000000, dec := 1000000000, who := none }] } :: List.replicate 3 {} } }, 0, { start := 0, target := 100000, vMax := 100000000000000, acc := 1000000000, dec := 1000000000, who := none }, [], by decide +kernel⟩,
   ⟨{ dev := { pwr := { mode := .ready } } }, 0, true, 5, by decide +kernel⟩,
   ⟨{ objs := [(0x1B00, [0x284439, 0xFA03E8, 0x7D003E8, 0, 1000000, 2560000, 0xFFFFFFFF, 0, 0x80000000, 0xFFFFFFFF, 0x7FFFFFFF, 0xC803E8])], shu := { ax := { v := 1000000000000, limIn := 2 } :: List.replicate 3 {} } }, 0, by decide +kernel⟩,
   ⟨{ dev := { pwr := { mode := .ready } } }, 0, true, 5, by decide +kernel⟩,
   ⟨{ dev := { pwr := { mode := .ready }, objs := [(0x1B00, [0x28443A])] } }, 0, true, 5, by decide +kernel⟩,
   ⟨{ dev := { pwr := { mode := .ready }, shu := { ax := { bridge := true } :: List.replicate 3 {} } } }, 0, 5, by decide +kernel⟩,
   ⟨{ dev := { pwr := { mode := .ready } } }, 0, 5, by decide +kernel⟩,
   ⟨{ dev := { pwr := { mode := .ready }, objs := [(0x1B02, [0x284439, 0xFA03E8, 0x7D003E8, 0, 1000000, 2560000, 0xFFFFFFFF, 0, 0x80000000, 0xFFFFFFFF, 0x7FFFFFFF, 0xC803E8])] } }, 2, 5, by decide +kernel⟩,
   ⟨{ dev := { pwr := { mode := .ready }, objs := [(0x1B02, [0x284439, 0xFA03E8, 0x7D003E8, 0, 1000000, 2560000, 0xFFFFFFFF, 0, 0x80000000, 0xFFFFFFFF, 0x7FFFFFFF, 0xC803E8])] } }, 2, 5, by decide +kernel⟩,
   ⟨{ dev := { pwr := { mode := .ready } } }, 0, 5000, 700, 5, by decide +kernel⟩,
   ⟨{ dev := { pwr := { mode := .ready } } }, 2, 5000, 700, 5, by decide +kernel⟩⟩

/-- Values that meet the hypotheses of LampCommands. -/
theorem witness_lamp_commands :
  (∃ (s : State) (c : MnrCmd) (mv : List Nat) (t : Taken) (n : Nat) (e : Dev), Starts Op.CAL_LAMP c s.dev t ∧ 0 < t.arg ∧ t.arg < 256 ∧ ((maskIx t.arg 8).any fun x => isForced x (begun Op.CAL_LAMP c s.dev)) = false ∧ lampCheck t.arg mv (begun Op.CAL_LAMP c s.dev) = (n, e)) ∧
  (∃ (d : Dev) (mask : Nat) (mv : List Nat), ((List.range 8).all fun x => (List.range 16).all fun l => (mv[16 * x + l]?).all fun v => !badReading x l v d) = true) ∧
  (∃ (s : State) (c : MnrCmd) (mv : List Nat) (t : Taken), Starts Op.CAL_LAMP c s.dev t ∧ (t.arg = 0 ∨ 256 ≤ t.arg ∨ ((maskIx t.arg 8).any fun x => isForced x (begun Op.CAL_LAMP c s.dev)) = true)) ∧
  (∃ (s : State) (c : MnrCmd) (t : Taken) (x : Nat) (e : Dev), Starts Op.LAMP_FORCE c s.dev t ∧ t.arg < 16 ∧ bit t.arg 3 = true ∧ x = t.arg % 8 ∧ t.len = 3 ∧ e = (begun Op.LAMP_FORCE c s.dev) ∧ 0 < t.w 0 ∧ t.w 0 ≤ (strAt x e).iLim ∧ t.w 1 < 65536 ∧ 0 < t.w 2 ∧ t.w 2 ≤ 1000000) ∧
  (∃ (s : State) (c : MnrCmd) (t : Taken), Starts Op.LAMP_FORCE c s.dev t ∧ t.arg < 8 ∧ t.len = 0) ∧
  (∃ (s : State) (c : MnrCmd) (t : Taken), Starts Op.LAMP_FORCE c s.dev t ∧ (16 ≤ t.arg ∨ (bit t.arg 3 = true ∧ t.len ≠ 3) ∨ (bit t.arg 3 = false ∧ t.len ≠ 0) ∨ (bit t.arg 3 = true ∧ (t.w 0 = 0 ∨ (strAt (t.arg % 8) (begun Op.LAMP_FORCE c s.dev)).iLim < t.w 0 ∨ 65536 ≤ t.w 1 ∨ t.w 2 = 0 ∨ 1000000 < t.w 2)))) ∧
  (∃ (s : State) (c : MnrCmd) (mv : Nat) (t : Taken), Starts Op.LAMP_SPARE c s.dev t ∧ (bit t.arg 3 = true ∨ 256 ≤ t.arg ∨ (strAt (t.arg % 8) (begun Op.LAMP_SPARE c s.dev)).failed.testBit (bits t.arg 7 4) = false)) ∧
  (∃ (s : State) (c : MnrCmd) (mv : Nat) (t : Taken) (x : Nat) (l : Nat) (e : Dev), Starts Op.LAMP_SPARE c s.dev t ∧ bit t.arg 3 = false ∧ t.arg < 256 ∧ x = t.arg % 8 ∧ l = bits t.arg 7 4 ∧ e = (begun Op.LAMP_SPARE c s.dev) ∧ (strAt x e).failed.testBit l = true) ∧
  (∃ (s : State) (c : MnrCmd) (t : Taken), otherTaken 0x1C10 c s.dev = false ∧ t.arg % 65536 = 0x1C10 ∧ Starts Op.OBJ_WRITE (withObj 0x1C10 c) s.dev t ∧ writeAccepted (withObj 0x1C10 c) t (begun Op.OBJ_WRITE (withObj 0x1C10 c) s.dev) = true) ∧
  (∃ (s : State) (ret : List Word) (t : Nat), s.dev.on 13 = true ∧ s.dev.ilm.shift = none) ∧
  (∃ (s : State) (ret : List Word) (t : Nat) (x : ChainShift), s.dev.on 13 = true ∧ s.dev.ilm.shift = some x ∧ ret = chainFrame (cfg Obj.ILM_CTL.BOARDS s.dev) x.frame) ∧
  (∃ (s : State) (ret : List Word) (t : Nat) (x : ChainShift), s.dev.on 13 = true ∧ s.dev.ilm.shift = some x ∧ ret ≠ chainFrame (cfg Obj.ILM_CTL.BOARDS s.dev) x.frame) :=
  ⟨⟨{ dev := { pwr := { mode := .ready }, mnr := { open_ := true }, objs := [(0x1C01, [1]), (0x1C02, [1 + 2048 * 16 + 3000 * 65536])] } }, { mbx := 0, tag := 0, arg := 1 }, [9000], takenOf Op.CAL_LAMP { mbx := 0, tag := 0, arg := 1 } {}, 1, (lampCheck 1 [9000] (begun Op.CAL_LAMP { mbx := 0, tag := 0, arg := 1 } { pwr := { mode := .ready }, mnr := { open_ := true }, objs := [(0x1C01, [1]), (0x1C02, [1 + 2048 * 16 + 3000 * 65536])] })).2, by decide +kernel⟩,
   ⟨{}, 1, [3000], by decide +kernel⟩,
   ⟨{ dev := { pwr := { mode := .ready }, mnr := { open_ := true } } }, { mbx := 0, tag := 0 }, [], takenOf Op.CAL_LAMP { mbx := 0, tag := 0 } {}, by decide +kernel⟩,
   ⟨{ dev := { pwr := { mode := .ready }, mnr := { open_ := true }, ilm := { str := { iLim := 2000 } :: List.replicate 7 {} } } }, { mbx := 0, tag := 0, arg := 8, len := 3, pay := [100, 1, 50] }, takenOf Op.LAMP_FORCE { mbx := 0, tag := 0, arg := 8, len := 3, pay := [100, 1, 50] } {}, 0, (begun Op.LAMP_FORCE { mbx := 0, tag := 0, arg := 8, len := 3, pay := [100, 1, 50] } { pwr := { mode := .ready }, mnr := { open_ := true }, ilm := { str := { iLim := 2000 } :: List.replicate 7 {} } }), by decide +kernel⟩,
   ⟨{ dev := { pwr := { mode := .ready }, mnr := { open_ := true } } }, { mbx := 0, tag := 0 }, takenOf Op.LAMP_FORCE { mbx := 0, tag := 0 } {}, by decide +kernel⟩,
   ⟨{ dev := { pwr := { mode := .ready }, mnr := { open_ := true } } }, { mbx := 0, tag := 0, arg := 16 }, takenOf Op.LAMP_FORCE { mbx := 0, tag := 0, arg := 16 } {}, by decide +kernel⟩,
   ⟨{ dev := { pwr := { mode := .ready }, mnr := { open_ := true } } }, { mbx := 0, tag := 0 }, 3000, takenOf Op.LAMP_SPARE { mbx := 0, tag := 0 } {}, by decide +kernel⟩,
   ⟨{ dev := { pwr := { mode := .ready }, mnr := { open_ := true }, ilm := { str := { failed := 1 } :: List.replicate 7 {} } } }, { mbx := 0, tag := 0 }, 3000, takenOf Op.LAMP_SPARE { mbx := 0, tag := 0 } {}, 0, 0, (begun Op.LAMP_SPARE { mbx := 0, tag := 0 } { pwr := { mode := .ready }, mnr := { open_ := true }, ilm := { str := { failed := 1 } :: List.replicate 7 {} } }), by decide +kernel⟩,
   ⟨{ dev := { pwr := { mode := .ready }, mnr := { open_ := true }, objs := [(0x1C00, [0, 0, 65537])] } }, { mbx := 0, tag := 0, arg := 0x10000, len := 3, pay := [4096, 0, 32], buf := [1, 2, 3, 4, 5, 6, 7, 8] }, takenOf Op.OBJ_WRITE (withObj 0x1C10 { mbx := 0, tag := 0, arg := 0x10000, len := 3, pay := [4096, 0, 32], buf := [1, 2, 3, 4, 5, 6, 7, 8] }) {}, by decide +kernel⟩,
   ⟨{ dev := { pwr := { mode := .ready } } }, [], 5, by decide +kernel⟩,
   ⟨{ dev := { pwr := { mode := .ready }, ilm := { shift := some { frame := [1, 2, 3, 4, 5, 6, 7, 8], who := none } } } }, chainFrame 1 [1, 2, 3, 4, 5, 6, 7, 8], 5, { frame := [1, 2, 3, 4, 5, 6, 7, 8], who := none }, by decide +kernel⟩,
   ⟨{ dev := { pwr := { mode := .ready }, ilm := { shift := some { frame := [1, 2, 3, 4, 5, 6, 7, 8], who := none } } } }, [], 5, { frame := [1, 2, 3, 4, 5, 6, 7, 8], who := none }, by decide +kernel⟩⟩

/-- Values that meet the hypotheses of LampEvents. -/
theorem witness_lamp_events :
  (∃ (s : State) (x : Fin 8) (t : Nat), s.dev.on 13 = true) ∧
  (∃ (s : State) (x : Fin 8) (t : Nat), s.dev.on 13 = true ∧ (strAt x.val s.dev).lit = .off) ∧
  (∃ (s : State) (x : Fin 8) (t : Nat) (k : Nat) (p : Nat), s.dev.on 13 = true ∧ (strAt x.val s.dev).lit = .strobe k p) ∧
  (∃ (s : State) (x : Fin 8) (t : Nat), s.dev.on 13 = true ∧ (strAt x.val s.dev).lit = .diag) ∧
  (∃ (s : State) (x : Fin 8) (l : Fin 16) (mv : Nat) (t : Nat), s.dev.on 13 = true ∧ readsLamp x.val l.val s.dev = false) ∧
  (∃ (s : State) (x : Fin 8) (l : Fin 16) (mv : Nat) (t : Nat) (line : Option Nat), s.dev.on 13 = true ∧ readsLamp x.val l.val s.dev = true ∧ line = (match (strAt x.val s.dev).lit with | .strobe k _ => some k | _ => none)) ∧
  (∃ (s : State) (x : Fin 8) (t : Nat) (r : AuxRes), s.dev.on 13 = true ∧ r = at' s.dev.aux.res (cfg (Obj.ILM_STRING.TEMP_SRC x.val) s.dev) {} ∧ (cfgB (Obj.ILM_STRING.TEMP_EN x.val) s.dev = false ∨ r.formed = none ∨ r.stale = true)) ∧
  (∃ (s : State) (x : Fin 8) (t : Nat) (r : AuxRes), s.dev.on 13 = true ∧ cfgB (Obj.ILM_STRING.TEMP_EN x.val) s.dev = true ∧ r = at' s.dev.aux.res (cfg (Obj.ILM_STRING.TEMP_SRC x.val) s.dev) {} ∧ r.formed.isSome = true ∧ r.stale = false ∧ (r.open_ = true ∨ r.settling = true)) ∧
  (∃ (s : State) (x : Fin 8) (t : Nat) (lim : Nat) (r : AuxRes), s.dev.on 13 = true ∧ cfgB (Obj.ILM_STRING.TEMP_EN x.val) s.dev = true ∧ r = at' s.dev.aux.res (cfg (Obj.ILM_STRING.TEMP_SRC x.val) s.dev) {} ∧ r.formed.isSome = true ∧ r.stale = false ∧ r.open_ = false ∧ r.settling = false ∧ lim = limitAt x.val r.eng s.dev) ∧
  (∃ (s : State) (x : Fin 8) (t : Nat), s.dev.on 13 = true) ∧
  (∃ (s : State) (x : Fin 8) (v : Nat) (t : Nat), s.dev.on 13 = true ∧ (strobing x.val s.dev = false ∨ strEn x.val s.dev = false)) ∧
  (∃ (s : State) (x : Fin 8) (v : Nat) (t : Nat) (k : Nat) (p : Nat), s.dev.on 13 = true ∧ (strAt x.val s.dev).lit = .strobe k p ∧ strEn x.val s.dev = true) ∧
  (∃ (s : State) (x : Fin 8) (t : Nat), s.dev.on 13 = true) :=
  ⟨⟨{ dev := { pwr := { mode := .scan }, ilm := { str := { delayed := some (3, 0), blankUntil := 9 } :: List.replicate 7 {} } } }, 0, 5, by decide +kernel⟩,
   ⟨{ dev := { pwr := { mode := .scan } } }, 0, 5, by decide +kernel⟩,
   ⟨{ dev := { pwr := { mode := .scan }, ilm := { str := { lit := .strobe 3 0 } :: List.replicate 7 {} } } }, 0, 5, 3, 0, by decide +kernel⟩,
   ⟨{ dev := { pwr := { mode := .scan }, ilm := { str := { lit := .diag } :: List.replicate 7 {} } } }, 0, 2400, by decide +kernel⟩,
   ⟨{ dev := { pwr := { mode := .scan } } }, 0, 0, 3000, 5, by decide +kernel⟩,
   ⟨{ dev := { pwr := { mode := .scan }, objs := [(0x1C01, [1]), (0x1C02, [1 + 2048 * 16 + 3000 * 65536])], ilm := { str := { lit := .diag, readMask := 1, shunt := 0xFFFE } :: List.replicate 7 {} } } }, 0, 0, 9000, 5, none, by decide +kernel⟩,
   ⟨{ dev := { pwr := { mode := .ready } } }, 0, 5, {}, by decide +kernel⟩,
   ⟨{ dev := { pwr := { mode := .ready }, objs := [(0x1C01, [513])], aux := { res := { formed := some 3, open_ := true } :: List.replicate 31 {} } } }, 0, 5, { formed := some 3, open_ := true }, by decide +kernel⟩,
   ⟨{ dev := { pwr := { mode := .ready }, objs := [(0x1C01, [512 + 2000 * 65536, 960 + 1600 * 65536])], aux := { res := { formed := some 3, eng := 1280 } :: List.replicate 31 {} } } }, 0, 5, 1000, { formed := some 3, eng := 1280 }, by decide +kernel⟩,
   ⟨{ dev := { pwr := { mode := .ready }, objs := [(0x1C01, [513])] } }, 0, 5, by decide +kernel⟩,
   ⟨{ dev := { pwr := { mode := .ready } } }, 0, 12000, 5, by decide +kernel⟩,
   ⟨{ dev := { pwr := { mode := .scan }, objs := [(0x1C01, [1])], ilm := { str := { lit := .strobe 3 0 } :: List.replicate 7 {} } } }, 0, 12000, 5, 3, 0, by decide +kernel⟩,
   ⟨{ dev := { pwr := { mode := .ready }, ilm := { str := { lit := .forced 1 100 1 } :: List.replicate 7 {} } } }, 0, 16000, by decide +kernel⟩⟩

/-- Values that meet the hypotheses of AuxiliaryCommands. -/
theorem witness_auxiliary_commands :
  (∃ (s : State) (v : Int) (ref : Int) (vc : Int) (refc : Int) (comp : Bool) (t : Nat), s.dev.on 14 = true ∧ (auxModes s.dev = false ∨ s.dev.aux.arbDue = true ∨ (auxEn s.dev = false ∧ s.dev.aux.active = none))) ∧
  (∃ (s : State) (v : Int) (ref : Int) (vc : Int) (refc : Int) (comp : Bool) (t : Nat), s.dev.on 14 = true ∧ auxRuns s.dev = true ∧ s.dev.aux.arbDue = false ∧ s.dev.aux.active = none ∧ nextSlot none s.dev = none) ∧
  (∃ (s : State) (v : Int) (ref : Int) (vc : Int) (refc : Int) (p : Int) (q : Int) (comp : Bool) (t : Nat) (x : Nat) (e : Dev) (e1 : Dev) (e2 : Dev), s.dev.on 14 = true ∧ auxModes s.dev = true ∧ s.dev.aux.arbDue = false ∧ e = auxStart (s.dev.at_ t) ∧ e.aux.active = some x ∧ auxCode (AuxSlot.gain e.aux.cfg) v (AuxSlot.vRef e.aux.cfg ref) e = (p, e1) ∧ auxCode (AuxSlot.gain e.aux.cfg) vc (AuxSlot.vRef e.aux.cfg refc) e1 = (q, e2)) ∧
  (∃ (s : State) (a : ArbRes) (b : ArbRes) (t : Nat), s.dev.on 14 = true ∧ (auxModes s.dev = false ∨ s.dev.aux.arbDue = false)) ∧
  (∃ (s : State) (a : ArbRes) (b : ArbRes) (t : Nat) (pf : Bool) (cf : Bool), s.dev.on 14 = true ∧ auxModes s.dev = true ∧ s.dev.aux.arbDue = true ∧ pf = ([a.lo1 - 2097152, a.lo2 - 2097152, a.hi1 - 6291456, a.hi2 - 6291456].any fun y => decide (cfg Obj.AUX_CTL.ARB_TOL s.dev < y.natAbs)) ∧ cf = ([b.lo1 - 2097152, b.lo2 - 2097152, b.hi1 - 6291456, b.hi2 - 6291456].any fun y => decide (cfg Obj.AUX_CTL.ARB_TOL s.dev < y.natAbs))) ∧
  (∃ (s : State) (x : Fin 32) (t : Nat), s.dev.on 14 = true) ∧
  (∃ (s : State) (a : Fin 4) (t : Nat), powered s.dev = true) ∧
  (∃ (s : State) (t : Nat), coresRun s.dev = true) ∧
  (∃ (s : State) (c : MnrCmd) (t : Taken), Starts Op.AUX_READ c s.dev t ∧ 0 < (maskIx t.arg 32).length ∧ (maskIx t.arg 32).length ≤ 6 ∧ t.len ≤ 1 ∧ (t.len = 1 → t.w 0 < 2)) ∧
  (∃ (s : State) (c : MnrCmd) (t : Taken), Starts Op.AUX_READ c s.dev t ∧ ((maskIx t.arg 32).length = 0 ∨ 6 < (maskIx t.arg 32).length ∨ 1 < t.len ∨ (t.len = 1 ∧ 2 ≤ t.w 0))) :=
  ⟨⟨{ dev := { pwr := { mode := .ready } } }, 1, 2, 3, 4, true, 5, by decide +kernel⟩,
   ⟨{ dev := { pwr := { mode := .ready }, objs := [(0x1D00, [1])] } }, 1, 2, 3, 4, true, 5, by decide +kernel⟩,
   ⟨{ dev := { pwr := { mode := .ready }, objs := [(0x1D00, [1]), (0x1D01, [0xA0000000, 0x104000, 0, 0x1000000])], aux := { active := some 0, word := 3, cfg := [0xA0000000, 0x104000, 0, 0x1000000] } } }, 1, 2, 1, 2, 4194304, 4194304, true, 5, 0, { now := 5, pwr := { mode := .ready }, objs := [(0x1D00, [1]), (0x1D01, [0xA0000000, 0x104000, 0, 0x1000000])], aux := { active := some 0, word := 3, cfg := [0xA0000000, 0x104000, 0, 0x1000000] } }, { now := 5, pwr := { mode := .ready }, objs := [(0x1D00, [1]), (0x1D01, [0xA0000000, 0x104000, 0, 0x1000000])], aux := { active := some 0, word := 3, cfg := [0xA0000000, 0x104000, 0, 0x1000000] } }, { now := 5, pwr := { mode := .ready }, objs := [(0x1D00, [1]), (0x1D01, [0xA0000000, 0x104000, 0, 0x1000000])], aux := { active := some 0, word := 3, cfg := [0xA0000000, 0x104000, 0, 0x1000000] } }, by decide +kernel⟩,
   ⟨{ dev := { pwr := { mode := .ready } } }, { lo1 := 0, lo2 := 0, hi1 := 0, hi2 := 0 }, { lo1 := 0, lo2 := 0, hi1 := 0, hi2 := 0 }, 5, by decide +kernel⟩,
   ⟨{ dev := { pwr := { mode := .ready }, objs := [(0x1D00, [1, 1024])], aux := { arbDue := true } } }, { lo1 := 2097152, lo2 := 2097152, hi1 := 6291456, hi2 := 6291456 }, { lo1 := 0, lo2 := 0, hi1 := 0, hi2 := 0 }, 5, false, true, by decide +kernel⟩,
   ⟨{ dev := { pwr := { mode := .ready }, objs := [(0x1D01, [0x80000000, 0x104000, 0, 0x1000000])] } }, 0, 5, by decide +kernel⟩,
   ⟨{ dev := { pwr := { mode := .ready }, objs := [(0x1D02, [32])] } }, 0, 5, by decide +kernel⟩,
   ⟨{ dev := { pwr := { mode := .ready }, aux := { waits := [{ mask := 1, left := 1, who := { mbx := 0, tag := 0, op := 0, sess := 0 } }] } } }, 5, by decide +kernel⟩,
   ⟨{ dev := { pwr := { mode := .ready }, mnr := { open_ := true } } }, { mbx := 0, tag := 0, arg := 3 }, takenOf Op.AUX_READ { mbx := 0, tag := 0, arg := 3 } {}, by decide +kernel⟩,
   ⟨{ dev := { pwr := { mode := .ready }, mnr := { open_ := true } } }, { mbx := 0, tag := 0 }, takenOf Op.AUX_READ { mbx := 0, tag := 0 } {}, by decide +kernel⟩⟩

/-- Values that meet the hypotheses of FabricBlocks. -/
theorem witness_fabric_blocks :
  (∃ (s : State) (h : KHdr) (q : Fin 32) (a : Fin 4096) (n : Nat) (t : Nat) (k : Nat) (x : Bool) (y : Bool) (r : Option Nat) (b : LineBlk) (m : GroupMsg) (u : List Word), s.dev.on 15 = true ∧ portUp h.port.val s.dev = false) ∧
  (∃ (d : Dev) (h : KHdr) (l : Bool) (x : Bool) (b : KBlock) (f : Dev → Dev) (e : Dev), portUp h.port.val d = true ∧ d.runs 15 = true ∧ (crcRight h b = false ∨ h.seq.val ≠ (kport h.port.val d).rxExpected) ∧ e = (if crcRight h b then d else updPort h.port.val (fun y => { y with crcErr := sat32 y.crcErr }) d)) ∧
  (∃ (d : Dev) (h : KHdr) (l : Bool) (x : Bool) (b : KBlock) (f : Dev → Dev), portUp h.port.val d = true ∧ d.runs 15 = true ∧ crcRight h b = true ∧ h.seq.val = (kport h.port.val d).rxExpected ∧ h.badType.isSome = true) ∧
  (∃ (d : Dev) (h : KHdr) (x : Bool) (b : KBlock) (f : Dev → Dev), (inOrder h b d = true ∧ h.dest.val ≠ nodeAddr d ∨ inOrder h b d = true ∧ nodeAddr d = 0)) ∧
  (∃ (s : State) (h : KHdr) (a : Fin 4096) (t : Nat), s.dev.on 15 = true ∧ inOrder h { type := 2, cls := 1, dest := 0, src := 0 } s.dev = true) ∧
  (∃ (s : State) (h : KHdr) (e : Fin 4096) (t : Nat), s.dev.on 15 = true ∧ inOrder h { type := 3, cls := 1, dest := 0, src := 0 } s.dev = true) ∧
  (∃ (s : State) (h : KHdr) (q : Fin 32) (n : Nat) (t : Nat), s.dev.on 15 = true ∧ forUs h { type := 4, cls := 1, dest := 0, src := 0, queue := q.val } s.dev = true) ∧
  (∃ (s : State) (h : KHdr) (q : Fin 32) (x : Bool) (y : Bool) (t : Nat) (u : List Word), s.dev.on 15 = true ∧ forUs h { type := 1, cls := 2, dest := 0, src := 0, queue := q.val, end_ := x, abort := y } s.dev = true) ∧
  (∃ (s : State) (h : KHdr) (x : Bool) (n : Nat) (t : Nat), s.dev.on 15 = true ∧ inOrder h { type := 5, cls := 0, dest := 0, src := 0 } s.dev = true) :=
  ⟨⟨{ dev := { pwr := { mode := .ready } } }, { port := 0, seq := 0, dest := 1, src := 2 }, 0, 0, 1, 5, 3, false, false, none, { k := 1, tk := 0, pos := 0, vhat := 0, phase := 0, frameStart := false, frameEnd := false, abort := false }, .leave, [], by decide +kernel⟩,
   ⟨{ krm := { port := { up := true } :: List.replicate 3 {} } }, { port := 0, seq := 5, dest := 1, src := 2 }, true, false, { type := 2, cls := 1, dest := 0, src := 0 }, id, (updPort 0 (fun y => { y with crcErr := sat32 y.crcErr }) { krm := { port := { up := true } :: List.replicate 3 {} } }), by refine ⟨by decide +kernel, by decide +kernel, by decide +kernel, by decide +kernel⟩⟩,
   ⟨{ krm := { port := { up := true } :: List.replicate 3 {} } }, ({ port := 0, seq := 0, dest := 1, src := 2, badType := some 11, crc := crcWords ((arrived { port := 0, seq := 0, dest := 1, src := 2, badType := some 11 } { type := 9, cls := 1, dest := 0, src := 0 }).words) } : KHdr), true, false, { type := 9, cls := 1, dest := 0, src := 0 }, id, by refine ⟨by decide +kernel, by decide +kernel, by decide +kernel, by decide +kernel, by decide +kernel⟩⟩,
   ⟨{ krm := { port := { up := true } :: List.replicate 3 {} } }, ({ port := 0, seq := 0, dest := 1, src := 2, crc := crcWords ((arrived { port := 0, seq := 0, dest := 1, src := 2 } { type := 9, cls := 1, dest := 0, src := 0 }).words) } : KHdr), false, { type := 9, cls := 1, dest := 0, src := 0 }, id, by exact Or.inl ⟨by decide +kernel, by decide +kernel⟩⟩,
   ⟨{ dev := { pwr := { mode := .ready }, krm := { port := { up := true, replayBuf := [{ type := 2, cls := 1, dest := 1, src := 1, seq := 7 }] } :: List.replicate 3 {} } } }, ({ port := 0, seq := 0, dest := 1, src := 2, crc := crcWords ((arrived { port := 0, seq := 0, dest := 1, src := 2 } { type := 2, cls := 1, dest := 0, src := 0 }).words) } : KHdr), 7, 5, by decide +kernel⟩,
   ⟨{ dev := { pwr := { mode := .ready }, krm := { port := { up := true, replayBuf := [{ type := 2, cls := 1, dest := 1, src := 1, seq := 7 }] } :: List.replicate 3 {} } } }, ({ port := 0, seq := 0, dest := 1, src := 2, crc := crcWords ((arrived { port := 0, seq := 0, dest := 1, src := 2 } { type := 3, cls := 1, dest := 0, src := 0 }).words) } : KHdr), 7, 5, by decide +kernel⟩,
   ⟨{ dev := { pwr := { mode := .ready }, objs := [(0x1E00, [1])], krm := { port := { up := true } :: List.replicate 3 {} } } }, ({ port := 0, seq := 0, dest := 1, src := 2, crc := crcWords ((arrived { port := 0, seq := 0, dest := 1, src := 2 } { type := 4, cls := 1, dest := 0, src := 0, queue := 3 }).words) } : KHdr), 3, 9, 5, by decide +kernel⟩,
   ⟨{ dev := { pwr := { mode := .ready }, objs := [(0x1E00, [1]), (0x1800, [0x102])], krm := { port := { up := true } :: List.replicate 3 {} } } }, ({ port := 0, seq := 0, dest := 1, src := 2, pay := List.replicate 8 5, crc := crcWords ((arrived { port := 0, seq := 0, dest := 1, src := 2, pay := List.replicate 8 5 } { type := 1, cls := 2, dest := 0, src := 0, queue := 0, end_ := true, abort := false }).words) } : KHdr), 0, true, false, 5, [], by decide +kernel⟩,
   ⟨{ dev := { pwr := { mode := .ready }, objs := [(0x1E00, [1])], krm := { port := { up := true } :: List.replicate 3 {} } } }, ({ port := 0, seq := 0, dest := 1, src := 2, crc := crcWords ((arrived { port := 0, seq := 0, dest := 1, src := 2 } { type := 5, cls := 0, dest := 0, src := 0 }).words) } : KHdr), false, 9, 5, by decide +kernel⟩⟩

/-- Values that meet the hypotheses of GroupBlocks. -/
theorem witness_group_blocks :
  (∃ (s : State) (h : KHdr) (b : LineBlk) (t : Nat), s.dev.on 15 = true ∧ forUs h { type := 6, cls := 0, dest := 0, src := 0 } s.dev = true ∧ (follower s.dev = false ∨ s.dev.krm.master ≠ h.src.val)) ∧
  (∃ (s : State) (h : KHdr) (b : LineBlk) (t : Nat) (e : Dev), s.dev.on 15 = true ∧ forUs h { type := 6, cls := 0, dest := 0, src := 0 } s.dev = true ∧ e = followVhat b ((counted h (s.dev.at_ t)).at_ t) ∧ follower s.dev = true ∧ s.dev.krm.master = h.src.val ∧ b.abort = false) ∧
  (∃ (s : State) (h : KHdr) (b : LineBlk) (t : Nat), s.dev.on 15 = true ∧ forUs h { type := 6, cls := 0, dest := 0, src := 0 } s.dev = true ∧ follower s.dev = true ∧ s.dev.krm.master = h.src.val ∧ b.abort = true ∧ (s.dev.spn.line.all fun l => l.k != b.k) = true) ∧
  (∃ (s : State) (h : KHdr) (v : Nat) (x : Bool) (r : Option Nat) (t : Nat), s.dev.on 15 = true ∧ forUs h { type := 7, cls := 0, dest := 0, src := 0 } s.dev = true) ∧
  (∃ (s : State) (h : KHdr) (uid : Nat) (a : Nat) (p : Nat) (x : Bool) (t : Nat), s.dev.on 15 = true ∧ inOrder h { type := 8, cls := 1, dest := 0, src := 0 } s.dev = true) ∧
  (∃ (s : State) (h : KHdr) (k : Nat) (x : Bool) (t : Nat), s.dev.on 15 = true ∧ forUs h { type := 9, cls := 1, dest := 0, src := 0 } s.dev = true) ∧
  (∃ (s : State) (h : KHdr) (lock : Bool) (fmt : Option Nat) (t : Nat), s.dev.on 15 = true ∧ forUs h { type := 10, cls := 1, dest := 0, src := 0 } s.dev = true) ∧
  (∃ (s : State) (h : KHdr) (l : List Member) (mc : MasterCfg) (uid : Nat) (tile : Nat) (g : Nat) (t : Nat), s.dev.on 15 = true ∧ forUs h { type := 10, cls := 1, dest := 0, src := 0 } s.dev = true) ∧
  (∃ (s : State) (h : KHdr) (st : Nat) (n : Nat) (t : Nat) (w : Who) (gid : Nat) (tile : Nat), s.dev.on 15 = true ∧ forUs h { type := 10, cls := 1, dest := 0, src := 0 } s.dev = true ∧ s.dev.krm.joining = some (w, gid, tile)) :=
  ⟨⟨{ dev := { pwr := { mode := .ready }, objs := [(0x1E00, [1])], krm := { port := { up := true } :: List.replicate 3 {} } } }, ({ port := 0, seq := 0, dest := 1, src := 2, crc := crcWords ((arrived { port := 0, seq := 0, dest := 1, src := 2 } { type := 6, cls := 0, dest := 0, src := 0 }).words) } : KHdr), { k := 1, tk := 0, pos := 0, vhat := 0, phase := 0, frameStart := false, frameEnd := false, abort := false }, 5, by decide +kernel⟩,
   ⟨{ dev := { pwr := { mode := .scan }, objs := [(0x1E00, [1])], krm := { member := true, master := 2, port := { up := true } :: List.replicate 3 {} } } }, ({ port := 0, seq := 0, dest := 1, src := 2, crc := crcWords ((arrived { port := 0, seq := 0, dest := 1, src := 2 } { type := 6, cls := 0, dest := 0, src := 0 }).words) } : KHdr), { k := 1, tk := 9000, pos := 0, vhat := 0, phase := 0, frameStart := false, frameEnd := false, abort := false }, 5, (followVhat { k := 1, tk := 9000, pos := 0, vhat := 0, phase := 0, frameStart := false, frameEnd := false, abort := false } (counted ({ port := 0, seq := 0, dest := 1, src := 2, crc := crcWords ((arrived { port := 0, seq := 0, dest := 1, src := 2 } { type := 6, cls := 0, dest := 0, src := 0 }).words) } : KHdr) { now := 5, pwr := { mode := .scan }, objs := [(0x1E00, [1])], krm := { member := true, master := 2, port := { up := true } :: List.replicate 3 {} } })), by decide +kernel⟩,
   ⟨{ dev := { pwr := { mode := .scan }, objs := [(0x1E00, [1])], krm := { member := true, master := 2, port := { up := true } :: List.replicate 3 {} } } }, ({ port := 0, seq := 0, dest := 1, src := 2, crc := crcWords ((arrived { port := 0, seq := 0, dest := 1, src := 2 } { type := 6, cls := 0, dest := 0, src := 0 }).words) } : KHdr), { k := 1, tk := 9000, pos := 0, vhat := 0, phase := 0, frameStart := false, frameEnd := false, abort := true }, 5, by decide +kernel⟩,
   ⟨{ dev := { pwr := { mode := .ready }, objs := [(0x1E00, [1]), (0x1900, [0xC000])], krm := { member := true, master := 2, port := { up := true } :: List.replicate 3 {} } } }, ({ port := 0, seq := 0, dest := 1, src := 2, crc := crcWords ((arrived { port := 0, seq := 0, dest := 1, src := 2 } { type := 7, cls := 0, dest := 0, src := 0 }).words) } : KHdr), 900, true, some 7, 5, by decide +kernel⟩,
   ⟨{ dev := { pwr := { mode := .ready }, krm := { port := { up := true } :: List.replicate 3 {} } } }, ({ port := 0, seq := 0, dest := 1, src := 2, crc := crcWords ((arrived { port := 0, seq := 0, dest := 1, src := 2 } { type := 8, cls := 1, dest := 0, src := 0 }).words) } : KHdr), 77, 2, 1, false, 5, by decide +kernel⟩,
   ⟨{ dev := { pwr := { mode := .ready }, objs := [(0x1E00, [1]), (0x1E01, [0x100, 0x20000]), (0x1800, [0x104])], krm := { member := true, port := { up := true } :: List.replicate 3 {} } } }, ({ port := 0, seq := 0, dest := 1, src := 2, crc := crcWords ((arrived { port := 0, seq := 0, dest := 1, src := 2 } { type := 9, cls := 1, dest := 0, src := 0 }).words) } : KHdr), 7, true, 5, by decide +kernel⟩,
   ⟨{ dev := { pwr := { mode := .ready }, objs := [(0x1E00, [1])], krm := { role := true, member := true, members := [{ addr := 2, tile := 1 }], port := { up := true } :: List.replicate 3 {} } } }, ({ port := 0, seq := 0, dest := 1, src := 2, crc := crcWords ((arrived { port := 0, seq := 0, dest := 1, src := 2 } { type := 10, cls := 1, dest := 0, src := 0 }).words) } : KHdr), true, some 1, 5, by decide +kernel⟩,
   ⟨{ dev := { pwr := { mode := .ready }, objs := [(0x1E00, [1])], krm := { member := true, master := 2, port := { up := true } :: List.replicate 3 {} } } }, ({ port := 0, seq := 0, dest := 1, src := 2, crc := crcWords ((arrived { port := 0, seq := 0, dest := 1, src := 2 } { type := 10, cls := 1, dest := 0, src := 0 }).words) } : KHdr), [{ addr := 1, tile := 0 }], { pitch := 1, phases := 1, frameLines := 0, origin := 0 }, 7, 3, 0, 5, by decide +kernel⟩,
   ⟨{ dev := { pwr := { mode := .ready }, objs := [(0x1E00, [1])], krm := { joining := some ({ mbx := 0, tag := 0, op := 0, sess := 0 }, 5, 1), port := { up := true } :: List.replicate 3 {} } } }, ({ port := 0, seq := 0, dest := 1, src := 2, crc := crcWords ((arrived { port := 0, seq := 0, dest := 1, src := 2 } { type := 10, cls := 1, dest := 0, src := 0 }).words) } : KHdr), 0, 0, 5, { mbx := 0, tag := 0, op := 0, sess := 0 }, 5, 1, by decide +kernel⟩⟩

/-- Values that meet the hypotheses of FabricLinks. -/
theorem witness_fabric_links :
  (∃ (s : State) (p : Fin 4) (t : Nat), s.dev.on 15 = true) ∧
  (∃ (s : State) (p : Fin 4) (t : Nat), powered s.dev = true ∧ s.dev.tap.phase ≠ .saving) ∧
  (∃ (s : State) (p : Fin 4) (l : Fin 5) (t : Nat), s.dev.on 15 = true ∧ (kport p.val s.dev).lanes.testBit l.val = false) ∧
  (∃ (s : State) (p : Fin 4) (l : Fin 5) (t : Nat) (e : Dev), s.dev.on 15 = true ∧ (kport p.val s.dev).lanes.testBit l.val = true ∧ e = updPort p.val (fun x => { x with lanes := setBit x.lanes l.val false, laneFault := setBit x.laneFault l.val true }) (s.dev.at_ t)) ∧
  (∃ (s : State) (p : Fin 4) (t : Nat), s.dev.on 15 = true) ∧
  (∃ (s : State) (p : Fin 4) (t : Nat), s.dev.on 15 = true) ∧
  (∃ (s : State) (c : MnrCmd) (up : Nat) (nb : List (Fin 4 × Nat × Nat × Fin 4)) (t : Taken), Starts Op.FAB_DISCOVER c s.dev t ∧ 0 < t.arg ∧ t.arg < 16) ∧
  (∃ (s : State) (c : MnrCmd) (up : Nat) (nb : List (Fin 4 × Nat × Nat × Fin 4)) (t : Taken), Starts Op.FAB_DISCOVER c s.dev t ∧ (t.arg = 0 ∨ 16 ≤ t.arg)) ∧
  (∃ (s : State) (c : MnrCmd) (ds : List Nat) (t : Taken), Starts Op.CAL_DELAY c s.dev t) :=
  ⟨⟨{ dev := { pwr := { mode := .ready }, objs := [(0x1E01, [1])] } }, 0, 5, by decide +kernel⟩,
   ⟨{ dev := { pwr := { mode := .ready }, objs := [(0x1E01, [1])] } }, 0, 5, by decide +kernel⟩,
   ⟨{ dev := { pwr := { mode := .ready }, krm := { port := { lanes := 30 } :: List.replicate 3 {} } } }, 0, 0, 5, by decide +kernel⟩,
   ⟨{ dev := { pwr := { mode := .ready }, krm := { port := { up := true } :: List.replicate 3 {} } } }, 0, 2, 5, (updPort 0 (fun x => { x with lanes := setBit x.lanes 2 false, laneFault := setBit x.laneFault 2 true }) { now := 5, pwr := { mode := .ready }, krm := { port := { up := true } :: List.replicate 3 {} } }), by decide +kernel⟩,
   ⟨{ dev := { pwr := { mode := .ready }, krm := { port := { up := true, replayCount := 7, replayBuf := [{ type := 2, cls := 1, dest := 1, src := 1, seq := 7 }] } :: List.replicate 3 {} } } }, 0, 5, by decide +kernel⟩,
   ⟨{ dev := { pwr := { mode := .ready }, krm := { port := { up := true, ackDue := true, rxExpected := 3 } :: List.replicate 3 {} } } }, 0, 5, by decide +kernel⟩,
   ⟨{ dev := { pwr := { mode := .ready }, mnr := { open_ := true }, objs := [(0x1E01, [1])] } }, { mbx := 0, tag := 0, arg := 1 }, 1, [(0, 77, 2, 1)], takenOf Op.FAB_DISCOVER { mbx := 0, tag := 0, arg := 1 } {}, by decide +kernel⟩,
   ⟨{ dev := { pwr := { mode := .ready }, mnr := { open_ := true } } }, { mbx := 0, tag := 0 }, 0, [], takenOf Op.FAB_DISCOVER { mbx := 0, tag := 0 } {}, by decide +kernel⟩,
   ⟨{ dev := { pwr := { mode := .ready }, mnr := { open_ := true }, krm := { port := { up := true } :: List.replicate 3 {} } } }, { mbx := 0, tag := 0 }, [500], takenOf Op.CAL_DELAY { mbx := 0, tag := 0 } {}, by decide +kernel⟩⟩

/-- Values that meet the hypotheses of FabricGroups. -/
theorem witness_fabric_groups :
  (∃ (s : State) (c : MnrCmd) (t : Taken), Starts Op.GROUP_JOIN c s.dev t ∧ t.arg < 32768 ∧ bit t.arg 8 = true ∧ nodeAddr (begun Op.GROUP_JOIN c s.dev) ≠ 0 ∧ (begun Op.GROUP_JOIN c s.dev).krm.member = false ∧ (begun Op.GROUP_JOIN c s.dev).krm.joining = none) ∧
  (∃ (s : State) (c : MnrCmd) (t : Taken), Starts Op.GROUP_JOIN c s.dev t ∧ t.arg < 32768 ∧ bit t.arg 8 = false ∧ nodeAddr (begun Op.GROUP_JOIN c s.dev) ≠ 0 ∧ (begun Op.GROUP_JOIN c s.dev).krm.member = false ∧ (begun Op.GROUP_JOIN c s.dev).krm.joining = none) ∧
  (∃ (s : State) (c : MnrCmd) (t : Taken), Starts Op.GROUP_JOIN c s.dev t ∧ (32768 ≤ t.arg ∨ nodeAddr (begun Op.GROUP_JOIN c s.dev) = 0 ∨ (begun Op.GROUP_JOIN c s.dev).krm.member = true ∨ (begun Op.GROUP_JOIN c s.dev).krm.joining.isSome = true)) ∧
  (∃ (s : State) (c : MnrCmd) (t : Taken), Starts Op.GROUP_LEAVE c s.dev t) ∧
  (∃ (d : Dev), d.krm.member = true) ∧
  (∃ (s : State) (t : Nat), s.dev.on 15 = true) ∧
  (∃ (s : State) (t : Nat), s.dev.on 15 = true ∧ s.dev.krm.member = false) ∧
  (∃ (s : State) (t : Nat) (e : Dev), s.dev.on 15 = true ∧ s.dev.krm.member = true ∧ s.dev.krm.role = true ∧ e = each s.dev.krm.joinReqs decideJoin ((s.dev.at_ t).uKrm fun k => { k with joinReqs := [] })) ∧
  (∃ (s : State) (t : Nat), s.dev.on 15 = true ∧ s.dev.krm.member = true ∧ s.dev.krm.role = false) ∧
  (∃ (s : State) (a : Fin 4096) (t : Nat), s.dev.on 15 = true) ∧
  (∃ (s : State) (t : Nat), s.dev.on 15 = true) ∧
  (∃ (s : State) (t1 : Nat) (t2 : Nat) (t3 : Nat) (t4 : Nat), s.dev.on 15 = true ∧ (follower s.dev = false ∨ s.dev.krm.master = 0 ∨ routePort s.dev.krm.master s.dev = none)) ∧
  (∃ (s : State) (t1 : Nat) (t2 : Nat) (t3 : Nat) (t4 : Nat) (p : Nat) (th : Int) (dl : Int) (h : Int), s.dev.on 15 = true ∧ follower s.dev = true ∧ s.dev.krm.master ≠ 0 ∧ routePort s.dev.krm.master s.dev = some p ∧ p < s.dev.krm.port.length ∧ dl = ((t4 : Int) - t1) - ((t3 : Int) - t2) ∧ th = ((t2 : Int) - t1) - ((t4 : Int) - t3) ∧ h = (if s.dev.krm.timeLock = false ∧ s.dev.inMode [.ready, .calibrate] = true then th * 125 / 2 else clampI (-2000) 2000 (th * 125 / 2))) ∧
  (∃ (s : State) (t : Nat), s.dev.on 15 = true) :=
  ⟨⟨{ dev := { pwr := { mode := .ready }, mnr := { open_ := true }, objs := [(0x1E00, [1])] } }, { mbx := 0, tag := 0, arg := 0x105 }, takenOf Op.GROUP_JOIN { mbx := 0, tag := 0, arg := 0x105 } {}, by decide +kernel⟩,
   ⟨{ dev := { pwr := { mode := .ready }, mnr := { open_ := true }, objs := [(0x1E00, [1])] } }, { mbx := 0, tag := 0, arg := 5 }, takenOf Op.GROUP_JOIN { mbx := 0, tag := 0, arg := 5 } {}, by decide +kernel⟩,
   ⟨{ dev := { pwr := { mode := .ready }, mnr := { open_ := true } } }, { mbx := 0, tag := 0 }, takenOf Op.GROUP_JOIN { mbx := 0, tag := 0 } {}, by decide +kernel⟩,
   ⟨{ dev := { pwr := { mode := .ready }, mnr := { open_ := true }, objs := [(0x1E00, [1])], krm := { member := true, role := true } } }, { mbx := 0, tag := 0 }, takenOf Op.GROUP_LEAVE { mbx := 0, tag := 0 } {}, by decide +kernel⟩,
   ⟨{ krm := { member := true } }, by decide +kernel⟩,
   ⟨{ dev := { pwr := { mode := .ready }, krm := { joining := some ({ mbx := 0, tag := 0, op := 0, sess := 0 }, 5, 1) } } }, 5, by decide +kernel⟩,
   ⟨{ dev := { pwr := { mode := .ready } } }, 5, by decide +kernel⟩,
   ⟨{ dev := { pwr := { mode := .ready }, krm := { member := true, role := true, joinReqs := [(2, 1, 77)] } } }, 5, (each [(2, 1, 77)] decideJoin { now := 5, pwr := { mode := .ready }, krm := { member := true, role := true } }), by decide +kernel⟩,
   ⟨{ dev := { pwr := { mode := .ready }, krm := { member := true, master := 2 } } }, 5, by decide +kernel⟩,
   ⟨{ dev := { pwr := { mode := .ready }, krm := { member := true, role := true, members := [{ addr := 2, tile := 1 }] } } }, 2, 5, by decide +kernel⟩,
   ⟨{ dev := { pwr := { mode := .scan }, krm := { member := true, master := 2, timeLock := true } } }, 5, by decide +kernel⟩,
   ⟨{ dev := { pwr := { mode := .ready } } }, 1, 2, 3, 4, by decide +kernel⟩,
   ⟨{ dev := { pwr := { mode := .ready }, objs := [(0x1E02, [0, 4])], krm := { member := true, master := 2, lockCount := 15, port := { up := true } :: List.replicate 3 {} } } }, 0, 100, 110, 210, 0, 0, 200, 0, by decide +kernel⟩,
   ⟨{ dev := { pwr := { mode := .ready }, objs := [(0x1801, [0x1001])], krm := { stitch := [{ k := 4, store := 0, present := 3, tiles := [(1, [[1], [2]])] }] } } }, 5, by decide +kernel⟩⟩
end

section
/-! SUPPORT. What reset leaves (O6): the sparse maps and tables of the reset device, read through the model's accessors. -/

namespace Sys2Proof.Proofs

open Sys2Proof Sys2Proof.Machine

/-- An empty sparse map reads its default at every key. -/
@[simp] theorem get_nil {α : Type} (d : α) (a : Nat) : Sparse.get d [] a = d := rfl

/-- A controller that lists no source state holds every source in its reset state (R419). -/
theorem src_of_st_nil {c : Ic} (h : c.st = []) (n : Nat) : c.src n = {} := by
  rw [Ic.src, h, get_nil]

/-- Every 2-bit field of the reset value of TAP_SENSE0 and TAP_SENSE1 holds 1 (Table 18.5). -/
theorem sense_word_pair (j : Nat) (h : j < 16) : bits 0x55555555 (2 * j + 1) (2 * j) = 1 := by
  have all : ∀ k : Fin 16, bits 0x55555555 (2 * k.val + 1) (2 * k.val) = 1 := by decide
  exact all ⟨j, h⟩

/-- With both SENSE words at their reset value, SENSE is 1 for every input, whichever of the two words holds it. -/
theorem tapSense_eq_one {d : Dev} (h0 : d.tap.sense0 = 0x55555555) (h1 : d.tap.sense1 = 0x55555555) (i : Nat) : tapSense i d = 1 := by
  have word : (if i < 16 then d.tap.sense0 else d.tap.sense1) = 0x55555555 := by
    split
    · exact h0
    · exact h1
  simp only [tapSense, word]
  exact sense_word_pair (i % 16) (Nat.mod_lt i (by decide))

/-- Memory that lists no byte is in canonical form, and every address reads 0 (assumption log 10). -/
theorem memory_of_nil {m : List Host.Cell} (h : m = []) : Memory.wf m = true ∧ ∀ a, Memory.read m a = 0 := by
  subst h
  exact ⟨rfl, fun a => get_nil 0#8 a⟩

/-- No ring and no completion queue of the reset host stream is enabled. -/
theorem reset_streams_disabled :
    State.reset.dev.hs.ring.all (fun r => !r.en) = true ∧ State.reset.dev.hs.cq.all (fun q => !q.en) = true :=
  ⟨List.all_replicate.trans rfl, List.all_replicate.trans rfl⟩

/-- No axis has a move after reset, and every bridge is off. -/
theorem reset_axes_idle : State.reset.dev.shu.ax.all (fun a => a.q.isEmpty && !a.bridge) = true :=
  List.all_replicate.trans rfl

/-- Settles O6: the single fields are those of the reset record; what ranges over sources, inputs, rings, queues, axes and addresses comes from the
lemmas above. -/
theorem resetState : Obligations.ResetState := by
  have noPending (n : Nat) : (State.reset.dev.ic.src n).pending = false := by
    rw [src_of_st_nil rfl]
  have senses (i : Nat) (_ : i < 32) : tapSense i State.reset.dev = 1 := tapSense_eq_one rfl rfl i
  obtain ⟨rings, queues⟩ := reset_streams_disabled
  obtain ⟨canonical, reads⟩ := memory_of_nil (m := State.reset.dev.hostMem) rfl
  exact ⟨⟨rfl, rfl, rfl, rfl, rfl, rfl, rfl, rfl, rfl, noPending, rfl, senses, rfl, rfl, rfl, rings, queues, reset_axes_idle⟩, canonical, reads⟩

end Sys2Proof.Proofs
end

section
/-! SUPPORT. Line starts (O32): the follower that starts a priming line, and what LINE_START records of it. -/

namespace Sys2Proof.Proofs

open Sys2Proof Sys2Proof.Machine Sys2Proof.Laws

/-- The master's LINE block of line 0, to start at T_k = 0. -/
def primingBlock : LineBlk := { k := 0, tk := 0, pos := 0, vhat := 0, phase := 0, frameStart := false, frameEnd := false, abort := false }

/-- A follower in the run-up of a restart with K_r = 2, whose master has scheduled line 0: that line primes (R269). -/
def primingFollower : State :=
  { dev := { pwr := { mode := .hold }, pace := { state := .runUp, kr := 2 }, krm := { member := true, sched := [primingBlock] } } }

/-- LINE_START acts on a device whose Spindle runs, at the row's instant. -/
theorem exec_lineStart (t : Nat) {s : State} (h : s.dev.on 7 = true) :
    exec (.lineStart t) s = .next { s with dev := lineStart t (s.dev.at_ t) } := event_on t _ h

/-- Two next states of one step have one device. -/
theorem next_dev {s : State} {a b : Dev} (h : (Host.Outcome.next { s with dev := a } : Host.Outcome State Fault Refusal) = .next { s with dev := b }) :
    b = a := by
  injection h with h
  exact (congrArg State.dev h).symm

/-- Line 0 of the follower primes: its record keeps the follower's own time, 100 ns at instant 1600, where the master's T_k is 0. -/
theorem primingFollower_lines :
    (lineStart 1600 (primingFollower.dev.at_ 1600)).lines.map (fun r => (r.k, r.priming, r.ts)) = [(0, true, 100)] := by decide +kernel

/-- Refutes O32: the record of a priming line that a follower starts holds the follower's own time. T_k replaces it only in lines that are
no priming lines (R269, R450). -/
theorem not_lineStarts : ¬ Obligations.LineStarts := by
  unfold Obligations.LineStarts
  rintro ⟨-, -, follows⟩
  obtain ⟨d, hd, -, -, -, -, record, -, -⟩ := follows primingFollower 1600 primingBlock [] (by decide +kernel)
  rw [exec_lineStart 1600 (by decide +kernel)] at hd
  have lines : d.lines.map (fun r => (r.k, r.priming, r.ts)) = [(0, true, 100)] := next_dev hd ▸ primingFollower_lines
  obtain ⟨r, hr, h⟩ := List.any_eq_true.mp record
  have h100 : (r.k, r.priming, r.ts) ∈ [(0, true, 100)] := lines ▸ List.mem_map_of_mem hr
  simp only [List.mem_singleton, Prod.mk.injEq] at h100
  simp [h100, primingBlock] at h

end Sys2Proof.Proofs
end

section
/-! SUPPORT. Template entries (O33): the entry that comes acts once and leaves its line, and what it does by its target (R22, R24, R25). -/

namespace Sys2Proof.Proofs

open Sys2Proof Sys2Proof.Machine Sys2Proof.Laws

/-! The entry that comes. -/

/-- The template of a line stays as the line's entries act (R31). -/
@[simp] theorem templateOf_entryDone (k j : Nat) (d : Dev) : templateOf k (entryDone j d) = templateOf k d := rfl

/-- An entry that acts as a row of a target has that target. -/
theorem entryActs_target {target t i u : Nat} {d : Dev} {l : LineProg} (h : entryActs target t i d l = some u) :
    Tpl.target (templateOf l.k d) i = target := by
  unfold entryActs at h
  split at h
  case isTrue hc => simp only [Bool.and_eq_true, beq_iff_eq] at hc; exact hc.2
  case isFalse => cases h

/-- The entry that comes as a row of a target has that target. -/
theorem entryComes_target {target t i u : Nat} {d : Dev} {l : LineProg} (h : entryComes target t i d = some (l, u)) :
    Tpl.target (templateOf l.k d) i = target := by
  obtain ⟨m, -, hm⟩ := List.exists_of_findSome?_eq_some h
  obtain ⟨v, hv, hlu⟩ := Option.map_eq_some_iff.mp hm
  cases hlu
  exact entryActs_target hv

/-- The entry that comes acts at its instant, and is gone from its line. -/
theorem templateEvent_of_comes {target t i u : Nat} {d : Dev} {l : LineProg} (h : entryComes target t i d = some (l, u)) :
    templateEvent target t i d = fireEntry l.k l.phase i u (entryDone l.k d) := by
  unfold entryComes at h
  simp only [templateEvent, h]

/-- Where no entry comes, a row changes nothing. -/
theorem templateEvent_of_none {target t i : Nat} {d : Dev} (h : entryComes target t i d = none) : templateEvent target t i d = d := by
  unfold entryComes at h
  simp only [templateEvent, h]

/-- Where no entry comes to any target, none comes to a target of Table 2.2. -/
theorem no_entryComes {t i n : Nat} {d : Dev} (h : (List.range 10).all (fun n => (entryComes n t i d).isNone) = true) (hn : n < 10) :
    entryComes n t i d = none := by
  simpa using List.all_eq_true.mp h n (List.mem_range.mpr hn)

/-! What an entry does, by its target (Table 2.2). -/

section
variable {k ph i u : Nat} {d : Dev}

theorem fireEntry_sdrvWave (h : Tpl.target (templateOf k d) i = 1) : fireEntry k ph i u d =
    if tableStarts (Tpl.arg (templateOf k d) i) d then armLinks 1 (Tpl.arg (templateOf k d) i) k u (Machine.sdrvWave (Tpl.arg (templateOf k d) i) k u d)
    else Machine.sdrvWave (Tpl.arg (templateOf k d) i) k u d := by simp only [fireEntry, h]

theorem fireEntry_convWindow (h : Tpl.target (templateOf k d) i = 2) :
    fireEntry k ph i u d = armWindow (Tpl.arg (templateOf k d) i) k u d := by simp only [fireEntry, h]

theorem fireEntry_inject (h : Tpl.target (templateOf k d) i = 3) :
    fireEntry k ph i u d = if d.runs 8 then injectEvent (Tpl.arg (templateOf k d) i) u d else d := by simp only [fireEntry, h]

theorem fireEntry_lampOn (h : Tpl.target (templateOf k d) i = 4) : fireEntry k ph i u d =
    if d.runs 13 then Machine.lampOn (Tpl.arg (templateOf k d) i) (offWith (templateOf k d) i ph) k u d else d := by simp only [fireEntry, h]

theorem fireEntry_lampOff (h : Tpl.target (templateOf k d) i = 5) :
    fireEntry k ph i u d = if d.runs 13 then Machine.lampOff (Tpl.arg (templateOf k d) i) u d else d := by simp only [fireEntry, h]

theorem fireEntry_lampDiagSlot (h : Tpl.target (templateOf k d) i = 6) :
    fireEntry k ph i u d = if d.runs 13 then Machine.lampDiagSlot (Tpl.arg (templateOf k d) i) u d else d := by simp only [fireEntry, h]

theorem fireEntry_tdiRow (h : Tpl.target (templateOf k d) i = 7) :
    fireEntry k ph i u d = if d.runs 10 then Machine.tdiRow k u d else d := by simp only [fireEntry, h]

theorem fireEntry_trigOut (h : Tpl.target (templateOf k d) i = 8) :
    fireEntry k ph i u d = Machine.trigOut (Tpl.arg (templateOf k d) i) u d := by simp only [fireEntry, h]

theorem fireEntry_fcPulse (h : Tpl.target (templateOf k d) i = 9) :
    fireEntry k ph i u d = Machine.fcPulse (Tpl.arg (templateOf k d) i) u d := by simp only [fireEntry, h]

end

/-! The rows. -/

section
variable {s : State} {i : Fin 4096} {t u : Nat} {l : LineProg} {target : Nat}

/-- A row of a target, on a device whose Spindle runs, does what its template event does at the row's instant. -/
theorem templateRow (h : s.dev.on 7 = true) :
    event (Dev.on 7) t (templateEvent target t i.val) s = .next { s with dev := templateEvent target t i.val (s.dev.at_ t) } := event_on t _ h

/-- A row whose entry comes leaves the device e that the entry leaves, given what an entry of the row's target does. -/
theorem templateRow_of_comes {e : Dev} (h : s.dev.on 7 = true ∧ entryComes target t i.val (s.dev.at_ t) = some (l, u))
    (he : Tpl.target (templateOf l.k (entryDone l.k (s.dev.at_ t))) i.val = target →
      fireEntry l.k l.phase i.val u (entryDone l.k (s.dev.at_ t)) = e) :
    event (Dev.on 7) t (templateEvent target t i.val) s = .next { s with dev := e } := by
  rw [templateRow h.1, templateEvent_of_comes h.2, he (by rw [templateOf_entryDone]; exact entryComes_target h.2)]

/-- A row whose entry does not come only lets time pass. -/
theorem templateRow_of_none (hr : s.dev.on 7 = true) (h : entryComes target t i.val (s.dev.at_ t) = none) :
    event (Dev.on 7) t (templateEvent target t i.val) s = .next { s with dev := s.dev.at_ t } := by
  rw [templateRow hr, templateEvent_of_none h]

end

/-- The object 0x1010 is SPN_TEMPLATE: an accepted write of it is staged, or goes live outside SCAN and HOLD (R30). -/
theorem writeEffect_template {c : MnrCmd} {t : Taken} {d : Dev} (h : t.arg % 65536 = 0x1010) :
    writeEffect c t d = finish t.who St.OK 0x1010 [] (stageOrSet 0x1010 [0, 0] (writtenWords c t d) d) := by
  unfold writeEffect
  rw [h]
  rfl

/-- Settles O33: a row acts through fireEntry on the entry that comes, and the target of that entry is the row's. -/
theorem templateEntriesFire : Obligations.TemplateEntriesFire := by
  unfold Obligations.TemplateEntriesFire
  refine ⟨
    fun s i t u l h => ⟨_, rfl, templateRow_of_comes h fireEntry_sdrvWave⟩,
    fun s i t u l h => ⟨_, rfl, templateRow_of_comes h fireEntry_convWindow⟩,
    fun s i t u l h => ⟨_, rfl, templateRow_of_comes h fireEntry_inject⟩,
    fun s i t u l h => ⟨_, rfl, templateRow_of_comes h fireEntry_lampOn⟩,
    fun s i t u l h => ⟨_, rfl, templateRow_of_comes h fireEntry_lampOff⟩,
    fun s i t u l h => ⟨_, rfl, templateRow_of_comes h fireEntry_lampDiagSlot⟩,
    fun s i t u l h => ⟨_, rfl, templateRow_of_comes h fireEntry_tdiRow⟩,
    fun s i t u l h => ⟨_, rfl, templateRow_of_comes h fireEntry_trigOut⟩,
    fun s i t u l h => ⟨_, rfl, templateRow_of_comes h fireEntry_fcPulse⟩, ?idle, ?write⟩
  case idle =>
    rintro s i t ⟨hr, hn⟩
    have none_of (n : Nat) (h : n < 10) := templateRow_of_none hr (no_entryComes hn h)
    exact ⟨none_of 1 (by decide), none_of 2 (by decide), none_of 3 (by decide), none_of 4 (by decide), none_of 5 (by decide), none_of 6 (by decide),
      none_of 7 (by decide), none_of 8 (by decide), none_of 9 (by decide)⟩
  case write =>
    rintro s c t ⟨ho, hid⟩ hs ha
    exact (namedWrite_accepted ho hs ha).trans (by rw [writeEffect_template hid])

end Sys2Proof.Proofs
end

section
/-! SUPPORT. What leaves Spindle's state (spn) alone: one lemma per operation that does not touch it. -/

namespace Sys2Proof.Proofs

open Sys2Proof Sys2Proof.Machine Sys2Proof.Laws

@[simp] theorem each_spn {α : Type} (f : α → Dev → Dev) (h : ∀ x d, (f x d).spn = d.spn) (l : List α) (d : Dev) :
    (each l f d).spn = d.spn := each_keeps (·.spn) f h l d

@[simp] theorem ite_spn (c : Prop) [Decidable c] (a b : Dev) : (if c then a else b).spn = if c then a.spn else b.spn :=
  apply_ite (·.spn) c a b

/-! Interrupts, messages and line records. -/

@[simp] theorem noteWake_spn (e : IcEv) (d : Dev) : (noteWake e d).spn = d.spn := by
  unfold noteWake; split <;> simp

@[simp] theorem icDo_spn (e : IcEv) (d : Dev) : (icDo e d).spn = d.spn := by simp [icDo]

@[simp] theorem raise_spn (n : Nat) (d : Dev) : (raise n d).spn = d.spn := by simp [raise]

@[simp] theorem finish_spn (w : Who) (status detail : Nat) (res : List Word) (d : Dev) : (finish w status detail res d).spn = d.spn := by
  simp [finish, pushOut]

@[simp] theorem finishOpt_spn (w : Option Who) (status detail : Nat) (res : List Word) (d : Dev) : (finish? w status detail res d).spn = d.spn := by
  cases w <;> simp [finish?]

@[simp] theorem postEvent_spn (code domain status source : Nat) (line : Option Nat) (detail : List Nat) (d : Dev) :
    (postEvent code domain status source line detail d).spn = d.spn := (rfl)

@[simp] theorem markLine_spn (k fl : Nat) (d : Dev) : (markLine k fl d).spn = d.spn := by simp [markLine, updStarted, updLine]

@[simp] theorem markLineOpt_spn (k : Option Nat) (fl : Nat) (d : Dev) : (markLine? k fl d).spn = d.spn := by cases k <;> simp [markLine?]

@[simp] theorem setObj_spn (id : Nat) (ws : List Word) (d : Dev) : (setObj id ws d).spn = d.spn := (rfl)

@[simp] theorem linesMissing_spn (f : Nat) (d : Dev) : (linesMissing f d).spn = d.spn := (rfl)

@[simp] theorem taprootInput_spn (i : Nat) (v : Bool) (d : Dev) : (taprootInput i v d).spn = d.spn := by simp [taprootInput, tapFire]

/-! Converter windows. -/

@[simp] theorem updCh_spn (c : Nat) (f : AcqCh → AcqCh) (d : Dev) : (updCh c f d).spn = d.spn := (rfl)

@[simp] theorem updChOpt_spn (c : Option Nat) (f : AcqCh → AcqCh) (d : Dev) : (updCh? c f d).spn = d.spn := by cases c <;> rfl

@[simp] theorem updChk_spn (k : Nat) (f : Checker → Checker) (d : Dev) : (updChk k f d).spn = d.spn := (rfl)

@[simp] theorem toHeddle_spn (x : Sample) (d : Dev) : (toHeddle x d).spn = d.spn := by simp [toHeddle]

@[simp] theorem substRest_spn (w : Window) (c : Nat) (d : Dev) : (substRest w c d).spn = d.spn := by
  unfold substRest; split <;> simp

@[simp] theorem armWindow_spn (i k t : Nat) (d : Dev) : (armWindow i k t d).spn = d.spn := by simp [armWindow, substAll]

@[simp] theorem strobeEdge_spn (s : Nat) (rising : Bool) (t : Nat) (d : Dev) : (strobeEdge s rising t d).spn = d.spn := (rfl)

@[simp] theorem endTally_spn (c k : Nat) (d : Dev) : (endTally c k d).spn = d.spn := by
  simp only [endTally]; split <;> simp

@[simp] theorem endCompare_spn (i k : Nat) (d : Dev) : (endCompare i k d).spn = d.spn := by
  unfold endCompare; split <;> simp

@[simp] theorem endLines_spn (n c : Nat) (d : Dev) : (endLines n c d).spn = d.spn := by simp [endLines]

@[simp] theorem endAllLines_spn (d : Dev) : (endAllLines d).spn = d.spn := by simp [endAllLines]

@[simp] theorem endMarks_spn (w : Window) (d : Dev) : (endMarks w d).spn = d.spn := by simp [endMarks]

@[simp] theorem abortWindows_spn (k : Nat) (d : Dev) : (abortWindows k d).spn = d.spn := by simp [abortWindows, dropWindow]

@[simp] theorem forgetLine_spn (k : Nat) (d : Dev) : (forgetLine k d).spn = d.spn := (rfl)

@[simp] theorem injectEvent_spn (c t : Nat) (d : Dev) : (injectEvent c t d).spn = d.spn := by simp [injectEvent]

/-! Link windows. -/

@[simp] theorem updLink_spn (l : Nat) (f : Link → Link) (d : Dev) : (updLink l f d).spn = d.spn := (rfl)

@[simp] theorem updLane_spn (l : Nat) (f : RawLane → RawLane) (d : Dev) : (updLane l f d).spn = d.spn := (rfl)

@[simp] theorem setArmed_spn (s : LinkSrc) (w : Option LinkWin) (d : Dev) : (setArmed s w d).spn = d.spn := by cases s <;> rfl

@[simp] theorem setOpened_spn (s : LinkSrc) (w : Option LinkWin) (d : Dev) : (setOpened s w d).spn = d.spn := by cases s <;> rfl

@[simp] theorem substLink_spn (s : LinkSrc) (w : LinkWin) (d : Dev) : (substLink s w d).spn = d.spn := by
  unfold substLink; split <;> simp

@[simp] theorem cutLinkWin_spn (s : LinkSrc) (w : LinkWin) (d : Dev) : (cutLinkWin s w d).spn = d.spn := by
  cases s <;> simp [cutLinkWin]

@[simp] theorem cutOpened_spn (s : LinkSrc) (d : Dev) : (cutOpened s d).spn = d.spn := by
  unfold cutOpened; split <;> simp

@[simp] theorem loseAlign_spn (p : Fin 32) (d : Dev) : (loseAlign p d).spn = d.spn := by
  unfold loseAlign; simp only []; split <;> simp

@[simp] theorem missLinkWin_spn (s : LinkSrc) (w : LinkWin) (d : Dev) : (missLinkWin s w d).spn = d.spn := by
  cases s with
  | link l => simp [missLinkWin]
  | lane p => simp only [missLinkWin]; split <;> simp

@[simp] theorem armLink_spn (k t : Nat) (s : LinkSrc) (d : Dev) : (armLink k t s d).spn = d.spn := by
  simp only [armLink]; split <;> simp

@[simp] theorem armLinks_spn (trig tbl k t : Nat) (d : Dev) : (armLinks trig tbl k t d).spn = d.spn := by simp [armLinks]

@[simp] theorem abortLinkWindows_spn (k : Nat) (d : Dev) : (abortLinkWindows k d).spn = d.spn := (rfl)

/-! Lamps. -/

@[simp] theorem updStr_spn (s : Nat) (f : LampStr → LampStr) (d : Dev) : (updStr s f d).spn = d.spn := (rfl)

@[simp] theorem settlePulse_spn (s t : Nat) (d : Dev) : (settlePulse s t d).spn = d.spn := by simp [settlePulse]

@[simp] theorem extStrobe_spn (t : Nat) (d : Dev) : (extStrobe t d).spn = d.spn := by simp [extStrobe]

@[simp] theorem headroomEnd_spn (s : Nat) (d : Dev) : (headroomEnd s d).spn = d.spn := by simp [headroomEnd]

@[simp] theorem refreshGate_spn (s t : Nat) (d : Dev) : (refreshGate s t d).spn = d.spn := by simp [refreshGate]

@[simp] theorem startStrobe_spn (s k p t : Nat) (d : Dev) : (startStrobe s k p t d).spn = d.spn := by simp [startStrobe]

@[simp] theorem endStrobe_spn (s t : Nat) (d : Dev) : (endStrobe s t d).spn = d.spn := by simp [endStrobe]

@[simp] theorem lampOn1_spn (k t s : Nat) (d : Dev) : (lampOn1 k t s d).spn = d.spn := by
  simp only [lampOn1]; (repeat' split) <;> simp

@[simp] theorem lampOff1_spn (t s : Nat) (d : Dev) : (lampOff1 t s d).spn = d.spn := by
  unfold lampOff1; split <;> simp

@[simp] theorem lampOn_spn (mask off k t : Nat) (d : Dev) : (lampOn mask off k t d).spn = d.spn := by simp [lampOn]

@[simp] theorem lampOff_spn (mask t : Nat) (d : Dev) : (lampOff mask t d).spn = d.spn := by simp [lampOff]

@[simp] theorem lampsOff_spn (d : Dev) : (lampsOff d).spn = d.spn := by simp [lampsOff]

@[simp] theorem diagSlot1_spn (len t s : Nat) (d : Dev) : (diagSlot1 len t s d).spn = d.spn := by simp [diagSlot1]

@[simp] theorem lampDiagSlot_spn (len t : Nat) (d : Dev) : (lampDiagSlot len t d).spn = d.spn := by simp [lampDiagSlot]

/-! Sensor drive, TDI and Heddle. -/

@[simp] theorem restartIdle_spn (d : Dev) : (restartIdle d).spn = d.spn := (rfl)

@[simp] theorem applyDueCtl_spn (d : Dev) : (applyDueCtl d).spn = d.spn := by simp [applyDueCtl, setCtl]

@[simp] theorem freeEngine_spn (i : Nat) (e : Engine) (d : Dev) : (freeEngine i e d).spn = d.spn := by simp [freeEngine]

@[simp] theorem stopEngine_spn (i : Nat) (e : Engine) (d : Dev) : (stopEngine i e d).spn = d.spn := by
  unfold stopEngine; split <;> simp

@[simp] theorem startTable_spn (tbl : Nat) (line : Option Nat) (t : Nat) (d : Dev) : (startTable tbl line t d).spn = d.spn := by
  simp only [startTable]; (repeat' split) <;> simp

@[simp] theorem sdrvWave_spn (tbl k t : Nat) (d : Dev) : (sdrvWave tbl k t d).spn = d.spn := by simp [sdrvWave]

@[simp] theorem tablesEnded_spn (d : Dev) : (tablesEnded d).spn = d.spn := by simp [tablesEnded, outputsIdle, outputsSafe]

@[simp] theorem tdiRow_spn (k t : Nat) (d : Dev) : (tdiRow k t d).spn = d.spn := by simp [tdiRow]

@[simp] theorem tdiHold_spn (d : Dev) : (tdiHold d).spn = d.spn := by simp [tdiHold]

@[simp] theorem hdlFixResume_spn (d : Dev) : (hdlFixResume d).spn = d.spn := by simp [hdlFixResume, drainEnd]

/-! Axes. -/

@[simp] theorem updAxis_spn (n : Nat) (f : Axis → Axis) (d : Dev) : (updAxis n f d).spn = d.spn := (rfl)

@[simp] theorem brakeAxis_spn (a : Nat) (d : Dev) : (brakeAxis a d).spn = d.spn := by
  unfold brakeAxis; split <;> simp

@[simp] theorem endMove_spn (n : Nat) (m : Move) (status : Nat) (d : Dev) : (endMove n m status d).spn = d.spn := by
  simp only [endMove]; split <;> simp

@[simp] theorem endLinear_spn (l status : Nat) (d : Dev) : (endLinear l status d).spn = d.spn := by
  unfold endLinear; split <;> simp

@[simp] theorem dropQueue_spn (n status : Nat) (keepActive : Bool) (d : Dev) : (dropQueue n status keepActive d).spn = d.spn := by
  simp only [dropQueue]
  rw [each_spn]
  · simp
  · intro m d; split <;> simp

@[simp] theorem emptied_spn (n : Nat) (b : Axis) (d : Dev) : (emptied n b d).spn = d.spn := by simp [emptied]

@[simp] theorem stopAllAxes_spn (d : Dev) : (stopAllAxes d).spn = d.spn := by
  simp [stopAllAxes, stopAxis, stopWith, dropMoves, holdCurrentAtRest, reduceCurrent]

/-! Changes of mode, stops and faults. -/

@[simp] theorem refreshPins_spn (d : Dev) : (refreshPins d).spn = d.spn := (rfl)

/-- A change of mode leaves Spindle's state alone; only SCAN starts the intervals of v̂ afresh (R16). -/
theorem setMode_spn {m : Mode} (h : m ≠ .scan) (d : Dev) : (setMode m d).spn = d.spn := by simp [setMode, h]

@[simp] theorem paceStop_spn (cause : Nat) (d : Dev) : (paceStop cause d).spn = d.spn := by simp [paceStop, setMode_spn]

@[simp] theorem calAbort_spn (d : Dev) : (calAbort d).spn = d.spn := by
  unfold calAbort; split <;> simp

@[simp] theorem dropTrans_spn (d : Dev) : (dropTrans d).spn = d.spn := by
  simp only [dropTrans]; split <;> simp

@[simp] theorem paceDiscard_spn (d : Dev) : (paceDiscard d).spn = d.spn := (rfl)

@[simp] theorem enterSafe_spn (cls : Option Nat) (who : Option Who) (d : Dev) : (enterSafe cls who d).spn = d.spn := by
  unfold enterSafe
  split
  · extract_lets from_ d1 d2 d3 d4 d5 d6 d7 d8 d9 d10
    have h3 : d3.spn = d.spn := by simp [d3, d2, d1]
    have h6 : d6.spn = d.spn := by simp [d6, d5, d4, setMode_spn, h3]
    have h7 : d7.spn = d6.spn := by simp only [d7]; split <;> simp
    have h9 : d9.spn = d7.spn := by simp [d9, d8]
    simp [d10, h9, h7, h6]
  · rfl

@[simp] theorem faultRaise_spn (c source : Nat) (line : Option Nat) (status : Nat) (d : Dev) : (faultRaise c source line status d).spn = d.spn := by
  simp only [faultRaise]; split <;> simp

@[simp] theorem paceSourceFault_spn (first : Nat) (d : Dev) : (paceSourceFault first d).spn = d.spn := by simp [paceSourceFault, abandonRunUp]

/-! The fabric. -/

@[simp] theorem sendOn_spn (p : Nat) (b : KBlock) (d : Dev) : (sendOn p b d).spn = d.spn := by simp [sendOn, updPort]

@[simp] theorem sendLineBlock_spn (k : Nat) (pos : Int) (t : Nat) (abort : Bool) (d : Dev) : (sendLineBlock k pos t abort d).spn = d.spn := by
  simp [sendLineBlock, broadcast, sendMask]

end Sys2Proof.Proofs
end

section
/-! SUPPORT. Encoder ports (O31): what Taproot and the interrupt controller leave alone, the ports, and the edges that a pair takes. -/

namespace Sys2Proof.Proofs

open Sys2Proof Sys2Proof.Machine Sys2Proof.Laws

/-! What an edge of the interrupt controller and Taproot leaves of the rest. -/

/-- A quantity that reads neither Taproot nor the interrupt controller stays over an interrupt event. -/
theorem icDo_keeps {α : Type} (p : Dev → α) (h : ∀ x y d, p { d with tap := x, ic := y } = p d) (e : IcEv) (d : Dev) : p (icDo e d) = p d := by
  have cycled : p (d.uIc (Ic.cycle d.now e)) = p d := h d.tap _ d
  unfold icDo noteWake
  split
  · split
    · exact h _ (Ic.cycle d.now _ d.ic) d
    · exact cycled
  · exact cycled

/-- A quantity that reads neither Taproot nor the interrupt controller stays as an interrupt is raised. -/
theorem raise_keeps {α : Type} (p : Dev → α) (h : ∀ x y d, p { d with tap := x, ic := y } = p d) (n : Nat) (d : Dev) : p (raise n d) = p d :=
  (icDo_keeps p h _ _).trans (icDo_keeps p h _ _)

/-- A quantity that reads neither Taproot nor the interrupt controller stays as a Taproot input takes a level. -/
theorem taprootInput_keeps {α : Type} (p : Dev → α) (h : ∀ x y d, p { d with tap := x, ic := y } = p d) (i : Nat) (v : Bool) (d : Dev) :
    p (taprootInput i v d) = p d := by
  have tapOnly (f : Tap → Tap) (d : Dev) : p (d.uTap f) = p d := h _ d.ic d
  have fires (d : Dev) : p (tapFire i d) = p d := by
    unfold tapFire; split
    · exact tapOnly _ d
    · rfl
  unfold taprootInput
  extract_lets old sense d1 d2
  have h2 : p d2 = p d := by
    simp only [d2]; split
    · exact tapOnly _ d
    · exact (icDo_keeps p h _ _).trans (tapOnly _ d)
  split
  · exact (fires d2).trans h2
  · exact h2

/-- A quantity that reads neither Taproot nor the interrupt controller stays over a pulse of a Taproot input. -/
theorem tapPulse_keeps {α : Type} (p : Dev → α) (h : ∀ x y d, p { d with tap := x, ic := y } = p d) (i : Nat) (d : Dev) : p (tapPulse i d) = p d :=
  (taprootInput_keeps p h _ _ _).trans (taprootInput_keeps p h _ _ _)

@[simp] theorem tapPulse_spn (i : Nat) (d : Dev) : (tapPulse i d).spn = d.spn := by simp [tapPulse]

@[simp] theorem portRuns_tapPulse (n type i : Nat) (d : Dev) : portRuns n type (tapPulse i d) = portRuns n type d :=
  tapPulse_keeps (portRuns n type) (fun _ _ _ => rfl) i d

@[simp] theorem srcPort_tapPulse (i : Nat) (d : Dev) : srcPort (tapPulse i d) = srcPort d := tapPulse_keeps srcPort (fun _ _ _ => rfl) i d

@[simp] theorem srcPort_raise (n : Nat) (d : Dev) : srcPort (raise n d) = srcPort d := raise_keeps srcPort (fun _ _ _ => rfl) n d

@[simp] theorem srcPort_uSpn (f : Spn → Spn) (d : Dev) : srcPort (d.uSpn f) = srcPort d := rfl

@[simp] theorem srcPort_at (t : Nat) (d : Dev) : srcPort (d.at_ t) = srcPort d := rfl

@[simp] theorem portRuns_uSpn (n type : Nat) (f : Spn → Spn) (d : Dev) : portRuns n type (d.uSpn f) = portRuns n type d := rfl

@[simp] theorem portRuns_at (n type t : Nat) (d : Dev) : portRuns n type (d.at_ t) = portRuns n type d := rfl

@[simp] theorem at_at (t : Nat) (d : Dev) : (d.at_ t).at_ t = d.at_ t := by simp [Dev.at_]

@[simp] theorem noteWake_phase (e : IcEv) (d : Dev) : (noteWake e d).tap.phase = d.tap.phase := by
  unfold noteWake
  split
  · split <;> rfl
  · rfl

@[simp] theorem icDo_phase (e : IcEv) (d : Dev) : (icDo e d).tap.phase = d.tap.phase := by simp [icDo]

@[simp] theorem raise_phase (n : Nat) (d : Dev) : (raise n d).tap.phase = d.tap.phase := by simp [raise]

@[simp] theorem taprootInput_phase (i : Nat) (v : Bool) (d : Dev) : (taprootInput i v d).tap.phase = d.tap.phase := by
  have fires (d : Dev) : (tapFire i d).tap.phase = d.tap.phase := by unfold tapFire; split <;> rfl
  simp only [taprootInput]
  (repeat' split) <;> simp [fires]

@[simp] theorem tapPulse_phase (i : Nat) (d : Dev) : (tapPulse i d).tap.phase = d.tap.phase := by simp [tapPulse]

/-! The test of a sleep's save (R432). -/

/-- Outside the save of a sleep an event is not tested for a wake source. -/
theorem sleepTest_of_not_saving {f : Dev → Dev} {d : Dev} (h : (f d).tap.phase ≠ .saving) : sleepTest f d = f d := by
  simp [sleepTest, h]

/-- The test leaves Spindle as the event left it. -/
@[simp] theorem sleepTest_spn (f : Dev → Dev) (d : Dev) : (sleepTest f d).spn = (f d).spn := by simp [sleepTest, sleepAborted]

/-! Ports. -/

/-- Spindle's domain runs where one of its ports does. -/
theorem portRuns_on {n type : Nat} {d : Dev} (h : portRuns n type d = true) : d.on 7 = true := by
  simp only [portRuns, Bool.and_eq_true] at h
  simp [Dev.on, h.1]

/-- Item n of a list after it is replaced, or the default beyond the list's end. -/
theorem at'_put {α : Type} (l : List α) (n : Nat) (v d : α) : at' (put l n v) n d = if n < l.length then v else d := by
  induction l generalizing n with
  | nil => simp [at', put, upd]
  | cons x xs ih =>
    cases n with
    | zero => simp [at', put, upd]
    | succ n => simpa [at', put, upd] using ih n

/-- A change far from every earlier one passes the filter. -/
theorem cannotPass_of_farFrom {n t : Nat} {d : Dev} (h : farFrom n t d = true) (chA chB : Bool) : cannotPass n chA chB t d = false := by
  simp only [farFrom, Bool.and_eq_true, Bool.not_eq_true'] at h
  simp [cannotPass, h]

/-- A fault of a port that is not the scan source touches the port alone. -/
theorem encFault_of_other {n : Nat} {d : Dev} (h : srcPort d ≠ some n) : encFault n d = portFault n d := by
  simp [encFault, portFault, h]

/-- A port that is not the scan source takes a count. -/
theorem portCount_of_other {n t : Nat} {c : Int} {d : Dev} (h : srcPort d ≠ some n) :
    portCount n c t d = d.uSpn fun s => { s with cnt := put s.cnt n c } := by
  simp [portCount, h]

/-! Edges (R13). -/

@[simp] theorem cannotPass_tapPulse (n i t : Nat) (chA chB : Bool) (d : Dev) : cannotPass n chA chB t (tapPulse i d) = cannotPass n chA chB t d :=
  tapPulse_keeps (cannotPass n chA chB t) (fun _ _ _ => rfl) i d

/-- The device once Taproot has seen an edge of port n and the pair's new levels are taken. -/
def edgeSeen (n : Nat) (a b : Bool) (t : Nat) (d : Dev) : Dev := pinsTake n a b t (tapPulse (6 + n) (d.at_ t))

@[simp] theorem cntOf_edgeSeen (n m : Nat) (a b : Bool) (t : Nat) (d : Dev) : cntOf m (edgeSeen n a b t d) = cntOf m d := by
  simp [cntOf, edgeSeen, pinsTake]

@[simp] theorem zOfsOf_edgeSeen (n m : Nat) (a b : Bool) (t : Nat) (d : Dev) : zOfsOf m (edgeSeen n a b t d) = zOfsOf m d := by
  simp [zOfsOf, edgeSeen, pinsTake]

@[simp] theorem srcPort_edgeSeen (n : Nat) (a b : Bool) (t : Nat) (d : Dev) : srcPort (edgeSeen n a b t d) = srcPort d := by
  simp [edgeSeen, pinsTake]

/-- What an incremental port makes of the levels that its pair takes on device d; e: the device with the levels taken. -/
def edgeTaken (n : Nat) (a b : Bool) (t : Nat) (d e : Dev) : Dev :=
  let old := at' d.spn.pins n (false, false)
  let was := at' d.spn.pinAt n (none, none)
  match quadStep old (a, b) with
  | none => encFault n e
  | some k =>
    if k = 0 then e
    else if (old.1 != a && withinFilter n was.2 t d) || (old.2 != b && withinFilter n was.1 t d) then encFault n e
    else
      let c := portCount n (cntOf n d + k) t e
      if srcPort c = some n then lsEdge t c else c

section
variable {n t : Nat} {a b : Bool} {d : Dev}

/-- Outside RESET an edge within FILTER of the last one of its conductor is no edge; Taproot alone sees it (assumption log 105). -/
theorem encEdge_of_cannotPass (hm : d.pwr.mode ≠ .reset) (hr : portRuns n 1 d = true)
    (hc : cannotPass n ((at' d.spn.pins n (false, false)).1 != a) ((at' d.spn.pins n (false, false)).2 != b) t d = true) :
    encEdge n a b t d = tapPulse (6 + n) (d.at_ t) := by
  have hc' : cannotPass n ((at' d.spn.pins n (false, false)).1 != a) ((at' d.spn.pins n (false, false)).2 != b) t (d.at_ t) = true := hc
  simp [encEdge, hm, hr, hc']

/-- Outside RESET a port that runs takes an edge that passes the filter. -/
theorem encEdge_of_passed (hm : d.pwr.mode ≠ .reset) (hr : portRuns n 1 d = true)
    (hc : cannotPass n ((at' d.spn.pins n (false, false)).1 != a) ((at' d.spn.pins n (false, false)).2 != b) t d = false) :
    encEdge n a b t d = edgeTaken n a b t d (edgeSeen n a b t d) := by
  have hc' : cannotPass n ((at' d.spn.pins n (false, false)).1 != a) ((at' d.spn.pins n (false, false)).2 != b) t (d.at_ t) = false := hc
  unfold encEdge
  rw [if_neg hm]
  extract_lets e old was chA chB seen
  have hseen : seen = edgeSeen n a b t d := rfl
  have hold : old = at' d.spn.pins n (false, false) := by simp [old, e]
  have hwas : was = at' d.spn.pinAt n (none, none) := by simp [was, e]
  have hpass : cannotPass n chA chB t e = false := by simp [chA, chB, hold, e, hc']
  have hruns : portRuns n 1 seen = true := by simp [seen, e, hr]
  have hfilter (x : Option Nat) : withinFilter n x t seen = withinFilter n x t d := tapPulse_keeps (withinFilter n x t) (fun _ _ _ => rfl) _ _
  rw [hpass, Bool.and_false, if_neg Bool.false_ne_true, hruns, if_pos rfl]
  simp only [hfilter, hold, hwas, chA, chB]
  clear_value seen
  subst hseen
  simp only [cntOf_edgeSeen]
  rfl

/-- Outside RESET a port that does not run as an incremental one counts nothing; its pair's levels are taken. -/
theorem encEdge_of_off (hm : d.pwr.mode ≠ .reset) (hr : portRuns n 1 d = false) : encEdge n a b t d = edgeSeen n a b t d := by
  unfold encEdge
  rw [if_neg hm]
  extract_lets e old was chA chB seen
  have hruns : portRuns n 1 seen = false := by simp [seen, e, hr]
  simp only [hruns, e, portRuns_tapPulse, portRuns_at, hr, Bool.false_and, Bool.false_eq_true, if_false]
  rfl

end

end Sys2Proof.Proofs
end

section
/-! SUPPORT. Encoder ports (O31): the moves of the scan source. -/

namespace Sys2Proof.Proofs

open Sys2Proof Sys2Proof.Machine Sys2Proof.Laws

/-! What the moves of the scan source leave of P and the counts of the ports. -/

/-- No template entry moves P or a count. -/
@[simp] theorem fireEntry_counts (k ph i t : Nat) (d : Dev) :
    (fireEntry k ph i t d).spn.p = d.spn.p ∧ (fireEntry k ph i t d).spn.cnt = d.spn.cnt := by
  simp only [fireEntry]
  split <;> simp [trigOut, fcPulse]

/-- Entries that fire together move neither P nor a count. -/
@[simp] theorem each_fireEntry_counts (l : List Nat) (k ph t : Nat) (d : Dev) :
    (each l (fun i d => fireEntry k ph i t d) d).spn.p = d.spn.p ∧ (each l (fun i d => fireEntry k ph i t d) d).spn.cnt = d.spn.cnt :=
  ⟨each_keeps (·.spn.p) _ (fun i d => (fireEntry_counts k ph i t d).1) l d, each_keeps (·.spn.cnt) _ (fun i d => (fireEntry_counts k ph i t d).2) l d⟩

/-- The abort of a line moves neither P nor a count (R20). -/
@[simp] theorem abortLine_counts (t : Nat) (d : Dev) : (abortLine t d).spn.p = d.spn.p ∧ (abortLine t d).spn.cnt = d.spn.cnt := by
  unfold abortLine
  split
  · exact ⟨rfl, rfl⟩
  · split
    · exact ⟨rfl, rfl⟩
    · extract_lets d1 d2 pr rec' d3 d4 d5 d6 d7 d8 d9
      have h2 : d2.spn.p = d.spn.p ∧ d2.spn.cnt = d.spn.cnt := by simp [d2, d1]
      have h6 : d6.spn = d2.spn := by simp [d6, d5, d4, d3]
      have h7 : d7.spn = d2.spn := by
        clear_value rec'
        cases rec' <;> simp [d7, h6]
      have h8 : d8.spn = d2.spn := by
        simp only [d8]; split <;> simp [h7]
      simp [d9, h8, h2]

/-- A declared reversal moves neither P nor a count (R20). -/
@[simp] theorem declareReversal_counts (t : Nat) (d : Dev) :
    (declareReversal t d).spn.p = d.spn.p ∧ (declareReversal t d).spn.cnt = d.spn.cnt := by
  simp [declareReversal, freshVel]

/-- What follows a move of the source leaves P and the counts as the move set them. -/
@[simp] theorem sourceMoved_counts (t : Nat) (d : Dev) : (sourceMoved t d).spn.p = d.spn.p ∧ (sourceMoved t d).spn.cnt = d.spn.cnt := by
  unfold sourceMoved
  split
  · exact ⟨rfl, rfl⟩
  · extract_lets o d1 d2 x d3 d4
    have h2 : d2.spn.p = d.spn.p ∧ d2.spn.cnt = d.spn.cnt := by
      simp only [d2, d1]; split <;> simp
    have h3 : d3.spn.p = d.spn.p ∧ d3.spn.cnt = d.spn.cnt := by
      simp only [d3]; split <;> simp [h2]
    have h4 : d4.spn.p = d.spn.p ∧ d4.spn.cnt = d.spn.cnt := by
      simp only [d4]; (repeat' split) <;> simp [h3]
    (repeat' split) <;> simp [h4]

@[simp] theorem linePredicted_spn (t : Nat) (d : Dev) : (linePredicted t d).spn = d.spn := by
  simp only [linePredicted]
  (repeat' split) <;> simp

/-- The fast compare path moves neither P nor a count (R26). -/
@[simp] theorem lsEdge_counts (t : Nat) (d : Dev) : (lsEdge t d).spn.p = d.spn.p ∧ (lsEdge t d).spn.cnt = d.spn.cnt := by
  unfold lsEdge
  (repeat' split) <;> simp

/-- A count of the scan source moves P to 256 times it with the port's offset (R12, R16). -/
theorem portCount_of_source {n t : Nat} {c : Int} {d : Dev} (h : srcPort d = some n) :
    (portCount n c t d).spn.p = 256 * c + zOfsOf n d ∧ (portCount n c t d).spn.cnt = put d.spn.cnt n c := by
  simp [portCount, h, sourceCount, zOfsOf]

end Sys2Proof.Proofs
end

section
/-! SUPPORT. Encoder ports (O31): edges, faults, SSI frames and Z pulses of a port. -/

namespace Sys2Proof.Proofs

open Sys2Proof Sys2Proof.Machine Sys2Proof.Laws

/-! An edge that a running port takes (R13). -/

section
variable {n t : Nat} {a b : Bool} {d : Dev}

/-- A legal edge moves the count by its step. -/
theorem edgeTaken_of_step {k : Int} (hk : quadStep (at' d.spn.pins n (false, false)) (a, b) = some k) (h0 : k ≠ 0) (hf : farFrom n t d = true) (e : Dev) :
    edgeTaken n a b t d e = if srcPort (portCount n (cntOf n d + k) t e) = some n then lsEdge t (portCount n (cntOf n d + k) t e)
      else portCount n (cntOf n d + k) t e := by
  simp only [farFrom, Bool.and_eq_true, Bool.not_eq_true'] at hf
  simp [edgeTaken, hk, h0, hf]

/-- A change of both conductors is a fault (R13). -/
theorem edgeTaken_of_both (hk : quadStep (at' d.spn.pins n (false, false)) (a, b) = none) (e : Dev) : edgeTaken n a b t d e = encFault n e := by
  simp [edgeTaken, hk]

/-- A change of A within FILTER of one of B is a fault (R13). -/
theorem edgeTaken_of_A_near_B (ha : (at' d.spn.pins n (false, false)).1 ≠ a) (hb : (at' d.spn.pins n (false, false)).2 = b)
    (hw : withinFilter n (at' d.spn.pinAt n (none, none)).2 t d = true) (e : Dev) : edgeTaken n a b t d e = encFault n e := by
  have hA : ((at' d.spn.pins n (false, false)).1 != a) = true := by simpa using ha
  have hB : ((at' d.spn.pins n (false, false)).2 != b) = false := by simpa using hb
  simp only [edgeTaken, quadStep, hA, hB, hw]
  split <;> simp

/-- A change of B within FILTER of one of A is a fault (R13). -/
theorem edgeTaken_of_B_near_A (ha : (at' d.spn.pins n (false, false)).1 = a) (hb : (at' d.spn.pins n (false, false)).2 ≠ b)
    (hw : withinFilter n (at' d.spn.pinAt n (none, none)).1 t d = true) (e : Dev) : edgeTaken n a b t d e = encFault n e := by
  have hA : ((at' d.spn.pins n (false, false)).1 != a) = false := by simpa using ha
  have hB : ((at' d.spn.pins n (false, false)).2 != b) = true := by simpa using hb
  simp only [edgeTaken, quadStep, hA, hB, hw]
  split <;> simp

/-- A legal edge of a port that is not the scan source moves its count by the step, and nothing else. -/
theorem encEdge_of_other {k : Int} (hm : d.pwr.mode ≠ .reset) (hr : portRuns n 1 d = true) (hs : srcPort d ≠ some n)
    (hk : quadStep (at' d.spn.pins n (false, false)) (a, b) = some k) (h0 : k ≠ 0) (hf : farFrom n t d = true) :
    encEdge n a b t d = (edgeSeen n a b t d).uSpn fun x => { x with cnt := put x.cnt n (cntOf n d + k) } := by
  rw [encEdge_of_passed hm hr (cannotPass_of_farFrom hf _ _), edgeTaken_of_step hk h0 hf, portCount_of_other (by simpa using hs),
    if_neg (by simpa using hs)]

/-- A change of both conductors, or of one within FILTER of the other, is a fault of a port that is not the scan source. -/
theorem encEdge_of_illegal {u : Nat} (hm : d.pwr.mode ≠ .reset) (hr : portRuns n 1 d = true) (hs : srcPort d ≠ some n)
    (near : withinFilter n (some u) t d = true)
    (illegal : (quadStep (at' d.spn.pins n (false, false)) (a, b) = none ∧ farFrom n t d = true) ∨
      ((at' d.spn.pins n (false, false)).1 ≠ a ∧ (at' d.spn.pins n (false, false)).2 = b ∧ at' d.spn.pinAt n (none, none) = (none, some u)) ∨
      ((at' d.spn.pins n (false, false)).1 = a ∧ (at' d.spn.pins n (false, false)).2 ≠ b ∧ at' d.spn.pinAt n (none, none) = (some u, none))) :
    encEdge n a b t d = portFault n (edgeSeen n a b t d) := by
  rw [← encFault_of_other (d := edgeSeen n a b t d) (by simpa using hs)]
  obtain ⟨both, hf⟩ | ⟨ha, hb, hat⟩ | ⟨ha, hb, hat⟩ := illegal
  · rw [encEdge_of_passed hm hr (cannotPass_of_farFrom hf _ _), edgeTaken_of_both both]
  · rw [encEdge_of_passed hm hr (by simp [cannotPass, hat, hb, withinFilter]), edgeTaken_of_A_near_B ha hb (by simpa [hat] using near)]
  · rw [encEdge_of_passed hm hr (by simp [cannotPass, hat, ha, withinFilter]), edgeTaken_of_B_near_A ha hb (by simpa [hat] using near)]

/-- A legal edge of the scan source moves its count by the step, and P with it. -/
theorem encEdge_of_source {k : Int} (hm : d.pwr.mode ≠ .reset) (hr : portRuns n 1 d = true) (hs : srcPort d = some n)
    (hk : quadStep (at' d.spn.pins n (false, false)) (a, b) = some k) (h0 : k ≠ 0) (hf : farFrom n t d = true) :
    (encEdge n a b t d).spn.p = 256 * (cntOf n d + k) + zOfsOf n d ∧ (encEdge n a b t d).spn.cnt = put d.spn.cnt n (cntOf n d + k) := by
  have hs' : srcPort (edgeSeen n a b t d) = some n := by simp [hs]
  obtain ⟨p, cnt⟩ := portCount_of_source (t := t) (c := cntOf n d + k) hs'
  rw [encEdge_of_passed hm hr (cannotPass_of_farFrom hf _ _), edgeTaken_of_step hk h0 hf]
  have seen : (edgeSeen n a b t d).spn.cnt = d.spn.cnt := by simp [edgeSeen, pinsTake]
  split <;> simp [p, cnt, seen]

end

/-! Faults of the scan source (R32). -/

/-- An encoder port is no time source (R28). -/
theorem timeMode_of_srcPort {n : Nat} {d : Dev} (h : srcPort d = some n) : timeMode d = false := by
  unfold srcPort at h
  split at h
  case isTrue hs =>
    have h4 : cfg Obj.SPN_CTL.SCAN_SRC d < 4 := of_decide_eq_true (Bool.and_eq_true_iff.mp hs).1
    simp only [timeMode, beq_eq_false_iff_ne]
    exact fun h8 => by simp [h8] at h4
  case isFalse => cases h

/-- A fault of the scan source that did not stand clears POS_VALID and stops the line starts. -/
theorem scanFault_spn {src : Nat} {d : Dev} (ht : timeMode d = false) (hf : d.spn.srcFault = false) :
    (scanFault src d).spn.posValid = false ∧ (scanFault src d).spn.srcFault = true ∧ (scanFault src d).spn.encFault = d.spn.encFault ∧
      (scanFault src d).spn.p = d.spn.p := by
  simp only [scanFault, ht, hf, Bool.false_and, Bool.or_false, Bool.false_eq_true, if_false]
  split <;> simp

/-- A fault of the scan source's port sets its ENC_FAULT bit besides. -/
theorem encFault_of_source {n : Nat} {d : Dev} (hs : srcPort d = some n) (hf : d.spn.srcFault = false) :
    (encFault n d).spn.encFault = setBit d.spn.encFault n true ∧ (encFault n d).spn.posValid = false ∧ (encFault n d).spn.srcFault = true ∧
      (encFault n d).spn.p = d.spn.p := by
  have hp : srcPort (portFault n d) = some n := by simp [portFault, hs]
  have he : encFault n d = scanFault (64 + n) (portFault n d) := if_pos hp
  obtain ⟨valid, fault, enc, p⟩ := scanFault_spn (src := 64 + n) (timeMode_of_srcPort hp) (by simp [portFault, hf])
  rw [he, valid, fault, enc, p]
  simp [portFault]

/-! SSI frames (R14) and Z pulses (R33). -/

/-- A port that is not the scan source takes the value of a frame whose data changes. -/
theorem ssiFrame_of_other {n raw t : Nat} {d : Dev} (hr : portRuns n 2 d = true) (hs : srcPort d ≠ some n)
    (h0 : raw % 2 ^ cfg (Obj.SPN_PORT.SSI_BITS n) d ≠ 0)
    (h1 : raw % 2 ^ cfg (Obj.SPN_PORT.SSI_BITS n) d ≠ 2 ^ cfg (Obj.SPN_PORT.SSI_BITS n) d - 1) {v : Nat}
    (hv : v = if cfgB (Obj.SPN_PORT.SSI_CODE n) d then grayFrom (cfg (Obj.SPN_PORT.SSI_BITS n) d) (raw % 2 ^ cfg (Obj.SPN_PORT.SSI_BITS n) d)
      else raw % 2 ^ cfg (Obj.SPN_PORT.SSI_BITS n) d) {c : Int}
    (hc : c = match at' d.spn.ssiRaw n none with | none => (v : Int) | some o => cntOf n d + ssiDelta (cfg (Obj.SPN_PORT.SSI_BITS n) d) o v) :
    ssiFrame n raw t d = (d.at_ t).uSpn fun x => { x with
      ssiRaw := put x.ssiRaw n (some v), ssiAt := put x.ssiAt n t, ssiSame := put x.ssiSame n 0, ssiGood := put x.ssiGood n (at' x.ssiGood n 0 + 1)
      cnt := put x.cnt n c } := by
  have good (c : Int) : ssiBad n 0 c t (d.at_ t) = false := by simp [ssiBad, hs]
  have cfg_at (f : FldDef) : cfg f (d.at_ t) = cfg f d := rfl
  have cfgB_at (f : FldDef) : cfgB f (d.at_ t) = cfgB f d := rfl
  have cntOf_at : cntOf n (d.at_ t) = cntOf n d := rfl
  simp only [ssiFrame, hr, if_true, cfg_at, cfgB_at, cntOf_at, h0, h1, or_false, if_false, good, Bool.false_eq_true, ← hv, at_spn]
  rw [portCount_of_other (by simpa using hs), if_neg (by simp [hs]), hc]
  rfl

/-- A Z pulse homes a port with Z_MODE 2 that is not the scan source: its position becomes HOME. -/
theorem zPulse_homes {n t : Nat} {d : Dev} (hr : portRuns n 1 d = true) (hs : srcPort d ≠ some n) (hz : cfg (Obj.SPN_PORT.Z_MODE n) d = 2)
    (hh : at' d.spn.zHomed n false = false) :
    zPulse n t d = (d.at_ t).uSpn fun x => { x with
      zHomed := put x.zHomed n true, zOfs := put x.zOfs n (cfgS (Obj.SPN_PORT.HOME n) d - 256 * cntOf n d)
      zLast := put x.zLast n (some (cntOf n d)), zMissed := put x.zMissed n false } := by
  have hc : zChecks n (d.at_ t) = false := by
    have hm : cfg (Obj.SPN_PORT.Z_MODE n) (d.at_ t) = 2 := hz
    simp [zChecks, hm, hh]
  unfold zPulse
  rw [if_pos (by simp [hr, hz])]
  simp only [hc, Bool.false_eq_true, if_false]
  rw [if_neg (by simp [hs])]
  rfl

/-- A Z pulse that is checked against an earlier one is noted, and is a fault where it lies outside Z_TOL of Z_PERIOD counts from it. -/
theorem zPulse_checked {n t : Nat} {z : Int} {d : Dev} (hr : portRuns n 1 d = true) (hz : cfg (Obj.SPN_PORT.Z_MODE n) d = 1)
    (hl : at' d.spn.zLast n none = some z) :
    zPulse n t d = (if (((cntOf n d - z).natAbs : Nat) : Int) < (cfg (Obj.SPN_PORT.Z_PERIOD n) d : Int) - (cfg (Obj.SPN_PORT.Z_TOL n) d : Int) ∨
          (cfg (Obj.SPN_PORT.Z_PERIOD n) d : Int) + (cfg (Obj.SPN_PORT.Z_TOL n) d : Int) < (((cntOf n d - z).natAbs : Nat) : Int)
        then zFaultOf n (d.at_ t) else d.at_ t).uSpn fun x => { x with
      zLast := put x.zLast n (some (cntOf n d)), zMissed := put x.zMissed n false } := by
  have hc : zChecks n (d.at_ t) = true := by
    have hm : cfg (Obj.SPN_PORT.Z_MODE n) (d.at_ t) = 1 := hz
    simp [zChecks, hm]
  unfold zPulse
  rw [if_pos (by simp [hr, hz])]
  simp only [hc, if_true, at_spn, hl]
  rfl

/-- A Z pulse that is overdue is a fault, once. -/
theorem zMissing_overdue {n : Nat} {z : Int} {d : Dev} (hr : portRuns n 1 d = true) (hc : zChecks n d = true) (hl : at' d.spn.zLast n none = some z)
    (hm : at' d.spn.zMissed n false = false)
    (ho : cfg (Obj.SPN_PORT.Z_PERIOD n) d + cfg (Obj.SPN_PORT.Z_TOL n) d ≤ (cntOf n d - z).natAbs) :
    zMissing n d = zFaultOf n (d.uSpn fun x => { x with zMissed := put x.zMissed n true }) := by
  simp [zMissing, hl, hr, hc, hm, ho]

/-! The rows. -/

section
variable {s : State} {n : Fin 4} {t : Nat}

/-- Outside RESET and the save of a sleep ENC_EDGE is the edge of the pair at its instant. -/
theorem exec_encEdge {a b : Bool} {e : Dev} (hm : s.dev.pwr.mode ≠ .reset) (he : encEdge n.val a b t (s.dev.at_ t) = e) (hp : e.tap.phase ≠ .saving) :
    exec (.encEdge n (a, b) t) s = .next { s with dev := e } := by
  subst he
  exact (event_always t (sleepTest (encEdge n.val a b t)) hm).trans (by rw [sleepTest_of_not_saving hp])

/-- ENC_PAIR_STUCK of a running port is a fault of it. -/
theorem exec_encPairStuck (hr : portRuns n.val 1 s.dev = true ∨ portRuns n.val 2 s.dev = true) :
    exec (.encPairStuck n t) s = .next { s with dev := encFault n.val (s.dev.at_ t) } := by
  have hon : s.dev.on 7 = true := hr.elim portRuns_on portRuns_on
  refine (event_on t (encPairStuck n.val) hon).trans ?_
  simp [encPairStuck, hr]

theorem exec_ssiFrame {raw : Fin (2 ^ 40)} (hr : portRuns n.val 2 s.dev = true) :
    exec (.ssiFrame n raw t) s = .next { s with dev := ssiFrame n.val raw.val t (s.dev.at_ t) } := event_on t _ (portRuns_on hr)

theorem exec_zPulse (hr : portRuns n.val 1 s.dev = true) :
    exec (.zPulse n t) s = .next { s with dev := zPulse n.val t (s.dev.at_ t) } := event_on t _ (portRuns_on hr)

theorem exec_zMissing (hr : portRuns n.val 1 s.dev = true) :
    exec (.zMissing n t) s = .next { s with dev := zMissing n.val (s.dev.at_ t) } := event_on t _ (portRuns_on hr)

/-- A fault of a port keeps the phase of a sleep. -/
@[simp] theorem portFault_phase (n : Nat) (d : Dev) : (portFault n d).tap.phase = d.tap.phase := by simp [portFault]

end

/-- Settles O31: an edge is filtered, illegal or a step; what a port that is not the scan source does is an equation, and of the scan source
P, the count and the fault are read from what the moves of the source leave. -/
theorem encoderAndAbsolutePorts : Obligations.EncoderAndAbsolutePorts := by
  unfold Obligations.EncoderAndAbsolutePorts
  refine ⟨?running, ?stuckSource, ?off, ?ssi⟩
  case running =>
    rintro s n t e ⟨hr, rfl⟩
    have hm : s.dev.pwr.mode ≠ .reset := on_awake (portRuns_on hr)
    refine ⟨?other, ?source, ?filtered, ?fault, ?homes, ?checked, ?overdue⟩
    case other =>
      rintro a b k ⟨hp, hs, hk, h0, hf⟩
      refine exec_encEdge hm ?_ (by simpa [pinsTake] using hp)
      rw [encEdge_of_other (d := s.dev.at_ t) hm hr hs hk h0 hf, edgeSeen, at_at]
      rfl
    case source =>
      rintro a b k ⟨hp, hs, hk, h0, hf⟩
      obtain ⟨p, cnt⟩ := encEdge_of_source (d := s.dev.at_ t) hm hr hs hk h0 hf
      refine ⟨_, event_always t (sleepTest (encEdge n.val a b t)) hm, ?_, ?_, by simp, by simp⟩
      · rw [cntOf, sleepTest_spn, cnt, at'_put]
        rfl
      · rw [sleepTest_spn, p]
        rfl
    case filtered =>
      rintro a b ⟨hp, hc⟩
      refine exec_encEdge hm ?_ (by simpa using hp)
      rw [encEdge_of_cannotPass (d := s.dev.at_ t) hm hr hc, at_at]
    case fault =>
      rintro a b u ⟨hp, hs, hu⟩ illegal
      constructor
      · refine exec_encEdge hm ?_ (by simpa [pinsTake] using hp)
        rw [encEdge_of_illegal (d := s.dev.at_ t) hm hr hs (decide_eq_true hu) illegal, edgeSeen, at_at]
      · rw [exec_encPairStuck (.inl hr), encFault_of_other (by simpa using hs)]
    case homes =>
      rintro ⟨hs, hz, hh⟩
      rw [exec_zPulse hr, zPulse_homes (d := s.dev.at_ t) hr hs hz hh, at_at]
      rfl
    case checked =>
      rintro z ⟨hz, hl⟩
      rw [exec_zPulse hr, zPulse_checked (d := s.dev.at_ t) hr hz hl, at_at]
      rfl
    case overdue =>
      rintro z ⟨hc, hl, hz, ho⟩
      rw [exec_zMissing hr, zMissing_overdue (d := s.dev.at_ t) hr hc hl hz ho]
      rfl
  case stuckSource =>
    rintro s n t ⟨hr, hs, hf⟩
    obtain ⟨enc, valid, fault, p⟩ := encFault_of_source (d := s.dev.at_ t) hs hf
    exact ⟨_, exec_encPairStuck hr, enc, valid, fault, p, by simp, by simp⟩
  case off =>
    rintro s n t ⟨hm, hp, hr⟩ a b
    refine exec_encEdge hm ?_ (by simpa [pinsTake] using hp)
    rw [encEdge_of_off (d := s.dev.at_ t) hm hr, edgeSeen, at_at]
  case ssi =>
    rintro s n t ⟨hr, hs⟩ raw nb ⟨rfl, h0, h1⟩
    refine ⟨_, rfl, ?_⟩
    rw [exec_ssiFrame hr, ssiFrame_of_other (d := s.dev.at_ t) hr hs h0 h1 rfl rfl, at_at]
    rfl

end Sys2Proof.Proofs
end

section
/-! SUPPORT. Sensor drive (O36): idle playback, the bank supplies, and writes of SDRV_TABLE. -/

namespace Sys2Proof.Proofs

open Sys2Proof Sys2Proof.Machine Sys2Proof.Laws

/-! Idle playback (R56). -/

/-- Without pending writes none takes effect (R57). -/
theorem applyDueCtl_of_none {d : Dev} (h : d.sdrv.pendingCtl = []) : applyDueCtl d = d := by
  have kept : { d.sdrv with pendingCtl := [] } = d.sdrv := by rw [← h]
  simp only [applyDueCtl, h, List.filter_nil, each, List.foldl_nil, Dev.uSdrv, kept]

/-- While no engine runs and no write is pending, a table that can start takes the first free engine and stops nothing (R45, R49). -/
theorem startTable_of_no_engine {tbl t i : Nat} {line : Option Nat} {d : Dev} (hs : tableStarts tbl d = true) (he : enginesRunning d = [])
    (hp : d.sdrv.pendingCtl = []) (hi : d.sdrv.engines.findIdx? (fun e => e.isNone) = some i) :
    startTable tbl line t d = d.uSdrv fun s => { s with
      engines := put s.engines i (some { tbl, ws := tableWords tbl d, t0 := t, order := s.order, line }), order := s.order + 1 } := by
  have noClash (f : Nat × Engine → Dev → Dev) (p : Nat × Engine → Bool) : each ((enginesRunning d).filter p) f d = d := by rw [he]; rfl
  have below : (enginesRunning d).length < 8 := by simp [he]
  simp only [startTable, hs, noClash, below, if_true, applyDueCtl_of_none hp, hi, Bool.true_eq_false, if_false]

/-- Once IDLE_PERIOD has expired in READY or HOLD with IDLE_EN, while no engine runs, an idle table that can start does so on the first free engine,
at the instant of the expiry, and the next period counts from there. -/
theorem idlePlayback_of_expired {t i : Nat} {d : Dev} (hm : d.inMode [.ready, .hold] = true) (hen : cfgB Obj.SDRV_CTL.IDLE_EN d = true)
    (hs : tableStarts (cfg Obj.SDRV_CTL.IDLE_TABLE d) d = true) (he : enginesRunning d = []) (hp : d.sdrv.pendingCtl = [])
    (hi : d.sdrv.engines.findIdx? (fun e => e.isNone) = some i) (ht : d.sdrv.idleFrom + 16 * cfg Obj.SDRV_CTL.IDLE_PERIOD d ≤ t) :
    idlePlayback t d = (d.at_ t).uSdrv fun x => { x with
      engines := put x.engines i (some { tbl := cfg Obj.SDRV_CTL.IDLE_TABLE d, ws := tableWords (cfg Obj.SDRV_CTL.IDLE_TABLE d) d
                                         t0 := x.idleFrom + 16 * cfg Obj.SDRV_CTL.IDLE_PERIOD d, order := x.order, line := none })
      order := x.order + 1, idleFrom := x.idleFrom + 16 * cfg Obj.SDRV_CTL.IDLE_PERIOD d } := by
  have expired : idlePlayback t d = startTable (cfg Obj.SDRV_CTL.IDLE_TABLE d) none (d.sdrv.idleFrom + 16 * cfg Obj.SDRV_CTL.IDLE_PERIOD d)
      ((d.at_ t).uSdrv fun x => { x with idleFrom := d.sdrv.idleFrom + 16 * cfg Obj.SDRV_CTL.IDLE_PERIOD d }) := by
    simp [idlePlayback, hm, hen, he, ht]
  exact expired.trans (startTable_of_no_engine hs he hp hi)

/-! Bank supplies (R43). -/

/-- In SCAN and HOLD a supply that leaves its range sets its BANK_FAULT bit and is a fault of class 1. -/
theorem bankSupplyFault_of_scanning {b v : Nat} {d : Dev} (h : d.inMode [.scan, .hold] = true) :
    bankSupplyFault b v d = faultRaise 1 132 (curLine d) St.HW_FAULT (raise 132 (d.uSdrv fun x => { x with
      bankV := put x.bankV b v, bankFault := setBit x.bankFault b true, bankBad := setBit x.bankBad b true })) :=
  if_pos h

/-- Outside SCAN and HOLD only the reading of the supply changes. -/
theorem bankSupplyFault_of_not_scanning {b v : Nat} {d : Dev} (h : d.inMode [.scan, .hold] = false) :
    bankSupplyFault b v d = d.uSdrv fun x => { x with bankV := put x.bankV b v } :=
  if_neg (Bool.eq_false_iff.mp h)

/-! Writes of SDRV_TABLE (R46, R58, R64). -/

/-- The objects 0x1140 to 0x117F are the tables. -/
theorem objDef_table (tbl : Fin 64) (d : Dev) : objDef (0x1140 + tbl.val) d = some
    { size := fun ws => 5 + 2 * Tbl.entries ws, fields := Obj.SDRV_TABLE.fields tbl.val, buf := true, modes := calScan, fieldDetail := 0xFFFFFFFF
      check := stageChecks (0x1140 + tbl.val) (List.replicate 5 0) (sdrvTableCheck tbl.val)
      apply := okApply (0x1140 + tbl.val) (stageOrSet (0x1140 + tbl.val) (List.replicate 5 0))
      read := stored (0x1140 + tbl.val) 5 (Obj.SDRV_TABLE.fields tbl.val) } := by
  have chapter : (0x1140 + tbl.val) / 256 = 0x11 := by omega
  have noChain : 0x1140 + tbl.val ≠ 0x1C10 := by omega
  have inTables : Obj.SDRV_TABLE.id 0 ≤ 0x1140 + tbl.val ∧ 0x1140 + tbl.val ≤ Obj.SDRV_TABLE.id 63 := by
    simp only [Obj.SDRV_TABLE.id]; omega
  have index : 0x1140 + tbl.val - Obj.SDRV_TABLE.id 0 = tbl.val := by simp [Obj.SDRV_TABLE.id]
  have notCtl : 0x1140 + tbl.val ≠ Obj.SDRV_CTL.id := by simp only [Obj.SDRV_CTL.id]; omega
  have notPin : 0x1140 + tbl.val ≠ Obj.SDRV_PIN.id := by simp only [Obj.SDRV_PIN.id]; omega
  have notCds : 0x1140 + tbl.val ≠ Obj.SDRV_CDS.id := by simp only [Obj.SDRV_CDS.id]; omega
  have notStatus : 0x1140 + tbl.val ≠ Obj.SDRV_STATUS.id := by simp only [Obj.SDRV_STATUS.id]; omega
  simp only [objDef, noChain, if_false, chapter, sensorObj, notCtl, notPin, notCds, notStatus, inTables, and_self, if_true, index]

/-- An accepted write of a table completes with OK; its contents are staged, or replace the table at once outside SCAN and HOLD. -/
theorem writeEffect_table (tbl : Fin 64) {c : MnrCmd} {t : Taken} {d : Dev} (h : t.arg % 65536 = 0x1140 + tbl.val) :
    writeEffect c t d = finish t.who St.OK (0x1140 + tbl.val) [] (stageOrSet (0x1140 + tbl.val) (List.replicate 5 0) (writtenWords c t d) d) := by
  simp only [writeEffect, h, objDef_table, okApply]

/-- Settles O36: each row runs at its instant, and what it does there is read from the lemmas above. -/
theorem sensorSuppliesAndTables : Obligations.SensorSuppliesAndTables := by
  unfold Obligations.SensorSuppliesAndTables
  refine ⟨?idle, ?fault, ?reading, ?returned, ?write⟩
  case idle =>
    rintro s t i ⟨hon, hm, hen, he, hne, hi, hcal, hp, ht⟩
    have mode : s.dev.inMode [.ready, .hold] = true := by simpa [Dev.inMode] using hm
    have runs : s.dev.runs 8 = true := (Bool.and_eq_true_iff.mp hon).1
    have starts : tableStarts (cfg Obj.SDRV_CTL.IDLE_TABLE s.dev) s.dev = true := by simp [tableStarts, hne, runs, hcal]
    refine (event_on t (idlePlayback t) hon).trans ?_
    rw [idlePlayback_of_expired (d := s.dev.at_ t) mode hen starts he hp hi ht, at_at]
    rfl
  case fault =>
    intro s b v t hm
    have awake : s.dev.pwr.mode ≠ .reset := by rcases hm with h | h <;> simp [h]
    refine (event_always t (bankSupplyFault b.val v.val) awake).trans ?_
    rw [bankSupplyFault_of_scanning (by simpa [Dev.inMode] using hm)]
    rfl
  case reading =>
    intro s b v t hm
    have awake : s.dev.pwr.mode ≠ .reset := by rcases hm with h | h | h <;> simp [h]
    have idle : (s.dev.at_ t).inMode [.scan, .hold] = false := by rcases hm with h | h | h <;> simp [Dev.inMode, h]
    exact (event_always t (bankSupplyFault b.val v.val) awake).trans (by rw [bankSupplyFault_of_not_scanning idle])
  case returned =>
    exact fun s b v t awake => event_always t (bankSupplyReturn b.val v.val) awake
  case write =>
    rintro s tbl c t ⟨ho, hid⟩ hs ha
    exact (namedWrite_accepted ho hs ha).trans (by rw [writeEffect_table tbl hid])

end Sys2Proof.Proofs
end

section
/-! SUPPORT. Whether a window is soon to open (R75, O39): an edge that is to come after an instant is to come after every earlier one. -/

namespace Sys2Proof.Proofs

open Sys2Proof Sys2Proof.Machine Sys2Proof.Laws

/-- A test that some item of a list meets is met where a weaker one stands for it. -/
theorem any_weaken {α : Type} {l : List α} {p q : α → Bool} (h : ∀ x, p x = true → q x = true) (hl : l.any p = true) : l.any q = true :=
  List.any_eq_true.mpr ((List.any_eq_true.mp hl).imp fun x hx => ⟨hx.1, h x hx.2⟩)

/-! Instants of a grid, and exposures of a table (R45, R67). -/

/-- The steps of a grid from base on that lie before instant a, in the form of tableExposes. -/
theorem stepsBefore_eq_ceilDiv (a base p : Nat) : (if a ≤ base then 0 else (a - base + p - 1) / p) = (a - base) ⌈/⌉ p := by
  split
  case isTrue h => simp [Nat.sub_eq_zero_of_le h]
  case isFalse h => rw [Nat.ceilDiv_eq_add_pred_div]

/-- The same number, in the form of gateEdgeWithin. -/
theorem stepsBefore_min_eq_ceilDiv {p : Nat} (hp : 0 < p) (a base : Nat) : (a + p - 1 - min (a + p - 1) base) / p = (a - base) ⌈/⌉ p := by
  rw [Nat.ceilDiv_eq_add_pred_div]
  rcases le_total a base with h | h
  · rw [Nat.div_eq_of_lt (by omega), Nat.div_eq_of_lt (by omega)]
  · congr 1
    omega

/-- The first grid point from repetition m on that is not before an instant comes no later for an earlier instant, and is not before it either. -/
theorem gridPoint_earlier {a a' base p : Nat} (m : Nat) (hp : 0 < p) (h : a ≤ a') :
    max m ((a - base) ⌈/⌉ p) ≤ max m ((a' - base) ⌈/⌉ p) ∧ a ≤ base + max m ((a - base) ⌈/⌉ p) * p := by
  have covered (x : Nat) : x - base ≤ (x - base) ⌈/⌉ p * p := by
    simpa [Nat.mul_comm] using le_smul_ceilDiv (a := p) (b := x - base) hp
  have fewer : (a - base) ⌈/⌉ p ≤ (a' - base) ⌈/⌉ p := by
    rw [ceilDiv_le_iff_le_mul hp, Nat.mul_comm]
    exact (Nat.sub_le_sub_right h base).trans (covered a')
  have later : (a - base) ⌈/⌉ p * p ≤ max m ((a - base) ⌈/⌉ p) * p := Nat.mul_le_mul_right p (le_max_right _ _)
  exact ⟨max_le_max le_rfl fewer, by have := covered a; omega⟩

/-- A table that exposes in [a', b] does so in [a, b] where a comes before a'. -/
theorem tableExposes_earlier {ws : List Word} {g t0 entry rep a a' b : Nat} {opens : Bool} (h : a ≤ a')
    (hx : tableExposes ws g opens t0 entry rep a' (b + 1 - a') = true) : tableExposes ws g opens t0 entry rep a (b + 1 - a) = true := by
  refine any_weaken (fun i hx => ?_) hx
  have hp : 0 < max 1 (Tbl.cellPeriod ws) := by omega
  obtain ⟨fewer, reached⟩ := gridPoint_earlier (base := t0 + Tbl.at_ ws i 0) (if i < entry then rep + 1 else rep) hp h
  have sooner := Nat.mul_le_mul_right (max 1 (Tbl.cellPeriod ws)) fewer
  simp only [stepsBefore_eq_ceilDiv, Bool.and_eq_true, decide_eq_true_eq] at hx ⊢
  obtain ⟨here, ⟨runs, from_⟩, to_⟩ := hx
  refine ⟨here, ?_⟩
  split at runs
  case isTrue cell =>
    simp only [cell, and_self, if_true] at from_ to_ ⊢
    simp only [decide_eq_true_eq] at runs ⊢
    omega
  case isFalse cell =>
    simp only [cell, if_false] at from_ to_ ⊢
    exact ⟨⟨runs, by omega⟩, by omega⟩

/-- String s exposes in [a, b] where it does so in a part [a', b] of it. -/
theorem exposesWithin_earlier {s a a' b : Nat} {opens : Bool} {d : Dev} (h : a ≤ a') (hx : exposesWithin s d opens a' b = true) :
    exposesWithin s d opens a b = true := by
  exact Bool.or_eq_true_iff.mpr ((Bool.or_eq_true_iff.mp hx).imp (any_weaken fun _ => tableExposes_earlier h) (any_weaken fun _ => tableExposes_earlier h))

/-- A grid that has a point in [a', b] has one in [a, b] where a comes before a'. -/
theorem gridPoint_within_earlier {a a' b base p : Nat} (hp : 0 < p) (h : a ≤ a')
    (hx : a' ≤ base + (a' + p - 1 - min (a' + p - 1) base) / p * p ∧ base + (a' + p - 1 - min (a' + p - 1) base) / p * p ≤ b) :
    a ≤ base + (a + p - 1 - min (a + p - 1) base) / p * p ∧ base + (a + p - 1 - min (a + p - 1) base) / p * p ≤ b := by
  rw [stepsBefore_min_eq_ceilDiv hp] at hx ⊢
  obtain ⟨fewer, reached⟩ := gridPoint_earlier (base := base) 0 hp h
  simp only [Nat.zero_max] at fewer reached
  exact ⟨reached, (Nat.add_le_add_left (Nat.mul_le_mul_right p fewer) base).trans hx.2⟩

/-- An edge of a gate that may come in [a', b] may come in [a, b] where a comes before a'. -/
theorem gateEdgeWithin_earlier {s a a' b : Nat} {rising : Bool} {d : Dev} (h : a ≤ a')
    (hx : gateEdgeWithin s rising a' b (exposesWithin s d) d = true) : gateEdgeWithin s rising a b (exposesWithin s d) d = true := by
  have event (tg : Nat) : ((comingEvents tg d).any fun e => e.1.testBit s && decide (a' ≤ e.2 ∧ e.2 ≤ b)) = true →
      ((comingEvents tg d).any fun e => e.1.testBit s && decide (a ≤ e.2 ∧ e.2 ≤ b)) = true := by
    refine any_weaken fun e he => ?_
    simp only [Bool.and_eq_true, decide_eq_true_eq] at he ⊢
    exact ⟨he.1, h.trans he.2.1, he.2.2⟩
  unfold gateEdgeWithin at *
  simp only at hx ⊢
  split at hx
  case h_1 =>
    simp only [Bool.or_eq_true, Bool.and_eq_true, decide_eq_true_eq] at hx ⊢
    rcases hx with (⟨hr, he⟩ | ⟨hm, hg⟩) | ⟨hs, hg⟩
    · exact .inl (.inl ⟨hr, event 5 he⟩)
    · exact .inl (.inr ⟨hm, gridPoint_within_earlier hm.1 h hg⟩)
    · exact .inr ⟨hs, exposesWithin_earlier h hg⟩
  case h_2 =>
    simp only [Bool.or_eq_true, Bool.and_eq_true, decide_eq_true_eq] at hx ⊢
    obtain ⟨hr, he | ⟨hd, hu⟩⟩ := hx
    · exact ⟨hr, .inl (event 4 he)⟩
    · exact ⟨hr, .inr ⟨hd, h.trans hu.1, hu.2⟩⟩
  case h_3 => cases hx

/-- A window that is soon to open as time has moved on was so before (R67, R75): what is to come lies no earlier. -/
theorem windowSoon_of_at {c t u n : Nat} {d : Dev} (hx : windowSoon c t n (d.at_ u) = true) : windowSoon c t n d = true := by
  unfold windowSoon at *
  simp only at hx ⊢
  refine Bool.or_eq_true_iff.mpr ((Bool.or_eq_true_iff.mp hx).imp_left (any_weaken fun w hx => ?_))
  simp only [Bool.or_eq_true, Bool.and_eq_true] at hx ⊢
  refine ⟨hx.1, hx.2.imp_right fun hx => ?_⟩
  split at hx
  case h_1 => exact hx
  case h_2 =>
    simp only [Bool.and_eq_true] at hx ⊢
    exact ⟨hx.1, gateEdgeWithin_earlier (max_le_max (le_max_left _ _) le_rfl) hx.2⟩

end Sys2Proof.Proofs
end

section
/-! SUPPORT. Injected conversions (O39): reads of objects, the objects ACQ_INJ and ACQ_INJ_RESULT, and the requests. -/

namespace Sys2Proof.Proofs

open Sys2Proof Sys2Proof.Machine Sys2Proof.Laws

/-! Reads of objects (R330, R331). -/

/-- An OBJ_READ that starts, of an object that is not read by buffer, completes with the object's words. -/
theorem objRead_direct {c : MnrCmd} {d : Dev} {t : Taken} (hs : Starts Op.OBJ_READ c d t) (hid : t.arg < 65536)
    (hr : readable t.arg (begun Op.OBJ_READ c d) = true) (hb : readByBuffer t.arg (begun Op.OBJ_READ c d) = false) :
    objRead c d = finish t.who St.OK t.arg (readWords t.arg (begun Op.OBJ_READ c d)) (readClears t.arg (begun Op.OBJ_READ c d) (begun Op.OBJ_READ c d)) := by
  unfold objRead
  rw [command_body _ hs]
  clear hs
  generalize begun Op.OBJ_READ c d = e at *
  unfold readable at hr
  unfold readByBuffer at hb
  unfold readWords readClears
  have noBuffer : bit t.arg 16 = false := Nat.testBit_lt_two_pow hid
  cases ho : objDef t.arg e with
  | none => simp [ho] at hr
  | some o =>
    simp only [ho, Option.isSome_some, Bool.true_and, Bool.and_eq_true, Bool.not_eq_true', Option.isNone_iff_eq_none] at hr hb
    obtain ⟨idle, settled⟩ := hr
    simp [Nat.mod_eq_of_lt hid, Nat.not_le.mpr (hid.trans (by decide : 65536 < 131072)), settled, ho, idle, noBuffer, checked, firstFail, hb]

/-- A row that reads one object completes with the object's words, where the read starts and is not by buffer. -/
theorem namedRead_direct {id : Nat} {c : MnrCmd} {s : State} {t : Taken} (ho : otherTaken id c s.dev = false)
    (hs : Starts Op.OBJ_READ (withObj id c) s.dev t) (hid : t.arg < 65536) (hr : readable t.arg (begun Op.OBJ_READ (withObj id c) s.dev) = true)
    (hb : readByBuffer t.arg (begun Op.OBJ_READ (withObj id c) s.dev) = false) :
    act coresRun (namedRead id c) s = .next { s with
      dev := finish t.who St.OK t.arg (readWords t.arg (begun Op.OBJ_READ (withObj id c) s.dev))
        (readClears t.arg (begun Op.OBJ_READ (withObj id c) s.dev) (begun Op.OBJ_READ (withObj id c) s.dev)) } := by
  rw [act_runs _ hs.1]
  simp only [namedRead, ho, Bool.false_eq_true, if_false, objRead_direct hs hid hr hb]

/-- The object 0x1204 is ACQ_INJ: an accepted write of it appends its request (R74). -/
theorem writeEffect_inj {c : MnrCmd} {t : Taken} {d : Dev} (h : t.arg % 65536 = 0x1204) :
    writeEffect c t d = finish t.who St.OK 0x1204 [] (acqInjApply (writtenWords c t d) d) := by
  unfold writeEffect
  rw [h]
  rfl

/-- Fields packed into n words are n words. -/
@[simp] theorem packF_length (n : Nat) (l : List (FldDef × Nat)) : (packF n l).length = n := by
  rw [packF, wordsOfNat, List.length_map, List.length_range]

/-- A read of ACQ_INJ_RESULT returns seven words (Table 4.11). -/
theorem injResultWords_length (d : Dev) : (injResultWords d).length = 7 := by
  unfold injResultWords
  split <;> exact packF_length 7 _

/-- The object 0x1205 is ACQ_INJ_RESULT, a status object. -/
theorem objDef_injResult (d : Dev) : objDef 0x1205 d = some (statusObj injResultWords injResultClear) := by
  unfold objDef
  rfl

/-- ACQ_INJ_RESULT can be read while the domain ACQ runs. -/
theorem readable_injResult {d : Dev} (h : d.runs 8 = true) : readable 0x1205 d = true := by
  simp [readable, objDef_injResult, domainBusy, h, objInProgress]

/-- ACQ_INJ_RESULT is not read by buffer. -/
theorem readByBuffer_injResult (d : Dev) : readByBuffer 0x1205 d = false := by
  simp [readByBuffer, objDef_injResult, statusObj, injResultWords_length]

/-! Requests (R74 to R76). -/

/-- The converter that serves a channel on its own: its checker where one stands in for it (R87). -/
def servingConverter (c : Nat) (d : Dev) : Nat := match checkerFor c d with | some k => 64 + k | none => c

/-- The oldest request is ready at instant t when none of R75's obstacles stands; that time moves on to t raises none. -/
theorem injReady_at {t : Nat} {r : InjReq} {rest : List InjReq} {d : Dev} (hq : d.acq.inj = r :: rest) (hw : windowSoon r.ch t 256 d = false)
    (hs : (acqCh r.ch d).shr = false) (href : d.acq.refReady = true) (hm : chMode r.ch d ≠ 0) (ht : r.waited < cfg Obj.ACQ_CTL.INJ_TMO d) :
    injReady t (d.at_ t) = true := by
  have clear : windowSoon r.ch t 256 (d.at_ t) = false := Bool.eq_false_iff.mpr fun h => by rw [windowSoon_of_at h] at hw; cases hw
  have noReset : (acqCh r.ch (d.at_ t)).shr = false := hs
  have inUse : chMode r.ch (d.at_ t) ≠ 0 := hm
  have inTime : r.waited < cfg Obj.ACQ_CTL.INJ_TMO (d.at_ t) := ht
  simp [injReady, hq, clear, noReset, href, inUse, inTime]

/-- The oldest request is served once it is ready. -/
theorem injServe_of_ready {t : Nat} {lvl : Int} {r : InjReq} {rest : List InjReq} {d : Dev} (hq : d.acq.inj = r :: rest) (hr : injReady t d = true)
    (ho : injOpen d = true) :
    injServe t lvl d = raise 143 (pushResult
      { ch := r.ch, status := St.OK, tag := r.tag, code := (codeOf r.ch (servingConverter r.ch d) lvl d).1, rng := (codeOf r.ch (servingConverter r.ch d) lvl d).2
        ts := (d.at_ t).ns, pos := phatAt t d }
      (((goodBlock (servingConverter r.ch d) (d.at_ t)).uCal fun c => { c with run := c.run.map fun x => { x with serving := false } }).uAcq
        fun a => { a with inj := rest })) := by
  simp only [injServe, hq, hr, ho, Bool.and_self, if_true]
  rfl

/-- The first request that has waited INJ_TMO line starts leaves the queue with TIMEOUT. -/
theorem injTimeout_of_split {l rest : List InjReq} {r : InjReq} {d : Dev}
    (h : splitAt? (fun r : InjReq => decide (cfg Obj.ACQ_CTL.INJ_TMO d ≤ r.waited)) d.acq.inj = some (l, r, rest)) :
    injTimeout d = raise 144 (pushResult { ch := r.ch, status := St.TIMEOUT, tag := r.tag } (d.uAcq fun a => { a with inj := l ++ rest })) := by
  simp only [injTimeout, h]

/-- Settles O39: a write and a read of the queues go through the objects' owners, and time, as it moves on, raises no obstacle to a service. -/
theorem injectedConversions : Obligations.InjectedConversions := by
  unfold Obligations.InjectedConversions
  refine ⟨?write, ?serve, ?timeout, ?read⟩
  case write =>
    rintro s c t ⟨ho, hid⟩ hs ha
    exact (namedWrite_accepted ho hs ha).trans (by rw [writeEffect_inj hid]; rfl)
  case serve =>
    rintro s lvl t i r rest ⟨hon, hq, hw, hs, href, hm, ht, hopen, rfl⟩
    refine (event_on t (injServe t lvl) hon).trans ?_
    rw [injServe_of_ready (d := s.dev.at_ t) hq (injReady_at hq hw hs href hm ht) hopen, at_at]
    rfl
  case timeout =>
    rintro s t l rest r ⟨hon, hsplit⟩
    exact (event_on t injTimeout hon).trans (by rw [injTimeout_of_split (d := s.dev.at_ t) hsplit])
  case read =>
    rintro s c t ⟨ho, hid⟩ hs hruns
    refine (namedRead_direct ho hs (by omega) ?_ ?_).trans ?_
    · rw [hid]; exact readable_injResult hruns
    · rw [hid]; exact readByBuffer_injResult _
    · rw [hid]; rfl

end Sys2Proof.Proofs
end

section
/-! SUPPORT. Windows and conversions (O37): what a conversion leaves of the path of samples, the sample it sends, and how a window opens. -/

namespace Sys2Proof.Proofs

open Sys2Proof Sys2Proof.Machine Sys2Proof.Laws

/-! What the bookkeeping of conversions leaves alone: Heddle, the windows and the power of the domains. -/

/-- The part of the device that takes samples: Heddle, the windows, and the power of the domains. -/
def samplePath (d : Dev) : Hdl × List Window × Pwr := (d.hdl, d.acq.windows, d.pwr)

theorem samplePath_each {α : Type} (f : α → Dev → Dev) (h : ∀ x d, samplePath (f x d) = samplePath d) (l : List α) (d : Dev) :
    samplePath (each l f d) = samplePath d := each_keeps samplePath f h l d

@[simp] theorem samplePath_raise (n : Nat) (d : Dev) : samplePath (raise n d) = samplePath d := raise_keeps samplePath (fun _ _ _ => rfl) n d

@[simp] theorem samplePath_updCh (c : Nat) (f : AcqCh → AcqCh) (d : Dev) : samplePath (updCh c f d) = samplePath d := rfl

@[simp] theorem samplePath_updChOpt (c : Option Nat) (f : AcqCh → AcqCh) (d : Dev) : samplePath (updCh? c f d) = samplePath d := by cases c <;> rfl

@[simp] theorem samplePath_updChk (k : Nat) (f : Checker → Checker) (d : Dev) : samplePath (updChk k f d) = samplePath d := rfl

@[simp] theorem samplePath_goodBlock (i : Nat) (d : Dev) : samplePath (goodBlock i d) = samplePath d := rfl

@[simp] theorem samplePath_at (t : Nat) (d : Dev) : samplePath (d.at_ t) = samplePath d := rfl

@[simp] theorem samplePath_passConv (c t : Nat) (d : Dev) : samplePath (passConv c t d) = samplePath d := rfl

@[simp] theorem samplePath_tallyConv (c k : Nat) (rail inRange : Bool) (d : Dev) : samplePath (tallyConv c k rail inRange d) = samplePath d := rfl

@[simp] theorem samplePath_takeShot (i : Nat) (x : Shot) (d : Dev) : samplePath (takeShot i x d) = samplePath d := rfl

@[simp] theorem samplePath_compareCodes (i code ccode : Nat) (r : RawConv) (d : Dev) :
    samplePath (compareCodes i code ccode r d) = samplePath d := by
  unfold compareCodes; split <;> rfl

@[simp] theorem samplePath_markLine (k fl : Nat) (d : Dev) : samplePath (markLine k fl d) = samplePath d := by
  unfold markLine updStarted; split <;> rfl

/-- A conversion in range enters the figures at most (R221). -/
@[simp] theorem samplePath_countConv_inRange (r : RawConv) (d : Dev) : samplePath (countConv r 0 d) = samplePath d := by
  unfold countConv
  simp only [Nat.zero_ne_one, OfNat.zero_ne_ofNat, or_self, if_false]
  split <;> rfl

@[simp] theorem samplePath_endMarks (w : Window) (d : Dev) : samplePath (endMarks w d) = samplePath d := by
  unfold endMarks
  split
  · refine samplePath_each _ (fun c d => ?_) _ _
    split <;> simp
  · rfl

@[simp] theorem samplePath_endTally (c k : Nat) (d : Dev) : samplePath (endTally c k d) = samplePath d := by
  simp only [endTally]; (repeat' split) <;> simp

@[simp] theorem samplePath_endCompare (i k : Nat) (d : Dev) : samplePath (endCompare i k d) = samplePath d := by
  simp only [endCompare]; (repeat' split) <;> simp

@[simp] theorem samplePath_endLines (n c : Nat) (d : Dev) : samplePath (endLines n c d) = samplePath d := by
  simp only [endLines]
  rw [samplePath_each _ (fun i e => samplePath_each _ (fun k e => samplePath_endCompare i k e) _ e), samplePath_each _ (samplePath_endTally c)]

/-- A window that leaves the list changes nothing else of what takes samples. -/
theorem samplePath_dropWindow (w : Window) (d : Dev) :
    samplePath (dropWindow w d) = samplePath (d.uAcq fun a => { a with windows := a.windows.filter fun x => x != w }) := by
  simp only [dropWindow]
  rw [samplePath_each _ (samplePath_endLines _), samplePath_endMarks]

/-! A conversion (R65, R68 to R71). -/

/-- Channel c is in order on device d: an input of its own, served by its own converter, with no failure, overload or open input. -/
structure Undisturbed (c : Nat) (d : Dev) : Prop where
  single : ilvHead c d = false
  unserved : checkerFor c d = none
  converter : noConverter c c d = false
  frontEnd : d.cal.feFailed.testBit c = false
  closed : (acqCh c d).open_ = false
  noOver : (acqCh c d).lastOver = none
  noLeft : (acqCh c d).recL = 0
  noRight : (acqCh c d).recR = 0

/-- The window after the conversion number n of channel c. -/
def counted (w : Window) (c n : Nat) : Window := { w with done := Sparse.set 0 w.done c (n + 1) }

/-- The window counts the conversion number n of channel c, and closes after its last one (R68). -/
def countConversion (w : Window) (c n : Nat) (d : Dev) : Dev :=
  let d := updCh c (fun y => { y with cds := none }) (d.uAcq fun a => { a with windows := a.windows.map fun v => if v = w then counted w c n else v })
  if (counted w c n).complete then dropWindow (counted w c n) d else d

/-- Counting a conversion leaves Heddle alone; of the windows only that of the conversion changes, or closes. -/
theorem countConversion_path (w : Window) (c n : Nat) (d : Dev) :
    (countConversion w c n d).hdl = d.hdl ∧ (countConversion w c n d).acq.windows =
      if (counted w c n).complete then (d.acq.windows.map fun v => if v = w then counted w c n else v).filter fun v => v != counted w c n
      else d.acq.windows.map fun v => if v = w then counted w c n else v := by
  unfold countConversion
  split
  · have path := samplePath_dropWindow (counted w c n) (updCh c (fun y => { y with cds := none })
      (d.uAcq fun a => { a with windows := a.windows.map fun v => if v = w then counted w c n else v }))
    simp only [samplePath, Prod.mk.injEq] at path
    exact ⟨path.1, path.2.1⟩
  · exact ⟨rfl, rfl⟩

/-- The sample that a kept conversion in range is delivered as (R69, R70). -/
def sampleOf (r : RawConv) : Sample := { stream := r.ch, j := r.j, line := r.line, code := r.code, rng := 0, subst := false, at_ := r.at_ }

/-- A kept conversion in range goes to Heddle where that runs. -/
theorem keepConv_path {p : Nat} {r : RawConv} {d : Dev} (h : d.runs 10 = true) :
    (keepConv p 0 false r d).hdl.inq = d.hdl.inq ++ [sampleOf r] ∧ (keepConv p 0 false r d).acq.windows = d.acq.windows := by
  unfold keepConv
  extract_lets k d1 d2 d3
  rw [if_neg Bool.false_ne_true]
  have path : samplePath (countConv r 0 d3) = samplePath d := by
    rw [samplePath_countConv_inRange]
    simp only [d3, d2, d1, Bool.false_eq_true, if_false]
    (repeat' split) <;> simp
  generalize countConv r 0 d3 = e at path ⊢
  simp only [samplePath, Prod.mk.injEq] at path
  obtain ⟨hdl, windows, pwr⟩ := path
  have runs : e.runs 10 = true := by rw [Dev.runs, pwr]; exact h
  simp [toHeddle, runs, hdl, windows, sampleOf, k]

/-- A quantity that f keeps is the same in every item of a list after f acts on one of them. -/
theorem at'_upd_keeps {α β : Type} (q : α → β) {f : α → α} (h : ∀ x, q (f x) = q x) (l : List α) (c n : Nat) (d : α) :
    q (at' (upd l c f) n d) = q (at' l n d) := by
  induction l generalizing c n with
  | nil => rfl
  | cons x xs ih =>
    cases c with
    | zero => cases n with
      | zero => exact h x
      | succ n => rfl
    | succ c => cases n with
      | zero => rfl
      | succ n => exact ih c n

/-- A conversion that passes fails no converter. -/
@[simp] theorem noConverter_passConv (c p m t : Nat) (d : Dev) : noConverter c p (passConv m t d) = noConverter c p d := by
  have failed (n : Nat) : (acqCh n (passConv m t d)).failed = (acqCh n d).failed := at'_upd_keeps AcqCh.failed (fun _ => by rfl) _ _ _ _
  have dead (n : Nat) : (acqCh n (passConv m t d)).dead = (acqCh n d).dead := at'_upd_keeps AcqCh.dead (fun _ => by rfl) _ _ _ _
  have checker : checkerFor p (passConv m t d) = checkerFor p d := rfl
  have head : ilvHead c (passConv m t d) = ilvHead c d := rfl
  simp only [noConverter, failed, dead, checker, head]

/-- A conversion in range of a channel in order, one that its window keeps for line k, is kept with its code and counted; what leads there
leaves what takes samples alone. -/
theorem convert_of_undisturbed {w : Window} {c k code : Nat} {l chk : Int} {d : Dev} (hc : w.cds = false) (hk : w.owner = some k)
    (hn : w.skip ≤ w.made c) (hu : Undisturbed c d) (hcode : codeOf c c l d = (code, 0)) :
    ∃ e r, samplePath e = samplePath d ∧ convert w c (some l) chk d = countConversion w c (w.made c) (keepConv c 0 false r e) ∧
      sampleOf r = { stream := c, j := w.made c - w.skip, line := k, code, rng := 0, subst := false
                     at_ := skewed (w.due.getD 0 + w.made c * w.period) (trimApplied c d).skew } := by
  obtain ⟨single, unserved, converter, frontEnd, closed, noOver, noLeft, noRight⟩ := hu
  unfold convert
  extract_lets n p server i t d1 period openDet v rail w'
  have hp : p = c := by simp [p, single]
  have hserver : server = none := by simp only [server, hp, unserved]
  have hi : i = c := by simp only [i, hserver, hp]
  have ht : t = skewed (w.due.getD 0 + n * w.period) (trimApplied c d).skew := by simp only [t, hc, hi, Bool.false_eq_true, if_false]
  have read : codeOf c i (if server.isSome then chk else l) d1 = (code, 0) := by rw [hi, hserver]; exact hcode
  split
  rename_i code' rng0 d2 h
  simp only [read, Prod.mk.injEq] at h
  obtain ⟨rfl, rfl, rfl⟩ := h
  extract_lets x near recovering rng d5 d6 subst d7 d8
  have hx : x = acqCh c d := rfl
  have calm : recovering = false := by simp [recovering, near, hx, noOver, noLeft, noRight]
  have inRange : rng = 0 := by simp [rng, calm]
  have passed : d6 = passConv c t d1 := by simp [d6, d5]
  have measured : subst = false := by
    have serves : noConverter c c d1 = false := converter
    have feOk : (passConv c t d1).cal.feFailed.testBit c = false := frontEnd
    simp [subst, passed, hp, serves, feOk, hx, closed]
  have kept : ∃ e r, samplePath e = samplePath d ∧ d7 = keepConv c 0 false r e ∧
      sampleOf r = { stream := c, j := n - w.skip, line := k, code, rng := 0, subst := false, at_ := t } := by
    obtain ⟨desc, ws, arm, owner, open_, due, done⟩ := w
    obtain rfl : owner = some k := hk
    have h7 : d7 = _ := if_pos hn
    rw [h7, inRange, measured, hp]
    extract_lets e1 e2 r e3
    refine ⟨e3, r, ?_, rfl, rfl⟩
    have h6 : samplePath d6 = samplePath d := by rw [passed, samplePath_passConv, samplePath_goodBlock, samplePath_at]
    have h2 : samplePath e2 = samplePath d := by
      simp only [e2, e1]; split <;> simp [h6]
    clear_value e2
    simp only [e3]
    (repeat' split) <;> simp [h2]
  obtain ⟨e, r, path, he, sample⟩ := kept
  refine ⟨e, r, path, ?_, ht ▸ sample⟩
  rw [← he]
  rfl

/-- A conversion in range of a channel in order appends one sample to Heddle's input, and its window counts it. -/
theorem convert_in_range {w : Window} {c k code : Nat} {l chk : Int} {d : Dev} (hc : w.cds = false) (hk : w.owner = some k)
    (hn : w.skip ≤ w.made c) (hu : Undisturbed c d) (hcode : codeOf c c l d = (code, 0)) (hr : d.runs 10 = true) :
    (convert w c (some l) chk d).hdl.inq = d.hdl.inq ++ [{ stream := c, j := w.made c - w.skip, line := k, code, rng := 0, subst := false
                                                           at_ := skewed (w.due.getD 0 + w.made c * w.period) (trimApplied c d).skew }] ∧
      (convert w c (some l) chk d).acq.windows = if (counted w c (w.made c)).complete
        then (d.acq.windows.map fun v => if v = w then counted w c (w.made c) else v).filter fun v => v != counted w c (w.made c)
        else d.acq.windows.map fun v => if v = w then counted w c (w.made c) else v := by
  obtain ⟨e, r, path, conv, sample⟩ := convert_of_undisturbed (chk := chk) hc hk hn hu hcode
  simp only [samplePath, Prod.mk.injEq] at path
  obtain ⟨hdl, windows, pwr⟩ := path
  obtain ⟨sent, kept⟩ := keepConv_path (p := c) (r := r) (d := e) (by rw [Dev.runs, pwr]; exact hr)
  obtain ⟨same, count⟩ := countConversion_path w c (w.made c) (keepConv c 0 false r e)
  rw [conv, same, count, sent, kept, hdl, windows, sample]
  exact ⟨rfl, rfl⟩

/-- While the converters take conversions, CONVERSION converts in the first open window that waits for one of the channel (R68, R77). -/
theorem conversion_of_window {w : Window} {c : Nat} {lvl : Option Int} {chk : Int} {d : Dev} (hconv : converting d = true)
    (hw : (d.acq.windows.find? fun w => w.open_ && w.wants c && (!w.cds || (acqCh c d).cds.isSome)) = some w) :
    conversion c lvl chk d = convert w c lvl chk d := by
  simp only [conversion, hconv, if_true, hw]

/-! The opening of a window (R67, R77, R103). -/

section
variable {i : Nat} {w : Window} {d : Dev} (hw : (d.acq.windows.find? fun w => w.desc == i && !w.open_ && w.due.isSome) = some w)
include hw

/-- While the converters take conversions, an armed window opens at its instant. -/
theorem windowOpen_of_converting (h : converting d = true) : windowOpen i d = openWindow w (w.due.getD 0) d := by
  simp only [windowOpen, hw, h, if_true]

/-- While they take none, its samples are substituted (assumption log 45). -/
theorem windowOpen_of_not_converting (h : converting d = false) :
    windowOpen i d = markLine? w.owner FL.DEGRADED (dropWindow w (substAll w (d.at_ (w.due.getD 0)))) := by
  simp only [windowOpen, hw, h, Bool.false_eq_true, if_false]

end

/-- Settles O37: a window opens or is substituted by what the converters take, and a conversion of a channel in order is kept and counted. -/
theorem windowsAndConversions : Obligations.WindowsAndConversions := by
  unfold Obligations.WindowsAndConversions
  refine ⟨?opens, ?substituted, ?converts⟩
  case opens =>
    rintro s i t w ⟨hon, hw, hconv⟩
    exact (event_on t (windowOpen i.val) hon).trans (by rw [windowOpen_of_converting (d := s.dev.at_ t) hw hconv]; rfl)
  case substituted =>
    rintro s i t w ⟨hon, hw, hconv⟩
    exact (event_on t (windowOpen i.val) hon).trans (by rw [windowOpen_of_not_converting (d := s.dev.at_ t) hw hconv])
  case converts =>
    rintro s ch l chk t w k n code ⟨hon, hr, hconv, hw⟩
      ⟨hc, hk, rfl, hn, single, unserved, converter, frontEnd, closed, noOver, noLeft, noRight, hcode⟩
    have inOrder : Undisturbed ch.val (s.dev.at_ t) := ⟨single, unserved, converter, frontEnd, closed, noOver, noLeft, noRight⟩
    obtain ⟨sent, count⟩ := convert_in_range (chk := chk) hc hk hn inOrder hcode hr
    obtain ⟨mem, -, sec, -, objs⟩ := convert_frame w ch.val (some l) chk (s.dev.at_ t)
    refine ⟨_, (event_on t (conversion ch.val (some l) chk) hon).trans ?_, sent, count, mem, objs, sec⟩
    rw [conversion_of_window (d := s.dev.at_ t) hconv hw]

end Sys2Proof.Proofs
end

section
/-! SUPPORT. Records of links and raw lanes: what a change of one leaves in it, and what an operation on a capture window keeps of it (R133, R134). -/

namespace Sys2Proof.Proofs

open Sys2Proof Sys2Proof.Machine Sys2Proof.Laws

/-! One item of a list. -/

/-- Two changes that agree on an item, or on what stands for it beyond the end, change the list alike. -/
theorem upd_congr {α : Type} {f g : α → α} {l : List α} {i : Nat} {d : α} (h : f (at' l i d) = g (at' l i d)) : upd l i f = upd l i g := by
  induction l generalizing i with
  | nil => rfl
  | cons x xs ih =>
    cases i with
    | zero => exact congrArg (· :: xs) h
    | succ i => exact congrArg (x :: ·) (ih h)

/-- Two changes of the same item are one. -/
theorem upd_upd {α : Type} (f g : α → α) (l : List α) (i : Nat) : upd (upd l i f) i g = upd l i fun x => g (f x) := by
  induction l generalizing i with
  | nil => rfl
  | cons x xs ih =>
    cases i with
    | zero => rfl
    | succ i => exact congrArg (x :: ·) (ih i)

/-- An item of the list holds what the change made of it. -/
theorem at'_upd_self {α : Type} {f : α → α} {l : List α} {i : Nat} {d : α} (h : i < l.length) : at' (upd l i f) i d = f (at' l i d) := by
  induction l generalizing i with
  | nil => exact absurd h (Nat.not_lt_zero i)
  | cons x xs ih =>
    cases i with
    | zero => rfl
    | succ i => exact ih (Nat.lt_of_succ_lt_succ h)

/-! The record of a link or a lane. -/

theorem updLink_congr {f g : Link → Link} {l : Nat} {d : Dev} (h : f (linkAt l d) = g (linkAt l d)) : updLink l f d = updLink l g d :=
  congrArg (fun x => d.uJlk fun j => { j with link := x }) (upd_congr h)

theorem updLane_congr {f g : RawLane → RawLane} {p : Nat} {d : Dev} (h : f (laneAt p d) = g (laneAt p d)) : updLane p f d = updLane p g d :=
  congrArg (fun x => d.uJlk fun j => { j with lane := x }) (upd_congr h)

theorem updLink_updLink (f g : Link → Link) (l : Nat) (d : Dev) : updLink l g (updLink l f d) = updLink l (fun x => g (f x)) d :=
  congrArg (fun x => d.uJlk fun j => { j with link := x }) (upd_upd f g _ _)

theorem linkAt_updLink_self {f : Link → Link} {l : Nat} {d : Dev} (h : l < d.jlk.link.length) : linkAt l (updLink l f d) = f (linkAt l d) :=
  at'_upd_self h

/-- A quantity that f keeps is the same in every link after f acts on one of them. -/
theorem linkAt_updLink_keeps {α : Type} (q : Link → α) {f : Link → Link} (h : ∀ x, q (f x) = q x) (l n : Nat) (d : Dev) :
    q (linkAt n (updLink l f d)) = q (linkAt n d) := at'_upd_keeps q h _ _ _ _

/-- A link that is not in state 0 is one of the device's. -/
theorem link_exists {l : Nat} {d : Dev} (h : (linkAt l d).state ≠ 0) : l < d.jlk.link.length := by
  by_contra hlen
  exact h (by rw [linkAt, at', List.getD_eq_default _ _ (Nat.le_of_not_lt hlen)])

/-- The samples of a link go to Heddle just while it is in DATA. -/
theorem srcUp_link {l : Fin 8} {d : Dev} : srcUp (.link l) d = true ↔ (linkAt l.val d).state = 4 := beq_iff_eq

/-! What leaves the converter links alone. -/

@[simp] theorem raise_jlk (n : Nat) (d : Dev) : (raise n d).jlk = d.jlk := raise_keeps (·.jlk) (fun _ _ _ => rfl) n d

@[simp] theorem each_jlk {α : Type} (f : α → Dev → Dev) (h : ∀ x d, (f x d).jlk = d.jlk) (l : List α) (d : Dev) :
    (each l f d).jlk = d.jlk := each_keeps (·.jlk) f h l d

@[simp] theorem toHeddle_jlk (x : Sample) (d : Dev) : (toHeddle x d).jlk = d.jlk := by
  unfold toHeddle; split <;> rfl

@[simp] theorem markLine_jlk (k fl : Nat) (d : Dev) : (markLine k fl d).jlk = d.jlk := by
  unfold markLine updStarted; split <;> rfl

@[simp] theorem markLineOpt_jlk (k : Option Nat) (fl : Nat) (d : Dev) : (markLine? k fl d).jlk = d.jlk := by
  cases k with
  | none => rfl
  | some k => exact markLine_jlk k fl d

@[simp] theorem substLink_jlk (s : LinkSrc) (w : LinkWin) (d : Dev) : (substLink s w d).jlk = d.jlk := by
  unfold substLink
  split
  · rfl
  · exact each_jlk _ (fun _ _ => each_jlk _ (fun _ _ => toHeddle_jlk _ _) _ _) _ _

/-- The configuration in force rests on the objects and on what is kept aside of them. -/
theorem cfg_congr {d e : Dev} (ho : d.objs = e.objs) (hl : d.liveOld = e.liveOld) (f : FldDef) : cfg f d = cfg f e := by
  simp only [cfg, liveWords, objWords, ho, hl]

/-! The windows of a source. -/

/-- The armed window of a source rests on the links and lanes. -/
theorem armedOf_congr {d e : Dev} (h : d.jlk = e.jlk) (s : LinkSrc) : armedOf s d = armedOf s e := by
  cases s <;> simp only [armedOf, linkAt, laneAt, h]

@[simp] theorem armedOf_setOpened (s : LinkSrc) (w : Option LinkWin) (d : Dev) : armedOf s (setOpened s w d) = armedOf s d := by
  cases s with
  | link l => exact linkAt_updLink_keeps (·.armed) (fun _ => by rfl) _ _ _
  | lane p => exact at'_upd_keeps RawLane.armed (fun _ => by rfl) _ _ _ _

/-- A window that is cut leaves the armed one. -/
@[simp] theorem armedOf_cutLinkWin (s : LinkSrc) (w : LinkWin) (d : Dev) : armedOf s (cutLinkWin s w d) = armedOf s d := by
  have cut (e : Dev) : armedOf s (markLine? w.owner FL.DEGRADED (raise 211 e)) = armedOf s e := armedOf_congr (by simp) s
  have ended (e : Dev) : armedOf s (substLink s w (setOpened s none (d.uJlk fun j => { j with lwinCut := sat16 j.lwinCut }))) = armedOf s d := by
    rw [armedOf_congr (substLink_jlk s w _) s, armedOf_setOpened]
    cases s <;> rfl
  unfold cutLinkWin
  rw [cut]
  cases s with
  | lane p => exact ended d
  | link l =>
    refine Eq.trans (linkAt_updLink_keeps (·.armed) (fun x => ?_) _ _ _) (ended d)
    split <;> rfl

@[simp] theorem armedOf_cutOpened (s : LinkSrc) (d : Dev) : armedOf s (cutOpened s d) = armedOf s d := by
  unfold cutOpened
  split
  · exact armedOf_cutLinkWin s _ d
  · rfl

end Sys2Proof.Proofs
end

section
/-! SUPPORT. Bring-up of a link (O42): what each row does to it in the state that it is in (R128 to R132). -/

namespace Sys2Proof.Proofs

open Sys2Proof Sys2Proof.Machine Sys2Proof.Laws

section
variable {l : Nat} {d : Dev}

/-- Sync with a transmitter at LANE_RATE takes a link that waits for it to state 3 (R130). -/
theorem linkSyncLock_of_rate {kbps : Nat} (hs : (linkAt l d).state = 2) (hr : rateOk l kbps d = true) :
    linkSyncLock l kbps d = updLink l (fun x => { x with state := 3 }) (d.uJlk fun j => { j with cdrLock := j.cdrLock ||| laneMaskOf l d }) :=
  if_pos ⟨hs, hr⟩

/-- A link in another state, or whose transmitter sends at another rate, does not lock. -/
theorem linkSyncLock_of_not {kbps : Nat} (h : (linkAt l d).state ≠ 2 ∨ rateOk l kbps d = false) : linkSyncLock l kbps d = d :=
  if_neg fun ⟨hs, hr⟩ => h.elim (· hs) fun hr' => Bool.false_ne_true (hr'.symm.trans hr)

/-- A link enters DATA without a latency shift where its latency had no value before, or moved by one JCLK period at most (R132). -/
theorem linkData_of_steady {lat : Nat}
    (h : ((linkAt l d).latBefore.all fun b => decide (((lat : Int) - b).natAbs * cfg Obj.JLK_CTL.JCLK_KHZ d ≤ 1000000000)) = true) :
    linkData l lat d = faultClearSrc 4 (192 + l) (raise (200 + l) (updLink l (fun x => { x with
      state := 4, lat, latBefore := none, errAt := [], frame := 0, errTo := none, closed := [] }) d)) := by
  cases hb : (linkAt l d).latBefore with
  | none => simp only [linkData, hb, Bool.false_eq_true, if_false, Bool.or_false]
  | some b =>
    have le : ¬ 1000000000 < ((lat : Int) - b).natAbs * cfg Obj.JLK_CTL.JCLK_KHZ d := by simpa [hb] using h
    simp only [linkData, hb, le, decide_false, Bool.false_eq_true, if_false, Bool.or_false]

/-- A link whose latency moved by more than one JCLK period enters DATA with a latency shift (R132). -/
theorem linkData_of_shifted {lat b : Nat} {e : Dev} (hb : (linkAt l d).latBefore = some b)
    (h : 1000000000 < ((lat : Int) - b).natAbs * cfg Obj.JLK_CTL.JCLK_KHZ d)
    (he : e = faultClearSrc 4 (192 + l) (raise (200 + l) (updLink l (fun x => { x with
      state := 4, lat, latBefore := none, latShift := true, errAt := [], frame := 0, errTo := none, closed := [] }) d))) :
    linkData l lat d = faultRaise 4 210 (curLine e) St.HW_FAULT (raise 210 (e.uJlk fun j => { j with latShift := setBit j.latShift l true })) := by
  subst he
  simp only [linkData, hb, h, decide_true, if_true, Bool.or_true]

end

section
variable {l : Fin 8} {i : Ilas} {arrive : List Nat} {lat : Nat} {d : Dev}

/-- An ILAS without the parameters of JLK_LINK faults a JESD204B link (R130). -/
theorem ilasReceived_of_mismatch (hs : (linkAt l.val d).state = 3) (hstd : cfg (Obj.JLK_LINK.STD l.val) d = 0) (hm : ilasMatches l.val i d = false) :
    ilasReceived l i arrive lat d =
      raise 209 (updLink l.val (fun x => { x with state := 5 }) (d.uJlk fun j => { j with ilas := setBit j.ilas l.val true })) := by
  simp only [ilasReceived, hs, if_true, hstd, hm, and_self]

/-- An ILAS that carries the parameters of JLK_LINK, or the lock of a JESD204C link, leads to DATA unless the lanes arrive badly (R129, R130). -/
theorem ilasReceived_of_match (hs : (linkAt l.val d).state = 3) (hm : cfg (Obj.JLK_LINK.STD l.val) d = 1 ∨ ilasMatches l.val i d = true) :
    ilasReceived l i arrive lat d = if deskewBad l.val arrive d then linkDeskewFault l arrive d else linkData l.val lat d := by
  have good : ¬ (cfg (Obj.JLK_LINK.STD l.val) d = 0 ∧ ilasMatches l.val i d = false) := by
    rintro ⟨h0, hf⟩
    exact hm.elim (fun h1 => Nat.zero_ne_one (h0.symm.trans h1)) fun ht => Bool.false_ne_true (hf.symm.trans ht)
  simp only [ilasReceived, hs, if_true, if_neg good]

theorem ilasReceived_of_other_state (hs : (linkAt l.val d).state ≠ 3) : ilasReceived l i arrive lat d = d := if_neg hs

/-- Lanes that arrive beyond the release point or a buffer stop a link in state 3 or 4 (R129). -/
theorem linkDeskewFault_of_bad (hs : (linkAt l.val d).state = 3 ∨ (linkAt l.val d).state = 4) (hb : deskewBad l.val arrive d = true) :
    linkDeskewFault l arrive d =
      raise (192 + l.val) ((cutOpened (.link l) (updLink l.val (fun y => { y with state := 5 }) d)).uJlk fun j => { j with deskew := true }) :=
  if_pos ⟨hs, hb⟩

end

/-- What the record of a link holds as it re-initialises: from DATA its latency is kept aside (R132). -/
def reinited (y : Link) : Link :=
  { y with state := 2, latBefore := if y.state = 4 then some y.lat else y.latBefore, reinits := sat8 y.reinits, errAt := [], errTo := none
           closed := [], frame := 0 }

/-- A link in state 2 to 4 re-initialises; f: any change that does to its record what the re-initialisation does. -/
theorem linkReinit_of_active {f : Link → Link} {l : Fin 8} {lost : Nat} {d e : Dev} (hs : 2 ≤ (linkAt l.val d).state ∧ (linkAt l.val d).state ≤ 4)
    (hf : f (linkAt l.val d) = reinited (linkAt l.val d))
    (he : e = (cutOpened (.link l) (updLink l.val f d)).uJlk fun j => { j with cdrLock := maskAndNot j.cdrLock lost }) :
    linkReinit l lost d = faultRaise 4 (192 + l.val) (curLine e) St.HW_FAULT (raise (192 + l.val) e) := by
  rw [updLink_congr hf] at he
  subst he
  have record : updLink l.val reinited d = updLink l.val (fun y => { y with
      state := 2, latBefore := if (linkAt l.val d).state = 4 then some (linkAt l.val d).lat else (linkAt l.val d).latBefore
      reinits := sat8 y.reinits, errAt := [], errTo := none, closed := [], frame := 0 }) d := updLink_congr rfl
  rw [record]
  exact if_pos hs

/-- Settles O42: each row has its effect at its instant, and what that is follows from the state the link is in. -/
theorem linkBringUp : Obligations.LinkBringUp := by
  unfold Obligations.LinkBringUp
  refine ⟨?edge, ?lock, ?noLock, ?mismatch, ?steady, ?shifted, ?deskew, ?otherState, ?fromData, ?fromSync⟩
  case edge =>
    intro s t hon
    refine (event_on t (sysrefEdge t) hon).trans ?_
    have cycle : jclkCycle t (s.dev.at_ t) = jclkCycle t s.dev := rfl
    simp only [sysrefEdge, at_at, cycle] <;> rfl
  case lock =>
    rintro s l kbps t ⟨hon, hs, hr⟩
    exact (event_on t (linkSyncLock l.val kbps) hon).trans (by rw [linkSyncLock_of_rate (d := s.dev.at_ t) hs hr]; rfl)
  case noLock =>
    rintro s l kbps t ⟨hon, h⟩
    exact (event_on t (linkSyncLock l.val kbps) hon).trans (by rw [linkSyncLock_of_not (d := s.dev.at_ t) h])
  case mismatch =>
    rintro s l i arrive lat t ⟨hon, hs, hstd, hm⟩
    exact (event_on t (ilasReceived l i arrive lat) hon).trans (by rw [ilasReceived_of_mismatch (d := s.dev.at_ t) hs hstd hm])
  case steady =>
    rintro s l i arrive lat t ⟨hon, hs, hm, hb⟩ hlat
    have good : deskewBad l.val arrive (s.dev.at_ t) = false := hb
    refine (event_on t (ilasReceived l i arrive lat) hon).trans ?_
    rw [ilasReceived_of_match (d := s.dev.at_ t) hs hm, good, if_neg Bool.false_ne_true, linkData_of_steady (d := s.dev.at_ t) hlat]
  case shifted =>
    rintro s l i arrive lat t b ⟨hon, hs, hm, hb⟩ ⟨hbefore, hlat⟩
    have good : deskewBad l.val arrive (s.dev.at_ t) = false := hb
    refine ⟨_, rfl, (event_on t (ilasReceived l i arrive lat) hon).trans ?_⟩
    rw [ilasReceived_of_match (d := s.dev.at_ t) hs hm, good, if_neg Bool.false_ne_true, linkData_of_shifted (d := s.dev.at_ t) hbefore hlat rfl]
  case deskew =>
    rintro s l i arrive lat t ⟨hon, hs, hm, hb⟩
    have bad : deskewBad l.val arrive (s.dev.at_ t) = true := hb
    refine (event_on t (ilasReceived l i arrive lat) hon).trans ?_
    rw [ilasReceived_of_match (d := s.dev.at_ t) hs hm, if_pos bad, linkDeskewFault_of_bad (d := s.dev.at_ t) (.inl hs) bad]
  case otherState =>
    rintro s l i arrive lat t ⟨hon, hs⟩
    exact (event_on t (ilasReceived l i arrive lat) hon).trans (by rw [ilasReceived_of_other_state (d := s.dev.at_ t) hs])
  case fromData =>
    rintro s l lost t ⟨hon, hs⟩
    refine ⟨_, rfl, (event_on t (linkReinit l lost) hon).trans ?_⟩
    have state : (linkAt l.val (s.dev.at_ t)).state = 4 := hs
    rw [linkReinit_of_active (d := s.dev.at_ t) (by omega) ?_ rfl]
    simp only [reinited, state, if_true]
  case fromSync =>
    rintro s l lost t ⟨hon, hs⟩
    refine ⟨_, rfl, (event_on t (linkReinit l lost) hon).trans ?_⟩
    have state : (linkAt l.val (s.dev.at_ t)).state = 2 ∨ (linkAt l.val (s.dev.at_ t)).state = 3 := hs
    have notData : (linkAt l.val (s.dev.at_ t)).state ≠ 4 := by omega
    rw [linkReinit_of_active (d := s.dev.at_ t) (by omega) ?_ rfl]
    simp only [reinited, notData, if_false]

end Sys2Proof.Proofs
end

section
/-! SUPPORT. Link windows and frames (O43): how a window opens, what it takes of a frame or a word, and what a frame leaves in its link (R127, R131
to R134, R136). -/

namespace Sys2Proof.Proofs

open Sys2Proof Sys2Proof.Machine Sys2Proof.Laws

/-! The opening of a window (R133, R134). -/

/-- A link's armed window opens with nothing taken, after one that stood open is cut. -/
theorem openLinkWin_link {l : Fin 8} {w : LinkWin} {d : Dev} (h : armedOf (.link l) d = some w) :
    openLinkWin (.link l) d = setArmed (.link l) none (setOpened (.link l) (some { w with taken := 0 }) (cutOpened (.link l) d)) := by
  simp only [openLinkWin, armedOf_cutOpened, h]

/-- A raw lane's armed window opens alike, and the lane's count of missed windows returns to 0. -/
theorem openLinkWin_lane {p : Fin 32} {w : LinkWin} {d : Dev} (h : armedOf (.lane p) d = some w) :
    openLinkWin (.lane p) d = setArmed (.lane p) none (setOpened (.lane p) (some { w with taken := 0 })
      (updLane p.val (fun x => { x with missed := 0 }) (cutOpened (.lane p) d))) := by
  simp only [openLinkWin, armedOf_cutOpened, h]

/-- No window is due on a source without an armed one. -/
theorem windowDue_of_unarmed {s : LinkSrc} {t : Nat} {d : Dev} (h : armedOf s d = none) : windowDue s t d = false := by
  simp only [windowDue, h]

section
variable {l : Fin 8} {p : Fin 32} {mark : List Nat} {t : Nat} {d : Dev}

/-- A window that is due on a link opens at the control bits that its frame needs. -/
theorem linkWindowOpen_link (hdue : windowDue (.link l) t d = true) (hmark : solFrame l.val (mark.headD 0) d = true) :
    linkWindowOpen (.link l) mark t d = openLinkWin (.link l) (d.at_ t) := if_pos (Bool.and_eq_true_iff.mpr ⟨hdue, hmark⟩)

/-- A window that is due on a raw lane opens at the lane's mark. -/
theorem linkWindowOpen_lane (hdue : windowDue (.lane p) t d = true) (hmark : solMark p.val mark d = true) :
    linkWindowOpen (.lane p) mark t d = openLinkWin (.lane p) (d.at_ t) := if_pos (Bool.and_eq_true_iff.mpr ⟨hdue, hmark⟩)

theorem linkWindowOpen_link_waits (h : windowDue (.link l) t d = false ∨ solFrame l.val (mark.headD 0) d = false) :
    linkWindowOpen (.link l) mark t d = d := if_neg (ne_true_of_eq_false (Bool.and_eq_false_iff.mpr h))

theorem linkWindowOpen_lane_waits (h : windowDue (.lane p) t d = false ∨ solMark p.val mark d = false) :
    linkWindowOpen (.lane p) mark t d = d := if_neg (ne_true_of_eq_false (Bool.and_eq_false_iff.mpr h))

end

/-! What an open window takes (R131, R133). -/

/-- The window keeps place i of what comes next: it lies inside SKIP and COUNT. -/
def keepsPlace (w : LinkWin) (i : Nat) : Bool := decide (w.skip ≤ w.taken + i) && decide (w.taken + i < w.skip + w.count)

/-- The line is marked where samples that carry no measurement are kept for it. -/
def marked (per k : Nat) (w : LinkWin) (bad : Bool) (d : Dev) : Dev := if bad && (List.range per).any (keepsPlace w) then markLine k FL.DEGRADED d else d

/-- Of the next samples of each stream those that window w keeps go to Heddle for line k. -/
def delivered (s : LinkSrc) (per k : Nat) (w : LinkWin) (val : Nat → Nat → Nat) (bad : Bool) (t : Nat) (d : Dev) : Dev :=
  each (mapIx (fun m st => (m, st)) (srcStreams s d)) (fun x d => each ((List.range per).filter (keepsPlace w)) (fun i d =>
    toHeddle { stream := x.2, j := w.taken + i - w.skip, line := k, code := if bad then 0 else val x.1 i, rng := 0, subst := bad, at_ := t } d) d)
    (marked per k w bad d)

/-- The window after it has taken the next samples: it closes after SKIP + COUNT. -/
def advancedWin (per : Nat) (w : LinkWin) : Option LinkWin :=
  if w.skip + w.count ≤ w.taken + per then none else some { w with taken := w.taken + per }

@[simp] theorem marked_jlk (per k : Nat) (w : LinkWin) (bad : Bool) (d : Dev) : (marked per k w bad d).jlk = d.jlk := by
  unfold marked; split
  · exact markLine_jlk k _ d
  · rfl

@[simp] theorem delivered_jlk (s : LinkSrc) (per k : Nat) (w : LinkWin) (val : Nat → Nat → Nat) (bad : Bool) (t : Nat) (d : Dev) :
    (delivered s per k w val bad t d).jlk = d.jlk := by
  unfold delivered
  rw [each_jlk _ fun _ _ => each_jlk _ (fun _ _ => toHeddle_jlk _ _) _ _, marked_jlk]

/-- A line that is marked changes no stream. -/
@[simp] theorem srcStreams_marked (s : LinkSrc) (per k : Nat) (w : LinkWin) (bad : Bool) (d : Dev) :
    srcStreams s (marked per k w bad d) = srcStreams s d := by
  unfold marked markLine updStarted updLine
  (repeat' split) <;> rfl

section
variable {s : LinkSrc} {l : Fin 8} {per t k : Nat} {val : Nat → Nat → Nat} {bad : Bool} {d : Dev} {w : LinkWin}

/-- Without an open window nothing is taken. -/
theorem takeSamples_of_closed (h : openedOf s d = none) : takeSamples s per val bad t d = d := by
  simp only [takeSamples, h]

/-- A link's open window of line k delivers what it keeps and advances; one that closes joins the closed windows. -/
theorem takeSamples_link (ho : openedOf (.link l) d = some w) (hk : w.owner = some k) :
    takeSamples (.link l) per val bad t d =
      if w.skip + w.count ≤ w.taken + per
        then updLink l.val (fun x => { x with closed := x.closed ++ [({ w with taken := w.taken + per }, x.frame)] })
          (setOpened (.link l) none (delivered (.link l) per k w val bad t d))
        else setOpened (.link l) (some { w with taken := w.taken + per }) (delivered (.link l) per k w val bad t d) := by
  rw [delivered, ← srcStreams_marked]
  simp only [takeSamples, ho, hk]
  rfl

/-- A change that forgets the closed windows sees only the window's advance. -/
theorem updLink_takeSamples {f : Link → Link} (hf : ∀ x c, f { x with closed := c } = f x) (ho : openedOf (.link l) d = some w)
    (hk : w.owner = some k) :
    updLink l.val f (takeSamples (.link l) per val bad t d) =
      updLink l.val f (setOpened (.link l) (advancedWin per w) (delivered (.link l) per k w val bad t d)) := by
  rw [takeSamples_link ho hk, advancedWin]
  split
  · rw [updLink_updLink]
    exact congrArg (updLink l.val · _) (funext fun x => hf x _)
  · rfl

end

/-! A frame of a link (R127, R131, R132). -/

/-- The device that has received a frame: LANE_ERR holds the lanes in error. -/
def received (errs : List (Fin 32)) (t : Nat) (d : Dev) : Dev :=
  (d.at_ t).uJlk fun j => { j with laneErr := j.laneErr ||| errs.foldl (fun m p => m ||| 2 ^ p.val) 0 }

/-- A frame without errors sets no bit of LANE_ERR. -/
theorem received_nil (t : Nat) (d : Dev) : received [] t d = d.at_ t := by
  simp only [received, List.foldl_nil, Nat.or_zero]
  rfl

section
variable {data : List (List Nat)} {errs : List (Fin 32)} {t : Nat} {d : Dev}

/-- What a link in DATA receives is a frame of it. -/
theorem linkFrame_link {l : Fin 8} (h : srcUp (.link l) d = true) :
    linkFrame (.link l) data errs t d = jesdFrame l data errs t (received errs t d) := if_pos h

/-- What an aligned raw lane receives is its words. -/
theorem linkFrame_lane {p : Fin 32} (h : srcUp (.lane p) d = true) :
    linkFrame (.lane p) data errs t d = rawFrame p data.flatten errs t (received errs t d) := if_pos h

/-- A source that is not up takes nothing. -/
theorem linkFrame_of_down {s : LinkSrc} (h : srcUp s d = false) : linkFrame s data errs t d = d := if_neg (ne_true_of_eq_false h)

end

/-- Frames in the extended multiblock of link l. -/
def blockFrames (l : Nat) (d : Dev) : Nat := 256 * cfg (Obj.JLK_LINK.E l) d / max 1 (cfg (Obj.JLK_LINK.F l) d)

/-- What a frame with errs errors leaves in the record of its link, by the standard of the link and the frames n in an extended multiblock. -/
def framed (std n errs t : Nat) (y : Link) : Link :=
  { y with
    errAt := recentErrs y.errAt errs t
    frame := if std = 0 then 0 else (y.frame + 1) % max 1 n
    errTo := if std = 0 ∨ n ≤ y.frame + 1 then none else y.errTo
    closed := if std = 0 ∨ n ≤ y.frame + 1 then [] else y.closed }

/-- What it leaves in the record of a JESD204B link, which knows no extended multiblock. -/
def framedB (errs t : Nat) (y : Link) : Link := { y with errAt := recentErrs y.errAt errs t, frame := 0, errTo := none, closed := [] }

theorem framed_zero (n errs t : Nat) : framed 0 n errs t = framedB errs t := by
  funext y
  simp only [framed, framedB, if_true, true_or]

/-- A frame carries no measurement where it is in error, or belongs to an errored multiblock. -/
def frameBad (l : Nat) (errs : List (Fin 32)) (d : Dev) : Bool :=
  !errs.isEmpty || (match (linkAt l d).errTo with | some e => decide ((linkAt l d).frame ≤ e) | none => false)

/-- The samples of a frame, by converter and place, left-justified to 16 bits. -/
def frameVal (l : Nat) (data : List (List Nat)) (d : Dev) (m i : Nat) : Nat :=
  frameSample l m i data d * 2 ^ (16 - cfg (Obj.JLK_LINK.N l) d)

/-- The device after a frame: its samples have gone to the open window, and its errors are counted. -/
def frameTaken (l : Fin 8) (data : List (List Nat)) (errs : List (Fin 32)) (t : Nat) (d : Dev) : Dev :=
  updLink l.val (framed (cfg (Obj.JLK_LINK.STD l.val) d) (blockFrames l.val d) errs.length t)
    (takeSamples (.link l) (cfg (Obj.JLK_LINK.S l.val) d) (frameVal l.val data d) (frameBad l.val errs d) t d)

/-- The open window w of a link, for line k, has taken what it keeps of a frame. -/
def windowTook (l : Fin 8) (data : List (List Nat)) (k : Nat) (w : LinkWin) (bad : Bool) (t : Nat) (d : Dev) : Dev :=
  setOpened (.link l) (advancedWin (cfg (Obj.JLK_LINK.S l.val) d) w)
    (delivered (.link l) (cfg (Obj.JLK_LINK.S l.val) d) k w (frameVal l.val data d) bad t d)

@[simp] theorem cfg_takeSamples (s : LinkSrc) (per : Nat) (val : Nat → Nat → Nat) (bad : Bool) (t : Nat) (d : Dev) (f : FldDef) :
    cfg f (takeSamples s per val bad t d) = cfg f d := cfg_congr (by simp) (by simp) f

@[simp] theorem cfg_updLink (l : Nat) (g : Link → Link) (d : Dev) (f : FldDef) : cfg f (updLink l g d) = cfg f d := rfl

section
variable {l : Fin 8} {data : List (List Nat)} {errs : List (Fin 32)} {t k : Nat} {w : LinkWin} {d : Dev}

/-- While no window is armed, a frame is taken, and re-initialises the link where ERR_LIMIT errors of the last millisecond stand (R132). -/
theorem jesdFrame_of_unarmed (ha : armedOf (.link l) d = none) (hb : errs = [] ∨ cfg (Obj.JLK_LINK.STD l.val) d = 0) :
    jesdFrame l data errs t d =
      if (!errs.isEmpty && decide (cfg (Obj.JLK_LINK.ERR_LIMIT l.val) d ≤ (linkAt l.val (frameTaken l data errs t d)).errAt.length)) = true
        then linkReinit l 0 (frameTaken l data errs t d) else frameTaken l data errs t d := by
  have noBlock : ¬ (!errs.isEmpty && cfg (Obj.JLK_LINK.STD l.val) d == 1) = true := by
    rcases hb with rfl | h0
    · exact Bool.false_ne_true
    · simp [h0]
  simp only [jesdFrame, if_neg noBlock, windowDue_of_unarmed ha, Bool.false_and, Bool.false_eq_true, if_false, cfg_takeSamples, cfg_updLink]
  rfl

/-- With no open window a frame changes only the record of its link. -/
theorem frameTaken_of_closed (ho : openedOf (.link l) d = none) : frameTaken l data errs t d =
    updLink l.val (framed (cfg (Obj.JLK_LINK.STD l.val) d) (blockFrames l.val d) errs.length t) d := by
  rw [frameTaken, takeSamples_of_closed ho]

/-- On a JESD204B link the open window takes what it keeps of the frame and advances. -/
theorem frameTaken_of_open (hstd : cfg (Obj.JLK_LINK.STD l.val) d = 0) (ho : openedOf (.link l) d = some w) (hk : w.owner = some k) :
    frameTaken l data errs t d = updLink l.val (framedB errs.length t) (windowTook l data k w (frameBad l.val errs d) t d) := by
  rw [frameTaken, hstd, framed_zero, updLink_takeSamples (fun _ _ => by rfl) ho hk, windowTook]

/-- A frame without errors on a link without windows changes only the record of the link. -/
theorem jesdFrame_uncounted (ha : armedOf (.link l) d = none) (ho : openedOf (.link l) d = none) : jesdFrame l data [] t d =
    updLink l.val (framed (cfg (Obj.JLK_LINK.STD l.val) d) (blockFrames l.val d) 0 t) d := by
  rw [jesdFrame_of_unarmed ha (.inl rfl), frameTaken_of_closed ho]
  rfl

/-- The errors of the last millisecond of a link in DATA after a frame. -/
theorem errAt_framedB {n : Nat} (h : (linkAt l.val d).state = 4) :
    (linkAt l.val (updLink l.val (framedB n t) d)).errAt = recentErrs (linkAt l.val d).errAt n t := by
  rw [linkAt_updLink_self (link_exists (by omega))]
  rfl

/-- A window that takes samples leaves all of its link but the window. -/
theorem linkAt_windowTook {α : Type} (q : Link → α) (hq : ∀ x o, q { x with opened := o } = q x) {bad : Bool} :
    q (linkAt l.val (windowTook l data k w bad t d)) = q (linkAt l.val d) := by
  refine (linkAt_updLink_keeps q (fun x => hq x _) _ _ _).trans ?_
  simp only [linkAt, delivered_jlk]

/-- A frame of a JESD204B link in DATA with its errors within 1 ms below ERR_LIMIT, or with none, and with no window. -/
theorem jesdFrame_of_no_window (hup : srcUp (.link l) d = true) (hstd : cfg (Obj.JLK_LINK.STD l.val) d = 0) (ha : armedOf (.link l) d = none)
    (ho : openedOf (.link l) d = none)
    (he : errs = [] ∨ (recentErrs (linkAt l.val d).errAt errs.length t).length < cfg (Obj.JLK_LINK.ERR_LIMIT l.val) d) :
    jesdFrame l data errs t d = updLink l.val (framedB errs.length t) d := by
  rw [jesdFrame_of_unarmed ha (.inr hstd), frameTaken_of_closed ho, hstd, framed_zero, errAt_framedB (srcUp_link.mp hup)]
  refine if_neg ?_
  rcases he with rfl | hlt
  · exact Bool.false_ne_true
  · simp [Nat.not_le.mpr hlt]

/-- A frame without errors of a JESD204B link goes to its open window as measured. -/
theorem jesdFrame_clean (hstd : cfg (Obj.JLK_LINK.STD l.val) d = 0) (ha : armedOf (.link l) d = none)
    (ho : openedOf (.link l) d = some w) (hk : w.owner = some k) (he : (linkAt l.val d).errTo = none) :
    jesdFrame l data [] t d = updLink l.val (framedB 0 t) (windowTook l data k w false t d) := by
  have good : frameBad l.val [] d = false := by simp only [frameBad, he, List.isEmpty_nil, Bool.not_true, Bool.or_self]
  rw [jesdFrame_of_unarmed ha (.inl rfl), frameTaken_of_open hstd ho hk, good]
  rfl

/-- A frame with errors of a JESD204B link in DATA is substituted in its open window, and may re-initialise the link. -/
theorem jesdFrame_errored {e : Dev} (hup : srcUp (.link l) d = true) (hstd : cfg (Obj.JLK_LINK.STD l.val) d = 0) (ha : armedOf (.link l) d = none)
    (ho : openedOf (.link l) d = some w) (hk : w.owner = some k) (hne : errs ≠ [])
    (he : e = updLink l.val (framedB errs.length t) (windowTook l data k w true t d)) :
    jesdFrame l data errs t d =
      if (recentErrs (linkAt l.val d).errAt errs.length t).length < cfg (Obj.JLK_LINK.ERR_LIMIT l.val) d then e else linkReinit l 0 e := by
  have erred : errs.isEmpty = false := by simpa using hne
  have bad : frameBad l.val errs d = true := by simp only [frameBad, erred, Bool.not_false, Bool.true_or]
  have count : (linkAt l.val e).errAt = recentErrs (linkAt l.val d).errAt errs.length t := by
    rw [he, errAt_framedB, linkAt_windowTook Link.errAt fun _ _ => by rfl]
    rw [linkAt_windowTook Link.state fun _ _ => by rfl]
    exact srcUp_link.mp hup
  rw [jesdFrame_of_unarmed ha (.inr hstd), frameTaken_of_open hstd ho hk, bad, ← he, count, erred]
  simp only [Bool.not_false, Bool.true_and, decide_eq_true_eq, ← Nat.not_lt, ite_not]

end

/-! A word of a raw lane (R136). -/

/-- A word of an aligned lane that is not coded and has no armed window is one sample of its open window. -/
theorem rawFrame_word {p : Fin 32} {g v t : Nat} {d : Dev} (ha : armedOf (.lane p) d = none) (hg : groupOfLane p.val d = some g)
    (hc : cfg (Obj.JLK_RAW.CODING g) d = 0) :
    rawFrame p [v] [] t d = takeSamples (.lane p) 1 (fun _ _ => v % 2 ^ cfg (Obj.JLK_RAW.WIDTH g) d * 2 ^ (16 - cfg (Obj.JLK_RAW.WIDTH g) d)) false t
      (updLane p.val (fun y => { y with hist := (y.hist ++ [v]).drop (y.hist.length - 2) }) d) := by
  have seen : updLane p.val (fun y => { y with hist := ((laneAt p.val d).hist ++ [v]).drop (((laneAt p.val d).hist ++ [v]).length - 3) }) d =
      updLane p.val (fun y => { y with hist := (y.hist ++ [v]).drop (y.hist.length - 2) }) d :=
    updLane_congr (by rw [List.length_append, List.length_singleton, Nat.add_sub_add_right _ 1 2])
  rw [← seen]
  simp only [rawFrame, hg, each, List.foldl_cons, List.foldl_nil, rawItem, windowDue_of_unarmed ha, Bool.and_false, Bool.false_eq_true, if_false,
    hc, if_true, ne_eq, not_true_eq_false, and_false]
  rfl

/-- Settles O43: a window opens at its mark, and what a frame or a word delivers is what the open window keeps of it. -/
theorem linkWindowsAndFrames : Obligations.LinkWindowsAndFrames := by
  unfold Obligations.LinkWindowsAndFrames
  refine ⟨fun s src t hon => ⟨?opens, ?waits, ?down⟩, ?frames, ?word⟩
  case opens =>
    rintro mark w ⟨ha, hdue, hmark⟩
    refine ⟨_, rfl, (event_on t (linkWindowOpen src mark t) hon).trans ?_⟩
    cases src with
    | link l => rw [linkWindowOpen_link (d := s.dev.at_ t) hdue hmark, openLinkWin_link (d := (s.dev.at_ t).at_ t) ha]
    | lane p => rw [linkWindowOpen_lane (d := s.dev.at_ t) hdue hmark, openLinkWin_lane (d := (s.dev.at_ t).at_ t) ha]
  case waits =>
    intro mark h
    refine (event_on t (linkWindowOpen src mark t) hon).trans ?_
    cases src with
    | link l => rw [linkWindowOpen_link_waits (d := s.dev.at_ t) h]
    | lane p => rw [linkWindowOpen_lane_waits (d := s.dev.at_ t) h]
  case down =>
    intro data errs hdown
    exact (event_on t (linkFrame src data errs t) hon).trans (by rw [linkFrame_of_down (d := s.dev.at_ t) hdown])
  case frames =>
    rintro s l t r z ⟨hon, hup, rfl, rfl⟩
    refine ⟨?noWindow, ?clean, ?errored, ?block⟩
    case noWindow =>
      rintro data errs ⟨hstd, ha, ho, he⟩
      refine (event_on t (linkFrame (.link l) data errs t) hon).trans ?_
      rw [linkFrame_link (d := s.dev.at_ t) hup, jesdFrame_of_no_window (d := received errs t (s.dev.at_ t)) hup hstd ha ho he]
      rfl
    case clean =>
      rintro data w k ⟨hstd, ha, ho, hk, he⟩
      refine (event_on t (linkFrame (.link l) data [] t) hon).trans ?_
      rw [linkFrame_link (d := s.dev.at_ t) hup, jesdFrame_clean (d := received [] t (s.dev.at_ t)) hstd ha ho hk he, received_nil]
      rfl
    case errored =>
      rintro data w errs k ⟨hstd, ha, ho, hk, hne⟩
      refine ⟨_, rfl, (event_on t (linkFrame (.link l) data errs t) hon).trans ?_⟩
      rw [linkFrame_link (d := s.dev.at_ t) hup, jesdFrame_errored (d := received errs t (s.dev.at_ t)) hup hstd ha ho hk hne rfl]
      rfl
    case block =>
      rintro data ⟨hstd, ha, ho⟩
      have inRange : l.val < s.dev.jlk.link.length := link_exists (by rw [srcUp_link.mp hup]; decide)
      have frame : linkFrame (.link l) data [] t (s.dev.at_ t) = updLink l.val
          (framed (cfg (Obj.JLK_LINK.STD l.val) s.dev) (blockFrames l.val s.dev) 0 t) ((s.dev.at_ t).at_ t) := by
        rw [linkFrame_link (d := s.dev.at_ t) hup, received_nil, jesdFrame_uncounted (d := (s.dev.at_ t).at_ t) ha ho]
        rfl
      refine ⟨linkFrame (.link l) data [] t (s.dev.at_ t), event_on t _ hon, ?_⟩
      rw [frame, linkAt_updLink_self (d := (s.dev.at_ t).at_ t) inRange, if_pos inRange, hstd]
      exact ⟨rfl, rfl, rfl, rfl, rfl⟩
  case word =>
    rintro s p t ⟨hon, hup, ha⟩ v g ⟨hg, hc⟩
    refine (event_on t (linkFrame (.lane p) [[v]] [] t) hon).trans ?_
    rw [linkFrame_lane (d := s.dev.at_ t) hup, show [[v]].flatten = [v] from rfl, received_nil, rawFrame_word (d := (s.dev.at_ t).at_ t) ha hg hc]
    rfl

end Sys2Proof.Proofs
end

section
/-! SUPPORT. Heddle and packing (O44): what the statistics unit leaves alone, the sample that arrives, the line that leaves step 5, the packed line. -/

namespace Sys2Proof.Proofs

open Sys2Proof Sys2Proof.Machine Sys2Proof.Laws

/-! Histograms and figures change the statistics unit only (R214, R220, R221). -/

section
variable {α : Type} (p : Dev → α) (h : ∀ f d, p (d.uStat f) = p d)
include h

theorem histCount_keeps (k ln v : Nat) (d : Dev) : p (histCount k ln v d) = p d := by unfold histCount; exact h _ d

theorem histRaw_keeps (stream ln code : Nat) (d : Dev) : p (histRaw stream ln code d) = p d :=
  each_keeps p _ (fun k d => histCount_keeps p h k ln code d) _ d

theorem histShading_keeps (l : HLine) (d : Dev) : p (histShading l d) = p d := by
  refine each_keeps p _ (fun k d => each_keeps p _ (fun x d => ?_) _ d) _ d
  split
  · split
    · exact histCount_keeps p h _ _ _ d
    · rfl
  · rfl

theorem histOutput_keeps (ln ph : Nat) (out : List Int) (wide : Bool) (d : Dev) : p (histOutput ln ph out wide d) = p d := by
  refine each_keeps p _ (fun k d => each_keeps p _ (fun x d => ?_) _ d) _ d
  split
  · exact histCount_keeps p h _ _ _ d
  · rfl

theorem statCommit_keeps (l : HLine) (rec : LineRec) (d : Dev) : p (statCommit l rec d) = p d := by
  unfold statCommit
  split
  · exact h _ d
  · exact h _ d

theorem formFigures_keeps (d : Dev) : p (formFigures d) = p d := by
  refine (each_keeps p _ (fun k d => ?_) _ _).trans (h _ d)
  unfold lineFigures
  exact h _ d

end

/-! The oldest sample on its way (R144 to R153). -/

/-- The oldest sample x has left the samples on their way, and is counted at the raw tap. -/
def rawCounted (x : Sample) (rest : List Sample) (d : Dev) : Dev := histRaw x.stream x.line x.code (d.uHdl fun h => { h with inq := rest })

/-- The raw tap leaves alone what reads neither the samples on their way nor the statistics. -/
theorem rawCounted_keeps {α : Type} (p : Dev → α) (hq : ∀ q d, p (d.uHdl fun h => { h with inq := q }) = p d) (hs : ∀ f d, p (d.uStat f) = p d)
    (x : Sample) (rest : List Sample) (d : Dev) : p (rawCounted x rest d) = p d := (histRaw_keeps p hs _ _ _ _).trans (hq rest d)

section
variable (x : Sample) (rest : List Sample) (d : Dev)

@[simp] theorem lineRec_rawCounted (k : Nat) : lineRec k (rawCounted x rest d) = lineRec k d :=
  rawCounted_keeps (lineRec k) (fun _ _ => rfl) (fun _ _ => rfl) x rest d

@[simp] theorem heldLine_rawCounted (k : Nat) : heldLine k (rawCounted x rest d) = heldLine k d :=
  rawCounted_keeps (heldLine k) (fun _ _ => rfl) (fun _ _ => rfl) x rest d

@[simp] theorem bankOfLine_rawCounted (k : Nat) : bankOfLine k (rawCounted x rest d) = bankOfLine k d :=
  rawCounted_keeps (bankOfLine k) (fun _ _ => rfl) (fun _ _ => rfl) x rest d

@[simp] theorem bankSet_rawCounted (b : Bool) : bankSet b (rawCounted x rest d) = bankSet b d :=
  rawCounted_keeps (bankSet b) (fun _ _ => rfl) (fun _ _ => rfl) x rest d

end

/-- The samples of line k are discarded: it primes, or it is to be acquired again (R150, R269). -/
def discarded (k : Nat) (d : Dev) : Bool := primes k d || (d.hdl.discardFrom.map fun r => decide (r ≤ k)).getD false

theorem discarded_eq_false {k : Nat} {d : Dev} (hp : primes k d = false) (hd : (d.hdl.discardFrom.map fun r => decide (r ≤ k)).getD false = false) :
    discarded k d = false := by rw [discarded, hp, hd, Bool.or_false]

section
variable {x : Sample} {rest : List Sample} {err : TableErr} {d : Dev}

theorem heddleSample_of_none (h : d.hdl.inq = []) : heddleSample err d = d := by simp only [heddleSample, h]

theorem heddleSample_of_discarded (hq : d.hdl.inq = x :: rest) (h : discarded x.line d = true) :
    heddleSample err d = d.uHdl fun h => { h with inq := rest } := by
  unfold heddleSample
  simp only [hq]
  exact if_pos h

/-- What becomes of a sample x of line r, by the segment that claims it (R144, R146); b: the bank of its line. -/
def claimTaken (err : TableErr) (x : Sample) (r : LineRec) (b : Bool) (d : Dev) : Option (Nat × Seg) → Dev
  | none => d.uHdl fun h => { h with unmapped := sat16 h.unmapped }
  | some (si, seg) => placeSample x r.phase si seg (tableRead err b x.line (holdLine x.line r.phase d))

theorem heddleSample_of_open {r : LineRec} {c : Option (Nat × Seg)} (hq : d.hdl.inq = x :: rest) (h : discarded x.line d = false)
    (hr : lineRec x.line d = some r) (hp : r.passed = false) (hc : (bankSet (bankOfLine x.line d) d).segFor x.stream x.j = c) :
    heddleSample err d = claimTaken err x r (bankOfLine x.line d) (rawCounted x rest d) c := by
  have line := (lineRec_rawCounted x rest d x.line).trans hr
  have bank := bankOfLine_rawCounted x rest d x.line
  have set := bankSet_rawCounted x rest d (bankOfLine x.line d)
  unfold heddleSample
  simp only [hq]
  refine (if_neg (ne_true_of_eq_false h)).trans ?_
  unfold rawCounted at *
  simp only [line, hp, bank, set, hc, Bool.false_eq_true, if_false]
  cases c <;> rfl

end

/-! The pixel of a sample (R149 to R153). -/

/-- Line l takes pixel p at a position; the first that saturates counts the line in CLIP_GAIN (R153). -/
def pixelStored (l : HLine) (pos : Nat) (p : HPix) (clip : Bool) (d : Dev) : Dev :=
  (if clip && !l.clip then d.uHdl fun h => { h with clipGain := sat16 h.clipGain } else d).uHdl fun h =>
    { h with lines := h.lines.map fun y => if y.k = l.k then { y with px := Sparse.set none y.px pos (some p), clip := y.clip || clip } else y }

/-- A set with no poisoned word has none among those a pixel reads (R163). -/
theorem ueWords_of_clean {b : HdlSet} (h : b.poison = []) (a si : Nat) (seg : Seg) (y1 : Int) : ueWords b a si seg y1 = [] := by
  simp [ueWords, h]

/-- A sample whose segment does not check the range, and whose correction entry is loaded, becomes the corrected pixel of its free place. -/
theorem placeSample_of_free {x : Sample} {ph si e pos : Nat} {seg : Seg} {l : HLine} {b : HdlSet} {y2 : Int} {d : Dev}
    (hl : heldLine x.line d = some l) (hb : bankSet l.bank d = b) (hf : l.forced = false) (hrc : seg.rchk = false) (hclean : b.poison = [])
    (hpos : (seg.place x.j).1 * b.width + (seg.place x.j).2.toNat = pos) (hfree : Sparse.get none l.px pos = none)
    (he : Sparse.get none b.tab (b.addr ph (seg.place x.j).1 (seg.place x.j).2.toNat) = some e)
    (hy : linearize b seg.lin ((x.code : Int) - (e % 65536 : Nat)) = y2) :
    placeSample x ph si seg d =
      let y3 := gainStep y2 (totalGain (e / 65536) (Sparse.get 0x4000 l.shade (seg.place x.j).2.toNat) l.pg)
      pixelStored l pos { y3 := sat24 y3, yu := sat24 (gainStep y2 (e / 65536)), rng := x.rng, invalid := x.subst } (sat24 y3 != y3) d := by
  unfold placeSample
  simp only [hl, hb]
  simp only [hpos, hf, hfree, hrc, entryOf, he, hy, ueWords_of_clean hclean, each, Option.isSome_none, Bool.or_self, Bool.false_and, Bool.false_eq_true,
    if_false, List.foldl_nil, List.isEmpty_nil, Bool.not_true, Bool.or_false]
  rfl

/-- A line that is held is not held anew. -/
theorem holdLine_of_held {k ph : Nat} {d : Dev} {l : HLine} (h : heldLine k d = some l) : holdLine k ph d = d := by
  rw [holdLine, h]
  rfl

/-! A line leaves step 5 (R149). -/

/-- What a line on its way to the packing queue leaves alone until it is passed: the samples on their way, the packing queue, and which lines are
on record. -/
def lineQueues (d : Dev) : List Sample × List OutLine × List (Nat × Bool) := (d.hdl.inq, d.hdl.packQ, d.lines.map fun r => (r.k, r.priming))

theorem lineQueues_updLine {f : LineRec → LineRec} (hk : ∀ r, (f r).k = r.k) (hp : ∀ r, (f r).priming = r.priming) (k : Nat) (d : Dev) :
    lineQueues (updLine k f d) = lineQueues d := by
  have same (r : LineRec) : ((if r.k = k ∧ r.priming = false then f r else r).k, (if r.k = k ∧ r.priming = false then f r else r).priming) =
      (r.k, r.priming) := by
    split
    · rw [hk, hp]
    · rfl
  simp only [lineQueues, updLine, List.map_map, Function.comp_def, same]

@[simp] theorem lineQueues_flagLine (k fl : Nat) (d : Dev) : lineQueues (flagLine k fl d) = lineQueues d :=
  lineQueues_updLine (fun _ => by rfl) (fun _ => by rfl) k d

@[simp] theorem lineQueues_markLine (k fl : Nat) (d : Dev) : lineQueues (markLine k fl d) = lineQueues d := by
  unfold markLine updStarted
  split
  · rfl
  · exact lineQueues_updLine (fun _ => by rfl) (fun _ => by rfl) k d

@[simp] theorem lineQueues_raise (n : Nat) (d : Dev) : lineQueues (raise n d) = lineQueues d := raise_keeps lineQueues (fun _ _ _ => rfl) n d

@[simp] theorem lineQueues_uStat (f : Stat → Stat) (d : Dev) : lineQueues (d.uStat f) = lineQueues d := rfl

@[simp] theorem lineQueues_meetUe (k : Nat) (w : Nat × Nat) (d : Dev) : lineQueues (meetUe k w d) = lineQueues d :=
  lineQueues_flagLine _ _ _

@[simp] theorem lineQueues_shadeSettled (d : Dev) : lineQueues (shadeSettled d) = lineQueues d := by
  unfold shadeSettled
  split
  · rw [lineQueues_raise, lineQueues_uStat]
  · rfl

@[simp] theorem lineQueues_swapResets (due : Nat → Bool) (d : Dev) : lineQueues (swapResets due d) = lineQueues d := by
  simp only [swapResets]
  split
  · rfl
  · split
    · exact lineQueues_shadeSettled _
    · rfl

@[simp] theorem lineQueues_markCompared (k : Nat) (d : Dev) : lineQueues (markCompared k d) = lineQueues d := by
  unfold markCompared
  split
  · exact lineQueues_markLine _ _ _
  · rfl

@[simp] theorem lineQueues_shadeStep (tp : Nat) (d : Dev) : lineQueues (shadeStep tp d) = lineQueues d := by
  simp only [shadeStep]
  split
  · rfl
  · exact lineQueues_shadeSettled _

/-- That the old bank is free changes LOAD_STATE only (R167). -/
theorem drainEnd_keeps {α : Type} (p : Dev → α) (h : ∀ x d, p (d.uHdl fun h => { h with loadState := x }) = p d) (d : Dev) : p (drainEnd d) = p d := by
  unfold drainEnd
  split
  · exact h 0 d
  · rfl

@[simp] theorem lineQueues_stepFive (l : HLine) (d : Dev) : lineQueues (stepFive l d).2 = lineQueues d := by
  unfold stepFive
  extract_lets x d1 sub reach fill px filled d2 d3
  have met : lineQueues d1 = lineQueues d := each_keeps lineQueues _ (lineQueues_meetUe l.k) _ d
  have flagged : lineQueues d2 = lineQueues d1 := by
    simp only [d2]
    split
    · exact lineQueues_flagLine _ _ _
    · rfl
  have unlisted : lineQueues d3 = lineQueues d2 := by
    simp only [d3]
    split
    · exact lineQueues_flagLine _ _ _
    · rfl
  exact unlisted.trans (flagged.trans met)

/-- A line is on record in its own right as the list of indices says. -/
theorem lineRec_isSome (k : Nat) (d : Dev) : (lineRec k d).isSome ↔ (k, false) ∈ (lineQueues d).2.2 := by
  simp [lineRec, lineQueues]

theorem lineRec_updLine {f : LineRec → LineRec} (hk : ∀ r, (f r).k = r.k) (hp : ∀ r, (f r).priming = r.priming) (k : Nat) (d : Dev) :
    lineRec k (updLine k f d) = (lineRec k d).map f := by
  have same (r : LineRec) : ((if r.k = k ∧ r.priming = false then f r else r).k == k && !(if r.k = k ∧ r.priming = false then f r else r).priming) =
      (r.k == k && !r.priming) := by
    split
    · rw [hk, hp]
    · rfl
  unfold lineRec updLine
  rw [List.find?_map]
  simp only [Function.comp_def, same]
  cases h : d.lines.find? fun l => l.k == k && !l.priming with
  | none => rfl
  | some r =>
    have hr := List.find?_some h
    simp only [Bool.and_eq_true, beq_iff_eq, Bool.not_eq_true'] at hr
    simp only [Option.map_some, if_pos hr]

/-- A fold that keeps what it has or takes the element at hand ends with what it began with or an element of the list. -/
theorem foldl_keeps_or_takes {α : Type} {f : Option α → α → Option α} (hf : ∀ b x, f b x = b ∨ f b x = some x) {xs : List α} {b : Option α}
    {r : α} (h : xs.foldl f b = some r) : b = some r ∨ r ∈ xs := by
  induction xs generalizing b with
  | nil => exact .inl h
  | cons x xs ih =>
    rcases ih h with hb | hm
    · rcases hf b x with keeps | takes
      · exact .inl (keeps.symm.trans hb)
      · exact .inr (Option.some.inj (takes.symm.trans hb) ▸ List.mem_cons_self)
    · exact .inr (List.mem_cons_of_mem x hm)

/-- The line that may leave step 5 next is open, and held. -/
theorem nextDone_open {r : LineRec} {l : HLine} {d : Dev} (h : nextDone d = some (r, l)) : r ∈ openLines d ∧ heldLine r.k d = some l := by
  unfold nextDone at h
  extract_lets low at h
  cases hlow : low with
  | none => simp only [hlow, reduceCtorEq] at h
  | some m =>
    simp only [hlow] at h
    have lowest : m ∈ openLines d := by
      refine (foldl_keeps_or_takes (fun b x => ?_) hlow).resolve_left (by simp)
      cases b with
      | none => exact .inr rfl
      | some y =>
        by_cases lower : x.k < y.k
        · exact .inr (if_pos lower)
        · exact .inl (if_neg lower)
    cases hm : heldLine m.k d with
    | none => simp only [hm, reduceCtorEq] at h
    | some y =>
      simp only [hm] at h
      split at h
      · cases h
        exact ⟨lowest, hm⟩
      · cases h

/-- The line that may leave step 5 next is on record in its own right. -/
theorem nextDone_recorded {r : LineRec} {l : HLine} {d : Dev} (h : nextDone d = some (r, l)) : (lineRec l.k d).isSome := by
  obtain ⟨hopen, hheld⟩ := nextDone_open h
  have index : l.k = r.k := by simpa using List.find?_some hheld
  simp only [openLines, List.mem_filter, Bool.and_eq_true, Bool.not_eq_true'] at hopen
  obtain ⟨listed, -, own⟩ := hopen
  exact (lineRec_isSome l.k d).mpr (List.mem_map.mpr ⟨r, listed, by rw [index, own]⟩)

/-- The device after step 5 of line l, with its marks (R149, R159, R166). -/
def lineFinal (l : HLine) (d : Dev) : Dev := markCompared l.k (swapResets (fun n => decide (n ≤ l.k)) (stepFive l d).2)

/-- The statistics unit takes line l, of header rec (R214, R217, R220, R221). -/
def lineCounted (l : HLine) (rec : LineRec) (tp : Nat) (d : Dev) : Dev :=
  shadeStep tp (formFigures ((histShading l (statCommit l rec d)).uStat fun s => { s with left := s.left ++ [l.k] }))

/-- Line k is passed, and no longer held (R148, R167). -/
def linePassed (k : Nat) (d : Dev) : Dev :=
  drainEnd ((updLine k (fun r => { r with passed := true }) d).uHdl fun h => { h with lines := h.lines.filter fun y => y.k != k, lastPassed := some k })

/-- A line of one row that leaves step 5 enters the packing queue. -/
theorem heddleLineDone_of_row {r rec : LineRec} {l : HLine} {d : Dev} (h : nextDone d = some (r, l)) (hrows : (bankSet l.bank d).rows ≤ 1)
    (hr : lineRec l.k (lineFinal l d) = some rec) : ∃ v, heddleLineDone d =
      (linePassed l.k (lineCounted l rec ((bankSet l.bank d).tp l.phase) (lineFinal l d))).uHdl fun h => { h with packQ := h.packQ ++ [{ k := l.k, v }] } := by
  unfold lineFinal at hr
  unfold heddleLineDone lineFinal linePassed lineCounted
  simp only [h, hrows, hr, if_true]
  exact ⟨_, rfl⟩

theorem lineQueues_lineFinal (l : HLine) (d : Dev) : lineQueues (lineFinal l d) = lineQueues d := by simp [lineFinal]

theorem lineQueues_lineCounted (l : HLine) (rec : LineRec) (tp : Nat) (d : Dev) : lineQueues (lineCounted l rec tp d) = lineQueues d := by
  have statOnly (f : Stat → Stat) (e : Dev) : lineQueues (e.uStat f) = lineQueues e := rfl
  rw [lineCounted, lineQueues_shadeStep, formFigures_keeps lineQueues statOnly, statOnly, histShading_keeps lineQueues statOnly,
    statCommit_keeps lineQueues statOnly]

section
variable (k : Nat) (d : Dev)

theorem lineRec_linePassed : lineRec k (linePassed k d) = (lineRec k d).map fun r => { r with passed := true } :=
  (drainEnd_keeps (lineRec k) (fun _ _ => rfl) _).trans
    (lineRec_updLine (f := fun r => { r with passed := true }) (fun _ => rfl) (fun _ => rfl) k d)

theorem heldLine_linePassed : heldLine k (linePassed k d) = none := by
  refine (drainEnd_keeps (heldLine k) (fun _ _ => rfl) _).trans ?_
  simp [heldLine]

theorem lastPassed_linePassed : (linePassed k d).hdl.lastPassed = some k := drainEnd_keeps (·.hdl.lastPassed) (fun _ _ => rfl) _

theorem inq_linePassed : (linePassed k d).hdl.inq = d.hdl.inq := drainEnd_keeps (·.hdl.inq) (fun _ _ => rfl) _

theorem packQ_linePassed : (linePassed k d).hdl.packQ = d.hdl.packQ := drainEnd_keeps (·.hdl.packQ) (fun _ _ => rfl) _

end

/-- A complete line of one row leaves step 5 passed, is no longer held, and enters the packing queue behind the others (R149). -/
theorem heddleLineDone_passes {r : LineRec} {l : HLine} {d : Dev} (h : nextDone d = some (r, l)) (hrows : (bankSet l.bank d).rows ≤ 1) :
    (lineRec l.k (heddleLineDone d)).map (·.passed) = some true ∧ heldLine l.k (heddleLineDone d) = none ∧
      (heddleLineDone d).hdl.lastPassed = some l.k ∧ (heddleLineDone d).hdl.packQ.map (·.k) = d.hdl.packQ.map (·.k) ++ [l.k] ∧
      (heddleLineDone d).hdl.inq = d.hdl.inq := by
  have recorded (e : Dev) (he : lineQueues e = lineQueues d) : ∃ rec, lineRec l.k e = some rec :=
    Option.isSome_iff_exists.mp ((lineRec_isSome l.k e).mpr (he ▸ (lineRec_isSome l.k d).mp (nextDone_recorded h)))
  obtain ⟨rec, hrec⟩ := recorded _ (lineQueues_lineFinal l d)
  obtain ⟨v, hv⟩ := heddleLineDone_of_row h hrows hrec
  have queues : lineQueues (lineCounted l rec ((bankSet l.bank d).tp l.phase) (lineFinal l d)) = lineQueues d :=
    (lineQueues_lineCounted _ _ _ _).trans (lineQueues_lineFinal l d)
  generalize lineCounted l rec ((bankSet l.bank d).tp l.phase) (lineFinal l d) = e at hv queues
  obtain ⟨own, hown⟩ := recorded e queues
  simp only [lineQueues, Prod.mk.injEq] at queues
  obtain ⟨inq, packQ, -⟩ := queues
  rw [hv]
  refine ⟨?_, heldLine_linePassed l.k e, lastPassed_linePassed l.k e, ?_, (inq_linePassed l.k e).trans inq⟩
  · exact congrArg (Option.map (·.passed)) ((lineRec_linePassed l.k e).trans (congrArg _ hown))
  · simp [packQ_linePassed, packQ]

/-- HEDDLE_LINE_DONE waits while packing is stalled, or while no line may leave step 5. -/
theorem lineDone_of_waiting {d : Dev} (h : packStalled d = true ∨ nextDone d = none) : lineDone d = d := by
  unfold lineDone
  split
  · rfl
  next go =>
    have none : nextDone d = none := h.resolve_left fun hs => go (by rw [hs]; rfl)
    simp only [heddleLineDone, none]

/-- HEDDLE_LINE_DONE acts while packing takes lines and, with several rows, the closing buffer has room (R194). -/
theorem lineDone_of_room {d : Dev} (hs : packStalled d = false) (h : rowsOf d ≤ 1 ∨ d.hdl.packQ.length ≤ 1) : lineDone d = heddleLineDone d :=
  if_neg (by rw [hs]; simp only [Bool.false_or, Bool.and_eq_true, decide_eq_true_eq]; omega)

/-! Packing (R168 to R170). -/

/-- PACK_LINE waits while packing is stalled, or without an output line. -/
theorem packLine_of_waiting {d : Dev} (h : d.hdl.packQ = [] ∨ packStalled d = true) : packLine d = d := by
  unfold packLine
  cases hq : d.hdl.packQ with
  | nil => rfl
  | cons o rest => exact if_pos (h.resolve_left (by simp [hq]))

/-- The output line at the head has left the packing queue; a line of which a clamp acted counts in CLIP_PACK (R168). -/
def lineTaken (rest : List OutLine) (clip : Bool) (d : Dev) : Dev :=
  if clip then (d.uHdl fun h => { h with packQ := rest }).uHdl fun h => { h with clipPack := sat16 h.clipPack } else d.uHdl fun h => { h with packQ := rest }

/-- The output line o of record r is packed as pixels px into n rows of words: it is counted at the output tap (R168, R220). -/
def linePacked (o : OutLine) (r : LineRec) (px : List Int) (n : Nat) (rest : List OutLine) (clip : Bool) (d : Dev) : Dev :=
  (histOutput o.k r.phase px (outBits d == 32) (lineTaken rest clip d)).uPace fun p => { p with recBytes := 32 * n }

/-- What reads neither the packing queue and its count nor the statistics nor the pacing unit stays as a line is packed. -/
theorem linePacked_keeps {α : Type} (p : Dev → α) (hh : ∀ q c d, p (d.uHdl fun h => { h with packQ := q, clipPack := c }) = p d)
    (hs : ∀ f d, p (d.uStat f) = p d) (hp : ∀ f d, p (d.uPace f) = p d) (o : OutLine) (r : LineRec) (px : List Int) (n : Nat) (rest : List OutLine)
    (clip : Bool) (d : Dev) : p (linePacked o r px n rest clip d) = p d := by
  refine (hp _ _).trans ((histOutput_keeps p hs _ _ _ _ _).trans ?_)
  unfold lineTaken
  split
  · exact hh _ _ d
  · exact hh rest d.hdl.clipPack d

/-- An output line that no restart verifies is packed with the header of its line, and every target's queue takes its packet. -/
theorem packLine_of_record {o : OutLine} {rest : List OutLine} {r : LineRec} {ws : List (List Word)} {px : List Int} {clip : Bool} {d : Dev}
    (hq : d.hdl.packQ = o :: rest) (hs : packStalled d = false) (hr : lineRec o.k d = some r) (hv : d.pace.verify = none)
    (hp : packRecord o r d = (ws, px, clip)) :
    packLine d = each (packTargets d) (fun q d => pushPacket q (packet ws) d)
      { linePacked o r px ws.length rest clip d with
        lines := (linePacked o r px ws.length rest clip d).lines.filter fun l => !((l.passed || l.priming) && decide (l.k ≤ o.k)) } := by
  have line : lineRec o.k (d.uHdl fun h => { h with packQ := rest }) = some r := hr
  have unverified : restartVerify o.k r (d.uHdl fun h => { h with packQ := rest }) = d.uHdl fun h => { h with packQ := rest } := by
    simp only [restartVerify, uHdl_pace, hv]
  have record : packRecord o r (d.uHdl fun h => { h with packQ := rest }) = (ws, px, clip) := hp
  have width : outBits (lineTaken rest clip d) = outBits d := by
    unfold lineTaken
    split <;> rfl
  have targets : packTargets (linePacked o r px ws.length rest clip d) = packTargets d :=
    linePacked_keeps packTargets (fun _ _ _ => rfl) (fun _ _ => rfl) (fun _ _ => rfl) _ _ _ _ _ _ _
  unfold packLine
  simp only [hq, hs, line, unverified, record, Option.getD_some, Bool.false_eq_true, if_false]
  rw [← targets, linePacked, ← width]
  rfl

/-- Settles O44: each row acts at its instant through the lemma of its case. -/
theorem heddleAndPacking : Obligations.HeddleAndPacking := by
  unfold Obligations.HeddleAndPacking
  refine ⟨?empty, ?discard, ?unmapped, ?pixel, ?waits, ?passes, ?idle, ?packs⟩
  case empty =>
    rintro s t err ⟨hon, hq⟩
    exact (event_on t (heddleSample err) hon).trans (by rw [heddleSample_of_none (d := s.dev.at_ t) hq])
  case discard =>
    rintro s t err x rest ⟨hon, hq, h⟩
    refine (event_on t (heddleSample err) hon).trans ?_
    rw [heddleSample_of_discarded (d := s.dev.at_ t) hq (Bool.or_eq_true_iff.mpr h)]
  case unmapped =>
    rintro s t err x rest r ⟨hon, hq, hp, hd⟩ ⟨hr, hopen, hseg⟩
    refine (event_on t (heddleSample err) hon).trans ?_
    rw [heddleSample_of_open (d := s.dev.at_ t) hq (discarded_eq_false hp hd) hr hopen hseg]
    rfl
  case pixel =>
    rintro s t x rest r l si e pos seg b y3 ⟨hon, hq, hp, hd⟩ ⟨hr, hopen, hl, hbank, hf⟩ ⟨rfl, hseg, hrc, hclean, rfl, hfree⟩ ⟨he, rfl⟩
    have held : heldLine x.line (rawCounted x rest (s.dev.at_ t)) = some l := (heldLine_rawCounted _ _ _ _).trans hl
    refine ⟨_, rfl, (event_on t (heddleSample .none) hon).trans ?_⟩
    rw [heddleSample_of_open (d := s.dev.at_ t) hq (discarded_eq_false hp hd) hr hopen (hbank ▸ hseg), claimTaken, holdLine_of_held held]
    refine (congrArg (fun d => Host.Outcome.next { s with dev := d }) ?_)
    exact placeSample_of_free held (bankSet_rawCounted _ _ _ _) hf hrc hclean rfl hfree he rfl
  case waits =>
    rintro s t ⟨hon, h⟩
    refine (event_on t lineDone hon).trans ?_
    rw [lineDone_of_waiting (d := s.dev.at_ t) h]
  case passes =>
    rintro s t r l ⟨hon, hs, hn, hrows, hroom⟩
    obtain ⟨passed, left, last, queued, inq⟩ := heddleLineDone_passes (d := s.dev.at_ t) hn hrows
    obtain ⟨mem, -, sec, -, objs⟩ := heddleLineDone_frame (s.dev.at_ t)
    refine ⟨_, (event_on t lineDone hon).trans ?_, passed, left, last, queued, inq, objs, mem, sec⟩
    rw [lineDone_of_room (d := s.dev.at_ t) hs hroom]
  case idle =>
    rintro s t ⟨hon, h⟩
    exact (event_on t packLine hon).trans (by rw [packLine_of_waiting (d := s.dev.at_ t) h])
  case packs =>
    rintro s t o rest r ws px clip ⟨hon, hq, hs, hr, hv, hp⟩
    refine ⟨_, rfl, (event_on t packLine hon).trans ?_⟩
    rw [packLine_of_record (d := s.dev.at_ t) hq hs hr hv hp]
    rfl

end Sys2Proof.Proofs
end

section
/-! SUPPORT. Defects (O45): a live list that is out of order, in which an entry that is added is not listed. -/

namespace Sys2Proof.Proofs

open Sys2Proof Sys2Proof.Machine Sys2Proof.Laws

/-- A device whose live defect list is out of order, with its first entry poisoned. R160 lets no such list be staged. -/
def disorderedDefects : Dev := { hdl := { bank := [{ defects := [5, 3], poison := [(2, 0)] }, {}] } }

/-- Entry 4 is not listed, and there is room for it. -/
theorem disorderedDefects_room : (liveSet disorderedDefects).hasDefect 4 = false ∧ (liveSet disorderedDefects).defects.length < 8192 ∧
    disorderedDefects.hdl.bank.length = 2 := by decide +kernel

/-- Entry 4 goes before entry 5, to the place 0; the poisoned words move from place 1 on, by the count of the entries not above 4. The poison of place
0 stays, and now marks entry 4. -/
theorem disorderedDefects_added : (liveSet (addDefect 4 disorderedDefects).2).defects = [4, 5, 3] ∧
    (liveSet (addDefect 4 disorderedDefects).2).poison = [(2, 0)] := by decide +kernel

/-- The entry that was added is poisoned, and so counts as absent (R163). -/
theorem disorderedDefects_unlisted : (liveSet (addDefect 4 disorderedDefects).2).hasDefect 4 = false := by
  obtain ⟨defects, poison⟩ := disorderedDefects_added
  simp only [HdlSet.hasDefect, HdlSet.goodDefects, defects, poison]
  decide

/-- Refutes O45: its clause on an entry that is not listed asks for no order of the live list (R160), and without that the entry can take a poisoned
place. -/
theorem not_bankSwapAndDefects : ¬ Obligations.BankSwapAndDefects := by
  unfold Obligations.BankSwapAndDefects
  rintro ⟨-, -, -, -, -, -, added, -⟩
  obtain ⟨-, listed, -⟩ := added disorderedDefects 4 disorderedDefects_room
  exact Bool.false_ne_true (disorderedDefects_unlisted.symm.trans listed)

end Sys2Proof.Proofs
end

section
/-! SUPPORT. Scene statistics (O46): the cases of an update of the shading targets, and of the copy of a histogram. -/

namespace Sys2Proof.Proofs

open Sys2Proof Sys2Proof.Machine Sys2Proof.Laws

/-! Shading targets (R216, R219). -/

section
variable {tp : Nat} {d : Dev}

/-- The lines that an update uses have left the count of table phase tp. -/
def linesUsed (tp : Nat) (d : Dev) : Dev := d.uStat fun x => { x with committed := upd x.committed tp (· - 2 ^ cfg Obj.STAT_CTL.UPD d) }

/-- The columns of table phase tp with MIN_N values. -/
def shadedCols (tp : Nat) (d : Dev) : List Nat :=
  ((at' d.stat.n tp []).filter fun x => decide (cfg Obj.STAT_CTL.MIN_N d ≤ x.2)).map Prod.fst

/-- The level of table phase tp is stored, and its update begins with no column at a limit. -/
def levelStored (tp : Nat) (lvl : Int) (d : Dev) : Dev :=
  d.uStat fun x => { x with level := put x.level tp (ofS 16 (lvl / 4096)), limitCols := 0 }

/-- The level of table phase tp is stored, and each column with MIN_N values is staged its target (R216, R218). -/
def targetsStaged (tp : Nat) (lvl : Int) (d : Dev) : Dev := (shadedCols tp d).foldl (stageTarget tp lvl) (levelStored tp lvl d)

/-- Entries that differ from their targets begin to move; where there is none, the last may just have settled (R219). -/
def startMoving (d : Dev) : Dev := if 0 < settlingEntries d then d.uStat fun x => { x with moving := true } else shadeSettled d

/-- The phase level does not rest on the count of committed lines. -/
theorem phaseLevel_linesUsed : phaseLevel tp (linesUsed tp d) = phaseLevel tp d := rfl

/-- The columns with MIN_N values do not rest on the level. -/
theorem shadedCols_levelStored {lvl : Int} : shadedCols tp (levelStored tp lvl d) = shadedCols tp d := rfl

/-- Without SHADE_EN, or with fewer than 2^UPD lines, an update does nothing. -/
theorem statShadeUpdate_of_not_due
    (h : cfgB Obj.STAT_CTL.SHADE_EN d = false ∨ at' d.stat.committed tp 0 < 2 ^ cfg Obj.STAT_CTL.UPD d) : statShadeUpdate tp d = d := by
  refine if_neg ?_
  rintro ⟨enabled, due⟩
  rcases h with disabled | few
  · exact Bool.false_ne_true (disabled.symm.trans enabled)
  · exact absurd due (Nat.not_le.mpr few)

/-- An update that is due uses its lines, and goes on where the phase has a level. -/
theorem statShadeUpdate_of_due (en : cfgB Obj.STAT_CTL.SHADE_EN d = true)
    (due : 2 ^ cfg Obj.STAT_CTL.UPD d ≤ at' d.stat.committed tp 0) :
    statShadeUpdate tp d = (phaseLevel tp d).elim (linesUsed tp d) fun lvl => startMoving (targetsStaged tp lvl (linesUsed tp d)) := by
  unfold statShadeUpdate
  rw [if_pos ⟨en, due⟩, ← linesUsed]
  simp only [phaseLevel_linesUsed]
  cases phaseLevel tp d with
  | none => rfl
  | some lvl =>
    dsimp only [Option.elim_some]
    rw [← levelStored, ← shadedCols, shadedCols_levelStored, ← targetsStaged, ← startMoving]

end

/-! Histograms (R220). -/

section
variable {k : Nat} {d : Dev}

/-- Engine k has copied the lines now, and goes on with the lines that follow them. -/
def histCopied (k : Nat) (now : List (Nat × Sparse Nat)) (d : Dev) : Dev :=
  d.uStat fun x => { x with hist := put x.hist k {
    lines := (at' d.stat.hist k {}).lines.drop (cfg (Obj.STAT_HIST_CFG.LINES k) d), snap := histSum now,
    snapLine := (now.getLast?.map Prod.fst).getD 0, snaps := wrap32 ((at' d.stat.hist k {}).snaps + 1) } }

/-- An engine without a source, or with fewer than LINES lines, copies nothing. -/
theorem histSnapshot_of_not_due
    (h : cfg (Obj.STAT_HIST_CFG.SRC k) d = 0 ∨ (at' d.stat.hist k {}).lines.length < cfg (Obj.STAT_HIST_CFG.LINES k) d) :
    histSnapshot k d = d := by
  refine if_neg ?_
  rintro ⟨source, due, -⟩
  rcases h with none | few
  · exact source none
  · exact absurd due (Nat.not_le.mpr few)

/-- An engine whose first LINES lines are counted whole copies them and raises its interrupt. -/
theorem histSnapshot_of_due {now : List (Nat × Sparse Nat)} (source : cfg (Obj.STAT_HIST_CFG.SRC k) d ≠ 0)
    (due : cfg (Obj.STAT_HIST_CFG.LINES k) d ≤ (at' d.stat.hist k {}).lines.length)
    (first : now = (at' d.stat.hist k {}).lines.take (cfg (Obj.STAT_HIST_CFG.LINES k) d))
    (whole : now.all (fun x => histDone (cfg (Obj.STAT_HIST_CFG.SRC k) d) x.1 d) = true) :
    histSnapshot k d = raise (256 + k) (histCopied k now d) := by
  subst first
  exact if_pos ⟨source, due, whole⟩

end

/-- Settles O46: each row acts at its instant, which neither the configuration nor the statistics rest on, through the lemma of its case. -/
theorem statisticsUpdates : Obligations.StatisticsUpdates := by
  unfold Obligations.StatisticsUpdates
  refine ⟨?notDue, ?noLevel, ?level, ?copy, ?noCopy⟩
  case notDue =>
    rintro s tp t ⟨hon, h⟩
    exact (event_on t (statShadeUpdate tp.val) hon).trans (by rw [statShadeUpdate_of_not_due (d := s.dev.at_ t) h])
  case noLevel =>
    rintro s tp t ⟨hon, en, due, hlvl⟩
    have noLevel : phaseLevel tp.val (s.dev.at_ t) = none := hlvl
    refine (event_on t (statShadeUpdate tp.val) hon).trans ?_
    rw [statShadeUpdate_of_due (d := s.dev.at_ t) en due, noLevel]
    rfl
  case level =>
    rintro s tp t lvl ⟨hon, en, due, hlvl⟩
    have level : phaseLevel tp.val (s.dev.at_ t) = some lvl := hlvl
    refine ⟨targetsStaged tp.val lvl (linesUsed tp.val (s.dev.at_ t)), rfl, (event_on t (statShadeUpdate tp.val) hon).trans ?_⟩
    rw [statShadeUpdate_of_due (d := s.dev.at_ t) en due, level, Option.elim_some, startMoving]
  case copy =>
    rintro s k t n now ⟨hon, rfl, source, due, first, whole⟩
    refine (event_on t (histSnapshot k.val) hon).trans ?_
    rw [histSnapshot_of_due (d := s.dev.at_ t) source due first whole]
    rfl
  case noCopy =>
    rintro s k t ⟨hon, h⟩
    exact (event_on t (histSnapshot k.val) hon).trans (by rw [histSnapshot_of_not_due (d := s.dev.at_ t) h])

end Sys2Proof.Proofs
end

section
/-! SUPPORT. Skein queues (O47, O48): one change of a queue, and what an access of a queue leaves of it and of the rest of the device. -/

namespace Sys2Proof.Proofs

open Sys2Proof Sys2Proof.Machine Sys2Proof.Laws

/-! One queue, changed. -/

/-- A queue that holds a word, or a word that waits, is one of the device's queues. -/
theorem queue_lt_length {α : Type} {g : Queue → List α} {q : Nat} {d : Dev} (hg : g {} = []) (h : g (queueAt q d) ≠ []) : q < d.skn.queue.length := by
  by_contra hlen
  exact h (by rw [queueAt, at', List.getD_eq_default _ _ (Nat.le_of_not_lt hlen), hg])

/-- A queue of the device holds what a change made of it. -/
theorem queueAt_updQueue {q : Nat} {f : Queue → Queue} {d : Dev} (h : q < d.skn.queue.length) : queueAt q (updQueue q f d) = f (queueAt q d) :=
  at'_upd_self h

/-- What a change keeps of a queue is as it was, whether the device has the queue or not. -/
theorem queueAt_updQueue_keeps {α : Type} (g : Queue → α) {f : Queue → Queue} (h : ∀ x, g (f x) = g x) (q : Nat) (d : Dev) :
    g (queueAt q (updQueue q f d)) = g (queueAt q d) := at'_upd_keeps g h d.skn.queue q q {}

/-- Two changes of the same queue are one. -/
theorem updQueue_updQueue (f g : Queue → Queue) (q : Nat) (d : Dev) : updQueue q g (updQueue q f d) = updQueue q (fun x => g (f x)) d :=
  congrArg (fun x => d.uSkn fun s => { s with queue := x }) (upd_upd f g d.skn.queue q)

/-- Two changes that agree on the queue as it stands change the device alike. -/
theorem updQueue_congr {f g : Queue → Queue} {q : Nat} {d : Dev} (h : f (queueAt q d) = g (queueAt q d)) : updQueue q f d = updQueue q g d :=
  congrArg (fun x => d.uSkn fun s => { s with queue := x }) (upd_congr h)

/-! What an access of a queue leaves of the rest (R236, R241). -/

section
variable {α : Type} (p : Dev → α)

/-- Pins change the pacing unit only. -/
theorem refreshPins_keeps (hp : ∀ f d, p (d.uPace f) = p d) (d : Dev) : p (refreshPins d) = p d := hp _ d

/-- A watermark changes ABOVE of its queue, the pins and the interrupt controller only. -/
theorem evalQueue_keeps (ha : ∀ q b d, p (updQueue q (fun x => { x with above := b }) d) = p d) (hp : ∀ f d, p (d.uPace f) = p d)
    (hi : ∀ x y d, p { d with tap := x, ic := y } = p d) (q : Nat) (d : Dev) : p (evalQueue q d) = p d := by
  have signalled (n : Nat) (b : Bool) : p (refreshPins (raise n (updQueue q (fun x => { x with above := b }) d))) = p d :=
    (refreshPins_keeps p hp _).trans ((raise_keeps p hi _ _).trans (ha q b d))
  unfold evalQueue
  extract_lets n above size
  split_ifs
  · rfl
  · exact signalled 288 true
  · exact signalled 289 false
  · rfl

section
variable (hq : ∀ q f d, p (updQueue q f d) = p d)
include hq

/-- A stalled push that completes changes its queue only. -/
theorem refill_keeps (q : Nat) (d : Dev) : p (refill q d) = p d := by
  unfold refill
  split
  · split
    · exact (hq _ _ _).trans (hq _ _ _)
    · rfl
  · rfl

/-- A word that leaves a queue changes that queue only. -/
theorem takeWord_keeps (q : Nat) (d : Dev) : p (takeWord q d) = p d := (refill_keeps p hq q _).trans (hq _ _ _)

end

end

/-- A watermark leaves of the queue all but ABOVE. -/
theorem queueAt_evalQueue_keeps {α : Type} (g : Queue → α) (h : ∀ x b, g { x with above := b } = g x) (q : Nat) (d : Dev) :
    g (queueAt q (evalQueue q d)) = g (queueAt q d) := by
  refine evalQueue_keeps (fun d => g (queueAt q d)) (fun r b d => ?_) (fun _ _ => rfl) (fun _ _ _ => rfl) q d
  exact at'_upd_keeps g (fun x => h x b) d.skn.queue r q {}

/-! The words of a queue (R236, R237). -/

/-- The words of a queue stay in front as a stalled push completes. -/
theorem words_prefix_refill (q : Nat) (d : Dev) : (queueAt q d).q <+: (queueAt q (refill q d)).q := by
  unfold refill
  split
  case h_1 w ws hw =>
    split
    · have here : q < d.skn.queue.length := queue_lt_length (g := (·.wait)) rfl (by rw [hw]; exact List.cons_ne_nil w ws)
      rw [pushWord, updQueue_updQueue, queueAt_updQueue here]
      dsimp only
      split
      · exact List.prefix_rfl
      · exact List.prefix_append _ _
    · exact List.prefix_rfl
  case h_2 => exact List.prefix_rfl

/-- Once the word at the head of a queue is taken, those behind it stand in front. -/
theorem words_prefix_takeWord {q : Nat} {w : QWord} {ws : List QWord} {d : Dev} (h : (queueAt q d).q = w :: ws) : ws <+: (queueAt q (takeWord q d)).q := by
  have here : q < d.skn.queue.length := queue_lt_length (g := (·.q)) rfl (by rw [h]; exact List.cons_ne_nil w ws)
  unfold takeWord
  refine List.IsPrefix.trans ?_ (words_prefix_refill q _)
  rw [queueAt_updQueue here]
  simp only [h, List.prefix_rfl]

end Sys2Proof.Proofs
end

section
/-! SUPPORT. Pushes and pops (O47): the producer's next word, the Reel reader's next record, and the word a consumer takes (R237, R239, R295). -/

namespace Sys2Proof.Proofs

open Sys2Proof Sys2Proof.Machine Sys2Proof.Laws

/-! The rows of Skein's accesses. -/

/-- An access of queue q that ends its Skein cycle acts on a device whose Skein runs, at the row's instant (R238). -/
theorem queueRow {q : Fin 32} {t : Nat} {s : State} {f : Dev → Dev} {e : Dev} (hon : s.dev.on 11 = true) (hc : cycleGoesOn q t s.pending = false)
    (he : f (s.dev.at_ t) = e) : event (Dev.on 11) t (inCycle (cycleGoesOn q t s.pending) q.val f) s = .next { s with dev := e } := by
  rw [hc, event_on t _ hon, ← he]
  rfl

section
variable {q flip : Nat} {ue : List Nat} {d : Dev} {w : QWord} {ws : List QWord}

/-! Pushes (R237). -/

/-- The words of a queue whose producer is no Reel reader come from elsewhere. -/
theorem readNext_of_inbound (h3 : qRole q d ≠ 3) (h4 : qRole q d ≠ 4) : readNext q ue d = d :=
  if_neg (by simp [h3, h4])

/-- A push without a word that waits is what its Reel reader made of the device. -/
theorem skeinPush_of_none {e : Dev} (he : readNext q ue d = e) (hw : (queueAt q e).wait = []) : skeinPush q ue d = e := by
  simp only [skeinPush, he, hw]

/-- The word that waits enters a queue with room. -/
theorem skeinPush_of_room {e : Dev} (he : readNext q ue d = e) (hw : (queueAt q e).wait = w :: ws) (hr : hasRoom q e = true) :
    skeinPush q ue d = servePop q (updQueue q (fun x => { x with wait := ws, stalled := false }) (pushWord q w e)) := by
  simp only [skeinPush, he, hw, hr, if_true]

/-- The word that waits stalls on a full queue. -/
theorem skeinPush_of_full {e : Dev} (he : readNext q ue d = e) (hw : (queueAt q e).wait = w :: ws) (hr : hasRoom q e = false) :
    skeinPush q ue d = updQueue q (fun x => { x with stalled := true }) e := by
  simp only [skeinPush, he, hw, hr, Bool.false_eq_true, if_false]

/-- A push leaves the pop that waits for its word. -/
theorem waitPop_pushed : (queueAt q (updQueue q (fun x => { x with wait := ws, stalled := false }) (pushWord q w d))).waitPop = (queueAt q d).waitPop := by
  rw [pushWord, updQueue_updQueue]
  refine queueAt_updQueue_keeps (·.waitPop) (fun x => ?_) q d
  dsimp only
  split <;> rfl

/-- Without a pop that waits, a push ends with its watermark (R241). -/
theorem servePop_of_none (h : (queueAt q d).waitPop = none) : servePop q d = evalQueue q d := by
  simp only [servePop, h]

/-- A pop that waits completes with the word just pushed (R237). -/
theorem servePop_of_some {header wue : Bool} (h : (queueAt q d).waitPop = some (header, flip, wue)) :
    servePop q d = evalQueue q (if header then reelHeaderPop q flip (updQueue q (fun x => { x with waitPop := none }) d)
      else skeinPop q flip wue (updQueue q (fun x => { x with waitPop := none }) d)) := by
  simp only [servePop, h]

/-! The Reel reader (R239, R295). -/

/-- A list mapped by its items alone is itself. -/
theorem mapFrom_self {α : Type} (i : Nat) (l : List α) : mapFrom i (fun _ x => x) l = l := by
  induction l generalizing i with
  | nil => rfl
  | cons x xs ih => exact congrArg (x :: ·) (ih (i + 1))

/-- No word of a record is named by an empty list. -/
@[simp] theorem ueOf_nil (n : Nat) : ueOf n [] = [] := List.filter_eq_nil_iff.mpr fun _ _ => by simp

/-- A record whose words all read well is read as it is stored. -/
theorem readRecord_nil (s : Nat) (r : Record) (d : Dev) : readRecord s r [] d = (r.words, d) := by
  simp only [readRecord, ueOf_nil, List.contains_nil, Bool.false_eq_true, if_false, mapIx, mapFrom_self]
  rfl

/-- The device whose Reel reader of queue q has taken record r. -/
def recordRead (q : Nat) (r : Record) (d : Dev) : Dev :=
  updQueue q (fun x => { x with wait := packet r.words, dir := x.dir ++ [{ k := r.k, len := r.words.length, ue := [] }] })
    (updGroup q (fun g => { g with next := r.k + 1 }) d)

/-- The Reel reader of a ring that runs takes the next record once no word of the one before waits. -/
theorem readNext_of_record {r : Record} (hrole : qRole q d = 3) (hrun : groupRunning q d = true) (hw : (queueAt q d).wait = [])
    (hr : nextRecord q d = some r) : readNext q [] d = recordRead q r d := by
  simp only [readNext, hw, hrole, hrun, hr, readRecord_nil, ueOf_nil, List.isEmpty_nil, beq_self_eq_true, Bool.and_self, Bool.true_or, if_true]
  rfl

/-- The words of the record taken wait to be pushed. -/
theorem wait_recordRead {r : Record} (hq : q < d.skn.queue.length) : (queueAt q (recordRead q r d)).wait = packet r.words :=
  congrArg (·.wait) (queueAt_updQueue hq)

/-- A record taken leaves the room in its queue. -/
theorem hasRoom_recordRead {r : Record} : hasRoom q (recordRead q r d) = hasRoom q d := by
  have drop : (queueAt q (recordRead q r d)).drop = (queueAt q d).drop := by
    exact queueAt_updQueue_keeps (·.drop) (by exact fun _ => rfl) q _
  have words : (queueAt q (recordRead q r d)).q = (queueAt q d).q := by
    exact queueAt_updQueue_keeps (·.q) (by exact fun _ => rfl) q _
  unfold hasRoom qDepth
  rw [drop, words]
  rfl

/-! Pops (R237, R239). -/

/-- The device once the word at the head of queue q is popped, and the watermark is evaluated on what is left. -/
def popped (q : Nat) (d : Dev) : Dev := evalQueue q (takeWord q d)

/-- What reads neither the queues nor the pacing unit nor the interrupts stays as a word is popped. -/
theorem popped_keeps {α : Type} (p : Dev → α) (hq : ∀ q f d, p (updQueue q f d) = p d) (hp : ∀ f d, p (d.uPace f) = p d)
    (hi : ∀ x y d, p { d with tap := x, ic := y } = p d) (q : Nat) (d : Dev) : p (popped q d) = p d :=
  (evalQueue_keeps p (fun _ _ d => hq _ _ d) hp hi q _).trans (takeWord_keeps p hq q d)

@[simp] theorem qRole_popped (q r : Nat) (d : Dev) : qRole r (popped q d) = qRole r d :=
  popped_keeps (qRole r) (fun _ _ _ => rfl) (fun _ _ => rfl) (fun _ _ _ => rfl) q d

@[simp] theorem cfg_popped (q : Nat) (f : FldDef) (d : Dev) : cfg f (popped q d) = cfg f d :=
  popped_keeps (cfg f) (fun _ _ _ => rfl) (fun _ _ => rfl) (fun _ _ _ => rfl) q d

@[simp] theorem stitching_popped (q r : Nat) (d : Dev) : stitching r (popped q d) = stitching r d :=
  popped_keeps (stitching r) (fun _ _ _ => rfl) (fun _ _ => rfl) (fun _ _ _ => rfl) q d

@[simp] theorem storeAt_popped (q s : Nat) (d : Dev) : storeAt s (popped q d) = storeAt s d :=
  popped_keeps (storeAt s) (fun _ _ _ => rfl) (fun _ _ => rfl) (fun _ _ _ => rfl) q d

/-- The store that a writer serves is the one its queue names. -/
theorem writerStore_eq {st : Nat} (h : writerStore q d = some st) : cfg (Obj.SKN_QUEUE.LS q) d = st := by
  simp only [writerStore] at h
  split at h
  · exact Option.some.inj h
  · cases h

section
variable {rue : Bool} {st : Nat} (h3 : qRole q d ≠ 3) (h4 : qRole q d ≠ 4)
include h3 h4

/-- A queue's writer that is in the middle of no packet pops nothing. -/
theorem skeinPop_of_idle (h : ((writerStore q d).all fun st => !midPacket q st d) = true) : skeinPop q flip rue d = d := by
  cases hs : writerStore q d with
  | none => simp [skeinPop, hs]
  | some st =>
    have idle : midPacket q st d = false := by simpa [hs] using h
    simp [skeinPop, hs, idle]

/-- A writer in the middle of a packet waits for a word where its queue has none. -/
theorem skeinPop_of_empty (hs : writerStore q d = some st) (hm : midPacket q st d = true) (hq : (queueAt q d).q = []) :
    skeinPop q flip rue d = waitForWord q false flip rue d := by
  simp [skeinPop, hs, hm, hq]

/-- A writer in the middle of a packet takes the word at the head of its queue. -/
theorem skeinPop_of_word (hs : writerStore q d = some st) (hm : midPacket q st d = true) (hq : (queueAt q d).q = w :: ws) :
    skeinPop q flip rue d = popInbound q st flip w (popped q d) := by
  have role3 : qRole q (popped q d) ≠ 3 := by rwa [qRole_popped]
  have role4 : qRole q (popped q d) ≠ 4 := by rwa [qRole_popped]
  have store : cfg (Obj.SKN_QUEUE.LS q) (popped q d) = st := (cfg_popped q _ d).trans (writerStore_eq hs)
  rw [popped] at role3 role4 store ⊢
  simp [skeinPop, hs, hm, hq, store]

end

/-- A word with a parity error is counted for the line with index k, and interrupt 290 raised (R239). -/
def parityCounted (k : Nat) (bad : Bool) (d : Dev) : Dev :=
  if bad then raise 290 (d.uSkn fun x => { x with parityPoison := sat16 x.parityPoison, poisonIndex := k }) else d

/-- A payload word joins the record being written; one with a parity error as zeros, which poisons the record (R239). -/
theorem popInbound_of_writing {st : Nat} {r : Writing} (hs : stitching q d = false) (hr : (storeAt st d).writing = some r) (ha : w.abort = false) :
    popInbound q st flip w d = evalStore st (updStore st (fun x => { x with writing := some { r with
      words := r.words ++ [if (readWord w flip).2 then List.replicate 8 0 else (readWord w flip).1], poison := r.poison || (readWord w flip).2,
      ended := w.end_ } }) (parityCounted r.k (readWord w flip).2 d)) := by
  simp only [popInbound, hs, hr, ha, Bool.false_eq_true, if_false]
  rfl

/-- A word of a ring's queue whose parity is right joins the record being assembled (R295). -/
theorem skeinPop_of_ring {rue : Bool} (hrole : qRole q d = 3) (hrun : groupRunning q d = true) (hasm : asmDone q d = false)
    (hq : (queueAt q d).q = w :: ws) (hpar : (readWord w flip).2 = false) :
    skeinPop q flip rue d = updQueue q (fun x => { x with got := x.got + 1 })
      (updGroup q (fun g => { g with asm := g.asm ++ [(readWord w flip).1] }) (popped q d)) := by
  have role : qRole q (popped q d) = 3 := (qRole_popped q q d).trans hrole
  rw [popped] at role ⊢
  simp [skeinPop, hrole, hrun, hasm, hq, role, outboundWord, hpar]

end

/-- The object 0x1800 is SKN_QUEUE: an accepted write of it empties every queue and starts the groups whose queues have come (R232). -/
theorem writeEffect_sknQueue {c : MnrCmd} {t : Taken} {d : Dev} (h : t.arg % 65536 = 0x1800) :
    writeEffect c t d = finish t.who St.OK 0x1800 [] (groupsStart (sknQueueApply (writtenWords c t d) d)) := by
  unfold writeEffect
  rw [h]
  rfl

/-- Settles O47: each row acts at its instant through the lemma of its case. -/
theorem skeinPushAndPop : Obligations.SkeinPushAndPop := by
  unfold Obligations.SkeinPushAndPop
  refine ⟨?noWord, ?push, ?pushServes, ?stall, ?read, ?popWaits, ?noPacket, ?popPayload, ?popRing, ?write⟩
  case noWord =>
    rintro s q ue t ⟨hon, hc, h3, h4, hw⟩
    exact queueRow hon hc (skeinPush_of_none (d := s.dev.at_ t) (readNext_of_inbound h3 h4) hw)
  case push =>
    rintro s q ue t w ws ⟨hon, hc, h3, h4, hw, hr, hp⟩
    exact queueRow hon hc ((skeinPush_of_room (d := s.dev.at_ t) (readNext_of_inbound h3 h4) hw hr).trans (servePop_of_none (waitPop_pushed.trans hp)))
  case pushServes =>
    rintro s q ue t flip w ws header wue ⟨hon, hc, h3, h4, hw, hr, hp⟩
    exact ⟨_, rfl, queueRow hon hc
      ((skeinPush_of_room (d := s.dev.at_ t) (readNext_of_inbound h3 h4) hw hr).trans (servePop_of_some (waitPop_pushed.trans hp)))⟩
  case stall =>
    rintro s q ue t w ws ⟨hon, hc, h3, h4, hw, hr⟩
    exact queueRow hon hc (skeinPush_of_full (d := s.dev.at_ t) (readNext_of_inbound h3 h4) hw hr)
  case read =>
    rintro s q t r w ws ⟨hon, hc, hlen, hrole, hrun, hw⟩ ⟨hr, hp, hroom⟩
    exact ⟨_, rfl, queueRow hon hc (skeinPush_of_room (d := s.dev.at_ t) (readNext_of_record hrole hrun hw hr)
      ((wait_recordRead hlen).trans hp) (hasRoom_recordRead.trans hroom))⟩
  case popWaits =>
    rintro s q ue t flip st ⟨hon, hc, h3, h4, hs, hm, hq⟩
    exact queueRow hon hc (skeinPop_of_empty (d := s.dev.at_ t) h3 h4 hs hm hq)
  case noPacket =>
    rintro s q ue t flip ⟨hon, hc, h3, h4, h⟩
    exact queueRow hon hc (skeinPop_of_idle (d := s.dev.at_ t) h3 h4 h)
  case popPayload =>
    rintro s q ue t flip st w ws r ⟨hon, hc, h3, h4, hs, hst⟩ ⟨hr, hopen, hq, ha⟩
    have mid : midPacket q.val st s.dev = true := by simp [midPacket, hst, hr, hopen]
    have notTile : stitching q.val (popped q.val (s.dev.at_ t)) = false := by rw [stitching_popped]; exact hst
    have record : (storeAt st (popped q.val (s.dev.at_ t))).writing = some r := by rw [storeAt_popped]; exact hr
    exact ⟨_, rfl, queueRow hon hc ((skeinPop_of_word (d := s.dev.at_ t) h3 h4 hs mid hq).trans (popInbound_of_writing notTile record ha))⟩
  case popRing =>
    rintro s q ue t flip w ws ⟨hon, hc, hrole, hrun, hasm, hq, hpar⟩
    exact ⟨_, rfl, queueRow hon hc (skeinPop_of_ring (d := s.dev.at_ t) hrole hrun hasm hq hpar)⟩
  case write =>
    rintro s c t ⟨ho, hid⟩ hs ha
    exact (namedWrite_accepted ho hs ha).trans (by rw [writeEffect_sknQueue hid]; rfl)

end Sys2Proof.Proofs
end

section
/-! SUPPORT. Records (O48): the header that begins one, the commit, and the stores that are laid out or emptied (R239, R243, R245, R252, R332). -/

namespace Sys2Proof.Proofs

open Sys2Proof Sys2Proof.Machine Sys2Proof.Laws

/-! The two words of a header (R239, R252). -/

/-- The device once the first word of a header has left queue q; w holds it, with its upset data bits, until the second one comes. -/
def firstTaken (q : Nat) (w : QWord × Nat) (d : Dev) : Dev := evalQueue q (updQueue q (fun x => { x with head := some w }) (takeWord q d))

/-- The device once both words of a header have left queue q. -/
def headerTaken (q : Nat) (w : QWord × Nat) (d : Dev) : Dev :=
  evalQueue q (updQueue q (fun x => { x with head := none }) (takeWord q (firstTaken q w d)))

/-- The rest of the packet whose word w was taken last is dropped. -/
def restDropped (q : Nat) (w : QWord) (d : Dev) : Dev := if w.end_ then d else dropRemainder q d

/-- A header that cannot be trusted is counted, and the line after the last one refused (R239, R252). -/
def headerRefused (st : Nat) (d : Dev) : Dev :=
  refuseLine st (afterLast st d) (raise 292 (d.uSkn fun x => { x with hdrParity := sat16 x.hdrParity }))

/-- A header of words a and b, of which w1 came last, begins the record of its line where store st admits it (R245, R252). -/
def recordBegun (q st : Nat) (a b : List Word) (w1 : QWord) (d : Dev) : Dev :=
  let h := hdrOf (a ++ b)
  let (ok, d) := admitLine st h.k (2 + h.bytes / 32) d
  if ok then evalStore st (updStore st (fun x => { x with writing := some { k := h.k, words := [a, b], total := 2 + h.bytes / 32, ended := w1.end_ } }) d)
  else restDropped q w1 d

section
variable {q flip st : Nat} {w0 w1 : QWord} {ws : List QWord} {d : Dev}

/-- The first word of a header is held, and the second one stands at the head of the queue. -/
theorem queueAt_firstTaken {v : QWord × Nat} (h : (queueAt q d).q = w0 :: w1 :: ws) :
    (queueAt q (firstTaken q v d)).head = some v ∧ ∃ rest, (queueAt q (firstTaken q v d)).q = w1 :: rest := by
  obtain ⟨behind, hbehind⟩ := words_prefix_takeWord h
  have words : (queueAt q (takeWord q d)).q = w1 :: (ws ++ behind) := hbehind.symm
  have here : q < (takeWord q d).skn.queue.length := queue_lt_length (g := (·.q)) rfl (by rw [words]; exact List.cons_ne_nil _ _)
  constructor
  · refine (queueAt_evalQueue_keeps (·.head) (fun _ _ => rfl) q _).trans ?_
    rw [queueAt_updQueue here]
  · refine ⟨ws ++ behind, (queueAt_evalQueue_keeps (·.q) (fun _ _ => rfl) q _).trans ?_⟩
    rw [queueAt_updQueue here]
    exact words

/-- No header is popped from a queue that no writer serves. -/
theorem reelHeaderPop_of_unserved (h : writerStore q d = none) : reelHeaderPop q flip d = d := by
  simp only [reelHeaderPop, h]

section
variable (hs : writerStore q d = some st) (ht : stitching q d = false) (hw : (storeAt st d).writing = none)
include hs ht hw

/-- A header pop waits where its queue has no word (R237). -/
theorem reelHeaderPop_of_empty (hq : (queueAt q d).q = []) : reelHeaderPop q flip d = waitForWord q true flip false d := by
  simp [reelHeaderPop, hs, ht, hw, hq]

/-- A header whose two words are there is taken; it begins its record, or is refused where the parity of a word fails. -/
theorem reelHeaderPop_of_words (hh : (queueAt q d).head = none) (hq : (queueAt q d).q = w0 :: w1 :: ws) (ha : w1.abort = false) :
    reelHeaderPop q flip d =
      if (readWord w0 (flip % 2 ^ 256)).2 || (readWord w1 (flip >>> 256)).2
        then restDropped q w1 (headerRefused st (headerTaken q (w0, flip % 2 ^ 256) d))
        else recordBegun q st (readWord w0 (flip % 2 ^ 256)).1 (readWord w1 (flip >>> 256)).1 w1 (headerTaken q (w0, flip % 2 ^ 256) d) := by
  obtain ⟨held, rest, second⟩ := queueAt_firstTaken (v := (w0, flip % 2 ^ 256)) hq
  rw [headerTaken, firstTaken]
  rw [firstTaken] at held second
  unfold reelHeaderPop
  simp only [hs, ht, hw, hh, hq, held, second, ha, Option.isSome_none, Bool.false_eq_true, if_false]
  rfl

end

/-! Commits (R245). -/

/-- The words of a record as it is committed: a poisoned one has POISON and fresh CRCs (R239). -/
def committedWords (w : Writing) : List (List Word) :=
  if w.poison then recordWords { recHdr w.words with flags := (recHdr w.words).flags ||| FL.POISON } (recPayload w.words) else w.words

/-- The record being written is committed once it has its END word. -/
theorem reelCommit_of_ended {w : Writing} (h : (storeAt st d).writing = some w) (he : w.ended = true) :
    reelCommit st d = commitRecord st w.k (committedWords w) d := by
  simp only [reelCommit, h, he, if_true]
  rfl

/-- A record that is not at its end commits nothing. -/
theorem reelCommit_of_not_ended (h : ((storeAt st d).writing.all fun w => !w.ended) = true) : reelCommit st d = d := by
  cases hw : (storeAt st d).writing with
  | none => simp only [reelCommit, hw]
  | some w =>
    have going : w.ended = false := by simpa [hw] using h
    simp only [reelCommit, hw, going, Bool.false_eq_true, if_false]

end

/-! Stores that are laid out or emptied (R243, R332). -/

/-- The object 0x1801 is REEL_LS: an accepted write of it takes effect and completes with OK (R243). -/
theorem writeEffect_reelLs {c : MnrCmd} {t : Taken} {d : Dev} (h : t.arg % 65536 = 0x1801) :
    writeEffect c t d = finish t.who St.OK 0x1801 [] (reelLsApply (writtenWords c t d) d) := by
  unfold writeEffect
  rw [h]
  rfl

/-- STORE_DISCARD of an enabled store, without payload, empties it and answers OK (R332). -/
theorem storeDiscard_of_enabled {c : MnrCmd} {t : Taken} {d : Dev} (hs : Starts Op.STORE_DISCARD c d t) (ha : t.arg < 4) (hl : t.len = 0)
    (he : storeEn t.arg (begun Op.STORE_DISCARD c d) = true) :
    storeDiscard c d = finish t.who St.OK 0 [] (clearStore t.arg (begun Op.STORE_DISCARD c d)) := by
  unfold storeDiscard
  rw [command_body _ hs]
  simp [checked, firstFail, Nat.not_le.mpr ha, Nat.mod_eq_of_lt ha, hl, he]

/-- Settles O48: each row acts at its instant through the lemma of its case. -/
theorem reelRecords : Obligations.ReelRecords := by
  unfold Obligations.ReelRecords
  refine ⟨?unserved, ?waits, ?begins, ?refuses, ?commits, ?goesOn, ?scrub, ?write, ?discard⟩
  case unserved =>
    rintro s q t flip ⟨hon, hc, hs⟩
    exact queueRow hon hc (reelHeaderPop_of_unserved (d := s.dev.at_ t) hs)
  case waits =>
    rintro s q t flip st ⟨hon, hc, hs, ht, hw, hq⟩
    exact queueRow hon hc (reelHeaderPop_of_empty (d := s.dev.at_ t) hs ht hw hq)
  case begins =>
    rintro s q t flip st w0 w1 ws h ⟨hon, hc, hs, ht, hw, hh⟩ ⟨hq, ha, good0, good1, rfl⟩
    refine ⟨_, rfl, queueRow hon hc ((reelHeaderPop_of_words (d := s.dev.at_ t) hs ht hw hh hq ha).trans ?_)⟩
    rw [good0, good1]
    rfl
  case refuses =>
    rintro s q t flip st w0 w1 ws ⟨hon, hc, hs, ht, hw, hh⟩ ⟨hq, ha, bad⟩
    refine ⟨_, rfl, queueRow hon hc ((reelHeaderPop_of_words (d := s.dev.at_ t) hs ht hw hh hq ha).trans ?_)⟩
    exact if_pos (Bool.or_eq_true_iff.mpr bad)
  case commits =>
    rintro s st t w ⟨hon, hw, he⟩
    refine ⟨_, rfl, (event_on t (reelCommit st.val) hon).trans ?_⟩
    rw [reelCommit_of_ended (d := s.dev.at_ t) hw he]
    rfl
  case goesOn =>
    rintro s st t ⟨hon, h⟩
    exact (event_on t (reelCommit st.val) hon).trans (by rw [reelCommit_of_not_ended (d := s.dev.at_ t) h])
  case scrub =>
    exact fun s n t hon => event_on t (reelScrub n) hon
  case write =>
    rintro s c t ⟨ho, hid⟩ hs ha
    exact (namedWrite_accepted ho hs ha).trans (by rw [writeEffect_reelLs hid]; rfl)
  case discard =>
    rintro s c t hs ⟨ha, hl, he⟩
    exact (act_runs (storeDiscard c) hs.1).trans (by rw [storeDiscard_of_enabled hs ha hl he])

end Sys2Proof.Proofs
end

section
/-! SUPPORT. Pacing (O49): the tick's law, the rest of a braking axis, the park, and the resume (R258 to R268, R272). -/

namespace Sys2Proof.Proofs

open Sys2Proof Sys2Proof.Machine Sys2Proof.Laws

/-- A row of the pacing unit acts on a device that is on, at the row's instant. -/
theorem paceRow {t : Nat} {s : State} {f : Dev → Dev} {e : Dev} (hon : s.dev.on 0 = true) (he : f (s.dev.at_ t) = e) :
    event (Dev.on 0) t f s = .next { s with dev := e } := by
  rw [event_on t f hon, he]

/-! What a draw of free values leaves. -/

section
variable {α : Type} {p : Dev → α} (hp : ∀ d : Dev, p d.drawn = p d)
include hp

/-- A quantity that does not read the free values stays over a taper term. -/
theorem taper_keeps (num den : Int) (d : Dev) : p (taper num den d).2 = p d := by
  unfold taper
  split
  · exact hp d
  · rfl

/-- A quantity that does not read the free values is, once v_f is known, what it was. -/
theorem of_fillTaper {d e : Dev} {vf : Int} (h : fillTaper d = (vf, e)) : p e = p d := by
  have keeps := fillTaper_keeps p d (taper_keeps hp)
  rwa [h] at keeps

/-- A quantity that does not read the free values is, once v_d is known, what it was. -/
theorem of_demand {d e : Dev} {vd : Nat} (h : demand d = (vd, e)) : p e = p d := by
  have drawn : e = (fillTaper d).2 := congrArg Prod.snd h.symm
  rw [drawn]
  exact fillTaper_keeps p d (taper_keeps hp)

end

/-! The tick (R258, R263, R268). -/

/-- The device as the pacing law leaves it, its pins and interrupt 382 aside: v_d, v_c with F, and the state that follows from them and V_SET (R258). -/
def lawSet (top vd v : Nat) (d : Dev) : Dev :=
  (setVc v (d.uPace fun p => { p with vd })).uPace fun p => { p with state := if vd < top ∨ v < top then .slowing else .running }

/-- The value of v_c one tick nearer to v_d (R258). -/
def nextVc (vd : Nat) (d : Dev) : Nat :=
  if vd < d.pace.vc then max vd (d.pace.vc - cfg Obj.PACE_CTL.A_PACE d) else min vd (d.pace.vc + cfg Obj.PACE_CTL.A_PACE d)

@[simp] theorem cfg_uPace (f : FldDef) (g : Pace → Pace) (d : Dev) : cfg f (d.uPace g) = cfg f d := rfl

@[simp] theorem externalMotion_uPace (g : Pace → Pace) (d : Dev) : externalMotion (d.uPace g) = externalMotion d := rfl

/-- A device-driven scan whose v_d lies above v_h takes its next speed and does not stop (R258, R262). -/
theorem paceLaw_of_driven {d e : Dev} {vd : Nat} (hx : externalMotion d = false) (hd : demand d = (vd, e)) (hv : vHold5 d < vd) :
    paceLaw d = if vd < vSet5 d ∧ d.pace.state ≠ .slowing then raise 382 (lawSet (vSet5 d) vd (nextVc vd d) e)
      else lawSet (vSet5 d) vd (nextVc vd d) e := by
  have driven : externalMotion e = false := (of_demand (fun _ => rfl) hd).trans hx
  have top : vSet5 e = vSet5 d := of_demand (fun _ => rfl) hd
  have pace : e.pace = d.pace := of_demand (fun _ => rfl) hd
  have acc : cfg Obj.PACE_CTL.A_PACE e = cfg Obj.PACE_CTL.A_PACE d := of_demand (fun _ => rfl) hd
  have hold : vHold5 e = vHold5 d := of_demand (fun _ => rfl) hd
  unfold paceLaw
  simp -zeta only [hd]
  extract_lets setSpeed demanded a vc paced slow began stated raised
  have paced_eq : paced = setVc (nextVc vd d) demanded := by
    simp only [paced, demanded, externalMotion_uPace, driven, Bool.false_eq_true, if_false, vc, a, cfg_uPace, uPace_pace, acc, pace, nextVc]
  have state : paced.pace.state = d.pace.state := by
    rw [paced_eq, ← pace]
    rfl
  have stated_eq : stated = lawSet (vSet5 d) vd (nextVc vd d) e := by
    simp only [stated, paced_eq, slow, setSpeed, top, Bool.or_eq_true, decide_eq_true_eq]
    rfl
  have began_iff : began = true ↔ vd < vSet5 d ∧ d.pace.state ≠ .slowing := by simp [began, slow, setSpeed, top, state]
  have above : ¬ vd ≤ vHold5 raised := by
    have held : vHold5 stated = vHold5 d := by rw [stated_eq, ← hold]; rfl
    have kept : vHold5 raised = vHold5 stated := by
      simp only [raised]
      split
      · exact raise_keeps vHold5 (fun _ _ _ => rfl) 382 stated
      · rfl
    omega
  rw [if_neg fun ⟨_, _, low⟩ => above low]
  simp only [raised, began_iff, stated_eq]

/-- With no group's XOFF, a tick in a running scan follows the pacing law. -/
theorem paceTick_of_running {d : Dev} (hg : d.krm.paceVd = []) (hm : d.pwr.mode = .scan) (ht : d.pwr.trans = .none)
    (hs : d.pace.state = .running ∨ d.pace.state = .slowing) : paceTick d = refreshPins (paceLaw d) := by
  rcases hs with hs | hs <;> simp [paceTick, hg, hs, hm, ht]

/-- With no group's XOFF, a tick brakes a braking axis. -/
theorem paceTick_of_braking {d : Dev} (hg : d.krm.paceVd = []) (hm : d.inMode [.scan, .hold] = true) (hs : d.pace.state = .braking) :
    paceTick d = refreshPins (paceBrake d) := by
  simp [paceTick, hg, hs, hm]

/-- With no group's XOFF, a tick of a run-up raises v_c towards v_r. -/
theorem paceTick_of_runUp {d : Dev} (hg : d.krm.paceVd = []) (hm : d.inMode [.scan, .hold] = true)
    (hs : d.pace.state = .runUp ∨ d.pace.state = .priming) :
    paceTick d = refreshPins (setVc (min d.pace.vr (d.pace.vc + cfg Obj.PACE_CTL.A_PACE d)) d) := by
  rcases hs with hs | hs <;> simp [paceTick, hg, hs, hm]

/-- With no group's XOFF, a tick of a unit that moves nothing brings the pins up to date. -/
theorem paceTick_of_still {d : Dev} (hg : d.krm.paceVd = []) (hs : d.pace.state = .idle ∨ d.pace.state = .parked ∨ d.pace.state = .rewinding) :
    paceTick d = refreshPins d := by
  rcases hs with hs | hs | hs <;> simp [paceTick, hg, hs]

/-- A braking axis whose stop is not that of XOFF loses one step of speed and stops no scan (R263). -/
theorem paceBrake_of_no_xoff {d : Dev} (h : d.pace.xoffStop = false) : paceBrake d = setVc (d.pace.vc - brakeStep d) d := by
  simp [paceBrake, setVc, h]

/-- The tick of a device in no scan group sends no PACE block (R454). -/
theorem paceTickGroup_of_alone {d e : Dev} (he : paceTick d = refreshPins e) (hm : e.krm.member = false) : paceTickGroup d = refreshPins e := by
  simp [paceTickGroup, he, refreshPins, hm]

/-! The park (R263, R265 to R267). -/

/-- The speed V_SET stays as K_r is fixed. -/
theorem vSet5_fixRestart (d : Dev) : vSet5 (fixRestart d) = vSet5 d := by
  obtain ⟨-, -, -, old, objs⟩ := fixRestart_frame d
  simp only [vSet5, vSet, cfg_congr objs old]

/-- A braking axis at rest in HOLD has K_r fixed and rewinds to the park for V_SET (R263, R265 to R267; assumption log 56). -/
theorem paceAxisAtRest_of_rest {d : Dev} {n : Nat} (hn : paceAxis d = some n) (hm : d.pwr.mode = .hold) (ht : d.pwr.trans = .none)
    (hs : d.pace.state = .braking) (hr : (axisAt n d).atRest = true) :
    paceAxisAtRest d = beginRewind n (vSet5 d) (updAxis n (fun x => { x with paceMove := none, stop := none }) (setVc 0 (fixRestart d))) := by
  have top (g : Axis → Axis) (e : Dev) : vSet5 (updAxis n g (setVc 0 e)) = vSet5 e := rfl
  simp only [paceAxisAtRest, hn, hm, ht, hs, hr, and_self, if_true, top, vSet5_fixRestart]

/-- Without a braking axis at rest in HOLD nothing happens. -/
theorem paceAxisAtRest_of_not {d : Dev} (h : paceAxis d = none ∨ d.pwr.mode ≠ .hold ∨ d.pwr.trans ≠ .none ∨ d.pace.state ≠ .braking ∨
    ((paceAxis d).any fun n => (axisAt n d).atRest) = false) : paceAxisAtRest d = d := by
  unfold paceAxisAtRest
  cases hn : paceAxis d with
  | none => rfl
  | some n =>
    refine if_neg ?_
    rintro ⟨hm, ht, hs, hr⟩
    simp [hn, hm, ht, hs, hr] at h

/-- The device as an axis that stands at its park finds it: its move is over, and a park short of d_park is noted with interrupt 381 (R267). -/
def parkNoted (n : Nat) (d : Dev) : Dev :=
  let e := updAxis n (fun x => { x with paceMove := none }) d
  if d.pace.parkShort then raise 381 (e.uPace fun p => { p with shortRunup := true, parkShort := false }) else e

/-- The reversal reference stays as the park is noted. -/
theorem dPark_parkNoted (n : Nat) (d : Dev) : (parkNoted n d).pace.dPark = d.pace.dPark := by
  unfold parkNoted
  split
  · exact raise_keeps (·.pace.dPark) (fun _ _ _ => rfl) 381 _
  · rfl

/-- A rewinding axis at its target is parked, and Spindle takes d_park and the index of the first priming line (R266, R267). -/
theorem paceParkReached_of_there {d : Dev} {n : Nat} (hn : paceAxis d = some n) (hs : d.pace.state = .rewinding)
    (hr : (axisAt n d).atRest = true) (ht : ((axisAt n d).paceMove.all fun m => (axisAt n d).p == m.target) = true) :
    paceParkReached d = ((parkNoted n d).uSpn fun x => { x with
      dHigh := d.pace.dPark, reversed := false, revArmed := true, abortedIdx := none
      next := d.pace.kr - cfg Obj.PACE_CTL.PRE_LINES d, line := none, tail := [] }).uPace fun p => { p with state := .parked } := by
  rw [← dPark_parkNoted n d]
  have there : (match (axisAt n d).paceMove with | some m => (axisAt n d).p == m.target | none => true) = true := by
    revert ht
    cases (axisAt n d).paceMove <;> exact id
  unfold paceParkReached
  rw [hn]
  exact if_pos ⟨hs, hr, there⟩

/-- Without a rewinding axis at rest nothing happens. -/
theorem paceParkReached_of_not {d : Dev} (h : paceAxis d = none ∨ d.pace.state ≠ .rewinding ∨
    ((paceAxis d).any fun n => (axisAt n d).atRest) = false) : paceParkReached d = d := by
  unfold paceParkReached
  cases hn : paceAxis d with
  | none => rfl
  | some n =>
    refine if_neg ?_
    rintro ⟨hs, hr, -⟩
    simp [hn, hs, hr] at h

/-! The resume (R268, R272). -/

section
variable {d : Dev} (hm : d.pwr.mode = .hold) (ht : d.pwr.trans = .none) (hr : mayResume d = true)
include hm ht hr

/-- With external motion the scan goes on at once (R272). -/
theorem paceResume_of_external (hx : externalMotion d = true) : paceResume d = resumeExternal d := by
  simp [paceResume, hm, ht, hr, hx]

section
variable {n : Nat} {vf : Int} {e : Dev} (hx : externalMotion d = false) (hn : paceAxis d = some n) (hs : d.pace.state = .parked)
  (hf : fillTaper d = (vf, e))
include hx hn hs hf

/-- A parked axis whose resume speed, the lower of the taper and the braking curve, is not 0 rewinds where its park was placed for another speed, and
runs up else (R266, R268; assumption log 56). -/
theorem paceResume_of_parked {vr : Nat} (hv : vr = (clampI 0 (min (vSet5 d) (brakeCurve d)) vf).toNat) (hpos : 0 < vr) :
    paceResume d = if vr ≠ d.pace.vr then beginRewind n vr e
      else paceMoveTo n ((axisAt n d).p + stepsOf (lineAt (d.pace.kr + 1) d +
          (256 * vr * vr / (2 * max 1 (cfg Obj.PACE_CTL.A_PACE d) * spd * spd) : Nat) - dist e) e) vr (cfg Obj.PACE_CTL.A_PACE d)
        (e.uPace fun p => { p with state := .runUp }) := by
  have top : vSet5 e = vSet5 d := of_fillTaper (fun _ => rfl) hf
  have curve : brakeCurve e = brakeCurve d := of_fillTaper (fun _ => rfl) hf
  have pace : e.pace = d.pace := of_fillTaper (fun _ => rfl) hf
  have step : cfg Obj.PACE_CTL.A_PACE e = cfg Obj.PACE_CTL.A_PACE d := of_fillTaper (fun _ => rfl) hf
  have axis : axisAt n e = axisAt n d := of_fillTaper (fun _ => rfl) hf
  have line (k : Nat) : lineAt k e = lineAt k d := of_fillTaper (p := lineAt k) (fun _ => rfl) hf
  simp only [paceResume, hm, ht, hr, hx, hn, hs, hf, top, curve, pace, step, axis, line, ← hv, hpos.ne', and_self, if_true, if_false,
    Bool.false_eq_true]

end

end

/-- Without its condition no scan resumes. -/
theorem paceResume_of_not {d : Dev} (h : d.pwr.mode ≠ .hold ∨ d.pwr.trans ≠ .none ∨ mayResume d = false) : paceResume d = d := by
  refine if_neg ?_
  rintro ⟨hm, ht, hr⟩
  simp [hm, ht, hr] at h

/-- Settles O49: each row acts at its instant through the lemma of its case; the park for V_SET and the rewind to another one are assumption log 56. -/
theorem pacingCommands : Obligations.PacingCommands := by
  unfold Obligations.PacingCommands
  refine ⟨?law, ?brakes, ?runsUp, ?still, ?pins, ?atRest, ?notAtRest, ?park, ?noPark, ?goesOn, ?runUp, ?rewinds, ?stays⟩
  case law =>
    rintro s t vd v e ⟨hon, hk, hg, hm, ht, hs⟩ ⟨hx, hd, hv, rfl⟩
    have tick := (paceTick_of_running (d := s.dev.at_ t) hg hm ht hs).trans (congrArg refreshPins (paceLaw_of_driven hx hd hv))
    refine ⟨_, rfl, paceRow hon (paceTickGroup_of_alone tick ?_)⟩
    have member : e.krm.member = false := (of_demand (p := (·.krm.member)) (fun _ => rfl) hd).trans hk
    split
    · exact (raise_keeps (·.krm.member) (fun _ _ _ => rfl) 382 _).trans member
    · exact member
  case brakes =>
    rintro s t ⟨hon, hk, hg, hm, hs, hx⟩
    have tick := (paceTick_of_braking (d := s.dev.at_ t) hg hm hs).trans (congrArg refreshPins (paceBrake_of_no_xoff hx))
    exact paceRow hon (paceTickGroup_of_alone tick hk)
  case runsUp =>
    rintro s t ⟨hon, hk, hg, hm, hs⟩
    exact paceRow hon (paceTickGroup_of_alone (paceTick_of_runUp (d := s.dev.at_ t) hg hm hs) hk)
  case still =>
    rintro s t ⟨hon, hk, hg, hs⟩
    exact paceRow hon (paceTickGroup_of_alone (paceTick_of_still (d := s.dev.at_ t) hg hs) hk)
  case pins =>
    exact fun s p t hon => paceRow (f := fcMinAssertEnd p.val) hon rfl
  case atRest =>
    rintro s t n ⟨hon, hn, hm, ht, hs, hr⟩
    exact paceRow hon (paceAxisAtRest_of_rest (d := s.dev.at_ t) hn hm ht hs hr)
  case notAtRest =>
    rintro s t ⟨hon, h⟩
    exact paceRow hon (paceAxisAtRest_of_not (d := s.dev.at_ t) h)
  case park =>
    rintro s t n ⟨hon, hn, hs, hr, hp⟩
    exact ⟨_, rfl, paceRow hon (paceParkReached_of_there (d := s.dev.at_ t) hn hs hr hp)⟩
  case noPark =>
    rintro s t ⟨hon, h⟩
    exact paceRow hon (paceParkReached_of_not (d := s.dev.at_ t) h)
  case goesOn =>
    rintro s t ⟨hon, hm, ht, hr, hx⟩
    exact paceRow hon (paceResume_of_external (d := s.dev.at_ t) hm ht hr hx)
  case runUp =>
    rintro s t n vr vf e ⟨hon, hm, ht, hr, hx, hn, hs⟩ ⟨hf, hv, hpos, same⟩
    have resumed := paceResume_of_parked (d := s.dev.at_ t) hm ht hr hx hn hs hf hv hpos
    exact paceRow hon (resumed.trans (if_neg (not_not.mpr same)))
  case rewinds =>
    rintro s t n vr vf e ⟨hon, hm, ht, hr, hx, hn, hs⟩ ⟨hf, hv, hpos, other⟩
    have resumed := paceResume_of_parked (d := s.dev.at_ t) hm ht hr hx hn hs hf hv hpos
    exact paceRow hon (resumed.trans (if_pos other))
  case stays =>
    rintro s t ⟨hon, h⟩
    exact paceRow hon (paceResume_of_not (d := s.dev.at_ t) h)

end Sys2Proof.Proofs
end

section
/-! SUPPORT. What whole families of commands leave alone (O3, O5): every command acts once on the device, and the effects of all but a few leave host
memory, or the state of security, as it is. -/

namespace Sys2Proof.Proofs

open Sys2Proof Sys2Proof.Machine Sys2Proof.Laws

/-! One act (assumption log 5). -/

section
variable {g : Dev → Bool} {f : Dev → Dev} {s t : State}

/-- What an effect preserves holds after an act, which either has that effect or changes nothing. -/
theorem act_preserves {Q : Dev → Prop} (hf : ∀ d, Q d → Q (f d)) (h : act g f s = .next t) (hs : Q s.dev) : Q t.dev := by
  injection h with h
  rw [← h]
  show Q (guardD (g s.dev) f s.dev)
  unfold guardD
  split
  · exact hf _ hs
  · exact hs

/-- A quantity that an effect leaves as it is stands after an act as before. -/
theorem act_keeps {α : Type} {p : Dev → α} (hf : ∀ d, p (f d) = p d) (h : act g f s = .next t) : p t.dev = p s.dev :=
  act_preserves (Q := fun d => p d = p s.dev) (fun d hd => (hf d).trans hd) h rfl

/-- What an event's effect and the passing of time preserve holds after the event. -/
theorem event_preserves {Q : Dev → Prop} {n : Nat} (hf : ∀ d, Q d → Q (f d)) (ht : ∀ d, Q d → Q (d.at_ n)) (h : event g n f s = .next t)
    (hs : Q s.dev) : Q t.dev := by
  refine act_preserves (fun d hd => hf _ ?_) h hs
  split
  · exact hd
  · exact ht d hd

/-- What an event's effect and the passing of time leave as it is stands after the event as before. -/
theorem event_keeps {α : Type} {p : Dev → α} {n : Nat} (hf : ∀ d, p (f d) = p d) (ht : ∀ d, p (d.at_ n) = p d) (h : event g n f s = .next t) :
    p t.dev = p s.dev :=
  event_preserves (Q := fun d => p d = p s.dev) (fun d hd => (hf d).trans hd) (fun d hd => (ht d).trans hd) h rfl

end

/-- The time of an event passes over host memory. -/
@[simp] theorem eventTime_hostMem (t : Nat) (d : Dev) : (if d.pwr.mode = .reset then d else d.at_ t).hostMem = d.hostMem := by
  split <;> rfl

/-- The time of an event passes over the state of security. -/
@[simp] theorem eventTime_sec (t : Nat) (d : Dev) : (if d.pwr.mode = .reset then d else d.at_ t).sec = d.sec := by
  split <;> rfl

/-! Host memory (R285, R289, R296, R331). -/

/-- The canonical form holds after a test for a wake source, if the event before it keeps it. -/
@[simp] theorem sleepTest_mem {f : Dev → Dev} (hf : ∀ d, Memory.wf d.hostMem = true → Memory.wf (f d).hostMem = true) (d : Dev)
    (hw : Memory.wf d.hostMem = true) : Memory.wf (sleepTest f d).hostMem = true := by
  simp [sleepTest, sleepAborted, hf d hw]

/-- Outside the commands of the host stream, and those that let its waiting entries and messages go, a command's effect leaves host memory as it is. -/
theorem exec_hostMem {i : Instr} {s t : State} (hi : mayWriteHost i = false) (h : exec i s = .next t) : t.dev.hostMem = s.dev.hostMem := by
  cases i
  case acqInjResultRead | hdlDefLogRead | objRead | cqEnable | cqHeadWrite | d2hGo | h2dDone | domainReset | faultList | funcPowerStateChange | h2dGo |
      imageActivate | linkPowerStateChange | liveUpdateTimeout | msixModerationTimer | pcieLinkReset | registerWrite | ringDeliverRecord |
      ringDescFetch | ringEnable | ringIdleFlush | ringResendRequest | sessionClose | sleepWake => cases hi
  all_goals exact act_keeps (p := (·.hostMem)) (fun d => by simp) h

/-- The device's record of host memory is in canonical form. -/
abbrev canonical (d : Dev) : Prop := Memory.wf d.hostMem = true

/-- The effects of the commands that write host memory write it byte by byte, and so keep its canonical form. -/
theorem exec_canonical {i : Instr} {s t : State} (hi : mayWriteHost i = true) (h : exec i s = .next t) (hs : canonical s.dev) : canonical t.dev := by
  have time (n : Nat) (d : Dev) (hd : canonical d) : canonical (d.at_ n) := hd
  cases i
  case acqInjResultRead | hdlDefLogRead | objRead | d2hGo | h2dDone | domainReset | faultList | imageActivate | linkPowerStateChange |
      liveUpdateTimeout | msixModerationTimer | pcieLinkReset | ringDeliverRecord | ringDescFetch | ringIdleFlush | sessionClose | sleepWake =>
    exact act_preserves (Q := canonical) (fun d hd => by simp [canonical, hd]) h hs
  case funcPowerStateChange st c n => exact event_preserves (Q := canonical) (funcPowerChange_mem st c) (time n) h hs
  case cqEnable q v n => exact event_preserves (Q := canonical) (hostWrite_mem _ · (cqEnable_mem q.val v.toNat)) (time n) h hs
  case cqHeadWrite q v n => exact event_preserves (Q := canonical) (hostWrite_mem _ · (cqHeadWrite_mem q.val v.toNat)) (time n) h hs
  case ringEnable r v n => exact event_preserves (Q := canonical) (hostWrite_mem _ · (ringEnable_mem r.val v.toNat)) (time n) h hs
  case ringResendRequest r v n => exact event_preserves (Q := canonical) (hostWrite_mem _ · (ringResendRequest_mem r.val v.toNat)) (time n) h hs
  case h2dGo m n => exact event_preserves (Q := canonical) (sleepTest_mem (h2dGo_mem m.val)) (time n) h hs
  case registerWrite who addr v wide n => exact event_preserves (Q := canonical) (sleepTest_mem (registerAccess_mem who addr.toNat _)) (time n) h hs
  all_goals cases hi

/-- A step idles, or executes the command at the front of the queue with the queue's rest (assumption log 2). -/
theorem step_cases {s t : State} (h : step s = .next t) : t = s ∨ ∃ i rest, exec i { s with pending := rest } = .next t := by
  unfold step at h
  split at h
  · cases h
    exact .inl rfl
  · exact .inr ⟨_, _, h⟩

/-- Settles O3: a command outside the host stream leaves host memory as it is, and one of it keeps the canonical form. -/
theorem hostMemoryCanonical : Obligations.HostMemoryCanonical := by
  rintro s t ⟨hs, h⟩
  obtain rfl | ⟨i, rest, h⟩ := step_cases h
  · exact hs
  cases hi : mayWriteHost i with
  | false =>
    rw [hostMemOk, exec_hostMem hi h]
    exact hs
  | true => exact exec_canonical hi h hs

/-! The state of security (R484, R489, R493, R498). -/

/-- Outside boot, resets, images, keys, debug and the register writes that can be violations, a command's effect leaves the state of security as it is. -/
theorem exec_sec {i : Instr} {s t : State} (hi : mayChangeSecurity i = false) (h : exec i s = .next t) : t.dev.sec = s.dev.sec := by
  cases i
  case bootEnd | coreReady | debugAttach | debugResponse | domainReset | domainResetDone | icCfgWrite | icGctlWrite | imageActivate | imageLoad |
      imageLoadDone | jtagInstruction | keyProvision | keyProvisionDone | liveUpdateTimeout | pwrMonitorTick | registerWrite | sleepCommit | sysReset |
      vinPorFall | vinWarn => cases hi
  case funcPowerStateChange st c n => -- by the name of its frame: reduction would work through all eight queues
    exact event_keeps (p := (·.sec)) (fun d => (funcPowerChange_frame st c d).2.1) (fun _ => rfl) h
  all_goals exact act_keeps (p := (·.sec)) (fun d => by simp) h

/-- Settles O5: the effect of a command outside each of the two families leaves what that family may change. -/
theorem wholeFamiliesLeaveAlone : Obligations.WholeFamiliesLeaveAlone :=
  ⟨fun _ _ _ ⟨hi, h⟩ => exec_hostMem hi h, fun _ _ _ ⟨hi, h⟩ => exec_sec hi h⟩

end Sys2Proof.Proofs
end

section
/-! SUPPORT. The host stream's rings and completion queues (O50, O51): one of them changed, what writes of host memory leave of them, and the parts that
deliveries and completions share (R285 to R290). -/

namespace Sys2Proof.Proofs

open Sys2Proof Sys2Proof.Machine Sys2Proof.Laws

/-! The rows of the host stream. -/

/-- A row of the host stream acts on a device whose HOST domain runs, at the row's instant. -/
theorem hostRow {t : Nat} {s : State} {f : Dev → Dev} {e : Dev} (hon : s.dev.on 6 = true) (he : f (s.dev.at_ t) = e) :
    event (Dev.on 6) t f s = .next { s with dev := e } := by
  rw [event_on t f hon, he]

/-- A write by the host acts while the function may issue DMA, which is while the host reaches BAR0 (R292, R311). -/
theorem hostWrite_of_open {f : Dev → Dev} {d : Dev} (h : dmaOpen d = true) : hostWrite f d = f d := if_pos h

/-- A write by the host that does not reach BAR0 changes nothing (R311). -/
theorem hostWrite_of_closed {f : Dev → Dev} {d : Dev} (h : dmaOpen d = false) : hostWrite f d = d := if_neg (by simp [hostReach, h])

/-- A row that is a write by the host acts while DMA is open, at the row's instant. -/
theorem hostWriteRow {t : Nat} {s : State} {f : Dev → Dev} {e : Dev} (hon : s.dev.on 6 = true) (hopen : dmaOpen s.dev = true) (he : f (s.dev.at_ t) = e) :
    event (Dev.on 6) t (hostWrite f) s = .next { s with dev := e } :=
  hostRow hon ((hostWrite_of_open (d := s.dev.at_ t) hopen).trans he)

/-- A row that is a write by the host does nothing while DMA is shut. -/
theorem hostWriteRow_of_closed {t : Nat} {s : State} {f : Dev → Dev} (hon : s.dev.on 6 = true) (hclosed : dmaOpen s.dev = false) :
    event (Dev.on 6) t (hostWrite f) s = .next { s with dev := s.dev.at_ t } :=
  hostRow hon (hostWrite_of_closed (d := s.dev.at_ t) hclosed)

/-! One ring or completion queue, changed. -/

section
variable {n q : Nat} {d : Dev}

/-- A ring of the device holds what a change made of it. -/
theorem ringAt_updRing {f : Ring → Ring} (h : n < d.hs.ring.length) : ringAt n (updRing n f d) = f (ringAt n d) := at'_upd_self h

/-- What a change keeps of a ring is as it was, whether the device has the ring or not. -/
theorem ringAt_updRing_keeps {α : Type} (g : Ring → α) {f : Ring → Ring} (h : ∀ x, g (f x) = g x) (m n : Nat) (d : Dev) :
    g (ringAt n (updRing m f d)) = g (ringAt n d) := at'_upd_keeps g h d.hs.ring m n {}

/-- Two changes of the same ring are one. -/
theorem updRing_updRing (f g : Ring → Ring) (n : Nat) (d : Dev) : updRing n g (updRing n f d) = updRing n (fun x => g (f x)) d :=
  congrArg (fun x => d.uHs fun h => { h with ring := x }) (upd_upd f g d.hs.ring n)

/-- Two changes that agree on the ring as it stands change the device alike. -/
theorem updRing_congr {f g : Ring → Ring} (h : f (ringAt n d) = g (ringAt n d)) : updRing n f d = updRing n g d :=
  congrArg (fun x => d.uHs fun h => { h with ring := x }) (upd_congr h)

/-- A change of one item leaves the length of a list. -/
@[simp] theorem length_upd {α : Type} (f : α → α) (l : List α) (i : Nat) : (upd l i f).length = l.length := by
  induction l generalizing i with
  | nil => rfl
  | cons x xs ih =>
    cases i with
    | zero => rfl
    | succ i => exact congrArg (· + 1) (ih i)

/-- A change of a ring leaves the number of rings. -/
@[simp] theorem length_updRing (f : Ring → Ring) (n : Nat) (d : Dev) : (updRing n f d).hs.ring.length = d.hs.ring.length := length_upd f _ n

/-- A completion queue of the device holds what a change made of it. -/
theorem cqAt_updCq {f : Cq → Cq} (h : q < d.hs.cq.length) : cqAt q (updCq q f d) = f (cqAt q d) := at'_upd_self h

@[simp] theorem ringAt_updCq (n q : Nat) (f : Cq → Cq) (d : Dev) : ringAt n (updCq q f d) = ringAt n d := rfl

/-! Writes of host memory. -/

/-- A write of host memory leaves the host stream's own state. -/
@[simp] theorem writeBytes_hs (a : Nat) (bs : List Byte) (d : Dev) : (writeBytes a bs d).hs = d.hs := by
  induction bs generalizing a d with
  | nil => rfl
  | cons b bs ih => exact ih (a + 1) (writeByte a b d)

@[simp] theorem writeWords_hs (a : Nat) (ws : List Word) (d : Dev) : (writeWords a ws d).hs = d.hs := writeBytes_hs a _ d

@[simp] theorem ringAt_writeWords (n a : Nat) (ws : List Word) (d : Dev) : ringAt n (writeWords a ws d) = ringAt n d := by
  rw [ringAt, writeWords_hs, ringAt]

@[simp] theorem cqAt_writeWords (q a : Nat) (ws : List Word) (d : Dev) : cqAt q (writeWords a ws d) = cqAt q d := by
  rw [cqAt, writeWords_hs, cqAt]

/-- The bytes that a write leaves depend on those that it finds alone. -/
theorem writeBytes_hostMem_congr {e : Dev} (a : Nat) (bs : List Byte) (h : d.hostMem = e.hostMem) :
    (writeBytes a bs d).hostMem = (writeBytes a bs e).hostMem := by
  induction bs generalizing a d e with
  | nil => exact h
  | cons b bs ih => exact ih (a + 1) (congrArg (Sparse.set 0#8 · a b) h)

/-! Completion entries (R290). -/

/-- A ring with no entry left posts none. -/
theorem postEntries_of_none {f : Nat} (h : (ringAt n d).entries = []) : postEntries f n d = d := by
  cases f with
  | zero => rfl
  | succ f => simp only [postEntries, h]

/-- The first entry of a ring is written where its completion queue is enabled and well configured and has room, and DMA is open. -/
theorem postEntries_of_room {f : Nat} {e : CqEntry} {rest : List CqEntry} (he : (ringAt n d).entries = e :: rest)
    (hen : (cqAt (ringAt n d).cq d).en = true) (hbad : cqBad (cqAt (ringAt n d).cq d) = false) (hopen : dmaOpen d = true)
    (hroom : cqRoom (cqAt (ringAt n d).cq d) = true) :
    postEntries (f + 1) n d =
      postEntries f n (entryWritten n e (writeEntry (ringAt n d).cq e (updRing n (fun r => { r with entries := rest }) d))) := by
  simp only [postEntries, he, hen, hbad, hopen, hroom, Bool.not_true, Bool.or_false, Bool.false_eq_true, if_false, if_true]

/-- An entry that does not reach MOD_COUNT requests no message (R291). -/
theorem writeEntry_of_few {e : CqEntry} (h : (cqAt q d).pending + 1 < (cqAt q d).modCount) :
    writeEntry q e d = updCq q (fun x => { x with tail := wrap16 (x.tail + 1), pending := sat8 x.pending, timer := true })
      (writeWords ((cqAt q d).cbLo + 4294967296 * (cqAt q d).cbHi + 32 * ((cqAt q d).tail % 2 ^ (cqAt q d).sizeLog2))
        (entryWords e (((cqAt q d).tail >>> (cqAt q d).sizeLog2) % 2 == 0)) d) :=
  if_neg (Nat.not_le.mpr h)

/-! Descriptors (R287, R288). -/

section
variable {f : Nat} {x : Desc} {rest : List Desc} (hfill : (ringAt n d).fill = none) (hent : (ringAt n d).entries = [])

/-- A ring that fills a descriptor takes no other. -/
theorem takeDesc_of_filling (h : (ringAt n d).fill.isSome = true) : takeDesc f n d = d := by
  cases f with
  | zero => rfl
  | succ f => simp [takeDesc, h]

include hfill hent

/-- A good descriptor that is not empty becomes the one to fill. -/
theorem takeDesc_of_good (h : (ringAt n d).fetched = x :: rest) (hbad : x.bad = false) (hlen : x.len ≠ 0) :
    takeDesc (f + 1) n d = updRing n (fun r => { r with fill := some { desc := x, idx := (ringAt n d).cons } })
      (updRing n (fun r => { r with fetched := rest }) d) := by
  simp [takeDesc, hfill, hent, h, hbad, hlen]

/-- A bad descriptor is counted with interrupt 329 and completes with BAD_FIELD, and the next one is taken. -/
theorem takeDesc_of_bad (h : (ringAt n d).fetched = x :: rest) (hbad : x.bad = true) :
    takeDesc (f + 1) n d = takeDesc f n (pushEntry n { kind := 0, ring := n, status := St.BAD_FIELD, descIdx := (ringAt n d).cons, cookie := x.cookie }
      (raise 329 (updRing n (fun r => { r with cons := wrap16 (r.cons + 1), descErr := sat16 r.descErr })
        (updRing n (fun r => { r with fetched := rest }) d)))) := by
  simp [takeDesc, hfill, hent, h, hbad]

end

/-- The descriptor being filled completes. -/
theorem completeDesc_of_filling {status : Nat} {x : Filling} (h : (ringAt n d).fill = some x) :
    completeDesc n status d = takeDesc 17 n (pushEntry n
      { kind := 0, ring := n, status, descIdx := x.idx, lines := x.lines, bytes := x.bytes, flagsOr := x.flagsOr, first := x.first
        readErr := x.readErr, cookie := x.desc.cookie }
      (updRing n (fun r => { r with fill := none, cons := wrap16 (r.cons + 1) }) d)) := by
  simp only [completeDesc, h]

end

end Sys2Proof.Proofs
end

section
/-! SUPPORT. Rings (O50): the configuration of a ring, the start of a group, descriptors read, and records delivered (R284 to R288, R293 to R295). -/

namespace Sys2Proof.Proofs

open Sys2Proof Sys2Proof.Machine Sys2Proof.Laws

section
variable {n q : Nat} {d : Dev}

/-! The control word (R284, R286). -/

/-- A write that finds the ring off takes its configuration, and starts every group whose conditions hold. -/
theorem ringEnable_of_off {v : Nat} (h : (ringAt n d).en = false) :
    ringEnable n v d = groupsStart (updRing n (fun r => { r with en := bit v 31, sizeLog2 := bits v 3 0, batchLog2 := bits v 7 4, queue := bits v 12 8,
                                                                 cq := bits v 18 16, named := true }) d) := by
  simp only [ringEnable, h, Bool.and_false, Bool.false_and, Bool.false_eq_true, if_false]
  refine congrArg groupsStart (updRing_congr ?_)
  simp only [h, Bool.false_eq_true, if_false]

/-- A write that disables a running ring stops its group, and starts every group whose conditions then hold. -/
theorem ringEnable_of_stop {v : Nat} (hen : (ringAt n d).en = true) (hrun : (ringAt n d).running = true) (hv : bit v 31 = false) :
    ringEnable n v d = groupsStart (groupStop (ringAt n d).queue (updRing n (fun r => { r with en := false }) d)) := by
  unfold ringEnable
  extract_lets r en taken
  have off : taken = updRing n (fun r => { r with en := false }) d := updRing_congr (by simp only [hen, en, hv, if_true])
  have queue : (ringAt n taken).queue = (ringAt n d).queue := by
    rw [off]
    exact ringAt_updRing_keeps (·.queue) (by exact fun _ => rfl) n n d
  have stops : (!en && r.en && r.running) = true := by simp only [en, r, hv, hen, hrun, Bool.not_false, Bool.and_self]
  rw [if_pos stops, queue, off]

/-! The start of a group (R286). -/

/-- A ring of the device that runs for a queue makes the queue's group run. -/
theorem groupRunning_of_ring (hn : n < d.hs.ring.length) (hrun : (ringAt n d).running = true) (hq : (ringAt n d).queue = q) :
    groupRunning q d = true := by
  refine List.any_eq_true.mpr ⟨ringAt n d, ?_, by simp [hrun, hq]⟩
  rw [ringAt, at', List.getD_eq_getElem _ _ hn]
  exact List.getElem_mem hn

/-- What some item has, some item has after a change that no item loses it by. -/
theorem any_upd {α : Type} {p : α → Bool} {f : α → α} (hf : ∀ x, p x = true → p (f x) = true) {l : List α} (i : Nat) (h : l.any p = true) :
    (upd l i f).any p = true := by
  induction l generalizing i with
  | nil => exact h
  | cons x xs ih =>
    simp only [List.any_cons, Bool.or_eq_true] at h
    cases i with
    | zero => simpa only [upd, List.any_cons, Bool.or_eq_true] using h.imp_left (hf x)
    | succ i => simpa only [upd, List.any_cons, Bool.or_eq_true] using h.imp_right (ih i)

/-- A ring as its group starts, with the index before the store's tail as its confirm index. -/
def ringStarted (t : Nat) (r : Ring) : Ring := { r with running := true, stall := false, conf := if t = 0 then none else some (t - 1) }

/-- A group goes on running as rings start. -/
theorem groupRunning_each_started (t : Nat) (ms : List Nat) (h : groupRunning q d = true) :
    groupRunning q (each ms (fun n d => updRing n (ringStarted t) d) d) = true := by
  induction ms generalizing d with
  | nil => exact h
  | cons m ms ih => exact ih (any_upd (by simp +contextual [ringStarted]) m h)

section
variable {s : Nat} (hrun : groupRunning q d = false) (hms : ringsOf q d ≠ []) (hopen : d.mnr.open_ = true)
  (hbad : ((ringsOf q d).any fun n => ringBad n d) = false) (hstop : (groupAt q d).stopped = false) (hs : queueStore q d = some s)
include hrun hms hopen hbad hstop hs

/-- A group all of whose conditions hold starts with its members, from the tail of its store. -/
theorem groupStart_of_conditions : groupStart q d =
    each (ringsOf q d) (fun n e => updRing n (ringStarted (tailIndex s d)) e) (updQueue q (fun x => { above := x.above })
      (updGroup q (fun _ => { members := ringsOf q d, next := tailIndex s d, resentTo := at' d.hs.hiDlv s none }) d)) := by
  have some_ : (ringsOf q d).isEmpty = false := by simpa using hms
  simp only [groupStart, hrun, some_, hopen, hbad, hstop, hs, Bool.not_true, Bool.false_and, Bool.or_self, Bool.false_eq_true, if_false, Option.getD_some]
  rfl

/-- A group that starts runs. -/
theorem groupRunning_groupStart (hlen : d.hs.ring.length = 64) : groupRunning q (groupStart q d) = true := by
  rw [groupStart_of_conditions hrun hms hopen hbad hstop hs]
  obtain ⟨m, ms, members⟩ := List.exists_cons_of_ne_nil hms
  have member : m ∈ ringsOf q d := members ▸ List.mem_cons_self
  simp only [ringsOf, List.mem_filter, List.mem_range, Bool.and_eq_true, beq_iff_eq] at member
  obtain ⟨hm, -, queue⟩ := member
  generalize tailIndex s d = t
  rw [members]
  have here : m < d.hs.ring.length := hlen ▸ hm
  have started : ringAt m (updRing m (ringStarted t) d) = ringStarted t (ringAt m d) := ringAt_updRing here
  refine groupRunning_each_started t ms (groupRunning_of_ring (n := m) ?_ ?_ ?_)
  · rw [length_updRing]
    exact here
  · exact congrArg (·.running) started
  · exact (congrArg (·.queue) started).trans queue

/-- A group that starts takes its members, reads from the tail of its store, and marks as re-sent what the store has delivered. -/
theorem groupAt_groupStart (hq : q < d.hs.group.length) :
    groupAt q (groupStart q d) = { members := ringsOf q d, next := tailIndex s d, resentTo := at' d.hs.hiDlv s none } := by
  rw [groupStart_of_conditions hrun hms hopen hbad hstop hs]
  exact (each_keeps (groupAt q) (fun n e => updRing n (ringStarted (tailIndex s d)) e) (fun _ _ => rfl) _ _).trans (at'_upd_self hq)

end

/-! Descriptors (R287). -/

/-- The descriptor that is read joins those that wait. -/
def descRead (n : Nat) (x : Desc) (d : Dev) : Dev := updRing n (fun r => { r with fetched := r.fetched ++ [x] }) d

/-- A ring without one that waits holds the descriptor that it reads. -/
theorem ringAt_descRead {x : Desc} (hn : n < d.hs.ring.length) (hfetched : (ringAt n d).fetched = []) :
    ringAt n (descRead n x d) = { ringAt n d with fetched := [x] } := by
  rw [descRead, ringAt_updRing hn, hfetched]
  rfl

/-- A ring that runs reads a descriptor that is posted, and takes it if it can. -/
theorem ringDescFetch_of_posted {ws : List Word} (hrun : (ringAt n d).running = true) (hopen : dmaOpen d = true) (hmost : (ringAt n d).fetched.length < 16)
    (hposted : (ringAt n d).fetched.length + b2n (ringAt n d).fill.isSome < (ringAt n d).posted) :
    ringDescFetch n ws d = takeDesc 17 n (descRead n (descOf ws) d) := by
  simp only [ringDescFetch, hrun, hopen, hmost, hposted, decide_true, Bool.and_self, if_true]
  rfl

/-- A ring that does not run, or has no descriptor left to read, reads none; nor does one while DMA is shut. -/
theorem ringDescFetch_of_none {ws : List Word} (h : (ringAt n d).running = false ∨ dmaOpen d = false ∨
    (ringAt n d).posted ≤ (ringAt n d).fetched.length + b2n (ringAt n d).fill.isSome) : ringDescFetch n ws d = d := by
  refine if_neg ?_
  simp only [Bool.and_eq_true, decide_eq_true_eq]
  rintro ⟨⟨⟨hrun, hopen⟩, -⟩, hposted⟩
  rcases h with h | h | h
  · simp [h] at hrun
  · simp [h] at hopen
  · omega

section
variable {ws : List Word} (hrun : (ringAt n d).running = true) (hopen : dmaOpen d = true)
include hrun hopen

/-- A descriptor read while another one is filled waits. -/
theorem ringDescFetch_of_filling {x : Filling} (hmost : (ringAt n d).fetched.length < 16) (hfill : (ringAt n d).fill = some x)
    (hposted : (ringAt n d).fetched.length + 1 < (ringAt n d).posted) (hn : n < d.hs.ring.length) :
    ringDescFetch n ws d = descRead n (descOf ws) d := by
  rw [ringDescFetch_of_posted hrun hopen hmost (by simpa [hfill, b2n] using hposted), takeDesc_of_filling]
  rw [descRead, ringAt_updRing hn, hfill]
  rfl

section
variable (hposted : 0 < (ringAt n d).posted) (hfetched : (ringAt n d).fetched = []) (hfill : (ringAt n d).fill = none)
  (hent : (ringAt n d).entries = []) (hn : n < d.hs.ring.length)
include hposted hfetched hfill

/-- The first descriptor of an idle ring is read. -/
theorem ringDescFetch_of_idle : ringDescFetch n ws d = takeDesc 17 n (descRead n (descOf ws) d) :=
  ringDescFetch_of_posted hrun hopen (by simp [hfetched]) (by simpa [hfetched, hfill, b2n] using hposted)

include hent hn

/-- A good descriptor that an idle ring reads is the one it fills. -/
theorem ringDescFetch_of_good (hbad : (descOf ws).bad = false) (hlen : (descOf ws).len ≠ 0) :
    ringDescFetch n ws d = updRing n (fun r => { r with fill := some { desc := descOf ws, idx := r.cons } }) d := by
  rw [ringDescFetch_of_idle hrun hopen hposted hfetched hfill]
  have ring := ringAt_descRead (x := descOf ws) hn hfetched
  rw [takeDesc_of_good (x := descOf ws) (rest := []) (by rw [ring]; exact hfill) (by rw [ring]; exact hent) (by rw [ring]) hbad hlen, ring,
    descRead, updRing_updRing, updRing_updRing]
  refine updRing_congr ?_
  simp only [hfetched]

/-- A bad descriptor that an idle ring reads completes with BAD_FIELD and interrupt 329. -/
theorem ringDescFetch_of_bad (hbad : (descOf ws).bad = true) :
    ringDescFetch n ws d = takeDesc 16 n (pushEntry n { kind := 0, ring := n, status := St.BAD_FIELD, descIdx := (ringAt n d).cons,
                                                        cookie := (descOf ws).cookie }
      (raise 329 (updRing n (fun r => { r with cons := wrap16 (r.cons + 1), descErr := sat16 r.descErr }) d))) := by
  rw [ringDescFetch_of_idle hrun hopen hposted hfetched hfill]
  have ring := ringAt_descRead (x := descOf ws) hn hfetched
  have counted : updRing n (fun r => { r with cons := wrap16 (r.cons + 1), descErr := sat16 r.descErr })
      (updRing n (fun r => { r with fetched := [] }) (descRead n (descOf ws) d)) =
      updRing n (fun r => { r with cons := wrap16 (r.cons + 1), descErr := sat16 r.descErr }) d := by
    rw [descRead, updRing_updRing, updRing_updRing]
    refine updRing_congr ?_
    simp only [hfetched]
  rw [takeDesc_of_bad (x := descOf ws) (rest := []) (by rw [ring]; exact hfill) (by rw [ring]; exact hent) (by rw [ring]) hbad, ring, counted]

end

end

/-! Delivery (R285, R288, R295). -/

/-- Ring r with a record of `size` bytes, index k and flags fl added to the descriptor x it fills. -/
def ringPlaced (x : Filling) (size k fl : Nat) (err : Bool) (r : Ring) : Ring :=
  { r with stall := false, dlv := some (match r.dlv with | some v => max v k | none => k)
           fill := some { x with bytes := x.bytes + size, lines := x.lines + 1, flagsOr := x.flagsOr ||| fl
                                 first := if x.lines = 0 then k else x.first, readErr := x.readErr || err } }

/-- A record that fits the descriptor being filled is placed behind what it holds; one that ends it completes it. -/
theorem placeRecord_of_fits {f k fl : Nat} {err : Bool} {ws : List Word} {x : Filling} (hent : (ringAt n d).entries = [])
    (hfill : (ringAt n d).fill = some x) (hfits : x.bytes + 4 * ws.length ≤ x.desc.len) :
    placeRecord (f + 1) n k fl err ws d = (true,
      if (x.desc.maxLines != 0 && x.lines + 1 == x.desc.maxLines) || (x.desc.eof && fl &&& FL.FRAME_END != 0) then
        completeDesc n St.OK (updRing n (ringPlaced x (4 * ws.length) k fl err) (writeWords (x.desc.addr + x.bytes) ws d))
      else updRing n (ringPlaced x (4 * ws.length) k fl err) (writeWords (x.desc.addr + x.bytes) ws d)) := by
  simp only [placeRecord, hent, hfill, hfits, List.isEmpty_nil, Bool.not_true, Bool.false_eq_true, if_false, if_true]
  rfl

/-- A record that fits is delivered. -/
theorem deliverTo_of_fits {s k : Nat} {words : List (List Word)} {r : Bool} {ue : List Nat} {x : Filling} (hent : (ringAt n d).entries = [])
    (hfill : (ringAt n d).fill = some x) (hfits : x.bytes + 4 * (sentWords words r ue).length ≤ x.desc.len) :
    (deliverTo n s k words r ue d).1 = true := by
  simp only [deliverTo, placeRecord_of_fits hent hfill hfits, if_true]

/-- The device with a record of words ws, whose index is k, in the descriptor x that ring n fills. -/
def recordPlaced (n k : Nat) (ws : List Word) (x : Filling) (d : Dev) : Dev :=
  updRing n (ringPlaced x (4 * ws.length) k (at' ws 8 0).toNat false) (writeWords (x.desc.addr + x.bytes) ws d)

/-- The device with the delivery of record k of store s counted, as a re-send or not. -/
def deliveryCounted (s k : Nat) (resent : Bool) (d : Dev) : Dev :=
  d.uHs fun h => { h with resentLines := if resent then sat32 h.resentLines else h.resentLines
                          hiDlv := upd h.hiDlv s fun v => some (match v with | some x => max x k | none => k) }

/-- A record that fits a descriptor without MAX_LINES and EOF, read without error, is placed and counted, and nothing completes. -/
theorem deliverTo_of_open {s k : Nat} {words : List (List Word)} {r : Bool} {x : Filling} (hent : (ringAt n d).entries = [])
    (hfill : (ringAt n d).fill = some x) (hfits : x.bytes + 4 * (sentWords words r []).length ≤ x.desc.len) (hmax : x.desc.maxLines = 0)
    (heof : x.desc.eof = false) :
    (deliverTo n s k words r [] d).2 = deliveryCounted s k r (recordPlaced n k (sentWords words r []) x d) := by
  simp [deliverTo, placeRecord_of_fits hent hfill hfits, hmax, heof, recordPlaced]
  rfl

/-- The ring of a record placed. -/
theorem ringAt_recordPlaced {k : Nat} {ws : List Word} {x : Filling} (hn : n < d.hs.ring.length) :
    ringAt n (recordPlaced n k ws x d) = ringPlaced x (4 * ws.length) k (at' ws 8 0).toNat false (ringAt n d) := by
  rw [recordPlaced, ringAt_updRing (by simpa using hn), ringAt_writeWords]

/-! RING_DELIVER_RECORD (R285, R294). -/

/-- Where no ring re-sends, ring n does not. -/
theorem resend_eq_none (h : d.hs.ring.all (fun r => r.resend.isNone) = true) (n : Nat) : (ringAt n d).resend = none := by
  rw [ringAt, at']
  by_cases hn : n < d.hs.ring.length
  · rw [List.getD_eq_getElem _ _ hn]
    exact Option.isNone_iff_eq_none.mp (List.all_eq_true.mp h _ (List.getElem_mem hn))
  · rw [List.getD_eq_default _ _ (Nat.le_of_not_lt hn)]

/-- The re-send that goes first in the group of queue q: that of its first member with one whose last record is not sent. -/
def resendFirst (q : Nat) (d : Dev) : Option (Nat × Resend) :=
  (groupAt q d).members.findSome? fun n => (ringAt n d).resend.bind fun r => if r.sent then none else some (n, r)

/-- Where no ring re-sends, no re-send goes first. -/
theorem resendFirst_eq_none (h : d.hs.ring.all (fun r => r.resend.isNone) = true) : resendFirst q d = none :=
  List.findSome?_eq_none_iff.mpr fun n _ => by rw [resend_eq_none h n]; rfl

/-- The re-send of a group's first member goes first. -/
theorem resendFirst_of_head {r : Resend} (hn : (groupAt q d).members.head? = some n) (hr : (ringAt n d).resend = some r) (hs : r.sent = false) :
    resendFirst q d = some (n, r) := by
  obtain ⟨ms, members⟩ := List.head?_eq_some_iff.mp hn
  simp [resendFirst, members, hr, hs]

section
variable {ue : List Nat}

/-- Without a group that runs, or while DMA is shut, nothing is delivered. -/
theorem ringDeliver_of_stopped (h : queueStore q d = none ∨ groupRunning q d = false ∨ dmaOpen d = false) : ringDeliver q ue d = d := by
  unfold ringDeliver
  split
  · rfl
  · rename_i s hs
    refine if_neg ?_
    rw [hs] at h
    rcases h with h | h | h
    · cases h
    · simp [h]
    · simp [h]

variable {s : Nat} (hs : queueStore q d = some s) (hrun : groupRunning q d = true) (hopen : dmaOpen d = true)
include hs hrun hopen

/-- A re-send goes before the records of the queue. -/
theorem ringDeliver_of_resend {r : Resend} (h : resendFirst q d = some (n, r)) : ringDeliver q ue d = resendStep n s r ue d := by
  rw [resendFirst] at h
  simp only [ringDeliver, hs, hrun, hopen, h, Bool.and_self, if_true]

/-- A queue that holds no record delivers none. -/
theorem ringDeliver_of_empty (h : resendFirst q d = none) (hdir : (queueAt q d).dir = []) : ringDeliver q ue d = d := by
  rw [resendFirst] at h
  have none_ : headRecord q d = none := by simp only [headRecord, hdir]
  simp only [ringDeliver, hs, hrun, hopen, h, none_, Bool.and_self, if_true]

/-- The record at the head of the queue is delivered where its member's descriptor has room, with RESENT up to the index that the group was stopped at. -/
theorem ringDeliver_of_fits {e : DirEntry} {words : List (List Word)} {d' : Dev} (h : resendFirst q d = none)
    (hhead : headRecord q d = some (e, words, d')) (hm : memberOf e.k q d' = some n) (hent : (ringAt n d').entries = [])
    (hfits : ((ringAt n d').fill.any fun x =>
      decide (x.bytes + 4 * (sentWords words (((groupAt q d').resentTo).any fun v => decide (e.k ≤ v)) e.ue).length ≤ x.desc.len)) = true) :
    ringDeliver q ue d = (deliverTo n s e.k words (((groupAt q d').resentTo).any fun v => decide (e.k ≤ v)) e.ue d').2 := by
  rw [resendFirst] at h
  cases hfill : (ringAt n d').fill with
  | none => simp [hfill] at hfits
  | some x =>
    have fits : (deliverTo n s e.k words (((groupAt q d').resentTo).any fun v => decide (e.k ≤ v)) e.ue d').1 = true :=
      deliverTo_of_fits hent hfill (by simpa [hfill] using hfits)
    simp only [ringDeliver, hs, hrun, hopen, h, hhead, hm, Bool.and_self, if_true]
    cases hresent : (groupAt q d').resentTo <;> rw [hresent] at fits <;> exact if_pos fits

end

end

/-- Settles O50: each row acts at its instant through the lemma of its case. -/
theorem streamRings : Obligations.StreamRings := by
  unfold Obligations.StreamRings
  refine ⟨?ring, ?starts, ?delivers, ?placed⟩
  case ring =>
    rintro s n t _ _ ⟨hon, rfl, rfl⟩
    refine ⟨?enables, ?disables, ?shut, ?prod, ?reads, ?good, ?bad, ?waits⟩
    case enables =>
      rintro v ⟨hopen, -, hoff⟩
      exact hostWriteRow hon hopen (ringEnable_of_off (d := s.dev.at_ t) hoff)
    case disables =>
      rintro v ⟨hopen, -, hen, hrun, hv⟩
      exact hostWriteRow hon hopen (ringEnable_of_stop (d := s.dev.at_ t) hen hrun hv)
    case shut =>
      intro v h
      have closed (f : Dev → Dev) := hostWriteRow_of_closed (t := t) (f := f) hon h
      exact ⟨closed _, closed _, closed _, closed _⟩
    case prod =>
      exact fun v hopen => hostWriteRow hon hopen rfl
    case reads =>
      exact fun ws h => hostRow hon (ringDescFetch_of_none (d := s.dev.at_ t) h)
    case good =>
      rintro ws ⟨hrun, hopen, hposted, hfetched, hfill, hent, hn⟩ ⟨hbad, hlen⟩
      exact hostRow hon (ringDescFetch_of_good (d := s.dev.at_ t) hrun hopen hposted hfetched hfill hent hn hbad hlen)
    case bad =>
      rintro ws ⟨hrun, hopen, hposted, hfetched, hfill, hent, hn⟩ hbad
      exact hostRow hon (ringDescFetch_of_bad (d := s.dev.at_ t) hrun hopen hposted hfetched hfill hent hn hbad)
    case waits =>
      rintro ws x ⟨hrun, hopen, hmost, hfill, hposted, hn⟩
      exact hostRow hon (ringDescFetch_of_filling (d := s.dev.at_ t) hrun hopen hmost hfill hposted hn)
  case starts =>
    rintro d q st ⟨hrun, hms, hopen, hbad, hstop, hs, hlen, hq⟩
    exact ⟨groupRunning_groupStart hrun hms hopen hbad hstop hs hlen, groupAt_groupStart hrun hms hopen hbad hstop hs hq, (groupStart_frame q d).1⟩
  case delivers =>
    intro s q t hon
    refine ⟨?nothing, ?record, ?again⟩
    case nothing =>
      intro ue h
      refine hostRow hon ?_
      by_cases hstop : queueStore q.val s.dev = none ∨ groupRunning q.val s.dev = false ∨ dmaOpen s.dev = false
      · exact ringDeliver_of_stopped (d := s.dev.at_ t) hstop
      · simp only [not_or, Bool.not_eq_false] at hstop
        obtain ⟨hs, hrun, hopen⟩ := hstop
        obtain ⟨st, hst⟩ := Option.ne_none_iff_exists'.mp hs
        obtain ⟨hdir, hnone⟩ : (queueAt q.val s.dev).dir = [] ∧ s.dev.hs.ring.all (fun r => r.resend.isNone) = true := by simpa [hs, hrun, hopen] using h
        exact ringDeliver_of_empty (d := s.dev.at_ t) hst hrun hopen (resendFirst_eq_none hnone) hdir
    case record =>
      rintro ue st n e words d' ⟨hs, hrun, hopen, hnone⟩ ⟨hhead, hm, hent, hfits⟩
      exact ⟨_, rfl, hostRow hon (ringDeliver_of_fits (d := s.dev.at_ t) hs hrun hopen (resendFirst_eq_none hnone) hhead hm hent hfits)⟩
    case again =>
      rintro ue st n r ⟨hs, hrun, hopen, hn, hr, hsent⟩
      exact hostRow hon (ringDeliver_of_resend (d := s.dev.at_ t) hs hrun hopen (resendFirst_of_head hn hr hsent))
  case placed =>
    rintro d n st k words r x ⟨hent, hfill, hfits, hmax, heof, hn⟩
    have open_ := deliverTo_of_open (s := st) (k := k) (words := words) (r := r) hent hfill hfits hmax heof
    have ring : ringAt n (deliverTo n st k words r [] d).2 =
        ringPlaced x (4 * (sentWords words r []).length) k (at' (sentWords words r []) 8 0).toNat false (ringAt n d) := by
      rw [open_]
      exact ringAt_recordPlaced hn
    refine ⟨deliverTo_of_fits hent hfill hfits, ?_, ?_, ?_⟩
    · rw [open_, deliveryCounted, uHs_hostMem, recordPlaced]
      exact (updRing_frame _ _ _).1
    · rw [ring]
      simp [ringPlaced]
    · rw [ring]
      simp only [ringPlaced]
      cases (ringAt n d).dlv <;> rfl

end Sys2Proof.Proofs
end

section
/-! SUPPORT. Completion queues, power, confirmations and re-sends (O51): R287 to R294, R296, R297, R480. -/

namespace Sys2Proof.Proofs

open Sys2Proof Sys2Proof.Machine Sys2Proof.Laws

section
variable {n q : Nat} {d : Dev}

/-! The moderation timer (R291). -/

/-- The timer of a queue whose timer does not run does not expire. -/
theorem moderationTimer_of_off (h : (cqAt q d).timer = false) : moderationTimer q d = d := by
  simp only [moderationTimer, h, Bool.false_eq_true, if_false]

/-- With no completion to tell of, the timer only stops. -/
theorem moderationTimer_of_none (h : (cqAt q d).timer = true) (hp : (cqAt q d).pending = 0) :
    moderationTimer q d = updCq q (fun x => { x with timer := false }) d := by
  simp only [moderationTimer, h, hp, Nat.lt_irrefl, if_true, if_false]

/-- With completions to tell of, the queue's message is sent, while the function is in D0, the link in L0 and MSI-X enabled (R291, R292). -/
theorem moderationTimer_of_pending (h : (cqAt q d).timer = true) (hp : 0 < (cqAt q d).pending) (hfunc : d.hs.func = .d0) (hlink : d.hs.link = .l0)
    (hen : d.hs.cfg.msixEn = true) : moderationTimer q d = sendMsg (cqAt q d).vector (updCq q (fun x => { x with pending := 0, timer := false }) d) := by
  have ready : (updCq q (fun x => { x with pending := 0, timer := false }) d).hs.func = .d0 ∧
      (updCq q (fun x => { x with pending := 0, timer := false }) d).hs.link = .l0 ∧
      (updCq q (fun x => { x with pending := 0, timer := false }) d).hs.cfg.msixEn = true := ⟨hfunc, hlink, hen⟩
  simp only [moderationTimer, h, hp, if_true, cqMessage, requestMsg, if_pos ready]

/-! An entry written (R290). -/

/-- The device with an entry behind those that ring n holds. -/
def entryHeld (n : Nat) (e : CqEntry) (d : Dev) : Dev := updRing n (fun r => { r with entries := r.entries ++ [{ e with ring := n }] }) d

/-- The device with the entries of ring n written. -/
def entriesGone (n : Nat) (d : Dev) : Dev := updRing n (fun r => { r with entries := [] }) d

/-- The device with entry e written for ring n at TAIL of queue q, which is x. -/
def entryAtTail (q n : Nat) (e : CqEntry) (x : Cq) (d : Dev) : Dev :=
  updCq q (fun x => { x with tail := wrap16 (x.tail + 1), pending := sat8 x.pending, timer := true })
    (writeWords (x.cbLo + 4294967296 * x.cbHi + 32 * (x.tail % 2 ^ x.sizeLog2)) (entryWords { e with ring := n } ((x.tail >>> x.sizeLog2) % 2 == 0)) d)

/-- The entries of a ring of the device, once written, are gone. -/
theorem entries_entryAtTail {m : Nat} {e : CqEntry} {x : Cq} (hn : n < d.hs.ring.length) :
    (ringAt n (entryAtTail q m e x (entriesGone n d))).entries = [] := by
  rw [entryAtTail, ringAt_updCq, ringAt_writeWords, entriesGone, ringAt_updRing hn]

/-- The entry of a ring that holds no other is written where its queue takes it, and requests no message short of MOD_COUNT. -/
theorem pushEntry_of_room {e : CqEntry} {x : Cq} (hent : (ringAt n d).entries = []) (hn : n < d.hs.ring.length) (hx : x = cqAt (ringAt n d).cq d)
    (hen : x.en = true) (hbad : cqBad x = false) (hopen : dmaOpen d = true) (hroom : cqRoom x = true) (hfew : x.pending + 1 < x.modCount)
    (hends : e.ends = false) : pushEntry n e d = entryAtTail (ringAt n d).cq n e x (entriesGone n d) := by
  have held : (ringAt n (entryHeld n e d)).entries = [{ e with ring := n }] := by
    rw [entryHeld, ringAt_updRing hn, hent]
    rfl
  have queue : (ringAt n (entryHeld n e d)).cq = (ringAt n d).cq := ringAt_updRing_keeps (·.cq) (by exact fun _ => rfl) n n d
  have here : cqAt (ringAt n (entryHeld n e d)).cq (entryHeld n e d) = x := by
    rw [queue, hx]
    rfl
  have gone : updRing n (fun r => { r with entries := [] }) (entryHeld n e d) = entriesGone n d := updRing_updRing _ _ n d
  have atTail : writeEntry (ringAt n d).cq { e with ring := n } (entriesGone n d) = entryAtTail (ringAt n d).cq n e x (entriesGone n d) := by
    subst hx
    exact writeEntry_of_few hfew
  calc pushEntry n e d
      = postEntries 3 n (entryWritten n { e with ring := n } (writeEntry (ringAt n d).cq { e with ring := n } (entriesGone n d))) := by
        rw [← gone, ← queue]
        exact postEntries_of_room (f := 3) held (here ▸ hen) (here ▸ hbad) hopen (here ▸ hroom)
    _ = postEntries 3 n (entryAtTail (ringAt n d).cq n e x (entriesGone n d)) := by
        rw [atTail, entryWritten, if_neg (by simp [hends])]
    _ = entryAtTail (ringAt n d).cq n e x (entriesGone n d) := postEntries_of_none (entries_entryAtTail hn)

/-- The bytes of the entry written are those that a write to the device as it stands leaves. -/
theorem hostMem_entryAtTail {m : Nat} {e : CqEntry} {x : Cq} :
    (entryAtTail q m e x (entriesGone n d)).hostMem =
      (writeWords (x.cbLo + 4294967296 * x.cbHi + 32 * (x.tail % 2 ^ x.sizeLog2)) (entryWords { e with ring := m } ((x.tail >>> x.sizeLog2) % 2 == 0))
        d).hostMem := by
  rw [entryAtTail, (updCq_frame _ _ _).1]
  exact writeBytes_hostMem_congr _ _ (updRing_frame _ _ _).1

/-- The queue of the entry written counts it. -/
theorem cqAt_entryAtTail {m : Nat} {e : CqEntry} {x : Cq} (hq : q < d.hs.cq.length) (hx : x = cqAt q d) :
    cqAt q (entryAtTail q m e x (entriesGone n d)) = { x with tail := wrap16 (x.tail + 1), pending := sat8 x.pending, timer := true } := by
  subst hx
  rw [entryAtTail, cqAt_updCq (by rw [writeWords_hs]; exact hq), cqAt_writeWords]
  rfl

/-! Power (R292, R296). -/

/-- The power state and the configuration of the function, the power state of the link, and the Skein queues. -/
def powerView (d : Dev) : FuncPower × FuncCfg × LinkPower × Skn := (d.hs.func, d.hs.cfg, d.hs.link, d.skn)

@[simp] theorem powerView_raise (n : Nat) (d : Dev) : powerView (raise n d) = powerView d := raise_keeps powerView (fun _ _ _ => rfl) n d

@[simp] theorem powerView_updRing (n : Nat) (f : Ring → Ring) (d : Dev) : powerView (updRing n f d) = powerView d := rfl

@[simp] theorem powerView_updCq (q : Nat) (f : Cq → Cq) (d : Dev) : powerView (updCq q f d) = powerView d := rfl

@[simp] theorem powerView_writeBytes (a : Nat) (bs : List Byte) (d : Dev) : powerView (writeBytes a bs d) = powerView d := by
  induction bs generalizing a d with
  | nil => rfl
  | cons b bs ih => exact ih (a + 1) (writeByte a b d)

@[simp] theorem powerView_writeWords (a : Nat) (ws : List Word) (d : Dev) : powerView (writeWords a ws d) = powerView d := powerView_writeBytes a _ d

@[simp] theorem powerView_sendMsg (v : Nat) (d : Dev) : powerView (sendMsg v d) = powerView d := by
  unfold sendMsg
  extract_lets e
  split
  · rfl
  · exact powerView_writeBytes _ _ d

@[simp] theorem powerView_requestMsg (v : Nat) (d : Dev) : powerView (requestMsg v d) = powerView d := by
  unfold requestMsg
  extract_lets waits
  split_ifs
  · exact powerView_sendMsg v d
  · exact powerView_raise _ _
  · exact powerView_raise _ _
  · rfl
  · rfl

@[simp] theorem powerView_writeEntry (q : Nat) (e : CqEntry) (d : Dev) : powerView (writeEntry q e d) = powerView d := by
  unfold writeEntry
  dsimp only
  split
  · simp only [cqMessage, powerView_requestMsg, powerView_updCq, powerView_writeWords]
  · simp only [powerView_updCq, powerView_writeWords]

@[simp] theorem powerView_entryWritten (n : Nat) (e : CqEntry) (d : Dev) : powerView (entryWritten n e d) = powerView d := by
  unfold entryWritten
  split
  · exact powerView_raise _ _
  · rfl

@[simp] theorem powerView_postEntries (f n : Nat) (d : Dev) : powerView (postEntries f n d) = powerView d :=
  postEntries_keeps powerView f n d powerView_writeEntry powerView_updRing powerView_updCq powerView_raise powerView_entryWritten

@[simp] theorem powerView_takeDesc (f n : Nat) (d : Dev) : powerView (takeDesc f n d) = powerView d :=
  takeDesc_keeps powerView f n d powerView_updRing powerView_raise fun n _ _ => powerView_postEntries 4 n _

/-- The rings that go on with a completion queue leave the power states. -/
@[simp] theorem powerView_cqDrain (q : Nat) (d : Dev) : powerView (cqDrain q d) = powerView d := by
  refine (each_keeps powerView _ (fun n d => ?_) _ _).trans (powerView_updCq _ _ d)
  split
  · exact (powerView_takeDesc _ _ _).trans (powerView_postEntries _ _ d)
  · rfl

@[simp] theorem powerView_sendWaitingMsgs (d : Dev) : powerView (sendWaitingMsgs d) = powerView d := by
  unfold sendWaitingMsgs
  split
  · exact each_keeps powerView _ powerView_sendMsg _ _
  · rfl

/-- The function takes the power state with its configuration; the link's state and the Skein queues stay. -/
theorem powerView_funcPowerChange (st : FuncPower) (c : FuncCfg) (d : Dev) : powerView (funcPowerChange st c d) = (st, c, d.hs.link, d.skn) := by
  unfold funcPowerChange
  extract_lets was taken
  refine (powerView_sendWaitingMsgs _).trans ((each_keeps powerView _ powerView_cqDrain _ _).trans ?_)
  split
  · rfl
  · exact powerView_raise 334 taken

/-! Confirmations (R293). -/

/-- The device with CONF_HI of ring n written. -/
def confWritten (n v : Nat) (d : Dev) : Dev := updRing n (fun r => { r with confHi := v % 65536 }) d

/-- The ring with its new CONF_HI. -/
theorem ringAt_confWritten {v : Nat} (hn : n < d.hs.ring.length) : ringAt n (confWritten n v d) = { ringAt n d with confHi := v % 65536 } :=
  ringAt_updRing hn

/-- A confirm index that is no higher than the one before, capped by what is delivered, only changes CONF_HI. -/
theorem ringConfWrite_of_old {v : Nat} (hn : n < d.hs.ring.length)
    (h : ((ringAt n d).dlv.all fun a => (ringAt n d).conf.any fun o => decide (min ((ringAt n d).confLo + 4294967296 * (v % 65536)) a ≤ o)) = true) :
    ringConfWrite n v d = confWritten n v d := by
  have ring := ringAt_confWritten (v := v) hn
  rw [confWritten] at ring ⊢
  simp only [ringConfWrite, ring]
  cases hdlv : (ringAt n d).dlv with
  | none => rfl
  | some a =>
    cases hconf : (ringAt n d).conf with
    | none => simp [hdlv, hconf] at h
    | some o =>
      have low : min ((ringAt n d).confLo + 4294967296 * (v % 65536)) a ≤ o := by simpa [hdlv, hconf] using h
      simp [Nat.not_lt.mpr low]

/-- A higher confirm index of a member of a group that delivers confirms what every member has confirmed. -/
theorem ringConfWrite_of_new {v dlv c st : Nat} {e : Dev} (hn : n < d.hs.ring.length) (hdlv : (ringAt n d).dlv = some dlv)
    (hc : c = min ((ringAt n d).confLo + 4294967296 * (v % 65536)) dlv) (hmore : ((ringAt n d).conf.all fun o => decide (o < c)) = true)
    (hs : queueStore (ringAt n d).queue d = some st) (hm : (groupAt (ringAt n d).queue d).members.contains n = true)
    (he : e = updRing n (fun r => { r with conf := some c }) (confWritten n v d)) {us : List Nat}
    (hus : us = (List.range (groupAt (ringAt n d).queue d).members.length).map fun m => unconfirmedOf (ringAt n d).queue st m e) {u : Nat}
    (hu : u = us.foldl min (us.headD 0)) : ringConfWrite n v d = if u = 0 then e else storeConfirm st (u - 1) e := by
  have ring := ringAt_confWritten (v := v) hn
  have store : queueStore (ringAt n d).queue e = some st := by rw [he]; exact hs
  have group : groupAt (ringAt n d).queue e = groupAt (ringAt n d).queue d := by rw [he]; rfl
  rw [confWritten] at ring he
  simp only [ringConfWrite, ring, hdlv, ← hc, ← he, store, group, hm, ← hus, ← hu, if_true]
  cases hconf : (ringAt n d).conf with
  | none => rfl
  | some o =>
    have higher : o < c := by simpa [hconf] using hmore
    simp [higher]

/-! Re-sends and IDLE_FLUSH (R288, R294). -/

/-- After IDLE_FLUSH the descriptor that holds lines completes. -/
theorem ringIdleFlush_of_lines {x : Filling} (hrun : (ringAt n d).running = true) (hflush : (ringAt n d).idleFlush ≠ 0)
    (hfill : (ringAt n d).fill = some x) (hlines : 0 < x.lines) : ringIdleFlush n d = completeDesc n St.OK d := by
  simp [ringIdleFlush, hfill, hrun, hflush, hlines]

/-- A ring that does not run, has no IDLE_FLUSH, or fills no descriptor that holds lines, completes none. -/
theorem ringIdleFlush_of_none (h : (ringAt n d).running = false ∨ (ringAt n d).idleFlush = 0 ∨ ((ringAt n d).fill.all fun x => x.lines == 0) = true) :
    ringIdleFlush n d = d := by
  unfold ringIdleFlush
  extract_lets r
  split
  · rename_i x hfill
    refine if_neg ?_
    simp only [Bool.and_eq_true, bne_iff_ne, decide_eq_true_eq]
    rintro ⟨⟨hrun, hflush⟩, hlines⟩
    obtain h | h | h := h
    · exact Bool.false_ne_true (h.symm.trans hrun)
    · exact hflush h
    · rw [hfill] at h
      simp at h
      omega
  · rfl

end

/-- Settles O51: each row acts at its instant through the lemma of its case. -/
theorem streamQueuesAndPower : Obligations.StreamQueuesAndPower := by
  unfold Obligations.StreamQueuesAndPower
  refine ⟨?queue, ?entry, ?power, ?aer, ?ring⟩
  case queue =>
    rintro s q t _ ⟨hon, rfl⟩
    refine ⟨?writes, ?shut, ?off, ?none_, ?message⟩
    case writes => exact fun v hopen => ⟨hostWriteRow hon hopen rfl, hostWriteRow hon hopen rfl⟩
    case shut => exact fun v h => ⟨hostWriteRow_of_closed hon h, hostWriteRow_of_closed hon h⟩
    case off => exact fun h => hostRow hon (moderationTimer_of_off (d := s.dev.at_ t) h)
    case none_ => exact fun ⟨h, hp⟩ => hostRow hon (moderationTimer_of_none (d := s.dev.at_ t) h hp)
    case message =>
      rintro _ ⟨h, hp, hfunc, hlink, hen, rfl⟩
      exact hostRow hon (moderationTimer_of_pending (d := s.dev.at_ t) h hp hfunc hlink hen)
  case entry =>
    rintro d n e x ⟨hent, hn, hx, hen, hbad, hopen, hroom, hfew, hends, hq⟩
    rw [pushEntry_of_room hent hn hx hen hbad hopen hroom hfew hends]
    exact ⟨hostMem_entryAtTail, cqAt_entryAtTail hq hx, entries_entryAtTail hn⟩
  case power =>
    intro s t hon st c
    obtain ⟨-, hsec, -, hobjs⟩ := funcPowerChange_frame st c (s.dev.at_ t)
    have view := powerView_funcPowerChange st c (s.dev.at_ t)
    simp only [powerView, Prod.mk.injEq] at view
    obtain ⟨hfunc, hcfg, hlink, hskn⟩ := view
    exact ⟨_, event_powered t (funcPowerChange st c) hon, hfunc, hcfg, hlink, hobjs, hsec, hskn⟩
  case aer => exact fun s t hon ue => hostRow hon rfl
  case ring =>
    rintro s n t _ _ ⟨hon, rfl, rfl⟩
    refine ⟨?old, ?new, ?resend, ?flushes, ?stays⟩
    case old =>
      rintro v ⟨hopen, hn, h⟩
      exact hostWriteRow hon hopen (ringConfWrite_of_old (d := s.dev.at_ t) hn h)
    case new =>
      rintro v dlv c st u us e ⟨hopen, hn, hdlv, hc, hmore⟩ ⟨hs, hm, he, hus, hu⟩
      exact hostWriteRow hon hopen (ringConfWrite_of_new (d := s.dev.at_ t) hn hdlv hc hmore hs hm he hus hu)
    case resend => exact fun v hopen => ⟨_, rfl, hostWriteRow hon hopen rfl⟩
    case flushes =>
      rintro x ⟨hrun, hflush, hfill, hlines⟩
      exact hostRow hon ((ringIdleFlush_of_lines (d := s.dev.at_ t) hrun hflush hfill hlines).trans (completeDesc_of_filling (d := s.dev.at_ t) hfill))
    case stays => exact fun h => hostRow hon (ringIdleFlush_of_none (d := s.dev.at_ t) h)

end Sys2Proof.Proofs
end

section
/-! SUPPORT. Mailboxes (O11, O12, O13, O15): what the level sources and a requested message leave alone, actions that meet no other of their instant
(Table 13.6), and each row of the host's mailboxes by what it finds. -/

namespace Sys2Proof.Proofs

open Sys2Proof Sys2Proof.Machine Sys2Proof.Laws

/-! What the level sources of the mailboxes leave of the rest (R320, R429). -/

/-- A quantity that events of the interrupt controller and inputs of Taproot keep stays as the level sources follow the mailboxes. -/
theorem mbxLevels_keeps {α : Type} (p : Dev → α) (hic : ∀ e d, p (icDo e d) = p d) (htap : ∀ i v d, p (taprootInput i v d) = p d) (d : Dev) :
    p (mbxLevels d) = p d := by
  have level (n : Nat) (v : Bool) (d : Dev) : p (icLevel n v d) = p d := by
    unfold icLevel
    split
    · rfl
    · exact hic _ d
  exact (htap _ _ _).trans (each_keeps p _ (fun _ _ => level _ _ _) _ d)

@[simp] theorem resetNow_mbxLevels (e : Nat) (d : Dev) : resetNow e (mbxLevels d) = resetNow e d :=
  mbxLevels_keeps (resetNow e) (icDo_keeps _ fun _ _ _ => rfl) (taprootInput_keeps _ fun _ _ _ => rfl) d

@[simp] theorem mbxLevels_phase (d : Dev) : (mbxLevels d).tap.phase = d.tap.phase := mbxLevels_keeps (·.tap.phase) icDo_phase taprootInput_phase d

/-! A controller cycle in progress (O15): its next event replays it from what stood before it. -/

/-- H2D mailbox 1 alone is posted. The controller holds a cycle in progress before which the input of source 32 was high, and which no event
lowered; in the table of source states it is low, as the empty H2D mailbox 0 has it. -/
def staleCycle : Dev :=
  updH2d 1 (fun x => { x with posted := true }) { ic := { evs := [.clearBad], base := { st := [(32, { input := true })] } } }

/-- The rise of source 33 replays that cycle, and the input of source 32 is high again. -/
theorem staleCycle_input : ((mbxLevels staleCycle).ic.src 32).input = true := by decide +kernel

/-- Refutes O15: of the controller's cycle in progress it does not ask that the source states are what its events give (R424). Where they are not,
the event of a later source brings back the level that an earlier one had before the cycle. -/
theorem not_mailboxSourcesFollow : ¬ Obligations.MailboxSourcesFollow := by
  unfold Obligations.MailboxSourcesFollow
  intro h
  obtain ⟨follows, -⟩ := h staleCycle
  have empty : mbxLevel 32 staleCycle = false := by decide
  have low := (follows 32 (Nat.le_refl 32) (by decide)).trans empty
  exact Bool.false_ne_true (low.symm.trans staleCycle_input)

/-! What a requested message leaves (R291, R292). -/

/-- What a post to a D2H mailbox rests on: the time, the D2H mailboxes, and when the endpoints' domains were reset. -/
def postView (d : Dev) : Nat × List Mbox × List (Option Nat) := (d.now, d.mbx.d2h, d.mbx.resetAt)

theorem postView_writeBytes (a : Nat) (bs : List Byte) (d : Dev) : postView (writeBytes a bs d) = postView d := by
  induction bs generalizing a d with
  | nil => rfl
  | cons b bs ih => exact ih (a + 1) (writeByte a b d)

theorem postView_sendMsg (v : Nat) (d : Dev) : postView (sendMsg v d) = postView d := by
  unfold sendMsg
  extract_lets e
  split
  · rfl
  · exact postView_writeBytes _ _ d

theorem postView_raise (n : Nat) (d : Dev) : postView (raise n d) = postView d := raise_keeps postView (fun _ _ _ => rfl) n d

theorem postView_requestMsg (v : Nat) (d : Dev) : postView (requestMsg v d) = postView d := by
  unfold requestMsg
  extract_lets waits
  split_ifs
  · exact postView_sendMsg v d
  · exact postView_raise _ _
  · exact postView_raise _ _
  · rfl
  · rfl

/-- The event bit of a D2H post is none of them, whether it requests a message or not (R308). -/
theorem postView_arrivedBit (m : Nat) (d : Dev) : postView (arrivedBit m d) = postView d := by
  unfold arrivedBit
  dsimp only
  split
  · exact postView_requestMsg _ _
  · rfl

/-! Actions of one instant (Table 13.6). -/

section
variable {m : Nat} {d : Dev}

/-- Where no domain was reset at this instant, none of an endpoint was. -/
theorem resetNow_of_noReset (h : noReset d.now d = true) (e : Nat) : resetNow e d = false := by
  simp only [noReset, List.all_eq_true] at h
  simp only [resetNow, at', List.getD_eq_getElem?_getD]
  cases hr : d.mbx.resetAt[e]? with
  | none => rfl
  | some r => simpa using h r (List.mem_of_getElem? hr)

/-- POST_EPOCH is the sender's present epoch where no domain was reset at this instant (R312). -/
theorem goEpoch_of_noReset (h : noReset d.now d = true) (e : Nat) : goEpoch e d = epochOf e d := by
  simp [goEpoch, resetNow_of_noReset h]

/-- A mailbox that is not posted, and that no DONE emptied at this instant, takes a post. -/
theorem full_of_free {x : Mbox} (hposted : x.posted = false) (hdone : x.doneAt ≠ some d.now) : full x d = false := by
  simp [full, hposted, hdone]

/-- A mailbox that is posted, or that a DONE emptied at this instant, takes no post. -/
theorem full_of_posted_or_done {x : Mbox} (h : x.posted = true ∨ x.doneAt = some d.now) : full x d = true := by
  simpa [full] using h

/-- A mailbox that no other action met was not discarded at this instant, and has not timed out at it. -/
theorem quiet_apart {n : Nat} {x : Mbox} (h : x.quiet n = true) : x.lostAt ≠ some n ∧ ∀ k, x.tmoAt ≠ some (n, k) := by
  simp only [Mbox.quiet, Bool.and_eq_true, bne_iff_ne] at h
  obtain ⟨⟨-, hlost⟩, htmo⟩ := h
  refine ⟨hlost, fun k hk => htmo ?_⟩
  simp [hk]

/-- A DONE that meets no discard of its instant changes nothing. -/
theorem taken_of_not_lost {n : Nat} {x : Mbox} (h : x.lostAt ≠ some n) : x.taken n = x := if_neg h

theorem upd_eq_self {α : Type} {f : α → α} {l : List α} {i : Nat} {v : α} (h : f (at' l i v) = at' l i v) : upd l i f = l := by
  induction l generalizing i with
  | nil => rfl
  | cons x xs ih =>
    cases i with
    | zero => exact congrArg (· :: xs) h
    | succ i => exact congrArg (x :: ·) (ih h)

theorem updH2d_eq_self {f : Mbox → Mbox} (h : f (h2dAt m d) = h2dAt m d) : updH2d m f d = d :=
  congrArg (fun l => d.uMbx fun x => { x with h2d := l }) (upd_eq_self h)

theorem updD2h_eq_self {f : Mbox → Mbox} (h : f (d2hAt m d) = d2hAt m d) : updD2h m f d = d :=
  congrArg (fun l => d.uMbx fun x => { x with d2h := l }) (upd_eq_self h)

/-! The host's actions (R306, R307, R311). -/

/-- A GO of an empty mailbox posts it with the host's epoch. -/
theorem h2dGo_of_free (hreach : hostReach d = true) (hposted : (h2dAt m d).posted = false) (hdone : (h2dAt m d).doneAt ≠ some d.now)
    (hreset : noReset d.now d = true) : h2dGo m d = mbxLevels (updH2d m (fun x => x.go d.now x.tmoLimit d.hs.hostEpoch) d) := by
  have calm (e : Nat) (f : Mbox → Mbox) : resetNow e (mbxLevels (updH2d m f d)) = false :=
    (resetNow_mbxLevels e _).trans (resetNow_of_noReset hreset e)
  have epoch : goEpoch hostEnd d = d.hs.hostEpoch := goEpoch_of_noReset hreset hostEnd
  rw [h2dGo, hostWrite_of_open hreach]
  simp [full_of_free hposted hdone, epoch, calm]

/-- A GO of a mailbox that takes no post is an overrun. -/
theorem h2dGo_of_full (hreach : hostReach d = true) (h : (h2dAt m d).posted = true ∨ (h2dAt m d).doneAt = some d.now) :
    h2dGo m d = h2dOverrun m d := by
  rw [h2dGo, hostWrite_of_open hreach, if_pos (full_of_posted_or_done h)]

/-- No time-out of this instant is taken back where the mailbox had none. -/
theorem untimeD2h_of_quiet (h : (d2hAt m d).quiet d.now = true) : untimeD2h m d = d := by
  obtain ⟨-, htmo⟩ := quiet_apart h
  unfold untimeD2h
  split
  · rename_i t n hat
    refine if_neg ?_
    rintro rfl
    exact htmo n hat
  · rfl

/-- A DONE of a posted D2H mailbox empties it and acknowledges the post. -/
theorem d2hDone_of_posted (hreach : hostReach d = true) (hposted : (d2hAt m d).posted = true) (hquiet : (d2hAt m d).quiet d.now = true) :
    d2hDone m d = mbxLevels (ackRaise m (updD2h m (Mbox.done d.now) d)) := by
  rw [d2hDone, hostWrite_of_open hreach, if_pos hposted, untimeD2h_of_quiet hquiet]

/-- A DONE of an empty D2H mailbox changes nothing. -/
theorem d2hDone_of_empty (hreach : hostReach d = true) (hposted : (d2hAt m d).posted = false) (hquiet : (d2hAt m d).quiet d.now = true) :
    d2hDone m d = d := by
  obtain ⟨hlost, -⟩ := quiet_apart hquiet
  rw [d2hDone, hostWrite_of_open hreach, if_neg (by simp [hposted])]
  exact updD2h_eq_self (taken_of_not_lost hlost)

/-! The receiver of an H2D mailbox (R307, R325). -/

/-- A DONE of the mailbox whose turn it is takes its command. -/
theorem h2dDone_of_turn (hposted : (h2dAt m d).posted = true) (hcore : (h2dAt m d).receiver < 3) (hturn : nextTaken m d = true) :
    h2dDone m d = commandOf m d (mbxLevels (emptiedBit m (updH2d m (Mbox.done d.now) d))) := by
  simp only [h2dDone, if_pos hposted, if_pos hcore, hturn, Bool.true_eq_false, and_false, if_false]
  rfl

/-- A DONE of a mailbox that is not posted, nor discarded at this instant, or whose turn it is not, is ignored. -/
theorem h2dDone_of_ignored (h : ((h2dAt m d).posted = false ∧ (h2dAt m d).lostAt ≠ some d.now) ∨
    ((h2dAt m d).posted = true ∧ (h2dAt m d).receiver < 3 ∧ nextTaken m d = false)) : h2dDone m d = d := by
  obtain ⟨hposted, hlost⟩ | ⟨hposted, hcore, hturn⟩ := h
  · rw [h2dDone, if_neg (by simp [hposted])]
    exact updH2d_eq_self (taken_of_not_lost hlost)
  · rw [h2dDone, if_pos hposted, if_pos ⟨hcore, hturn⟩]

/-! The core firmware's posts (R306, R310, R322, R335). -/

/-- A D2H mailbox as a post of words ws leaves it. -/
def d2hPosted (m : Nat) (ws : List Word) (se : Option Nat) (d : Dev) (x : Mbox) : Mbox :=
  { (x.go d.now d.mbx.mbxTmo (epochOf (d2hAt m d).sender d)) with words := ws ++ x.words.drop ws.length, sess := se }

/-- A post that meets no reset is the mailbox's new contents, the event bit and the level sources. -/
theorem d2hPost_of_noReset (ws : List Word) (se : Option Nat) (h : noReset d.now d = true) :
    d2hPost m ws se d = mbxLevels (arrivedBit m (updD2h m (d2hPosted m ws se d) d)) := by
  have calm (f : Mbox → Mbox) : resetNow hostEnd (mbxLevels (arrivedBit m (updD2h m f d))) = false :=
    calc resetNow hostEnd (mbxLevels (arrivedBit m (updD2h m f d)))
      _ = resetNow hostEnd (arrivedBit m (updD2h m f d)) := resetNow_mbxLevels hostEnd _
      _ = resetNow hostEnd (updD2h m f d) := congrArg (fun v => at' v.2.2 hostEnd none == some v.1) (postView_arrivedBit m _)
      _ = false := resetNow_of_noReset h hostEnd
  simp only [d2hPost, goEpoch_of_noReset h, calm, Bool.false_eq_true, if_false]
  rfl

/-- The event bit of a D2H post leaves the mailboxes. -/
theorem arrivedBit_d2h (d : Dev) : (arrivedBit m d).mbx.d2h = d.mbx.d2h := congrArg (·.2.1) (postView_arrivedBit m d)

/-- A GO of an empty mailbox posts the completion that heads the queue, where it waits for that mailbox. -/
theorem d2hGo_of_completion {ws : List Word} {se : Option Nat} {rest : List (Nat × List Word × Option Nat)} (hposted : (d2hAt m d).posted = false)
    (hdone : (d2hAt m d).doneAt ≠ some d.now) (hout : d.mnr.out = (m, ws, se) :: rest) :
    d2hGo m d = d2hPost m ws se (d.uMnr fun x => { x with out := rest }) := by
  simp [d2hGo, full_of_free hposted hdone, hout, splitAt?]

/-- With no completion waiting, a GO of an empty EVENT_MBX posts the oldest event. -/
theorem d2hGo_of_event {e : Evt} {rest : List Evt} (hposted : (d2hAt m d).posted = false) (hdone : (d2hAt m d).doneAt ≠ some d.now)
    (hout : d.mnr.out = []) (hevents : d.mnr.events = e :: rest) (hopen : d.mnr.open_ = true) (hmbx : d.mnr.eventMbx = m) :
    d2hGo m d = d2hPost m (eventWords e d.mnr.lostSince) none (d.uMnr fun x => { x with events := rest, lostSince := 0 }) := by
  simp [d2hGo, full_of_free hposted hdone, hout, splitAt?, hevents, hopen, hmbx]

/-- The first time-out of a post is reported, and acknowledged to the core. -/
theorem d2hTimeout_of_due (hposted : (d2hAt m d).posted = true) (hspent : (d2hAt m d).tmoSpent = false) :
    d2hTimeout m d = mbxLevels (ackRaise m ((updD2h m (fun x => { x with tmo := true, tmoSpent := true, tmoAt := some (d.now, d.mbx.tmoCount) }) d).uMbx
      fun x => { x with tmoCount := sat16 x.tmoCount })) := by
  simp [d2hTimeout, hposted, hspent]

end

/-- Where the core firmware runs, the device is not in RESET. -/
theorem coresRun_awake {d : Dev} (h : coresRun d = true) : d.pwr.mode ≠ .reset := by
  intro e
  simp [coresRun, Dev.inMode, e] at h

/-- Settles O11: each row acts at its instant through the lemma of its case; outside a sleep's save the GO is not tested for a wake source. -/
theorem hostMailboxPost : Obligations.HostMailboxPost := by
  unfold Obligations.HostMailboxPost
  refine ⟨?post, ?overrun, ?taken, ?empty⟩
  case post =>
    rintro s m t ⟨hon, hreach⟩ ⟨hposted, hdone, hreset, hphase⟩
    have go := h2dGo_of_free (d := s.dev.at_ t) hreach hposted hdone hreset
    have awake : (h2dGo m.val (s.dev.at_ t)).tap.phase ≠ .saving := by rw [go, mbxLevels_phase]; exact hphase
    exact (event_powered t _ hon).trans (by rw [sleepTest_of_not_saving awake, go]; rfl)
  case overrun =>
    rintro s m t ⟨hon, hreach⟩ ⟨hfull, hphase⟩
    have go := h2dGo_of_full (d := s.dev.at_ t) hreach hfull
    have awake : (h2dGo m.val (s.dev.at_ t)).tap.phase ≠ .saving := by rw [go]; exact hphase
    exact (event_powered t _ hon).trans (by rw [sleepTest_of_not_saving awake, go]; rfl)
  case taken =>
    rintro s m t ⟨hon, hreach⟩ ⟨hposted, hquiet⟩
    exact (event_powered t _ hon).trans (by rw [d2hDone_of_posted (d := s.dev.at_ t) hreach hposted hquiet]; rfl)
  case empty =>
    rintro s m t ⟨hon, hreach⟩ ⟨hposted, hquiet⟩
    exact (event_powered t _ hon).trans (by rw [d2hDone_of_empty (d := s.dev.at_ t) hreach hposted hquiet])

/-- Settles O12: the row acts at its instant, and takes the command or is ignored. That commands are taken in the order of GO is R325. -/
theorem commandTaken : Obligations.CommandTaken := by
  unfold Obligations.CommandTaken
  refine ⟨?takes, ?ignored⟩
  case takes =>
    rintro s m t ⟨htakes, hmode⟩ ⟨hposted, hcore, hturn⟩
    exact (event_runs t _ htakes hmode).trans (by rw [h2dDone_of_turn (d := s.dev.at_ t) hposted hcore hturn]; rfl)
  case ignored =>
    rintro s m t ⟨htakes, hmode⟩ h
    exact (event_runs t _ htakes hmode).trans (by rw [h2dDone_of_ignored (d := s.dev.at_ t) h])

/-- Settles O13: each row acts at its instant through the lemma of its case; that completions leave before events is assumption log 19. -/
theorem devicePosts : Obligations.DevicePosts := by
  unfold Obligations.DevicePosts
  refine ⟨?completion, ?event, ?timeout, ?post⟩
  case completion =>
    rintro s m ws se rest t ⟨hrun, hposted, hdone⟩ hout
    exact (event_runs t _ hrun (coresRun_awake hrun)).trans (by rw [d2hGo_of_completion (d := s.dev.at_ t) hposted hdone hout])
  case event =>
    rintro s m e rest t ⟨hrun, hposted, hdone⟩ ⟨hout, hevents, hopen, hmbx⟩
    exact (event_runs t _ hrun (coresRun_awake hrun)).trans (by rw [d2hGo_of_event (d := s.dev.at_ t) hposted hdone hout hevents hopen hmbx]; rfl)
  case timeout =>
    rintro s m t hon ⟨hposted, hspent⟩
    exact (event_powered t _ hon).trans (by rw [d2hTimeout_of_due (d := s.dev.at_ t) hposted hspent]; rfl)
  case post =>
    intro s m ws se hreset
    refine ⟨_, d2hPost_of_noReset ws se hreset, ?_⟩
    rw [arrivedBit_d2h]
    rfl

end Sys2Proof.Proofs
end

section
/-! SUPPORT. The mode (O2): every command changes it as Table 20.4 gives, or leaves it as it is. -/

namespace Sys2Proof.Proofs

open Sys2Proof Sys2Proof.Machine Sys2Proof.Laws

/-- The test for a wake source leaves the mode as the event left it (R432). -/
theorem sleepTest_modeOf (f : Dev → Dev) (d : Dev) : (sleepTest f d).pwr.mode = (f d).pwr.mode := by
  simp [sleepTest, sleepAborted]

/-- A Skein cycle moves the mode as its access does. -/
theorem inCycle_move (mo : Mode) (more : Bool) (q : Nat) {f : Dev → Dev} (hf : ∀ d, runMove mo d.pwr.mode = true → runMove mo (f d).pwr.mode = true)
    (d : Dev) (hw : runMove mo d.pwr.mode = true) : runMove mo (inCycle more q f d).pwr.mode = true := by
  unfold inCycle
  simp [hf, hw]

section
variable {g : Dev → Bool} {f : Dev → Dev} {s t : State}

/-- What holds between a device and itself, and between it and its effect, holds over an act. -/
theorem act_relates {R : Dev → Dev → Prop} (hr : ∀ d, R d d) (hf : ∀ d, R d (f d)) (h : act g f s = .next t) : R s.dev t.dev := by
  injection h with h
  rw [← h]
  show R s.dev (guardD (g s.dev) f s.dev)
  unfold guardD
  split
  · exact hf _
  · exact hr _

/-- Where the passing of time is no part of it, it holds over an event. -/
theorem event_relates {R : Dev → Dev → Prop} {n : Nat} (hr : ∀ d, R d d) (ht : ∀ d e, R (d.at_ n) e → R d e) (hf : ∀ d, R d (f d))
    (h : event g n f s = .next t) : R s.dev t.dev := by
  refine act_relates hr (fun d => ?_) h
  split
  · exact hf d
  · exact ht d _ (hf (d.at_ n))

/-- An act changes the mode as its effect does, or not at all. -/
theorem act_keepsTable (hf : ∀ d, keepsTable d (f d)) (h : act g f s = .next t) : keepsTable s.dev t.dev := act_relates (fun _ => .inl rfl) hf h

/-- An event changes the mode as its effect does: the passing of time leaves it. -/
theorem event_keepsTable {n : Nat} (hf : ∀ d, keepsTable d (f d)) (h : event g n f s = .next t) : keepsTable s.dev t.dev :=
  event_relates (fun _ => .inl rfl) (fun _ _ h => h) hf h

/-- An event that moves the mode as the blocks of themselves do keeps to Table 20.4. -/
theorem event_keepsTable_of_move {n : Nat} (hf : ∀ mo d, runMove mo d.pwr.mode = true → runMove mo (f d).pwr.mode = true) (h : event g n f s = .next t) :
    keepsTable s.dev t.dev :=
  event_keepsTable (fun d => keepsTable_of_move _ _ (hf _ d (runMove_self _))) h

end

/-- Every command changes the mode as Table 20.4 gives, or leaves it. -/
theorem exec_keepsTable {i : Instr} {s t : State} (h : exec i s = .next t) : keepsTable s.dev t.dev := by
  cases i
  case powerOnRelease => exact act_keepsTable powerOnRelease_table h
  case sysResetRelease => exact act_keepsTable sysResetRelease_table h
  case vinPorFall => exact act_keepsTable vinPorFall_table h
  case sysReset => exact act_keepsTable sysReset_table h
  case modeSet c => exact act_keepsTable (modeSet_table c) h
  case pwrMonitorTick vin temp n =>
    refine event_keepsTable (fun d => ?_) h
    rw [keepsTable, sleepTest_modeOf]
    exact pwrMonitorTick_table vin temp d
  case bootEnd map n => exact event_keepsTable (bootEnd_table map) h
  case calibrateEnd delays mv n => exact event_keepsTable (calibrateEnd_table delays mv) h
  case readyEntryDone n => exact event_keepsTable readyEntryDone_table h
  case sleepCommit n => exact event_keepsTable sleepCommit_table h
  case sleepWake n => exact event_keepsTable sleepWake_table h
  case funcPowerStateChange st c n => -- by the name of its frame: reduction would work through all eight queues
    exact event_keepsTable (fun d => .inl (funcPowerChange_frame st c d).1) h
  case skeinPush q ue => exact event_keepsTable_of_move (fun mo => inCycle_move mo _ _ (skeinPush_move mo q.val ue.x)) h
  case skeinPop q flip ue => exact event_keepsTable_of_move (fun mo => inCycle_move mo _ _ (skeinPop_move mo q.val flip ue.x)) h
  all_goals
    refine keepsTable_of_move _ _ ?_
    exact act_preserves (Q := fun d => runMove s.dev.pwr.mode d.pwr.mode = true) (fun d hd => by simp [hd, sleepTest_modeOf]) h (runMove_self _)

/-- Settles O2: a step idles or executes one command, and every command keeps to Table 20.4. -/
theorem modeFollowsTable : Obligations.ModeFollowsTable := by
  intro s t h
  obtain rfl | ⟨i, rest, h⟩ := step_cases h
  · exact .inl rfl
  · exact exec_keepsTable (s := { s with pending := rest }) h

end Sys2Proof.Proofs
end

section
/-! SUPPORT. Fuses and the lock of the map (O4): what a step may do to them. -/

namespace Sys2Proof.Proofs

open Sys2Proof Sys2Proof.Machine Sys2Proof.Laws

/-- The lock of the security map, and the fuses (R489, R493). -/
abbrev locksOf (s : Sec) : Bool × Nat × Nat × Nat × Bool × Bool × List Nat :=
  (s.mapLocked, s.vendorHash, s.custHash, s.custAes, s.custProv, s.permLock, s.svnFuse)

/-- The lock and the fuses of device d. -/
def locks (d : Dev) : Bool × Nat × Nat × Nat × Bool × Bool × List Nat := locksOf d.sec

/-- From device d to device e no fuse is lost, and the map stays locked. -/
def secOrder (d e : Dev) : Prop := fusesKept d e ∧ (d.sec.mapLocked = true → e.sec.mapLocked = true)

theorem locks_of_sec {d e : Dev} (h : e.sec = d.sec) : locks e = locks d := by rw [locks, locks, h]

theorem secOrder_of_locks {d e : Dev} (h : locks e = locks d) : secOrder d e := by
  simp only [locks, locksOf, Prod.mk.injEq] at h
  obtain ⟨hlock, hvendor, hcust, haes, hprov, hperm, hsvn⟩ := h
  simp [secOrder, fusesKept, hlock, hvendor, hcust, haes, hprov, hperm, hsvn]

theorem and_and_of_kept {a b c : Nat} (hab : b &&& a = a) (hbc : c &&& b = b) : c &&& a = a := by
  rw [← hab, ← Nat.and_assoc, hbc]

theorem fusesKept_trans {a b c : Dev} (hab : fusesKept a b) (hbc : fusesKept b c) : fusesKept a c := by
  obtain ⟨v1, h1, a1, p1, l1, s1⟩ := hab
  obtain ⟨v2, h2, a2, p2, l2, s2⟩ := hbc
  exact ⟨v2.trans v1, and_and_of_kept h1 h2, and_and_of_kept a1 a2, p2 ∘ p1, l2 ∘ l1, fun k => (s1 k).trans (s2 k)⟩

theorem secOrder_trans {a b c : Dev} (hab : secOrder a b) (hbc : secOrder b c) : secOrder a c :=
  ⟨fusesKept_trans hab.1 hbc.1, hbc.2 ∘ hab.2⟩

/-! Operations that leave the lock and the fuses. -/

@[simp] theorem locks_ite (c : Prop) [Decidable c] (a b : Dev) : locks (if c then a else b) = if c then locks a else locks b := apply_ite locks c a b

@[simp] theorem locks_uPwr (f : Pwr → Pwr) (d : Dev) : locks (d.uPwr f) = locks d := rfl

/-- A change of the state of security that leaves both leaves them on the device. -/
@[simp] theorem locks_uSec {f : Sec → Sec} {d : Dev} (h : locksOf (f d.sec) = locksOf d.sec) : locks (d.uSec f) = locks d := h

@[simp] theorem locks_raise (n : Nat) (d : Dev) : locks (raise n d) = locks d := locks_of_sec (by simp)

@[simp] theorem locks_taprootInput (i : Nat) (v : Bool) (d : Dev) : locks (taprootInput i v d) = locks d := locks_of_sec (by simp)

@[simp] theorem locks_finish (w : Who) (st x : Nat) (res : List Word) (d : Dev) : locks (finish w st x res d) = locks d := locks_of_sec (by simp)

@[simp] theorem locks_finishOpt (w : Option Who) (st x : Nat) (res : List Word) (d : Dev) : locks (finish? w st x res d) = locks d :=
  locks_of_sec (by simp)

@[simp] theorem locks_reject (t : Taken) (st x : Nat) (d : Dev) : locks (reject t st x d) = locks d := locks_of_sec (by simp)

@[simp] theorem locks_defer (w : Who) (x : Nat) (d : Dev) : locks (defer w x d) = locks d := locks_of_sec (by simp)

@[simp] theorem locks_setDomain (n v : Nat) (d : Dev) : locks (setDomain n v d) = locks d := rfl

@[simp] theorem locks_handOver (n : Nat) (d : Dev) : locks (handOver n d) = locks d := locks_of_sec (by simp)

/-- A Meoner command leaves the lock and the fuses where its body does. -/
theorem locks_command (op : Nat) (c : MnrCmd) {body : Taken → Dev → Dev} (h : ∀ t e, locks (body t e) = locks e) (d : Dev) :
    locks (command op c body d) = locks d := by
  have begun : locks (beginCommand op c (cmdAt c d)).1 = locks d := locks_of_sec (by simp)
  unfold command
  split <;> rename_i e <;> rw [e] at begun
  · exact begun
  · split
    · exact (h _ _).trans begun
    · exact (locks_finish _ _ _ _ _).trans begun

theorem locks_checked (t : Taken) (l : List (Bool × Nat × Nat)) {body : Dev → Dev} (h : ∀ e, locks (body e) = locks e) (d : Dev) :
    locks (checked t l body d) = locks d := by
  unfold checked
  split
  · exact locks_reject _ _ _ _
  · exact h d

/-- A commit of the slot state record leaves both (R486). -/
@[simp] theorem locksOf_commitActive (active : List Nat) (s : Sec) : locksOf (commitActive active s) = locksOf s := by
  unfold commitActive
  dsimp only
  split <;> rfl

/-- A violation is counted, and changes neither (R484). -/
@[simp] theorem locks_secViolation (d : Dev) : locks (secViolation d) = locks d := by simp [secViolation]

@[simp] theorem locks_uMbx (f : Mbx → Mbx) (d : Dev) : locks (d.uMbx f) = locks d := rfl

@[simp] theorem locks_coreReset (n : Nat) (d : Dev) : locks (coreReset n d) = locks d := by
  have reset (e : Dev) : locks (noteReset n e) = locks e := locks_of_sec (by simp)
  have drop (e : Dev) : locks (icDo (.drop n) e) = locks e := locks_of_sec (by simp)
  have discard (e : Dev) : locks (discardTo 3 e) = locks e := locks_of_sec (by simp)
  simp [coreReset, reset, drop, discard]

@[simp] theorem locks_coreRuns (n : Nat) (d : Dev) : locks (coreRuns n d) = locks d := by
  have back (e : Dev) : locks (returnMailboxes n e) = locks e := locks_of_sec (by simp)
  simp [coreRuns, back]

/-- A live update that fails leaves both (R496). -/
@[simp] theorem locks_updateFails (runs : Bool) (d : Dev) : locks (updateFails runs d) = locks d := by
  unfold updateFails
  split
  · rfl
  · simp

@[simp] theorem locks_cpyReset (n : Nat) (d : Dev) : locks (cpyReset n d) = locks d := by
  unfold cpyReset
  simp only [locks_coreReset, locks_handOver]
  split <;> simp

/-- A reset of one domain leaves both (Table 20.7). -/
theorem locks_loseDomain (n : Nat) (d : Dev) : locks (loseDomain n d) = locks d := by
  unfold loseDomain
  split
  case h_1 | h_2 | h_3 | h_4 => exact locks_cpyReset _ d
  all_goals exact locks_of_sec (by simp)

theorem locks_domainReset (c : MnrCmd) (d : Dev) : locks (domainReset c d) = locks d :=
  domainReset_keeps locks c d (fun op c _ d h => locks_command op c h d) locks_reject locks_defer locks_uPwr locks_loseDomain locks_setDomain

theorem locks_domainResetDone (n : Nat) (d : Dev) : locks (domainResetDone n d) = locks d := by
  unfold domainResetDone
  extract_lets waits runs ready left done
  have running : locks runs = locks d := by
    simp only [runs]
    split
    · exact locks_coreRuns _ d
    · rfl
  have back : locks ready = locks d := (locks_raise 469 _).trans ((locks_of_sec (by simp)).trans running)
  split
  · rfl
  · exact (each_keeps locks _ (fun r d => locks_finishOpt _ _ _ _ d) _ _).trans back

@[simp] theorem locks_loadEnds (st : Nat) (d : Dev) : locks (loadEnds st d) = locks d := by
  unfold loadEnds
  split
  · rfl
  · simp [putSlot']

@[simp] theorem locks_issueNonce (d : Dev) : locks (issueNonce d) = locks d := by
  have draws (e : Dev) : locks (freeBits 8 e).2 = locks e := locks_of_sec (by simp)
  simp [issueNonce, draws]

theorem locks_debugAttach (d : Dev) : locks (debugAttach d) = locks d := by
  unfold debugAttach
  split
  · rfl
  · simp [tapPulse]

theorem locks_debugResponse (scope : Nat) (sig : Bool) (d : Dev) : locks (debugResponse scope sig d) = locks d := by
  unfold debugResponse
  split
  · rfl
  · simp

theorem locks_imageLoad (c : MnrCmd) (sig : Bool) (d : Dev) : locks (imageLoad c sig d) = locks d := by
  refine locks_command _ _ (fun t e => ?_) d
  dsimp only
  split
  · simp
  · simp [putSlot']

theorem locks_imageActivate (c : MnrCmd) (d : Dev) : locks (imageActivate c d) = locks d :=
  locks_command _ _ (fun t e => by simp) d

theorem locks_keyProvision (c : MnrCmd) (d : Dev) : locks (keyProvision c d) = locks d :=
  locks_command _ _ (fun _ e => locks_checked _ _ (fun _ => (locks_defer _ _ _).trans (locks_uSec rfl)) e) d

@[simp] theorem locks_icDo (x : IcEv) (d : Dev) : locks (icDo x d) = locks d := locks_of_sec (by simp)

@[simp] theorem locks_icCfgWrite (t n v : Nat) (d : Dev) : locks (icCfgWrite t n v d) = locks d := by simp [icCfgWrite]

@[simp] theorem locks_icGctlWrite (t v : Nat) (d : Dev) : locks (icGctlWrite t v d) = locks d := by simp [icGctlWrite]

theorem locks_coreWrite (t addr v : Nat) (d : Dev) : locks (coreWrite t addr v d) = locks d := by
  have mailboxes (off : Nat) : locks (mbiBlockWrite off v t d) = locks d := locks_of_sec (by simp)
  have tap (off : Nat) : locks (tapWrite off v d) = locks d := locks_of_sec (by simp)
  have controller (off : Nat) : locks (icBlockWrite off v t d) = locks d := by simp [icBlockWrite, icComplete, tap]
  simp [coreWrite, mailboxes, controller]

theorem locks_coreRead (t addr : Nat) (d : Dev) : locks (coreRead t addr d) = locks d := by
  have reads (ws : List Nat) : locks (returned ws d) = locks d := locks_of_sec (by simp)
  have mailbox (i : Nat) (f : Mbox → Mbox) (e : Dev) : locks (updMbi i f e) = locks e := rfl
  have host (f : Hs → Hs) (e : Dev) : locks (e.uHs f) = locks e := rfl
  simp [coreRead, icClaim, reads, mailbox, host]

/-- An access of a register, a violation or not, leaves both (R2, R484). -/
theorem locks_registerAccess (who : Option (Fin 5)) (addr : Nat) (a : RegAccess) (d : Dev) : locks (registerAccess who addr a d) = locks d := by
  unfold registerAccess
  split
  · exact locks_of_sec (by simp)
  · exact locks_of_sec (by simp)
  · exact locks_coreWrite _ _ _ d
  · exact locks_coreRead _ _ d

/-! Operations that program fuses or lock the map. -/

/-- No bit that was set is lost as others join it. -/
theorem or_and_left (a b : Nat) : (a ||| b) &&& a = a :=
  Nat.eq_of_testBit_eq fun i => by
    rw [Nat.testBit_and, Nat.testBit_or]
    cases a.testBit i <;> simp

/-- A fuse of SVN that is raised counts no less, and no other one changes. -/
theorem at'_le_at'_upd_max (l : List Nat) (i k v : Nat) : at' l k 0 ≤ at' (upd l i (max v)) k 0 := by
  induction l generalizing i k with
  | nil => exact Nat.le_refl _
  | cons x xs ih =>
    match i, k with
    | 0, 0 => exact Nat.le_max_right v x
    | 0, k + 1 => exact Nat.le_refl _
    | i + 1, 0 => exact Nat.le_refl _
    | i + 1, k + 1 => exact ih i k

/-- Fuses that join those programmed before leave every bit set and every count of SVN as high (R489). -/
theorem secOrder_of_programmed {d e : Dev} {hash aes : Nat} {prov perm : Bool} {svn : List Nat} (hprov : d.sec.custProv = true → prov = true)
    (hsvn : ∀ k, at' d.sec.svnFuse k 0 ≤ at' svn k 0)
    (h : locks e = (d.sec.mapLocked, d.sec.vendorHash, d.sec.custHash ||| hash, d.sec.custAes ||| aes, prov, d.sec.permLock || perm, svn)) :
    secOrder d e := by
  simp only [locks, locksOf, Prod.mk.injEq] at h
  obtain ⟨elock, evendor, ehash, eaes, eprov, eperm, esvn⟩ := h
  refine ⟨⟨evendor, ?_, ?_, ?_, ?_, ?_⟩, ?_⟩
  · rw [ehash, or_and_left]
  · rw [eaes, or_and_left]
  · rwa [eprov]
  · intro hp
    rw [eperm, hp, Bool.true_or]
  · rwa [esvn]
  · intro hl
    rwa [elock]

/-- The fuses that KEY_PROVISION asked for are programmed (R490). -/
theorem secOrder_keyProvisionDone (d : Dev) : secOrder d (keyProvisionDone d) := by
  unfold keyProvisionDone
  split
  · exact secOrder_of_locks rfl
  · exact secOrder_of_programmed (fun _ => rfl) (fun _ => Nat.le_refl _) ((locks_finishOpt _ _ _ _ _).trans (locks_raise _ _))

/-- A KEY_PROVISION that a loss of power cuts programs some of its fuses (R490). -/
theorem secOrder_keyProvisionCut (d : Dev) : secOrder d (keyProvisionCut d) := by
  unfold keyProvisionCut
  split
  · exact secOrder_of_locks rfl
  · have drawn : locks (freeBits 8 (freeBits 12 d).2).2.drawn = locks d := locks_of_sec (by simp)
    exact secOrder_trans (secOrder_of_locks drawn)
      (secOrder_of_programmed id (fun _ => Nat.le_refl _) (locks_finishOpt _ _ _ _ _))

/-- A loss of power loses no fuse. -/
theorem secOrder_cutWrites (d : Dev) : secOrder d (cutWrites d) :=
  secOrder_trans (secOrder_of_locks ((locks_loadEnds _ _).trans (locks_of_sec (by simp)))) (secOrder_keyProvisionCut _)

/-- A live update that commits raises one fuse of SVN (R497). -/
theorem secOrder_coreReady (d : Dev) : secOrder d (coreReady d) := by
  unfold coreReady
  split
  · exact secOrder_of_locks rfl
  · rename_i a _
    split
    · exact secOrder_of_locks rfl
    · extract_lets x e f
      have raised : secOrder d e := by
        have commit := locksOf_commitActive (put d.sec.active a.target a.slot) d.sec
        refine secOrder_of_programmed (hash := 0) (aes := 0) (perm := false) id (at'_le_at'_upd_max _ a.target · x.svn) ?_
        simp only [Prod.mk.injEq] at commit
        simp [e, locks, commit]
      have runs : locks f = locks e := by
        simp only [f]
        split
        · rfl
        · exact locks_coreRuns _ e
      exact secOrder_trans raised (secOrder_of_locks (by simp [runs]))

/-- Boot locks the map and programs nothing (R491, R493). -/
theorem secOrder_bootImages {map : List Word} {d e : Dev} (h : bootImages map d = some e) : secOrder d e := by
  unfold bootImages at h
  dsimp only at h
  split at h
  · cases h
  · cases h
    simp [secOrder, fusesKept]

theorem secOrder_bootEnd (map : List Word) (d : Dev) : secOrder d (bootEnd map d) := by
  unfold bootEnd
  split
  · exact secOrder_of_locks rfl
  · split
    · exact secOrder_of_locks rfl
    · rename_i e h
      refine secOrder_trans (secOrder_bootImages h) (secOrder_of_locks ?_)
      have begins (e : Dev) : locks (startCalibrate e) = locks e := locks_of_sec (by simp)
      have store (e : Dev) : locks (ratedLimits (storePowerBack (loadStore e))) = locks e := locks_of_sec (by simp)
      simp [begins, store]

theorem secOrder_vinWarn (d : Dev) : secOrder d (vinWarn d) := by
  unfold vinWarn
  split
  · exact secOrder_of_locks rfl
  · extract_lets e f g
    have warned : locks e = locks d := locks_of_sec (by simp [e])
    split
    · split
      · exact secOrder_of_locks warned
      · exact secOrder_trans (secOrder_of_locks warned) (secOrder_cutWrites e)
    · have off : locks f = locks e := locks_of_sec (by simp [f])
      have safe : locks g = locks (cutWrites f) := locks_of_sec (by simp [g])
      have told : locks (postEvent 1 0 St.HW_FAULT 466 none [] (raise 466 g)) = locks g := locks_of_sec (by simp)
      exact secOrder_trans (secOrder_of_locks (off.trans warned)) (secOrder_trans (secOrder_cutWrites f) (secOrder_of_locks (told.trans safe)))

/-! Resets, which keep the fuses and lose the lock of the map (R469, R493). -/

/-- From device d to device e no fuse is lost, and the map stays locked or the device is in RESET, BOOT or SLEEP. -/
def secStep (d e : Dev) : Prop :=
  fusesKept d e ∧ (d.sec.mapLocked = true → e.sec.mapLocked = true ∨ e.pwr.mode = .reset ∨ e.pwr.mode = .boot ∨ e.pwr.mode = .sleep)

theorem secStep_of_order {d e : Dev} (h : secOrder d e) : secStep d e := ⟨h.1, fun hl => .inl (h.2 hl)⟩

/-- The reset keeps the fuses. -/
theorem secStep_reset {d e : Dev} (cause : Nat) (h : secOrder d e) : secStep d (enterReset cause e) :=
  ⟨h.1, fun _ => .inr (.inl rfl)⟩

theorem secStep_pwrMonitorTick (vin : Nat) (temp : Int) (d : Dev) : secStep d (pwrMonitorTick vin temp d) := by
  unfold pwrMonitorTick
  extract_lets e hot was f
  split
  · exact secStep_of_order (secOrder_of_locks rfl)
  · split
    · exact secStep_reset 3 (secOrder_cutWrites e)
    · have high : locks f = locks d := locks_of_sec (by simp [f, e])
      have fault (g : Dev) : locks (faultRaise 13 468 none St.HW_FAULT g) = locks g := locks_of_sec (by simp)
      have clear (g : Dev) : locks (faultClear 13 g) = locks g := locks_of_sec (by simp)
      have measured : locks e = locks d := rfl
      exact secStep_of_order (secOrder_of_locks (by simp [high, fault, clear, measured]))

/-- Taproot-only SLEEP keeps the fuses and loses the lock (R431). -/
theorem secStep_tapOnlyOff {d e : Dev} (h : secOrder d e) (hm : e.pwr.mode = .sleep) : secStep d (tapOnlyOff e) :=
  ⟨h.1, fun _ => .inr (.inr (.inr hm))⟩

theorem secStep_sleepCommit (d : Dev) : secStep d (sleepCommit d) := by
  unfold sleepCommit
  split
  · exact secStep_of_order (secOrder_of_locks rfl)
  · split
    · exact secStep_of_order (secOrder_of_locks (locks_of_sec (by simp)))
    · extract_lets w e f g
      have same : g.sec = d.sec := by simp [g, f, e]
      have mode : g.pwr.mode = .sleep := by simp [g]
      clear_value g
      split
      · exact secStep_tapOnlyOff (secOrder_of_locks (locks_of_sec same)) mode
      · exact secStep_of_order (secOrder_of_locks (locks_of_sec (by simp [same])))

theorem secStep_sleepTest {f : Dev → Dev} {d : Dev} (h : secStep d (f d)) : secStep d (sleepTest f d) := by
  have same : (sleepTest f d).sec = (f d).sec := by simp [sleepTest]
  have mode : (sleepTest f d).pwr.mode = (f d).pwr.mode := sleepTest_modeOf f d
  unfold secStep fusesKept at *
  rwa [same, mode]

/-- Outside SLEEP, RESET and BOOT every command keeps the fuses and the lock. -/
theorem exec_secStep {i : Instr} {s t : State} (h : exec i s = .next t) : secStep s.dev t.dev := by
  have refl (d : Dev) : secStep d d := secStep_of_order (secOrder_of_locks rfl)
  have timed (n : Nat) (d e : Dev) (h : secStep (d.at_ n) e) : secStep d e := h
  have kept {f : Dev → Dev} (hf : ∀ d, locks (f d) = locks d) (d : Dev) : secStep d (f d) := secStep_of_order (secOrder_of_locks (hf d))
  have ordered {f : Dev → Dev} (hf : ∀ d, secOrder d (f d)) (d : Dev) : secStep d (f d) := secStep_of_order (hf d)
  cases hi : mayChangeSecurity i with
  | false => exact secStep_of_order (secOrder_of_locks (locks_of_sec (exec_sec hi h)))
  | true =>
    cases i
    case sysReset => exact act_relates (f := sysReset) refl (fun d => secStep_reset 2 (secOrder_cutWrites d)) h
    case vinPorFall => exact act_relates (f := vinPorFall) refl (fun d => secStep_reset 1 (secOrder_cutWrites d)) h
    case sleepCommit n => exact event_relates refl (timed n) secStep_sleepCommit h
    case pwrMonitorTick vin temp n => exact event_relates refl (timed n) (fun d => secStep_sleepTest (secStep_pwrMonitorTick vin temp d)) h
    case bootEnd map n => exact event_relates refl (timed n) (ordered (secOrder_bootEnd map)) h
    case vinWarn n => exact event_relates refl (timed n) (ordered secOrder_vinWarn) h
    case coreReady n => exact event_relates refl (timed n) (ordered secOrder_coreReady) h
    case keyProvisionDone n => exact event_relates refl (timed n) (ordered secOrder_keyProvisionDone) h
    case debugAttach n => exact event_relates refl (timed n) (fun d => secStep_sleepTest (kept locks_debugAttach d)) h
    case registerWrite who addr v wide n =>
      exact event_relates refl (timed n) (fun d => secStep_sleepTest (kept (locks_registerAccess who addr.toNat _) d)) h
    case debugResponse scope sig n => exact event_relates refl (timed n) (kept (locks_debugResponse scope.val sig)) h
    case domainReset c => exact act_relates refl (kept (locks_domainReset c)) h
    case domainResetDone m n => exact event_relates refl (timed n) (kept (locks_domainResetDone m.val)) h
    case icCfgWrite e m v n => exact event_relates refl (timed n) (kept (locks_icCfgWrite e.val m.val v.toNat)) h
    case icGctlWrite e v n => exact event_relates refl (timed n) (kept (locks_icGctlWrite e.val v.toNat)) h
    case imageActivate c => exact act_relates refl (kept (locks_imageActivate c)) h
    case imageLoad c sig => exact act_relates refl (kept (locks_imageLoad c sig)) h
    case imageLoadDone ok n => exact event_relates refl (timed n) (kept (locks_loadEnds _)) h
    case jtagInstruction ir drives n => exact event_relates refl (timed n) (kept (f := jtagInstruction ir drives) fun _ => rfl) h
    case keyProvision c => exact act_relates refl (kept (locks_keyProvision c)) h
    case liveUpdateTimeout n => exact event_relates refl (timed n) (kept (locks_updateFails true)) h
    all_goals cases hi

/-- Settles O4: a step idles or executes one command, which keeps the fuses, and the lock of the map outside RESET, BOOT and SLEEP. -/
theorem securityInvariants : Obligations.SecurityInvariants := by
  have kept (s t : State) (h : step s = .next t) : secStep s.dev t.dev := by
    obtain rfl | ⟨i, rest, h⟩ := step_cases h
    · exact secStep_of_order (secOrder_of_locks rfl)
    · exact exec_secStep (s := { s with pending := rest }) h
  exact ⟨fun s t h => (kept s t h).1, fun s t ⟨hl, h⟩ => (kept s t h).2 hl⟩

end Sys2Proof.Proofs
end

section
/-! SUPPORT. Steps (O1): the front of the queue is taken, and every command answers a next state. -/

namespace Sys2Proof.Proofs

open Sys2Proof Sys2Proof.Machine Sys2Proof.Laws

/-- Every command acts on the device under a condition, and leaves the queue. -/
theorem exec_answers (i : Instr) (s : State) : ∃ d, exec i s = .next { s with dev := d } := by
  cases i <;> exact ⟨_, rfl⟩

/-- Settles O1: a step is the command at the front, an empty queue idles, and each command is one act on the device. -/
theorem stepTakesFront : Obligations.StepTakesFront := by
  refine ⟨fun s c q => rfl, fun s h => ?_, fun i s => ?_⟩
  · rw [step, h]
  · obtain ⟨d, hd⟩ := exec_answers i s
    exact ⟨_, hd, rfl⟩

end Sys2Proof.Proofs
end

section
/-! SUPPORT. The Meoner firmware (O16 to O19): how a command is taken, started, answered and ended. -/

namespace Sys2Proof.Proofs

open Sys2Proof Sys2Proof.Machine Sys2Proof.Laws

/-- A device in READY with H2D mailbox 0 posted by the host, and nothing taken. -/
def postedFirst : State := { dev := { pwr := { mode := .ready }, mbx := { h2d := [{ posted := true }] } } }

/-- A PING under tag 0. -/
def pingZero : MnrCmd := { mbx := 0, tag := 0 }

/-- Refutes O16: a command that stands posted in an H2D mailbox, though none is taken yet, keeps the row of a later command from being taken (R325). -/
theorem not_commandStarts : ¬ Obligations.CommandStarts := by
  unfold Obligations.CommandStarts
  intro h
  have starts := (h postedFirst Op.PING pingZero (by decide +kernel) (by decide +kernel) (by decide +kernel) (by decide +kernel) (by decide +kernel)).1
  have waits : (beginCommand Op.PING pingZero (cmdAt pingZero postedFirst.dev)).2 = none := rfl
  exact Option.some_ne_none _ (starts.2.1.symm.trans waits)

/-- Settles O17: the command starts, and its mode decides (R329). -/
theorem commandAnsweredAtOnce : Obligations.CommandAnsweredAtOnce := by
  unfold Obligations.CommandAnsweredAtOnce
  intro op c t body d starts mode
  unfold command begun at *
  generalize beginCommand op c (cmdAt c d) = begins at *
  obtain ⟨e, o⟩ := begins
  cases starts
  simp only [mode, Bool.false_eq_true, if_false]

/-! What the firmware answers when it takes a command. -/

/-- A final completion of the session in force (R322, R324). -/
theorem finish_of_sess {w : Who} {d : Dev} (st x : Nat) (res : List Word) (h : w.sess = d.mnr.sess) :
    finish w st x res d = pushOut w.mbx (completionWords w st x false res) (d.uMnr fun m => { m with tags := m.tags.filter fun r => r.who != w }) := by
  rw [finish, if_pos h]

/-- DEFERRED, in the session in force (R326). -/
theorem defer_of_sess {w : Who} {d : Dev} (x : Nat) (h : w.sess = d.mnr.sess) :
    defer w x d = pushOut w.mbx (completionWords w St.DEFERRED x false [])
      (d.uMnr fun m => { m with tags := m.tags.map fun r => if r.who = w then { r with deferred := true } else r }) := by
  rw [defer, if_pos h]

/-- A tag that is not outstanding stands in no record. -/
theorem filter_of_tag_free {l : List TagRec} {w : Who} (h : l.any (fun r => r.who.tag == w.tag) = false) : l.filter (fun r => r.who != w) = l := by
  refine List.filter_eq_self.mpr fun r hr => bne_iff_ne.mpr fun e => ?_
  simpa [e] using List.any_eq_false.mp h r hr

/-- A rejection at taking frees the tag that taking recorded, and sends one completion without result words. -/
theorem finish_taken {w : Who} {d : Dev} (st : Nat) (hs : w.sess = d.mnr.sess) (hf : d.mnr.tags.any (fun r => r.who.tag == w.tag) = false) :
    finish w st 0 [] (d.uMnr fun x => { x with tags := x.tags ++ [{ who := w }] }) =
      d.uMnr fun x => { x with out := x.out ++ [(w.mbx, [BitVec.ofNat 32 (w.op + 65536 * w.tag + 67108864), 0, BitVec.ofNat 32 st], if x.open_ then some x.sess else none)] } := by
  rw [finish_of_sess (d := d.uMnr _) st 0 [] hs]
  have freed : (d.mnr.tags ++ [({ who := w } : TagRec)]).filter (fun r => r.who != w) = d.mnr.tags := by
    simp [List.filter_append, filter_of_tag_free hf]
  simp only [pushOut, completionWords, Dev.uMnr, freed]
  rfl

/-- A command posted in an earlier HOST_EPOCH (R307, R327). -/
theorem takeCommand_earlier (m hi tag op len arg : Nat) (pay : List Word) {pe : Nat} {d : Dev} (h : pe ≠ d.hs.hostEpoch) :
    takeCommand m hi tag op len arg pay pe d = d.uMnr (logStatus tag St.DISCARDED) := by
  rw [takeCommand, if_pos h]

/-- A command whose tag is outstanding (R324). -/
theorem takeCommand_duplicate (m hi : Nat) {tag : Nat} (op len arg : Nat) (pay : List Word) {d : Dev}
    (h : d.mnr.tags.any (fun r => r.who.tag == tag) = true) :
    takeCommand m hi tag op len arg pay d.hs.hostEpoch d =
      pushOut m (completionWords { mbx := m, tag, op, sess := d.mnr.sess } St.BUSY 0 true []) (d.uMnr fun x => { x with dupTags := sat16 x.dupTags }) := by
  rw [takeCommand, if_neg (by simp), if_pos h]

/-- The status that taking a command with a free tag gives at once, if one of its checks fails (R321, R323, R327). -/
def takeStatus (hi op len : Nat) (d : Dev) : Option Nat :=
  if len = 15 ∨ hi ≠ 0 then some St.BAD_FIELD
  else if knownOpcode op = false then some St.BAD_OPCODE
  else if opcodeGranted op d = false ∨ (d.mnr.open_ = false ∧ op ≠ Op.PING ∧ op ≠ Op.SESSION_OPEN ∧ op ≠ Op.DEV_INFO) then some St.DENIED
  else none

/-- A command with a free tag that fails a check as it is taken ends at once, under the tag that taking records. -/
theorem takeCommand_of_takeStatus (m : Nat) {hi tag op len : Nat} (arg : Nat) (pay : List Word) {d : Dev} {st : Nat}
    (hf : d.mnr.tags.any (fun r => r.who.tag == tag) = false) (h : takeStatus hi op len d = some st) :
    takeCommand m hi tag op len arg pay d.hs.hostEpoch d =
      finish { mbx := m, tag, op, sess := d.mnr.sess } st 0 []
        (d.uMnr fun x => { x with tags := x.tags ++ [{ who := { mbx := m, tag, op, sess := d.mnr.sess } }] }) := by
  have granted (f : Mnr → Mnr) : opcodeGranted op (d.uMnr f) = opcodeGranted op d := rfl
  unfold takeStatus at h
  unfold takeCommand
  simp only [ne_eq, not_true_eq_false, if_false, hf, Bool.false_eq_true, granted]
  split at h
  case isTrue bad =>
    cases h
    by_cases l : len = 15
    · simp only [l, if_true]
    · simp only [l, if_false, bad.resolve_left l, not_false_eq_true, if_true]
  case isFalse good =>
    obtain ⟨l, hh⟩ := not_or.mp good
    simp only [l, hh, if_false]
    split at h
    case isTrue unknown => cases h; simp [unknown]
    case isFalse known =>
      split at h
      case isFalse => cases h
      case isTrue denied =>
        cases h
        simp only [Bool.not_eq_false] at known
        by_cases g : opcodeGranted op d
        · have := denied.resolve_left (by simp [g])
          simp [known, g, this]
        · simp [known, g]

/-- Settles O18: the checks of takeCommand in their order, and the completion that each of them sends. -/
theorem commandRejections : Obligations.CommandRejections := by
  unfold Obligations.CommandRejections
  refine ⟨fun m hi tag op len arg pe pay d h => takeCommand_earlier m hi tag op len arg pay h,
    fun m hi tag op len arg pay d h => (takeCommand_duplicate m hi op len arg pay h).trans ?_, fun m hi tag op len arg pay d hf hbad => ?_⟩
  · rfl
  · have status : takeStatus hi op len d = some (if len = 15 ∨ hi ≠ 0 then St.BAD_FIELD else if knownOpcode op = false then St.BAD_OPCODE else St.DENIED) := by
      unfold takeStatus
      grind
    exact (takeCommand_of_takeStatus m arg pay hf status).trans (finish_taken _ rfl hf)

/-- Answering with DEFERRED keeps whose tags are outstanding. -/
theorem map_who_deferred (l : List TagRec) (w : Who) :
    (l.map fun r => if r.who = w then { r with deferred := true } else r).map TagRec.who = l.map TagRec.who := by
  rw [List.map_map]
  refine List.map_congr_left fun r _ => ?_
  rw [Function.comp_apply]
  split <;> rfl

/-- Settles O19: a command of the session in force answers through its mailbox, one of the logged session through MNR_LOG. -/
theorem completionAndLog : Obligations.CompletionAndLog := by
  unfold Obligations.CompletionAndLog
  refine ⟨fun w st x res d h => ?_, fun w st x res d ⟨h, logged, sess⟩ => ?_, fun w x d h => ?_⟩
  · rw [finish_of_sess st x res h]
    rfl
  · rw [finish, if_neg h, if_pos ⟨logged, sess⟩]
    rfl
  · rw [defer_of_sess x h]
    exact ⟨rfl, map_who_deferred d.mnr.tags w⟩

end Sys2Proof.Proofs
end

section
/-! SUPPORT. Reads and writes of objects (O22, O23): what each answers, and where a read may write host memory. -/

namespace Sys2Proof.Proofs

open Sys2Proof Sys2Proof.Machine Sys2Proof.Laws

/-- An object that can be read has a definition, its domain runs, and no write of it is in progress. -/
theorem readable_iff {id : Nat} {d : Dev} :
    readable id d = true ↔ ∃ o, objDef id d = some o ∧ domainBusy id d = none ∧ objInProgress id d = false := by
  simp [readable, Option.isSome_iff_exists, and_assoc]

/-- The bit that asks for the buffer is set in an ARG that carries it and an ID. -/
theorem bufferBit_set {id : Nat} (h : id < 65536) : bit (65536 + id) 16 = true := by
  have : (65536 + id) / 65536 = 1 := by omega
  simp [bit, Nat.testBit_eq_decide_div_mod_eq, this]

/-- An OBJ_READ that starts, by a buffer that is long enough, writes the object's words to host memory (R331). -/
theorem objRead_buffered {c : MnrCmd} {d : Dev} {t : Taken} {id : Nat} (hs : Starts Op.OBJ_READ c d t) (harg : t.arg = 65536 + id) (hid : id < 65536)
    (hr : readable id (begun Op.OBJ_READ c d) = true) (hbuf : bufBad t = false) (hok : c.hostOk = true)
    (hlen : 4 * (readWords id (begun Op.OBJ_READ c d)).length ≤ t.w 2) :
    objRead c d = finish t.who St.OK (4 * (readWords id (begun Op.OBJ_READ c d)).length) []
      (readClears id (begun Op.OBJ_READ c d) (writeWords (bufAddr t) (readWords id (begun Op.OBJ_READ c d)) (begun Op.OBJ_READ c d))) := by
  unfold objRead
  rw [command_body _ hs]
  clear hs
  generalize begun Op.OBJ_READ c d = e at *
  obtain ⟨o, ho, idle, settled⟩ := readable_iff.mp hr
  have isId : t.arg % 65536 = id := by omega
  have named : ¬ 131072 ≤ t.arg := by omega
  have buffered : bit t.arg 16 = true := harg ▸ bufferBit_set hid
  simp only [readWords, readClears, ho] at hlen ⊢
  simp [isId, named, settled, ho, idle, buffered, checked, firstFail, hbuf, hok, Nat.not_lt.mpr hlen]

/-- An OBJ_INFO that starts returns the object's size in bytes, and whether a read needs the buffer. -/
theorem objInfo_runs {c : MnrCmd} {d : Dev} {t : Taken} (hs : Starts Op.OBJ_INFO c d t) (hid : t.arg < 65536)
    (hr : readable t.arg (begun Op.OBJ_INFO c d) = true) :
    objInfo c d = finish t.who St.OK 0 [BitVec.ofNat 32 (4 * (readWords t.arg (begun Op.OBJ_INFO c d)).length),
      BitVec.ofNat 32 (b2n (readByBuffer t.arg (begun Op.OBJ_INFO c d)))] (begun Op.OBJ_INFO c d) := by
  unfold objInfo
  rw [command_body _ hs]
  clear hs
  generalize begun Op.OBJ_INFO c d = e at *
  obtain ⟨o, ho, idle, settled⟩ := readable_iff.mp hr
  simp only [readWords, readByBuffer, ho]
  simp [Nat.not_le.mpr hid, settled, idle]

/-- A buffer of a read is right when LEN is 3, ADDR is a multiple of 4 and it is not empty. -/
theorem bufBad_false {t : Taken} (hl : t.len = 3) (ha : t.w 0 % 4 = 0) (hn : 0 < t.w 2) : bufBad t = false := by
  simp [bufBad, hl, ha, hn.ne']

/-- Settles O22: an accepted write has its owner's effect; a read and OBJ_INFO give the object's words and its size. -/
theorem objectReadAndWrite : Obligations.ObjectReadAndWrite := by
  unfold Obligations.ObjectReadAndWrite
  refine ⟨fun s c t hs ha => ?_, fun s c t hs ⟨hid, hr, hb⟩ => ?_, fun s c t id hs ⟨harg, hid, hr, hl, ha, hn, hok, hlen⟩ => ?_, fun s c t hs ⟨hid, hr⟩ => ?_⟩
  · exact (act_runs _ hs.1).trans (by rw [objWrite_accepted hs ha])
  · exact (act_runs _ hs.1).trans (by rw [objRead_direct hs hid hr hb])
  · exact (act_runs _ hs.1).trans (by rw [objRead_buffered hs harg hid hr (bufBad_false hl ha hn) hok hlen])
  · exact (act_runs _ hs.1).trans (by rw [objInfo_runs hs hid hr])

/-- Words fill four bytes each. -/
theorem length_bytes (ws : List Word) : (ws.flatMap bytesOfWord).length = 4 * ws.length := by
  rw [List.length_flatMap, Nat.mul_comm]
  simp [bytesOfWord]

/-- A read leaves host memory, or writes the object's words at the address of its buffer, which its ARG then names. -/
theorem objRead_hostMem {c : MnrCmd} {d : Dev} {t : Taken} (hs : Starts Op.OBJ_READ c d t) :
    (objRead c d).hostMem = d.hostMem ∨ (65536 ≤ t.arg ∧
      (objRead c d).hostMem = (writeWords (bufAddr t) (readWords (t.arg % 65536) (begun Op.OBJ_READ c d)) (begun Op.OBJ_READ c d)).hostMem) := by
  have before : (begun Op.OBJ_READ c d).hostMem = d.hostMem := by simp [begun]
  unfold objRead
  rw [command_body _ hs, ← before]
  clear hs before
  generalize begun Op.OBJ_READ c d = e
  extract_lets id
  split
  · simp
  split
  · simp
  split
  · simp
  case h_2 o ho =>
    obtain ⟨-, tame⟩ := objDef_tame id e o ho
    have cleared (x : Dev) : (o.clear x).hostMem = x.hostMem := (tame x).1
    split
    · simp
    · extract_lets ws size
      split
      case isTrue buffered =>
        have named : 65536 ≤ t.arg := Nat.ge_two_pow_of_testBit buffered
        unfold checked
        split
        · simp
        · refine .inr ⟨named, ?_⟩
          simp [cleared, readWords, id, ho, ws]
      case isFalse =>
        left
        simp [checked_hostMem, cleared]

/-- Settles O23: a read keeps mode, security and contents; outside its buffer host memory reads as before. -/
theorem readLeavesOtherMemory : Obligations.ReadLeavesOtherMemory := by
  unfold Obligations.ReadLeavesOtherMemory
  intro s c t hs
  obtain ⟨mode, sec, -, objs⟩ := objRead_frame c s.dev
  refine ⟨objRead c s.dev, act_runs _ hs.1, mode, sec, objs, fun a ha => ?_⟩
  obtain kept | ⟨named, written⟩ := objRead_hostMem hs
  · rw [kept]
  · have outside : a < bufAddr t ∨ bufAddr t + 4 * (readWords (t.arg % 65536) (begun Op.OBJ_READ c s.dev)).length ≤ a := by omega
    have before : (begun Op.OBJ_READ c s.dev).hostMem = s.dev.hostMem := by simp [begun]
    rw [written, writeWords, read_writeBytes_other _ _ _ _ (by rwa [length_bytes]), before]

end Sys2Proof.Proofs
end

section
/-! SUPPORT. MODE_SET (O26): its checks, and the mode that each move of Table 20.4 leaves. -/

namespace Sys2Proof.Proofs

open Sys2Proof Sys2Proof.Machine Sys2Proof.Laws

/-- A MODE_SET that starts with its target from 3 to 7 and right fields changes the mode. -/
theorem modeSet_runs {c : MnrCmd} {s : State} {t : Taken} (hs : Starts Op.MODE_SET c s.dev t) (harg : 2 < t.arg ∧ t.arg < 8)
    (hlen : t.len = 0 ∨ t.len = 2) (hw : if t.arg = 4 then t.w 1 < 65536 else t.w 0 = 0 ∧ t.w 1 = 0) :
    exec (.modeSet c) s = .next { s with dev := modeChange t.who t.arg (t.w 0 + 4294967296 * t.w 1) (begun Op.MODE_SET c s.dev) } := by
  refine (act_command _ hs).trans ?_
  have target : ¬ 8 ≤ t.arg ∧ ¬ t.arg ≤ 2 := by omega
  by_cases scan : t.arg = 4
  · rw [if_pos scan] at hw
    obtain len | len := hlen <;> simp [checked, firstFail, scan, len, Nat.not_le.mpr hw]
  · rw [if_neg scan] at hw
    obtain len | len := hlen <;> simp [checked, firstFail, scan, len, hw, target]

/-- A command without payload reads 0 in every payload word. -/
theorem Taken.w_of_empty {t : Taken} (h : t.pay = []) (i : Nat) : t.w i = 0 := by simp [Taken.w, h]

/-- A MODE_SET without payload changes the mode to its target. -/
theorem modeSet_runs_plain {c : MnrCmd} {s : State} {t : Taken} (hs : Starts Op.MODE_SET c s.dev t) (harg : 2 < t.arg ∧ t.arg < 8)
    (hlen : t.len = 0) (hpay : t.pay = []) :
    exec (.modeSet c) s = .next { s with dev := modeChange t.who t.arg 0 (begun Op.MODE_SET c s.dev) } := by
  have := modeSet_runs hs harg (.inl hlen) (by simp [Taken.w_of_empty hpay])
  simpa [Taken.w_of_empty hpay] using this

/-- A MODE_SET whose target is no mode of Table 20.4 is rejected. -/
theorem modeSet_badTarget {c : MnrCmd} {s : State} {t : Taken} (hs : Starts Op.MODE_SET c s.dev t) (harg : t.arg ≤ 2 ∨ 8 ≤ t.arg) :
    exec (.modeSet c) s = .next { s with dev := finish t.who St.BAD_FIELD 0 [] (begun Op.MODE_SET c s.dev) } := by
  refine (act_command _ hs).trans ?_
  simp only [checked, firstFail, harg.symm, Bool.or_eq_true, decide_eq_true_eq, if_true]
  rfl

/-- The moves from READY to SCAN that succeed: admission passes, and the mode is SCAN. -/
theorem modeScan_mode {w : Who} {lines : Nat} {d : Dev} (h : admission d = none) : (modeScan w lines d).pwr.mode = .scan := by
  simp [modeScan, h]

/-- A stop in SCAN enters HOLD (R262). -/
theorem paceStop_mode {cause : Nat} {d : Dev} (h : d.pwr.mode = .scan) : (paceStop cause d).pwr.mode = .hold := by
  simp [paceStop, h]

/-- The modes that enter SAFE (R473). -/
theorem enterSafe_mode {cls : Option Nat} {who : Option Who} {d : Dev} (h : d.inMode [.calibrate, .ready, .scan, .hold] = true) :
    (enterSafe cls who d).pwr.mode = .safe := by
  unfold enterSafe
  rw [if_pos h]
  extract_lets from_ d1 d2 d3 d4 d5 d6 d7 d8 d9 d10
  have stopped : d6.pwr.mode = .safe := by simp [d6, d5, d4]
  have braked : d7.pwr.mode = .safe := by
    simp only [d7]
    (repeat' split) <;> simp [stopped]
  have raised : d9.pwr.mode = .safe := by
    simp only [d9, d8]
    split <;> simp [braked]
  simp [d10, raised]

/-- A MODE_SET to the mode that stands completes with OK (R333). -/
theorem modeChange_same {w : Who} {target lines : Nat} {d : Dev}
    (h : (target = 3 ∧ d.pwr.mode = .ready) ∨ (target = 4 ∧ d.pwr.mode = .scan) ∨ (target = 6 ∧ d.pwr.mode = .safe)) :
    modeChange w target lines d = finish w St.OK 0 [] d := by
  unfold modeChange
  obtain ⟨rfl, hm⟩ | ⟨rfl, hm⟩ | ⟨rfl, hm⟩ := h <;> simp only [hm]

/-- A MODE_SET from READY to SCAN. -/
theorem modeChange_scan {w : Who} {target lines : Nat} {d : Dev} (ht : target = 4) (hm : d.pwr.mode = .ready) :
    modeChange w target lines d = modeScan w lines d := by
  subst ht
  unfold modeChange
  simp only [hm]

/-- A MODE_SET from SCAN to HOLD. -/
theorem modeChange_hold {w : Who} {target lines : Nat} {d : Dev} (ht : target = 5) (hm : d.pwr.mode = .scan) :
    modeChange w target lines d = finish w St.OK 0 [] (paceStop 3 (holdTrans d)) := by
  subst ht
  unfold modeChange
  simp only [hm]

/-- A MODE_SET to SAFE. -/
theorem modeChange_safe {w : Who} {target lines : Nat} {d : Dev} (ht : target = 6)
    (hm : d.pwr.mode = .calibrate ∨ d.pwr.mode = .ready ∨ d.pwr.mode = .scan ∨ d.pwr.mode = .hold) :
    modeChange w target lines d = modeChange.finishSafe w (enterSafe none (some w) d) := by
  subst ht
  unfold modeChange
  obtain hm | hm | hm | hm := hm <;> simp only [hm]

/-- Beginning a command leaves host memory, the objects and the security state. -/
theorem begun_frame (op : Nat) (c : MnrCmd) (d : Dev) :
    (begun op c d).hostMem = d.hostMem ∧ (begun op c d).pwr.mode = d.pwr.mode ∧ (begun op c d).sec = d.sec ∧ (begun op c d).liveOld = d.liveOld ∧
      (begun op c d).objs = d.objs := by
  simp [begun]

/-- Settles O26: the checks of MODE_SET, and the move that each target makes from the present mode. -/
theorem modeSetMoves : Obligations.ModeSetMoves := by
  unfold Obligations.ModeSetMoves
  refine ⟨fun s c t hs ⟨hl, hp, hstay⟩ => ?_, fun s c t hs ⟨harg, hf, hm, hadm⟩ => ?_, fun s c t hs ⟨harg, hl, hp, hm⟩ => ?_,
    fun s c t hs ⟨harg, hl, hp, hm⟩ => ?_, fun s c t hs harg => modeSet_badTarget hs harg⟩
  · rw [modeSet_runs_plain hs (by omega) hl hp, modeChange_same hstay]
  · have fields : (t.len = 0 ∨ t.len = 2) ∧ t.w 1 < 65536 := by
      obtain ⟨hl, hp⟩ | ⟨hl, hw⟩ := hf
      · exact ⟨.inl hl, by simp [Taken.w_of_empty hp]⟩
      · exact ⟨.inr hl, hw⟩
    obtain ⟨mem, -, sec, -, objs⟩ := begun_frame Op.MODE_SET c s.dev
    refine ⟨_, modeSet_runs hs (by omega) fields.1 (by rw [if_pos harg]; exact fields.2), ?_⟩
    rw [modeChange_scan harg hm]
    simp [modeScan_mode hadm, mem, sec, objs]
  · obtain ⟨mem, -⟩ := begun_frame Op.MODE_SET c s.dev
    refine ⟨_, modeSet_runs_plain hs (by omega) hl hp, ?_⟩
    rw [modeChange_hold harg hm]
    have scans : (holdTrans (begun Op.MODE_SET c s.dev)).pwr.mode = .scan := by simp [hm]
    simp [paceStop_mode scans, mem]
  · obtain ⟨mem, -⟩ := begun_frame Op.MODE_SET c s.dev
    refine ⟨_, modeSet_runs_plain hs (by omega) hl hp, ?_⟩
    rw [modeChange_safe harg hm]
    have runs : (begun Op.MODE_SET c s.dev).inMode [.calibrate, .ready, .scan, .hold] = true := by simpa [Dev.inMode] using hm
    simp [enterSafe_mode runs, mem]

end Sys2Proof.Proofs
end

section
/-! SUPPORT. The interrupt controller (O7 to O9): the source that a claim takes, and the events of one cycle. -/

namespace Sys2Proof.Proofs

open Sys2Proof Sys2Proof.Machine Sys2Proof.Laws

/-! The best offered source (R421). -/

/-- What a claim of target t does with the next source n, b being the best of those before it. -/
def bestStep (c : Ic) (t : Nat) (b : Option Nat) (n : Nat) : Option Nat :=
  if c.offered t n then
    match b with
    | none => some n
    | some m => if c.prio m < c.prio n then some n else b
  else b

theorem best_eq_foldl (c : Ic) (t : Nat) : c.best t = (c.st.map Prod.fst).foldl (bestStep c t) none := rfl

/-- Source n yields to no other: m has a lower PRIO, or the same and no lower ID. -/
def outranks (c : Ic) (n m : Nat) : Prop := c.prio m < c.prio n ∨ (c.prio m = c.prio n ∧ n ≤ m)

/-- A source takes the place of the best before it, or leaves it. -/
theorem bestStep_cases (c : Ic) (t : Nat) (b : Option Nat) (k : Nat) :
    (bestStep c t b k = some k ∧ c.offered t k = true ∧ ∀ m, b = some m → c.prio m < c.prio k) ∨
      (bestStep c t b k = b ∧ (c.offered t k = true → ∃ m, b = some m ∧ c.prio k ≤ c.prio m)) := by
  unfold bestStep
  cases c.offered t k with
  | false => simp
  | true =>
    cases b with
    | none => simp
    | some m =>
      by_cases higher : c.prio m < c.prio k
      · simp [higher]
      · simp [higher, Nat.not_lt.mp higher]

/-- The best of rising sources is the one before them or an offered one of them, and yields to no offered one. -/
theorem foldl_bestStep {c : Ic} {t n : Nat} {l : List Nat} {b : Option Nat} (rising : l.Pairwise (· < ·)) (above : ∀ m, b = some m → ∀ k ∈ l, m < k)
    (h : l.foldl (bestStep c t) b = some n) :
    (b = some n ∨ c.offered t n = true) ∧ (∀ m, b = some m → outranks c n m) ∧ ∀ m ∈ l, c.offered t m = true → outranks c n m := by
  induction l generalizing b with
  | nil => exact ⟨.inl h, fun m hm => .inr (by cases hm.symm.trans h; exact ⟨rfl, le_rfl⟩), fun m hm => by cases hm⟩
  | cons k l ih =>
    obtain ⟨first, rest⟩ := List.pairwise_cons.mp rising
    rw [List.foldl_cons] at h
    obtain ⟨taken, offered, higher⟩ | ⟨left, lower⟩ := bestStep_cases c t b k
    · rw [taken] at h
      obtain ⟨from_, outk, outl⟩ := ih rest (fun m hm => by cases hm; exact first) h
      have best := outk k rfl
      refine ⟨.inr (from_.elim (fun e => by cases e; exact offered) id), fun m hm => ?_, fun m hm om => ?_⟩
      · have := higher m hm
        unfold outranks at *
        omega
      · obtain rfl | hm := List.mem_cons.mp hm
        · exact best
        · exact outl m hm om
    · rw [left] at h
      obtain ⟨from_, outb, outl⟩ := ih rest (fun m hm j hj => above m hm j (List.mem_cons_of_mem k hj)) h
      refine ⟨from_, outb, fun j hj oj => ?_⟩
      obtain rfl | hj := List.mem_cons.mp hj
      · obtain ⟨m, hm, hle⟩ := lower oj
        have best := outb m hm
        have id_lt := above m hm j List.mem_cons_self
        unfold outranks at *
        omega
      · exact outl j hj oj

/-- None is the best only where none before and none of the sources is offered. -/
theorem foldl_bestStep_none {c : Ic} {t : Nat} {l : List Nat} {b : Option Nat} (h : l.foldl (bestStep c t) b = none) :
    b = none ∧ ∀ m ∈ l, c.offered t m = false := by
  induction l generalizing b with
  | nil => exact ⟨h, fun m hm => by cases hm⟩
  | cons k l ih =>
    obtain ⟨before, others⟩ := ih h
    obtain ⟨taken, -⟩ | ⟨left, lower⟩ := bestStep_cases c t b k
    · cases taken.symm.trans before
    · have none_before : b = none := left.symm.trans before
      refine ⟨none_before, fun m hm => ?_⟩
      obtain rfl | hm := List.mem_cons.mp hm
      · refine Bool.eq_false_iff.mpr fun o => ?_
        obtain ⟨j, hj, -⟩ := lower o
        cases hj.symm.trans none_before
      · exact others m hm

/-- A source that is offered has an entry in the table of source states. -/
theorem mem_of_offered {c : Ic} {t n : Nat} (h : c.offered t n = true) : n ∈ c.st.map Prod.fst := by
  by_contra absent
  have reset : c.src n = {} := by
    unfold Ic.src
    generalize c.st = l at absent
    induction l with
    | nil => rfl
    | cons e l ih =>
      simp only [List.map_cons, List.mem_cons, not_or] at absent
      rw [Sparse.get, if_neg (Ne.symm absent.1), ih absent.2]
  simp [Ic.offered, reset] at h

/-- The keys of a map in canonical form rise. -/
theorem keys_rising {α : Type} [DecidableEq α] {d : α} {m : Sparse α} {b : Option Nat} (h : Sparse.wfFrom d b m = true) :
    (m.map Prod.fst).Pairwise (· < ·) ∧ ∀ n, b = some n → ∀ k ∈ m.map Prod.fst, n < k := by
  induction m generalizing b with
  | nil => simp
  | cons e m ih =>
    obtain ⟨k, v⟩ := e
    simp only [Sparse.wfFrom, Bool.and_eq_true] at h
    obtain ⟨⟨h1, -⟩, h3⟩ := h
    obtain ⟨rises, above⟩ := ih h3
    refine ⟨List.pairwise_cons.mpr ⟨above k rfl, rises⟩, fun n hn k' hk' => ?_⟩
    subst hn
    simp at h1
    obtain rfl | later := List.mem_cons.mp hk'
    · exact h1
    · exact h1.trans (above k rfl k' later)

/-- Settles O7: the table of source states lists every offered source, in rising order. -/
theorem claimTakesBestOffered : Obligations.ClaimTakesBestOffered := by
  unfold Obligations.ClaimTakesBestOffered
  refine ⟨fun c e n canonical best => ?_, fun c e none_best m => ?_⟩
  · obtain ⟨rising, -⟩ := keys_rising canonical
    obtain ⟨offered, -, out⟩ := foldl_bestStep rising (fun m hm => by cases hm) best
    exact ⟨offered.resolve_left (by simp), fun m om => out m (mem_of_offered om) om⟩
  · exact Bool.eq_false_iff.mpr fun om => absurd om (by simp [(foldl_bestStep_none none_best).2 m (mem_of_offered om)])

/-! One cycle of the controller (R424). -/

/-- What an event of a cycle leaves: the cycle's record, and what a sleep left. -/
def cycleOf (c : Ic) : Nat × List IcEv × IcBase × Nat := (c.evAt, c.evs, c.base, c.slpResult)

@[simp] theorem setSrc_cycleOf (n : Nat) (x : IcSrc) (c : Ic) : cycleOf (c.setSrc n x) = cycleOf c := rfl

/-- A fold over the controller leaves the cycle's record if every step does. -/
theorem foldl_cycleOf {α : Type} {f : Ic → α → Ic} (h : ∀ c x, cycleOf (f c x) = cycleOf c) (l : List α) (c : Ic) :
    cycleOf (l.foldl f c) = cycleOf c := by
  induction l generalizing c with
  | nil => rfl
  | cons x l ih => exact (ih (f c x)).trans (h c x)

/-- No event changes the record of its cycle. -/
theorem run_cycleOf (c : Ic) (e : IcEv) : cycleOf (c.run e) = cycleOf c := by
  cases e with
  | cfg n v =>
    simp only [Ic.run, Ic.writeCfg]
    (repeat' split) <;> rfl
  | gctl v events =>
    simp only [Ic.run, Ic.writeGctl]
    split
    · refine (foldl_cycleOf (fun c i => ?_) (maskIx events 32) { c with deliver := bit v 0, slpKind := bit v 1 })
      split <;> rfl
    · rfl
  | complete t n =>
    simp only [Ic.run, Ic.complete]
    split <;> rfl
  | drop t =>
    refine foldl_cycleOf (fun c n => ?_) _ c
    simp only
    split <;> rfl
  | clearBad => rfl
  | input n v => rfl
  | claim t =>
    simp only [Ic.run, Ic.claim]
    split <;> rfl

/-- A cycle takes nothing from the controller but SLP_RESULT. -/
theorem replay_congr {b : IcBase} {m : Nat} {fs : List IcEv} {c c' : Ic} (h : c'.slpResult = c.slpResult) : c'.replay b m fs = c.replay b m fs := by
  simp only [Ic.replay, h]

/-- The record of a cycle stands as it has been worked through. -/
theorem replay_cycleOf (b : IcBase) (n : Nat) (es : List IcEv) (c : Ic) : cycleOf (c.replay b n es) = (n, es, b, c.slpResult) :=
  foldl_cycleOf run_cycleOf es _

/-- Two events of one cycle act in the order of R424, from what stood before the cycle. -/
theorem cycle_cycle {c : Ic} {n m : Nat} {e f : IcEv} (same : cycle750 n = cycle750 m) (first : cycle750 c.evAt ≠ cycle750 n ∨ c.evs = []) :
    (c.cycle n e).cycle m f = c.replay c.snap m (if e.rank ≤ f.rank then [e, f] else [f, e]) := by
  have begins : c.cycle n e = c.replay c.snap n [e] := by
    unfold Ic.cycle
    rw [if_neg]
    rintro ⟨cyc, evs⟩
    exact first.elim (absurd cyc) evs
  obtain ⟨evAt, evs, base, slp⟩ : (c.replay c.snap n [e]).evAt = n ∧ (c.replay c.snap n [e]).evs = [e] ∧ (c.replay c.snap n [e]).base = c.snap ∧
      (c.replay c.snap n [e]).slpResult = c.slpResult := by
    simpa [cycleOf] using replay_cycleOf c.snap n [e] c
  rw [begins, Ic.cycle, if_pos (by simp [evAt, evs, same]), base, evs, replay_congr slp]
  by_cases order : e.rank ≤ f.rank
  · simp [order, Nat.not_lt.mpr order]
  · simp [order, Nat.not_le.mp order]

/-- The first event of a controller cycle that is no input acts on what stood before it, whether or not the device goes to sleep. -/
theorem icDo_first_of_register {t : Nat} {d : Dev} {e : IcEv} (h : newCycle t d) (hr : ∀ n v, e ≠ .input n v) :
    icDo e (d.at_ t) = (freshCycle t e d).uIc fun c => c.run e := by
  rw [icDo_first e h]
  cases e with
  | input n v => exact absurd rfl (hr n v)
  | _ => rfl

/-- A claim acts on what stood before its cycle, and what an earlier read returned stands. -/
theorem icClaim_first {t e : Nat} {d : Dev} (h : newCycle t d) :
    icClaim e (d.at_ t) = (freshCycle t (.claim e) (claimStands e d)).uIc fun c => c.claim e := by
  have stands : icClaim e (d.at_ t) = icDo (.claim e) ((claimStands e d).at_ t) := by
    unfold icClaim claimStands
    by_cases again : d.hs.claimRead = some e
    · rw [if_pos (show (d.at_ t).hs.claimRead = some e from again), if_pos again]
      rfl
    · rw [if_neg (show ¬ (d.at_ t).hs.claimRead = some e from again), if_neg again]
  have first : newCycle t (claimStands e d) := by
    unfold claimStands
    split <;> exact h
  rw [stands, icDo_first_of_register first (by simp)]
  rfl

/-- The controller that a claim reads, as its cycle begins. -/
theorem freshCycle_ic (t : Nat) (e : IcEv) (d : Dev) : (freshCycle t e d).ic = { d.ic with evAt := max d.now t, evs := [e], base := d.ic.snap } := rfl

/-- What the earlier read returned does not change the controller. -/
@[simp] theorem claimStands_ic (e : Nat) (d : Dev) : (claimStands e d).ic = d.ic := by
  unfold claimStands
  split <;> rfl

/-- A claim with an offered source makes it active for the target. -/
theorem claim_of_best {t n : Nat} {c : Ic} (h : ({ c with cfg := c.base.cfg } : Ic).best t = some n) :
    c.claim t = { c.setSrc n { c.src n with active := true, claimant := t, arrivals := 0, pending := false } with
      lastClaim := put c.lastClaim t (n + 65536 * (c.src n).arrivals) } := by
  simp only [Ic.claim, h]

/-- A claim with no offered source returns 1023 or 0. -/
theorem claim_of_none {t : Nat} {c : Ic} (h : ({ c with cfg := c.base.cfg } : Ic).best t = none) :
    c.claim t = { c with lastClaim := put c.lastClaim t (if bit c.base.out t then 1023 else 0) } := by
  simp only [Ic.claim, h]

/-- IC_COMPLETE of the target's own active claim releases it. -/
theorem complete_of_active {t n : Nat} {c : Ic} (h : 1 ≤ n ∧ n < 512 ∧ (c.src n).active = true ∧ (c.src n).claimant = t) :
    c.complete t n = c.setSrc n ((c.src n).release (c.sense n)) := by
  obtain ⟨low, high, active, own⟩ := h
  simp [Ic.complete, low, high, active, own]

/-- Any other IC_COMPLETE counts. -/
theorem complete_of_not_active {t n : Nat} {c : Ic} (h : ¬(1 ≤ n ∧ n < 512 ∧ (c.src n).active = true ∧ (c.src n).claimant = t)) :
    c.complete t n = { c with badComplete := sat16 c.badComplete } := by
  unfold Ic.complete
  rw [if_neg (by simpa [and_assoc] using h)]

/-- Settles O8: claim and completion act as the first event of their cycle, and two events of a cycle in the order of R424. -/
theorem interruptClaimComplete : Obligations.InterruptClaimComplete := by
  unfold Obligations.InterruptClaimComplete
  refine ⟨fun s e t n hr best first => ?_, fun s e t hr best first => ?_, fun s e n t hr own first => ?_, fun s e n t hr other first => ?_,
    fun c n m e f ⟨same, first⟩ => cycle_cycle same first⟩
  · refine (event_endpoint t (icClaim e.val) hr).trans ?_
    have claims := claim_of_best (c := (freshCycle t (.claim e.val) (claimStands e.val s.dev)).ic) (t := e.val) (n := n)
      (by rw [freshCycle_ic, claimStands_ic]; exact best)
    rw [icClaim_first first, Dev.uIc, claims]
    rfl
  · refine (event_endpoint t (icClaim e.val) hr).trans ?_
    have claims := claim_of_none (c := (freshCycle t (.claim e.val) (claimStands e.val s.dev)).ic) (t := e.val)
      (by rw [freshCycle_ic, claimStands_ic]; exact best)
    have asserted : (freshCycle t (.claim e.val) (claimStands e.val s.dev)).ic.base.out = s.dev.ic.outputs := by
      rw [freshCycle_ic, claimStands_ic]
      rfl
    rw [icClaim_first first, Dev.uIc, claims, asserted]
    rfl
  · refine (event_endpoint t (icComplete e.val n.val) hr).trans ?_
    rw [icComplete, icDo_first_of_register first (by simp), Dev.uIc,
      show Ic.run (freshCycle t (.complete e.val n.val) s.dev).ic (.complete e.val n.val) = _ from complete_of_active own]
    rfl
  · refine (event_endpoint t (icComplete e.val n.val) hr).trans ?_
    rw [icComplete, icDo_first_of_register first (by simp), Dev.uIc,
      show Ic.run (freshCycle t (.complete e.val n.val) s.dev).ic (.complete e.val n.val) = _ from complete_of_not_active other]
    rfl

/-! Configuration words of a table that no write leaves (O9). -/

/-- A controller whose table of IC_CFG words lists source 3 twice: the first entry says SENSE 0, the second SENSE 1. One arrival of source 3 is counted. -/
def doubledCfg : State := { dev := { pwr := { mode := .ready }, ic := { cfg := [(3, 0), (3, 0x100)], st := [(3, { arrivals := 1 })] } } }

/-- Refutes O9: the statement does not ask for a table of IC_CFG words in canonical form. A write of 0, the SENSE that source 3 reads as, takes the
first of its two entries away, the second gives another SENSE, and the change of SENSE clears ARRIVALS (R417). -/
theorem not_interruptConfigurationAndInputs : ¬ Obligations.InterruptConfigurationAndInputs := by
  unfold Obligations.InterruptConfigurationAndInputs
  rintro ⟨writes, -⟩
  have runs : endpointRuns 4 doubledCfg.dev = true := by decide +kernel
  have claimed := writes doubledCfg 4 3 0 0 runs (by decide +kernel) (by decide +kernel)
  have happens := event_endpoint (s := doubledCfg) 0 (icCfgWrite 4 3 0) runs
  have counts : (icCfgWrite 4 3 0 (doubledCfg.dev.at_ 0)).ic.src 3 = {} := by decide +kernel
  have stated := congrArg (fun d : Dev => d.ic.src 3) (next_dev (happens.symm.trans claimed))
  exact absurd (stated.trans counts) (by decide +kernel)

end Sys2Proof.Proofs
end

section
/-! SUPPORT. Taproot and sleep (O10): an input's edge, and what the commit point and a wake leave. -/

namespace Sys2Proof.Proofs

open Sys2Proof Sys2Proof.Machine Sys2Proof.Laws

/-! What a wake from a retention sleep leaves of the power manager. -/

theorem ite_pwr (c : Prop) [Decidable c] (d e : Dev) : (if c then d else e).pwr = if c then d.pwr else e.pwr := apply_ite _ c d e

@[simp] theorem raise_pwr (n : Nat) (d : Dev) : (raise n d).pwr = d.pwr := raise_keeps (·.pwr) (fun _ _ _ => rfl) n d

@[simp] theorem tdiHold_pwr (d : Dev) : (tdiHold d).pwr = d.pwr := by simp [tdiHold, ite_pwr]

@[simp] theorem restartIdle_pwr (d : Dev) : (restartIdle d).pwr = d.pwr := rfl

@[simp] theorem postEvent_pwr (a b c e : Nat) (l : Option Nat) (x : List Nat) (d : Dev) : (postEvent a b c e l x d).pwr = d.pwr := rfl

@[simp] theorem refreshPins_pwr (d : Dev) : (refreshPins d).pwr = d.pwr := rfl

@[simp] theorem updAxis_pwr (n : Nat) (f : Axis → Axis) (d : Dev) : (updAxis n f d).pwr = d.pwr := rfl

@[simp] theorem setObj_pwr (id : Nat) (ws : List Word) (d : Dev) : (setObj id ws d).pwr = d.pwr := by
  simp [setObj]

@[simp] theorem setCtl_pwr (id : Nat) (ws : List Word) (d : Dev) : (setCtl id ws d).pwr = d.pwr := by simp [setCtl, ite_pwr]

@[simp] theorem tablesEnded_pwr (d : Dev) : (tablesEnded d).pwr = d.pwr := by
  have due (d : Dev) : (applyDueCtl d).pwr = d.pwr := each_keeps (·.pwr) _ (fun w d => setCtl_pwr _ _ d) _ _
  simp [tablesEnded, outputsIdle, outputsSafe, ite_pwr, due]

@[simp] theorem refreshBridges_pwr (d : Dev) : (refreshBridges d).pwr = d.pwr := by
  refine each_keeps (·.pwr) _ (fun n d => ?_) [0, 1] d
  simp only
  (repeat' split) <;> simp [bridgeOff]

/-- A change from SLEEP to READY leaves the power manager's other state. -/
theorem setMode_ready_pwr {d : Dev} (h : d.pwr.mode = .sleep) : (setMode .ready d).pwr = { d.pwr with mode := .ready, prevMode := .sleep } := by
  simp [setMode, h]

/-! Wakes. -/

/-- A wake source after the commit point of a retention sleep takes the device to READY (R433). -/
theorem sleepWake_retention {d : Dev} (hm : d.pwr.mode = .sleep) (hp : d.tap.phase = .committed) (hk : d.ic.slpKind = false)
    (hw : wakePending d = true) (hr : d.pwr.linkResetDue = false) :
    (sleepWake d).pwr.mode = .ready ∧ (sleepWake d).hostMem = d.hostMem := by
  have stays : ((refreshPins (refreshBridges (tablesEnded ((setMode .ready (d.uTap fun t => { t with armed := false, phase := .awake })).uSkn
      fun s => { s with selfRefresh := false })))).pwr.linkResetDue) = false := by
    simp [setMode_ready_pwr (d := d.uTap _) hm, hr]
  unfold sleepWake
  rw [if_neg (by simp [hm, hp]), if_neg (by simp [hk]), if_pos hw]
  simp only [stays, Bool.false_eq_true, if_false]
  simp

/-- An event latched in Taproot-only SLEEP takes the device to BOOT (R433). -/
theorem sleepWake_tapOnly {d : Dev} (hm : d.pwr.mode = .sleep) (hp : d.tap.phase = .committed) (hk : d.ic.slpKind = true)
    (he : d.tap.event &&& d.tap.watch ≠ 0) :
    (sleepWake d).pwr.mode = .boot ∧ (sleepWake d).hostMem = d.hostMem := by
  unfold sleepWake
  rw [if_neg (by simp [hm, hp]), if_pos hk, if_neg he]
  simp [sleepWake.beginWake]

/-! The commit point. -/

/-- Powering off all but Taproot and the always-on parts keeps the mode. -/
@[simp] theorem tapOnlyOff_mode (d : Dev) : (tapOnlyOff d).pwr.mode = d.pwr.mode := rfl

/-- A save that ends with no wake source pending takes the device to SLEEP (R431). -/
theorem sleepCommit_sleeps {d : Dev} (hm : d.pwr.mode = .ready) (hp : d.tap.phase = .saving) (hw : wakePending d = false) :
    (sleepCommit d).pwr.mode = .sleep ∧ (sleepCommit d).hostMem = d.hostMem := by
  unfold sleepCommit
  rw [if_neg (by simp [hm, hp]), if_neg (by simp [hw])]
  extract_lets w d1 d2 d3
  split <;> simp [d3, d2, d1]

@[simp] theorem finish_ic (w : Who) (status detail : Nat) (res : List Word) (d : Dev) : (finish w status detail res d).ic = d.ic := by
  unfold finish
  (repeat' split) <;> rfl

@[simp] theorem finish_tap (w : Who) (status detail : Nat) (res : List Word) (d : Dev) : (finish w status detail res d).tap = d.tap := by
  unfold finish
  (repeat' split) <;> rfl

@[simp] theorem finish?_ic (w : Option Who) (status detail : Nat) (res : List Word) (d : Dev) : (finish? w status detail res d).ic = d.ic := by
  cases w <;> simp [finish?]

@[simp] theorem finish?_tap (w : Option Who) (status detail : Nat) (res : List Word) (d : Dev) : (finish? w status detail res d).tap = d.tap := by
  cases w <;> simp [finish?]

/-- A save that ends with a wake source pending leaves the device in READY, awake (R432). -/
theorem sleepCommit_aborted {d : Dev} (hm : d.pwr.mode = .ready) (hp : d.tap.phase = .saving) (hw : wakePending d = true) :
    sleepCommit d = sleepAborted d := by
  unfold sleepCommit
  rw [if_neg (by simp [hm, hp]), if_pos hw]

/-- A sleep that is abandoned reads 2 in SLP_RESULT, and Taproot is not armed any more. -/
theorem sleepAborted_leaves (d : Dev) : (sleepAborted d).ic.slpResult = 2 ∧ (sleepAborted d).tap.phase = .awake ∧ (sleepAborted d).tap.armed = false := by
  simp [sleepAborted]

/-! Taproot's inputs. -/

/-- While the controller is on, an input that fires nothing moves its source only. -/
theorem taprootInput_unarmed {i t : Nat} {v : Bool} {d : Dev} (hi : i ≠ 0) (ha : d.tap.armed = false) (ho : tapOnly d = false)
    (hm : d.pwr.mode ≠ .reset) (hp : d.tap.phase = .awake) (first : newCycle t d) :
    taprootInput i v (d.at_ t) = (freshCycle t (.input i v) (d.uTap fun x => { x with input := setBit x.input i v })).uIc fun c => c.setInput i v := by
  have moves : icDo (.input i v) ((d.uTap fun x => { x with input := setBit x.input i v }).at_ t) =
      (freshCycle t (.input i v) (d.uTap fun x => { x with input := setBit x.input i v })).uIc fun c => c.setInput i v := icDo_fresh _ first hp
  have powered : ¬ (i = 0 ∨ tapOnly ((d.at_ t).uTap fun x => { x with input := setBit x.input i v }) = true ∨
      ((d.at_ t).uTap fun x => { x with input := setBit x.input i v }).pwr.mode = .reset) := by
    simp [hi, hm, tapOnly] at ho ⊢
    exact ho
  unfold taprootInput
  extract_lets old sense d1 d2
  have acts : d2 = (freshCycle t (.input i v) (d.uTap fun x => { x with input := setBit x.input i v })).uIc fun c => c.setInput i v := by
    exact (if_neg powered).trans moves
  have unarmed : tapFire i d2 = d2 := by
    rw [acts]
    unfold tapFire
    rw [if_neg]
    simp [freshCycle, ha]
  rw [unarmed, ite_self, acts]

/-- With the controller off and Taproot armed, an edge of a watched input that has not fired sets its EVENT bit (R430). -/
theorem taprootInput_fires {i : Nat} {d : Dev} (hi : i ≠ 0) (ho : tapOnly d = true) (ha : d.tap.armed = true) (hw : bit d.tap.watch i = true)
    (he : bit d.tap.event i = false) (hl : bit d.tap.input i = false) (hs : tapSense i d = 1) :
    taprootInput i true d = d.uTap fun x =>
      { x with
        input := setBit x.input i true, event := setBit x.event i true, fired := true
        first := if x.fired then x.first else i
        firstTime := if x.fired then x.firstTime else d.ns } := by
  have off : tapOnly (d.uTap fun x => { x with input := setBit x.input i true }) = true := ho
  simp only [taprootInput, if_neg hi, hs, hl, icArrives, off, true_or, or_true, if_true, Bool.not_false, Bool.and_self]
  simp [tapFire, ha, hw, he]
  rfl

/-- Settles O10: each row acts at its instant through the lemma of its case. -/
theorem taprootAndSleep : Obligations.TaprootAndSleep := by
  unfold Obligations.TaprootAndSleep
  refine ⟨fun s i t hp ho ⟨hi, hlast, ha, hw, he, hl, hs⟩ => ?_, fun s i v t hp hm ⟨hi, hlast, ho, ha⟩ first => ?_, fun s i v t ⟨hp, hm, hi⟩ => ?_,
    fun s v t hr => event_endpoint t _ hr, fun s t hp hm ht => ?_, fun s t ⟨hm, hp, hw⟩ => ?_, fun s t ⟨hm, hp, hw⟩ => ?_,
    fun s t ⟨hm, hp, hk, hw, hr⟩ => ?_, fun s t ⟨hm, hp, hk, he⟩ => ?_⟩
  case refine_1 =>
    have awake : s.dev.pwr.mode ≠ .reset := by
      intro e
      simp [tapOnly, e] at ho
    have row : tapInput i.val true (s.dev.at_ t) = taprootInput i.val true (s.dev.at_ t) := by
      rw [tapInput, if_neg hi, if_neg (Nat.not_le.mpr hlast)]
    refine (event_always t _ awake).trans ?_
    rw [sleepTest_of_not_saving (by rw [row, taprootInput_phase]; exact hp), row, taprootInput_fires (d := s.dev.at_ t) hi ho ha hw he hl hs]
  case refine_2 =>
    have row : tapInput i.val v (s.dev.at_ t) = taprootInput i.val v (s.dev.at_ t) := by
      rw [tapInput, if_neg hi, if_neg (Nat.not_le.mpr hlast)]
    refine (event_always t _ hm).trans ?_
    rw [sleepTest_of_not_saving (by rw [row, taprootInput_phase]; simp [hp]), row, taprootInput_unarmed hi ha ho hm hp first]
  case refine_3 =>
    have row : tapInput i.val v (s.dev.at_ t) = s.dev.at_ t := by
      rw [tapInput, if_neg (by omega), if_pos hi]
    refine (event_always t _ hm).trans ?_
    rw [sleepTest_of_not_saving (by rw [row]; exact hp), row]
  case refine_4 =>
    have pulses : tapTimerExpiry (s.dev.at_ t) = tapPulse 22 ((s.dev.at_ t).uTap fun x => { x with timer := 0 }) := by
      rw [tapTimerExpiry, if_neg (show ¬ (s.dev.at_ t).tap.timer = 0 from ht)]
    refine (event_always t _ hm).trans ?_
    rw [sleepTest_of_not_saving (by rw [pulses, tapPulse_phase]; exact hp), pulses]
    rfl
  case refine_5 =>
    obtain ⟨mode, mem⟩ := sleepCommit_sleeps (d := s.dev.at_ t) hm hp hw
    exact ⟨_, event_always t _ (by simp [hm]), mode, mem⟩
  case refine_6 =>
    obtain ⟨slp, phase, armed⟩ := sleepAborted_leaves (s.dev.at_ t)
    obtain ⟨mem, mode, -⟩ := sleepAborted_frame (s.dev.at_ t)
    have aborted := sleepCommit_aborted (d := s.dev.at_ t) hm hp hw
    exact ⟨sleepAborted (s.dev.at_ t), (event_always t _ (by simp [hm])).trans (by rw [aborted]), mode.trans hm, slp, phase, armed, mem⟩
  case refine_7 =>
    obtain ⟨mode, mem⟩ := sleepWake_retention (d := s.dev.at_ t) hm hp hk hw hr
    exact ⟨_, event_always t _ (by simp [hm]), mode, mem⟩
  case refine_8 =>
    obtain ⟨mode, mem⟩ := sleepWake_tapOnly (d := s.dev.at_ t) hm hp hk he
    exact ⟨_, event_always t _ (by simp [hm]), mode, mem⟩

end Sys2Proof.Proofs
end

section
/-! SUPPORT. Security (O28, O30): images, keys and debug. -/

namespace Sys2Proof.Proofs

open Sys2Proof Sys2Proof.Machine Sys2Proof.Laws

/-- A command none of whose checks fails runs. -/
theorem checked_of_pass {t : Taken} {l : List (Bool × Nat × Nat)} {body : Dev → Dev} {d : Dev} (h : firstFail l = none) :
    checked t l body d = body d := by
  rw [checked, h]

/-- A command whose first failing check gives a status and a detail is rejected with them. -/
theorem checked_of_fail {t : Taken} {l : List (Bool × Nat × Nat)} {body : Dev → Dev} {d : Dev} {st x : Nat} (h : firstFail l = some (st, x)) :
    checked t l body d = finish t.who st x [] d := by
  rw [checked, h]
  rfl

/-! IMAGE_LOAD (R494). -/

/-- What an IMAGE_LOAD meets before its image is judged: its form, the state of the firmware store, and its header. -/
abbrev imageFormRight (c : MnrCmd) (t : Taken) (d : Dev) : Prop :=
  t.arg < 6 ∧ bufBad t = false ∧ d.sec.load = none ∧ d.sec.act = none ∧ c.hostOk = true ∧ Img.ok c.buf = true ∧ t.w 2 = 512 + Img.bodyLen c.buf

/-- An IMAGE_LOAD of a valid image empties the slot that it writes, and its tag stays outstanding. -/
theorem imageLoad_valid {c : MnrCmd} {sig : Bool} {s : State} {t : Taken} (hs : Starts Op.IMAGE_LOAD c s.dev t)
    (hf : imageFormRight c t (begun Op.IMAGE_LOAD c s.dev)) (hv : imageValid t.arg c.buf sig (begun Op.IMAGE_LOAD c s.dev) = true) :
    exec (.imageLoad c sig) s = .next { s with
      dev := defer t.who 0 ((putSlot' t.arg (loadSlot t.arg (begun Op.IMAGE_LOAD c s.dev)) {} (begun Op.IMAGE_LOAD c s.dev)).uSec fun x =>
        { x with load := some { target := t.arg, slot := loadSlot t.arg (begun Op.IMAGE_LOAD c s.dev), version := Img.version c.buf
                                svn := Img.svn c.buf, cust := Img.cust c.buf, who := some t.who } }) } := by
  obtain ⟨harg, hbuf, hload, hact, hok, himg, hlen⟩ := hf
  refine (act_command _ hs).trans ?_
  clear hs
  generalize begun Op.IMAGE_LOAD c s.dev = d at *
  have target : t.arg % 16 = t.arg := Nat.mod_eq_of_lt (harg.trans (by decide))
  simp [firstFail, target, Nat.not_le.mpr harg, hbuf, hload, hact, hok, himg, hlen, hv]

/-- An IMAGE_LOAD of an image that is not valid is denied. -/
theorem imageLoad_denied {c : MnrCmd} {sig : Bool} {s : State} {t : Taken} (hs : Starts Op.IMAGE_LOAD c s.dev t)
    (hf : imageFormRight c t (begun Op.IMAGE_LOAD c s.dev)) (hv : imageValid t.arg c.buf sig (begun Op.IMAGE_LOAD c s.dev) = false) :
    exec (.imageLoad c sig) s = .next { s with dev := finish t.who St.DENIED 0 [] (raise 481 (begun Op.IMAGE_LOAD c s.dev)) } := by
  obtain ⟨harg, hbuf, hload, hact, hok, himg, hlen⟩ := hf
  refine (act_command _ hs).trans ?_
  clear hs
  generalize begun Op.IMAGE_LOAD c s.dev = d at *
  have target : t.arg % 16 = t.arg := Nat.mod_eq_of_lt (harg.trans (by decide))
  simp [firstFail, target, Nat.not_le.mpr harg, hbuf, hload, hact, hok, himg, hlen, hv, reject]

/-- The end of a load with its verdict: the slot holds the image, or the command ends with the status. -/
theorem loadEnds_of_load {l : ImgLoad} {d : Dev} (h : d.sec.load = some l) :
    loadEnds St.OK d = finish? l.who St.OK 0 [] (raise 480 (putSlot' l.target l.slot { valid := true, version := l.version, svn := l.svn, cust := l.cust }
      (d.uSec fun x => { x with load := none }))) ∧
    loadEnds St.HW_FAULT d = finish? l.who St.HW_FAULT 0 [] (d.uSec fun x => { x with load := none }) := by
  unfold loadEnds
  rw [h]
  exact ⟨rfl, rfl⟩

/-- Settles O28: the checks of IMAGE_LOAD in their order, and the two ends of a load. -/
theorem imageLoading : Obligations.ImageLoading := by
  unfold Obligations.ImageLoading
  refine ⟨fun s c sig t hs ⟨ha, hb, hl, hx, hk, hi, hn, hv⟩ => imageLoad_valid hs ⟨ha, hb, hl, hx, hk, hi, hn⟩ hv,
    fun s c sig t hs ⟨ha, hb, hl, hx, hk, hi, hn, hv⟩ => imageLoad_denied hs ⟨ha, hb, hl, hx, hk, hi, hn⟩ hv, fun s l t ⟨hon, hl⟩ => ?_⟩
  obtain ⟨good, bad⟩ := loadEnds_of_load (d := s.dev.at_ t) hl
  exact ⟨(event_on t (imageLoadDone true) hon).trans (by rw [imageLoadDone, if_pos rfl, good]),
    (event_on t (imageLoadDone false) hon).trans (by rw [imageLoadDone, if_neg (by simp), bad])⟩

/-! Keys (R490). -/

/-- A KEY_PROVISION in its right form, on a device without customer keys, waits for its fuses. -/
theorem keyProvision_waits {c : MnrCmd} {s : State} {t : Taken} (hs : Starts Op.KEY_PROVISION c s.dev t) (harg : t.arg = 0) (hbuf : bufBad t = false)
    (hlen : t.w 2 = 96) (hprov : (begun Op.KEY_PROVISION c s.dev).sec.custProv = false) (hidle : (begun Op.KEY_PROVISION c s.dev).sec.keyProv = none)
    (hok : c.hostOk = true) (hres : (natOfWords c.buf >>> 640) % 2 ^ 128 < 2) :
    exec (.keyProvision c) s = .next { s with
      dev := defer t.who 0 ((begun Op.KEY_PROVISION c s.dev).uSec fun x =>
        { x with keyProv := some { hash := natOfWords c.buf % 2 ^ 384, aes := (natOfWords c.buf >>> 384) % 2 ^ 256
                                   permLock := bit (natOfWords c.buf) 640, who := some t.who } }) } := by
  refine (act_command _ hs).trans ?_
  clear hs
  generalize begun Op.KEY_PROVISION c s.dev = d at *
  generalize natOfWords c.buf = w at *
  dsimp only
  rw [checked_of_pass (by simpa [firstFail, harg, hbuf, hlen, hprov, hidle, hok] using Nat.le_of_lt_succ hres)]

/-- The fuses of a KEY_PROVISION are programmed. -/
theorem keyProvisionDone_of_waiting {k : KeyProv} {d : Dev} (h : d.sec.keyProv = some k) :
    keyProvisionDone d = finish? k.who St.OK 0 [] (raise 487 (d.uSec fun x => { x with
      keyProv := none, custProv := true, permLock := x.permLock || k.permLock, custHash := x.custHash ||| k.hash, custAes := x.custAes ||| k.aes })) := by
  simp only [keyProvisionDone, h]

/-! Debug (R498). -/

/-- A request to attach waits in BOOT, and yields a nonce in the later modes. -/
theorem debugAttach_sec {d : Dev} (hm : d.pwr.mode ≠ .reset) :
    (if d.pwr.mode = .boot then (debugAttach d).sec.attachWait = true else (debugAttach d).sec.nonce ≠ none ∧ (debugAttach d).sec.attachWait = false) ∧
      (debugAttach d).sec.dbgOpen = d.sec.dbgOpen := by
  have pulsed : (tapPulse 24 d).pwr.mode = d.pwr.mode := by simp
  unfold debugAttach
  rw [if_neg hm]
  simp only [pulsed]
  by_cases boot : d.pwr.mode = .boot
  · simp [boot]
  · simp [boot, issueNonce]

/-- A response to a nonce opens its scope, or opens nothing. -/
theorem debugResponse_of_nonce {scope : Fin 2} {sig : Bool} {n : Nat} {d : Dev} (h : d.sec.nonce = some n) :
    debugResponse scope.val sig d =
      if sig = true ∧ d.sec.permLock = false ∧ (scope = 1 ∨ d.sec.custProv = true) then
        raise 485 (d.uSec fun x => { x with nonce := none, dbgOpen := setBit x.dbgOpen scope.val true })
      else raise 486 (d.uSec fun x => { x with nonce := none }) := by
  have verdict : (sig && !d.sec.permLock && (scope.val == 1 || (scope.val == 0 && d.sec.custProv))) = true ↔
      sig = true ∧ d.sec.permLock = false ∧ (scope = 1 ∨ d.sec.custProv = true) := by
    match scope with
    | 0 => simp [and_assoc]
    | 1 => simp
  simp only [debugResponse, h, verdict]

/-- Settles O30: KEY_PROVISION and its end, and the rows of debug and boundary scan, each by the lemma of its function. -/
theorem keysAndDebug : Obligations.KeysAndDebug := by
  unfold Obligations.KeysAndDebug
  refine ⟨fun s c t hs ⟨ha, hb, hl, hp, hi, hk, hr⟩ => keyProvision_waits hs ha hb hl hp hi hk hr, fun s k t ⟨hon, hk⟩ => ?_, fun s t hm => ?_,
    fun s scope sig n t ⟨hon, hn⟩ => ?_, fun s ir drives t hm => event_always t _ hm⟩
  · exact (event_on t keyProvisionDone hon).trans (by rw [keyProvisionDone_of_waiting (d := s.dev.at_ t) hk])
  · obtain ⟨answers, kept⟩ := debugAttach_sec (d := s.dev.at_ t) hm
    have tested : (sleepTest debugAttach (s.dev.at_ t)).sec = (debugAttach (s.dev.at_ t)).sec := by simp [sleepTest]
    have mode : (debugAttach (s.dev.at_ t)).pwr.mode = s.dev.pwr.mode := by simp
    exact ⟨_, event_always t _ hm, by rw [tested]; exact answers, by rw [tested]; exact kept, (sleepTest_modeOf _ _).trans mode⟩
  · exact (event_on t (debugResponse scope.val sig) hon).trans (by rw [debugResponse_of_nonce (d := s.dev.at_ t) hn]; rfl)

end Sys2Proof.Proofs
end

section
/-! SUPPORT. Commands on lamps (O54): CAL_LAMP, LAMP_FORCE, LAMP_SPARE and the expansion chain. -/

namespace Sys2Proof.Proofs

open Sys2Proof Sys2Proof.Machine Sys2Proof.Laws

/-! CAL_LAMP (R380). -/

/-- The strings of a mask are of the eight. -/
theorem maskIx_lt {m n x : Nat} (h : x ∈ maskIx m n) : x < n := List.mem_range.mp (List.mem_of_mem_filter h)

/-- Where every lamp that was read reads good, the check fails none. -/
theorem lampCheck_of_good {d : Dev} {mask : Nat} {mv : List Nat}
    (h : ((List.range 8).all fun x => (List.range 16).all fun l => (mv[16 * x + l]?).all fun v => !badReading x l v d) = true) :
    lampCheck mask mv d = (0, raise 407 (d.uIlm fun i =>
      { i with lampCheckDue := false, diagPulses := wrap16 (i.diagPulses + ((maskIx mask 8).filter fun x => strEn x d).length) })) := by
  unfold lampCheck
  extract_lets ss bad d1 d2
  have none_bad : bad = [] := by
    refine List.flatMap_eq_nil_iff.mpr fun s hs => List.map_eq_nil_iff.mpr (List.filter_eq_nil_iff.mpr fun l hl => ?_)
    have good := List.all_eq_true.mp (List.all_eq_true.mp h s (List.mem_range.mpr (maskIx_lt (List.mem_of_mem_filter hs)))) l hl
    cases reading : mv[16 * s + l]? with
    | none => simp
    | some v =>
      simp only [reading, Option.all_some, Bool.not_eq_true'] at good
      simp [good]
  simp only [d2, d1, none_bad]
  rfl

/-- CAL_LAMP of named strings of which none is forced tests their lamps. -/
theorem calLamp_runs {c : MnrCmd} {mv : List Nat} {s : State} {t : Taken} {n : Nat} {e : Dev} (hs : Starts Op.CAL_LAMP c s.dev t) (hlow : 0 < t.arg)
    (hhigh : t.arg < 256) (hidle : ((maskIx t.arg 8).any fun x => isForced x (begun Op.CAL_LAMP c s.dev)) = false)
    (hcheck : lampCheck t.arg mv (begun Op.CAL_LAMP c s.dev) = (n, e)) :
    exec (.calLamp c mv) s = .next { s with
      dev := finish t.who (if ((maskIx t.arg 8).any fun x => exhausted x e) = true then St.SPARES_EXHAUSTED else St.OK) n [] e } := by
  refine (act_command _ hs).trans ?_
  rw [checked_of_pass (by simp [firstFail, hlow.ne', Nat.not_le.mpr hhigh, hidle])]
  simp only [hcheck]

/-- CAL_LAMP that names no string, or more than the eight, or a forced one. -/
theorem calLamp_rejected {c : MnrCmd} {mv : List Nat} {s : State} {t : Taken} (hs : Starts Op.CAL_LAMP c s.dev t)
    (hbad : t.arg = 0 ∨ 256 ≤ t.arg ∨ ((maskIx t.arg 8).any fun x => isForced x (begun Op.CAL_LAMP c s.dev)) = true) :
    exec (.calLamp c mv) s = .next { s with
      dev := finish t.who (if t.arg = 0 ∨ 256 ≤ t.arg then St.BAD_FIELD else St.BUSY) 0 [] (begun Op.CAL_LAMP c s.dev) } := by
  refine (act_command _ hs).trans ?_
  by_cases mask : t.arg = 0 ∨ 256 ≤ t.arg
  · rw [if_pos mask, checked_of_fail (st := St.BAD_FIELD) (x := 0) (by simp only [firstFail, Bool.or_eq_true, decide_eq_true_eq, if_pos mask])]
  · have forced := (or_assoc.mpr hbad).resolve_left mask
    rw [if_neg mask, checked_of_fail (st := St.BUSY) (x := 0) (by simp only [firstFail, Bool.or_eq_true, decide_eq_true_eq, if_neg mask, forced, if_true])]

/-! LAMP_FORCE (R381). -/

/-- What a LAMP_FORCE of a string x that is on meets: LEN 3, and a current and a duration within their limits. -/
abbrev forceRight (t : Taken) (d : Dev) : Prop :=
  0 < t.w 0 ∧ t.w 0 ≤ (strAt (t.arg % 8) d).iLim ∧ t.w 1 < 65536 ∧ 0 < t.w 2 ∧ t.w 2 ≤ 1000000

/-- LAMP_FORCE with ON = 1 lights the named lamps. -/
theorem lampForce_on {c : MnrCmd} {s : State} {t : Taken} (hs : Starts Op.LAMP_FORCE c s.dev t) (harg : t.arg < 16) (hon : bit t.arg 3 = true)
    (hlen : t.len = 3) (hf : forceRight t (begun Op.LAMP_FORCE c s.dev)) :
    exec (.lampForce c) s = .next { s with
      dev := finish t.who St.OK 0 [] (refreshGate (t.arg % 8) (begun Op.LAMP_FORCE c s.dev).now (updStr (t.arg % 8) (fun y =>
        { y with lit := .forced (t.w 1) (t.w 0) (t.w 2), since := (begun Op.LAMP_FORCE c s.dev).now, readMask := 0, struck := [] })
        (begun Op.LAMP_FORCE c s.dev))) } := by
  refine (act_command _ hs).trans ?_
  obtain ⟨low, limit, lamps, long, short⟩ := hf
  rw [checked_of_pass (by
    simp [firstFail, hon, hlen, Nat.not_le.mpr harg, low.ne', Nat.not_lt.mpr limit, Nat.not_le.mpr lamps, long.ne', Nat.not_lt.mpr short])]
  simp only [hon, if_true]

/-- LAMP_FORCE with ON = 0 turns its string off. -/
theorem lampForce_off {c : MnrCmd} {s : State} {t : Taken} (hs : Starts Op.LAMP_FORCE c s.dev t) (harg : t.arg < 8) (hlen : t.len = 0) :
    exec (.lampForce c) s = .next { s with dev := finish t.who St.OK 0 [] (forceOff t.arg (begun Op.LAMP_FORCE c s.dev)) } := by
  refine (act_command _ hs).trans ?_
  have off : bit t.arg 3 = false := Nat.testBit_lt_two_pow harg
  rw [checked_of_pass (by simp [firstFail, off, hlen, Nat.not_le.mpr (harg.trans (by decide : 8 < 16))])]
  simp only [off, Bool.false_eq_true, if_false, Nat.mod_eq_of_lt harg]

/-- LAMP_FORCE with a wrong ARG, LEN, current, lamps or duration. -/
theorem lampForce_rejected {c : MnrCmd} {s : State} {t : Taken} (hs : Starts Op.LAMP_FORCE c s.dev t)
    (hbad : 16 ≤ t.arg ∨ (bit t.arg 3 = true ∧ t.len ≠ 3) ∨ (bit t.arg 3 = false ∧ t.len ≠ 0) ∨
      (bit t.arg 3 = true ∧ (t.w 0 = 0 ∨ (strAt (t.arg % 8) (begun Op.LAMP_FORCE c s.dev)).iLim < t.w 0 ∨ 65536 ≤ t.w 1 ∨ t.w 2 = 0 ∨ 1000000 < t.w 2))) :
    exec (.lampForce c) s = .next { s with dev := finish t.who St.BAD_FIELD 0 [] (begun Op.LAMP_FORCE c s.dev) } := by
  refine (act_command _ hs).trans ?_
  rw [checked_of_fail (st := St.BAD_FIELD) (x := 0)]
  simp only [firstFail, Bool.and_eq_true, Bool.or_eq_true, Bool.not_eq_true', bne_iff_ne, decide_eq_true_eq]
  grind

/-! LAMP_SPARE (R382). -/

/-- LAMP_SPARE of a lamp that is no failed one. -/
theorem lampSpare_rejected {c : MnrCmd} {mv : Nat} {s : State} {t : Taken} (hs : Starts Op.LAMP_SPARE c s.dev t)
    (hbad : bit t.arg 3 = true ∨ 256 ≤ t.arg ∨ (strAt (t.arg % 8) (begun Op.LAMP_SPARE c s.dev)).failed.testBit (bits t.arg 7 4) = false) :
    exec (.lampSpare c mv) s = .next { s with dev := finish t.who St.BAD_FIELD 0 [] (begun Op.LAMP_SPARE c s.dev) } := by
  refine (act_command _ hs).trans ?_
  rw [checked_of_fail (st := St.BAD_FIELD) (x := 0)]
  simp only [firstFail, Bool.or_eq_true, Bool.not_eq_true', decide_eq_true_eq]
  grind

/-- LAMP_SPARE of a failed lamp pulses it alone. -/
theorem lampSpare_runs {c : MnrCmd} {mv : Nat} {s : State} {t : Taken} (hs : Starts Op.LAMP_SPARE c s.dev t) (hlow : bit t.arg 3 = false)
    (hhigh : t.arg < 256) (hfailed : (strAt (t.arg % 8) (begun Op.LAMP_SPARE c s.dev)).failed.testBit (bits t.arg 7 4) = true) {f : Dev}
    (hf : f = updStr (t.arg % 8) (fun y => { y with failed := setBit y.failed (bits t.arg 7 4) false
                                                    spareLo := if y.spareLo = some (bits t.arg 7 4) then none else y.spareLo
                                                    spareHi := if y.spareHi = some (bits t.arg 7 4) then none else y.spareHi })
      (begun Op.LAMP_SPARE c s.dev)) :
    exec (.lampSpare c mv) s = .next { s with
      dev := if badReading (t.arg % 8) (bits t.arg 7 4) mv (begun Op.LAMP_SPARE c s.dev) = true then finish t.who St.HW_FAULT 0 [] (begun Op.LAMP_SPARE c s.dev)
        else finish t.who St.OK 0 [] (exhaustedChange none (begun Op.LAMP_SPARE c s.dev)
          (decideLamps (each (unserved (t.arg % 8) f) (takeSpare (t.arg % 8)) f))) } := by
  refine (act_command _ hs).trans ?_
  subst hf
  rw [checked_of_pass (by simp [firstFail, hlow, Nat.not_le.mpr hhigh, hfailed])]

/-! The expansion chain (R386). -/

/-- The object 0x1C10 is ILM_CHAIN: an accepted write of it starts the shift. -/
theorem writeEffect_chain {c : MnrCmd} {t : Taken} {d : Dev} (h : t.arg % 65536 = 0x1C10) :
    writeEffect c t d = d.uIlm fun i => { i with shift := some { frame := writtenWords c t d, who := some t.who } } := by
  unfold writeEffect
  rw [h]
  rfl

/-- Without a shift there is nothing to end. -/
theorem chainShiftDone_of_none (ret : List Word) (t : Nat) {d : Dev} (h : d.ilm.shift = none) : chainShiftDone ret t d = d := by
  simp only [chainShiftDone, h]

/-- A shift whose words return as they went out leaves its frame in the boards. -/
theorem chainShiftDone_of_match {ret : List Word} (t : Nat) {d : Dev} {x : ChainShift} (h : d.ilm.shift = some x)
    (hret : ret = chainFrame (cfg Obj.ILM_CTL.BOARDS d) x.frame) :
    chainShiftDone ret t d = finish? x.who St.OK 0x1C10 [] (raise 406 (setObj 0x1C10 x.frame ((d.at_ t).uIlm fun i =>
      { i with shift := none, boards := x.frame, lxpLat := some { at_ := t + 640, ns := 100 } }))) := by
  have returned : ret = chainFrame (cfg Obj.ILM_CTL.BOARDS ((d.at_ t).uIlm fun i => { i with shift := none })) x.frame := hret
  simp only [chainShiftDone, h, if_pos returned]
  rfl

/-- A shift whose words do not return is a fault of the chain. -/
theorem chainShiftDone_of_mismatch {ret : List Word} (t : Nat) {d : Dev} {x : ChainShift} (h : d.ilm.shift = some x)
    (hret : ret ≠ chainFrame (cfg Obj.ILM_CTL.BOARDS d) x.frame) :
    chainShiftDone ret t d = finish? x.who St.HW_FAULT 0 [] (raise 405 ((d.at_ t).uIlm fun i => { i with shift := none, chainFault := true })) := by
  have differs : ¬ ret = chainFrame (cfg Obj.ILM_CTL.BOARDS ((d.at_ t).uIlm fun i => { i with shift := none })) x.frame := hret
  simp only [chainShiftDone, h, if_neg differs]
  rfl

/-- Settles O54: each command by the lemma of its case, and the shift of the chain at its instant. -/
theorem lampCommands : Obligations.LampCommands := by
  unfold Obligations.LampCommands
  refine ⟨fun s c mv t n e ⟨hs, low, high, idle, check⟩ => calLamp_runs hs low high idle check, fun d mask mv h => lampCheck_of_good h,
    fun s c mv t ⟨hs, bad⟩ => calLamp_rejected hs bad, fun s c t x e ⟨hs, harg, hon, hx, hlen, he⟩ hf => ?_, fun s c t ⟨hs, harg, hlen⟩ => lampForce_off hs harg hlen,
    fun s c t ⟨hs, bad⟩ => lampForce_rejected hs bad, fun s c mv t ⟨hs, bad⟩ => lampSpare_rejected hs bad,
    fun s c mv t x l e ⟨hs, hlow, hhigh, hx, hl, he, hfailed⟩ => ?_, fun s c t ⟨ho, hid⟩ hs ha => ?_, fun s ret t ⟨hon, hshift⟩ => ?_,
    fun s ret t x ⟨hon, hshift, hret⟩ => ?_, fun s ret t x ⟨hon, hshift, hret⟩ => ?_⟩
  · subst hx he
    exact lampForce_on hs harg hon hlen hf
  · subst hx hl he
    exact ⟨_, rfl, lampSpare_runs hs hlow hhigh hfailed rfl⟩
  · exact (namedWrite_accepted ho hs ha).trans (by rw [writeEffect_chain hid])
  · exact (event_on t (chainShiftDone ret t) hon).trans (by rw [chainShiftDone_of_none (d := s.dev.at_ t) ret t hshift])
  · exact (event_on t (chainShiftDone ret t) hon).trans (by rw [chainShiftDone_of_match (d := s.dev.at_ t) t hshift hret, at_at])
  · exact (event_on t (chainShiftDone ret t) hon).trans (by rw [chainShiftDone_of_mismatch (d := s.dev.at_ t) t hshift hret, at_at])

end Sys2Proof.Proofs
end

section
/-! SUPPORT. Events of lamp strings (O55): blanking, modulation, readings, temperatures, headroom and forced durations. -/

namespace Sys2Proof.Proofs

open Sys2Proof Sys2Proof.Machine Sys2Proof.Laws

/-! Strings. -/

/-- Two changes of a string that agree on it as it stands are one change. -/
theorem updStr_congr {x : Nat} {f g : LampStr → LampStr} {d : Dev} (h : f (strAt x d) = g (strAt x d)) : updStr x f d = updStr x g d :=
  congrArg (fun l => d.uIlm fun i => { i with str := l }) (upd_congr h)

theorem updStr_eq_self {x : Nat} {f : LampStr → LampStr} {d : Dev} (h : f (strAt x d) = strAt x d) : updStr x f d = d :=
  congrArg (fun l => d.uIlm fun i => { i with str := l }) (upd_eq_self h)

/-- A string that a device does not have is off, whatever its change. -/
theorem strAt_updStr_lit {x : Nat} {f : LampStr → LampStr} {d : Dev} (hf : (f (strAt x d)).lit = .off) (hx : (strAt x d).lit ≠ .off) :
    (strAt x (updStr x f d)).lit = .off := by
  have listed : x < d.ilm.str.length := by
    by_contra absent
    exact hx (by rw [strAt, at', List.getD_eq_default _ _ (Nat.not_lt.mp absent)])
  rw [show strAt x (updStr x f d) = f (strAt x d) from at'_upd_self listed]
  exact hf

/-! Instants of a strobe (R369, R371, R375). -/

/-- A pulse or a strobe that is no diagnostic one does not settle. -/
theorem settlePulse_of_not_diag {x t : Nat} {d : Dev} (h : (strAt x d).lit ≠ .diag) : settlePulse x t d = d := by
  simp [settlePulse, h]

theorem lampModPeriod_off {x t : Nat} {d : Dev} (h : (strAt x d).lit = .off) : lampModPeriod x t (d.at_ t) = d.at_ t := by
  have off : (strAt x (d.at_ t)).lit = .off := h
  simp only [lampModPeriod, at_at, settlePulse_of_not_diag (by simp [off] : (strAt x (d.at_ t)).lit ≠ .diag), off]

theorem lampModPeriod_strobe {x t k p : Nat} {d : Dev} (h : (strAt x d).lit = .strobe k p) :
    lampModPeriod x t (d.at_ t) = refreshGate x t (d.at_ t) := by
  have on : (strAt x (d.at_ t)).lit = .strobe k p := h
  simp only [lampModPeriod, at_at, settlePulse_of_not_diag (by simp [on] : (strAt x (d.at_ t)).lit ≠ .diag), on]

theorem lampModPeriod_diag {x t : Nat} {d : Dev} (h : (strAt x d).lit = .diag) :
    lampModPeriod x t (d.at_ t) = if (strAt x d).since + 2400 ≤ t then
      updStr x (fun y => { y with lit := .off, gate := false, shunt := 0xFFFF, struck := [],
                                  blankUntil := y.since + 2400 + 16 * cfg Obj.ILM_CTL.BLANK_NS d }) (d.at_ t)
      else d.at_ t := by
  have lit : (strAt x (d.at_ t)).lit = .diag := h
  by_cases ended : (strAt x d).since + 2400 ≤ t
  · have settled : settlePulse x t (d.at_ t) = updStr x (fun y => { y with
        lit := .off, gate := false, shunt := 0xFFFF, struck := [], blankUntil := y.since + 2400 + 16 * cfg Obj.ILM_CTL.BLANK_NS d }) (d.at_ t) :=
      (if_pos (⟨lit, ended⟩ : (strAt x (d.at_ t)).lit = .diag ∧ (strAt x (d.at_ t)).since + 2400 ≤ t)).trans (updStr_congr rfl)
    have off := strAt_updStr_lit (x := x) (d := d.at_ t) (f := fun y => { y with
        lit := .off, gate := false, shunt := 0xFFFF, struck := [], blankUntil := y.since + 2400 + 16 * cfg Obj.ILM_CTL.BLANK_NS d }) rfl (by simp [lit])
    simp only [lampModPeriod, at_at, settled, off, if_pos ended]
  · have pending : settlePulse x t (d.at_ t) = d.at_ t :=
      if_neg (fun settles : (strAt x (d.at_ t)).lit = .diag ∧ (strAt x (d.at_ t)).since + 2400 ≤ t => ended settles.2)
    simp only [lampModPeriod, at_at, pending, lit, if_neg ended]

/-- When blanking ends a delayed strobe starts in SCAN (R371). -/
theorem lampBlankEnd_eq (x : Nat) (d : Dev) : lampBlankEnd x d = match (strAt x d).delayed with
    | some (k, p) => if d.pwr.mode = .scan ∧ (strAt x d).lit = .off then startStrobe x k p (strAt x d).blankUntil (d.at_ (strAt x d).blankUntil) else d
    | none => d := rfl

/-! Readings (R374, R378). -/

/-- A reading of a lamp that the driver does not read changes nothing. -/
theorem lampVoltageRead_unread {x l mv : Nat} {d : Dev} (h : readsLamp x l d = false) : lampVoltageRead x l mv d = d := by
  simp [lampVoltageRead, h]

/-- A reading of a lamp: noted in a strobe, and a verdict where it is bad. -/
theorem lampVoltageRead_read {x l mv : Nat} {d : Dev} {line : Option Nat} (h : readsLamp x l d = true)
    (hline : line = (match (strAt x d).lit with | .strobe k _ => some k | _ => none)) {e f : Dev}
    (he : e = if line.isSome then updStr x (fun y => { y with readMask := setBit y.readMask l true }) d else d) (hf : f = failVerdict x l line e) :
    lampVoltageRead x l mv d = if badReading x l mv d = true then
      markLine? line (FL.LAMP_FAULT ||| (if (unserved x f).contains l then FL.DEGRADED else 0)) f else e := by
  have noted : updStr x (fun y => match y.lit with | .strobe _ _ => { y with readMask := setBit y.readMask l true } | _ => y) d = e := by
    subst hline he
    cases lit : (strAt x d).lit with
    | strobe k p => exact updStr_congr (by simp only [lit])
    | _ => exact updStr_eq_self (by simp only [lit])
  have reads : badReading x l mv e = badReading x l mv d := by
    subst he
    split <;> rfl
  unfold lampVoltageRead
  rw [if_pos h]
  extract_lets x' line' d1 d2
  have noted' : d1 = e := noted
  have same : line' = line := hline.symm
  simp only [d2, noted', same, reads, hf]

/-! Temperatures (R373). -/

section
variable {x : Nat} {d : Dev} {r : AuxRes}

/-- A temperature that is not asked for, has not formed or is stale. -/
theorem ilmTempRead_absent (hr : r = at' d.aux.res (cfg (Obj.ILM_STRING.TEMP_SRC x) d) {})
    (h : cfgB (Obj.ILM_STRING.TEMP_EN x) d = false ∨ r.formed = none ∨ r.stale = true) : ilmTempRead x d = d := by
  subst hr
  unfold ilmTempRead
  split
  case isTrue en =>
    have absent : (at' d.aux.res (cfg (Obj.ILM_STRING.TEMP_SRC x) d) {}).formed.isNone = true ∨
        (at' d.aux.res (cfg (Obj.ILM_STRING.TEMP_SRC x) d) {}).stale = true := by simpa [en] using h
    exact if_pos absent
  case isFalse => rfl

/-- A temperature whose result is open or settles is lost. -/
theorem ilmTempRead_invalid (hen : cfgB (Obj.ILM_STRING.TEMP_EN x) d = true) (hr : r = at' d.aux.res (cfg (Obj.ILM_STRING.TEMP_SRC x) d) {})
    (hformed : r.formed.isSome = true) (hstale : r.stale = false) (h : r.open_ = true ∨ r.settling = true) :
    ilmTempRead x d = tempInput (updStr x (fun y => { y with tempLost := true }) d) := by
  unfold ilmTempRead
  simp only [hen, ← hr, if_true]
  rw [if_neg (by simp [hstale, Option.isSome_iff_ne_none.mp hformed]), if_pos h]

/-- A valid temperature is kept, and its limit takes effect where it moves by 8 mA or more. -/
theorem ilmTempRead_valid {lim : Nat} (hen : cfgB (Obj.ILM_STRING.TEMP_EN x) d = true)
    (hr : r = at' d.aux.res (cfg (Obj.ILM_STRING.TEMP_SRC x) d) {}) (hformed : r.formed.isSome = true) (hstale : r.stale = false)
    (hopen : r.open_ = false) (hsettling : r.settling = false) (hlim : lim = limitAt x r.eng d) {e : Dev}
    (he : e = tempInput (updStr x (fun y => { y with tempLost := false, temp := r.eng }) d)) :
    ilmTempRead x d = if 8 ≤ (lim - (strAt x d).iLim) + ((strAt x d).iLim - lim) then
      decideLamps (raise 401 (updStr x (fun y => { y with iLim := lim, derated := decide (lim < cfg (Obj.ILM_STRING.I_RATED x) d) }) e)) else e := by
  have rated : cfg (Obj.ILM_STRING.I_RATED x) e = cfg (Obj.ILM_STRING.I_RATED x) d := cfg_congr (by simp [he]) (by simp [he]) _
  unfold ilmTempRead
  simp only [hen, ← hr, if_true]
  rw [if_neg (by simp [hstale, Option.isSome_iff_ne_none.mp hformed]), if_neg (by simp [hopen, hsettling])]
  simp only [← hlim, ← he, rated]

end

/-! Headroom (R372) and forced strings (R381). -/

/-- Outside the strobe of an enabled string a headroom fault only shows VLED. -/
theorem lampHeadroomFault_idle {x v : Nat} {d : Dev} (h : strobing x d = false ∨ strEn x d = false) :
    lampHeadroomFault x v d = d.uIlm fun i => { i with vledMv := v } := by
  unfold lampHeadroomFault
  extract_lets e
  cases lit : (strAt x e).lit with
  | strobe k p =>
    have strobes : strobing x d = true := by
      have lit : (strAt x d).lit = .strobe k p := lit
      simp only [strobing, lit]
    exact if_neg (show ¬ strEn x e = true from fun en => absurd (h.resolve_left (by simp [strobes])) (by simp [show strEn x d = true from en]))
  | _ => rfl

/-- A headroom fault in the strobe of an enabled string. -/
theorem lampHeadroomFault_strobe {x v k p : Nat} {d : Dev} (hlit : (strAt x d).lit = .strobe k p) (hen : strEn x d = true) :
    lampHeadroomFault x v d = faultRaise 9 403 (some k) St.HW_FAULT (markLine k (FL.LAMP_FAULT ||| FL.DEGRADED) (raise 403
      (updStr x (fun y => { y with headroom := true, headroomBad := true }) (d.uIlm fun i => { i with vledMv := v })))) := by
  unfold lampHeadroomFault
  extract_lets e
  have lit : (strAt x e).lit = .strobe k p := hlit
  have en : strEn x e = true := hen
  simp only [lit, en, if_true]
  rfl

/-- A forced string turns off at the end of its duration. -/
theorem lampForceEnd_eq (x : Nat) (d : Dev) : lampForceEnd x d = match (strAt x d).lit with
    | .forced _ _ us => if (strAt x d).since + 16000 * us ≤ d.now then
        updStr x (fun y => { y with lit := .off, gate := false, shunt := 0xFFFF, struck := [] }) d else d
    | _ => d := by
  unfold lampForceEnd
  cases lit : (strAt x d).lit with
  | forced m a us => simp only [forceOff, isForced, lit, if_true]
  | _ => rfl

/-- Settles O55: each row acts at its instant through the lemma of its case. -/
theorem lampEvents : Obligations.LampEvents := by
  unfold Obligations.LampEvents
  refine ⟨fun s x t hon => (event_on t _ hon).trans (by rw [lampBlankEnd_eq]; rfl), fun s x t ⟨hon, hlit⟩ => ?_, fun s x t k p ⟨hon, hlit⟩ => ?_,
    fun s x t ⟨hon, hlit⟩ => ?_, fun s x l mv t ⟨hon, hread⟩ => ?_, fun s x l mv t line ⟨hon, hread, hline⟩ => ?_, fun s x t r ⟨hon, hr, habsent⟩ => ?_,
    fun s x t r ⟨hon, hen, hr, hformed, hstale, hbad⟩ => ?_, fun s x t lim r ⟨hon, hen, hr, hformed, hstale, hopen, hsettling, hlim⟩ => ?_,
    fun s x t hon => event_on t _ hon, fun s x v t ⟨hon, hidle⟩ => ?_, fun s x v t k p ⟨hon, hlit, hen⟩ => ?_,
    fun s x t hon => (event_on t _ hon).trans (by rw [lampForceEnd_eq]; rfl)⟩
  · exact (event_on t _ hon).trans (by rw [lampModPeriod_off hlit])
  · exact (event_on t _ hon).trans (by rw [lampModPeriod_strobe hlit])
  · exact (event_on t _ hon).trans (by rw [lampModPeriod_diag hlit])
  · exact (event_on t _ hon).trans (by rw [lampVoltageRead_unread (d := s.dev.at_ t) hread])
  · exact ⟨_, rfl, _, rfl, (event_on t _ hon).trans (by rw [lampVoltageRead_read (d := s.dev.at_ t) hread hline rfl rfl]; rfl)⟩
  · exact (event_on t _ hon).trans (by rw [ilmTempRead_absent (d := s.dev.at_ t) hr habsent])
  · exact (event_on t _ hon).trans (by rw [ilmTempRead_invalid (d := s.dev.at_ t) hen hr hformed hstale hbad])
  · exact ⟨_, rfl, (event_on t _ hon).trans (by rw [ilmTempRead_valid (d := s.dev.at_ t) hen hr hformed hstale hopen hsettling hlim rfl]; rfl)⟩
  · exact (event_on t _ hon).trans (by rw [lampHeadroomFault_idle (d := s.dev.at_ t) hidle])
  · exact (event_on t _ hon).trans (by rw [lampHeadroomFault_strobe (d := s.dev.at_ t) hlit hen])

end Sys2Proof.Proofs
end

section
/-! SUPPORT. The auxiliary crosspoint (O56): words and dwells, arbitration, AMON pins and AUX_READ. -/

namespace Sys2Proof.Proofs

open Sys2Proof Sys2Proof.Machine Sys2Proof.Laws

/-! Beginning a command. -/

section
variable {α : Type} {p : Dev → α} (hm : ∀ f d, p (d.uMnr f) = p d)
include hm

/-- A completion changes nothing but the session's state. -/
theorem finish_keeps (w : Who) (status detail : Nat) (res : List Word) (d : Dev) : p (finish w status detail res d) = p d := by
  unfold finish pushOut
  split
  · rw [hm, hm]
  · split
    · exact hm _ d
    · rfl

/-- Taking a command changes nothing but the session's state. -/
theorem takeCommand_keeps (m hi tag op len arg : Nat) (pay : List Word) (pe : Nat) (d : Dev) : p (takeCommand m hi tag op len arg pay pe d) = p d := by
  unfold takeCommand pushOut
  extract_lets w e
  have recorded : p e = p d := hm _ d
  (repeat' split) <;> simp [hm, finish_keeps hm, recorded]

/-- Beginning a command changes nothing but the session's state. -/
theorem beginCommand_keeps (op : Nat) (c : MnrCmd) (d : Dev) : p (beginCommand op c d).1 = p d := by
  unfold beginCommand
  extract_lets start
  have started (d : Dev) : p (start d).1 = p d := by
    simp only [start]
    (repeat' split) <;> simp [hm]
  split
  · exact started d
  · split
    · rfl
    · exact (started _).trans (takeCommand_keeps hm _ _ _ _ _ _ _ _ d)

end

/-- Beginning a command leaves the crosspoint. -/
theorem begun_aux (op : Nat) (c : MnrCmd) (d : Dev) : (begun op c d).aux = d.aux := by
  refine (beginCommand_keeps (p := (·.aux)) (fun _ _ => rfl) op c (cmdAt c d)).trans ?_
  unfold cmdAt
  split <;> rfl

/-! Words (R396, R398, R400). -/

/-- Time does not decide whether conversions may run. -/
@[simp] theorem auxModes_at (t : Nat) (d : Dev) : auxModes (d.at_ t) = auxModes d := rfl

/-- The sequence waits where conversions do not run, or a dwell stands. -/
theorem auxStart_idle {d : Dev} (h : auxEn d = false ∨ d.aux.active.isSome = true) : auxStart d = d := by
  unfold auxStart
  rw [if_neg]
  obtain off | stands := h
  · simp [auxRuns, off]
  · simp [Option.isSome_iff_ne_none.mp stands]

/-- A word changes nothing where conversions do not run, during arbitration, or where no dwell stands and none begins. -/
theorem auxWord_idle {v ref vc refc : Int} {comp : Bool} {t : Nat} {d : Dev}
    (h : auxModes d = false ∨ d.aux.arbDue = true ∨ (auxEn d = false ∧ d.aux.active = none)) :
    auxWord t v ref vc refc comp (d.at_ t) = d.at_ t := by
  unfold auxWord
  by_cases waits : auxModes d = false ∨ d.aux.arbDue = true
  · exact if_pos (by simpa using waits)
  · obtain ⟨off, idle⟩ := (or_assoc.mpr h).resolve_left waits
    have still : auxStart ((d.at_ t).at_ t) = d.at_ t := by
      rw [at_at]
      exact auxStart_idle (.inl off)
    rw [if_neg (by simpa using waits)]
    simp only [still, show (d.at_ t).aux.active = none from idle]

/-- A word with no slot enabled begins a dwell of none. -/
theorem auxWord_no_slot {v ref vc refc : Int} {comp : Bool} {t : Nat} {d : Dev} (hr : auxRuns d = true) (ha : d.aux.arbDue = false)
    (hi : d.aux.active = none) (hn : nextSlot none d = none) : auxWord t v ref vc refc comp (d.at_ t) = beginDwell none (d.at_ t) := by
  have modes : auxModes d = true := (Bool.and_eq_true_iff.mp hr).2
  have starts : auxStart ((d.at_ t).at_ t) = beginDwell none (d.at_ t) := by
    rw [at_at]
    refine (if_pos ?_).trans (by rw [show nextSlot none (d.at_ t) = none from hn])
    simp [show auxRuns (d.at_ t) = true from hr, ha, hi]
  unfold auxWord
  rw [if_neg (by simp [show auxModes (d.at_ t) = true from modes, ha])]
  simp only [starts]
  rfl

/-- The code of a word leaves the crosspoint. -/
theorem auxCode_aux {g : Nat} {v ref p : Int} {d e : Dev} (h : auxCode g v ref d = (p, e)) : e.aux = d.aux := by
  unfold auxCode at h
  split at h <;> cases h <;> rfl

/-- The dwell that begins where a write changed slot x (R400). -/
theorem restartDwell_eq (x : Nat) (d : Dev) :
    restartDwell x d = beginDwell (if !auxEn d then none else if AuxSlot.en (auxSlot x d) then some x else nextSlot (some x) d) d := by
  unfold restartDwell
  (repeat' split) <;> rfl

/-- A word of a dwell counts, and ends the dwell with its last. -/
theorem auxWord_dwell {v ref vc refc p q : Int} {comp : Bool} {t x : Nat} {d e e1 e2 : Dev} (hm : auxModes d = true) (ha : d.aux.arbDue = false)
    (he : e = auxStart (d.at_ t)) (hx : e.aux.active = some x) (h1 : auxCode (AuxSlot.gain e.aux.cfg) v (AuxSlot.vRef e.aux.cfg ref) e = (p, e1))
    (h2 : auxCode (AuxSlot.gain e.aux.cfg) vc (AuxSlot.vRef e.aux.cfg refc) e1 = (q, e2)) {f : Dev}
    (hf : f = e2.uAux fun y => { y with
      word := y.word + 1, prim := if 3 ≤ y.word then y.prim ++ [if y.checkerPrimary then q else p] else y.prim
      chk := if 3 ≤ y.word then y.chk ++ [q] else y.chk, comp := y.comp || (comp && AuxSlot.excMode y.cfg == 1) }) :
    auxWord t v ref vc refc comp (d.at_ t) =
      if 3 + AuxSlot.valid f.aux.cfg ≤ f.aux.word then
        beginDwell (if auxEn (formResult x t f) then nextSlot (some x) (formResult x t f) else none) (formResult x t f)
      else if f.aux.dwellOld then beginDwell (if !auxEn f then none else if AuxSlot.en (auxSlot x f) then some x else nextSlot (some x) f) f
      else f := by
  have aux1 : e1.aux = e.aux := auxCode_aux h1
  have aux2 : e2.aux = e.aux := (auxCode_aux h2).trans aux1
  have starts : auxStart ((d.at_ t).at_ t) = e := by rw [at_at, he]
  unfold auxWord
  rw [if_neg (by simp [show auxModes (d.at_ t) = true from hm, ha])]
  simp only [starts, hx, h1, aux1, h2]
  have counted : (e2.uAux fun y => { y with
      word := y.word + 1, prim := if decide (3 ≤ e.aux.word) = true then y.prim ++ [if y.checkerPrimary then q else p] else y.prim
      chk := if decide (3 ≤ e.aux.word) = true then y.chk ++ [q] else y.chk, comp := y.comp || (comp && AuxSlot.excMode y.cfg == 1) }) = f := by
    rw [hf, Dev.uAux, Dev.uAux]
    simp only [aux2, decide_eq_true_eq]
  simp only [counted, restartDwell_eq]

/-! Arbitration (R404). -/

/-- A measurement of the test levels outside arbitration changes nothing. -/
theorem auxArbitration_idle {a b : ArbRes} {d : Dev} (h : auxModes d = false ∨ d.aux.arbDue = false) : auxArbitration a b d = d := by
  unfold auxArbitration
  exact if_pos (by simpa using h)

/-! AMON pins (R406). -/

/-- A pin whose slot is stale goes to its fault level. -/
theorem amonStale_eq (a : Nat) (d : Dev) : amonStale a d =
    if (cfgB (Obj.AUX_AMON.EN a) d && !d.inMode [.reset, .boot] && d.runs 14) = true then
      (if (at' d.aux.amon a {}).fault || d.pwr.mode == .sleep then
          updAmon a (fun y => { y with driven := true, fault := true, level := amonDac ((cfg (Obj.AUX_AMON.FAULT_LVL a) d : Rat) / 100) }) d
        else raise 422 (updAmon a (fun y => { y with driven := true, fault := true, level := amonDac ((cfg (Obj.AUX_AMON.FAULT_LVL a) d : Rat) / 100) }) d))
    else d := rfl

/-! AUX_READ (R407). -/

/-- AUX_READ names one to six slots, and asks for the results as they stand or for fresh ones. -/
abbrev auxReadRight (t : Taken) : Prop := 0 < (maskIx t.arg 32).length ∧ (maskIx t.arg 32).length ≤ 6 ∧ t.len ≤ 1 ∧ (t.len = 1 → t.w 0 < 2)

/-- The slots of a fresh read that have formed no result since the command was taken. -/
def auxLeft (t : Taken) (d : Dev) : Nat :=
  (maskIx t.arg 32).foldl (fun m k => match (at' d.aux.res k {}).formed with
    | some f => if t.at_ < f then setBit m k false else m
    | none => m) t.arg

/-- An AUX_READ with right fields answers, or waits for fresh results. -/
theorem auxRead_runs {c : MnrCmd} {s : State} {t : Taken} (hs : Starts Op.AUX_READ c s.dev t) (hr : auxReadRight t) :
    exec (.auxRead c) s = .next { s with
      dev := if t.len = 1 ∧ bit (t.w 0) 0 = true then auxAnswer ((begun Op.AUX_READ c s.dev).uAux fun x =>
          { x with waits := x.waits ++ [{ mask := t.arg, left := auxLeft t s.dev, who := t.who }] })
        else finish t.who St.OK 0 (auxReadWords t.arg (begun Op.AUX_READ c s.dev)) (begun Op.AUX_READ c s.dev) } := by
  obtain ⟨some_, six, len, word⟩ := hr
  refine (act_command _ hs).trans ?_
  have left : auxLeft t s.dev = auxLeft t (begun Op.AUX_READ c s.dev) := by rw [auxLeft, auxLeft, begun_aux]
  have fits : ¬ (t.len = 1 ∧ 2 ≤ t.w 0) := fun h => absurd (word h.1) (Nat.not_lt.mpr h.2)
  rw [left, checked_of_pass]
  · by_cases fresh : t.len = 1 ∧ bit (t.w 0) 0 = true
    · rw [if_pos fresh, if_pos (by simpa using fresh)]
      rfl
    · rw [if_neg fresh, if_neg (by simpa using fresh)]
  · simp only [firstFail, Bool.or_eq_true, Bool.and_eq_true, beq_iff_eq, decide_eq_true_eq, fits, if_false]
    rw [if_neg (by omega), if_neg (by omega)]

/-- An AUX_READ that names no slot or too many, or with a wrong LEN or word. -/
theorem auxRead_rejected {c : MnrCmd} {s : State} {t : Taken} (hs : Starts Op.AUX_READ c s.dev t)
    (hbad : (maskIx t.arg 32).length = 0 ∨ 6 < (maskIx t.arg 32).length ∨ 1 < t.len ∨ (t.len = 1 ∧ 2 ≤ t.w 0)) :
    exec (.auxRead c) s = .next { s with dev := finish t.who St.BAD_FIELD 0 [] (begun Op.AUX_READ c s.dev) } := by
  refine (act_command _ hs).trans ?_
  rw [checked_of_fail (st := St.BAD_FIELD) (x := 0)]
  simp only [firstFail, Bool.or_eq_true, Bool.and_eq_true, beq_iff_eq, decide_eq_true_eq]
  grind

/-- The oldest fresh read that has waited too long. -/
theorem auxReadTimeout_eq (d : Dev) : auxReadTimeout d = match d.aux.waits with
    | [] => d
    | w :: ws => finish w.who St.TIMEOUT 0 (auxReadWords w.mask d) (d.uAux fun y => { y with waits := ws }) := rfl

/-- Settles O56: each row acts at its instant through the lemma of its case. -/
theorem auxiliaryCommands : Obligations.AuxiliaryCommands := by
  unfold Obligations.AuxiliaryCommands
  refine ⟨fun s v ref vc refc comp t ⟨hon, h⟩ => ?_, fun s v ref vc refc comp t ⟨hon, hr, ha, hi, hn⟩ => ?_,
    fun s v ref vc refc p q comp t x e e1 e2 ⟨hon, hm, ha, he, hx⟩ ⟨h1, h2⟩ => ?_, fun s a b t ⟨hon, h⟩ => ?_,
    fun s a b t pf cf ⟨hon, hm, ha⟩ ⟨hpf, hcf⟩ => ?_, fun s x t hon => event_on t _ hon, fun s a t hon => ?_, fun s t hr => ?_,
    fun s c t ⟨hs, hr⟩ => auxRead_runs hs hr, fun s c t ⟨hs, hbad⟩ => auxRead_rejected hs hbad⟩
  case refine_1 => exact (event_on t _ hon).trans (by rw [auxWord_idle h])
  case refine_2 => exact (event_on t _ hon).trans (by rw [auxWord_no_slot hr ha hi hn])
  case refine_3 => exact ⟨_, rfl, (event_on t _ hon).trans (by rw [auxWord_dwell hm ha he hx h1 h2 rfl])⟩
  case refine_4 => exact (event_on t _ hon).trans (by rw [auxArbitration_idle (d := s.dev.at_ t) h])
  case refine_5 =>
    refine ⟨_, rfl, _, rfl, _, rfl, (event_on t _ hon).trans ?_⟩
    subst hpf hcf
    unfold auxArbitration
    rw [if_neg (by simp [hm, ha])]
    rfl
  case refine_6 => exact ⟨_, rfl, (event_powered t _ hon).trans (by rw [amonStale_eq]; rfl)⟩
  case refine_7 => exact (event_runs t _ hr (coresRun_awake hr)).trans (by rw [auxReadTimeout_eq]; rfl)

end Sys2Proof.Proofs
end

section
/-! SUPPORT. Blocks of the Karum fabric (O57, O58): how a block is checked, counted, accepted or forwarded, and what each kind of block does. -/

namespace Sys2Proof.Proofs

open Sys2Proof Sys2Proof.Machine Sys2Proof.Laws

/-! What counting a block leaves of the rest. -/

section
variable {α : Type} {p : Dev → α} (hp : ∀ n f d, p (updPort n f d) = p d)
include hp

/-- Sending on a port changes nothing but the port. -/
theorem sendOn_keeps (n : Nat) (b : KBlock) (d : Dev) : p (sendOn n b d) = p d := by
  unfold sendOn
  split
  · rfl
  · exact hp _ _ d

/-- An acknowledgement changes nothing but the port. -/
theorem ackUpTo_keeps (n a : Nat) (d : Dev) : p (ackUpTo n a d) = p d := by
  have waiting (d : Dev) : p (sendWaiting n d) = p d := (each_keeps p _ (fun b d => sendOn_keeps hp n b d) _ _).trans (hp _ _ d)
  unfold ackUpTo
  split
  · exact (waiting _).trans (hp _ _ d)
  · rfl

/-- Counting a block changes nothing but its port. -/
theorem countedAs_keeps (x : Bool) (h : KHdr) (d : Dev) : p (countedAs x h d) = p d := by
  unfold countedAs
  extract_lets e
  have counts : p e = p d := hp _ _ d
  (repeat' split) <;> simp [ackUpTo_keeps hp, counts]

/-- A block that is counted at an instant leaves what neither the port nor the instant says. -/
theorem counted_at_keeps (ht : ∀ t d, p (d.at_ t) = p d) (h : KHdr) (t : Nat) (d : Dev) : p (Machine.counted h (d.at_ t)) = p d :=
  (countedAs_keeps hp false h _).trans (ht t d)

end

/-- A node keeps its address as it counts a block. -/
@[simp] theorem nodeAddr_countedAs (x : Bool) (h : KHdr) (d : Dev) : nodeAddr (countedAs x h d) = nodeAddr d :=
  countedAs_keeps (p := nodeAddr) (fun _ _ _ => rfl) x h d

@[simp] theorem nodeAddr_counted (h : KHdr) (d : Dev) : nodeAddr (Machine.counted h d) = nodeAddr d := nodeAddr_countedAs false h d

@[simp] theorem nodeAddr_at (t : Nat) (d : Dev) : nodeAddr (d.at_ t) = nodeAddr d := rfl

/-! Receiving (R437, R439, R441, R443, R444). -/

section
variable {h : KHdr} {l x : Bool} {b : KBlock} {f : Dev → Dev} {d : Dev}

/-- A block on a link that is down. -/
theorem receive_down (hd : portUp h.port.val d = false) : receive h l x b f d = d := by
  simp [receive, hd]

/-- A block with a wrong CRC or out of sequence. -/
theorem receive_bad (hu : portUp h.port.val d = true) (hr : d.runs 15 = true)
    (hbad : crcRight h b = false ∨ h.seq.val ≠ (kport h.port.val d).rxExpected) {e : Dev}
    (he : e = if crcRight h b then d else updPort h.port.val (fun y => { y with crcErr := sat32 y.crcErr }) d) :
    receive h l x b f d =
      if nodeAddr d = 0 ∨ ((kport h.port.val d).nakDue = some (kport h.port.val d).rxExpected ∧ h.seq.val ≠ (kport h.port.val d).rxExpected) then e
      else sendOn h.port.val { type := 3, cls := 1, dest := (kport h.port.val d).nbAddr, src := nodeAddr d, units := 1
                               payload := [BitVec.ofNat 32 (kport h.port.val d).rxExpected] }
        (updPort h.port.val (fun y => { y with nakDue := some y.rxExpected }) e) := by
  have node : nodeAddr e = nodeAddr d := by
    rw [he]
    split <;> rfl
  unfold receive
  rw [if_neg (by simp [hu, hr]), if_pos (by simpa using hbad)]
  simp only [← he, node]

/-- A block in order is counted, and then its type and its destination decide. -/
theorem receive_counted (hu : portUp h.port.val d = true) (hr : d.runs 15 = true) (hcrc : crcRight h b = true)
    (hseq : h.seq.val = (kport h.port.val d).rxExpected) : receive h l x b f d =
      if h.badType.isSome then (countedAs x h d).uKrm fun k => { k with badBlocks := sat16 k.badBlocks }
      else if nodeAddr d = 0 then (if x then f (countedAs x h d) else countedAs x h d)
      else if l then f (countedAs x h d)
      else if h.dest.val = nodeAddr d then f (countedAs x h d)
      else if h.dest.val = 0xFFF then
        if h.hops.val = 0 then f (countedAs x h d)
        else sendMask (setBit (cfg (Obj.KRM_CTL.BCAST_FWD h.port.val) (f (countedAs x h d))) h.port.val false)
          { arrived h b with hops := h.hops.val - 1, ack := none } (f (countedAs x h d))
      else if h.hops.val = 0 then (countedAs x h d).uKrm fun k => { k with noRoute := sat16 k.noRoute }
      else sendTo { arrived h b with hops := h.hops.val - 1, ack := none } (countedAs x h d) := by
  unfold receive
  rw [if_neg (by simp [hu, hr]), if_neg (by simp [hcrc, hseq])]
  extract_lets b' d1 d2 accepted
  have counts : d2 = countedAs x h d := rfl
  simp only [accepted, counts, nodeAddr_countedAs, b']

/-- What inOrder says of a block. -/
theorem inOrder_iff : inOrder h b d = true ↔ portUp h.port.val d = true ∧ d.runs 15 = true ∧ crcRight h b = true ∧
    h.seq.val = (kport h.port.val d).rxExpected ∧ h.badType = none := by
  simp [inOrder, and_assoc]

/-- A block of the link itself is accepted, by a node without an address only where it is a DISC block. -/
theorem receive_link (ho : inOrder h b d = true) :
    receive h true x b f d = if nodeAddr d = 0 ∧ x = false then countedAs x h d else f (countedAs x h d) := by
  obtain ⟨hu, hr, hcrc, hseq, htype⟩ := inOrder_iff.mp ho
  rw [receive_counted hu hr hcrc hseq, htype]
  by_cases node : nodeAddr d = 0 <;> cases x <;> simp [node]

/-- A block for this node is accepted. -/
theorem receive_forUs (ho : forUs h b d = true) : receive h l x b f d = f (countedAs x h d) := by
  obtain ⟨⟨order, node⟩, dest⟩ : (inOrder h b d = true ∧ nodeAddr d ≠ 0) ∧ h.dest.val = nodeAddr d := by simpa [forUs] using ho
  obtain ⟨hu, hr, hcrc, hseq, htype⟩ := inOrder_iff.mp order
  rw [receive_counted hu hr hcrc hseq, htype]
  simp [node, dest]

/-- A block of an unknown type is counted and dropped. -/
theorem receive_unknown (hu : portUp h.port.val d = true) (hr : d.runs 15 = true) (hcrc : crcRight h b = true)
    (hseq : h.seq.val = (kport h.port.val d).rxExpected) (htype : h.badType.isSome = true) :
    receive h l x b f d = (countedAs x h d).uKrm fun k => { k with badBlocks := sat16 k.badBlocks } := by
  rw [receive_counted hu hr hcrc hseq, if_pos htype]

/-- A block for another node, or on a node without an address. -/
theorem receive_other (ho : inOrder h b d = true) (hdest : h.dest.val ≠ nodeAddr d ∨ nodeAddr d = 0) : receive h false x b f d =
    if nodeAddr d = 0 then (if x then f (countedAs x h d) else countedAs x h d)
    else if h.dest.val = 0xFFF then
      if h.hops.val = 0 then f (countedAs x h d)
      else sendMask (setBit (cfg (Obj.KRM_CTL.BCAST_FWD h.port.val) (f (countedAs x h d))) h.port.val false)
        { arrived h b with hops := h.hops.val - 1, ack := none } (f (countedAs x h d))
    else if h.hops.val = 0 then (countedAs x h d).uKrm fun k => { k with noRoute := sat16 k.noRoute }
    else sendTo { arrived h b with hops := h.hops.val - 1, ack := none } (countedAs x h d) := by
  obtain ⟨hu, hr, hcrc, hseq, htype⟩ := inOrder_iff.mp ho
  rw [receive_counted hu hr hcrc hseq, htype]
  by_cases node : nodeAddr d = 0
  · simp [node]
  · simp [node, hdest.resolve_right node]

end

/-- A DATA block carries its words itself (R437). -/
theorem exec_krmDataBlock {s : State} (h : KHdr) (u : List Word) (q : Fin 32) (x y : Bool) (t : Nat) (hon : s.dev.on 15 = true) :
    exec (.krmDataBlock { h with pay := u } q h.pay x y t) s = .next { s with dev := krmDataBlock h q.val x y (s.dev.at_ t) } :=
  event_on t (krmDataBlock h q.val x y) hon

/-- Settles O57: every block goes through receive, and what it does there is said by the lemma of its case. -/
theorem fabricBlocks : Obligations.FabricBlocks := by
  unfold Obligations.FabricBlocks
  refine ⟨fun s h q a n t k x y r b m u ⟨hon, hdown⟩ => ?_, fun d h l x b f e ⟨hu, hr, hbad, he⟩ => receive_bad hu hr hbad he,
    fun d h l x b f ⟨hu, hr, hcrc, hseq, htype⟩ => receive_unknown hu hr hcrc hseq htype, fun d h x b f hother => ?_,
    fun s h a t ⟨hon, ho⟩ => ?_, fun s h e t ⟨hon, ho⟩ => ?_, fun s h q n t ⟨hon, ho⟩ => ?_, fun s h q x y t u ⟨hon, ho⟩ => ?_,
    fun s h x n t ⟨hon, ho⟩ => ?_⟩
  case refine_1 =>
    have down : portUp h.port.val (s.dev.at_ t) = false := hdown
    exact ⟨(exec_krmDataBlock h u q x y t hon).trans (by rw [krmDataBlock, receive_down down]), (event_on t _ hon).trans (by rw [krmAckBlock, receive_down down]),
      (event_on t _ hon).trans (by rw [krmNakBlock, receive_down down]), (event_on t _ hon).trans (by rw [krmCreditBlock, receive_down down]),
      (event_on t _ hon).trans (by rw [krmTimeBlock, receive_down down]), (event_on t _ hon).trans (by rw [krmLineBlock, receive_down down]),
      (event_on t _ hon).trans (by rw [krmPaceBlock, receive_down down]), (event_on t _ hon).trans (by rw [krmDiscBlock, receive_down down]),
      (event_on t _ hon).trans (by rw [krmConfirmBlock, receive_down down]), (event_on t _ hon).trans (by rw [krmGroupBlock, receive_down down])⟩
  case refine_2 =>
    obtain ⟨order, dest⟩ : inOrder h b d = true ∧ (h.dest.val ≠ nodeAddr d ∨ nodeAddr d = 0) := by
      obtain ⟨order, dest⟩ | ⟨order, node⟩ := hother
      · exact ⟨order, .inl dest⟩
      · exact ⟨order, .inr node⟩
    exact ⟨_, rfl, receive_other order dest⟩
  case refine_3 =>
    refine (event_on t _ hon).trans ?_
    rw [krmAckBlock, receive_link (d := s.dev.at_ t) ho]
    by_cases node : nodeAddr s.dev = 0 <;> simp [node, Machine.counted]
  case refine_4 =>
    refine ⟨_, rfl, (event_on t _ hon).trans ?_⟩
    rw [krmNakBlock, receive_link (d := s.dev.at_ t) ho]
    by_cases node : nodeAddr s.dev = 0 <;> simp [node, Machine.counted]
  case refine_5 =>
    refine (event_on t _ hon).trans ?_
    rw [krmCreditBlock, receive_forUs (d := s.dev.at_ t) ho]
    rfl
  case refine_6 =>
    refine ⟨_, rfl, (exec_krmDataBlock h u q x y t hon).trans ?_⟩
    rw [krmDataBlock, receive_forUs (d := s.dev.at_ t) ho]
    rfl
  case refine_7 =>
    refine ⟨_, rfl, (event_on t _ hon).trans ?_⟩
    rw [krmTimeBlock, receive_link (d := s.dev.at_ t) ho]
    by_cases node : nodeAddr s.dev = 0 <;> simp [node, Machine.counted]

end Sys2Proof.Proofs
end

section
/-! SUPPORT. The group blocks of the Karum fabric (O58): LINE, PACE, DISC, CONFIRM and GROUP blocks, once they are accepted. -/

namespace Sys2Proof.Proofs

open Sys2Proof Sys2Proof.Machine Sys2Proof.Laws

/-! What the device says of its group as a block is counted. -/

section
variable (h : KHdr) (t : Nat) (d : Dev)

@[simp] theorem counted_at_member : (Machine.counted h (d.at_ t)).krm.member = d.krm.member :=
  counted_at_keeps (p := fun d => d.krm.member) (fun _ _ _ => rfl) (fun _ _ => rfl) h t d

@[simp] theorem counted_at_role : (Machine.counted h (d.at_ t)).krm.role = d.krm.role :=
  counted_at_keeps (p := fun d => d.krm.role) (fun _ _ _ => rfl) (fun _ _ => rfl) h t d

@[simp] theorem counted_at_master : (Machine.counted h (d.at_ t)).krm.master = d.krm.master :=
  counted_at_keeps (p := fun d => d.krm.master) (fun _ _ _ => rfl) (fun _ _ => rfl) h t d

@[simp] theorem counted_at_members : (Machine.counted h (d.at_ t)).krm.members = d.krm.members :=
  counted_at_keeps (p := fun d => d.krm.members) (fun _ _ _ => rfl) (fun _ _ => rfl) h t d

@[simp] theorem counted_at_groupId : (Machine.counted h (d.at_ t)).krm.groupId = d.krm.groupId :=
  counted_at_keeps (p := fun d => d.krm.groupId) (fun _ _ _ => rfl) (fun _ _ => rfl) h t d

@[simp] theorem counted_at_joining : (Machine.counted h (d.at_ t)).krm.joining = d.krm.joining :=
  counted_at_keeps (p := fun d => d.krm.joining) (fun _ _ _ => rfl) (fun _ _ => rfl) h t d

@[simp] theorem counted_at_follower : follower (Machine.counted h (d.at_ t)) = follower d :=
  counted_at_keeps (p := follower) (fun _ _ _ => rfl) (fun _ _ => rfl) h t d

@[simp] theorem counted_at_sending : sending (Machine.counted h (d.at_ t)) = sending d :=
  counted_at_keeps (p := sending) (fun _ _ _ => rfl) (fun _ _ => rfl) h t d

@[simp] theorem counted_at_paceAxis : paceAxis (Machine.counted h (d.at_ t)) = paceAxis d :=
  counted_at_keeps (p := paceAxis) (fun _ _ _ => rfl) (fun _ _ => rfl) h t d

@[simp] theorem counted_at_collector : cfg Obj.KRM_CTL.COLLECTOR (Machine.counted h (d.at_ t)) = cfg Obj.KRM_CTL.COLLECTOR d :=
  counted_at_keeps (p := cfg Obj.KRM_CTL.COLLECTOR) (fun _ _ _ => rfl) (fun _ _ => rfl) h t d

@[simp] theorem counted_at_line : (Machine.counted h (d.at_ t)).spn.line = d.spn.line :=
  counted_at_keeps (p := fun d => d.spn.line) (fun _ _ _ => rfl) (fun _ _ => rfl) h t d

end

section
variable {s : State} {h : KHdr} {t : Nat}

/-! LINE blocks (R450, R452). -/

/-- A LINE block of another node than the master only counts. -/
theorem krmLineBlock_stranger {b : LineBlk} (hus : forUs h { type := 6, cls := 0, dest := 0, src := 0 } s.dev = true)
    (hstranger : follower s.dev = false ∨ s.dev.krm.master ≠ h.src.val) : krmLineBlock h b t (s.dev.at_ t) = Machine.counted h (s.dev.at_ t) := by
  rw [krmLineBlock, receive_forUs (d := s.dev.at_ t) hus]
  exact if_neg fun both => by
    obtain ⟨follows, master⟩ : follower s.dev = true ∧ s.dev.krm.master = h.src.val := by simpa [← Machine.counted.eq_1] using both
    exact hstranger.elim (by simp [follows]) (absurd master)

/-- A LINE block of the master. -/
theorem krmLineBlock_master {b : LineBlk} (hus : forUs h { type := 6, cls := 0, dest := 0, src := 0 } s.dev = true)
    (hfollows : follower s.dev = true) (hmaster : s.dev.krm.master = h.src.val) {e : Dev} (he : e = followVhat b ((Machine.counted h (s.dev.at_ t)).at_ t)) :
    krmLineBlock h b t (s.dev.at_ t) =
      if b.abort then
        match e.spn.line with
        | some l => if l.k = b.k then (abortLine t (e.uKrm fun k => { k with sched := k.sched.filter fun x => x.k != b.k })).uSpn fun s => { s with abortedIdx := none }
          else e.uKrm fun k => { k with sched := k.sched.filter fun x => x.k != b.k }
        | none => e.uKrm fun k => { k with sched := k.sched.filter fun x => x.k != b.k }
      else if b.k < e.spn.next ∨ startsLines e = false then e
      else if b.tk < groupStep t e + 1024 then
        if (e.krm.sched.any fun x => x.k == b.k) = true then e
        else raise 454 (((raise 78 (linesMissing (min e.spn.next b.k) e)).uKrm fun k => { k with lateLines := sat16 k.lateLines }).uSpn fun s => { s with next := b.k + 1 })
      else e.uKrm fun k => { k with sched := schedule b k.sched } := by
  rw [krmLineBlock, receive_forUs (d := s.dev.at_ t) hus]
  refine (if_pos ?_).trans ?_
  · simp [← Machine.counted.eq_1, hfollows, hmaster]
  · subst he
    simp only [← Machine.counted.eq_1, Bool.or_eq_true, decide_eq_true_eq, Bool.not_eq_true']
    rfl

/-! PACE, DISC and CONFIRM blocks (R442, R454, R455, R458). -/

/-- A PACE block for this node. -/
theorem krmPaceBlock_forUs {v : Nat} {x : Bool} {r : Option Nat} (hus : forUs h { type := 7, cls := 0, dest := 0, src := 0 } s.dev = true) :
    krmPaceBlock h v x r (s.dev.at_ t) = if s.dev.krm.member = true ∧ (paceAxis s.dev).isSome = true then
      (Machine.counted h (s.dev.at_ t)).uKrm fun k => { k with paceVd := (k.paceVd.filter fun y => y.1 != h.src.val) ++ [(h.src.val, v, x, (r.map (· + 1)).getD 0)] }
      else Machine.counted h (s.dev.at_ t) := by
  rw [krmPaceBlock, receive_forUs (d := s.dev.at_ t) hus]
  simp only [← Machine.counted.eq_1, counted_at_member, counted_at_paceAxis, Bool.and_eq_true]

/-- A DISC block in order is accepted whether the node has an address or not. -/
theorem krmDiscBlock_inOrder {uid a p : Nat} {x : Bool} (ho : inOrder h { type := 8, cls := 1, dest := 0, src := 0 } s.dev = true) :
    krmDiscBlock h uid a p x (s.dev.at_ t) =
      if x then setNeighbour h.port.val uid a p (countedAs true h (s.dev.at_ t))
      else sendDisc h.port.val true (setNeighbour h.port.val uid a p (countedAs true h (s.dev.at_ t))) := by
  rw [krmDiscBlock, receive_link (d := s.dev.at_ t) ho, if_neg (by simp)]

/-- A CONFIRM block for this node. -/
theorem krmConfirmBlock_forUs {k : Nat} {x : Bool} (hus : forUs h { type := 9, cls := 1, dest := 0, src := 0 } s.dev = true) :
    krmConfirmBlock h k x (s.dev.at_ t) = if sending s.dev = true ∧ h.src.val = cfg Obj.KRM_CTL.COLLECTOR s.dev then
      each (outboundQueues (Machine.counted h (s.dev.at_ t))) (fun q d =>
        if x then evalQueue q (updGroup q (fun g => { g with next := 0, asm := [] }) (updQueue q (fun y => { above := y.above }) (abortOutbound q d)))
        else storeConfirm (cfg (Obj.SKN_QUEUE.LS q) d) k d) (Machine.counted h (s.dev.at_ t))
      else Machine.counted h (s.dev.at_ t) := by
  rw [krmConfirmBlock, receive_forUs (d := s.dev.at_ t) hus]
  simp only [← Machine.counted.eq_1, counted_at_sending, counted_at_collector, Bool.and_eq_true, beq_iff_eq]

/-! GROUP blocks (R445, R446). -/

/-- A heartbeat reaches a master. -/
theorem krmGroupBlock_heartbeat {lock : Bool} {fmt : Option Nat} (hus : forUs h { type := 10, cls := 1, dest := 0, src := 0 } s.dev = true) :
    krmGroupBlock h (.heartbeat lock fmt) (s.dev.at_ t) = if s.dev.krm.role then
      (Machine.counted h (s.dev.at_ t)).uKrm fun k => { k with members := k.members.map fun x => if x.addr = h.src.val then { x with lock := lock, fmt := fmt } else x }
      else Machine.counted h (s.dev.at_ t) := by
  rw [krmGroupBlock, receive_forUs (d := s.dev.at_ t) hus]
  simp only [← Machine.counted.eq_1, counted_at_role]

/-- A departure reaches a master. -/
theorem krmGroupBlock_leave (hus : forUs h { type := 10, cls := 1, dest := 0, src := 0 } s.dev = true) :
    krmGroupBlock h .leave (s.dev.at_ t) = if s.dev.krm.role then
      setMembers (s.dev.krm.members.filter fun x => x.addr != h.src.val) (Machine.counted h (s.dev.at_ t)) else Machine.counted h (s.dev.at_ t) := by
  rw [krmGroupBlock, receive_forUs (d := s.dev.at_ t) hus]
  simp only [← Machine.counted.eq_1, counted_at_role, counted_at_members]

/-- A member list reaches a follower of the sender, or one without a master. -/
theorem krmGroupBlock_members {l : List Member} {mc : MasterCfg} (hus : forUs h { type := 10, cls := 1, dest := 0, src := 0 } s.dev = true) :
    krmGroupBlock h (.members l mc) (s.dev.at_ t) =
      if (follower s.dev && (s.dev.krm.master == h.src.val || s.dev.krm.master == 0)) = true then
        if (l.any fun x => x.addr == nodeAddr s.dev) = true then
          setMembers (l.filter fun x => x.addr != nodeAddr s.dev) ((Machine.counted h (s.dev.at_ t)).uKrm fun k => { k with mcfg := some mc, master := h.src.val })
        else leaveGroup (Machine.counted h (s.dev.at_ t))
      else Machine.counted h (s.dev.at_ t) := by
  rw [krmGroupBlock, receive_forUs (d := s.dev.at_ t) hus]
  simp only [← Machine.counted.eq_1, counted_at_member, counted_at_role, counted_at_master, nodeAddr_counted, nodeAddr_at]
  rfl

/-- A request to join reaches the master of that group. -/
theorem krmGroupBlock_join {uid tile g : Nat} (hus : forUs h { type := 10, cls := 1, dest := 0, src := 0 } s.dev = true) :
    krmGroupBlock h (.join uid tile g) (s.dev.at_ t) = if (s.dev.krm.role && s.dev.krm.groupId == g) = true then
      (Machine.counted h (s.dev.at_ t)).uKrm fun k => { k with joinReqs := insertUid (h.src.val, tile, uid) k.joinReqs }
      else Machine.counted h (s.dev.at_ t) := by
  rw [krmGroupBlock, receive_forUs (d := s.dev.at_ t) hus]
  simp only [← Machine.counted.eq_1, counted_at_role, counted_at_groupId]

/-- The master's answer reaches a node that waits for it. -/
theorem krmGroupBlock_answer {st n gid tile : Nat} {w : Who} (hus : forUs h { type := 10, cls := 1, dest := 0, src := 0 } s.dev = true)
    (hjoining : s.dev.krm.joining = some (w, gid, tile)) :
    krmGroupBlock h (.answer st n) (s.dev.at_ t) =
      if s.dev.krm.member then Machine.counted h (s.dev.at_ t)
      else if st = St.OK then (Machine.counted h (s.dev.at_ t)).uKrm fun k =>
        { k with member := true, role := false, groupId := gid, tile := tile, master := h.src.val, members := [], timeLock := false, lockCount := 0 }
      else if st = St.BAD_FIELD ∨ st = St.BUSY then joinEnds st n (Machine.counted h (s.dev.at_ t))
      else Machine.counted h (s.dev.at_ t) := by
  rw [krmGroupBlock, receive_forUs (d := s.dev.at_ t) hus]
  simp only [← Machine.counted.eq_1, counted_at_joining, hjoining, counted_at_member]

end

/-- Settles O58: each block is accepted through receive, and its effect is the lemma of its type. -/
theorem groupBlocks : Obligations.GroupBlocks := by
  unfold Obligations.GroupBlocks
  refine ⟨fun s h b t ⟨hon, hus, hstranger⟩ => ?_, fun s h b t e ⟨hon, hus, he⟩ ⟨hfollows, hmaster, habort⟩ => ?_,
    fun s h b t ⟨hon, hus, hfollows, hmaster, habort, hline⟩ => ?_, fun s h v x r t ⟨hon, hus⟩ => ?_, fun s h uid a p x t ⟨hon, ho⟩ => ?_,
    fun s h k x t ⟨hon, hus⟩ => ?_, fun s h lock fmt t ⟨hon, hus⟩ => ?_, fun s h l mc uid tile g t ⟨hon, hus⟩ => ?_,
    fun s h st n t w gid tile ⟨hon, hus, hjoining⟩ => ?_⟩
  case refine_1 => exact (event_on t _ hon).trans (by rw [krmLineBlock_stranger hus hstranger])
  case refine_2 =>
    refine (event_on t _ hon).trans ?_
    rw [krmLineBlock_master hus hfollows hmaster he, if_neg (by simp [habort])]
  case refine_3 =>
    refine (event_on t _ hon).trans ?_
    rw [krmLineBlock_master hus hfollows hmaster rfl, if_pos habort]
    have line : (followVhat b ((Machine.counted h (s.dev.at_ t)).at_ t)).spn.line = s.dev.spn.line := counted_at_line h t s.dev
    rw [line]
    cases held : s.dev.spn.line with
    | none => rfl
    | some l =>
      have other : l.k ≠ b.k := by simpa [held] using hline
      simp only [if_neg other]
  case refine_4 => exact (event_on t _ hon).trans (by rw [krmPaceBlock_forUs hus])
  case refine_5 => exact ⟨_, rfl, (event_on t _ hon).trans (by rw [krmDiscBlock_inOrder ho]; rfl)⟩
  case refine_6 => exact (event_on t _ hon).trans (by rw [krmConfirmBlock_forUs hus])
  case refine_7 => exact ⟨(event_on t _ hon).trans (by rw [krmGroupBlock_heartbeat hus]), (event_on t _ hon).trans (by rw [krmGroupBlock_leave hus])⟩
  case refine_8 => exact ⟨(event_on t _ hon).trans (by rw [krmGroupBlock_members hus]), (event_on t _ hon).trans (by rw [krmGroupBlock_join hus])⟩
  case refine_9 => exact (event_on t _ hon).trans (by rw [krmGroupBlock_answer hus hjoining])

end Sys2Proof.Proofs
end

section
/-! SUPPORT. The links of the Karum fabric (O59): training, signal, lanes, replays and acknowledgements, FAB_DISCOVER and CAL_DELAY. -/

namespace Sys2Proof.Proofs

open Sys2Proof Sys2Proof.Machine Sys2Proof.Laws

/-- Training completes on an enabled port that is down and has three working lanes or more (R435, R436, R458). -/
theorem krmLinkUp_eq (p : Nat) (d : Dev) {e f : Dev} (he : e = updPort p (fun x => { x with up := true, signal := true }) d)
    (hf : f = if workingLanes (kport p e) = 3 then (if (kport p e).width3 then e else useThree p e)
      else match (List.range 4).find? fun l => !(kport p e).lanes.testBit l with
        | some l => if (kport p e).spareUsed then e else useSpare p l e
        | none => e) :
    krmLinkUp p d = if portEn p d = true ∧ d.runs 15 = true ∧ portUp p d = false ∧ 3 ≤ workingLanes (kport p d) then
      askAgain (grantCredits p (raise (432 + p) f)) else d := by
  subst he hf
  unfold krmLinkUp
  refine if_congr (by simp [and_assoc]) ?_ rfl
  extract_lets e x f
  have trained : f = if workingLanes (kport p e) = 3 then (if (kport p e).width3 then e else useThree p e)
      else match (List.range 4).find? fun l => !(kport p e).lanes.testBit l with
        | some l => if (kport p e).spareUsed then e else useSpare p l e
        | none => e := rfl
  rw [trained]

/-- A port keeps its width as a lane is marked faulty. -/
theorem width3_laneFault (p l : Nat) (d : Dev) :
    (kport p (updPort p (fun x => { x with lanes := setBit x.lanes l false, laneFault := setBit x.laneFault l true }) d)).width3 = (kport p d).width3 := by
  refine at'_upd_keeps (fun x : KPort => x.width3) (fun x => ?_) d.krm.port p p {}
  rfl

/-- A lane that has failed before is out already. -/
theorem krmLaneFail_again {p l : Nat} {d : Dev} (h : (kport p d).lanes.testBit l = false) : krmLaneFail p l d = d := by
  simp [krmLaneFail, h]

/-- A lane that fails is taken out (R435, R436). -/
theorem krmLaneFail_first {p l : Nat} {d e : Dev} (h : (kport p d).lanes.testBit l = true)
    (he : e = updPort p (fun x => { x with lanes := setBit x.lanes l false, laneFault := setBit x.laneFault l true }) d) :
    krmLaneFail p l d = if portUp p d = false then e else if workingLanes (kport p e) < 3 then linkDown p e
      else if workingLanes (kport p e) = 3 then (if (kport p e).width3 then e else useThree p e)
      else if l = 4 then e else useSpare p l e := by
  have width : (kport p e).width3 = (kport p d).width3 := by rw [he, width3_laneFault]
  rw [krmLaneFail, if_pos h, width, he]
  exact if_congr (by simp [portUp]) rfl rfl

/-- The timer acknowledges what has come, and grants credit (R439, R440). -/
theorem krmAckTimer_eq (p : Nat) (d : Dev) :
    krmAckTimer p d = if portUp p d = false then d
      else if (kport p d).ackDue = true ∧ nodeAddr d ≠ 0 then
        grantCredits p (sendOn p { type := 2, cls := 1, dest := (kport p d).nbAddr, src := nodeAddr d, units := 1, payload := [BitVec.ofNat 32 (((kport p d).rxExpected + 4095) % 4096)] }
          (updPort p (fun x => { x with ackDue := false }) d))
      else grantCredits p d := by
  unfold krmAckTimer
  cases up : portUp p d with
  | false => simp
  | true =>
    simp only [if_true, Bool.and_eq_true, bne_iff_ne, Bool.true_eq_false, if_false]
    split <;> rfl

/-- A port in the middle of what FAB_DISCOVER does with it: where its link is up, the neighbour is asked and its answer kept (R442). -/
theorem fabDiscover_passes {c : MnrCmd} {up : Nat} {nb : List (Fin 4 × Nat × Nat × Fin 4)} {s : State} {t : Taken} {e : Dev}
    (hs : Starts Op.FAB_DISCOVER c s.dev t) (hlow : 0 < t.arg) (hhigh : t.arg < 16)
    (he : e = each (maskIx t.arg 4) (fun p d =>
      (fun d => if portUp p d = true then
          (match nb.find? fun x => x.1.val == p with
          | some x => setNeighbour p x.2.1 x.2.2.1 x.2.2.2.val (sendDisc p false d)
          | none => sendDisc p false d)
        else d) (if up.testBit p then krmLinkUp p d else d)) (begun Op.FAB_DISCOVER c s.dev)) :
    exec (.fabDiscover c up nb) s = .next { s with dev := finish t.who St.OK (packBits ((List.range 4).map fun p => portUp p e)) [] (raise 456 e) } := by
  subst he
  refine (act_command _ hs).trans ?_
  clear hs
  have right : firstFail [(t.arg = 0 || decide (16 ≤ t.arg), St.BAD_FIELD, 0)] = none := by
    simp [firstFail, Nat.pos_iff_ne_zero.mp hlow, Nat.not_le.mpr hhigh]
  rw [checked_of_pass right] <;> rfl

/-- Settles O59: each row acts at its instant through the lemma of its case, and the two commands pass or fail their one check. -/
theorem fabricLinks : Obligations.FabricLinks := by
  unfold Obligations.FabricLinks
  refine ⟨fun s p t hon => ?_, fun s p t ⟨hp, hm⟩ => ?_, fun s p l t ⟨hon, hout⟩ => ?_, fun s p l t e ⟨hon, hworks, he⟩ => ?_, fun s p t hon => ?_,
    fun s p t hon => ?_, fun s c up nb t ⟨hs, hlow, hhigh⟩ => ?_, fun s c up nb t ⟨hs, harg⟩ => ?_, fun s c ds t hs => ?_⟩
  case refine_1 => exact ⟨_, rfl, _, rfl, (event_on t _ hon).trans (by rw [krmLinkUp_eq p.val (s.dev.at_ t) rfl rfl]; rfl)⟩
  case refine_2 =>
    have row : krmSignalDetect p.val (s.dev.at_ t) = if portEn p.val s.dev = true ∧ portUp p.val s.dev = false then
        tapPulse (17 + p.val) (updPort p.val (fun x => { x with signal := true }) (s.dev.at_ t)) else s.dev.at_ t :=
      if_congr (by simp [portEn, portUp]; rfl) rfl rfl
    have phase : (krmSignalDetect p.val (s.dev.at_ t)).tap.phase = s.dev.tap.phase := by
      rw [row]
      split
      · exact tapPulse_phase _ _
      · rfl
    refine (event_powered t _ hp).trans ?_
    rw [sleepTest_of_not_saving (by rw [phase]; exact hm), row]
  case refine_3 => exact (event_on t _ hon).trans (by rw [krmLaneFail_again (d := s.dev.at_ t) hout])
  case refine_4 => exact (event_on t _ hon).trans (by rw [krmLaneFail_first (d := s.dev.at_ t) hworks he]; rfl)
  case refine_5 =>
    refine ⟨_, rfl, (event_on t _ hon).trans ?_⟩
    unfold krmReplayTimeout
    rw [if_congr (show _ ↔ portUp p.val s.dev = true ∧ (kport p.val s.dev).replayBuf ≠ [] by simp [portUp]; rfl) rfl rfl]
    rfl
  case refine_6 => exact (event_on t _ hon).trans (by rw [krmAckTimer_eq]; rfl)
  case refine_7 => exact ⟨_, rfl, fabDiscover_passes hs hlow hhigh rfl⟩
  case refine_8 =>
    refine (act_command _ hs).trans ?_
    have wrong : firstFail [(t.arg = 0 || decide (16 ≤ t.arg), St.BAD_FIELD, 0)] = some (St.BAD_FIELD, 0) := by
      simp [firstFail, harg]
    rw [checked_of_fail wrong]
  case refine_9 =>
    refine (act_command _ hs).trans ?_
    by_cases harg : t.arg = 0
    · rw [checked_of_pass (by simp [firstFail, harg]), if_neg (by simp [harg])]
    · rw [checked_of_fail (st := St.BAD_FIELD) (x := 0) (by simp [firstFail, harg]), if_pos harg]

end Sys2Proof.Proofs
end

section
/-! SUPPORT. Supply and temperature (O24): RESET and its end, V_WARN, and the readings of the power monitor. -/

namespace Sys2Proof.Proofs

open Sys2Proof Sys2Proof.Machine Sys2Proof.Laws

/-! RESET and BOOT (R468, R469). -/

/-- The readings of the power monitor as a write in progress is cut. -/
@[simp] theorem finishOpt_pwr (w : Option Who) (status detail : Nat) (res : List Word) (d : Dev) : (finish? w status detail res d).pwr = d.pwr := by
  cases w with
  | none => rfl
  | some w => exact finish_keeps (p := fun d => d.pwr) (fun _ _ => rfl) w status detail res d

/-- A number drawn bit by bit leaves the power manager. -/
@[simp] theorem freeBits_pwr (n : Nat) (d : Dev) : (freeBits n d).2.pwr = d.pwr := by
  induction n generalizing d with
  | zero => rfl
  | succ n ih => exact ih d.drawn

/-- A loss of power in a write leaves the power manager. -/
@[simp] theorem cutWrites_pwr (d : Dev) : (cutWrites d).pwr = d.pwr := by
  have store (d : Dev) : (abandonStore d).pwr = d.pwr := by
    unfold abandonStore
    (repeat' split) <;> simp [stopStore, commitStore]
  have load (d : Dev) : (loadEnds St.ABORTED d).pwr = d.pwr := by
    unfold loadEnds
    split <;> simp [St.ABORTED, St.OK]
  have keys (d : Dev) : (keyProvisionCut d).pwr = d.pwr := by
    unfold keyProvisionCut
    split <;> simp
  rw [cutWrites, keys, load, store]

/-- Holding the TDI engine changes the engine and raises its interrupt. -/
theorem tdiHold_keeps {α : Type} (p : Dev → α) (h : ∀ x y d, p { d with tap := x, ic := y } = p d) (ht : ∀ f d, p (d.uTdi f) = p d) (d : Dev) :
    p (tdiHold d) = p d := by
  unfold tdiHold
  (repeat' split) <;> simp [raise_keeps p h, ht]

@[simp] theorem icLevel_hs (n : Nat) (v : Bool) (d : Dev) : (icLevel n v d).hs = d.hs := by
  unfold icLevel
  split
  · rfl
  · exact icDo_keeps (·.hs) (fun _ _ _ => rfl) _ _

/-- BOOT begins with the epoch of its power-up (R468). -/
theorem beginBoot_devEpoch {d : Dev} (h : d.pwr.mode = .reset) : (beginBoot d).hs.devEpoch = (d.hs.devEpoch + 1) % 65536 := by
  have levels (d : Dev) : (mbxLevels d).hs = d.hs :=
    mbxLevels_keeps (·.hs) (icDo_keeps (·.hs) fun _ _ _ => rfl) (taprootInput_keeps (·.hs) fun _ _ _ => rfl) d
  have sync (d : Dev) : (icSync d).hs = d.hs := (levels _).trans (each_keeps (·.hs) _ (fun i d => icLevel_hs _ _ d) _ _)
  have mode (d : Dev) (h : d.pwr.mode = .reset) : (setMode .boot d).hs = d.hs := by
    have hold (d : Dev) : (tdiHold d).hs = d.hs := tdiHold_keeps (·.hs) (fun _ _ _ => rfl) (fun _ _ => rfl) d
    simp [setMode, h, raise_keeps (fun d => d.hs), postEvent, refreshPins, hold]
  rw [beginBoot, sync, mode (d.uHs _) h]
  rfl

/-- RESET ends where VIN stands, SYS_RESET_L is high and the die is cool enough. -/
theorem mayBoot_iff {d : Dev} : mayBoot d = true ↔ d.pwr.mode = .reset ∧ d.pwr.sysResetL = true ∧ d.pwr.vinPor = false ∧ d.pwr.dieTemp ≤ 2000 := by
  simp [mayBoot, and_assoc]

/-- VIN has stood for 10 ms, and nothing else holds the device in RESET. -/
theorem powerOnRelease_boots {d : Dev} (hm : d.pwr.mode = .reset) (hl : d.pwr.sysResetL = true) (ht : d.pwr.dieTemp ≤ 2000) :
    powerOnRelease d = beginBoot (d.uPwr fun p => { p with vinPor := false }) := by
  have may : mayBoot (d.uPwr fun p => { p with vinPor := false }) = true := mayBoot_iff.mpr ⟨hm, hl, rfl, ht⟩
  rw [powerOnRelease, if_pos may]

/-- SYS_RESET_L has risen, and nothing else holds the device in RESET. -/
theorem sysResetRelease_boots {d : Dev} (hm : d.pwr.mode = .reset) (hv : d.pwr.vinPor = false) (ht : d.pwr.dieTemp ≤ 2000) :
    sysResetRelease d = beginBoot (d.uPwr fun p => { p with sysResetL := true }) := by
  have may : mayBoot (d.uPwr fun p => { p with sysResetL := true }) = true := mayBoot_iff.mpr ⟨hm, rfl, hv, ht⟩
  rw [sysResetRelease, if_pos may]

/-! V_WARN (R470). -/

/-- A device that enters SAFE, or that a fault has taken there already, is in SAFE. -/
theorem enterSafe_safe {cls : Option Nat} {who : Option Who} {d : Dev} (h : d.inMode [.calibrate, .ready, .scan, .hold, .safe] = true) :
    (enterSafe cls who d).pwr.mode = .safe := by
  by_cases moves : d.inMode [.calibrate, .ready, .scan, .hold] = true
  · exact enterSafe_mode moves
  · rw [enterSafe, if_neg moves]
    cases mode : d.pwr.mode <;> simp_all [Dev.inMode]

/-- What the blocks cause of themselves leaves a device that works at work, or in SAFE. -/
theorem runMove_works {m n : Mode} (h : [Mode.calibrate, .ready, .scan, .hold].contains m = true) (hm : runMove m n = true) :
    [Mode.calibrate, .ready, .scan, .hold, .safe].contains n = true := by
  revert h hm
  cases m <;> cases n <;> decide

/-- A fall of VIN below V_WARN takes a device that works to SAFE. -/
theorem vinWarn_safe {d : Dev} (hw : d.pwr.vinWarn = false) (hm : d.inMode [.calibrate, .ready, .scan, .hold] = true) :
    (vinWarn d).pwr.mode = .safe := by
  unfold vinWarn
  have awake : ¬ (d.pwr.mode = .reset ∨ d.pwr.vinWarn = true) := by
    rintro (e | e)
    · simp [Dev.inMode, e] at hm
    · simp [hw] at e
  have warm : d.pwr.mode ≠ .sleep := fun e => by simp [Dev.inMode, e] at hm
  rw [if_neg awake]
  extract_lets d1 d2 d3
  have mode1 : d1.pwr.mode = d.pwr.mode := by simp [d1]
  have moved : runMove d.pwr.mode d2.pwr.mode = true := by
    have off : runMove d.pwr.mode (bridgesOff d1).pwr.mode = true := bridgesOff_move _ d1 (by simp [mode1, runMove])
    simpa [d2] using off
  have safe : d3.pwr.mode = .safe := by
    have works : (cutWrites d2).inMode [.calibrate, .ready, .scan, .hold, .safe] = true := by
      rw [Dev.inMode, cutWrites_pwr]
      exact runMove_works hm moved
    simpa only [d3] using enterSafe_safe (cls := none) (who := none) works
  rw [if_neg (by rw [mode1]; exact warm)]
  simp [safe]

@[simp] theorem taprootInput_pwr (i : Nat) (v : Bool) (d : Dev) : (taprootInput i v d).pwr = d.pwr := taprootInput_keeps (·.pwr) (fun _ _ _ => rfl) i v d

@[simp] theorem tapPulse_pwr (i : Nat) (d : Dev) : (tapPulse i d).pwr = d.pwr := tapPulse_keeps (·.pwr) (fun _ _ _ => rfl) i d

/-- VIN is back: the warning is over (R469). -/
theorem vinRestored_vinWarn {d : Dev} (h : d.pwr.vinWarn = true) : (vinRestored d).pwr.vinWarn = false := by
  unfold vinRestored
  rw [if_pos h]
  extract_lets d1
  have over1 : d1.pwr.vinWarn = false := by simp [d1]
  split
  · exact over1
  · simp [storePowerBack, ite_pwr, over1]

/-- The test for a wake source leaves the supply warning and the objects as the event left them. -/
theorem sleepTest_vinWarn (f : Dev → Dev) (d : Dev) : (sleepTest f d).pwr.vinWarn = (f d).pwr.vinWarn ∧ (sleepTest f d).objs = (f d).objs := by
  unfold sleepTest
  extract_lets e
  split
  · simp [sleepAborted, e]
  · exact ⟨rfl, rfl⟩

/-! The power monitor (R477). -/

/-- A die above 125 °C takes the device to RESET with its reading (R468). -/
theorem pwrMonitorTick_overheats {vin : Nat} {temp : Int} {d : Dev} (hm : d.pwr.mode ≠ .reset) (ht : 2000 < temp) :
    pwrMonitorTick vin temp d = enterReset 3 (cutWrites (d.uPwr fun p => { p with vinMv := vin, dieTemp := temp })) := by
  unfold pwrMonitorTick
  extract_lets e hot was e1
  have mode : e.pwr.mode ≠ .reset := hm
  rw [if_neg mode, if_pos ht]

/-- A die at or below TEMP_ALARM ends a fault of class 13. -/
theorem pwrMonitorTick_cool {vin : Nat} {temp : Int} {d : Dev} (hm : d.pwr.mode ≠ .reset) (ht : temp ≤ 2000)
    (ha : temp ≤ ((16 * cfg Obj.PWR_CTL.TEMP_ALARM d : Nat) : Int)) :
    pwrMonitorTick vin temp d = faultClear 13 (taprootInput 21 false (d.uPwr fun p => { p with vinMv := vin, dieTemp := temp })) := by
  unfold pwrMonitorTick
  extract_lets e hot was e1
  have mode : e.pwr.mode ≠ .reset := hm
  have cool : hot = false := decide_eq_false (not_lt.mpr ha)
  rw [if_neg mode, if_neg (not_lt.mpr ht), cool]
  rfl

end Sys2Proof.Proofs
end

section
/-! SUPPORT. What the scan path's state does not tell (O24, O27): quantities that a change of mode, lamps, tables and open lines leave alone. -/

namespace Sys2Proof.Proofs

open Sys2Proof Sys2Proof.Machine Sys2Proof.Laws

/-- A quantity that nothing of the scan path, the lamps, the mode and the interrupts decides. -/
structure Apart {α : Type} (p : Dev → α) : Prop where
  ic : ∀ x y d, p { d with tap := x, ic := y } = p d := by exact fun _ _ _ => rfl
  lines : ∀ l d, p { d with lines := l } = p d := by exact fun _ _ => rfl
  objs : ∀ id ws d, p (setObj id ws d) = p d := by exact fun _ _ _ => rfl
  acq : ∀ f d, p (Dev.uAcq f d) = p d := by exact fun _ _ => rfl
  sdrv : ∀ f d, p (Dev.uSdrv f d) = p d := by exact fun _ _ => rfl
  tdi : ∀ f d, p (Dev.uTdi f d) = p d := by exact fun _ _ => rfl
  hdl : ∀ f d, p (Dev.uHdl f d) = p d := by exact fun _ _ => rfl
  stat : ∀ f d, p (Dev.uStat f d) = p d := by exact fun _ _ => rfl
  jlk : ∀ f d, p (Dev.uJlk f d) = p d := by exact fun _ _ => rfl
  pace : ∀ f d, p (Dev.uPace f d) = p d := by exact fun _ _ => rfl
  ilm : ∀ f d, p (Dev.uIlm f d) = p d := by exact fun _ _ => rfl
  pwr : ∀ f d, p (Dev.uPwr f d) = p d := by exact fun _ _ => rfl
  event : ∀ a b c e l x d, p (postEvent a b c e l x d) = p d := by exact fun _ _ _ _ _ _ _ => rfl

namespace Apart

variable {α : Type} {p : Dev → α} (h : Apart p)
include h

theorem raise (n : Nat) (d : Dev) : p (raise n d) = p d := raise_keeps p h.ic n d

theorem markLine (k fl : Nat) (d : Dev) : p (markLine k fl d) = p d := by
  unfold Machine.markLine updStarted updLine
  split
  · rfl
  · exact h.lines _ d

/-- What ends of a channel's lines. -/
theorem endTally (c k : Nat) (d : Dev) : p (endTally c k d) = p d := by
  simp only [Machine.endTally]
  split
  · rfl
  · simp [apply_ite p, h.raise, updCh, h.acq]

theorem endCompare (i k : Nat) (d : Dev) : p (endCompare i k d) = p d := by
  unfold Machine.endCompare
  split
  · rfl
  · simp [apply_ite p, h.raise, h.markLine, updChk, h.acq]

theorem endAllLines (d : Dev) : p (endAllLines d) = p d := by
  have channel (n c : Nat) (d : Dev) : p (endLines n c d) = p d :=
    (each_keeps p _ (fun i d => each_keeps p _ (h.endCompare i) _ d) _ _).trans (each_keeps p _ (h.endTally c) _ d)
  exact each_keeps p _ (channel _) _ d

theorem restartIdle (d : Dev) : p (restartIdle d) = p d := h.sdrv _ d

theorem refreshPins (d : Dev) : p (refreshPins d) = p d := h.pace _ d

theorem linesMissing (f : Nat) (d : Dev) : p (linesMissing f d) = p d := h.pace _ d

theorem lampsOff (d : Dev) : p (lampsOff d) = p d := by
  have headroom (s : Nat) (d : Dev) : p (headroomEnd s d) = p d := by simp [headroomEnd, apply_ite p, updStr, h.ilm, h.pwr]
  unfold Machine.lampsOff
  rw [h.ilm]
  refine each_keeps p _ (fun s d => ?_) _ d
  extract_lets d1 d2 blanks until_
  have ended : p d2 = p d := by simp [d2, apply_ite p, strobeEdge, h.acq, d1, headroom]
  exact (h.ilm _ d2).trans ended

theorem tablesEnded (d : Dev) : p (tablesEnded d) = p d := by
  have ctl (id : Nat) (ws : List Word) (d : Dev) : p (setCtl id ws d) = p d := by simp [setCtl, apply_ite p, h.restartIdle, h.objs]
  have due (d : Dev) : p (applyDueCtl d) = p d := (each_keeps p _ (fun _ d => ctl _ _ d) _ _).trans (h.sdrv _ d)
  simp [Machine.tablesEnded, apply_ite p, outputsIdle, outputsSafe, h.sdrv, due]

theorem hdlFixResume (d : Dev) : p (hdlFixResume d) = p d := by
  have drains (d : Dev) : p (drainEnd d) = p d := by simp [drainEnd, apply_ite p, h.hdl]
  unfold Machine.hdlFixResume
  extract_lets r d1 kept d2 d3 d4 d5 cut d6 cutL
  have missing : p d1 = p d := by
    simp only [d1]
    split
    · rfl
    · exact each_keeps p _ h.linesMissing _ d
  have trimmed : p d6 = p d := (h.acq _ d5).trans ((h.stat _ d4).trans ((h.tdi _ d3).trans ((h.hdl _ d2).trans ((h.lines _ d1).trans missing))))
  exact (drains _).trans ((h.jlk _ d6).trans trimmed)

/-- A change of mode to another than SCAN. -/
theorem setMode {m : Mode} (hm : m ≠ .scan) (d : Dev) : p (setMode m d) = p d := by
  unfold Machine.setMode
  split
  · rfl
  · extract_lets was d1 d2 d3
    have held : p d1 = p d := (tdiHold_keeps p h.ic h.tdi _).trans (h.pwr _ d)
    have ended : p d2 = p d1 := by
      simp only [d2]
      split
      · exact h.endAllLines d1
      · rfl
    have idles : p d3 = p d2 := by
      simp only [d3]
      split
      · exact h.restartIdle d2
      · rfl
    exact (h.event _ _ _ _ _ _ _).trans ((h.raise _ _).trans ((h.refreshPins d3).trans (idles.trans (ended.trans held))))

/-- A stop of the pacing unit, where it is apart from the axes too. -/
theorem paceStop (ha : ∀ n f d, p (updAxis n f d) = p d) (cause : Nat) (d : Dev) : p (paceStop cause d) = p d := by
  unfold Machine.paceStop
  split
  · extract_lets d1 d2 axis d3 d4
    have still : p d2 = p d := (h.lampsOff d1).trans ((h.hdlFixResume _).trans (h.setMode (by decide) d))
    have brakes (a : Nat) (d : Dev) : p (brakeAxis a d) = p d := by
      unfold brakeAxis
      split
      · rfl
      · exact ha _ _ d
    exact (h.refreshPins _).trans ((h.raise _ _).trans ((h.tablesEnded d4).trans ((brakes _ d3).trans ((h.pace _ d2).trans still))))
  · rfl

end Apart

/-- The motor block is apart from the scan path. -/
theorem apart_shu : Apart (fun d => d.shu) := {}

end Sys2Proof.Proofs
end

section
/-! SUPPORT. Stage faults (O24): what leaves the axes alone, and that a fault keeps a bridge off and a queue empty. -/

namespace Sys2Proof.Proofs

open Sys2Proof Sys2Proof.Machine Sys2Proof.Laws

/-! What leaves the motor block alone. -/

@[simp] theorem raise_shu (n : Nat) (d : Dev) : (raise n d).shu = d.shu := apart_shu.raise n d

@[simp] theorem refreshPins_shu (d : Dev) : (refreshPins d).shu = d.shu := apart_shu.refreshPins d

@[simp] theorem linesMissing_shu (f : Nat) (d : Dev) : (linesMissing f d).shu = d.shu := apart_shu.linesMissing f d

@[simp] theorem postEvent_shu (a b c e : Nat) (l : Option Nat) (x : List Nat) (d : Dev) : (postEvent a b c e l x d).shu = d.shu :=
  apart_shu.event a b c e l x d

@[simp] theorem lampsOff_shu (d : Dev) : (lampsOff d).shu = d.shu := apart_shu.lampsOff d

@[simp] theorem tablesEnded_shu (d : Dev) : (tablesEnded d).shu = d.shu := apart_shu.tablesEnded d

@[simp] theorem hdlFixResume_shu (d : Dev) : (hdlFixResume d).shu = d.shu := apart_shu.hdlFixResume d

/-- A change of mode to another than SCAN leaves the motor block. -/
theorem setMode_shu {m : Mode} (h : m ≠ .scan) (d : Dev) : (setMode m d).shu = d.shu := apart_shu.setMode h d

@[simp] theorem finish_shu (w : Who) (status detail : Nat) (res : List Word) (d : Dev) : (finish w status detail res d).shu = d.shu :=
  finish_keeps (p := fun d => d.shu) (fun _ _ => rfl) w status detail res d

@[simp] theorem finishOpt_shu (w : Option Who) (status detail : Nat) (res : List Word) (d : Dev) : (finish? w status detail res d).shu = d.shu := by
  cases w with
  | none => rfl
  | some w => exact finish_shu w status detail res d

theorem ite_shu (c : Prop) [Decidable c] (d e : Dev) : (if c then d else e).shu = if c then d.shu else e.shu := apply_ite (·.shu) c d e

@[simp] theorem calAbort_shu (d : Dev) : (calAbort d).shu = d.shu := by
  unfold calAbort
  split
  · rfl
  · simp [ite_shu, restartIdle]

@[simp] theorem dropTrans_shu (d : Dev) : (dropTrans d).shu = d.shu := by
  unfold dropTrans
  extract_lets d1 d2 d3 d4
  have trans : d1.shu = d.shu := by
    simp only [d1]
    split <;> simp
  simp [d4, d3, d2, trans, ite_shu]

/-! What a stop, a stage fault or an entry into SAFE leaves of a stage. -/

/-- An item of a list in which f acts on one item is what it was, or what f makes of it. -/
theorem at'_upd_or {α : Type} (i n : Nat) (f : α → α) (d : α) (l : List α) : at' (upd l i f) n d = at' l n d ∨ at' (upd l i f) n d = f (at' l n d) := by
  induction l generalizing i n with
  | nil => exact .inl rfl
  | cons x xs ih =>
    cases i with
    | zero => cases n with
      | zero => exact .inr rfl
      | succ n => exact .inl rfl
    | succ i => cases n with
      | zero => exact .inl rfl
      | succ n => exact ih i n

/-- The bridge of axis n stays as it is, and its queue gets no moves. -/
def stageKept (n : Nat) (d e : Dev) : Prop :=
  (axisAt n e).bridge = (axisAt n d).bridge ∧ ((axisAt n d).q = [] → (axisAt n e).q = [])

namespace stageKept

theorem refl {n : Nat} {d : Dev} : stageKept n d d := ⟨rfl, id⟩

theorem trans {n : Nat} {d e f : Dev} (h : stageKept n d e) (h' : stageKept n e f) : stageKept n d f :=
  ⟨h'.1.trans h.1, fun empty => h'.2 (h.2 empty)⟩

/-- What leaves the motor block keeps every stage. -/
theorem of_shu {n : Nat} {d e : Dev} (h : e.shu = d.shu) : stageKept n d e := by
  simp [stageKept, axisAt, h]

/-- A choice between two devices that keep the stage. -/
theorem ite {n : Nat} {c : Prop} [Decidable c] {d e f : Dev} (he : stageKept n d e) (hf : stageKept n d f) : stageKept n d (if c then e else f) := by
  split
  · exact he
  · exact hf

theorem each {α : Type} {n : Nat} {f : α → Dev → Dev} (h : ∀ x d, stageKept n d (f x d)) (l : List α) (d : Dev) : stageKept n d (each l f d) := by
  induction l generalizing d with
  | nil => exact refl
  | cons x xs ih => exact (h x d).trans (ih (f x d))

/-- An update of an axis that keeps its bridge and puts no move into an empty queue. -/
theorem updAxis {i n : Nat} {f : Axis → Axis} (d : Dev)
    (h : ∀ a, (f a).bridge = a.bridge ∧ (a.q = [] → (f a).q = []) := by exact fun _ => ⟨rfl, id⟩) : stageKept n d (updAxis i f d) := by
  obtain same | acts : axisAt n (Machine.updAxis i f d) = axisAt n d ∨ axisAt n (Machine.updAxis i f d) = f (axisAt n d) := at'_upd_or i n f {} d.shu.ax
  · simp [stageKept, same]
  · simpa [stageKept, acts] using h (axisAt n d)

end stageKept

section
variable (n : Nat)

/-- The end of a move puts none into a queue. -/
theorem stageKept_endMove (i : Nat) (m : Move) (status : Nat) (d : Dev) : stageKept n d (endMove i m status d) := by
  unfold endMove
  extract_lets done d1 d2
  have sets : stageKept n d d1 := .updAxis d
  have counts : stageKept n d d2 := sets.trans (.ite (.of_shu (raise_shu _ _)) .refl)
  split
  · exact counts.trans (.of_shu (finishOpt_shu _ _ _ _ _))
  · exact counts

/-- A linear move that ends leaves queues alone. -/
theorem stageKept_endLinear (l status : Nat) (d : Dev) : stageKept n d (endLinear l status d) := by
  unfold endLinear
  split
  · exact .refl
  · exact (show stageKept n d (d.uShu _) from .refl).trans (.of_shu (finishOpt_shu _ _ _ _ _))

/-- What is left of the queue of an axis, before its moves are answered. -/
def queueCut (i : Nat) (keep : Bool) (d : Dev) : Dev := updAxis i (fun a => { a with q := if keep then a.q.take 1 else [] }) d

/-- Answering the moves that a queue has lost puts none into any queue. -/
theorem stageKept_answered (i status : Nat) (keep : Bool) (d : Dev) : stageKept n (queueCut i keep d) (dropQueue i status keep d) := by
  refine .each (fun m d => ?_) _ _
  split
  · exact stageKept_endMove n _ _ _ _
  · refine (stageKept.each (fun j d => .updAxis d fun b => ?_) _ _).trans (stageKept_endLinear n _ _ _)
    split <;> exact ⟨rfl, fun empty => by simp [empty]⟩

/-- Moves that end leave no more in any queue. -/
theorem stageKept_dropQueue (i status : Nat) (keep : Bool) (d : Dev) : stageKept n d (dropQueue i status keep d) :=
  (stageKept.updAxis d fun a => ⟨rfl, fun empty => by simp [empty]⟩ : stageKept n d (queueCut i keep d)).trans (stageKept_answered n i status keep d)

/-- Interrupts of emptied axes leave the stages. -/
theorem stageKept_emptied (was : Nat → Axis) (d : Dev) : stageKept n d (each (List.range 4) (fun i d => emptied i (was i) d) d) :=
  .each (fun _ _ => .ite (.of_shu (raise_shu _ _)) .refl) _ _

theorem stageKept_dropMoves (i status : Nat) (keep : Bool) (d : Dev) : stageKept n d (dropMoves i status keep d) :=
  (stageKept_dropQueue n i status keep d).trans (stageKept_emptied n _ _)

/-- A stop keeps bridges, and moves end with it. -/
theorem stageKept_stopAxis (i status : Nat) (d : Dev) : stageKept n d (stopAxis i status d) := by
  unfold stopAxis stopWith
  exact (stageKept.updAxis d).trans (stageKept_dropMoves n i status false _)

theorem stageKept_stopAllAxes (d : Dev) : stageKept n d (stopAllAxes d) := by
  refine .each (fun i d => (stageKept_stopAxis n i St.ABORTED d).trans (.ite ?_ .refl)) _ d
  exact .ite (.updAxis _) .refl

theorem stageKept_brakeAxis (a : Nat) (d : Dev) : stageKept n d (brakeAxis a d) := by
  unfold brakeAxis
  split
  · exact .refl
  · exact .updAxis d

/-- A stop of the pacing unit brakes its axis and no more. -/
theorem stageKept_paceStop (cause : Nat) (d : Dev) : stageKept n d (paceStop cause d) := by
  unfold paceStop
  split
  · extract_lets d1 d2 axis d3 d4
    have still : stageKept n d d3 := .of_shu (by simp [d3, d2, d1, setMode_shu])
    have brakes : stageKept n d3 d4 := stageKept_brakeAxis n _ d3
    exact (still.trans brakes).trans (.of_shu (by simp))
  · exact .refl

/-- An entry into SAFE stops every axis and turns no bridge on. -/
theorem stageKept_enterSafe (cls : Option Nat) (who : Option Who) (d : Dev) : stageKept n d (enterSafe cls who d) := by
  unfold enterSafe
  split
  · extract_lets from_ d1 d2 d3 d4 d5 d6 d7 d8 d9 d10
    have still : stageKept n d (paceDiscard d5) := by
      refine .of_shu ?_
      have shu3 : d3.shu = d.shu := by simp [d3, d2, d1, ite_shu]
      simp [d5, d4, setMode_shu, shu3, paceDiscard]
    have ramp : stageKept n d6 d7 := by
      simp only [d7]
      split
      · exact .ite (.updAxis _) .refl
      · exact .refl
    have rest : d10.shu = d7.shu := by simp [d10, d9, d8, ite_shu]
    exact ((still.trans (stageKept_stopAllAxes n _)).trans ramp).trans (.of_shu rest)
  · exact .refl

/-- A fault of any class turns no bridge on and queues no move. -/
theorem stageKept_faultRaise (c source : Nat) (line : Option Nat) (status : Nat) (d : Dev) : stageKept n d (faultRaise c source line status d) := by
  unfold faultRaise
  extract_lets act f d1 d2
  have listed : stageKept n d d2 := .of_shu (by simp [d2, d1])
  clear_value d2 act
  split
  · exact listed.trans (stageKept_paceStop n _ _)
  · exact listed.trans (stageKept_enterSafe n _ _ _)
  · exact listed

theorem stageKept_scanFault (src : Nat) (d : Dev) : stageKept n d (scanFault src d) := by
  have runUp (cause : Nat) (d : Dev) : stageKept n d (abandonRunUp cause d) :=
    .ite (stageKept.trans (stageKept_brakeAxis n _ (d.uPace _)) (.of_shu (refreshPins_shu _))) .refl
  have source (first : Nat) (d : Dev) : stageKept n d (paceSourceFault first d) := .ite (.of_shu (linesMissing_shu _ _)) (runUp 4 (d.uPace _))
  unfold scanFault
  refine .ite .refl ?_
  extract_lets first on d1 d2
  have raised : stageKept n d d2 := stageKept_faultRaise n _ _ _ _ d1
  exact .ite (raised.trans (source _ _)) raised

theorem stageKept_stopsDone (d : Dev) : stageKept n d (stopsDone d) :=
  (show stageKept n d (d.uShu _) from .refl).trans (.each (fun _ _ => .of_shu (finish_shu _ _ _ _ _)) _ _)

end

/-! Stage faults (R358). -/

/-- A quantity that f sets, and that items beyond the end of a list have, has that value in the item that f acts on. -/
theorem at'_upd_sets {α β : Type} (q : α → β) {f : α → α} {v : β} {d : α} (h : ∀ x, q (f x) = v) (hd : q d = v) (l : List α) (n : Nat) :
    q (at' (upd l n f) n d) = v := by
  induction l generalizing n with
  | nil => exact hd
  | cons x xs ih =>
    cases n with
    | zero => exact h x
    | succ n => exact ih n

/-- A fault that turns the bridge off leaves it off. -/
theorem faultBridgeOff_bridge (n : Nat) (d : Dev) : (axisAt n (faultBridgeOff n d)).bridge = false := by
  have off : (axisAt n (bridgeOff n d)).bridge = false := at'_upd_sets (fun a : Axis => a.bridge) (fun _ => by rfl) rfl d.shu.ax n
  have kept : stageKept n (bridgeOff n d) (faultBridgeOff n d) := .ite (stageKept_scanFault n _ _) .refl
  exact kept.1.trans off

/-- Dropping the moves of an axis empties its queue. -/
theorem dropMoves_q (n status : Nat) (d : Dev) : (axisAt n (dropMoves n status false d)).q = [] := by
  have cut : (axisAt n (queueCut n false d)).q = [] := at'_upd_sets (fun a : Axis => a.q) (fun _ => by rfl) rfl d.shu.ax n
  exact ((stageKept_answered n n status false d).trans (stageKept_emptied n _ _)).2 cut

/-- The first report of a fault that turns the bridge off, and of one that stops the axis. -/
theorem stageFault_first {n b : Nat} {d : Dev} (h : (axisAt n d).fault.testBit b = false) (off : Bool) :
    stageFault n b off d = stopsDone (faultRaise 7 (356 + n) none St.HW_FAULT
      (if off then halted n (axisAt n (raise (356 + n) (updAxis n (fun a => { a with fault := setBit a.fault b true }) d)))
          (dropMoves n St.HW_FAULT false (faultBridgeOff n (raise (356 + n) (updAxis n (fun a => { a with fault := setBit a.fault b true }) d))))
        else stopAxis n St.HW_FAULT (raise (356 + n) (updAxis n (fun a => { a with fault := setBit a.fault b true }) d)))) := by
  rw [stageFault, if_neg (by simp [h])]

/-- After a fault that turns the bridge off, it is off and no move is left. -/
theorem stageFault_off {n b : Nat} {d : Dev} (h : (axisAt n d).fault.testBit b = false) :
    (axisAt n (stageFault n b true d)).bridge = false ∧ (axisAt n (stageFault n b true d)).q = [] := by
  rw [stageFault_first h, if_pos rfl]
  generalize raise (356 + n) (updAxis n (fun a => { a with fault := setBit a.fault b true }) d) = e
  have drops := stageKept_dropMoves n n St.HW_FAULT false (faultBridgeOff n e)
  have rings : stageKept n (dropMoves n St.HW_FAULT false (faultBridgeOff n e)) (halted n (axisAt n e) (dropMoves n St.HW_FAULT false (faultBridgeOff n e))) :=
    .ite (.of_shu (raise_shu _ _)) .refl
  have ends := (rings.trans (stageKept_faultRaise n 7 (356 + n) none St.HW_FAULT _)).trans (stageKept_stopsDone n _)
  exact ⟨ends.1.trans (drops.1.trans (faultBridgeOff_bridge n e)), ends.2 (dropMoves_q n _ _)⟩

/-- A low VIN meets each bridge that is on. -/
theorem stageVinLow_eq (d : Dev) : stageVinLow d =
    each [0, 1] (fun n d => if (axisAt n d).bridge then stageFault n 3 true (updAxis n (fun a => { a with cause := setBit a.cause 3 true }) d) else d) d := rfl

/-- Settles O24: each row acts at its instant through the lemma of its case. -/
theorem resetsAndSupply : Obligations.ResetsAndSupply := by
  unfold Obligations.ResetsAndSupply
  refine ⟨fun s => ?_, fun s => ?_, fun s ⟨hm, hl, ht⟩ => ?_, fun s ⟨hm, hv, ht⟩ => ?_, fun s ⟨hm, hl⟩ => ?_, fun s t ⟨hw, hm⟩ => ?_,
    fun s t ⟨hw, hm⟩ => ?_, fun s vin temp t ⟨hm, ht⟩ => ?_, fun s vin temp t ⟨hm, ht, hp, ha⟩ => ?_, fun s n t hon => ?_,
    fun s t hon => (event_on t _ hon).trans (by rw [stageVinLow_eq]), fun d n b ⟨hf, hn⟩ => ?_, fun s n v t hc => ?_⟩
  case refine_1 => exact ⟨vinPorFall s.dev, act_runs _ rfl, rfl, rfl, by simp [vinPorFall, enterReset], rfl, rfl, by simp⟩
  case refine_2 => exact ⟨sysReset s.dev, act_runs _ rfl, rfl, rfl, by simp [sysReset, enterReset], rfl, rfl, by simp [sysReset]⟩
  case refine_3 =>
    refine ⟨beginBoot (s.dev.uPwr fun p => { p with vinPor := false }), (act_runs _ rfl).trans ?_, beginBoot_mode _, beginBoot_devEpoch hm, by simp, by simp⟩
    rw [powerOnRelease_boots hm hl ht]
  case refine_4 =>
    refine ⟨beginBoot (s.dev.uPwr fun p => { p with sysResetL := true }), (act_runs _ rfl).trans ?_, beginBoot_mode _, beginBoot_devEpoch hm, by simp, by simp⟩
    rw [sysResetRelease_boots hm hv ht]
  case refine_5 =>
    refine (act_runs _ rfl).trans ?_
    have held : mayBoot (s.dev.uPwr fun p => { p with vinPor := false }) = false := by simp [mayBoot, hl]
    rw [powerOnRelease, held]
    rfl
  case refine_6 =>
    have works : (s.dev.at_ t).inMode [.calibrate, .ready, .scan, .hold] = true := by
      obtain e | e | e | e := hm <;> simp [Dev.inMode, e]
    have awake : s.dev.pwr.mode ≠ .reset := by
      obtain e | e | e | e := hm <;> simp [e]
    exact ⟨vinWarn (s.dev.at_ t), event_always t _ awake, vinWarn_safe (d := s.dev.at_ t) hw works, by simp⟩
  case refine_7 =>
    obtain ⟨warn, objs⟩ := sleepTest_vinWarn vinRestored (s.dev.at_ t)
    exact ⟨sleepTest vinRestored (s.dev.at_ t), event_always t _ hm, warn.trans (vinRestored_vinWarn (d := s.dev.at_ t) hw),
      by simp, objs.trans (by simp)⟩
  case refine_8 =>
    have tick := pwrMonitorTick_overheats (vin := vin) (d := s.dev.at_ t) hm ht
    refine ⟨pwrMonitorTick vin temp (s.dev.at_ t), (event_always t _ hm).trans ?_, ?_⟩
    · rw [sleepTest_of_not_saving (by rw [tick]; simp [enterReset])]
    · rw [tick]
      simp [enterReset]
  case refine_9 =>
    have tick := pwrMonitorTick_cool (vin := vin) (d := s.dev.at_ t) hm ht ha
    refine (event_always t _ hm).trans ?_
    rw [sleepTest_of_not_saving (by rw [tick]; simpa [faultClear] using hp), tick]
  case refine_10 => exact ⟨event_on t _ hon, event_on t _ hon, event_on t _ hon, event_on t _ hon⟩
  case refine_11 => exact ⟨⟨_, rfl, stageFault_first hf true, stageFault_first hf false⟩, fun _ => stageFault_off hf⟩
  case refine_12 =>
    have awake : s.dev.pwr.mode ≠ .reset := fun e => by simp [shuClocked, Dev.inMode, e] at hc
    refine (event_runs t _ hc awake).trans ?_
    by_cases stage : n.val < 2
    · rw [shuTempMeasure, if_neg (Nat.not_le.mpr stage), if_pos stage]
      norm_num
    · rw [shuTempMeasure, if_pos (Nat.not_lt.mp stage), if_neg stage]

end Sys2Proof.Proofs
end

section
/-! SUPPORT. Domain resets and the link (O27): DOMAIN_RESET and its end, FAULT_LIST, a reset from the link, and the link's power states. -/

namespace Sys2Proof.Proofs

open Sys2Proof Sys2Proof.Machine Sys2Proof.Laws

/-! What messages and completion queues leave alone. -/

/-- A quantity that no message to the host and no completion queue decides. -/
structure LinkApart {α : Type} (p : Dev → α) : Prop where
  ic : ∀ x y d, p { d with tap := x, ic := y } = p d := by exact fun _ _ _ => rfl
  mem : ∀ m d, p { d with hostMem := m } = p d := by exact fun _ _ => rfl
  ring : ∀ n f d, p (updRing n f d) = p d := by exact fun _ _ _ => rfl
  cq : ∀ q f d, p (updCq q f d) = p d := by exact fun _ _ _ => rfl
  pba : ∀ (v : Hs → Nat) d, p (d.uHs fun h => { h with pba := v h }) = p d := by exact fun _ _ => rfl
  waiting : ∀ (v : Hs → List Nat) d, p (d.uHs fun h => { h with waiting := v h }) = p d := by exact fun _ _ => rfl
  wakeL : ∀ (v : Hs → Nat) d, p (d.uHs fun h => { h with wakeL := true, wakes := v h }) = p d := by exact fun _ _ => rfl
  pme : ∀ (v : Hs → Nat) d, p (d.uHs fun h => { h with pme := true, wakes := v h }) = p d := by exact fun _ _ => rfl
  l1Exit : ∀ d, p (d.uHs fun h => { h with l1Exit := true, clkreq := true }) = p d := by exact fun _ => rfl

namespace LinkApart

variable {α : Type} {p : Dev → α} (h : LinkApart p)
include h

theorem raise (n : Nat) (d : Dev) : p (raise n d) = p d := raise_keeps p h.ic n d

theorem writeBytes (a : Nat) (bs : List Byte) (d : Dev) : p (writeBytes a bs d) = p d := by
  induction bs generalizing a d with
  | nil => rfl
  | cons b bs ih => exact (ih (a + 1) (writeByte a b d)).trans (h.mem _ d)

theorem sendMsg (v : Nat) (d : Dev) : p (sendMsg v d) = p d := by
  unfold Machine.sendMsg
  extract_lets e
  split
  · exact h.pba _ d
  · exact h.writeBytes _ _ d

/-- A message goes, waits, or asks for a wake (R296). -/
theorem requestMsg (v : Nat) (d : Dev) : p (requestMsg v d) = p d := by
  unfold Machine.requestMsg
  extract_lets waits
  have noted : p waits = p d := h.waiting _ d
  split_ifs
  · exact h.sendMsg v d
  · exact (h.raise _ _).trans ((h.wakeL _ waits).trans noted)
  · exact (h.raise _ _).trans ((h.pme _ waits).trans noted)
  · exact (h.l1Exit waits).trans noted
  · exact noted

theorem writeEntry (q : Nat) (e : CqEntry) (d : Dev) : p (writeEntry q e d) = p d := by
  unfold Machine.writeEntry
  extract_lets x slot phase d1 d2
  have told : p d2 = p d := (h.cq _ _ d1).trans (h.writeBytes _ _ d)
  split
  · exact (h.requestMsg _ _).trans ((h.cq _ _ d2).trans told)
  · exact told

theorem postEntries (f n : Nat) (d : Dev) : p (postEntries f n d) = p d := by
  refine postEntries_keeps p f n d h.writeEntry h.ring h.cq h.raise fun n e d => ?_
  unfold entryWritten
  split
  · exact (h.raise _ _).trans (h.ring _ _ d)
  · rfl

/-- The rings that go on with a completion queue. -/
theorem cqDrain (q : Nat) (d : Dev) : p (cqDrain q d) = p d := by
  have takes (f n : Nat) (d : Dev) : p (takeDesc f n d) = p d :=
    takeDesc_keeps p f n d h.ring h.raise fun n _ d => (h.postEntries 4 n _).trans (h.ring _ _ d)
  refine (each_keeps p _ (fun n d => ?_) _ _).trans (h.cq _ _ d)
  split
  · exact (takes _ _ _).trans (h.postEntries _ _ d)
  · rfl

theorem sendWaitingMsgs (d : Dev) : p (sendWaitingMsgs d) = p d := by
  unfold Machine.sendWaitingMsgs
  split
  · exact (each_keeps p _ h.sendMsg _ _).trans (h.waiting _ d)
  · rfl

/-- The level sources follow the mailboxes. -/
theorem mbxLevels (d : Dev) : p (mbxLevels d) = p d := mbxLevels_keeps p (icDo_keeps p h.ic) (taprootInput_keeps p h.ic) d

/-- The mailboxes whose receiver is reset lose what is posted (R313). -/
theorem discardTo (hm : ∀ f d, p (Dev.uMbx f d) = p d) (e : Nat) (d : Dev) : p (discardTo e d) = p d := by
  have h2d (m : Nat) (d : Dev) : p (discardH2d m d) = p d := by
    unfold discardH2d emptiedBit
    extract_lets was d1
    have noted : p d1 = p d := (hm _ _).trans ((hm _ _).trans (hm _ d))
    split
    · exact (h.requestMsg _ d1).trans noted
    · exact noted
  have d2h (m : Nat) (d : Dev) : p (discardD2h m d) = p d := by
    rw [discardD2h, ackRaise, updD2h, hm, hm]
  have mbi (i : Nat) (d : Dev) : p (discardMbi i d) = p d := by
    rw [discardMbi, mbiEmpty, noteSet, updMbi, hm, hm, hm]
  exact (h.mbxLevels _).trans ((each_keeps p _ mbi _ _).trans ((each_keeps p _ d2h _ _).trans (each_keeps p _ h2d _ d)))

end LinkApart

/-! A reset from the link (R297, R313, R327, R480). -/

/-- HOST_EPOCH, and the session with its tags. -/
def sessionView (d : Dev) : Nat × Bool × List TagRec := (d.hs.hostEpoch, d.mnr.open_, d.mnr.tags)

theorem linkApart_sessionView : LinkApart sessionView := {}

theorem apart_sessionView : Apart sessionView := {
  event := fun a b c e l x d => by
    simp only [sessionView, postEvent, uMnr_hs, uMnr_mnr]
    split <;> rfl }

/-- A reset of the HOST domain advances HOST_EPOCH and ends the session with no tag outstanding. -/
theorem sessionView_hostReset (d : Dev) : sessionView (hostReset d) = ((d.hs.hostEpoch + 1) % 65536, false, []) := by
  unfold hostReset
  extract_lets d1 d2 d3
  have epoch : (raise 335 d).hs.hostEpoch = d.hs.hostEpoch := raise_keeps (·.hs.hostEpoch) (fun _ _ _ => rfl) 335 d
  have ended : sessionView d1 = (d.hs.hostEpoch, false, []) :=
    (linkApart_sessionView.discardTo (fun _ _ => rfl) hostEnd _).trans (by simp [sessionView, sessionLost, epoch])
  have advanced : sessionView d2 = ((d.hs.hostEpoch + 1) % 65536, false, []) := by
    obtain ⟨same, closed, free⟩ : d1.hs.hostEpoch = d.hs.hostEpoch ∧ d1.mnr.open_ = false ∧ d1.mnr.tags = [] := by simpa [sessionView] using ended
    simp [sessionView, d2, same, closed, free, wrap16]
  have drained : sessionView d3 = sessionView d2 := by
    refine each_keeps sessionView _ (fun q d => ?_) _ d2
    split
    · exact evalQueue_keeps sessionView (fun _ _ _ => rfl) (fun _ _ => rfl) (fun _ _ _ => rfl) q _
    · rfl
  split
  · exact (apart_sessionView.paceStop (fun _ _ _ => rfl) 6 d3).trans (drained.trans advanced)
  · exact drained.trans advanced

/-- A retention sleep holds the reset from the link back (Table 20.14). -/
theorem pcieLinkReset_sleep {d : Dev} (hm : d.pwr.mode = .sleep) (hk : d.ic.slpKind = false) :
    pcieLinkReset d = d.uPwr fun p => { p with linkResetDue := true } := by
  simp [pcieLinkReset, hm, hk]

/-- In the modes that run, a reset from the link resets the HOST domain. -/
theorem pcieLinkReset_runs {d : Dev} (hm : d.pwr.mode ≠ .reset) (hs : d.pwr.mode ≠ .sleep) : pcieLinkReset d = hostReset d := by
  unfold pcieLinkReset
  split
  · contradiction
  · contradiction
  · rfl

/-! The link (R296, R297). -/

/-- What a change of the link's power state gives the host stream: the link's state, speed, width and maximum payload; and what it leaves. -/
def linkView (d : Dev) : LinkPower × Nat × Nat × Nat × FuncPower × Skn := (d.hs.link, d.hs.speed, d.hs.width, d.hs.mps, d.hs.func, d.skn)

theorem linkApart_linkView : LinkApart linkView := {}

/-- The link takes a power state. -/
theorem linkView_linkState (st : LinkPower) (speed width mps : Nat) (d : Dev) : linkView (linkState st speed width mps d) =
    (st, if st = .down then 0 else speed, if st = .down then 0 else width, mps, d.hs.func, d.skn) := by
  unfold linkState
  extract_lets was d1 d2
  have noted : linkView d2 = linkView d1 := by
    simp only [d2]
    split
    · rfl
    · exact linkApart_linkView.raise _ _
  exact (linkApart_linkView.sendWaitingMsgs _).trans ((each_keeps linkView _ linkApart_linkView.cqDrain _ _).trans noted)

/-- A change to another state than down. -/
theorem linkPowerChange_up {st : LinkPower} (h : st ≠ .down) (speed width mps : Nat) (d : Dev) :
    linkPowerChange st speed width mps d = linkState st speed width mps d := by
  simp [linkPowerChange, h]

/-- A link that goes down resets the HOST domain; one that is down stays. -/
theorem linkPowerChange_down (speed width mps : Nat) (d : Dev) : linkPowerChange .down speed width mps d =
    if d.hs.link = .down then linkState .down 0 0 mps d else pcieLinkReset (linkState .down 0 0 mps d) := by
  have forgets : linkState .down speed width mps d = linkState .down 0 0 mps d := by simp [linkState]
  simp only [linkPowerChange, forgets]
  by_cases down : d.hs.link = .down <;> simp [down]

/-! DOMAIN_RESET and its end (R478, R479). -/

/-- A DOMAIN_RESET of the illumination domain alone, which runs. -/
theorem domainReset_illumination {s : State} {c : MnrCmd} {t : Taken} (hs : Starts Op.DOMAIN_RESET c s.dev t) (ha : t.arg = 0x2000)
    (hr : (begun Op.DOMAIN_RESET c s.dev).runs 13 = true) :
    exec (.domainReset c) s = .next { s with
      dev := loseDomain 13 (setDomain 13 1 ((defer t.who 0 (begun Op.DOMAIN_RESET c s.dev)).uPwr fun p =>
        { p with resets := p.resets ++ [{ left := [13], who := some t.who }] })) } := by
  refine (act_command _ hs).trans ?_
  clear hs
  generalize begun Op.DOMAIN_RESET c s.dev = d at *
  have names : maskIx 0x2000 16 = [13] := by decide
  have passes : firstFail [(decide (65536 ≤ 0x2000), St.BAD_FIELD, 0), (bit 0x2000 0 || bit 0x2000 1, St.DENIED, 0),
      (bit 0x2000 6 || (0x2000 : Nat) == 0, St.BAD_FIELD, 0)] = none := by decide
  have running : [13].find? (fun n => !d.runs n) = none := by simp [hr]
  have once (f : Nat → Dev → Dev) (e : Dev) : each [13] f e = f 13 e := rfl
  simp only [ha, names, passes, running, once]

/-- A DOMAIN_RESET that names domain 0 or 1 is denied. -/
theorem domainReset_denied {s : State} {c : MnrCmd} {t : Taken} (hs : Starts Op.DOMAIN_RESET c s.dev t) (hlow : t.arg < 65536)
    (hd : bit t.arg 0 = true ∨ bit t.arg 1 = true) :
    exec (.domainReset c) s = .next { s with dev := finish t.who St.DENIED 0 [] (begun Op.DOMAIN_RESET c s.dev) } := by
  refine (act_command _ hs).trans ?_
  clear hs
  generalize begun Op.DOMAIN_RESET c s.dev = d
  have fails : firstFail [(decide (65536 ≤ t.arg), St.BAD_FIELD, 0), (bit t.arg 0 || bit t.arg 1, St.DENIED, 0),
      (bit t.arg 6 || t.arg == 0, St.BAD_FIELD, 0)] = some (St.DENIED, 0) := by
    have low : decide (65536 ≤ t.arg) = false := decide_eq_false (Nat.not_le.mpr hlow)
    have named : (bit t.arg 0 || bit t.arg 1) = true := by simpa using hd
    simp [firstFail, low, named]
  simp only [fails]
  rfl

/-- A domain that runs stays as it is. -/
theorem domainResetDone_runs {n : Nat} {d : Dev} (h : d.pwr.domState.getD n 0 = 0) : domainResetDone n d = d := by
  unfold domainResetDone
  extract_lets waits
  rw [if_pos (by rw [h]; simp)]

/-- Asking for delivery again leaves the power manager. -/
@[simp] theorem askAgain_pwr (d : Dev) : (askAgain d).pwr = d.pwr := by
  have sends (b : KBlock) (d : Dev) : (sendTo b d).pwr = d.pwr := by
    unfold sendTo
    split
    · exact sendOn_keeps (p := fun d => d.pwr) (fun _ _ _ => rfl) _ b d
    · rfl
  unfold askAgain
  split
  · exact each_keeps (·.pwr) _ (fun m d => sends _ d) _ d
  · rfl

/-- Bringing the analog monitors up to date leaves the power manager. -/
@[simp] theorem refreshAmon_pwr (d : Dev) : (refreshAmon d).pwr = d.pwr := by
  refine each_keeps (·.pwr) _ (fun a d => ?_) [0, 1] d
  simp [ite_pwr, updAmon, amonFault]

/-- Without a reset in progress, setting none changes nothing. -/
theorem uPwr_resets_nil {d : Dev} (h : d.pwr.resets = []) : (d.uPwr fun p => { p with resets := [] }) = d := by
  rw [← h]
  rfl

/-- A domain above 5 other than ACQ runs again where nothing waits for it and no command names it. -/
theorem domainResetDone_again {n : Nat} {d e : Dev} (h : d.pwr.domState.getD n 0 = 1) (hr : d.pwr.resets = [])
    (htemp : (d.shu.ax.any fun a => a.tempDue) = false) (hn : 6 ≤ n) (h8 : n ≠ 8) (he : e = d.uPwr fun p => { p with domState := put p.domState n 0 }) :
    domainResetDone n d = raise 469 (if n = 11 then askAgain e else if n = 14 then refreshAmon e else e) := by
  have quiet : ((n == 12 && d.shu.ax.any fun a => a.tempDue) || (n == 8 && d.acq.refAt.isSome) ||
      d.pwr.resets.any fun r => r.who.isNone && decide (1 < r.left.length) && r.left.getLast? == some n) = false := by
    simp [htemp, hr, h8]
  have high : ¬ (2 ≤ n ∧ n ≤ 5) := by omega
  unfold domainResetDone
  extract_lets waits d1 d2 rs done d3
  have idle : waits = false := quiet
  rw [if_neg (by rw [h, idle]; simp)]
  have runs : d1 = e := by rw [he]; exact if_neg high
  have raised : d2 = raise 469 (if n = 11 then askAgain e else if n = 14 then refreshAmon e else e) := by simp only [d2, runs, if_neg h8]
  have none : d2.pwr.resets = [] := by
    rw [raised]
    simp [apply_ite Dev.pwr, he, hr]
  have commands : rs = [] := by simp [rs, none]
  have waitsNone : d3 = d2 := by
    simp only [d3, commands, List.filter_nil]
    exact uPwr_resets_nil none
  have ends : done = [] := by simp [done, commands]
  rw [ends, waitsNone, raised]
  rfl

/-! FAULT_LIST (R483). -/

/-- A FAULT_LIST with a buffer that is long enough. -/
theorem faultList_writes {s : State} {c : MnrCmd} {t : Taken} (hs : Starts Op.FAULT_LIST c s.dev t) (ha : t.arg = 0) (hlen : t.len = 3)
    (halign : t.w 0 % 4 = 0) (hpos : 0 < t.w 2) (hsize : 4 + 20 * (begun Op.FAULT_LIST c s.dev).pwr.faults.length ≤ t.w 2) (hok : c.hostOk = true) :
    exec (.faultList c) s = .next { s with
      dev := finish t.who St.OK (begun Op.FAULT_LIST c s.dev).pwr.faults.length []
        (writeWords (bufAddr t) (BitVec.ofNat 32 (begun Op.FAULT_LIST c s.dev).pwr.faults.length :: (begun Op.FAULT_LIST c s.dev).pwr.faults.flatMap faultWords)
          (begun Op.FAULT_LIST c s.dev)) } := by
  refine (act_command _ hs).trans ?_
  clear hs
  generalize begun Op.FAULT_LIST c s.dev = d at *
  have right : bufBad t = false := by simp [bufBad, hlen, halign, Nat.pos_iff_ne_zero.mp hpos]
  rw [checked_of_pass (by simp [firstFail, ha, right, Nat.not_lt.mpr hsize, hok])]

/-- Settles O27: each row acts at its instant, or its command starts, through the lemma of its case. -/
theorem domainResetsAndFaults : Obligations.DomainResetsAndFaults := by
  unfold Obligations.DomainResetsAndFaults
  refine ⟨fun s c t hs ⟨ha, hr⟩ => domainReset_illumination hs ha hr, fun s c t hs ⟨hlow, hd⟩ => domainReset_denied hs hlow hd,
    fun s n t ⟨hp, hd, hr, _, htemp, hn, h8⟩ => ?_, fun s n t ⟨hp, hd⟩ => ?_,
    fun s c t hs ⟨ha, hlen, halign, hpos, hsize, hok⟩ => faultList_writes hs ha hlen halign hpos hsize hok, fun s t ⟨hm, hs⟩ => ?_,
    fun s t ⟨hm, hk⟩ => ?_, fun s st speed width mps t ⟨hp, hup⟩ => ?_, fun s speed width mps t hp => ?_⟩
  case refine_1 => exact ⟨_, rfl, (event_powered t _ hp).trans (by rw [domainResetDone_again (d := s.dev.at_ t) hd hr htemp hn h8 rfl])⟩
  case refine_2 => exact (event_powered t _ hp).trans (by rw [domainResetDone_runs (d := s.dev.at_ t) hd])
  case refine_3 =>
    obtain ⟨epoch, closed, free⟩ : (hostReset (s.dev.at_ t)).hs.hostEpoch = (s.dev.hs.hostEpoch + 1) % 65536 ∧ (hostReset (s.dev.at_ t)).mnr.open_ = false ∧
        (hostReset (s.dev.at_ t)).mnr.tags = [] := by simpa [sessionView] using sessionView_hostReset (s.dev.at_ t)
    exact ⟨hostReset (s.dev.at_ t), (event_always t _ hm).trans (by rw [pcieLinkReset_runs (d := s.dev.at_ t) hm hs]), epoch, closed, free, by simp⟩
  case refine_4 =>
    refine (event_always t _ (by simp [hm])).trans ?_
    rw [pcieLinkReset_sleep (d := s.dev.at_ t) hm hk]
  case refine_5 =>
    have told := linkView_linkState st speed.val width.val mps.val (s.dev.at_ t)
    simp only [linkView, if_neg hup, Prod.mk.injEq] at told
    obtain ⟨link, sp, wd, mp, func, skn⟩ := told
    refine ⟨linkState st speed.val width.val mps.val (s.dev.at_ t), (event_powered t _ hp).trans ?_, link, sp, wd, mp, func, by simp, by simp, skn⟩
    rw [linkPowerChange_up hup]
  case refine_6 => exact (event_powered t _ hp).trans (by rw [linkPowerChange_down]; rfl)

end Sys2Proof.Proofs
end
